-- ==== Sys2Proof/Word.lean ====
section
/-! DEFINITION. The word types of the TBX-J320 and their plainest arithmetic. -/

namespace Sys2Proof

/-- A byte of any memory of the device. -/
abbrev Byte := BitVec 8

/-- A scalar register, a virtual address as software sees it, a 64-bit field (R36). -/
abbrev Word := BitVec 64

/-- A 32-bit host register (R6). -/
abbrev Word32 := BitVec 32

/-- A sparse table: entries by rising key, an unlisted key holding a default that
the reader of the table names. The operations are in `Machine/Tbl.lean`. -/
abbrev Tbl (α : Type) := List (Nat × α)

end Sys2Proof
end

