-- ==== Sys2Proof/Syntax.lean ====
section
/-! DEFINITION. The commands of the device: one constructor per row of spec/opcode_table.json,
with the operands each step is given from outside. The word layouts are those of R43 to R46. -/

namespace Sys2Proof

/-- A control instruction, format C, less its opcode (R43). -/
structure CWord where
  pred : BitVec 4
  pneg : Bool
  dst  : BitVec 5
  srca : BitVec 5
  srcb : BitVec 5
  func : BitVec 4
  imm  : BitVec 32
  deriving DecidableEq, Repr

/-- A tensor, stream, sync or collective instruction, format T, less its opcode (R44). -/
structure TWord where
  pred  : BitVec 4
  pneg  : Bool
  sigv  : Bool
  sigt  : BitVec 3
  waita : BitVec 7
  waitb : BitVec 7
  waitc : BitVec 7
  sub   : BitVec 12
  rsv   : BitVec 14
  opd   : BitVec 8
  opa   : BitVec 8
  opb   : BitVec 8
  opx   : BitVec 8
  imm   : BitVec 32
  deriving DecidableEq, Repr

/-- The five engines of a core in the order of their codes (R45, R53). -/
inductive Engine where
  | array | mv | vector | stream | sync
  deriving DecidableEq, Repr

/-- Which of its two moments a tensor instruction's command is: the sequencer issues it into its
engine's queue (R52, R53), or the engine, having started it (R54), does its work. -/
inductive Stage where
  | issue (w : TWord)
  | run (id : Nat)
  deriving DecidableEq, Repr

/-- What the memory controller met when it read a grain (R74, R83): nothing, a corrected error, or
an uncorrected error, at a device physical address. -/
inductive ReadErr where
  | none
  | corrected (dpa : Nat)
  | uncorrected (dpa : Nat)
  deriving DecidableEq, Repr

/-- The header of a mailbox message after firmware has copied it (R346). `src` is the mailbox, or
16 + k for the message of manager entry k (R348). -/
structure MsgHdr where
  src      : Nat
  verMajor : Nat
  verMinor : Nat
  seq      : Nat
  ctx      : Nat
  quiet    : Bool
  tag      : Word
  deriving DecidableEq, Repr

/-- The header of a Furlong packet (R265), with the congestion mark of its IP header (R258). -/
structure FHdr where
  ver     : Nat
  opc     : Nat
  retrans : Bool
  first   : Bool
  last    : Bool
  length  : Nat
  srcNode : Nat
  srcCore : Nat
  dstNode : Nat
  dstCore : Nat
  jobId   : Nat
  epoch   : Nat
  path    : Nat
  cls     : Nat
  psn     : Nat
  origin  : Nat
  key     : Nat
  keyGen  : Nat
  offset  : Nat
  opId    : Nat
  opInfo  : Nat
  opAux   : Nat
  hcrc    : BitVec 32
  ce      : Bool
  deriving DecidableEq, Repr

/-- A Furlong packet: header, payload and trailer (R264 to R266). -/
structure Packet where
  hdr     : FHdr
  payload : List Byte
  poison  : BitVec 64
  bcrc    : BitVec 32
  deriving DecidableEq, Repr

/-- What follows the header of a packet: its payload and trailer. -/
structure PacketBody where
  payload : List Byte
  poison  : BitVec 64
  bcrc    : BitVec 32
  deriving DecidableEq, Repr

/-- What follows a packet's header, and the packet that a header and it make. -/
def Packet.body (k : Packet) : PacketBody := ⟨k.payload, k.poison, k.bcrc⟩
def FHdr.carrying (h : FHdr) (b : PacketBody) : Packet := ⟨h, b.payload, b.poison, b.bcrc⟩

/-- The payload of a HELLO packet (R263). Both it and that of a SACK travel as the payload of a `Packet`. -/
structure Hello where
  verMajor    : Nat
  verMinor    : Nat
  reply       : Bool
  paths       : Nat
  features    : BitVec 32
  incarnation : Nat
  node        : Nat
  mtu         : Nat
  deriving DecidableEq, Repr

/-- The payload of a SACK with its CUM_PSN (R270). -/
structure Sack where
  cumPsn     : Nat
  basePsn    : Nat
  sackMap    : BitVec 512
  nakMap     : BitVec 512
  echoTime   : Nat
  ceCount    : Nat
  ackedCount : Nat
  statusPsn  : Nat
  status     : Nat
  deriving DecidableEq, Repr

/-- A Chain flit: the fields of its header word (R243), its payload, and its LINK word (R244) with
the CRC as received (R242). -/
structure Flit where
  kind    : Nat
  cls     : Nat
  poison  : BitVec 5
  len     : Nat
  destDie : Nat
  destTile : Nat
  srcDie  : Nat
  srcTile : Nat
  tag     : Nat
  ctx     : Nat
  payload : List Byte
  seq     : Nat
  ack     : Nat
  nak     : Bool
  ackValid : Bool
  crc     : BitVec 32
  deriving DecidableEq, Repr

/-- The header word and payload of a flit as they arrive (R243). -/
structure FlitData where
  kind    : Nat
  cls     : Nat
  poison  : BitVec 5
  len     : Nat
  destDie : Nat
  destTile : Nat
  srcDie  : Nat
  srcTile : Nat
  tag     : Nat
  ctx     : Nat
  payload : List Byte
  deriving DecidableEq, Repr

/-- The LINK word of a flit as it arrives (R244). -/
structure FlitLink where
  seq     : Nat
  ack     : Nat
  nak     : Bool
  ackValid : Bool
  crc     : BitVec 32
  deriving DecidableEq, Repr

/-- The two halves of a flit, and the flit they make. -/
def Flit.data (f : Flit) : FlitData :=
  ⟨f.kind, f.cls, f.poison, f.len, f.destDie, f.destTile, f.srcDie, f.srcTile, f.tag, f.ctx, f.payload⟩
def Flit.link (f : Flit) : FlitLink := ⟨f.seq, f.ack, f.nak, f.ackValid, f.crc⟩
def FlitData.linked (d : FlitData) (l : FlitLink) : Flit :=
  { kind := d.kind, cls := d.cls, poison := d.poison, len := d.len, destDie := d.destDie, destTile := d.destTile, srcDie := d.srcDie
    srcTile := d.srcTile, tag := d.tag, ctx := d.ctx, payload := d.payload
    seq := l.seq, ack := l.ack, nak := l.nak, ackValid := l.ackValid, crc := l.crc }

/-- One entry of LAUNCH (R362). -/
structure LaunchEntry where
  lcore    : Nat
  headerVa : Nat
  argVa    : Word
  rsv      : Bool
  deriving DecidableEq, Repr

/-- One forward target of TRUSS_CREATE (R220): a truss name and its phase word. -/
structure FwdEntry where
  name    : Word
  noPhase : Bool
  offset  : BitVec 16
  deriving DecidableEq, Repr

/-- The identity of an arrival and of a member entry (R220, R226). -/
inductive Member where
  | core (lcore : Nat)
  | remote (node lcore : Nat)
  | truss (node vtid : Nat)
  deriving DecidableEq, Repr

/-- The manifest of an image as verification reads it (R417). The hashes and the signature are
checked by the device's published functions; the command carries the bytes they cover. -/
structure Manifest where
  magicOk   : Bool
  target    : Nat
  keySlot   : Nat
  svn       : Nat
  counter   : Nat
  version   : Nat
  length    : Nat
  compatId  : Nat
  loaderSvn : Nat
  revoke    : Nat
  hash      : List Byte
  signer    : List Byte
  signature : List Byte
  signed    : List Byte
  deriving DecidableEq, Repr

/-- One entry of COUNTER_READ (R430): a counter address (R427). -/
structure CounterAddr where
  kind   : Nat
  number : Nat
  index  : Nat
  deriving DecidableEq, Repr

/-- What a boot stage found when it ended (R341, R418): everything verified; the boot bank of a
target failed and the other bank was used; both banks of a target failed; the configuration record
is invalid; the identity cannot be reconstructed or differs (R416), or a block of it needed more than 10 %
correction (R414); or self-test failed cores. -/
structure BootFinding where
  bankFailed   : List Nat
  bothFailed   : Option Nat
  recordBad    : Bool
  identityBad  : Option Nat
  helperWorn   : Bool
  failedCores  : List Nat
  badOverlay   : List Nat
  trained      : List (Nat × Nat × Nat × Bool)
  deriving DecidableEq, Repr

/-- An address-resolution message (R258, R261). -/
inductive ArpMsg where
  | request (v6 : Bool) (target : Nat) (sender : Nat) (mac : Nat)
  | reply (v6 : Bool) (sender : Nat) (mac : Nat)
  deriving DecidableEq, Repr

/-- What a RoCEv2 packet is (R276): a request, a response, an acknowledgement or a congestion
notification. -/
inductive RoceKind where
  | send | write | readReq | readResp | ack | nak | cnp
  deriving DecidableEq, Repr

/-- A RoCEv2 packet (R276): whether it is the first and the last of its message, its destination queue pair and
PSN, its congestion mark, the immediate data of a SEND, the remote key, address and length of a request (the
syndrome of a NAK in `len`), its payload, the IP addresses and source port it carries, and its ICRC. -/
structure RocePkt where
  kind  : RoceKind
  first : Bool := true
  last  : Bool := true
  qp    : Nat
  psn   : Nat := 0
  ce    : Bool := false
  imm   : Option Nat := none
  rkey  : Nat := 0
  va    : Nat := 0
  len   : Nat := 0
  data  : List Byte := []
  v6    : Bool := false
  src   : Nat := 0
  dst   : Nat := 0
  sport : Nat := 0
  icrc  : BitVec 32 := 0
  deriving DecidableEq, Repr

/-- A PTP message (R278). Times are in ns with the correction field added; `id` is the port identity that a
response answers. -/
inductive PtpMsg where
  | sync (seq : Nat) (twoStep : Bool) (t1 : Nat)
  | followUp (seq t1 : Nat)
  | delayReq (id seq : Nat)
  | delayResp (id seq t4 : Nat)
  | pdelayReq (id seq : Nat)
  | pdelayResp (id seq : Nat) (twoStep : Bool) (t2 : Nat)
  | pdelayFollowUp (id seq t3 : Nat)
  deriving DecidableEq, Repr

/-- A PTP message with the port it came by and its transport: 4 or 6 for UDP over IP, 0 for Ethernet. -/
structure PtpArrival where
  port : Nat
  net  : Nat
  msg  : PtpMsg
  deriving DecidableEq, Repr

/-- The transport an SPDM request came over (R421): PCIe DOE, MCTP on the sideband, or a firmware
session of Furlong with a node (R423). -/
inductive SpdmVia where
  | doe | mctp
  | furlong (node : Nat)
  deriving DecidableEq, Repr

/-- The payload of NET_IDENTITY (R261). -/
structure NetIdentity where
  node      : Nat
  nodeRsv   : Bool
  udpPort   : Nat
  sportBase : Nat
  paths     : Nat
  flags     : BitVec 8
  vlan      : BitVec 16
  macBase   : Nat
  v4Prefix  : Nat
  v6Prefix  : Nat
  v4Addr    : Nat
  v4Gateway : Nat
  v6Addr    : Nat
  v6Gateway : Nat
  dscp      : List Byte
  rsv       : Bool
  deriving DecidableEq, Repr

/-- The numeric policy block (R165). -/
structure NumericPolicy where
  satLog2     : Nat
  underLog2   : Nat
  minLog2     : Nat
  unresolved  : Nat
  zeroRun     : Nat
  eventLimit  : Nat
  flags       : BitVec 8
  rsv         : Bool
  deriving DecidableEq, Repr

/-- What a twin's heartbeat says of one paired context (R396): the job, the epochs, and the mirror
epochs the twin holds for this device. -/
structure BeatCtx where
  jobId     : Nat
  committed : Nat
  ready     : Option Nat
  mirrors   : List Nat
  deriving DecidableEq, Repr

/-- The commands, one constructor per row of spec/opcode_table.json. `c` is always a logical core
(R15), `p` a physical core (R12), `b` a bay, `j` a Chain join numbered as UNIT kind 4 (R381). -/
inductive Instr where
  -- the sequencer's control instructions (R48)
  | nop (c : Nat) (w : CWord)
  | endProgram (c : Nat) (w : CWord)
  | alu (c : Nat) (w : CWord)
  | alui (c : Nat) (w : CWord)
  | movhi (c : Nat) (w : CWord)
  | cmp (c : Nat) (w : CWord)
  | cmpi (c : Nat) (w : CWord)
  | pred (c : Nat) (w : CWord)
  | br (c : Nat) (w : CWord)
  | jal (c : Nat) (w : CWord)
  | jr (c : Nat) (w : CWord)
  | ld (c : Nat) (w : CWord)
  | st (c : Nat) (w : CWord)
  | sysrd (c : Nat) (w : CWord)
  | wtok (c : Nat) (w : CWord)
  | illegalOpcode (c : Nat) (opc : BitVec 8)
  | privilegedInstruction (c : Nat) (opc : BitVec 8)
  | spanBegin (c : Nat) (w : CWord)
  | spanEnd (c : Nat) (w : CWord)
  | stepProgram (c : Nat) (w : CWord)
  | markPush (c : Nat) (w : CWord)
  | markPop (c : Nat) (w : CWord)
  | ophint (c : Nat) (w : CWord)
  -- tensor, stream, sync and collective instructions (R48)
  | mma (c : Nat) (g : Stage)
  | mmaLd (c : Nat) (g : Stage)
  | mda (c : Nat) (g : Stage)
  | mvm (c : Nat) (g : Stage)
  | vop (c : Nat) (g : Stage)
  | topk (c : Nat) (g : Stage)
  | norm (c : Nat) (g : Stage)
  | softmax (c : Nat) (g : Stage)
  | cvt (c : Nat) (g : Stage)
  | stat (c : Nat) (g : Stage)
  | upd (c : Nat) (g : Stage)
  | xfer (c : Nat) (g : Stage)
  | fetch (c : Nat) (g : Stage)
  | fetchChunkIssue (c : Nat) (id : Nat)
  | ridge (c : Nat) (g : Stage)
  | spar (c : Nat) (g : Stage)
  | yealm (c : Nat) (g : Stage)
  | cancel (c : Nat) (g : Stage)
  | fence (c : Nat) (g : Stage)
  | trussArrive (c : Nat) (g : Stage)
  | trussWait (c : Nat) (g : Stage)
  | trussArwt (c : Nat) (g : Stage)
  | collAllreduce (c : Nat) (g : Stage)
  | collRedscat (c : Nat) (g : Stage)
  | collAllgather (c : Nat) (g : Stage)
  | collAlltoall (c : Nat) (g : Stage)
  | collBcast (c : Nat) (g : Stage)
  | collReduce (c : Nat) (g : Stage)
  | engineInstructionStart (c : Nat) (e : Engine)
  | engineInstructionComplete (c : Nat) (e : Engine) (id : Nat)
  | burstStart (c : Nat) (id : Nat) (rd : ReadErr)
  -- memory services
  | regulatorRefill
  | patrolScrub (rd : ReadErr)
  | hbmRowSpare (chan row : Nat)
  | hbmPageRetire (page : Nat)
  | hbmPostPackageRepair (chans : List Nat)
  | thatchSliceRetire (slice : Nat)
  -- placement and self-test
  | shadowQuantumExpiry (p : Nat)
  | shadowEarlySwitch (p : Nat)
  | coreLogicFault (p : Nat)
  | patrolTestStart
  | patrolTestDone (pass : Bool) (sig : Word) (margin : Nat)
  | coreReverify (p : Nat) (pass : Bool)
  | watchdogTest
  | remoteTrussArrival (k : Packet)
  -- Chain
  | flitReceive (j g : Nat) (up : Bool) (f : FlitData) (link : FlitLink)
  | nakReceive (j g : Nat) (up : Bool) (ack : Nat)
  | replayTimeout (j g : Nat) (up : Bool)
  | marginReport (j : Nat) (up : Bool) (lanes : List (Nat × Nat × Bool))
  | laneDue (j : Nat) (up : Bool) (lane : Nat)
  | swap (j : Nat) (up : Bool) (lane spare : Nat)
  | laneSwitch (j : Nat) (up : Bool)
  | chainGroupRemoved (j g : Nat)
  -- ports and Furlong
  | portTrained (port : Nat) (offer : List Nat × Bool)
  | portLinkLoss (port : Nat) (cause : Nat)
  | portAnRetry (port : Nat) (rates : List Nat) (trained : Bool)
  | packetSend (peer : Nat)
  | furlongHelloRetry (peer : Nat)
  | furlongHelloReceive (k : Packet)
  | sessionOpenTimeout (peer : Nat)
  | furlongWriteReceive (k : Packet)
  | readReqReceive (k : Packet)
  | readRespReceive (k : Packet)
  | sendReceive (k : Packet)
  | sackReceive (h : FHdr) (b : PacketBody)
  | sackTimer (peer : Nat)
  | rtoExpiry (peer psn : Nat)
  | pathSuspendExpiry (peer path : Nat)
  | congestionInterval (peer : Nat)
  | peerLoss (peer : Nat)
  -- collective packets
  | collReady (k : Packet)
  | collData (k : Packet)
  | collPartial (k : Packet)
  | collResult (k : Packet)
  | collCheck (k : Packet)
  | chunkCheck (c id chunk : Nat)
  | collRepair (k : Packet)
  | collAbort (k : Packet)
  | collRevoke (k : Packet)
  | collDone (k : Packet)
  -- time
  | ptpSyncReceive (a : PtpArrival) (rate : Int)
  | ptpSyncTimeout
  | ppsIn
  | ppsOut
  -- clocks, power, heat
  | frequencyStep (b : Nat)
  | muxSwitch (b : Nat)
  | pllUnlock (b pll : Nat)
  | marginMonitorRead (b margin : Nat)
  | droopDetect (b : Nat)
  | droopClear (b : Nat)
  | voltageLowerHoldExpiry (b : Nat)
  | fastLoop (raw : List Nat) (uncore : Nat)
  | slowLoop (measured : List (Option Nat))
  | energyAttribution (cores : List (Nat × Nat)) (grains : List (Nat × Nat)) (rest : Nat)
  | lostCycleUpdate (delivered : List Nat)
  | bayClockStop (b : Nat)
  | thermalSample (dies : List Int) (hbm : List Int)
  | thermalEmergency (sensor : Nat) (temp : Int)
  | thermalTrip (sensor : Nat) (temp : Int)
  | hbmThrottle (stack : Nat) (temp : Int)
  | fastThrottle
  | fastThrottleRelease
  | pmuFallback (missed : Nat)
  | pmuResume
  | pmbusAlert
  | railUndervoltage (r : Nat)
  | ref25Loss
  -- reset and boot
  | perstNAssert
  | perstNRelease (bootMode : BitVec 2) (clkMode : Bool)
  | bootStageComplete (f : BootFinding)
  | lockstepMismatch (pair : Nat)
  -- outbox, host presence, scheduling
  | outboxRecordWrite
  | outboxSignalTimer
  | hostAbsenceTest
  | schedSliceExpiry (part : Nat)
  | preemptDrainTimeout (part : Nat)
  | preemptionComplete (part : Nat)
  | debugHaltComplete (ctx : Nat)
  | traceRecordWrite (source : Nat)
  -- live update
  | fwActivationBegin (target : Nat) (importOk : Bool)
  | fwActivateWindowExpiry (target : Nat)
  | fwCommitTimeout (target : Nat)
  -- job restart, checkpoints, twins
  | jobHalt (ctx : Nat)
  | jobHaltReceive (job epoch origin cause : Nat) (sender : Nat)
  | haltComplete (ctx : Nat)
  | haltAckReceive (job sender committed : Nat) (ready : Option Nat) (absent : List Nat)
  | haltAckTimeout (ctx child : Nat)
  | gatherTimeout (ctx : Nat)
  | restore (job target : Nat)
  | restoreCopyDone (ctx : Nat)
  | restoreDone (job sender : Nat)
  | resume (job : Nat)
  | replaceWaitExpiry (ctx : Nat)
  | snapshotCopyDone (ctx : Nat)
  | ckptReady (job sender epoch : Nat)
  | ckptCommit (job epoch : Nat)
  | mirrorWriteDone (ctx epoch : Nat)
  | twinHeartbeatSend
  | twinHeartbeatReceive (node incarnation : Nat) (attested : Option Nat) (beats : List BeatCtx)
  | twinLost (ctx : Nat)
  | deviceRecovery (cause : Nat)
  | deviceRecoveryComplete (imported : Bool)
  -- flash, debug token, sideband
  | flashWrite (area : Nat) (counter : Nat) (tag : List Byte) (data : List Byte)
  | debugUnlockToken (m : Manifest)
  | entdaa (addr : Nat)
  | setdasa
  | rstdaa
  | pcieLinkDown
  -- mailbox messages (R354)
  | hello (h : MsgHdr) (outboxAddr threshold : Nat) (rsv : Bool)
  | hostAlive (h : MsgHdr) (timeoutS : Nat) (rsv : Bool)
  | status (h : MsgHdr)
  | contextList (h : MsgHdr)
  | capacity (h : MsgHdr) (hostAddr : Nat) (rsv : Bool)
  | contextCreate (h : MsgHdr) (part mbx hostLoss route job manager watchdog : Nat) (rsv : Bool)
  | contextDestroy (h : MsgHdr)
  | contextPolicy (h : MsgHdr) (hostLoss route manager : Nat) (rsv : Bool)
  | contextResume (h : MsgHdr)
  | contextStop (h : MsgHdr)
  | contextEnergy (h : MsgHdr)
  | memAlloc (h : MsgHdr) (va size kind page : Nat) (perm : BitVec 8) (rsv : Bool)
  | memFree (h : MsgHdr) (va size : Nat)
  | memWrite (h : MsgHdr) (va size hostAddr : Nat) (data : List Byte)
  | memRead (h : MsgHdr) (va size hostAddr : Nat)
  | launch (h : MsgHdr) (entries : List LaunchEntry) (rsv : Bool)
  | numericPolicy (h : MsgHdr) (p : NumericPolicy)
  | numericWatch (h : MsgHdr) (slot threshold arm : Nat) (rsv : Bool)
  | watchdogSet (h : MsgHdr) (periodMs : Nat) (rsv : Bool)
  | trussCreate (h : MsgHdr) (vtid mode home limit participants : Nat) (fwd : List FwdEntry) (members : List Member) (rsv : Bool)
  | trussDestroy (h : MsgHdr) (vtid : Nat) (rsv : Bool)
  | regionCreate (h : MsgHdr) (key : Nat) (perm : BitVec 8) (base length : Nat) (rsv : Bool)
  | regionDestroy (h : MsgHdr) (key : Nat) (rsv : Bool)
  | partitionSet (h : MsgHdr) (part : List Nat) (quota : List Nat)
  | sliceMode (h : MsgHdr) (bd slice mode : Nat) (rsv : Bool)
  | schedSet (h : MsgHdr) (part sliceMs quantumUs : Nat) (rsv : Bool)
  | fixedFreq (h : MsgHdr) (part on : Nat) (rsv : Bool)
  | oppointSet (h : MsgHdr) (part : Nat) (freq : List Nat) (rsv : Bool)
  | powerLimit (h : MsgHdr) (watts : Nat) (rsv : Bool)
  | budgetSet (h : MsgHdr) (ctx hbm network : Nat) (rsv : Bool)
  | timeSource (h : MsgHdr) (source profile port : Nat) (rsv : Bool)
  | portConfig (h : MsgHdr) (octet mode : Nat) (mtu : List Nat) (rsv : Bool)
  | nodeTable (h : MsgHdr) (job : Nat) (nodes : List (Nat × Nat))
  | managerSet (h : MsgHdr) (entries : List (Nat × Nat)) (rsv : Bool)
  | netIdentity (h : MsgHdr) (n : NetIdentity)
  | gridSet (h : MsgHdr) (naxes : Nat) (extent : List Nat) (nodes : List Nat) (rsv : Bool)
  | groupCreate (h : MsgHdr) (gid alg fanin members : Nat) (block : List Nat) (statusPtr : Nat) (nodes : List Nat) (rsv : Bool)
  | groupDestroy (h : MsgHdr) (gid : Nat) (rsv : Bool)
  | storageConnect (h : MsgHdr) (ctrl family svcid queues depth addr : Nat) (subnqn : List Byte) (rsv : Bool) (namespaces : Option (List Nat))
  | storageRead (h : MsgHdr) (ctrl nsid slba nlb va : Nat) (truss phase : Word) (rsv : Bool)
  | storageWrite (h : MsgHdr) (ctrl nsid slba nlb va : Nat) (truss phase : Word) (rsv : Bool)
  | storageDone (ctx seq nvmeStatus blocks : Nat)
  | checkpointSet (h : MsgHdr) (interval restartLimit replaceWait : Nat) (ranges : List (Nat × Nat)) (rsv : Bool)
  | twinSet (h : MsgHdr) (node : Nat) (flags : BitVec 8) (lost : Nat) (rsv : Bool)
  | fwStage (h : MsgHdr) (target : Nat) (flags : BitVec 8) (offset total : Nat) (data : List Byte) (ref : Option (Nat × Nat)) (rsv : Bool)
  | fwActivate (h : MsgHdr) (target windowS commitS : Nat) (rsv : Bool)
  | fwCommit (h : MsgHdr) (target : Nat) (rsv : Bool)
  | fwRollback (h : MsgHdr) (target : Nat) (rsv : Bool)
  | counterRead (h : MsgHdr) (hostAddr : Nat) (entries : List CounterAddr) (rsv : Bool)
  | traceSet (h : MsgHdr) (sizeMib mode : Nat) (categories : BitVec 8) (mask : Word) (rsv : Bool)
  | traceStatus (h : MsgHdr)
  | traceRead (h : MsgHdr) (first count hostAddr : Nat) (rsv : Bool)
  | histSet (h : MsgHdr) (unit source base filter : Nat) (rsv : Bool)
  | histSample (unit : Nat) (v : Int)
  | histRead (h : MsgHdr) (unit clear hostAddr : Nat) (rsv : Bool)
  | bpSet (h : MsgHdr) (lcore slot enable lenLog2 access addr : Nat) (rsv : Bool)
  | debugHalt (h : MsgHdr)
  | debugResume (h : MsgHdr)
  | debugStep (h : MsgHdr) (lcore : Nat) (rsv : Bool)
  | stateRead (h : MsgHdr) (lcore : Nat) (parts : BitVec 8) (hostAddr : Nat) (rsv : Bool)
  | regWrite (h : MsgHdr) (lcore reg : Nat) (value : Word) (rsv : Bool)
  -- PLDM on the sideband (R321)
  | getTid
  | getPldmVersion (type : Nat)
  | getPldmTypes
  | getPldmCommands (type : Nat)
  | getPdrRepositoryInfo
  | getPdr (record : Nat)
  | getSensorReading (id : Nat)
  | getStateSensorReadings (id : Nat)
  | setNumericEffecterValue (id value : Nat)
  | getNumericEffecterValue (id : Nat)
  -- SPDM (R421)
  | getVersion (v : SpdmVia)
  | getCapabilities (v : SpdmVia)
  | negotiateAlgorithms (v : SpdmVia) (agreed : Bool)
  | getDigests (v : SpdmVia)
  | getCertificate (v : SpdmVia) (slot offset length : Nat)
  | challenge (v : SpdmVia) (slot : Nat) (nonce : List Byte)
  | getMeasurements (v : SpdmVia) (index : Nat) (signed : Bool) (nonce : List Byte)
  | keyExchange (v : SpdmVia) (exchange : List Byte)
  | finish (v : SpdmVia) (verified : Bool)
  | heartbeat (v : SpdmVia)
  | endSession (v : SpdmVia)
  -- host registers
  | cons (value : Word32)
  | errSummaryClear (value : Word32)
  | lastSeq
  | lowWordRead (off : Nat)
  | devProgPosLo
  | snap (value : Word32)
  | baseLo (win : Nat) (value : Word32)
  | bar2Read (off len : Nat) (uncorrectable : Bool)
  | bar2Write (off : Nat) (data : List Byte)
  | registerWrite (off : Nat) (value : Word32)
  | submit (m : Nat) (value : Word32)
  | arp (port : Nat) (a : ArpMsg)
  | rocev2Receive (k : RocePkt)
  | thermalEmergencyRelease
  | powerUp
  | railInRange (r : Nat)
  | ref25Return
  | pcieLinkUp
  | managerSessionTimeout (k : Nat)
  | pairRestartComplete (pair : Nat)
  | unsupportedRequest (v : SpdmVia) (code : Nat)
  | mask (vec : Nat) (value : Word32)
  deriving DecidableEq, Repr

end Sys2Proof
end

