-- ==== Sys2Proof/Decode.lean ====
section
/-! DEFINITION. The command a table word spells, which is none, since the table gives no row bits; and the words of
program instructions (R43, R44, R48, R50), which the commands of a core carry taken apart. -/

namespace Sys2Proof

/-- The command of a word by the table's bits: spec/opcode_table.json gives no row bits, so no word spells a
command. -/
def decodeTableWord (_nbits _w : Nat) : Option Instr := none

/-! ## Words (R43, R44) -/

/-- A format C word from its opcode and fields (R43). -/
def encodeC (opc : BitVec 8) (w : CWord) : BitVec 64 :=
  opc ++ w.pred ++ BitVec.ofBool w.pneg ++ w.dst ++ w.srca ++ w.srcb ++ w.func ++ w.imm

/-- The fields of a format C word. -/
def decodeC (b : BitVec 64) : CWord :=
  { pred := b.extractLsb' 52 4, pneg := b.getLsbD 51, dst := b.extractLsb' 46 5, srca := b.extractLsb' 41 5
    srcb := b.extractLsb' 36 5, func := b.extractLsb' 32 4, imm := b.extractLsb' 0 32 }

/-- The first word of a format T instruction from its opcode and fields (R44). -/
def encodeT0 (opc : BitVec 8) (w : TWord) : BitVec 64 :=
  opc ++ w.pred ++ BitVec.ofBool w.pneg ++ BitVec.ofBool w.sigv ++ w.sigt ++ w.waita ++ w.waitb ++ w.sub ++ w.waitc ++ w.rsv

/-- The second word of a format T instruction. -/
def encodeT1 (w : TWord) : BitVec 64 := w.opd ++ w.opa ++ w.opb ++ w.opx ++ w.imm

/-- The fields of a format T instruction. -/
def decodeT (b0 b1 : BitVec 64) : TWord :=
  { pred := b0.extractLsb' 52 4, pneg := b0.getLsbD 51, sigv := b0.getLsbD 50, sigt := b0.extractLsb' 47 3
    waita := b0.extractLsb' 40 7, waitb := b0.extractLsb' 33 7, waitc := b0.extractLsb' 14 7
    sub := b0.extractLsb' 21 12, rsv := b0.extractLsb' 0 14
    opd := b1.extractLsb' 56 8, opa := b1.extractLsb' 48 8, opb := b1.extractLsb' 40 8, opx := b1.extractLsb' 32 8
    imm := b1.extractLsb' 0 32 }

/-! ## Program instructions (R48, R50) -/

/-- The command by which core `c` meets the instruction of two words; a format C instruction is the first word
alone. -/
def decodeProgram (c : Nat) (b0 b1 : BitVec 64) : Instr :=
  let w := decodeC b0
  let g : Stage := .issue (decodeT b0 b1)
  let opc := b0.extractLsb' 56 8
  match opc.toNat with
  | 0x01 => .nop c w
  | 0x02 => .endProgram c w
  | 0x04 => .alu c w
  | 0x05 => .alui c w
  | 0x06 => .movhi c w
  | 0x07 => .cmp c w
  | 0x08 => .cmpi c w
  | 0x09 => .pred c w
  | 0x0A => .br c w
  | 0x0B => .jal c w
  | 0x0C => .jr c w
  | 0x0D => .ld c w
  | 0x0E => .st c w
  | 0x0F => .sysrd c w
  | 0x10 => .wtok c w
  | 0x18 => .spanBegin c w
  | 0x19 => .spanEnd c w
  | 0x1A => .stepProgram c w
  | 0x1B => .markPush c w
  | 0x1C => .markPop c w
  | 0x1D => .ophint c w
  | 0x20 => .mma c g
  | 0x21 => .mmaLd c g
  | 0x22 => .mda c g
  | 0x28 => .mvm c g
  | 0x30 => .vop c g
  | 0x31 => .topk c g
  | 0x32 => .norm c g
  | 0x33 => .softmax c g
  | 0x34 => .cvt c g
  | 0x35 => .stat c g
  | 0x36 => .upd c g
  | 0x40 => .xfer c g
  | 0x41 => .fetch c g
  | 0x42 => .ridge c g
  | 0x43 => .spar c g
  | 0x44 => .yealm c g
  | 0x45 => .cancel c g
  | 0x46 => .fence c g
  | 0x50 => .trussArrive c g
  | 0x51 => .trussWait c g
  | 0x52 => .trussArwt c g
  | 0x58 => .collAllreduce c g
  | 0x59 => .collRedscat c g
  | 0x5A => .collAllgather c g
  | 0x5B => .collAlltoall c g
  | 0x5C => .collBcast c g
  | 0x5D => .collReduce c g
  | 0xF0 | 0xF1 | 0xF2 | 0xF3 => .privilegedInstruction c opc
  | _ => .illegalOpcode c opc

/-- The words of a format C instruction, the second unused. -/
def wordsC (opc : BitVec 8) (w : CWord) : BitVec 64 × BitVec 64 := (encodeC opc w, 0)

/-- The words of a format T instruction. -/
def wordsT (opc : BitVec 8) (w : TWord) : BitVec 64 × BitVec 64 := (encodeT0 opc w, encodeT1 w)

/-- The core and the words of the program instruction that a command issues; none for a command that issues
none. -/
def encodeProgram (i : Instr) : Option (Nat × BitVec 64 × BitVec 64) :=
  match i with
  | .nop c w => some (c, wordsC 0x01 w)
  | .endProgram c w => some (c, wordsC 0x02 w)
  | .alu c w => some (c, wordsC 0x04 w)
  | .alui c w => some (c, wordsC 0x05 w)
  | .movhi c w => some (c, wordsC 0x06 w)
  | .cmp c w => some (c, wordsC 0x07 w)
  | .cmpi c w => some (c, wordsC 0x08 w)
  | .pred c w => some (c, wordsC 0x09 w)
  | .br c w => some (c, wordsC 0x0A w)
  | .jal c w => some (c, wordsC 0x0B w)
  | .jr c w => some (c, wordsC 0x0C w)
  | .ld c w => some (c, wordsC 0x0D w)
  | .st c w => some (c, wordsC 0x0E w)
  | .sysrd c w => some (c, wordsC 0x0F w)
  | .wtok c w => some (c, wordsC 0x10 w)
  | .spanBegin c w => some (c, wordsC 0x18 w)
  | .spanEnd c w => some (c, wordsC 0x19 w)
  | .stepProgram c w => some (c, wordsC 0x1A w)
  | .markPush c w => some (c, wordsC 0x1B w)
  | .markPop c w => some (c, wordsC 0x1C w)
  | .ophint c w => some (c, wordsC 0x1D w)
  | .mma c (.issue w) => some (c, wordsT 0x20 w)
  | .mmaLd c (.issue w) => some (c, wordsT 0x21 w)
  | .mda c (.issue w) => some (c, wordsT 0x22 w)
  | .mvm c (.issue w) => some (c, wordsT 0x28 w)
  | .vop c (.issue w) => some (c, wordsT 0x30 w)
  | .topk c (.issue w) => some (c, wordsT 0x31 w)
  | .norm c (.issue w) => some (c, wordsT 0x32 w)
  | .softmax c (.issue w) => some (c, wordsT 0x33 w)
  | .cvt c (.issue w) => some (c, wordsT 0x34 w)
  | .stat c (.issue w) => some (c, wordsT 0x35 w)
  | .upd c (.issue w) => some (c, wordsT 0x36 w)
  | .xfer c (.issue w) => some (c, wordsT 0x40 w)
  | .fetch c (.issue w) => some (c, wordsT 0x41 w)
  | .ridge c (.issue w) => some (c, wordsT 0x42 w)
  | .spar c (.issue w) => some (c, wordsT 0x43 w)
  | .yealm c (.issue w) => some (c, wordsT 0x44 w)
  | .cancel c (.issue w) => some (c, wordsT 0x45 w)
  | .fence c (.issue w) => some (c, wordsT 0x46 w)
  | .trussArrive c (.issue w) => some (c, wordsT 0x50 w)
  | .trussWait c (.issue w) => some (c, wordsT 0x51 w)
  | .trussArwt c (.issue w) => some (c, wordsT 0x52 w)
  | .collAllreduce c (.issue w) => some (c, wordsT 0x58 w)
  | .collRedscat c (.issue w) => some (c, wordsT 0x59 w)
  | .collAllgather c (.issue w) => some (c, wordsT 0x5A w)
  | .collAlltoall c (.issue w) => some (c, wordsT 0x5B w)
  | .collBcast c (.issue w) => some (c, wordsT 0x5C w)
  | .collReduce c (.issue w) => some (c, wordsT 0x5D w)
  | _ => none

end Sys2Proof
end

