-- ==== Sys2Proof/Machine/State.lean ====
section
/-! DEFINITION. The state of the TBX-J320 as plain data: every register, queue, table, counter and
pin the spec names, grouped by the part that holds it. The default of a field is its value after
reset; `State.reset` is the device right after PERST_N is released at its first power-up. -/

namespace Sys2Proof.Machine

/-! ## Sequencers and engines -/

/-- The tensor instructions by opcode (R48); `coll` carries opcode − 0x58. -/
inductive TOp where
  | mma | mmaLd | mda | mvm | vop | topk | norm | softmax | cvt | stat | upd
  | xfer | fetch | ridge | spar | yealm | cancel | fence
  | trussArrive | trussWait | trussArwt
  | coll (k : Nat)
  deriving DecidableEq, Repr

/-- An operand byte with its scalar register read (R46): none, a register's value, or a pointer to
a tensor descriptor. -/
inductive Opnd where
  | none
  | reg (v : Word)
  | desc (va : Word)
  deriving DecidableEq, Repr

/-- A tensor descriptor as an engine reads it (R58). `sizes` and `strides` hold the fields' sizes
(field + 1) and byte strides; `bitmap` is word 7 [47:0] (R199). `slot` is the result slot it was
read through (R62; 0: none) and `scales` the scale codes read with it, none where poisoned (R61). -/
structure Desc where
  rank      : Nat := 1
  rowsp     : Bool := false
  find      : Bool := false
  mx        : Bool := false
  code      : Nat := 0
  base      : Nat := 0
  scaleDim  : Nat := 0
  scaleKind : Nat := 0
  scalePtr  : Nat := 0
  sizes     : List Nat := []
  strides   : List Nat := []
  tensorId  : Nat := 0
  watch     : Nat := 0
  bitmap    : Nat := 0
  rsv       : Bool := false
  slot      : Nat := 0
  scales    : List (Option Nat) := []
  deriving DecidableEq, Repr

/-- An instruction in an engine queue (R53): its operation and word, its operands, and what the
issue fixed: the span pass, whether replay promotes it, and the registers a SPAR carries. -/
structure QInstr where
  op      : TOp
  w       : TWord
  od      : Opnd := .none
  oa      : Opnd := .none
  ob      : Opnd := .none
  ox      : Opnd := .none
  pass    : Nat := 0
  promote : Bool := false
  regs    : List Word := []
  deriving DecidableEq, Repr

/-- One part of a split transfer (R91): a run of elements in destination order, the units of its
two ends, and its outcome: 0 pending, 1 finished, 2 failed. -/
structure Part where
  srcUnit : Nat
  dstUnit : Nat
  first   : Nat
  count   : Nat
  outcome : Nat := 0
  deriving DecidableEq, Repr

/-- An engine instruction that has started and not completed (R53, R54), with what it captured at
its start (R61; `x` and `y` also hold STATE2 and LO of an UPD, `extra` the words of its block or of
STAT's record) and how far it has come: elements moved and issued, the FETCH chunks skipped (R479), the
cause that stopped it (1 condition, 2 CANCEL), whether a piece of it faulted, and the runs of destination
grains it has written. A trapped instruction did not take effect and
never completes. `status` is that of R94. -/
structure Flight where
  id        : Nat
  q         : QInstr
  d         : Option Desc := none
  a         : Option Desc := none
  b         : Option Desc := none
  x         : Option Desc := none
  y         : Option Desc := none
  extra     : List Word := []
  ran       : Bool := false
  ready     : Bool := false
  started   : Nat := 0
  total     : Nat := 0
  pos       : Nat := 0
  issued    : Nat := 0
  blocks    : List Nat := []
  parts     : List Part := []
  listed    : Bool := false
  stop      : Nat := 0
  status    : Nat := 0
  poisonSeen : Bool := false
  orphaned  : Bool := false
  cancelHit : Bool := false
  grains    : Nat := 0
  opId      : Nat := 0
  trapped   : Bool := false
  skips     : List Nat := []
  faulted   : Bool := false
  wrote     : List (Nat × Nat) := []
  deriving DecidableEq, Repr

/-- One entry of the stream status page (R94). -/
structure StatEntry where
  sticky      : BitVec 6 := 0
  stickyPoison : Bool := false
  orphaned    : Bool := false
  poisonSeen  : Bool := false
  nparts      : Nat := 0
  opc         : Nat := 0
  status      : Nat := 0
  bitmap      : Word := 0
  tag         : BitVec 32 := 0
  grains      : Word := 0
  deriving DecidableEq, Repr

/-- What the sequencer is held in (R53, R56, R57, R63, R64, R388): a WTOK on a token code, a full
queue, the wait for its engines to empty, or the hold of a checkpoint STEP (R392). -/
inductive Held where
  | wtok (code : Nat)
  | queueFull (e : Engine)
  | drain
  | stepHold
  deriving DecidableEq, Repr

/-- The stationary tile the array holds (R105, R110): its format, source, mask, and the element codes
loaded, none where poisoned, in index order. `live` is set by an MMA.LD; the cells hold a 1 × 1 tile of
FP4 zero until the first. -/
structure Tile where
  live    : Bool := false
  cfmt    : Nat := 0
  desc    : Desc := {}
  maskVa  : Option Nat := none
  mask    : List Nat := []
  codes   : List (Option Nat) := [some 0]
  deriving DecidableEq, Repr

/-- The snapshot SPAN.BEGIN takes (R63), with the marker-stack depth R183 restores. -/
structure SpanSnap where
  sregs  : Tbl Word := []
  preds  : BitVec 16 := 1
  tokens : Tbl Nat := []
  pc     : Word := 0
  depth  : Nat := 0
  deriving DecidableEq, Repr

/-- A breakpoint slot (R437). -/
structure Bp where
  enable  : Bool := false
  lenLog2 : Nat := 0
  access  : Nat := 0
  addr    : Nat := 0
  deriving DecidableEq, Repr

/-- A numeric event held back with a span (R183), or a watch observation: the event code, and its
payload words, or slot, tensor and whether it was nonzero. -/
inductive HeldObs where
  | event (code : Nat) (payload : List Byte)
  | watch (slot tensor : Nat) (nonzero : Bool)
  deriving DecidableEq, Repr

/-- The architectural state of a logical core of a context (R36) with its engines (R53, R105), the
HBM pages its fetch list has spilled to (R95), its latch (R173), whether the latch was set outside a span since it was last cleared (R174), the physical
ranges an open span has read and written (R65), the times since which queue heads wait (R239), the step numbers committed by it and not yet by the context (R390), ready maps with the order in which
frames became ready and those a collective in arrival mode wrote (R128, R296), breakpoints (R437) and launch bookkeeping (R363). -/
structure Core where
  sregs     : Tbl Word := []
  preds     : BitVec 16 := 1
  pc        : Word := 0
  tokens    : Tbl Nat := []
  pass      : Nat := 0
  spanId    : BitVec 32 := 0
  spanRec   : Nat := 0
  spanRescale : Bool := false
  spanCause : BitVec 3 := 0
  spanIn    : List (Nat × Nat) := []
  spanOut   : List (Nat × Nat) := []
  snap      : SpanSnap := {}
  obs       : List HeldObs := []
  slotHit   : List Nat := []
  slotMiss  : Bool := false
  latch     : Bool := false
  causes    : BitVec 3 := 0
  unspanned : Bool := false
  stepNo    : BitVec 32 := 0
  marks     : Tbl (BitVec 32) := []
  depth     : Nat := 0
  level     : Nat := 3
  active    : Bool := false
  ended     : Bool := false
  held      : Option Held := none
  heldSince : Nat := 0
  paused    : Bool := false
  halted    : Bool := false
  oneStep   : Bool := false
  haltCause : Nat := 0
  secondHit : Bool := false
  headSince : Tbl Nat := []
  queues    : Tbl (List QInstr) := []
  flights   : Tbl (List Flight) := []
  spill     : List Nat := []
  nextId    : Nat := 0
  tile      : Tile := {}
  acc       : Tbl (BitVec 40) := []
  stat      : Tbl StatEntry := []
  readyMap  : Word := 0xFFFF_FFFF_FFFF_FFFF
  firstRead : Word := 0
  readyOrder : List Nat := []
  arrival   : List Nat := []
  bps       : Tbl Bp := []
  events    : Nat := 0
  suppressed : Nat := 0
  hint      : Nat := 0
  commits   : List Nat := []
  faulted   : Bool := false
  skipBp    : Bool := false
  deriving DecidableEq, Repr

/-! ## Contexts -/

/-- The states of a context (R359). -/
inductive CtxSt where
  | free | idle | runnable | running | paused | halted | restarting | destroying
  deriving DecidableEq, Repr

/-- A mapped page (R72): 1 GiB or 2 MiB, the physical page, and the permission bits. -/
structure Page where
  big     : Bool := false
  dpa     : Nat := 0
  r       : Bool := false
  w       : Bool := false
  x       : Bool := false
  nocache : Bool := false
  fw      : Bool := false
  valid   : Bool := false
  deriving DecidableEq, Repr

/-- A waiter registered on a truss (R223): the core, its instruction, and the generation whose
completion it waits for. -/
structure Waiter where
  lcore  : Nat
  flight : Nat
  gen    : Nat
  since  : Nat
  deriving DecidableEq, Repr

/-- A forward arrival to make (R228): the truss it comes from, the generation completed, and the entry. -/
structure Fwd where
  src : Nat
  gen : Nat
  entry : FwdEntry
  deriving DecidableEq, Repr

/-- A truss binding and its truss (R218 to R230). `arrived` and `pending` are counts in counted
mode; in enrolled mode the two lists of members hold who has arrived. -/
structure Truss where
  bound    : Bool := false
  ever     : Bool := false
  bgen     : Nat := 0
  enrolled : Bool := false
  home     : Nat := 0
  limit    : Nat := 0
  n        : Nat := 0
  members  : List Member := []
  fwd      : List FwdEntry := []
  gen      : Nat := 0
  arrived  : Nat := 0
  pending  : Nat := 0
  arrivedM : List Member := []
  pendingM : List Member := []
  waiters  : List Waiter := []
  credits  : Nat := 0
  deriving DecidableEq, Repr

/-- A region binding (R272, R274). -/
structure Region where
  bound   : Bool := false
  ever    : Bool := false
  keyGen  : Nat := 0
  base    : Nat := 0
  length  : Nat := 0
  rwrite  : Bool := false
  rread   : Bool := false
  deriving DecidableEq, Repr

/-- A READY held for a later sequence number (R294). -/
structure HeldReady where
  rank : Nat
  node : Nat
  seq  : Nat
  fp   : Nat
  deriving DecidableEq, Repr

/-- A collective group binding (R284 to R289): the READYs, ABORTs and REVOKEs (sequence number, first element,
node) that came for sequence numbers not reached. -/
structure Group where
  bound     : Bool := false
  ever      : Bool := false
  ggen      : Nat := 0
  alg       : Nat := 0
  fanin     : Nat := 0
  members   : List Nat := []
  rank      : Nat := 0
  statusPtr : Nat := 0
  seqNo     : Nat := 0
  held      : List HeldReady := []
  aborts    : List Nat := []
  revokes   : List (Nat × Nat × Nat) := []
  deriving DecidableEq, Repr

/-- A check record (R299). `sum` and `abs` are W40 values or integers by the operation. -/
structure CheckRec where
  sum  : Nat := 0
  abs  : Nat := 0
  crc  : BitVec 32 := 0
  skip : Bool := false
  deriving DecidableEq, Repr

/-- One chunk of a collective on this member (R290, R296, R300): its shard (for an all-to-all, the
destination rank), the owner or source rank, and its elements by OFFSET; the contributions and check
records received by sender's rank, the folded partial (W40 codes, or integers with bit 32 for poison),
the codes of its result with the poisoned elements, and how far it has come. `sent` holds 2 · rank for
a contribution sent and 2 · rank + 1 for a result. -/
structure Chunk where
  shard    : Nat
  owner    : Nat
  first    : Nat
  count    : Nat
  parts    : Tbl (Tbl Nat) := []
  recs     : Tbl CheckRec := []
  acc      : List Nat := []
  accRec   : CheckRec := {}
  folded   : Bool := false
  res      : Tbl Nat := []
  resPoi   : List Nat := []
  record   : Option CheckRec := none
  sent     : List Nat := []
  written  : Bool := false
  passed   : Bool := false
  sat      : Bool := false
  failures : Nat := 0
  lost     : Bool := false
  needDone : List Nat := []
  deriving DecidableEq, Repr

/-- A collective in flight on this device (R280, R289, R298): `op` is its opcode less 0x58, `asked` the repairs
that wait for a READY (rank, first element), `ins` and `outs` the physical ranges of A and D (R283). -/
structure Coll where
  core    : Nat
  flight  : Nat
  op      : Nat
  gid     : Nat
  ggen    : Nat
  seq     : Nat
  rop     : Nat
  ordered : Bool
  chunkFlag : Bool
  root    : Nat
  count   : Nat
  n       : Nat
  rank    : Nat
  alg     : Nat
  fanin   : Nat
  fp      : Nat
  nodes   : List Nat
  a       : Option Desc
  d       : Option Desc
  chunks  : List Chunk := []
  readyFrom : List Nat := []
  started : Nat := 0
  lostRanks : List Nat := []
  asked   : List (Nat × Nat) := []
  ins     : List (Nat × Nat) := []
  outs    : List (Nat × Nat) := []
  deriving DecidableEq, Repr

/-- A zero-run watch slot (R186, R187) with what it has observed in the step. -/
structure Watch where
  armed     : Bool := false
  threshold : Nat := 0
  run       : Nat := 0
  alarm     : Bool := false
  seen      : Bool := false
  nonzero   : Bool := false
  tensor    : Nat := 0
  deriving DecidableEq, Repr

/-- The job coordinate grid (R285). -/
structure Grid where
  naxes  : Nat
  extent : List Nat
  nodes  : List Nat
  deriving DecidableEq, Repr

/-- A snapshot (R392): its epoch, which of the two slots holds it, the grains copied as poison (their
number within the slot), and whether it is READY. -/
structure Snapshot where
  epoch    : Nat
  slot     : Nat
  poison   : List Nat := []
  ready    : Bool := false
  deriving DecidableEq, Repr

/-- The checkpoint settings and epochs of a context (R391 to R393), the pages reserved for each of the
two slots, the steps a CKPT flag marks, and the checkpoint step whose ranges are being copied (R392). -/
structure Ckpt where
  interval    : Nat := 0
  limit       : Nat := 8
  replaceWait : Nat := 60
  ranges      : List (Nat × Nat) := []
  slots       : List Snapshot := []
  pages       : List (List Nat) := []
  committed   : Option Nat := none
  readySent   : Option Nat := none
  marks       : List Nat := []
  copying     : Option Nat := none
  readyKids   : List (Nat × Nat) := []
  deriving DecidableEq, Repr

/-- The twin of a context (R394 to R398): the node named, whether both sides have paired, REPLACE and the last
heartbeat; of the two mirror slots held here for the partner, their pages, the epoch each holds (0: none), the
one being filled and the bytes it has; the epochs of the two slots the partner holds for this device, as its heartbeats
confirm them (`confirmed`), and the snapshot sent to one of them, with whether it has been written whole. -/
structure Twin where
  node      : Nat
  paired    : Bool := false
  replace   : Bool := false
  lost      : Nat := 0
  lastBeat  : Nat := 0
  incarnation : Nat := 0
  mirrors   : List Nat := [0, 0]
  pages     : List (List Nat) := []
  landing   : Option Nat := none
  fill      : Nat := 0
  confirmed : List Nat := [0, 0]
  filling   : Option (Nat × Bool) := none
  reserved  : Nat := 0
  deriving DecidableEq, Repr

/-- A HALT_ACK gathered (R401): the node, its newest committed and READY epochs. -/
structure HaltAck where
  node      : Nat
  committed : Nat
  ready     : Option Nat
  deriving DecidableEq, Repr

/-- The job restart of a context (R400 to R403): its phase (0 none, 1 halting, 2 halted,
3 restoring, 4 restored), what the gather holds, and the restarts of the last hour. -/
structure Restart where
  phase    : Nat := 0
  began    : Nat := 0
  acks     : List HaltAck := []
  absent   : List Nat := []
  ackSent  : Bool := false
  target   : Nat := 0
  restored : List Nat := []
  restoreAt : Option Nat := none
  history  : List Nat := []
  merged   : Nat := 0
  ppr      : Nat := 0
  deriving DecidableEq, Repr

/-- A storage request outstanding (R372), with the remote keys its memory was registered under. -/
structure StorReq where
  seq   : Nat
  tag   : Word
  ctrl  : Nat
  read  : Bool
  va    : Nat
  bytes : Nat
  truss : Word
  phase : Word
  keys  : List Nat
  deriving DecidableEq, Repr

/-- A context (R34, R358, R359) and everything it owns. `forwards` holds forward arrivals not yet made (R228). `owedHbm` counts grains of bursts that wait for a
positive HBM level, `passedOver` the bursts of other classes served since a class was (R100), and `turn`
numbers the page its rotation over the stacks has reached (R70). `imgHome` holds the pages of the home of each
core's save image, `imgThatch` the address of an image held on Thatch (R478). -/
structure Ctx where
  st        : CtxSt := .free
  part      : Nat := 0
  mailbox   : Nat := 0
  hostLoss  : Nat := 0
  route     : Nat := 0
  jobId     : Nat := 0
  manager   : Nat := 0
  watchdogMs : Nat := 100
  epoch     : Nat := 0
  energy    : Nat := 0
  stepNo    : Nat := 0
  policy    : NumericPolicy := ⟨10, 10, 10, 0, 64, 64, 1, false⟩
  policyNext : Option NumericPolicy := none
  watches   : Tbl Watch := []
  budgetHbm : Nat := 160000
  budgetNet : Nat := 50000
  levelHbm  : Int := 640000
  owedHbm   : Nat := 0
  passedOver : Tbl Nat := []
  turn      : Nat := 0
  levelNet  : Int := 200000
  pages     : Tbl Page := []
  trusses   : Tbl Truss := []
  forwards  : List Fwd := []
  regions   : Tbl Region := []
  groups    : Tbl Group := []
  colls     : List Coll := []
  grid      : Option Grid := none
  launch    : List LaunchEntry := []
  launched  : Bool := false
  heldLaunch : Bool := false
  heldDone  : Bool := false
  firstFault : Option Nat := none
  faultSeq  : Nat := 0
  endedAt   : Nat := 0
  lastProgress : Nat := 0
  watchBase : Nat := 0
  watchAt   : Nat := 0
  statePoison : Bool := false
  poisonAt  : Nat := 0
  ckpt      : Ckpt := {}
  twin      : Option Twin := none
  restart   : Restart := {}
  storage   : List StorReq := []
  pauseReq  : Bool := false
  haltReq   : Nat := 0
  imgHome   : Tbl (List Nat) := []
  imgThatch : Tbl Nat := []
  deriving DecidableEq, Repr

/-! ## Memories -/

/-- The modes of a Thatch slice (R79). -/
inductive SliceMode where
  | software | cache | firmware | retired
  deriving DecidableEq, Repr

/-- A line of a slice in CACHE mode (R80): the 256-byte line and whether it is dirty. -/
structure Line where
  line  : Nat
  dirty : Bool
  deriving DecidableEq, Repr

/-- Device physical memory (R69): its bytes (an unlisted address reads as 0), its poisoned grains
(DPA / 64, rising), the errors it has developed that no read has met, each with whether it cannot be
corrected (R74, R83), the ranges whose contents nothing determines (R81), the Thatch slices and cache lines, the state of the HBM repair machinery, and the time of the
regulator's latest refill (R100). -/
structure Mem where
  cells     : List Host.Cell := []
  poison    : List Nat := []
  upsets    : List (Nat × Bool) := []
  stale     : List (Nat × Nat) := []
  slices    : Tbl SliceMode := []
  sliceErrs : List (Nat × Nat × Nat) := []
  sliceCorr : List (Nat × Nat) := []
  lines     : List Line := []
  rowErrs   : List (Nat × Nat × Nat) := []
  spares    : Tbl (List Nat) := []
  repaired  : Tbl (List Nat) := []
  pool      : Tbl Nat := []
  retired   : List Nat := []
  fwRanges  : List (Nat × Nat) := []
  scrubPos  : Nat := 0
  refillAt  : Nat := 0
  allocs    : Nat := 0
  lastCorr  : Tbl Nat := []
  corrCount : Tbl Nat := []
  halfRate  : List Nat := []
  deriving DecidableEq, Repr

/-! ## Cores, bays and partitions -/

/-- A physical core (R12, R19, R409, R410). -/
structure Phys where
  failed   : Bool := false
  cause    : Nat := 0
  failedAt : Nat := 0
  failures : List Nat := []
  passes   : Nat := 0
  lastTest : Nat := 0
  never    : Bool := false
  resident : Option Nat := none
  switchAt : Nat := 0
  deriving DecidableEq, Repr

/-- A partition of the layout (R28, R364): its bays' settings and scheduling (R365). `residentAt` is when its
running context became resident. -/
structure PartSt where
  sliceMs   : Nat := 10
  quantumUs : Nat := 1000
  freq      : List Nat := [1320, 990, 825, 660]
  fixed     : Bool := false
  unavailable : Bool := false
  running   : Option Nat := none
  lastRun   : Nat := 63
  sliceAt   : Nat := 0
  preempting : Bool := false
  preemptAt : Nat := 0
  residentAt : Nat := 0
  deriving DecidableEq, Repr

/-- The placement of logical cores (R16 to R22), the layout (R364) and the patrol test (R409). -/
structure Place where
  phys     : Tbl Phys := []
  map      : Tbl Nat := []
  spare    : Tbl Nat := []
  layout   : List Nat := [0, 0, 0, 0, 0, 0, 0, 0, 0, 0, 0, 0, 0, 0, 0, 0]
  quota    : List Nat := [0, 0, 0, 0, 0, 0, 0, 0, 0, 0, 0, 0, 0, 0, 0, 0]
  parts    : Tbl PartSt := []
  patrol   : Option Nat := none
  patrolMoves : List (Nat × Nat) := []
  patrolNext : Nat := 0
  patrolAt : Nat := 0
  patrolDone : Nat := 0
  deriving DecidableEq, Repr

/-- A bay: set point, PLLs and mux, voltage table and overlay, droop, throttle and counters
(R307 to R319, R335, R336). Frequencies in MHz, voltages in mV. `nomAcc`, `nomNs` and `nomAt` are the
nominal cycles (in thousandths), the ns they cover and the time of the last step within the present
microsecond of R335. -/
structure Bay where
  setPoint  : Nat := 550
  stepTo    : Option Nat := none
  sel       : Bool := false
  pll0      : Nat := 550
  pll1      : Nat := 550
  out0      : Bool := false
  out1      : Bool := false
  lossAt0   : Option Nat := none
  lossAt1   : Option Nat := none
  volt      : Nat := 0
  lowerTo   : Option Nat := none
  droop     : Bool := false
  droopAt   : Option Nat := none
  stopped   : Bool := true
  idleSince : Nat := 0
  cycles    : Nat := 0
  lost      : Nat := 0
  offsets   : Tbl Nat := []
  raisedAt  : Tbl Nat := []
  topPoint  : Nat := 15
  minMargin : Option (Nat × Nat) := none
  thermal   : Nat := 1320
  capped    : Nat := 1320
  episode   : Option (Nat × Nat) := none
  nomAcc    : Nat := 0
  nomNs     : Nat := 0
  nomAt     : Nat := 0
  deriving DecidableEq, Repr

/-- The PMU, its hardware fallback and the thermal state (R320 to R332). Powers in mW,
temperatures in 0.01 °C. Ratios and gains are rationals; energies here and in `Ctx` are in nJ. -/
structure Power where
  bays      : Tbl Bay := []
  rails     : List Nat := [0, 0, 0, 0]
  hostLimit : Nat := 2700
  boardLimit : Nat := 2700
  throttle  : Nat := 0
  throttleFixed : Nat := 0
  gains     : List Rat := [1, 1, 1, 1]
  k         : List Rat := [1, 1, 1, 1]
  rho       : List Rat := [1, 1, 1, 1]
  estSum    : List Rat := [0, 0, 0, 0]
  estCount  : Nat := 0
  tSum      : Nat := 0
  measured  : List Nat := [0, 0, 0, 0]
  suspect   : List Bool := [false, false, false, false]
  goodRuns  : List Nat := [0, 0, 0, 0]
  driftRuns : List Nat := [0, 0, 0, 0]
  driftSum  : List Rat := [0, 0, 0, 0]
  refitAt   : List Nat := [0, 0, 0, 0]
  package   : Rat := 0
  pkgSum    : Rat := 0
  pkgCount  : Nat := 0
  tfSum     : Nat := 0
  regStatus : List Nat := []
  lowSince  : Option Nat := none
  hbmHalf   : Bool := false
  temps     : List Int := []
  stackT    : List Int := [0, 0, 0, 0, 0, 0, 0, 0]
  tj        : Int := 0
  throttled : Bool := false
  coolSince : Option Nat := none
  lastStep  : Nat := 0
  emergency : Bool := false
  emCoolSince : Option Nat := none
  hbmHot    : List Nat := []
  hbmCool   : Tbl Nat := []
  fastLow   : Bool := false
  fallback  : Bool := false
  planned   : Bool := false
  emActive  : Bool := false
  emAt      : Nat := 0
  overhead  : Nat := 0
  avsFail   : List Bool := [false, false, false, false]
  deriving DecidableEq, Repr

/-! ## Chain -/

/-- A burst that a receiver is taking in (R243): its TAG, the physical address and byte count of its request
word, and the bytes that have come. -/
structure Arriving where
  tag   : Nat
  addr  : Nat
  count : Nat
  off   : Nat := 0
  deriving DecidableEq, Repr

/-- One direction of a lane group (R244 to R246): the sender's next SEQ, the flits held back for room, its
unacknowledged flits with the time each was last sent, the flits sent since training, the SEQ its latest
replay began at and how often in succession; the receiver's expected SEQ, the flits it has discarded since,
those that failed their CRC with their place, whether its NAK stands, the credits it owes by class, and the burst
it is taking in. -/
structure Dir where
  sendSeq  : Nat := 0
  waiting  : List Flit := []
  buffer   : List (Nat × Flit) := []
  sent     : Nat := 0
  replaySeq : Nat := 0
  replays  : Nat := 0
  expect   : Nat := 0
  discarded : Nat := 0
  bad      : List (Nat × Flit) := []
  nakSent  : Bool := false
  owed     : Tbl Nat := []
  arriving : Option Arriving := none
  deriving DecidableEq, Repr

/-- A burst of a transfer under way over a lane group, 16 · join + group (R250): its TAG, the core key and
flight it belongs to, and its destination elements. -/
structure ChainBurst where
  group  : Nat
  tag    : Nat
  key    : Nat
  flight : Nat
  lo     : Nat
  hi     : Nat
  deriving DecidableEq, Repr

/-- A swap in progress (R249): the due logical lane, its spare, the cause, and the count of sent flits at which
its IDLE flits have gone (0: the sender has not had the SWAP flit). -/
structure Swapping where
  lane  : Nat
  spare : Nat
  cause : Nat
  idled : Nat
  deriving DecidableEq, Repr

/-- The Chain joins (R11, R240 to R254). Directions are keyed by 2 · (16 · join + group) + 1 for the
direction from the first die the join names; lanes by 256 · join + lane; swaps by twice that + direction.
`routes` holds the next die by 8 · from + destination where firmware rewrote it, `credits` the credits in
use by buffer and class, `bursts` the bursts that replay buffers hold, `nextTag` the TAG of the next, and
`marginAt` the time of the latest margin report by 2 · join + direction. -/
structure Chain where
  dirs     : Tbl Dir := []
  laneMap  : Tbl Nat := []
  laneSt   : Tbl Nat := []
  errAt    : Tbl (List Nat) := []
  margins  : Tbl Nat := []
  unlocked : List Nat := []
  removed  : List Nat := []
  swaps    : Tbl Swapping := []
  down     : List Nat := []
  routes   : Tbl Nat := []
  credits  : Tbl Nat := []
  bursts   : List ChainBurst := []
  nextTag  : Nat := 0
  marginAt : Tbl Nat := []
  deriving DecidableEq, Repr

/-! ## Network -/

/-- An outbox record (R349) without its PHASE, which its place in the ring gives it. -/
structure Rec where
  seq    : Nat
  type   : Nat
  source : Nat
  ctx    : Nat
  status : Nat
  async  : Bool
  tag    : Word
  result : List Byte
  deriving DecidableEq, Repr

/-- A packet held until it is acknowledged (R268, R269), with the port it left by. -/
structure Sent where
  pkt    : Packet
  port   : Option Nat
  path   : Nat
  sentAt : Nat
  tries  : Nat
  lost   : Bool
  deriving DecidableEq, Repr

/-- An operation of the sender (R268): the packets it still waits for, and what completes with it:
the core's instruction, or a firmware service. -/
structure NetOp where
  opId   : Nat
  ctx    : Nat
  core   : Nat
  flight : Nat
  opc    : Nat
  left   : List Nat
  deriving DecidableEq, Repr

/-- A Furlong session with a peer (R262, R263, R268 to R271). `paceAt` is the time from which pacing lets
the next packet go. -/
structure Session where
  isOpen   : Bool := false
  opening  : Bool := false
  helloAt  : Nat := 0
  firstAt  : Nat := 0
  incarnation : Nat := 0
  known    : Bool := false
  paths    : Nat := 1
  features : BitVec 32 := 0
  nextPath : Nat := 0
  suspended : Tbl Nat := []
  pathAck  : Tbl (Nat × Nat) := []
  sendPsn  : Nat := 0
  queue    : List Packet := []
  unacked  : List Sent := []
  ops      : List NetOp := []
  recvCum  : Nat := 0
  recvSet  : List Nat := []
  nakSet   : List Nat := []
  sinceSack : Nat := 0
  ceSince  : Nat := 0
  firstUnacked : Option Nat := none
  echo     : Nat := 0
  statusPsn : Nat := 0
  status   : Nat := 0
  cwnd     : Nat := 1048576
  srtt     : Nat := 0
  rttvar   : Nat := 0
  baseRtt  : List (Nat × Nat) := []
  marked   : Nat := 0
  acked    : Nat := 0
  intervalAt : Nat := 0
  paceAt   : Nat := 0
  deriving DecidableEq, Repr

/-- An Ethernet port (R256 to R259). `failed` is a port that stays down until its next negotiation, `pfc` the
priorities under IEEE 802.1Qbb flow control, off by default. -/
structure Port where
  up   : Bool := false
  rate : Nat := 0
  mtu  : Nat := 9000
  downAt : Nat := 0
  failed : Bool := false
  pfc  : BitVec 8 := 0
  deriving DecidableEq, Repr

/-- A RoCEv2 queue pair (R276): the PSNs of both directions, what is unacknowledged, the RDMA READs it waits for
(PSN of the next response, physical address, bytes left), where the RDMA WRITE it is receiving goes on (physical
address and bytes left), the path MTU, the rate in Mb/s that the latest CNP left (0: unlimited) with the time from which the next packet may
leave, and the address of its peer. -/
structure Qp where
  expect  : Nat := 0
  sendPsn : Nat := 0
  unacked : List RocePkt := []
  reads   : List (Nat × Nat × Nat) := []
  landing : Option (Nat × Nat) := none
  mtu     : Nat := 4096
  rate    : Nat := 0
  nextAt  : Nat := 0
  peer    : Nat := 0
  deriving DecidableEq, Repr

/-- An NVMe over Fabrics controller (R277, R372), with the block size of each namespace that Identify
reported. -/
structure NvmeCtrl where
  family : Nat
  svcid  : Nat
  queues : Nat
  depth  : Nat
  addr   : Nat
  subnqn : List Byte
  spaces : List Nat
  deriving DecidableEq, Repr

/-- What a frame carries above UDP or Ethernet (R264, R276, R278): a Furlong packet, a RoCEv2 packet or a PTP
message. -/
inductive Body where
  | furlong (k : Packet)
  | roce (k : RocePkt)
  | ptp (m : PtpMsg)
  deriving DecidableEq, Repr

/-- An Ethernet frame that has left the device (R258, R261, R264): when and by which port, its MAC addresses, the
IEEE 802.1Q tag where it has one, the protocol above (4 or 6 for IP, 0 for Ethernet alone), the DSCP, the IP
addresses, the UDP ports and checksum, and what it carries. IP packets go with ECT(0), IPv4 with DF. -/
structure Frame where
  time  : Nat
  port  : Nat
  src   : Nat
  dst   : Nat
  tag   : Option Nat
  net   : Nat
  dscp  : Nat
  ipSrc : Nat
  ipDst : Nat
  sport : Nat
  dport : Nat
  sum   : Nat
  body  : Body
  deriving DecidableEq, Repr

/-- A READ of a firmware service under way (R267): its operation and peer, the device physical address of its
destination, the OFFSET requested and the length, the runs received, and the context it is for. -/
structure ReadOp where
  opId : Nat
  peer : Nat
  base : Nat
  off  : Nat
  len  : Nat
  got  : List (Nat × Nat) := []
  ctx  : Nat
  deriving DecidableEq, Repr

/-- A binding of an identifier that has ended (R274): its job, its kind (0 truss, 1 region, 2 group), identifier
and generation, and when it ended. -/
structure Unbound where
  job  : Nat
  kind : Nat
  id   : Nat
  gen  : Nat
  time : Nat
  deriving DecidableEq, Repr

/-- A manager's message coming in as blocks (R348): its node, its operation tag, and the blocks by OFFSET. -/
structure Incoming where
  node  : Nat
  opId  : Nat
  parts : List (Nat × List Byte)
  deriving DecidableEq, Repr

/-- The network dies (R256 to R278). `tx` holds the frames sent, `records` the records that wait to be sent to a
manager node. -/
structure Net where
  identity : Option NetIdentity := none
  incarnation : Nat := 0
  octets   : Tbl Nat := []
  ports    : Tbl Port := []
  tables   : Tbl (List (Nat × Nat)) := []
  managers : List (Nat × Nat) := []
  attested : List (Nat × Nat) := []
  sessions : Tbl Session := []
  arpTable : List (Nat × Nat) := []
  nextOp   : Nat := 1
  tx       : List Frame := []
  arpTx    : List (Nat × ArpMsg) := []
  fwTx     : List (Nat × Nat × List Nat) := []
  qps      : Tbl Qp := []
  rkeys    : Tbl (Nat × Nat × Nat) := []
  ctrls    : Tbl NvmeCtrl := []
  reads    : List ReadOp := []
  records  : List (Nat × Rec) := []
  incoming : List Incoming := []
  unbound  : List Unbound := []
  ended    : List (Nat × Nat) := []
  deriving DecidableEq, Repr

/-! ## Time -/

/-- Device time and its discipline (R278, R333, R334). `frac`, `rate` and `slew`
are in 2^-32 ns: the rate correction per reference cycle, and the offset still to be removed. Of PTP it holds the
mean path delay in ns, the two-step Sync whose Follow_Up is awaited (sequence number, arrival time), the times t1 and t2 of the latest Sync
with the departure of the Delay_Req that answers it, the departure of the latest Pdelay_Req with the response received so far (t2, t4), and the sequence numbers of the next Sync and request. -/
structure Clock where
  ns       : Nat := 0
  frac     : Nat := 0
  rate     : Int := 0
  slew     : Int := 0
  source   : Nat := 0
  profile  : Nat := 0
  port     : Nat := 0
  ref25    : Bool := true
  stepped  : Bool := false
  unsynced : Bool := false
  lastSync : Nat := 0
  offset   : Int := 0
  ppsOutAt : Option Nat := none
  lastSec  : Nat := 0
  delay    : Int := 0
  syncWait : Option (Nat × Nat) := none
  delayReq : Option (Nat × Nat × Nat × Nat) := none
  pdelayReq : Option (Nat × Nat) := none
  pdelayResp : Option (Nat × Nat) := none
  ptpSeq   : Nat := 0
  deriving DecidableEq, Repr

/-! ## Firmware, mailboxes, outbox and host registers -/

/-- A firmware pair (R338, R339). -/
structure Pair where
  out        : Bool := false
  lastMiss   : Option Nat := none
  restarting : Bool := false
  deriving DecidableEq, Repr

/-- A mailbox (R344, R345, R470): its buffer by 32-bit word, the messages taken and not answered (header, type and
payload), and those refused that wait for an earlier one's answer. -/
structure Mailbox where
  buf   : Tbl Word32 := []
  taken : List (MsgHdr × Nat × List Byte) := []
  late  : List (Nat × MsgHdr × Nat × Nat) := []
  deriving DecidableEq, Repr

/-- The outbox ring (R349 to R352, R472): its registers, the records waiting to be written, and
the unconsumed records of the ring. -/
structure Outbox where
  addr      : Nat := 0
  prod      : Nat := 0
  cons      : Nat := 0
  threshold : Nat := 1
  waiting   : List Rec := []
  ring      : List Rec := []
  notWritten : Nat := 0
  full      : Bool := false
  oldest    : Option Nat := none
  deriving DecidableEq, Repr

/-- An image in a bank or running (R417, R418), with the bytes of its manifest; a counter 0 that its
revocation section carries is `revoke`. -/
structure Image where
  svn      : Nat := 0
  version  : Nat := 0
  compatId : Nat := 0
  loaderSvn : Nat := 0
  revoke   : Nat := 0
  manifest : List Byte := []
  deriving DecidableEq, Repr

/-- Live update of one target (R373 to R377). `phase`: 0 none, 1 staging, 2 staged, 3 requested,
4 on trial. -/
structure Update where
  phase   : Nat := 0
  got     : Nat := 0
  total   : Nat := 0
  data    : List Byte := []
  staged  : Option Image := none
  old     : Option Image := none
  reqAt   : Nat := 0
  window  : Nat := 30
  commit  : Nat := 60
  actAt   : Nat := 0
  deriving DecidableEq, Repr

/-- Firmware on the control die (R338 to R376). -/
structure Firmware where
  stage     : Nat := 1
  bootError : Nat := 0
  recoveryBoot : Bool := false
  bootMode  : BitVec 2 := 0
  clkMode   : Bool := false
  serial    : Nat := 0
  fwMajor   : Nat := 0
  fwMinor   : Nat := 0
  fwPatch   : Nat := 0
  msgMinor  : Nat := 0
  compatId  : Nat := 0
  pairs     : Tbl Pair := []
  boxes     : Tbl Mailbox := []
  outbox    : Outbox := {}
  /-- Events kept until the error log exists (R305): code and payload. -/
  notes     : List (Nat × List Byte) := []
  lastHost  : Nat := 0
  timeoutS  : Nat := 5
  absent    : Bool := false
  absentAt  : Nat := 0
  linkUp    : Bool := true
  updates   : Tbl Update := []
  recovering : Bool := false
  recoverStage : Nat := 0
  recoverBlocked : Bool := false
  mirrorBudget : Nat := 5000
  mirrorLevel : Int := 20000
  progOp    : Nat := 0
  progTarget : Nat := 0
  progPos   : Nat := 0
  progTotal : Nat := 1000
  deriving DecidableEq, Repr

/-- An MSI-X entry (R475). -/
structure Msix where
  addr : Nat := 0
  data : Word32 := 0
  mask : Bool := true
  pend : Bool := false
  deriving DecidableEq, Repr

/-- A BAR2 window (R476). -/
structure Window where
  base    : Nat := 0
  baseHi  : Nat := 0
  writeEn : Bool := false
  enable  : Bool := false
  blocked : Nat := 0
  deriving DecidableEq, Repr

/-- The host's registers beside the mailboxes and the outbox (R6, R463 to R477). `rdata` is the
data of the latest read; `hostWr` the writes the device has made to host memory; `msi` the MSI-X
messages sent; `hold` the high words latched (R6). -/
structure HostIf where
  errSummary : BitVec 5 := 0
  errMask   : BitVec 5 := 0
  lastSeq   : Nat := 0
  lastInfo  : Word32 := 0
  lastTime  : Nat := 0
  latchInfo : Word32 := 0
  latchTime : Nat := 0
  cntJ      : Nat := 0
  cntV      : Nat := 0
  cntX      : Nat := 0
  cntFw     : Nat := 0
  hold      : Tbl Word32 := []
  progLatch : Option Word32 := none
  cntCtx    : Nat := 0
  cntValid  : Bool := false
  cntSlots  : Tbl Nat := []
  msix      : Tbl Msix := []
  windows   : Tbl Window := []
  rdata     : List Byte := []
  rpoison   : Bool := false
  hostWr    : List (Nat × List Byte) := []
  msi       : List Nat := []
  pldm      : List (List Nat) := []
  deriving DecidableEq, Repr

/-! ## Events, trace and observation -/

/-- An event as recorded (R380). -/
structure Event where
  time    : Nat
  seq     : Nat
  code    : Nat
  cls     : Nat
  escal   : Bool
  nested  : Bool
  merged  : Bool
  ctx     : Nat
  unit    : Nat
  parent  : Nat
  payload : List Byte
  deriving DecidableEq, Repr

/-- An event in handling (R386). -/
structure Handling where
  seq  : Nat
  cls  : Nat
  unit : Nat
  ctx  : Nat
  job  : Nat
  code : Nat
  deriving DecidableEq, Repr

/-- A trace record (R432). -/
structure TraceRec where
  time    : Nat
  source  : Nat
  event   : Nat
  ctx     : Nat
  flags   : Nat
  lcore   : Nat
  tag     : Nat
  payload : List Byte
  deriving DecidableEq, Repr

/-- A histogram unit (R440 to R442). -/
structure Hist where
  source : Nat := 0
  base   : Nat := 0
  filter : Nat := 0
  count  : Nat := 0
  min    : Int := 0
  max    : Int := 0
  sum    : Int := 0
  bins   : Tbl Nat := []
  deriving DecidableEq, Repr

/-- The error log, counters, trace region and histograms (R380 to R387, R427 to R443). A counter's
key is (kind·2^32 + index)·2^16 + number. -/
structure Observe where
  seqNext  : Nat := 1
  log      : List Event := []
  handling : List Handling := []
  queued   : List Handling := []
  counters : Tbl Nat := []
  region   : List TraceRec := []
  next     : Nat := 0
  capacity : Nat := 8388608
  pages    : List Nat := []
  mode     : Nat := 0
  cats     : BitVec 8 := 0
  mask     : Word := 0
  buffers  : Tbl (List TraceRec) := []
  lostB    : List Nat := []
  hists    : Tbl Hist := []
  fatal    : Bool := false
  deriving DecidableEq, Repr

/-! ## Identity and trust -/

/-- An SPDM connection or session (R421, R423). -/
structure Spdm where
  via       : SpdmVia
  phase     : Nat := 0
  session   : Bool := false
  openedAt  : Nat := 0
  deriving DecidableEq, Repr

/-- The secure configuration flash and the attestation state (R413 to R424). -/
structure Security where
  counters   : Tbl Nat := []
  writeCtr   : Tbl Nat := []
  areas      : Tbl (List Byte) := []
  bootPtr    : Tbl Nat := []
  banks      : Tbl Image := []
  running    : Tbl Image := []
  debug      : Bool := false
  debugNext  : Bool := false
  attestOk   : Bool := true
  attestCtrs : List Nat := [0, 0, 0, 0, 0]
  attestDbg  : Bool := false
  spdm       : List Spdm := []
  spdmOut    : List (SpdmVia × Nat × List Byte) := []
  deriving DecidableEq, Repr

/-- Rails, straps and the sideband (R447 to R459). Rails are numbered 0–3 VDD_CD, 4–7 VDD_BD,
8–9 VDD_ND, 10 VDDA_SD, 11 VDDH_SD, 12 VDD_CTL, 13 VDD_AON, 14 VIO_1V8, 15 VDD_FLASH,
16 VPP_HBM_W, 17 VPP_HBM_E, 18 VDD_HBM_W, 19 VDD_HBM_E, 20 VDDQ_HBM_W, 21 VDDQ_HBM_E. -/
structure Board where
  low      : List Nat := []
  perstLow : Bool := false
  waiting  : Bool := false
  i3c      : Option Nat := none
  tripLatch : Bool := false
  tripSaved : Option (Nat × Int) := none
  alertN   : Bool := true
  thermN   : Bool := true
  bayStop  : List Nat := []
  deriving DecidableEq, Repr

/-- The whole device. Logical core state is kept by context: key 512 · context + logical core.
`freeCtr` is the model's own field, not the spec's: it numbers the free values drawn. -/
structure State where
  pending : List Instr := []
  cores   : Tbl Core := []
  ctxs    : Tbl Ctx := []
  mem     : Mem := {}
  place   : Place := {}
  power   : Power := {}
  chain   : Chain := {}
  net     : Net := {}
  clock   : Clock := {}
  fw      : Firmware := {}
  host    : HostIf := {}
  obs     : Observe := {}
  sec     : Security := {}
  board   : Board := {}
  freeCtr : Nat := 0
  deriving DecidableEq, Repr

/-- The reasons the spec calls a program's act unpredictable (R67, R9): every constructor is one
line of R67 or a rule that names the same outcome. -/
inductive Unpred where
  /-- A descriptor that breaks R59 or names a reserved code or combination, or an operand whose
  shape, format or place the instruction calls malformed. -/
  | malformed
  /-- A reserved SUB, FUNC or operand kind, or a nonzero RSV field of an instruction. -/
  | reservedField
  /-- A token signal that would pass 255 (R56). -/
  | tokenSaturation
  /-- A scalar access that is not a multiple of its width (R51). -/
  | misaligned
  /-- A core number from 320 to 4,095 named by a program (R15). -/
  | coreReserved
  /-- A breach of the span rules (R65) or of the span record (R175). -/
  | spanRules
  /-- TRUSS.WAIT or TRUSS.ARWT with REMOTE set (R216). -/
  | remoteWait
  /-- A spar that runs past the end of the destination scratchpad (R102). -/
  | sparOverrun
  /-- A nonzero reserved field of a program header (R40). -/
  | headerReserved
  /-- A branch or jump to an address that begins no instruction (R38, R67). -/
  | badTarget
  /-- A store into the source range of a loaded stationary tile that is still used (R110). -/
  | tileOverwritten
  /-- A destination that shares bytes with another operand (R67). -/
  | overlap
  deriving DecidableEq, Repr

/-- How the machine stops: it never does. An act whose result the spec calls unpredictable goes on
with any result within its context (R9, R67). -/
inductive Fault where
  deriving DecidableEq, Repr

/-- What the model does not carry out. -/
inductive Refusal where
  /-- A command whose arm has no meaning yet. Safe. -/
  | notModelled (mnemonic : String)
  deriving DecidableEq, Repr

/-- The device right after PERST_N is released at first power-up: stage ROM (R341, R468), device
time 0 (R333), no context (R359), the whole partition (R32), every memory unlisted. -/
def State.reset : State := {}

end Sys2Proof.Machine
end

