-- ==== Sys2Proof/Machine/Tbl.lean ====
section
/-! DEFINITION. The operations on sparse tables and on the byte lists of memory. -/

namespace Sys2Proof.Machine

/-- The value at a key, `d` where none is listed. -/
def look {α : Type} (t : Tbl α) (d : α) (k : Nat) : α :=
  match t with
  | [] => d
  | (k', v) :: r => if k' = k then v else look r d k

/-- Whether a key is listed. -/
def has {α : Type} (t : Tbl α) (k : Nat) : Bool :=
  match t with
  | [] => false
  | (k', _) :: r => if k' = k then true else has r k

/-- The table with a key's value replaced or put in its place. -/
def put {α : Type} (t : Tbl α) (k : Nat) (v : α) : Tbl α :=
  match t with
  | [] => [(k, v)]
  | (k', v') :: r =>
    if k' = k then (k, v) :: r
    else if k < k' then (k, v) :: (k', v') :: r
    else (k', v') :: put r k v

/-- The table without a key. -/
def drop {α : Type} (t : Tbl α) (k : Nat) : Tbl α :=
  t.filter (fun e => e.1 != k)

/-- Every listed value changed by `f`. -/
def mapTbl {α : Type} (t : Tbl α) (f : Nat → α → α) : Tbl α :=
  t.map (fun e => (e.1, f e.1 e.2))

/-! ## The bytes of memory -/

/-- The byte at an address; an unlisted address reads as 0. -/
def byteAt (m : List Host.Cell) (a : Nat) : Byte :=
  match m with
  | [] => 0
  | (b, v) :: r => if b = a then v else byteAt r a

/-- A byte written, the list keeping its canonical form: rising addresses, no zero byte. -/
def setByte (m : List Host.Cell) (a : Nat) (v : Byte) : List Host.Cell :=
  match m with
  | [] => if v = 0 then [] else [(a, v)]
  | (b, u) :: r =>
    if b < a then (b, u) :: setByte r a v
    else if b = a then (if v = 0 then r else (a, v) :: r)
    else if v = 0 then (b, u) :: r else (a, v) :: (b, u) :: r

/-- Bytes written from an address upward. -/
def setBytes (m : List Host.Cell) (a : Nat) (vs : List Byte) : List Host.Cell :=
  match vs with
  | [] => m
  | v :: r => setBytes (setByte m a v) (a + 1) r

/-- The cells inside [a, a + n) removed: the range reads as 0. -/
def clearRange (m : List Host.Cell) (a n : Nat) : List Host.Cell :=
  m.filter (fun e => !(decide (a ≤ e.1) && decide (e.1 < a + n)))

/-- The cells inside [a, a + n), by their offset from a. -/
def cut (m : List Host.Cell) (a n : Nat) : List Host.Cell :=
  (m.filter (fun e => decide (a ≤ e.1) && decide (e.1 < a + n))).map (fun e => (e.1 - a, e.2))

/-- Cells given by offset written at a base. -/
def paste (m : List Host.Cell) (a : Nat) (cs : List Host.Cell) : List Host.Cell :=
  match cs with
  | [] => m
  | e :: r => paste (setByte m (a + e.1) e.2) a r

/-- The range [dst, dst + n) made a copy of [src, src + n). -/
def copyRange (m : List Host.Cell) (src dst n : Nat) : List Host.Cell :=
  paste (clearRange m dst n) dst (cut m src n)

/-- The canonical form of memory: rising addresses and no entry an unlisted address reads as. -/
def cellsWf (m : List Host.Cell) : Bool :=
  match m with
  | [] => true
  | (a, v) :: r => decide (v ≠ 0) && (match r with | [] => true | (b, _) :: _ => decide (a < b)) && cellsWf r

/-! ## Sets of numbers in rising order -/

/-- A number put into a rising list. -/
def addNat (l : List Nat) (k : Nat) : List Nat :=
  match l with
  | [] => [k]
  | x :: r => if x < k then x :: addNat r k else if x = k then x :: r else k :: x :: r

/-- A number taken out of a list. -/
def delNat (l : List Nat) (k : Nat) : List Nat := l.filter (fun x => x != k)

/-- Rising without repeats. -/
def risingWf (l : List Nat) : Bool :=
  match l with
  | [] => true
  | a :: r => (match r with | [] => true | b :: _ => decide (a < b)) && risingWf r

/-- The `i`-th item, or `d`. -/
def nth {α : Type} (l : List α) (i : Nat) (d : α) : α := l.getD i d

/-- The list with its `i`-th item replaced; unchanged past its end. -/
def setNth {α : Type} (l : List α) (i : Nat) (v : α) : List α := l.set i v

/-! ## Little-endian fields -/

/-- One bit as a number. -/
def b1 (b : Bool) : Nat := if b then 1 else 0

/-- A number's `n` bytes, least significant first (R5). -/
def leBytes (n v : Nat) : List Byte :=
  match n with
  | 0 => []
  | k + 1 => BitVec.ofNat 8 v :: leBytes k (v / 256)

/-- The number that bytes spell, least significant first. -/
def leNat (bs : List Byte) : Nat :=
  match bs with
  | [] => 0
  | b :: r => b.toNat + 256 * leNat r

/-- A number's `n` bytes, most significant first (packet headers, R264). -/
def beBytes (n v : Nat) : List Byte := (leBytes n v).reverse

/-- Four and eight payload bytes (R380). -/
def p4 (v : Nat) : List Byte := leBytes 4 v
def p8 (v : Nat) : List Byte := leBytes 8 v

end Sys2Proof.Machine
end

