-- ==== Sys2Proof/Machine/Formats.lean ====
section
/-! DEFINITION. Element formats, their exact values, rounding and conversion (R136 to R142, R145,
R148 to R155). A finite value is a rational number. -/

namespace Sys2Proof.Machine

/-- The value of an element: poisoned (R143), NaN, an infinity, or a number. −0 reads as 0 (R138). -/
inductive Val where
  | poison
  | nan
  | inf (neg : Bool)
  | fin (q : Rat)
  deriving DecidableEq, Repr

/-- 2 to an integer power. -/
def pow2 (e : Int) : Rat := if 0 ≤ e then ((2 ^ e.toNat : Nat) : Rat) else mkRat 1 (2 ^ (-e).toNat)

/-- The absolute value of a rational number. -/
def absQ (q : Rat) : Rat := if q < 0 then -q else q

/-- ⌊log2 q⌋ of a positive rational number. -/
def log2Q (q : Rat) : Int :=
  let e : Int := (q.num.natAbs.log2 : Int) - (q.den.log2 : Int)
  if pow2 e ≤ q then e else e - 1

/-- The nearest integer, a tie going to the even one. -/
def rneQ (q : Rat) : Int :=
  let f := q.floor
  let r := q - (f : Rat)
  if r < 1 / 2 then f else if r > 1 / 2 then f + 1 else if f % 2 = 0 then f else f + 1

/-- The integer toward zero. -/
def rtzQ (q : Rat) : Int := if q < 0 then -((-q).floor) else q.floor

/-- Rounding to an integer by mode (R149). -/
def roundQ (rtz : Bool) (q : Rat) : Int := if rtz then rtzQ q else rneQ q

/-! ## Formats (R136, R139, R141) -/

/-- Element codes (R58). -/
abbrev fFP4 : Nat := 0
abbrev fE2M3 : Nat := 1
abbrev fE3M2 : Nat := 2
abbrev fE4M3 : Nat := 3
abbrev fE5M2 : Nat := 4
abbrev fBF16 : Nat := 5
abbrev fFP16 : Nat := 6
abbrev fFP32 : Nat := 7
abbrev fW40 : Nat := 8
abbrev fINT4 : Nat := 9
abbrev fINT8 : Nat := 10
abbrev fUINT8 : Nat := 11
abbrev fINT32 : Nat := 12

/-- The size of an element in bits (R58). -/
def elemBits (f : Nat) : Nat := nth [4, 6, 6, 8, 8, 16, 16, 32, 64, 4, 8, 8, 32] f 8

/-- Exponent bits, fraction bits and bias of a floating-point format (R136, R141). -/
def floatShape (f : Nat) : Nat × Nat × Nat :=
  nth [(2, 1, 1), (2, 3, 1), (3, 2, 3), (4, 3, 7), (5, 2, 15), (8, 7, 127), (5, 10, 15), (8, 23, 127), (10, 29, 511)] f (8, 23, 127)

/-- Whether a code names an integer format. -/
def isInt (f : Nat) : Bool := decide (fINT4 ≤ f)

/-- Whether a floating-point format has infinities (R136). -/
def hasInf (f : Nat) : Bool := decide (fE5M2 ≤ f) && decide (f ≤ fW40)

/-- The range of an integer format (R139). -/
def intRange (f : Nat) : Int × Int :=
  if f = fINT4 then (-8, 7) else if f = fINT8 then (-128, 127) else if f = fUINT8 then (0, 255)
  else (-2147483648, 2147483647)

/-- The code of the largest finite magnitude (R136, R142). -/
def maxCode (f : Nat) : Nat :=
  nth [0x7, 0x1F, 0x1F, 0x7E, 0x7B, 0x7F7F, 0x7BFF, 0x7F7F_FFFF, 0x7F_DFFF_FFFF] f 0

/-- The canonical NaN (R136, R142); 0 for an integer format (R151). -/
def nanCode (f : Nat) : Nat :=
  nth [0x8, 0x20, 0x20, 0x7F, 0x7E, 0x7FC0, 0x7E00, 0x7FC0_0000, 0x7F_F000_0000] f 0

/-- The W40 poison encoding (R142). -/
abbrev w40Poison : Nat := 0x7F_E000_0001

/-- The magnitude of a code without its sign (R136). -/
def magQ (f c : Nat) : Rat :=
  let (_, fb, bias) := floatShape f
  let e := c / 2 ^ fb
  let m := c % 2 ^ fb
  if e = 0 then (m : Rat) * pow2 (1 - (bias : Int) - (fb : Int))
  else ((2 ^ fb + m : Nat) : Rat) * pow2 ((e : Int) - (bias : Int) - (fb : Int))

/-- The largest finite magnitude of a format. -/
def maxQ (f : Nat) : Rat := magQ f (maxCode f)

/-- The value of a code of a floating-point format (R136 to R138, R142). -/
def decodeFloat (f c : Nat) : Val :=
  let (eb, fb, _) := floatShape f
  let neg := c / 2 ^ (eb + fb) % 2 = 1
  let a := c % 2 ^ (eb + fb)
  let e := a / 2 ^ fb
  let m := a % 2 ^ fb
  let top := e = 2 ^ eb - 1
  if f ≤ fE3M2 then
    if neg ∧ a = 0 then .nan else .fin (if neg then -magQ f a else magQ f a)
  else if f = fE4M3 then
    if a = 0x7F then .nan else .fin (if neg then -magQ f a else magQ f a)
  else if f = fW40 ∧ e = 0 then .fin 0
  else if top then
    if m = 0 then .inf (decide neg) else if f = fW40 ∧ m = 1 then .poison else .nan
  else .fin (if neg then -magQ f a else magQ f a)

/-- The value of an integer code (R139). -/
def decodeInt (f c : Nat) : Int :=
  let b := elemBits f
  let u := c % 2 ^ b
  if f = fUINT8 ∨ u < 2 ^ (b - 1) then (u : Int) else (u : Int) - ((2 ^ b : Nat) : Int)

/-- The value of an element code; an INT8 element of an MX block carries the factor 2^-6 (R146). -/
def decodeElem (f : Nat) (mx : Bool) (c : Nat) : Val :=
  if isInt f then .fin ((decodeInt f c : Rat) * (if mx then pow2 (-6) else 1))
  else decodeFloat f (c % 2 ^ (if f = fW40 then 40 else elemBits f))

/-- The code of an integer. -/
def encodeInt (f : Nat) (v : Int) : Nat := (v % ((2 ^ elemBits f : Nat) : Int)).toNat

/-- The code of a value the format holds exactly. -/
def encodeExact (f : Nat) (q : Rat) : Nat :=
  let (eb, fb, bias) := floatShape f
  let a := absQ q
  if a = 0 then 0 else
    let e := max (log2Q a) (1 - (bias : Int))
    let m := (a / pow2 (e - (fb : Int))).floor.toNat
    let body := if m < 2 ^ fb then m else ((e + (bias : Int)).toNat * 2 ^ fb + (m - 2 ^ fb))
    body + (if q < 0 then 2 ^ (eb + fb) else 0)

/-- The code of an infinity of a format that has them. -/
def infCode (f : Nat) (neg : Bool) : Nat :=
  let (eb, fb, _) := floatShape f
  (2 ^ eb - 1) * 2 ^ fb + (if neg then 2 ^ (eb + fb) else 0)

/-- A value rounded to a format's precision and subnormal spacing, with no upper limit on the
exponent (R149). -/
def roundTo (f : Nat) (rtz : Bool) (q : Rat) : Rat :=
  let (_, fb, bias) := floatShape f
  if q = 0 then 0 else
    let u := max (log2Q (absQ q)) (1 - (bias : Int)) - (fb : Int)
    (roundQ rtz (q / pow2 u) : Rat) * pow2 u

/-- The smallest normal magnitude of a format. -/
def minNormal (f : Nat) : Rat := pow2 (1 - ((floatShape f).2.2 : Int))

/-! ## Conversion of one element (R150 to R152, R155) -/

/-- The counter an element meets (R152). -/
inductive Cls where
  | none | nan | sat | under | zero
  deriving DecidableEq, Repr

/-- A converted element: its code, its counter, whether it sets the overflow latch, and whether it
is written as poisoned. -/
structure Conv where
  code  : Nat
  cls   : Cls := .none
  latch : Bool := false
  poi   : Bool := false
  deriving DecidableEq, Repr

/-- The largest finite code of a sign, or the range end of an integer format. -/
def satCode (f : Nat) (neg : Bool) : Nat :=
  if isInt f then encodeInt f (if neg then (intRange f).1 else (intRange f).2)
  else maxCode f + (if neg then 2 ^ ((floatShape f).1 + (floatShape f).2.1) else 0)

/-- The formats whose results below the smallest normal are written as +0 (R151). -/
def flushes (f : Nat) : Bool := f == fBF16 || f == fFP16 || f == fW40

/-- One element converted (R149 to R152, R155): STRICT and RTZ as the instruction names them. -/
def convElem (f : Nat) (strict rtz : Bool) (y : Val) : Conv :=
  match y with
  | .poison => ⟨if f = fW40 then w40Poison else nanCode f, .none, false, true⟩
  | .nan => ⟨nanCode f, .nan, false, false⟩
  | .inf neg =>
    if isInt f then ⟨satCode f neg, .sat, false, false⟩
    else if hasInf f then ⟨infCode f neg, .none, false, false⟩
    else if strict then ⟨nanCode f, .sat, false, false⟩
    else ⟨satCode f neg, .sat, false, false⟩
  | .fin q =>
    if q = 0 then ⟨0, .zero, false, false⟩
    else if isInt f then
      let r := roundQ rtz q
      if r < (intRange f).1 then ⟨satCode f true, .sat, strict, false⟩
      else if (intRange f).2 < r then ⟨satCode f false, .sat, strict, false⟩
      else ⟨encodeInt f r, .none, false, false⟩
    else
      let r := roundTo f rtz q
      let neg := decide (q < 0)
      if maxQ f < absQ r then
        if strict then ⟨if hasInf f then infCode f neg else nanCode f, .sat, true, false⟩
        else ⟨satCode f neg, .sat, false, false⟩
      else if r = 0 ∨ (flushes f ∧ absQ r < minNormal f) then ⟨0, .under, false, false⟩
      else ⟨encodeExact f r, .none, false, false⟩

/-! ## Arithmetic with special values (R119, R148) -/

/-- The sign of a value for the result of a product or a quotient. -/
def Val.isNeg (v : Val) : Bool :=
  match v with
  | .fin q => decide (q < 0)
  | .inf n => n
  | _ => false

/-- A product; 0 × ∞ is NaN, poison wins. -/
def Val.mul (a b : Val) : Val :=
  match a, b with
  | .poison, _ => .poison
  | _, .poison => .poison
  | .nan, _ => .nan
  | _, .nan => .nan
  | .inf n, .inf m => .inf (n != m)
  | .inf n, .fin q => if q = 0 then .nan else .inf (n != decide (q < 0))
  | .fin q, .inf n => if q = 0 then .nan else .inf (n != decide (q < 0))
  | .fin p, .fin q => .fin (p * q)

/-- A quotient; a nonzero value over zero is an infinity, 0 / 0 and ∞ / ∞ are NaN. -/
def Val.div (a b : Val) : Val :=
  match a, b with
  | .poison, _ => .poison
  | _, .poison => .poison
  | .nan, _ => .nan
  | _, .nan => .nan
  | .inf _, .inf _ => .nan
  | .inf n, .fin q => .inf (n != decide (q < 0))
  | .fin _, .inf _ => .fin 0
  | .fin p, .fin q => if q = 0 then (if p = 0 then .nan else .inf (decide (p < 0))) else .fin (p / q)

/-- A sum; ∞ − ∞ is NaN. -/
def Val.add (a b : Val) : Val :=
  match a, b with
  | .poison, _ => .poison
  | _, .poison => .poison
  | .nan, _ => .nan
  | _, .nan => .nan
  | .inf n, .inf m => if n = m then .inf n else .nan
  | .inf n, .fin _ => .inf n
  | .fin _, .inf n => .inf n
  | .fin p, .fin q => .fin (p + q)

/-- The negative. -/
def Val.neg (a : Val) : Val :=
  match a with
  | .fin q => .fin (-q)
  | .inf n => .inf (!n)
  | v => v

/-- The magnitude. -/
def Val.abs (a : Val) : Val :=
  match a with
  | .fin q => .fin (absQ q)
  | .inf _ => .inf false
  | v => v

/-- A value rounded to FP32 by round to nearest even, its overflow an infinity, subnormals kept. -/
def Val.toFP32 (v : Val) : Val :=
  match v with
  | .fin q =>
    let r := roundTo fFP32 false q
    if maxQ fFP32 < absQ r then .inf (decide (q < 0)) else .fin r
  | v => v

/-- `a < b` where both are numbers or infinities; false with a NaN (R159). -/
def Val.lt (a b : Val) : Bool :=
  match a, b with
  | .fin p, .fin q => decide (p < q)
  | .inf n, .inf m => n && !m
  | .inf n, .fin _ => n
  | .fin _, .inf m => !m
  | _, _ => false

/-- Equality of values; false with a NaN. -/
def Val.eq (a b : Val) : Bool :=
  match a, b with
  | .fin p, .fin q => decide (p = q)
  | .inf n, .inf m => n == m
  | _, _ => false

/-! ## MX blocks (R145, R146, R154) -/

/-- The value of an E8M0 scale. -/
def e8m0 (e : Nat) : Val := if e = 0xFF then .nan else .fin (pow2 ((e : Int) - 127))

/-- emax of an MX element code (R146). -/
def mxEmax (f : Nat) : Int := nth [2, 2, 4, 8, 15] f 0

/-- The largest element magnitude of an MX element code. -/
def mxMax (f : Nat) : Rat := if f = fINT8 then mkRat 127 64 else maxQ f

/-- One element of an MX block at its scale (R154 step 4). -/
def mxElem (f : Nat) (rtz : Bool) (y : Val) : Conv :=
  match y with
  | .poison => ⟨nanCode f, .none, false, true⟩
  | .nan => ⟨0, .nan, false, false⟩
  | .inf neg =>
    ⟨if f = fINT8 then encodeInt f (if neg then -127 else 127) else satCode f neg, .sat, false, false⟩
  | .fin q =>
    if q = 0 then ⟨0, .zero, false, false⟩
    else
      let neg := decide (q < 0)
      let r : Rat := if f = fINT8 then (roundQ rtz (q * 64) : Rat) / 64 else roundTo f rtz q
      if mxMax f < absQ r then
        ⟨if f = fINT8 then encodeInt f (if neg then -127 else 127) else satCode f neg, .sat, false, false⟩
      else if r = 0 then ⟨0, .under, false, false⟩
      else ⟨if f = fINT8 then encodeInt f (r * 64).floor else encodeExact f r, .none, false, false⟩

/-- The largest magnitude of the unpoisoned values of a block; an infinity counts as the largest
FP32 magnitude. -/
def amaxOf (vs : List Val) : Rat :=
  vs.foldl (fun m v => match v with
    | .fin q => max m (absQ q)
    | .inf _ => max m (maxQ fFP32)
    | _ => m) 0

/-- The scale of amax under a target element code: ⌊log2 amax⌋ − emax + 127, clamped (R154). -/
def mxScale (f : Nat) (amax : Rat) : Nat :=
  (min 254 (max 0 (log2Q amax - mxEmax f + 127))).toNat

/-- A block of 32 converted to an MX target: its scale and its elements (R154). -/
def mxBlock (f : Nat) (strict rtz : Bool) (vs : List Val) : Nat × List Conv :=
  let bad := vs.any (fun v => match v with | .nan => true | .inf _ => strict | _ => false)
  let amax := amaxOf vs
  if bad then
    (0xFF, vs.map (fun v => match v with
      | .poison => ⟨nanCode f, .none, false, true⟩
      | .nan => ⟨0, .nan, false, false⟩
      | .inf _ => ⟨0, .sat, false, false⟩
      | .fin q => if q = 0 then ⟨0, .zero, false, false⟩ else ⟨0, .none, false, false⟩))
  else if amax = 0 then
    (0x7F, vs.map (fun v => match v with
      | .poison => ⟨nanCode f, .none, false, true⟩
      | _ => ⟨0, .zero, false, false⟩))
  else
    let e := mxScale f amax
    (e, vs.map (fun v => mxElem f rtz (v.div (e8m0 e))))

/-! ## W40 (R141 to R143) -/

/-- The W40 code of a value, rounded to nearest even; an overflow is an infinity and a magnitude
below the smallest normal is +0. -/
def toW40 (v : Val) : Nat :=
  match v with
  | .poison => w40Poison
  | .nan => nanCode fW40
  | .inf n => infCode fW40 n
  | .fin q =>
    let r := roundTo fW40 false q
    if maxQ fW40 < absQ r then infCode fW40 (decide (q < 0))
    else if absQ r < minNormal fW40 then 0 else encodeExact fW40 r

/-- The value of a W40 code. -/
def ofW40 (c : Nat) : Val := decodeFloat fW40 (c % 2 ^ 40)

/-- Two W40 values added and rounded to nearest even in W40. -/
def addW40 (a b : Val) : Val := ofW40 (toW40 (a.add b))

end Sys2Proof.Machine
end

