-- ==== Sys2Proof/Config.lean ====
section
/-! DEFINITION. What an implementation fixes and the values the spec leaves open. Every open value
is an opaque constant without a body: nothing in Lean can evaluate it. Fixed tables of the spec are
plain definitions. -/

namespace Sys2Proof.Config

/-! ## Free values -/

/-- The ulp step a transcendental result takes within its bound (R196), by function code and the
operand's numerator and denominator. -/
opaque transcStep : Nat → Int → Nat → Nat

/-- A value an instruction leaves unstated, by the number of the draw and its width. -/
opaque freeBits : Nat → Nat → Nat

/-- Where firmware's search for a free page begins (R70 gives the stack, not the page), by the
number of the allocation. -/
opaque pageStart : Nat → Nat

/-- What a byte of a slice whose contents nothing determines reads as (R81), by its address. -/
opaque staleByte : Nat → Byte

/-- One thing an unpredictable result may do within the context that caused it (R67): a byte of its
memory or of a scratchpad of its cores written, a register, predicate, token, program counter or
accumulator of one of its cores, a truss, a collective group, a chunk of a collective, a counter, an event
of the context, an instruction of one of its engines ended, or a core of it stopped or going on. -/
inductive WildAct where
  | store (core va : Nat) (b : Byte) (poisoned : Bool)
  | sreg (core r : Nat) (v : Word)
  | pred (core i : Nat) (v : Bool)
  | token (core t v : Nat)
  | pc (core : Nat) (a : Word)
  | acc (core i : Nat) (v : BitVec 40)
  | truss (v gen arrived pending : Nat)
  | group (g seq : Nat)
  | chunk (i j : Nat) (lost : Bool)
  | counter (number n : Nat)
  | event (code : Nat) (payload : List Byte)
  | finish (core engine id status grains : Nat)
  | stop (core : Nat) (b : Bool)
  deriving DecidableEq, Repr

/-- What the unpredictable result with a number does (R9, R67). -/
opaque wildActs : Nat → List WildAct

/-- The hash that spreads cache lines over the sets of a base die's cache slices (R80). -/
opaque cacheHash : Nat → Nat

/-- The row of a pseudo-channel in which an HBM address lies (R85 names rows, not their size). -/
opaque hbmRow : Nat → Nat

/-- Which line of a full set is evicted (R80). -/
opaque cacheVictim : Nat → Nat

/-- The leaf function of Ed448 signature verification (RFC 8032), which R417 names:
public key, message, signature. -/
opaque ed448Verify : List Byte → List Byte → List Byte → Bool

/-- The leaf function of Ed448 signing with the ATTEST key of the part (R414), by counter 2. -/
opaque ed448Sign : Nat → List Byte → List Byte

/-- The ROM's digest of each root key slot (R417): SHAKE256, 64 bytes. -/
opaque rootDigest : Nat → List Byte

/-- The flash key of the part (R414). -/
opaque flashKey : List Byte

/-- The seed of the identity (R414). -/
opaque identityDigest : List Byte

/-- The certificate chain of slot 0 (R415, R421), by counters 0 to 4 and the debug state at boot. -/
opaque certChain : List Nat → Bool → List Byte

/-- The boot ROM's bytes and the configuration record's, as measured (R422). -/
opaque romImage : List Byte
opaque recordImage : List Byte

/-- The responder's key-exchange value (R421), by the session number. -/
opaque keyShare : Nat → List Byte

/-- The serial number the configuration record holds (R415). -/
opaque serial : Nat

/-- What the configuration record of the part holds of bay b (R310): FREQ_MHZ and VOLT_MV of point i, and
REFIT_BOUND_MV, DROOP_MV and MIN_MARGIN_PS. -/
opaque recordMhz : Nat → Nat → Nat
opaque recordMv : Nat → Nat → Nat
opaque recordBound : Nat → Nat
opaque recordDroop : Nat → Nat
opaque recordMargin : Nat → Nat

/-- The margin threshold of Chain lanes in the configuration record (R247). -/
opaque laneThreshold : Nat

/-- HBM firmware reserves on each stack for its own records, in pages, beside what the manual
names (R30). -/
opaque fwPages : Nat → Nat

/-- The board's base MAC address in the configuration record (R261). -/
opaque macBase : Nat

/-- The credits of a class a buffer of a kind holds beyond the first (R90): 0 a read port, 1 a router, 2 a
lane group, 3 a write port. -/
opaque credits : Nat → Nat → Nat

/-- The edge router a Chain join attaches to on a base die (R252 gives the side, not the router). -/
opaque edgeRouter : Nat → Nat → Nat

/-- The lane group a burst takes over a join, by its TAG (R254 gives the path, not the group). -/
opaque groupChoice : Nat → Nat

/-- The value training resets a lane's scrambler to (R241), which the spec does not give. -/
opaque scramblerSeed : BitVec 23

/-- The version numbers of a firmware image (R467): of an IMAGE_VERSION, its major, minor and patch
number and its message-format minor version (0 to 3). -/
opaque fwNumbers : Nat → Nat → Nat

/-- The IMAGE_VERSION (0) and COMPAT_ID (1) of the image a part is shipped with, by target (R418). -/
opaque shipped : Nat → Nat → Nat

/-- The manifest of a shipped image by target, and that of a nested loader by its SVN (R422). -/
opaque shippedManifest : Nat → List Byte
opaque loaderManifest : Nat → List Byte

/-- The bytes that the tag of an authenticated flash write covers (R413), of area, write counter and data. -/
opaque flashTagged : Nat → Nat → List Byte → List Byte

/-- The PLDM terminus id, and the version the endpoint answers for a PLDM type (R321). -/
opaque tid : Nat
opaque pldmVersion : Nat → Nat

/-- The SVN of the loader nested in an image, and the counter 0 its revocation section carries (R418, R420), of the
image's bytes: the spec gives neither place. -/
opaque nestedSvn : List Byte → Nat
opaque revocation : List Byte → Nat

/-! ## Fixed tables -/

/-- Whether the points of a bay in the record are as R310 has every part's. -/
def pointsOk (b : Nat) : Bool :=
  recordMhz b 0 == 550 && recordMhz b 15 == 1320 && (List.range 16).any (fun i => recordMhz b i == 1100) &&
    (List.range 16).all (fun i => recordMhz b i % 5 == 0 && decide (600 ≤ recordMv b i) && decide (recordMv b i ≤ 890)) &&
    (List.range 15).all (fun i => decide (recordMhz b i < recordMhz b (i + 1)) && decide (recordMv b i ≤ recordMv b (i + 1)))

/-- A table that meets R310, which stands for a record that does not: no part has one. -/
def plainMhz (i : Nat) : Nat := if i < 14 then 550 + 50 * i else if i = 14 then 1260 else 1320

/-- The frequency in MHz and the voltage in mV of table point i of bay b (R310), and REFIT_BOUND_MV, DROOP_MV and
MIN_MARGIN_PS of the bay. -/
def pointMhz (b i : Nat) : Nat := if pointsOk b then recordMhz b (min i 15) else plainMhz i
def pointMv (b i : Nat) : Nat := if pointsOk b then recordMv b (min i 15) else 600 + 15 * min i 15
def refitBound (b : Nat) : Nat := recordBound b % 61
def droopMv (b : Nat) : Nat := 20 + recordDroop b % 41
def minMargin (b : Nat) : Nat := recordMargin b % 0x1_0000

/-- 2 MiB. -/
abbrev page2 : Nat := 0x20_0000
/-- 1 GiB. -/
abbrev page1g : Nat := 0x4000_0000
/-- Bytes of a scratchpad (R74). -/
abbrev scratchBytes : Nat := 0x40_0000
/-- Where physical scratchpads begin (R69). -/
abbrev scratchDpa : Nat := 0xC0_0000_0000
/-- Where Thatch begins (R69). -/
abbrev thatchDpa : Nat := 0x80_0000_0000
/-- Bytes of an HBM stack (R3, R69). -/
abbrev stackBytes : Nat := 0xC_0000_0000
/-- Pages of 2 MiB in a stack. -/
abbrev stackPages : Nat := 24576

end Sys2Proof.Config
end

