-- ==== Sys2Proof/Machine/Ops.lean ====
section
/-! DEFINITION. The named operations every command shares: looking up and replacing a context or a
core, placement and residency, counters, MSI-X, outbox records, trace records, and raising an event
with the class rules of R379 and R387. -/

namespace Sys2Proof.Machine

/-- What a command answers. -/
abbrev Out := Host.Outcome State Fault Refusal

/-! ## Contexts and cores -/

/-- The context with number `k` (R34). -/
def ctxOf (s : State) (k : Nat) : Ctx := look s.ctxs {} k

/-- The state with a context replaced. -/
def setCtx (s : State) (k : Nat) (x : Ctx) : State := { s with ctxs := put s.ctxs k x }

/-- The key of logical core `n` of context `k` in the table of core states. -/
def coreKey (k n : Nat) : Nat := 512 * k + n

/-- The state of logical core `n` of context `k` (R36). -/
def coreOf (s : State) (k n : Nat) : Core := look s.cores {} (coreKey k n)

/-- The state with a core replaced. -/
def setCore (s : State) (k n : Nat) (c : Core) : State := { s with cores := put s.cores (coreKey k n) c }

/-- The context numbers of the device (R34). -/
def ctxNums : List Nat := List.range 64

/-- The home bay of a logical core (R15). -/
def homeBay (n : Nat) : Nat := n / 20

/-- The spare slot of a bay (R14); the configuration record's value where none is listed. -/
def spareOf (pl : Place) (b : Nat) : Nat := look pl.spare 20 b

/-- The physical core a logical core holds at test: its bay's slots in order, the spare left out
(R12, R14). -/
def homePhys (pl : Place) (n : Nat) : Nat :=
  let b := homeBay n
  let i := n % 20
  21 * b + (if i < spareOf pl b then i else i + 1)

/-- The physical core the placement map gives a logical core (R16). -/
def mapPhys (pl : Place) (n : Nat) : Nat := look pl.map (homePhys pl n) n

/-- The physical core a logical core runs on: its stand-in while its own is under test (R409), and
otherwise the one the placement map gives it. -/
def physOf (pl : Place) (n : Nat) : Nat :=
  match pl.patrolMoves.find? (fun e => e.1 == n) with
  | some e => e.2
  | none => mapPhys pl n

/-- The logical core that physical core `p` held at test; none for a spare slot (R14). -/
def homeLogical (pl : Place) (p : Nat) : Option Nat :=
  let b := p / 21
  let i := p % 21
  let sp := spareOf pl b
  if i = sp then none else some (20 * b + (if i < sp then i else i - 1))

/-- The logical cores the placement map puts on physical core `p`, rising. -/
def mappedOn (pl : Place) (p : Nat) : List Nat :=
  let moved := (pl.map.filter (fun e => e.2 == p)).map (fun e => e.1)
  match homeLogical pl p with
  | some n => if has pl.map n then moved else addNat moved n
  | none => moved

/-- The logical cores that run on physical core `p`, rising: those mapped there and not standing in
elsewhere, and those that stand in there. -/
def placedOn (pl : Place) (p : Nat) : List Nat :=
  ((pl.patrolMoves.filter (fun e => e.2 == p)).map (fun e => e.1)).foldl addNat
    ((mappedOn pl p).filter (fun n => !pl.patrolMoves.any (fun e => e.1 == n)))

/-- The partition a bay belongs to, by number (R364). -/
def partOfBay (pl : Place) (b : Nat) : Nat := nth pl.layout b 0

/-- The partition of a logical core (R28, R364). -/
def partOf (pl : Place) (n : Nat) : Nat := partOfBay pl (homeBay n)

/-- The bays of a partition. -/
def baysOf (pl : Place) (part : Nat) : List Nat := (List.range 16).filter (fun b => partOfBay pl b == part)

/-- The partition numbers of the layout. -/
def partNums (pl : Place) : List Nat := (List.range 16).filter (fun b => partOfBay pl b == b)

/-- The logical cores of a partition, rising. -/
def coresOf (pl : Place) (part : Nat) : List Nat := (List.range 320).filter (fun n => partOf pl n == part)

/-- A large configuration is the whole device or a half (R28). -/
def isLarge (pl : Place) (part : Nat) : Bool := decide (8 ≤ (baysOf pl part).length)

/-- The settings and schedule of a partition. -/
def partSt (pl : Place) (part : Nat) : PartSt := look pl.parts {} part

/-- The base dies under a partition (R28). -/
def diesOf (pl : Place) (part : Nat) : List Nat :=
  (List.range 4).filter (fun d => (baysOf pl part).any (fun b => b / 4 == d))

/-- The HBM stacks of a partition (R28). -/
def stacksOf (pl : Place) (part : Nat) : List Nat := (diesOf pl part).flatMap (fun d => [2 * d, 2 * d + 1])

/-- The Thatch slices of a partition, as 44·d + s (R28). -/
def slicesOf (pl : Place) (part : Nat) : List Nat :=
  (baysOf pl part).flatMap (fun b => (List.range 11).map (fun i => 44 * (b / 4) + 11 * (b % 4) + i))

/-- The context running on the partition of logical core `n`. -/
def runningOn (s : State) (n : Nat) : Option Nat := (partSt s.place (partOf s.place n)).running

/-- The physical core on which logical core `n` is resident: its own, or the shared one while it
is the resident half of its pair (R16, R22). -/
def residentPhys (s : State) (n : Nat) : Option Nat :=
  let p := physOf s.place n
  let ph := look s.place.phys {} p
  match placedOn s.place p with
  | [_] => some p
  | l =>
    match ph.resident with
    | some r => if r = n then some p else none
    | none => if l.head? = some n then some p else none

/-- Whether core `n` of context `k` is resident: its context runs and it holds its physical core. -/
def isResident (s : State) (k n : Nat) : Bool :=
  runningOn s n == some k && (residentPhys s n).isSome

/-- Where a byte of the save image of core `n` of a context lies: on a Thatch slice, or in the pages of its
home (R478). -/
def imgAt (x : Ctx) (n off : Nat) : Nat :=
  if has x.imgThatch n then look x.imgThatch 0 n + off
  else nth (look x.imgHome [] n) (off / Config.page2) 0 + off % Config.page2

/-- Where a byte of the scratchpad of core `n` of context `k` lies (R78): in the physical scratchpad while the
core is resident, in its save image otherwise. -/
def scratchAt (s : State) (k n off : Nat) : Nat :=
  if isResident s k n then Config.scratchDpa + physOf s.place n * Config.scratchBytes + off
  else imgAt (ctxOf s k) n off

/-- The physical core and bay that core `n` runs on. -/
def bayOf (s : State) (n : Nat) : Nat := physOf s.place n / 21

/-- A bay's state. -/
def bayAt (s : State) (b : Nat) : Bay := look s.power.bays {} b

/-- The state with a bay replaced. -/
def setBay (s : State) (b : Nat) (y : Bay) : State :=
  { s with power := { s.power with bays := put s.power.bays b y } }

/-! ## Counters (R427, R428) -/

/-- The key of a counter address. -/
def counterKey (kind index number : Nat) : Nat := (kind * 0x1_0000_0000 + index) * 0x1_0000 + number

/-- A counter raised by `n`. -/
def bumpT (t : Tbl Nat) (kind index number n : Nat) : Tbl Nat :=
  put t (counterKey kind index number) (look t 0 (counterKey kind index number) + n)

/-- A counter of the device raised by `n`. -/
def bump (s : State) (kind index number n : Nat) : State :=
  { s with obs := { s.obs with counters := bumpT s.obs.counters kind index number n } }

/-- A counter's value. -/
def counter (s : State) (kind index number : Nat) : Nat :=
  look s.obs.counters 0 (counterKey kind index number)

/-! ## MSI-X (R350, R475) -/

/-- Vector `v` fires: the message is sent, or held pending while it is masked or the link is down. -/
def fire (h : HostIf) (link : Bool) (v : Nat) : HostIf :=
  let e := look h.msix {} v
  if e.mask || !link then { h with msix := put h.msix v { e with pend := true } }
  else { h with msi := h.msi ++ [v] }

/-- Vector `v` fires when `b` holds. -/
def fireIf (b : Bool) (h : HostIf) (link : Bool) (v : Nat) : HostIf :=
  if b then fire h link v else h

/-- Vector 2: a change of DEV_STATUS [31:20] or [15:8], or of the progress percent (R350, R469). -/
def fire2 (s : State) : State := { s with host := fire s.host s.fw.linkUp 2 }

/-! ## The outbox (R349 to R351, R472) -/

/-- Unconsumed records of the ring. -/
def unconsumed (o : Outbox) : Nat := (o.prod + 8192 - o.cons) % 8192

/-- The outbox takes no record: it is full, has no ring, or the link is down. -/
def outboxBlocked (f : Firmware) : Bool :=
  decide (f.outbox.addr = 0) || decide (4096 ≤ unconsumed f.outbox) || !f.linkUp

/-- A record of an outbox type that firmware holds rather than drops while the outbox is full. -/
def heldType (t : Nat) (async : Bool) : Bool := !async || t == 0x8001

/-- A record for the host put in line for the outbox; while the outbox is blocked an asynchronous
record other than LAUNCH_DONE is only counted (R351). -/
def putRec (f : Firmware) (r : Rec) : Firmware :=
  if outboxBlocked f && !heldType r.type r.async then
    { f with outbox := { f.outbox with notWritten := f.outbox.notWritten + 1 } }
  else { f with outbox := { f.outbox with waiting := f.outbox.waiting ++ [r] } }

/-- The 64 bytes of a record with its PHASE (R349). -/
def recordBytes (r : Rec) (phase : Nat) : List Byte :=
  p4 r.seq ++ leBytes 2 r.type ++ leBytes 1 r.source ++ leBytes 1 r.ctx ++ leBytes 2 r.status
    ++ leBytes 1 (phase + 2 * b1 r.async) ++ [0] ++ p4 0 ++ p8 r.tag.toNat ++ (r.result ++ List.replicate 40 0).take 40

/-- A record put in line toward a manager node (R348). -/
def toManager (n : Net) (node : Nat) (r : Rec) : Net := { n with records := n.records ++ [(node, r)] }

/-- Whether a context reports to its manager (R358). -/
def byNetwork (s : State) (k : Nat) : Bool := decide (k < 64) && (ctxOf s k).route == 1

/-- Asynchronous records not written, shown in the error summary (R351, R473). -/
def lostRecs (h : HostIf) (link : Bool) (n : Nat) : HostIf :=
  if n = 0 then h
  else fireIf (!h.errSummary.getLsbD 4 && !h.errMask.getLsbD 4) { h with errSummary := h.errSummary ||| 16 } link 1

/-- An asynchronous record of a context, to the outbox or to its manager (R348, R356). -/
def asyncRec (s : State) (type k status : Nat) (result : List Byte) : State :=
  let r : Rec := ⟨0, type, 0xFF, k, status, true, 0, result⟩
  let net := byNetwork s k
  let drop := !net && outboxBlocked s.fw && !heldType type true
  { s with
    net := if net then toManager s.net (ctxOf s k).manager r else s.net
    fw := if net then s.fw else putRec s.fw r
    obs := { s.obs with counters := if drop then bumpT s.obs.counters 0 0 0xC2 1 else s.obs.counters }
    host := lostRecs s.host s.fw.linkUp (if drop then 1 else 0) }

/-! ## The trace (R431 to R434) -/

/-- A trace record put into its source's buffer of 4,096; dropped and counted when it is full. -/
def traceO (o : Observe) (t : TraceRec) : Observe :=
  let b := look o.buffers [] t.source
  if b.length < 4096 then
    let t' := if o.lostB.elem t.source then { t with flags := t.flags + 4 } else t
    { o with buffers := put o.buffers t.source (b ++ [t']), lostB := delNat o.lostB t.source }
  else { o with counters := bumpT o.counters 0 0 0xC1 1, lostB := addNat o.lostB t.source }

/-- The category bits of R431. -/
def catOn (o : Observe) (cat k : Nat) : Bool :=
  o.cats.getLsbD cat && (cat == 4 || o.mask.getLsbD k)

/-- A category record of context `k`, core `n`, written when its category is enabled (R433). -/
def traceCat (s : State) (cat k n src ev flags tag : Nat) (pay : List Byte) : State :=
  { s with obs := if catOn s.obs cat k then traceO s.obs ⟨s.clock.ns, src, ev, k, flags, n, tag, pay⟩ else s.obs }

/-! ## Units (R381) -/

def unitPhys (p : Nat) : Nat := 0x1000 + p
def unitSlice (i : Nat) : Nat := 0x2000 + i
def unitChan (c : Nat) : Nat := 0x3000 + c
def unitJoin (j : Nat) : Nat := 0x4000 + j
def unitNd (i : Nat) : Nat := 0x5000 + i
def unitPort (p : Nat) : Nat := 0x6000 + p
def unitPair (p : Nat) : Nat := 0x7000 + p
def unitPmu : Nat := 0x8000
def unitBase (d : Nat) : Nat := 0x9000 + d
def unitBay (b : Nat) : Nat := 0xA000 + b
def unitCore (n : Nat) : Nat := 0xB000 + n

/-- The unit in which a memory error at a physical address arises (R69, R70, R381). -/
def unitOfDpa (a : Nat) : Nat :=
  if a < Config.thatchDpa then unitChan (32 * (a / Config.stackBytes) + a / 256 % 32)
  else if a < Config.scratchDpa then
    unitSlice (44 * ((a - Config.thatchDpa) / 0x4000_0000) + (a - Config.thatchDpa) % 0x4000_0000 / 0x100_0000)
  else unitPhys ((a - Config.scratchDpa) / Config.scratchBytes)

/-! ## Events (R379 to R387) -/

/-- Classes C, D, J, V, X as FLAGS[2:0] gives them (R380). -/
abbrev clsC : Nat := 0
abbrev clsD : Nat := 1
abbrev clsJ : Nat := 2
abbrev clsV : Nat := 3
abbrev clsX : Nat := 4

/-- Whether a restart past its halt phase is served by a unit (R387, rule 2): a core of a
restarting context, a Chain join or network die while a restore runs, or firmware pair 1. -/
def servesRestart (s : State) (unit : Nat) : Bool :=
  ctxNums.any (fun k =>
    let x := ctxOf s k
    decide (3 ≤ x.restart.phase) &&
      (unit / 0x1000 == 4 || unit / 0x1000 == 5 || unit == unitPair 1 ||
       (unit / 0x1000 == 11 && partOf s.place (unit % 0x1000) == x.part) ||
       (unit / 0x1000 == 1 && partOfBay s.place (unit % 0x1000 / 21) == x.part)))

/-- What R387 decides of an event raised now: its class, and whether it is escalated, nested and
merged, with the SEQ of the event in handling. -/
structure Ruling where
  cls    : Nat
  escal  : Bool
  nested : Bool
  merged : Bool
  parent : Nat
  deriving DecidableEq, Repr

/-- The first rule of R387 that applies to an event of class `cls` in `unit` for context `k`. -/
def ruling (s : State) (code cls k unit : Nat) : Ruling :=
  match s.obs.handling.getLast? with
  | none => ⟨cls, false, false, false, 0⟩
  | some h =>
    let par := h.seq % 0x1_0000
    let x := ctxOf s k
    if cls = clsJ ∧ k < 64 ∧ ((1 ≤ x.restart.phase ∧ x.restart.phase ≤ 2) ∨
        (code = 0x0811 ∧ s.obs.handling.any (fun g => g.cls == clsJ && g.ctx == k) = true)) then
      ⟨cls, false, true, true, par⟩
    else if (code = 0x0816 ∨ code = 0x0404) ∧ k < 64 ∧ 0 < x.restart.phase then ⟨cls, false, true, true, par⟩
    else if (cls = clsD ∨ cls = clsJ) ∧ servesRestart s unit = true then ⟨clsV, true, true, false, par⟩
    else if cls = clsV ∧ s.fw.recovering = true then ⟨clsX, true, true, false, par⟩
    else if unit ≠ 0 ∧ unit = h.unit ∧ cls < clsX then ⟨cls + 1, true, true, false, par⟩
    else ⟨cls, false, true, false, par⟩

/-- The 12-byte pieces of a payload, at least one (R380). -/
def pieces (fuel : Nat) (p : List Byte) : List (List Byte) :=
  match fuel with
  | 0 => [p.take 12]
  | f + 1 => if p.length ≤ 12 then [p] else p.take 12 :: pieces f (p.drop 12)

/-- A list of bytes padded with zeros to a length. -/
def padTo (n : Nat) (p : List Byte) : List Byte := (p ++ List.replicate n 0).take n

/-- FLAGS of a record of an event (R380). -/
def eventFlags (e : Event) (cont : Bool) : Nat :=
  e.cls + (if e.escal then 8 else 0) + (if e.nested then 16 else 0) + (if e.merged then 32 else 0)
    + (if cont then 64 else 0)

/-- The 32-byte records of an event (R380). -/
def eventRecords (e : Event) : List (List Byte) :=
  (pieces 8 e.payload).zipIdx.map (fun ⟨p, i⟩ =>
    p8 e.time ++ p4 e.seq ++ leBytes 2 e.code ++ leBytes 1 (eventFlags e (decide (0 < i)))
      ++ leBytes 1 e.ctx ++ leBytes 2 e.unit ++ leBytes 2 e.parent ++ padTo 12 p)

/-- The two trace records that mirror each log record, with the core it concerns and the pass of its
span (R432, R433). -/
def traceEvent (o : Observe) (e : Event) (lc pass : Nat) : Observe :=
  (pieces 8 e.payload).zipIdx.foldl (fun o ⟨p, i⟩ =>
    let q := padTo 12 p
    let a : TraceRec := ⟨e.time, e.unit, 1, e.ctx, pass, lc, e.seq,
      leBytes 2 e.code ++ leBytes 1 (eventFlags e (decide (0 < i))) ++ [0] ++ leBytes 2 e.unit
        ++ leBytes 2 e.parent ++ q.take 4⟩
    let b : TraceRec := ⟨e.time, e.unit, 2, e.ctx, pass, lc, e.seq, q.drop 4 ++ p4 0⟩
    traceO (traceO o a) b) o

/-- The records a log holds at most (R382). -/
def logCap : Nat := 65536

/-- The records a list of events takes. -/
def recordCount (l : List Event) : Nat := (l.map (fun v => (pieces 8 v.payload).length)).sum

/-- The log with an event added, the oldest given up beyond 65,536 records. -/
def logAdd (l : List Event) (e : Event) : List Event :=
  match l with
  | [] => [e]
  | x :: r => if logCap < recordCount (x :: r) + recordCount [e] then logAdd r e else x :: r ++ [e]

/-- The next sequence number: 0xFFFF_FFFF is followed by 1 (R380). -/
def seqAfter (q : Nat) : Nat := if q = 0xFFFF_FFFF then 1 else q + 1

/-- Whether an event is sent to the host and counted in the error summary (R382, R473). -/
def reported (code cls : Nat) : Bool := decide (clsJ ≤ cls) || code / 256 == 7

/-- The error summary and its counters after a reported event (R473). -/
def summarise (h : HostIf) (link : Bool) (e : Event) : HostIf :=
  let fwb := e.code / 256 == 7
  let bits : BitVec 5 :=
    (if e.cls = clsJ then 1 else 0) ||| (if e.cls = clsV then 2 else 0) ||| (if e.cls = clsX then 4 else 0)
      ||| (if fwb then 8 else 0)
  let rise := bits &&& ~~~h.errSummary &&& ~~~h.errMask
  let h1 := { h with
    errSummary := h.errSummary ||| bits
    lastSeq := e.seq
    lastInfo := BitVec.ofNat 32 (e.ctx * 0x100_0000 + eventFlags e false * 0x1_0000 + e.code)
    lastTime := e.time
    cntJ := if e.cls = clsJ then h.cntJ + 1 else h.cntJ
    cntV := if e.cls = clsV then h.cntV + 1 else h.cntV
    cntX := if e.cls = clsX then h.cntX + 1 else h.cntX
    cntFw := if fwb then h.cntFw + 1 else h.cntFw }
  fireIf (decide (rise ≠ 0)) h1 link 1

/-- The EVENT records of a reported event (R356, R382). -/
def eventRecsOf (e : Event) : List Rec := (eventRecords e).map (fun b => ⟨0, 0x8005, 0xFF, e.ctx, 0, true, 0, b⟩)

/-- The EVENT records of a reported event in line for the outbox. -/
def eventRecs (f : Firmware) (e : Event) : Firmware := (eventRecsOf e).foldl putRec f

/-- The event as it is recorded now. -/
def mkEvent (s : State) (code cls k unit : Nat) (pay : List Byte) : Event :=
  let r := ruling s code cls k unit
  ⟨s.clock.ns, s.obs.seqNext, code, r.cls, r.escal, r.nested, r.merged, k, unit,
    if r.nested then r.parent else 0, pay⟩

/-- Whether the handling of an event outlasts its record (R386): a class J or V event that is not
merged. The end of a job is not handled further. -/
def staysInHandling (e : Event) : Bool :=
  !e.merged && (e.cls == clsJ || e.cls == clsV) && e.code != 0x0818

/-- JOB_HALT and DEVICE_RECOVERY, which are the handling of the event that caused them. -/
def isAction (code : Nat) : Bool := code == 0x0811 || code == 0x0819

/-- An event taken into handling, or queued behind the one in handling (R387, rules 5 and 6); one
of class V ends the handling of every class J event. -/
def enterHandling (o : Observe) (h : Handling) : Observe :=
  if isAction h.code then
    (if o.handling.any (fun g => g.cls == h.cls && (g.cls == clsV || g.ctx == h.ctx)) then o
     else { o with handling := o.handling ++ [h] })
  else match o.handling.getLast? with
    | none => { o with handling := [h] }
    | some g =>
      if h.cls = clsV ∧ g.cls < clsV then
        { o with
          handling := o.handling.filter (fun x => x.cls != clsJ) ++ [h]
          queued := o.queued.filter (fun x => x.cls != clsJ) }
      else if g.cls < h.cls ∨ (h.unit ≠ 0 ∧ h.unit = g.unit) then { o with handling := o.handling ++ [h] }
      else { o with queued := o.queued ++ [h] }

/-- The logical core a unit names; 0xFFFF for a unit that is no core. -/
def coreOfUnit (unit : Nat) : Nat := if unit / 0x1000 = 11 then unit % 0x1000 else 0xFFFF

/-- The span pass of core `n` of context `k`; 0 where they name no core of a context. -/
def passOf (s : State) (k n : Nat) : Nat := if k < 64 ∧ n < 320 then (coreOf s k n).pass else 0

/-- An event that concerns logical core `lc` (0xFFFF: none) raised (R379 to R387): its record in the log, its mirrors in the trace, the counters of
its code, the report to the host, and what its class does at once. A class J event marks its context
for JOB_HALT; a class X event stops every bay clock and asserts ALERT_N. -/
def raiseOn (s : State) (code cls k unit lc : Nat) (pay : List Byte) : State :=
  let e := mkEvent s code cls k unit pay
  let net := byNetwork s k
  let rep := reported code e.cls
  let o1 := traceEvent s.obs e lc (passOf s k lc)
  let x := ctxOf s k
  let isX := e.cls == clsX
  let fw' := if rep && !net then eventRecs s.fw e else s.fw
  let lost := fw'.outbox.notWritten - s.fw.outbox.notWritten
  let ctr0 := bumpT o1.counters 0 0 code 1
  let ctr := if lost = 0 then ctr0 else bumpT ctr0 0 0 0xC2 lost
  { s with
    obs :=
      let o2 := { o1 with
        seqNext := seqAfter s.obs.seqNext
        log := logAdd s.obs.log e
        counters := if k < 64 then bumpT ctr 1 k code 1 else ctr
        fatal := s.obs.fatal || isX }
      if staysInHandling e then enterHandling o2 ⟨e.seq, e.cls, unit, k, x.jobId, code⟩ else o2
    host := fireIf (isX && !s.obs.fatal)
      (lostRecs (if rep then summarise s.host s.fw.linkUp e else s.host) s.fw.linkUp lost) s.fw.linkUp 2
    fw := fw'
    net := if rep && net then (eventRecsOf e).foldl (fun n r => toManager n x.manager r) s.net else s.net
    board := if isX then { s.board with alertN := false, bayStop := List.range 16 } else s.board
    ctxs := if e.cls = clsJ ∧ k < 64 ∧ e.merged = false then
        put s.ctxs k { x with
          faultSeq := if x.faultSeq = 0 then e.seq else x.faultSeq
          firstFault := if x.firstFault = none ∧ lc ≠ 0xFFFF then some lc else x.firstFault }
      else if e.merged = true ∧ k < 64 then
        put s.ctxs k { x with restart := { x.restart with merged := x.restart.merged + 1 } }
      else s.ctxs }

/-- An event raised that concerns the core its unit names, if any. -/
def raise (s : State) (code cls k unit : Nat) (pay : List Byte) : State :=
  raiseOn s code cls k unit (coreOfUnit unit) pay

/-- The handling of every event that `f` picks ended (R386); the first event queued is handled once
none is in handling. -/
def endHandling (s : State) (f : Handling → Bool) : State :=
  let l := s.obs.handling.filter (fun h => !f h)
  let q := s.obs.queued.filter (fun h => !f h)
  { s with obs := { s.obs with
      handling := if l = [] then q.take 1 else l
      queued := if l = [] then q.drop 1 else q } }

/-- The latest event kept in handling until a repair ends (R386). -/
def keepHandling (s : State) : State :=
  match s.obs.log.getLast? with
  | none => s
  | some e =>
    if s.obs.handling.any (fun h => h.seq == e.seq) || s.obs.queued.any (fun h => h.seq == e.seq) then s
    else { s with obs := { s.obs with handling := s.obs.handling ++ [⟨e.seq, e.cls, e.unit, e.ctx, 0, e.code⟩] } }

/-- A free value drawn: `w` bits nothing constrains. -/
def freeVal (s : State) (w : Nat) : Nat := Config.freeBits s.freeCtr w % 2 ^ w

/-- The counter of free values advanced. -/
def drawn (s : State) : State := { s with freeCtr := s.freeCtr + 1 }

/-! ## Context state changes (R359) -/

/-- The state code of R359. -/
def ctxCode : CtxSt → Nat
  | .free => 0 | .idle => 1 | .runnable => 2 | .running => 3
  | .paused => 4 | .halted => 5 | .restarting => 6 | .destroying => 7

/-- A context put into a state, with its CONTEXT_STATE record (R356, R359). -/
def changeCtx (s : State) (k : Nat) (st : CtxSt) (cause : Nat) : State :=
  let s1 := setCtx s k { ctxOf s k with st := st }
  asyncRec s1 0x8007 k 0 (leBytes 1 (ctxCode st) ++ [0] ++ leBytes 2 cause)

/-- Progress of a context (R238): the watchdog measures from now. -/
def progress (s : State) (k : Nat) : State :=
  setCtx s k { ctxOf s k with lastProgress := s.clock.ns, watchBase := s.clock.ns }

end Sys2Proof.Machine
end

