-- ==== Sys2Proof/Machine/Memory.lean ====
section
/-! DEFINITION. Address translation, permission, poison and the reads and writes every agent makes
(R66, R68 to R72, R78, R94, R103, R104, R389), the stream status page, and the free pages firmware
allocates (R70, R82, R86, R360). -/

namespace Sys2Proof.Machine

/-- Why an access or an instruction does not take effect (R66, R479), or why its result is
unpredictable (R67). -/
inductive Trap where
  | trans (va : Nat)
  | perm (va : Nat)
  | consumed (va : Nat)
  | outside (core : Nat)
  | unpred (u : Unpred)
  deriving DecidableEq, Repr

/-- The kinds of access R72 tells apart. -/
inductive Acc where
  | read | write | fetch
  deriving DecidableEq, Repr

/-- Where a virtual address leads: a device physical address, or the issuing core's stream status
page. -/
inductive Loc where
  | mem (dpa : Nat)
  | stat (off : Nat)
  deriving DecidableEq, Repr

/-! ## Translation (R68, R71, R72) -/

/-- The page that maps an address: the 2 MiB page of its L2 index, or the 1 GiB page of its L1
index, whose entry stands at the L2 index of its first 2 MiB. -/
def pageOf (t : Tbl Page) (va : Nat) : Option (Page × Nat) :=
  let p := look t {} (va / Config.page2)
  let q := look t {} (va / Config.page1g * 512)
  if p.valid ∧ p.big = false then some (p, p.dpa + va % Config.page2)
  else if q.valid ∧ q.big = true then some (q, q.dpa + va % Config.page1g)
  else none

/-- Whether a page allows an access (R38, R66, R72). -/
def allows (p : Page) (a : Acc) : Bool :=
  !p.fw && match a with
    | .read => p.r
    | .write => p.w && !p.x
    | .fetch => p.r && p.x

/-- Whether a logical core number is one of the partition of context `k`. -/
def inPartition (s : State) (k n : Nat) : Bool :=
  decide (n < 320) && partOf s.place n == (ctxOf s k).part

/-- Where an address of context `k` leads for an agent acting as core `n`; `n ≥ 320` is an agent
that is no core and has no scratchpad of its own. -/
def translate (s : State) (k n va : Nat) (a : Acc) : Except Trap Loc :=
  if va < 0xF_0000_0000_0000 then
    match pageOf (ctxOf s k).pages va with
    | none => .error (.trans va)
    | some (p, d) => if allows p a then .ok (.mem d) else .error (.perm va)
  else if va < 0xF_0000_0040_0000 ∧ n < 320 then
    if a = .fetch then .error (.perm va) else .ok (.mem (scratchAt s k n (va - 0xF_0000_0000_0000)))
  else if 0xF_0000_0040_0000 ≤ va ∧ va < 0xF_0000_0040_1000 ∧ n < 320 then
    if a = .fetch then .error (.perm va) else .ok (.stat (va - 0xF_0000_0040_0000))
  else if 0xF_1000_0000_0000 ≤ va ∧ inPartition s k ((va - 0xF_1000_0000_0000) / Config.scratchBytes) = true then
    if a = .fetch then .error (.perm va)
    else .ok (.mem (scratchAt s k ((va - 0xF_1000_0000_0000) / Config.scratchBytes)
      ((va - 0xF_1000_0000_0000) % Config.scratchBytes)))
  else .error (.trans va)

/-- The bytes from a virtual address to the next place where translation may change: a 2 MiB boundary,
which also ends every scratchpad window, or the end of the stream status page (R68). -/
def room (va : Nat) : Nat :=
  if 0xF_0000_0040_0000 ≤ va ∧ va < 0xF_0000_0040_1000 then 0xF_0000_0040_1000 - va
  else Config.page2 - va % Config.page2

/-- A range cut at those places. -/
def segments (fuel va n : Nat) : List (Nat × Nat) :=
  match fuel with
  | 0 => []
  | f + 1 =>
    let r := room va
    if n = 0 then [] else if n ≤ r then [(va, n)] else (va, r) :: segments f (va + r) (n - r)

/-- The segments of a range. -/
def segs (va n : Nat) : List (Nat × Nat) := segments (n / Config.page2 + 3) va n

/-! ## The stream status page (R94) -/

/-- Word 0 of a status entry. -/
def statWord0 (e : StatEntry) : Nat :=
  e.status + e.opc * 0x100 + (e.nparts - 1) * 0x1_0000 + (if e.poisonSeen then 0x40_0000 else 0)
    + (if e.orphaned then 0x80_0000 else 0) + e.sticky.toNat * 0x1_0000_0000
    + (if e.stickyPoison then 0x100_0000_0000 else 0)

/-- The 32 bytes of a status entry. -/
def statBytes (e : StatEntry) : List Byte :=
  p8 (statWord0 e) ++ p8 e.bitmap.toNat ++ p4 e.tag.toNat ++ p4 0 ++ p8 e.grains.toNat

/-- A byte of the status page; offsets from 0x120 read as 0. -/
def statByte (c : Core) (off : Nat) : Byte :=
  if off < 0x120 then nth (statBytes (look c.stat {} (off / 32))) (off % 32) 0 else 0

/-- A store of `n` bytes at an offset of the status page: word 0 of an entry clears the entry's
sticky fields, every other word is unchanged. -/
def statStore (c : Core) (off n : Nat) : Core :=
  if off < 0x120 ∧ off % 32 < 8 ∧ 0 < n ∧ has c.stat (off / 32) then
    let e := look c.stat {} (off / 32)
    { c with stat := put c.stat (off / 32) { e with sticky := 0, stickyPoison := false } }
  else c

/-! ## Bytes and poison of physical memory (R103, R104) -/

/-- The ranges of a list without [a, a + n). -/
def cutOut (l : List (Nat × Nat)) (a n : Nat) : List (Nat × Nat) :=
  l.flatMap (fun r =>
    (if r.1 < a then [(r.1, min r.2 (a - r.1))] else [])
      ++ (if a + n < r.1 + r.2 then [(max r.1 (a + n), r.1 + r.2 - max r.1 (a + n))] else []))

/-- Whether an address lies in a range of a list. -/
def inRange (l : List (Nat × Nat)) (a : Nat) : Bool := l.any (fun r => decide (r.1 ≤ a) && decide (a < r.1 + r.2))

/-- The byte a physical address reads as; a free value where nothing determines it (R81). -/
def memByte (m : Mem) (a : Nat) : Byte := if inRange m.stale a then Config.staleByte a else byteAt m.cells a

/-- Bytes at a physical address. -/
def readDpa (m : Mem) (a n : Nat) : List Byte := (List.range n).map (fun i => memByte m (a + i))

/-- Whether a physical address lies in a grain that [a, a + n) touches. -/
def grainIn (a n g : Nat) : Bool := decide (0 < n) && decide (a / 64 ≤ g) && decide (g ≤ (a + n - 1) / 64)

/-- Whether a read of a physical range meets poison: a grain marked, or one with an error that cannot be
corrected (R74, R83, R103). -/
def poisonedDpa (m : Mem) (a n : Nat) : Bool :=
  m.poison.any (grainIn a n) || m.upsets.any (fun u => u.2 && grainIn a n (u.1 / 64))

/-- The errors a memory has developed after [a, a + n) was written: a grain written whole is free of
them. -/
def upsetsAfter (l : List (Nat × Bool)) (a n : Nat) : List (Nat × Bool) :=
  l.filter (fun u => !(decide (a ≤ u.1 / 64 * 64) && decide (u.1 / 64 * 64 + 64 ≤ a + n)))

/-- The grains a physical range touches. -/
def grainsOf (a n : Nat) : List Nat :=
  if n = 0 then [] else (List.range ((a + n - 1) / 64 - a / 64 + 1)).map (fun i => a / 64 + i)

/-- The poison of grain `g` after a write of [a, a+n) with poison `p` (R104). -/
def poisonAfter (l : List Nat) (a n : Nat) (p : Bool) (g : Nat) : List Nat :=
  if p then addNat l g
  else if a ≤ g * 64 ∧ g * 64 + 64 ≤ a + n then delNat l g else l

/-- Bytes written at a physical address, with their poison. -/
def writeMem (m : Mem) (a : Nat) (bs : List Byte) (p : Bool) : Mem :=
  { m with
    cells := setBytes m.cells a bs
    upsets := upsetsAfter m.upsets a bs.length
    stale := cutOut m.stale a bs.length
    poison := (grainsOf a bs.length).foldl (fun l g => poisonAfter l a bs.length p g) m.poison }

/-- The virtual addresses of a context that a physical address stands behind. -/
def vasOf (t : Tbl Page) (d : Nat) : List Nat :=
  t.filterMap (fun e =>
    let n := if e.2.big then Config.page1g else Config.page2
    if e.2.valid ∧ e.2.dpa ≤ d ∧ d < e.2.dpa + n then some (e.1 * Config.page2 + (d - e.2.dpa)) else none)

/-- Whether a physical grain lies in a state range of a context (R389). -/
def inRanges (x : Ctx) (d : Nat) : Bool :=
  (vasOf x.pages d).any (fun v => x.ckpt.ranges.any (fun r => decide (r.1 ≤ v) && decide (v < r.1 + r.2)))

/-- A poisoned grain met at a physical address: STATE_POISON of every context that has it in a state
range (R389). -/
def notePoison (s : State) (d : Nat) : State :=
  { s with ctxs := mapTbl s.ctxs (fun _ x =>
      if x.ckpt.ranges ≠ [] ∧ inRanges x (d / 64 * 64) = true then
        { x with statePoison := true, poisonAt := if x.statePoison then x.poisonAt else d / 64 * 64 }
      else x) }

/-- Bytes written at a physical address. -/
def writeDpa (s : State) (a : Nat) (bs : List Byte) (p : Bool) : State :=
  let s1 : State := { s with mem := writeMem s.mem a bs p }
  if p then (grainsOf a bs.length).foldl (fun s g => notePoison s (g * 64)) s1 else s1

/-- One grain made poisoned, its stored bytes unchanged (R83, R84). -/
def poisonGrain (s : State) (a : Nat) : State :=
  notePoison { s with mem := { s.mem with poison := addNat s.mem.poison (a / 64) } } a

/-! ## Reads and writes by virtual address -/

/-- One segment read: its bytes and whether a grain of it is poisoned. -/
def readSeg (s : State) (k n : Nat) (a : Acc) (g : Nat × Nat) : Except Trap (List Byte × Bool) := do
  match ← translate s k n g.1 a with
  | .mem d => .ok (readDpa s.mem d g.2, poisonedDpa s.mem d g.2)
  | .stat off => .ok ((List.range g.2).map (fun i => statByte (coreOf s k n) (off + i)), false)

/-- Bytes read by an agent of context `k` acting as core `n`, with their poison. -/
def readVa (s : State) (k n va len : Nat) : Except Trap (List Byte × Bool) := do
  let rs ← (segs va len).mapM (readSeg s k n .read)
  .ok (rs.flatMap (fun r => r.1), rs.any (fun r => r.2))

/-- A control read (R479): POISON_CONSUMED on a poisoned grain. -/
def controlRead (s : State) (k n va len : Nat) : Except Trap (List Byte) := do
  let r ← readVa s k n va len
  if r.2 then .error (.consumed va) else .ok r.1

/-- A store to come: its virtual address, bytes and poison. -/
structure Wr where
  va  : Nat
  bs  : List Byte
  poi : Bool := false
  deriving DecidableEq, Repr

/-- Where the pieces of a store go. -/
def placeWr (s : State) (k n : Nat) (w : Wr) : Except Trap (List (Loc × List Byte × Bool)) := do
  let ls ← (segs w.va w.bs.length).mapM (fun g => do
    let l ← translate s k n g.1 .write
    .ok (l, (w.bs.drop (g.1 - w.va)).take g.2, w.poi))
  .ok ls

/-- One placed piece stored. -/
def storeAt (k n : Nat) (s : State) (p : Loc × List Byte × Bool) : State :=
  match p.1 with
  | .mem d => writeDpa s d p.2.1 p.2.2
  | .stat off => setCore s k n (statStore (coreOf s k n) off p.2.1.length)

/-- Stores made together: none takes effect when one of them traps (R66). -/
def writeVas (s : State) (k n : Nat) (ws : List Wr) : Except Trap State := do
  let ps ← ws.mapM (placeWr s k n)
  .ok ((ps.flatten).foldl (storeAt k n) s)

/-- One store. -/
def writeVa (s : State) (k n va : Nat) (bs : List Byte) (p : Bool) : Except Trap State :=
  writeVas s k n [⟨va, bs, p⟩]

/-! ## Traps as events (R66, R384) -/

/-- The job fault a trap raises for core `n` of context `k`. -/
def raiseTrap (s : State) (k n opc : Nat) (t : Trap) : State :=
  match t with
  | .trans va => raise s 0x0204 clsJ k (unitCore n) (p4 n ++ p8 va ++ p4 opc)
  | .perm va => raise s 0x0205 clsJ k (unitCore n) (p4 n ++ p8 va ++ p4 opc)
  | .consumed va => raise s 0x0206 clsJ k (unitCore n) (p4 n ++ p8 va)
  | .outside c => raise s 0x020A clsJ k (unitCore n) (p4 n ++ p4 c)
  | .unpred _ => s

/-! ## Unpredictable results (R9, R67) -/

/-- The events a context's own instructions raise, with their classes (R66, R190, R239, R260, R284,
R298, R301, R303, R384). -/
def ctxEvents : List (Nat × Nat) :=
  [(0x0101, clsC), (0x0102, clsC), (0x0103, clsC), (0x0104, clsC), (0x0105, clsJ), (0x0106, clsC), (0x0107, clsC),
   (0x0108, clsC), (0x0203, clsD), (0x0204, clsJ), (0x0205, clsJ), (0x0206, clsJ), (0x0207, clsJ), (0x0208, clsJ),
   (0x0209, clsJ), (0x020A, clsJ)] ++
  [(0x0301, clsJ), (0x0302, clsJ), (0x0303, clsJ), (0x0304, clsJ), (0x0405, clsJ), (0x0501, clsJ), (0x0502, clsJ),
   (0x0503, clsD), (0x0504, clsJ), (0x0505, clsJ)]

/-- A core of the partition of context `k` changed; any other core stays. -/
def wildCore (s : State) (k n : Nat) (f : Core → Core) : State :=
  if inPartition s k n then setCore s k n (f (coreOf s k n)) else s

/-- One act of an unpredictable result of context `k`: what lies outside the context stays. -/
def wildAct (k : Nat) (s : State) (w : Config.WildAct) : State :=
  match w with
  | .store n va b p =>
    if inPartition s k n then (match writeVa s k n va [b] p with | .ok t => t | .error _ => s) else s
  | .sreg n r v => wildCore s k n (fun c => if r = 0 ∨ 32 ≤ r then c else { c with sregs := put c.sregs r v })
  | .pred n i v => wildCore s k n (fun c =>
      if i = 0 then c else { c with preds := if v then c.preds ||| (1#16 <<< i) else c.preds &&& ~~~(1#16 <<< i) })
  | .token n t v => wildCore s k n (fun c => if 40 ≤ t then c else { c with tokens := put c.tokens t (v % 256) })
  | .pc n a => wildCore s k n (fun c => { c with pc := a })
  | .acc n i v => wildCore s k n (fun c =>
      if 16384 ≤ i then c else { c with acc := if v = 0 then drop c.acc i else put c.acc i v })
  | .truss v g a p =>
    let x := ctxOf s k
    if has x.trusses v then
      setCtx s k { x with trusses := put x.trusses v { look x.trusses {} v with gen := g, arrived := a, pending := p } }
    else s
  | .group g q =>
    let x := ctxOf s k
    if has x.groups g then setCtx s k { x with groups := put x.groups g { look x.groups {} g with seqNo := q } } else s
  | .chunk i j l =>
    let x := ctxOf s k
    setCtx s k { x with colls := x.colls.zipIdx.map (fun c =>
      if c.2 = i then { c.1 with chunks := c.1.chunks.zipIdx.map (fun h => if h.2 = j then { h.1 with lost := l } else h.1) }
      else c.1) }
  | .counter i n => bump s 1 k i n
  | .event code pay =>
    match ctxEvents.find? (fun e => e.1 == code) with
    | some e => raise s code e.2 k 0 pay
    | none => s
  | .finish n e i st g => wildCore s k n (fun c => { c with
      flights := mapTbl c.flights (fun e' l => if e' = e then l.map (fun (f : Flight) =>
        if f.id = i then { f with ran := true, ready := true, trapped := false, status := st % 6, grains := g } else f) else l) })
  | .stop n b => wildCore s k n (fun c => { c with faulted := b })

/-- An unpredictable result of context `k` (R9, R67): a free list of acts confined to the context; no
other context, and no watchdog, is touched. -/
def wild (s : State) (k : Nat) : State := drawn ((Config.wildActs s.freeCtr).foldl (wildAct k) s)

/-- What a command answers to a trap: the event, or an unpredictable result. -/
def trapOut (s : State) (k n opc : Nat) (t : Trap) : Out :=
  match t with
  | .unpred _ => .next (wild s k)
  | t => .next (raiseTrap s k n opc t)

/-! ## Cache slices (R79, R80) -/

/-- The mode of slice `i` = 44·d + s. -/
def sliceMode (m : Mem) (i : Nat) : SliceMode := look m.slices .software i

/-- The cache slices of base die `d` that belong to partition `part`. -/
def cacheSlices (s : State) (d part : Nat) : List Nat :=
  (List.range 44).map (fun i => 44 * d + i) |>.filter (fun i =>
    sliceMode s.mem i == .cache && partOfBay s.place (4 * d + i % 44 / 11) == part)

/-- The set a 256-byte line falls in: its base die and the hash of R80. -/
def lineSet (line sets : Nat) : Nat × Nat :=
  (line * 256 / (2 * Config.stackBytes), Config.cacheHash line % max sets 1)

/-- One access of a line of HBM through the cache: whether it hit, whether a dirty line was written
back, and the lines after. Lines are allocated only for pages with NOCACHE clear, in 16 ways. -/
def cacheAccess (s : State) (part line : Nat) (write alloc : Bool) : Bool × Bool × List Line :=
  let d := line * 256 / (2 * Config.stackBytes)
  let sets := 4096 * (cacheSlices s d part).length
  let ls := s.mem.lines
  if ls.any (fun l => l.line == line) then
    (true, false, ls.map (fun l => if l.line = line then { l with dirty := l.dirty || write } else l))
  else if sets = 0 ∨ alloc = false then (false, false, ls)
  else
    let same := ls.filter (fun l => lineSet l.line sets == lineSet line sets)
    if same.length < 16 then (false, false, ls ++ [⟨line, write⟩])
    else
      let v := nth same (Config.cacheVictim s.freeCtr % 16) ⟨0, false⟩
      (false, v.dirty, ls.filter (fun l => l.line != v.line) ++ [⟨line, write⟩])

/-! ## Free pages (R30, R70, R86, R360) -/

/-- Pages of a replacement pool: 256 MiB of each stack (R86). -/
def poolPages : Nat := 128

/-- The first page of stack `n` that firmware keeps for itself: the pool at the top, its own records
below it, and the 32 MiB of the trace region of boot (R431). -/
def fwFloor (n : Nat) : Nat := Config.stackPages - poolPages - Config.fwPages n % 1024 - 16

/-- Whether [a, a+n) and [b, b+m) share an address. -/
def overlaps (a n b m : Nat) : Bool := decide (a < b + m) && decide (b < a + n)

/-- Whether some context maps a page of a physical range. -/
def mappedDpa (s : State) (a n : Nat) : Bool :=
  s.ctxs.any (fun e => e.2.pages.any (fun q =>
    q.2.valid && overlaps a n q.2.dpa (if q.2.big then Config.page1g else Config.page2)))

/-- Whether a physical range of HBM is free for a context: below firmware's floor, not retired, not
reserved and not mapped. -/
def freeHbm (s : State) (a n : Nat) : Bool :=
  decide (a % Config.stackBytes + n ≤ fwFloor (a / Config.stackBytes) * Config.page2)
    && !s.mem.retired.any (fun p => overlaps a n (p * Config.page2) Config.page2)
    && !s.mem.fwRanges.any (fun r => overlaps a n r.1 r.2)
    && !mappedDpa s a n

/-- The first free page of `size` bytes in a stack, searching cyclically from a start. -/
def findHbm (s : State) (stack size start : Nat) : Option Nat :=
  let cnt := Config.stackBytes / size
  (List.range cnt).findSome? (fun i =>
    let a := stack * Config.stackBytes + (start + i) % cnt * size
    if freeHbm s a size then some a else none)

/-- A free page on the stack a context's own rotation reaches at its `turn`-th page, or on the next stack
that has one (R70). -/
def takeHbm (s : State) (l : List Nat) (turn size start : Nat) : Option Nat :=
  (List.range l.length).findSome? (fun i => findHbm s (nth l ((turn + i) % l.length) 0) size start)

/-- HBM bytes charged to context `k`: the pages it maps and those its fetch lists have spilled to (R95). -/
def ctxHbm (s : State) (k : Nat) : Nat :=
  (((ctxOf s k).pages.filter (fun e => e.2.valid && decide (e.2.dpa < Config.thatchDpa))).map
    (fun e => if e.2.big then Config.page1g else Config.page2)).sum
    + ((s.cores.filter (fun e => e.1 / 512 == k)).map (fun e => e.2.spill.length * Config.page2)).sum

/-- HBM bytes charged to the contexts of a partition. -/
def partHbm (s : State) (part : Nat) : Nat :=
  (ctxNums.map (fun k => if (ctxOf s k).st ≠ .free ∧ (ctxOf s k).part = part then ctxHbm s k else 0)).sum

/-- Whether a bay partition's quota holds `n` more bytes; other partitions have none (R30). -/
def quotaOk (s : State) (part n : Nat) : Bool :=
  (baysOf s.place part).length != 1 || decide (partHbm s part + n ≤ nth s.place.quota part 0 * Config.page1g)

/-- The base of slice `i` (R69). -/
def sliceBase (i : Nat) : Nat := Config.thatchDpa + i / 44 * 0x4000_0000 + i % 44 * 0x100_0000

/-- The slice a Thatch address lies in. -/
def sliceOf (d : Nat) : Nat := 44 * ((d - Config.thatchDpa) / 0x4000_0000) + (d - Config.thatchDpa) % 0x4000_0000 / 0x100_0000

/-- Whether no page of any context maps a slice. -/
def sliceUnmapped (s : State) (i : Nat) : Bool := !mappedDpa s (sliceBase i) 0x100_0000

/-- A free slice: SOFTWARE and unmapped (R478). -/
def sliceFree (s : State) (i : Nat) : Bool := sliceMode s.mem i == .software && sliceUnmapped s i

/-- A free 2 MiB page of Thatch in a SOFTWARE slice of a list. -/
def findThatch (s : State) (l : List Nat) : Option Nat :=
  l.findSome? (fun i =>
    if sliceMode s.mem i = .software then
      (List.range 8).findSome? (fun j =>
        let a := sliceBase i + j * Config.page2
        if mappedDpa s a Config.page2 then none else some a)
    else none)

/-- A physical range cleared: zero content and clean check bits (R360). -/
def clearMem (m : Mem) (a n : Nat) : Mem :=
  { m with
    cells := clearRange m.cells a n
    upsets := upsetsAfter m.upsets a n
    stale := cutOut m.stale a n
    poison := m.poison.filter (fun g => !(decide (a / 64 ≤ g) && decide (g * 64 < a + n))) }

/-- A physical range copied with its poison, an error that cannot be corrected among it; both ends are
whole grains. -/
def copyMem (m : Mem) (src dst n : Nat) : Mem :=
  let m1 := clearMem m dst n
  { m1 with
    cells := if m.stale.any (fun r => decide (r.1 < src + n) && decide (src < r.1 + r.2)) then setBytes m1.cells dst (readDpa m src n)
      else copyRange m.cells src dst n
    poison := ((m.poison ++ (m.upsets.filter (fun (u : Nat × Bool) => u.2)).map (fun (u : Nat × Bool) => u.1 / 64)).filter (grainIn src n)).foldl
      (fun l g => addNat l (g - src / 64 + dst / 64)) m1.poison }

end Sys2Proof.Machine
end

