-- ==== Sys2Proof/Machine/Operands.lean ====
section
/-! DEFINITION. Operand forms: operand bytes (R46), tensor descriptors and result slots (R58 to R62),
scales (R60, R144 to R146), the elements a descriptor names (R59, R140), rows and touch bitmaps
(R199), and the stores an output makes (R104, R186). -/

namespace Sys2Proof.Machine

/-- Bits [hi:lo] of a number. -/
def bits (v hi lo : Nat) : Nat := v / 2 ^ lo % 2 ^ (hi - lo + 1)

/-- Bit `i` of a number. -/
def bit (v i : Nat) : Bool := v / 2 ^ i % 2 = 1

/-! ## Operand bytes (R46) -/

/-- A scalar register; S0 reads 0 (R36). -/
def sreg (c : Core) (r : Nat) : Word := if r = 0 then 0 else look c.sregs 0 r

/-- An operand byte read at issue: none for the reserved kind, a nonzero RSV bit, or a descriptor
pointer that is not aligned to 64 bytes. -/
def operand (c : Core) (b : BitVec 8) : Option Opnd :=
  let v := b.toNat
  let r := sreg c (v % 32)
  if bit v 5 then none
  else match v / 64 with
    | 0 => some .none
    | 1 => some (.reg r)
    | 2 => if r.toNat % 64 = 0 then some (.desc r) else none
    | _ => none

/-- Whether an operand is absent. -/
def Opnd.isNone (o : Opnd) : Bool := match o with | .none => true | _ => false

/-- The value of a register operand. -/
def Opnd.val (o : Opnd) : Nat := match o with | .reg v => v.toNat | _ => 0

/-- Whether an operand is a register. -/
def Opnd.isReg (o : Opnd) : Bool := match o with | .reg _ => true | _ => false

/-- Whether an operand names a descriptor. -/
def Opnd.isDesc (o : Opnd) : Bool := match o with | .desc _ => true | _ => false

/-! ## Descriptors (R58) -/

/-- A descriptor from its eight words. -/
def decodeDesc (w : List Nat) : Desc :=
  let g := fun i => nth w i 0
  { rank := bits (g 0) 61 59
    rowsp := bit (g 0) 58
    find := bit (g 0) 57
    mx := bit (g 0) 56
    code := bits (g 0) 55 52
    base := bits (g 0) 51 0
    scaleDim := bits (g 1) 56 54
    scaleKind := bits (g 1) 53 52
    scalePtr := bits (g 1) 51 0
    sizes := [bits (g 2) 19 0 + 1, bits (g 2) 39 20 + 1, bits (g 2) 59 40 + 1,
      bits (g 3) 19 0 + 1, bits (g 3) 39 20 + 1]
    strides := [bits (g 4) 47 0, bits (g 5) 47 0, bits (g 6) 47 0, bits (g 7) 47 0]
    tensorId := bits (g 3) 63 40
    watch := bits (g 4) 59 48
    bitmap := bits (g 7) 47 0
    rsv := bits (g 0) 63 62 != 0 || bits (g 1) 63 57 != 0 || bits (g 2) 63 60 != 0
      || bits (g 4) 63 60 != 0 || bits (g 5) 63 48 != 0 || bits (g 6) 63 48 != 0 || bits (g 7) 63 48 != 0 }

/-- The eight words of a descriptor, reserved fields 0 (R58). -/
def encodeDesc (d : Desc) : List Nat :=
  let b := fun (x : Bool) => if x then 1 else 0
  let sz := fun i => nth d.sizes i 1 - 1
  let st := fun i => nth d.strides i 0
  [d.base + d.code * 2 ^ 52 + b d.mx * 2 ^ 56 + b d.find * 2 ^ 57 + b d.rowsp * 2 ^ 58 + d.rank * 2 ^ 59,
   d.scalePtr + d.scaleKind * 2 ^ 52 + d.scaleDim * 2 ^ 54,
   sz 0 + sz 1 * 2 ^ 20 + sz 2 * 2 ^ 40,
   sz 3 + sz 4 * 2 ^ 20 + d.tensorId * 2 ^ 40,
   st 0 + d.watch * 2 ^ 48,
   st 1, st 2, st 3]

/-- The eight words of 64 bytes. -/
def wordsOf (bs : List Byte) : List Nat := (List.range 8).map (fun i => leNat ((bs.drop (8 * i)).take 8))

/-- The sizes of the dimensions a descriptor has. -/
def dims (d : Desc) : List Nat := d.sizes.take d.rank

/-- The number of elements. -/
def count (d : Desc) : Nat := (dims d).foldl (fun a n => a * n) 1

/-- A level-2 program reads FIND and WATCH as 0 (R41). -/
def atLevel (level : Nat) (d : Desc) : Desc :=
  if level = 2 then { d with find := false, watch := 0 } else d

/-- The conditions of R58, R59, R60 and R146 on a descriptor, and those of R41 for a level-2
program. -/
def descOk (level : Nat) (d : Desc) : Bool :=
  !d.rsv && decide (1 ≤ d.rank) && decide (d.rank ≤ 5) && decide (d.code ≤ 12)
    && (!d.mx || [0, 1, 2, 3, 4, 10].elem d.code) && (d.mx == (d.scaleKind == 3))
    && decide (d.base % 16 = 0)
    && (d.strides.take (d.rank - 1)).all (fun x => decide (x % 16 = 0))
    && (!(d.code == fFP4 || d.code == fINT4) || decide (nth d.sizes 0 1 % 2 = 0))
    && (!(d.code == fE2M3 || d.code == fE3M2) || decide (nth d.sizes 0 1 % 4 = 0))
    && (!d.mx || (decide (nth d.sizes 0 1 % 32 = 0) && decide (d.scalePtr % 16 = 0)))
    && (!(d.scaleKind == 2) || decide (d.scaleDim < d.rank))
    && (!d.rowsp || (decide (d.rank ≤ 4) && decide (d.bitmap % 64 = 0)))
    && (!(level == 2) || (!d.mx && decide (3 ≤ d.code)))

/-- The number of scales a descriptor names and the bytes of each. -/
def scaleShape (d : Desc) : Nat × Nat :=
  match d.scaleKind with
  | 1 => (1, 4)
  | 2 => (nth d.sizes d.scaleDim 1, 4)
  | 3 => (count d / 32, 1)
  | _ => (0, 0)

/-- The scale codes of a descriptor as it is read, none where poisoned (R60, R61). The block scales
of an MX destination are written, not read. -/
def readScales (s : State) (k n : Nat) (dest : Bool) (d : Desc) : Except Trap (List (Option Nat)) :=
  if dest ∧ d.scaleKind = 3 then .ok []
  else
    let sh := scaleShape d
    (List.range sh.1).mapM (fun i => do
      let r ← readVa s k n (d.scalePtr + sh.2 * i) sh.2
      .ok (if r.2 then none else some (leNat r.1)))

/-- A descriptor's 64 bytes read as a control read (R61, R479). -/
def fetchDesc (s : State) (k n va : Nat) : Except Trap Desc := do
  let bs ← controlRead s k n va 64
  .ok (decodeDesc (wordsOf bs))

/-- The descriptor an engine uses: its own, or the one its result slot holds (R61, R62), checked and
with its scales. -/
def readDesc (s : State) (k n level : Nat) (dest : Bool) (va : Nat) : Except Trap Desc := do
  let d0 := atLevel level (← fetchDesc s k n va)
  let d ← (if d0.find then
      if d0.base % 64 = 0 then do
        let e ← fetchDesc s k n d0.base
        if e.find then .error (.unpred .malformed) else .ok { e with slot := d0.base }
      else .error (.unpred .malformed)
    else .ok d0)
  if descOk level d then do
    let sc ← readScales s k n dest d
    .ok { d with scales := sc }
  else .error (.unpred .malformed)

/-! ## Elements (R59, R140) -/

/-- The index of the `j`-th element in index order, dimension 0 fastest. -/
def indexOf (l : List Nat) (j : Nat) : List Nat :=
  match l with
  | [] => []
  | n :: r => (j % max n 1) :: indexOf r (j / max n 1)

/-- The position in index order of an index. -/
def linear (l idx : List Nat) : Nat :=
  match l, idx with
  | n :: r, i :: t => i + n * linear r t
  | _, _ => 0

/-- The byte offset the strides give an index (R59). -/
def strideOff (d : Desc) (idx : List Nat) : Nat :=
  ((idx.drop 1).zip d.strides).foldl (fun a p => a + p.1 * p.2) 0

/-- The bit offset of an element from BASE (R59). -/
def elemBit (d : Desc) (idx : List Nat) : Nat := nth idx 0 0 * elemBits d.code + 8 * strideOff d idx

/-- The virtual address, and the bit within it, of element `j`. -/
def elemAt (d : Desc) (j : Nat) : Nat × Nat :=
  let b := elemBit d (indexOf (dims d) j)
  (d.base + b / 8, b % 8)

/-- The code of element `j`, none when a grain it lies in is poisoned. -/
def readCode (s : State) (k n : Nat) (d : Desc) (j : Nat) : Except Trap (Option Nat) := do
  let (va, sh) := elemAt d j
  let b := elemBits d.code
  let r ← readVa s k n va ((sh + b + 7) / 8)
  .ok (if r.2 then none else some (leNat r.1 / 2 ^ sh % 2 ^ b))

/-- Every code of a tensor in index order. -/
def readCodes (s : State) (k n : Nat) (d : Desc) : Except Trap (List (Option Nat)) :=
  (List.range (count d)).mapM (readCode s k n d)

/-- The FP32 or E8M0 scale of element `j`, 1 where the descriptor has none. -/
def scaleOf (d : Desc) (j : Nat) : Val :=
  let f := fun (i : Nat) => match nth d.scales i (some 0) with
    | none => Val.poison
    | some c => if d.scaleKind = 3 then e8m0 c else decodeFloat fFP32 c
  match d.scaleKind with
  | 1 => f 0
  | 2 => f (nth (indexOf (dims d) j) d.scaleDim 0)
  | 3 => f (j / 32)
  | _ => .fin 1

/-- The value of element `j` from its code, block scales applied (R115, R138, R146). -/
def blockVal (d : Desc) (j : Nat) (c : Option Nat) : Val :=
  match c with
  | none => .poison
  | some c => if d.scaleKind = 3 then (decodeElem d.code d.mx c).mul (scaleOf d j) else decodeElem d.code d.mx c

/-- The value of element `j`, every scale applied (R144). -/
def elemVal (d : Desc) (j : Nat) (c : Option Nat) : Val :=
  match c with
  | none => .poison
  | some c => if d.scaleKind = 0 then decodeElem d.code d.mx c else (decodeElem d.code d.mx c).mul (scaleOf d j)

/-- Every value of a tensor in index order, scales applied. -/
def readVals (s : State) (k n : Nat) (d : Desc) : Except Trap (List Val) := do
  let cs ← readCodes s k n d
  .ok (cs.zipIdx.map (fun p => elemVal d p.2 p.1))

/-- The rows of bytes a tensor's elements lie in. -/
def tensorSpan (d : Desc) : List (Nat × Nat) :=
  let n := nth d.sizes 0 1
  (List.range (count d / n)).map (fun r => ((elemAt d (r * n)).1, (n * elemBits d.code + 7) / 8))

/-- The address past the last element, the one with the largest index in every dimension. -/
def endVa (d : Desc) : Nat :=
  let e := elemAt d (count d - 1)
  e.1 + (e.2 + elemBits d.code + 7) / 8

/-- Whether BASE, and with it every element, lies in the own-scratchpad range (R106, R192). -/
def ownBase (d : Desc) : Bool := decide (0xF_0000_0000_0000 ≤ d.base) && decide (endVa d ≤ 0xF_0000_0040_0000)

/-- `unpredictable: malformed` unless a condition holds. -/
def need (b : Bool) : Except Trap Unit := if b then .ok () else .error (.unpred .malformed)

/-- A descriptor an instruction must have. -/
def needDesc (d : Option Desc) : Except Trap Desc :=
  match d with
  | some d => .ok d
  | none => .error (.unpred .malformed)

/-! ## Output stores -/

/-- An element to store: its code and whether it is written as poisoned. -/
structure OutEl where
  code : Nat
  poi  : Bool := false
  deriving DecidableEq, Repr

/-- The number a run of elements spells, the first in the lowest bits (R140). -/
def packNat (b : Nat) (es : List OutEl) : Nat :=
  match es with
  | [] => 0
  | e :: r => e.code % 2 ^ b + 2 ^ b * packNat b r

/-- Whether a poisoned element of a row reaches into its bytes [lo, hi). -/
def poisonIn (b lo hi : Nat) (es : List OutEl) : Bool :=
  es.zipIdx.any (fun p => p.1.poi && decide (p.2 * b < 8 * hi) && decide (8 * lo < (p.2 + 1) * b))

/-- The stores of a run of elements that starts at a whole byte: one store, or one a grain when some
element is poisoned (R103, R104). -/
def rowWrs (va b : Nat) (es : List OutEl) : List Wr :=
  let n := (es.length * b + 7) / 8
  let bs := leBytes n (packNat b es)
  if es.any (fun e => e.poi) then
    (List.range ((va % 64 + n + 63) / 64)).map (fun g =>
      let lo := if g = 0 then 0 else g * 64 - va % 64
      let hi := min n ((g + 1) * 64 - va % 64)
      ⟨va + lo, (bs.drop lo).take (hi - lo), poisonIn b lo hi es⟩)
  else [⟨va, bs, false⟩]

/-- The stores of a whole tensor, its elements given in index order. -/
def tensorWrs (d : Desc) (es : List OutEl) : List Wr :=
  let n := nth d.sizes 0 1
  (List.range (count d / n)).flatMap (fun r =>
    rowWrs (elemAt d (r * n)).1 (elemBits d.code) ((es.drop (r * n)).take n))

/-- The store of one element of at least a byte. -/
def elemWr (d : Desc) (j : Nat) (e : OutEl) : Wr :=
  ⟨(elemAt d j).1, leBytes (elemBits d.code / 8) e.code, e.poi⟩

/-! ## Rows and touch bitmaps (R199) -/

/-- The row of an index: its index in dimension RANK − 1. -/
def rowOf (d : Desc) (j : Nat) : Nat := nth (indexOf (dims d) j) (d.rank - 1) 0

/-- The number of rows, and of elements in each. -/
def rowCount (d : Desc) : Nat := nth d.sizes (d.rank - 1) 1
def rowLen (d : Desc) : Nat := count d / max (rowCount d) 1

/-- A touch bit as a control read (R479). -/
def touchBit (s : State) (k n : Nat) (d : Desc) (r : Nat) : Except Trap Bool := do
  let bs ← controlRead s k n (d.bitmap + r / 8) 1
  .ok (bit (leNat bs) (r % 8))

/-- A touch bit set or cleared by an atomic operation on its byte; the grain's poison stays. -/
def touchWr (s : State) (k n : Nat) (d : Desc) (r : Nat) (v : Bool) : Except Trap State := do
  let b ← readVa s k n (d.bitmap + r / 8) 1
  let o := leNat b.1
  let m := 2 ^ (r % 8)
  let o' := if v then (if bit o (r % 8) then o else o + m) else (if bit o (r % 8) then o - m else o)
  writeVa s k n (d.bitmap + r / 8) (leBytes 1 o') b.2

/-- The touch bits of a list of rows set or cleared. -/
def touchRows (k n : Nat) (d : Desc) (v : Bool) (s : State) (rs : List Nat) : Except Trap State :=
  match rs with
  | [] => .ok s
  | r :: t => do touchRows k n d v (← touchWr s k n d r v) t

/-! ## Watch observations (R186) -/

/-- What the written elements show the watch slot of a descriptor: nothing when it names none or
when every element is poisoned or lies in an untouched row. -/
def watchObs (s : State) (k n : Nat) (d : Desc) (es : List (Nat × OutEl)) : Except Trap (List HeldObs) := do
  if d.watch = 0 then .ok []
  else
    let live ← (es.filter (fun e => !e.2.poi)).filterMapM (fun e => do
      if d.rowsp then
        let t ← touchBit s k n d (rowOf d e.1)
        .ok (if t then some e else none)
      else .ok (some e))
    if live = [] then .ok []
    else .ok [.watch d.watch d.tensorId (live.any (fun e => !(decodeElem d.code d.mx e.2.code == .fin 0)))]

end Sys2Proof.Machine
end

