-- ==== Sys2Proof/Machine/Flags.lean ====
section
/-! DEFINITION. What instructions leave beside their data: predicates and comparisons (R51, R52),
tokens (R54, R56), numeric outcome counters (R152, R428), the overflow latch (R173, R174), numeric
events with their limit (R167, R183), watch observations (R186), and the record in which an engine
instruction gathers all of its effects. -/

namespace Sys2Proof.Machine

/-! ## Predicates (R36, R51, R52) -/

/-- Predicate bit `i`; PB0 reads 1. -/
def predBit (c : Core) (i : Nat) : Bool := if i = 0 then true else c.preds.getLsbD i

/-- Whether an instruction's predicate lets it execute (R52). -/
def predTrue (c : Core) (p : BitVec 4) (neg : Bool) : Bool := predBit c p.toNat != neg

/-- A predicate bit written; writes to PB0 are ignored. -/
def setPred (c : Core) (i : Nat) (v : Bool) : Core :=
  if i = 0 then c
  else { c with preds := if v then c.preds ||| (1#16 <<< i) else c.preds &&& ~~~(1#16 <<< i) }

/-- A scalar register written; writes to S0 are ignored. -/
def setReg (c : Core) (r : Nat) (v : Word) : Core :=
  if r = 0 then c else { c with sregs := put c.sregs r v }

/-- The comparisons of CMP and CMPI; none for a reserved FUNC. -/
def compare (f : Nat) (a b : Word) : Option Bool :=
  match f with
  | 0 => some (a == b)
  | 1 => some (a != b)
  | 2 => some (a.slt b)
  | 3 => some (!a.slt b)
  | 4 => some (a.ult b)
  | 5 => some (!a.ult b)
  | _ => none

/-- The predicate functions of PRED; none for a reserved FUNC. -/
def predFn (f : Nat) (a b : Bool) : Option Bool :=
  match f with
  | 0 => some (a && b)
  | 1 => some (a || b)
  | 2 => some (a != b)
  | 3 => some (a && !b)
  | 4 => some !a
  | 5 => some true
  | 6 => some false
  | _ => none

/-- The arithmetic of ALU and ALUI (R51); none for a reserved FUNC. -/
def aluFn (f : Nat) (a b : Word) : Option Word :=
  match f with
  | 0 => some (a + b)
  | 1 => some (a - b)
  | 2 => some (a &&& b)
  | 3 => some (a ||| b)
  | 4 => some (a ^^^ b)
  | 5 => some (a <<< (b.toNat % 64))
  | 6 => some (a >>> (b.toNat % 64))
  | 7 => some (a.sshiftRight (b.toNat % 64))
  | 8 => some (a * b)
  | 9 => some (BitVec.ofNat 64 (a.toNat * b.toNat / 2 ^ 64))
  | 10 => some (if a.slt b then a else b)
  | 11 => some (if a.slt b then b else a)
  | 12 => some (if a.ult b then a else b)
  | 13 => some (if a.ult b then b else a)
  | _ => none

/-! ## Tokens (R45, R54, R56) -/

/-- The count of the token with code `t` = engine · 8 + index. -/
def token (c : Core) (t : Nat) : Nat := look c.tokens 0 t

/-- A token count replaced. -/
def setToken (c : Core) (t v : Nat) : Core := { c with tokens := put c.tokens t v }

/-- The code of an engine (R45). -/
def engCode : Engine → Nat
  | .array => 0 | .mv => 1 | .vector => 2 | .stream => 3 | .sync => 4

/-- The token codes the valid wait fields of a word name. -/
def waits (w : TWord) : List Nat :=
  ([w.waita, w.waitb, w.waitc].filter (fun f => f.getLsbD 6)).map (fun f => f.toNat % 64)

/-- A wait field naming a reserved engine (R45). -/
def waitsOk (w : TWord) : Bool := (waits w).all (fun t => decide (t < 40))

/-- Whether every named token has the count its waits take. -/
def waitsMet (c : Core) (w : TWord) : Bool :=
  (waits w).all (fun t => decide (((waits w).filter (fun u => u == t)).length ≤ token c t))

/-- The counts the waits consume. -/
def consume (c : Core) (w : TWord) : Core := (waits w).foldl (fun c t => setToken c t (token c t - 1)) c

/-! ## Numeric counters (R152, R428) -/

/-- Counts of the outcomes of one instruction. -/
structure Tally where
  sat   : Nat := 0
  under : Nat := 0
  nan   : Nat := 0
  zero  : Nat := 0
  latch : Nat := 0
  deriving DecidableEq, Repr

/-- The tally of converted elements. -/
def tally (cs : List Conv) : Tally :=
  { sat := (cs.filter (fun c => c.cls == .sat)).length
    under := (cs.filter (fun c => c.cls == .under)).length
    nan := (cs.filter (fun c => c.cls == .nan)).length
    zero := (cs.filter (fun c => c.cls == .zero)).length
    latch := (cs.filter (fun c => c.latch)).length }

/-- The outcomes of source `src` added to a context's counters 0x0020 + 4·src + k (R428). -/
def countNumeric (s : State) (k src : Nat) (t : Tally) : State :=
  let add := fun (s : State) (i n : Nat) => if n = 0 then s else bump s 1 k (0x20 + 4 * src + i) n
  add (add (add (add s 0 t.sat) 1 t.under) 2 t.nan) 3 t.latch

/-! ## Numeric events and observations (R167, R183, R186) -/

/-- A numeric warning of core `n`, logged within EVENT_LIMIT and counted beyond it (R167). -/
def numEvent (s : State) (k n code : Nat) (pay : List Byte) : State :=
  let c := coreOf s k n
  if c.events < (ctxOf s k).policy.eventLimit then
    raiseOn (setCore s k n { c with events := c.events + 1 }) code clsC k 0 n pay
  else setCore s k n { c with suppressed := c.suppressed + 1 }

/-- One observation of a watch slot (R186, R187); an unarmed slot has none. -/
def observe (s : State) (k slot tensor : Nat) (nonzero : Bool) : State :=
  let x := ctxOf s k
  let w := look x.watches {} slot
  if w.armed then
    let w' : Watch := { w with seen := true, nonzero := w.nonzero || nonzero, tensor := tensor }
    setCtx s k { x with watches := put x.watches slot w' }
  else s

/-- One held effect applied. -/
def applyObs (k n : Nat) (s : State) (o : HeldObs) : State :=
  match o with
  | .event code pay => numEvent s k n code pay
  | .watch slot tensor nz => observe s k slot tensor nz

/-- Effects applied at once, or held back while a span is open (R183). -/
def emit (s : State) (k n : Nat) (os : List HeldObs) : State :=
  let c := coreOf s k n
  if c.pass = 0 then os.foldl (applyObs k n) s
  else setCore s k n { c with obs := c.obs ++ os }

/-! ## The overflow latch (R173, R174, R184) -/

/-- Cause bits of R173. -/
abbrev causeCvt : BitVec 3 := 1
abbrev causeArray : BitVec 3 := 2
abbrev causeVector : BitVec 3 := 4

/-- The latch set by an instruction of major opcode `opc` whose outputs go through `slots` (0: no
slot); the first setting outside a span since the latch was cleared may log UNSPANNED_OVERFLOW. -/
def setLatch (s : State) (k n opc : Nat) (cause : BitVec 3) (slots : List Nat) : State :=
  let c := coreOf s k n
  let s1 := setCore s k n { c with
    latch := true
    causes := c.causes ||| cause
    unspanned := c.unspanned || c.pass == 0
    slotHit := if c.pass = 2 then (slots.filter (fun v => v != 0)).foldl addNat c.slotHit else c.slotHit
    slotMiss := c.slotMiss || (c.pass == 2 && slots.any (fun v => v == 0)) }
  if c.pass = 0 ∧ c.unspanned = false ∧ (ctxOf s k).policy.flags.getLsbD 0 = true then
    raiseOn s1 0x0106 clsC k 0 n
      (p4 n ++ p4 (c.causes ||| cause).toNat ++ p4 opc ++ p4 c.stepNo.toNat)
  else s1

/-! ## The effects of one engine instruction -/

/-- What an engine instruction does once it runs: the source of R428 and its tally, the latch cause
and the slots written through, held effects, stores, the ranges it reads beside its operands, the array's tile and accumulators, the scratchpad frames read under CHUNK (R296), traps of
parts of the instruction that did not take effect, and the free values it drew. -/
structure Eff where
  src    : Nat := 0
  tally  : Tally := {}
  cause  : BitVec 3 := 0
  slots  : List Nat := []
  obs    : List HeldObs := []
  ws     : List Wr := []
  reads  : List (Nat × Nat) := []
  tile   : Option Tile := none
  acc    : Option (Tbl (BitVec 40)) := none
  frames : List Nat := []
  traps  : List Trap := []
  draws  : Nat := 0
  deriving DecidableEq, Repr

/-- The array state an effect replaces. -/
def arrayState (c : Core) (e : Eff) : Core :=
  { c with
    tile := e.tile.getD c.tile
    acc := match e.acc with | some a => a | none => c.acc
    firstRead := e.frames.foldl (fun w g => w ||| (1#64 <<< (g % 64))) c.firstRead }

/-- An instruction's effects made: stores first, then counters, latch, held effects and traps. -/
def applyEff (s : State) (k n opc : Nat) (e : Eff) : Except Trap State := do
  let s1 ← writeVas s k n e.ws
  let s2 := setCore s1 k n (arrayState (coreOf s1 k n) e)
  let s3 := countNumeric s2 k e.src e.tally
  let s4 := if e.cause = 0 then s3 else setLatch s3 k n opc e.cause e.slots
  let s5 := emit s4 k n e.obs
  let s6 := e.traps.foldl (fun s t => raiseTrap s k n opc t) s5
  .ok { s6 with freeCtr := s6.freeCtr + e.draws }

end Sys2Proof.Machine
end

