-- ==== Sys2Proof/Machine/Sums.lean ====
section
/-! DEFINITION. The sums of the array and the matrix-vector unit: exact groups, the narrow
accumulator, W40 (R115 to R119), the pieces of the split formats (R156, R157), and the formats each
compute format accepts (R107, R108). -/

namespace Sys2Proof.Machine

/-! ## Compute formats -/

/-- Compute format codes (R47). -/
abbrev cFP4 : Nat := 0
abbrev cFP8 : Nat := 3
abbrev cBF16 : Nat := 5
abbrev cFP16 : Nat := 6
abbrev cSplit3 : Nat := 7
abbrev cSplit2 : Nat := 0xE

/-- Whether a CFMT value of MMA is defined. -/
def cfmtOk (c : Nat) : Bool := [cFP4, cFP8, cBF16, cFP16, cSplit3, cSplit2].elem c

/-- Whether a compute format is one of the FP32 splits. -/
def isSplit (c : Nat) : Bool := c == cSplit3 || c == cSplit2

/-- The compute format promotion moves to (R49, R178): sparse BF16 and FP16 keep theirs. -/
def promoteCfmt (c sparse : Nat) : Nat :=
  if c = cFP4 then cFP8 else if c = cFP8 then cBF16
  else if (c = cBF16 ∨ c = cFP16) ∧ sparse = 0 then cSplit3 else c

/-- Kmax of a compute format and sparsity (R107). -/
def kMax (c sparse : Nat) : Nat := (if c = cFP4 then 256 else 128) * 2 ^ sparse

/-- The list FP8 accepts (R108). -/
def acceptsFP8 (mx : Bool) (f : Nat) : Bool := if mx then decide (f ≤ fE5M2) else decide (f ≤ fE5M2) || f == fINT4

/-- Whether a compute format accepts an element format (R108). -/
def accepts (c : Nat) (mx : Bool) (f : Nat) : Bool :=
  let bf := acceptsFP8 mx f || (!mx && (f == fBF16 || f == fINT8 || f == fUINT8)) || (mx && f == fINT8)
  let fp := !mx && (f == fFP16 || acceptsFP8 false f || f == fINT8 || f == fUINT8)
  if c = cFP4 then f == fFP4
  else if c = cFP8 then acceptsFP8 mx f
  else if c = cBF16 then bf
  else if c = cFP16 then fp
  else bf || fp || (!mx && f == fFP32)

/-! ## The narrow accumulator (R116 to R118) -/

/-- The running sum of one output: W40, and the open interval's anchor, narrow value and count. -/
structure Nar where
  acc  : Rat
  opn  : Bool := false
  a    : Int := 0
  nar  : Rat := 0
  cnt  : Nat := 0

/-- A finite value rounded to W40 (R117). -/
def roundW40 (q : Rat) : Rat := roundTo fW40 false q

/-- A value rounded to a multiple of 2^u, ties to even. -/
def roundAt (g : Rat) (u : Int) : Rat := (rneQ (g / pow2 u) : Rat) * pow2 u

/-- The open interval closed into W40. -/
def Nar.close (x : Nar) : Nar := { x with acc := roundW40 (x.acc + x.nar), opn := false, cnt := 0 }

/-- The interval closed when its count has reached P. -/
def Nar.full (p : Nat) (x : Nar) : Nar := if x.cnt = p then x.close else x

/-- One group sum taken in (R116, R118). -/
def Nar.group (split : Bool) (p : Nat) (x : Nar) (g : Rat) : Nar :=
  if split then { x with acc := roundW40 (x.acc + g) }
  else
    let t := roundAt g (x.a - 16)
    let early := x.opn && decide (pow2 (x.a + 3) ≤ absQ (x.nar + t))
    let y := if early then x.close else x
    if y.opn then Nar.full p { y with nar := y.nar + t, cnt := y.cnt + 1 }
    else if g = 0 then { y with cnt := if y.cnt + 1 = p then 0 else y.cnt + 1 }
    else
      let a := log2Q (absQ g)
      Nar.full p { y with a := a, nar := roundAt g (a - 16), opn := true, cnt := y.cnt + 1 }

/-- The group sums of a run of products. -/
def groupSums (g : Nat) (fuel : Nat) (ps : List Rat) : List Rat :=
  match fuel with
  | 0 => []
  | f + 1 => if ps = [] then [] else (ps.take g).foldl (· + ·) 0 :: groupSums g f (ps.drop g)

/-- One run of products (a column, a part of one under CHUNK, or a pass of a split) added to a W40
value; its open interval closes at its end (R117). -/
def addRun (split : Bool) (g p : Nat) (acc : Rat) (ps : List Rat) : Rat :=
  let x := (groupSums g (ps.length + 1) ps).foldl (Nar.group split p) ⟨acc, false, 0, 0, 0⟩
  if x.opn then x.close.acc else x.acc

/-- The finite part of a value. -/
def Val.q (v : Val) : Rat := match v with | .fin q => q | _ => 0

/-- What the special operands of an output make of it (R119, R124): poison, NaN, an infinity, or
nothing when every product and the accumulator are finite. -/
def special (acc : Val) (ps : List Val) : Option Val :=
  let l := acc :: ps
  if l.any (· == .poison) then some .poison
  else if l.any (· == .nan) then some .nan
  else
    let p := l.any (· == .inf false)
    let n := l.any (· == .inf true)
    if p ∧ n then some .nan else if p then some (.inf false) else if n then some (.inf true) else none

/-- A magnitude truncated toward zero to 8 significant bits, its sign kept (R156). -/
def trunc8 (q : Rat) : Rat :=
  if q = 0 then 0 else
    let u := log2Q (absQ q) - 7
    (rtzQ (q / pow2 u) : Rat) * pow2 u

/-- The pieces x1, x2, x3 of a value (R156). -/
def piece (i : Nat) (x : Rat) : Rat :=
  let x1 := trunc8 x
  let x2 := trunc8 (x - x1)
  if i = 1 then x1 else if i = 2 then x2 else x - x1 - x2

/-- The passes of a split format: the piece of the stationary and of the weight element (R157). -/
def passes (c : Nat) : List (Nat × Nat) :=
  if c = cSplit2 then [(2, 1), (1, 2), (1, 1)] else [(3, 1), (2, 2), (1, 3), (2, 1), (1, 2), (1, 1)]

/-- One output: an accumulator and the runs of (stationary, weight) pairs that reach it. -/
def sumOut (c g p : Nat) (acc : Val) (runs : List (List (Val × Val))) : Val :=
  match special acc ((runs.flatten).map (fun e => e.1.mul e.2)) with
  | some v => v
  | none =>
    .fin (runs.foldl (fun a r =>
      if isSplit c then
        (passes c).foldl (fun a e => addRun true g p a (r.map (fun x => piece e.1 x.1.q * piece e.2 x.2.q))) a
      else addRun false g p a (r.map (fun x => x.1.q * x.2.q))) acc.q)

/-- A result written to D in FP32 or W40 (R120): ±∞ for a finite value beyond the range, which sets
the latch, and +0 for one that rounds away. -/
def toD (f : Nat) (v : Val) : Conv :=
  match v with
  | .poison => ⟨if f = fW40 then w40Poison else nanCode f, .none, false, true⟩
  | .nan => ⟨nanCode f, .nan, false, false⟩
  | .inf n => ⟨infCode f n, .none, false, false⟩
  | .fin q =>
    let r := roundTo f false q
    if q = 0 then ⟨0, .zero, false, false⟩
    else if maxQ f < absQ r then ⟨infCode f (decide (q < 0)), .sat, true, false⟩
    else if r = 0 ∨ (f = fW40 ∧ absQ r < minNormal f) then ⟨0, .under, false, false⟩
    else ⟨encodeExact f r, .none, false, false⟩

end Sys2Proof.Machine
end

