-- ==== Sys2Proof/Machine/Array.lean ====
section
/-! DEFINITION. The work of the matrix array and the matrix-vector unit: MMA.LD, MMA, MDA and MVM
(R105 to R133, R178, R179). -/

namespace Sys2Proof.Machine

/-- The sub-field of a word as a number. -/
def subOf (f : Flight) : Nat := f.q.w.sub.toNat

/-- The size of dimension 1, 1 where there is none. -/
def dim0 (d : Desc) : Nat := nth d.sizes 0 1
def dim1 (d : Desc) : Nat := if 2 ≤ d.rank then nth d.sizes 1 1 else 1

/-- A shape of the tables of R109 and R131: every element lies in dimensions 0 and 1. -/
def flat (d : Desc) : Bool := ((dims d).drop 2).all (fun n => n == 1)

/-- SCALE_KIND 2 of an array operand must run along dimension 1 (R121). -/
def scaleDimOk (d : Desc) : Bool := !(d.scaleKind == 2) || d.scaleDim == 1

/-! ## MMA.LD (R109, R110) -/

/-- Rows a 16-byte row mask masks. -/
def maskRows (bs : List Byte) : List Nat := (List.range 128).filter (fun m => bit (leNat bs) m)

/-- MMA.LD's work. -/
def mmaLdEff (s : State) (k n : Nat) (f : Flight) : Except Trap Eff := do
  let sub := subOf f
  let cf := bits sub 11 8
  let d ← needDesc f.a
  need (cfmtOk cf && bits sub 6 0 == 0 && flat d && ownBase d && scaleDimOk d)
  need (accepts (if f.q.promote then promoteCfmt cf 0 else cf) d.mx d.code)
  need (decide (dim0 d ≤ kMax cf (if isSplit cf then 0 else 2)) && decide (dim1 d ≤ 128))
  let m ← (if bit sub 7 then do
      let b ← needDesc f.b
      need (b.code == fUINT8 && b.rank == 1 && dim0 b == 16 && ownBase b)
      let bs ← controlRead s k n b.base 16
      .ok (some b.base, maskRows bs)
    else .ok (none, []))
  let cs ← readCodes s k n d
  .ok { tile := some ⟨true, cf, d, m.1, m.2, cs⟩ }

/-- Whether a source element no longer holds what was loaded from it; one that has since turned to poison
leaves the cells as they are. -/
def changed (loaded now : Option Nat) : Bool :=
  match now with
  | none => false
  | some c => loaded != some c

/-- The tile in the cells, its source and its mask's still as they were loaded (R105, R110). -/
def tileOf (s : State) (k n : Nat) (c : Core) : Except Trap Tile := do
  let t := c.tile
  if t.live then do
    let cs ← readCodes s k n t.desc
    let mk ← (match t.maskVa with
      | none => .ok t.mask
      | some va => do
        let bs ← readVa s k n va 16
        .ok (if bs.2 then t.mask else maskRows bs.1))
    if (t.codes.zip cs).any (fun p => changed p.1 p.2) ∨ mk ≠ t.mask then .error (.unpred .tileOverwritten) else .ok t
  else .ok t

/-- The stationary value at (m, k), block scales applied. -/
def Tile.val (t : Tile) (m k : Nat) : Val :=
  let j := k + dim0 t.desc * m
  blockVal t.desc j (nth t.codes j none)

/-- Whether row `m` was loaded from a poisoned grain (R124). -/
def Tile.rowPoison (t : Tile) (m : Nat) : Bool :=
  (List.range (dim0 t.desc)).any (fun k => t.val m k == .poison)

/-! ## Accumulators -/

/-- Accumulator (m, n) as a value. -/
def accAt (t : Tbl (BitVec 40)) (m n : Nat) : Val := ofW40 (look t 0 (128 * m + n)).toNat

/-- An accumulator written; +0 is not listed. -/
def putAcc (t : Tbl (BitVec 40)) (i : Nat) (v : Val) : Tbl (BitVec 40) :=
  let c := BitVec.ofNat 40 (toW40 v)
  if c = 0 then drop t i else put t i c

/-! ## Weight columns -/

/-- The 64 KiB frame of the own scratchpad an element lies in (R296). -/
def frameOf (d : Desc) (j : Nat) : Nat := ((elemAt d j).1 - 0xF_0000_0000_0000) / 0x1_0000

/-- The frames a weight stream occupies. -/
def framesOf (d : Desc) : List Nat := (List.range (count d)).foldl (fun l j => addNat l (frameOf d j)) []

/-- Whether the chunk-ready flags an instruction with CHUNK waits on are set (R128, R296). -/
def chunksReady (c : Core) (d : Desc) : Bool := (framesOf d).all (fun g => c.readyMap.getLsbD (g % 64))

/-- The place of a frame in the order in which frames became ready. -/
def arrivalPos (c : Core) (g : Nat) : Nat := c.readyOrder.findIdx (· == g)

/-- The runs of a column's stored indices: whole, or under CHUNK, when frames of a collective in
arrival mode split it, one per frame in arrival order (R128). -/
def columnRuns (c : Core) (chunk : Bool) (d : Desc) (col : Nat) : List (List Nat) :=
  let js := (List.range (dim0 d)).map (fun i => i)
  let at' := fun i => frameOf d (i + dim0 d * col)
  let fs := js.foldl (fun l i => addNat l (at' i)) []
  if chunk ∧ 2 ≤ fs.length ∧ fs.all (fun g => c.arrival.elem g) = true then
    let order := (List.range 65).flatMap (fun p => fs.filter (fun g => min 64 (arrivalPos c g) == p))
    order.map (fun g => js.filter (fun i => at' i == g))
  else [js]

/-- The stationary position stored value `j` of a column multiplies (R125, R126). -/
def sparsePos (sparse j idx : Nat) : Nat :=
  if sparse = 0 then j else if sparse = 1 then 4 * (j / 2) + idx else 4 * j + idx

/-- The 2-bit index of stored value `j` of a column, none when its metadata byte is poisoned. -/
def metaIdx (x : Desc) (codes : List (Option Nat)) (col j : Nat) : Option Nat :=
  (nth codes (j / 4 + dim0 x * col) none).map (fun b => b / 2 ^ (2 * (j % 4)) % 4)

/-- The indices of every 2:4 run of a column are distinct and ascending (R126). -/
def runsOk (x : Desc) (codes : List (Option Nat)) (stored cols : Nat) : Bool :=
  (List.range cols).all (fun col => (List.range (stored / 2)).all (fun r =>
    match metaIdx x codes col (2 * r), metaIdx x codes col (2 * r + 1) with
    | some a, some b => decide (a < b)
    | _, _ => true))

/-! ## Writing D (R120, R121, R124) -/

/-- The output elements of D in index order: dimension 0 the column, dimension 1 the row. Without
scales a W40 output is the accumulator unchanged. -/
def outEls (d : Desc) (val : Nat → Nat → Val) : List Conv :=
  (List.range (count d)).map (fun j => toD d.code (val (j / dim0 d) (j % dim0 d)))

/-- The stores, tally and latch of a written D. -/
def writeD (s : State) (k n : Nat) (d : Desc) (cs : List Conv) : Except Trap Eff := do
  let es := cs.map (fun c => (⟨c.code, c.poi⟩ : OutEl))
  let ob ← watchObs s k n d (es.zipIdx.map (fun p => (p.2, p.1)))
  let t := tally cs
  .ok { src := 3, tally := { t with zero := 0 }, cause := if t.latch = 0 then 0 else causeArray
        slots := [d.slot], obs := ob, ws := tensorWrs d es }

/-- D of the matrix-vector unit: FP32 or W40, N by BATCH in the own scratchpad (R106, R131). -/
def mvmD (d : Desc) (rows cols : Nat) : Bool :=
  (d.code == fFP32 || d.code == fW40) && flat d && ownBase d && dim0 d == cols && dim1 d == rows

/-- D of the array: the same without scales, N by M (R109). -/
def arrayD (d : Desc) (rows cols : Nat) : Bool := mvmD d rows cols && d.scaleKind == 0

/-- acc × sa[m] × sw[n] (R121). -/
def scaled (v sa sw : Val) : Val := (v.mul sa).mul sw

/-- The scale of row or column `i` of an array operand (R121). -/
def rowScale (d : Desc) (i : Nat) : Val :=
  if d.scaleKind = 1 ∨ d.scaleKind = 2 then scaleOf d (dim0 d * i) else .fin 1

/-! ## MMA (R111, R115 to R126) -/

/-- The accumulator file after an MMA or MDA: `init` the value every unmasked row starts from under
ACC 0, `out` the new value of (m, n). -/
def newFile (c : Core) (t : Tile) (accBit : Bool) (init : Val) (cols : Nat) (out : Nat → Nat → Val → Val) :
    Tbl (BitVec 40) :=
  let rows := (List.range (dim1 t.desc)).filter (fun m => !t.mask.elem m)
  let base : Tbl (BitVec 40) :=
    if accBit then c.acc
    else rows.foldl (fun a m => (List.range 128).foldl (fun a j => putAcc a (128 * m + j) init) a) []
  rows.foldl (fun a m => (List.range cols).foldl (fun a j => putAcc a (128 * m + j) (out m j (accAt a m j))) a) base

/-- MMA's work. -/
def mmaEff (s : State) (k n : Nat) (c : Core) (f : Flight) : Except Trap Eff := do
  let sub := subOf f
  let cf := bits sub 11 8
  let lvl2 := c.level == 2
  let g := if lvl2 then 16 else 4 * 2 ^ bits sub 7 6
  let p := if lvl2 then 4 else 2 ^ bits sub 5 4
  let sp := bits sub 3 2
  let t ← tileOf s k n c
  let w ← needDesc f.a
  need (cfmtOk cf && cf == t.cfmt && (lvl2 || decide (bits sub 7 6 < 3)))
  need (decide (sp < (if lvl2 then 2 else 3)) && (sp == 0 || !isSplit cf))
  let ef := if f.q.promote then promoteCfmt cf sp else cf
  let kk := dim0 t.desc
  need (flat w && ownBase w && scaleDimOk w && accepts ef w.mx w.code && (sp == 0 || !w.mx))
  need (decide (kk ≤ kMax cf sp) && (sp == 0 || kk % 4 == 0) && dim0 w == kk / 2 ^ sp && decide (dim1 w ≤ 128))
  let cols := dim1 w
  let ws ← readCodes s k n w
  let x : Option (Desc × List (Option Nat)) ← (if sp = 0 then .ok none else do
    let x ← needDesc f.x
    need (x.code == fUINT8 && flat x && ownBase x && dim0 x == (dim0 w + 3) / 4 && dim1 x == cols)
    let mc ← readCodes s k n x
    need (sp != 1 || runsOk x mc (dim0 w) cols)
    .ok (some (x, mc)))
  let wv := fun i col => let j := i + dim0 w * col; blockVal w j (nth ws j none)
  let pos : Nat → Nat → Option Nat := fun col i => match x with
    | none => some i
    | some (x, mc) => (metaIdx x mc col i).map (fun q => sparsePos sp i q)
  let colPoison := fun col => (List.range (dim0 w)).any (fun i => wv i col == .poison || (pos col i).isNone)
  let out := fun m col (a : Val) =>
    if t.rowPoison m || colPoison col then Val.poison
    else sumOut ef g p a ((columnRuns c (bit sub 0) w col).map (fun r =>
      r.map (fun i => (t.val m ((pos col i).getD 0), wv i col))))
  let acc := newFile c t (bit sub 1) (.fin 0) cols out
  let fr := if bit sub 0 then framesOf w else []
  match f.d with
  | none => .ok { acc := some acc, frames := fr }
  | some d =>
    need (arrayD d (dim1 t.desc) cols)
    let e ← writeD s k n d (outEls d (fun m j => scaled (accAt acc m j) (rowScale t.desc m) (rowScale w j)))
    .ok { e with acc := some acc, frames := fr }

/-! ## MDA (R129, R130) -/

/-- The term of modes 0 and 1. -/
def mdaTerm (mode : Nat) (x y : Val) : Val :=
  let d := x.add y.neg
  if mode = 0 then d.abs else d.mul d

/-- Whether a relation holds (R130); false with a NaN. -/
def mdaRel (r : Nat) (x y : Val) : Bool :=
  match r with
  | 0 => x.eq y
  | 1 => x.lt y
  | 2 => x.lt y || x.eq y
  | 3 => y.lt x
  | _ => y.lt x || y.eq x

/-- The larger or smaller of two values; NaN and poison propagate (R195). -/
def maxV (a b : Val) : Val :=
  if a = .poison ∨ b = .poison then .poison else if a = .nan ∨ b = .nan then .nan
  else if a.lt b then b else a
def minV (a b : Val) : Val :=
  if a = .poison ∨ b = .poison then .poison else if a = .nan ∨ b = .nan then .nan
  else if b.lt a then b else a

/-- One output of MDA. -/
def mdaOut (mode rel : Nat) (acc : Val) (runs : List (List (Val × Val))) : Val :=
  let one : Val := .fin 1
  if mode ≤ 1 then
    sumOut cBF16 16 4 acc (runs.map (fun r => r.map (fun e => (mdaTerm mode e.1 e.2, one))))
  else if mode = 2 then ofW40 (toW40 (runs.flatten.foldl (fun a e => maxV a (e.1.add e.2)) acc))
  else if mode = 3 then ofW40 (toW40 (runs.flatten.foldl (fun a e => minV a (e.1.add e.2)) acc))
  else ofW40 (toW40 (acc.add (.fin ((runs.flatten.filter (fun e => mdaRel rel e.1 e.2)).length : Nat))))

/-- The value an accumulator starts from under ACC 0 (R129). -/
def mdaInit (mode : Nat) : Val := if mode = 2 then .inf true else if mode = 3 then .inf false else .fin 0

/-- MDA's work. -/
def mdaEff (s : State) (k n : Nat) (c : Core) (f : Flight) : Except Trap Eff := do
  let sub := subOf f
  let cf := bits sub 11 8
  let mode := bits sub 7 5
  let rel := bits sub 4 2
  let t ← tileOf s k n c
  let w ← needDesc f.a
  need ((cf == cFP8 || cf == cBF16) && cf == t.cfmt && decide (mode ≤ 4) && decide (rel ≤ (if mode = 4 then 4 else 0)))
  let ef := if f.q.promote ∧ cf = cFP8 then cBF16 else cf
  let kk := dim0 t.desc
  need (flat w && ownBase w && accepts ef w.mx w.code && !w.mx && !t.desc.mx && w.scaleKind == 0 && t.desc.scaleKind == 0)
  need (decide (kk ≤ kMax cf 0) && dim0 w == kk && decide (dim1 w ≤ 128))
  let cols := dim1 w
  let ws ← readCodes s k n w
  let wv := fun i col => let j := i + dim0 w * col; blockVal w j (nth ws j none)
  let colPoison := fun col => (List.range (dim0 w)).any (fun i => wv i col == .poison)
  let out := fun m col (a : Val) =>
    if t.rowPoison m || colPoison col || a == .poison then Val.poison
    else mdaOut mode rel a ((columnRuns c (bit sub 0) w col).map (fun r => r.map (fun i => (t.val m i, wv i col))))
  let acc := newFile c t (bit sub 1) (mdaInit mode) cols out
  let fr := if bit sub 0 then framesOf w else []
  match f.d with
  | none => .ok { acc := some acc, frames := fr }
  | some d =>
    need (arrayD d (dim1 t.desc) cols)
    let e ← writeD s k n d (outEls d (accAt acc))
    .ok { e with acc := some acc, frames := fr }

/-! ## MVM (R131 to R133) -/

/-- The formats of MVM's input vectors (R131). -/
def mvmInput (d : Desc) : Bool :=
  !d.mx && [fBF16, fFP16, fE4M3, fE5M2, fE2M3, fE3M2, fFP4, fINT8].elem d.code

/-- Whether every byte of a tensor lies in SOFTWARE Thatch mapped by the context (R132). -/
def inThatch (s : State) (k n : Nat) (d : Desc) : Except Trap Bool := do
  let rs ← ((tensorSpan d).flatMap (fun r => segs r.1 r.2)).mapM (fun g => do
    match ← translate s k n g.1 .read with
    | .mem a => .ok (decide (Config.thatchDpa ≤ a) && decide (a < Config.scratchDpa)
        && sliceMode s.mem (sliceOf a) == .software)
    | .stat _ => .ok false)
  .ok (rs.all (fun b => b))

/-- MVM's work. -/
def mvmEff (s : State) (k n : Nat) (f : Flight) : Except Trap Eff := do
  let sub := subOf f
  let cf := bits sub 11 8
  let batch := bits sub 7 5 + 1
  let w ← needDesc f.a
  let b ← needDesc f.b
  let d ← needDesc f.d
  need ((cf == cFP4 || cf == cFP8) && bits sub 3 1 == 0)
  let ef := if f.q.promote ∧ cf = cFP4 then cFP8 else cf
  need (flat w && accepts ef w.mx w.code && scaleDimOk w && flat b && ownBase b && mvmInput b && scaleDimOk b)
  need (dim0 b == dim0 w && dim1 b == batch && decide (dim0 b * batch * elemBits b.code ≤ 8 * 0x1_0000))
  need (mvmD d batch (dim1 w) && (!bit sub 0 || d.code == fW40))
  if bit sub 4 then need (← inThatch s k n w) else need (ownBase w)
  let ws ← readCodes s k n w
  let bs ← readCodes s k n b
  let old ← (if bit sub 0 then readVals s k n { d with scaleKind := 0 } else .ok [])
  let val := fun r j =>
    let a := if bit sub 0 then nth old (j + dim0 d * r) (.fin 0) else .fin 0
    let run := (List.range (dim0 w)).map (fun i =>
      (blockVal b (i + dim0 b * r) (nth bs (i + dim0 b * r) none), blockVal w (i + dim0 w * j) (nth ws (i + dim0 w * j) none)))
    if run.any (fun e => e.1 == .poison || e.2 == .poison) then Val.poison
    else scaled (sumOut ef 16 4 a [run]) (rowScale b r) (rowScale w j)
  writeD s k n d (outEls d val)

end Sys2Proof.Machine
end

