-- ==== Sys2Proof/Machine/Hash.lean ====
section
/-! DEFINITION. The published functions the spec names: CRC-32 (R242), CRC-32C (R266), Philox-4×32
with 10 rounds (R206), and Keccak's SHAKE256, SHA3-512 and KMAC256 (R298, R413, R417, R421). -/

namespace Sys2Proof.Machine

/-! ## CRC -/

/-- One bit of a reflected CRC. -/
def crcBit (poly c : BitVec 32) : BitVec 32 := if c.getLsbD 0 then (c >>> 1) ^^^ poly else c >>> 1

/-- One byte of a reflected CRC. -/
def crcByte (poly c : BitVec 32) (b : Byte) : BitVec 32 :=
  let x := c ^^^ b.setWidth 32
  (List.range 8).foldl (fun c _ => crcBit poly c) x

/-- A reflected CRC with initial value and final XOR of all ones. -/
def crcWith (poly : BitVec 32) (bs : List Byte) : BitVec 32 :=
  ~~~(bs.foldl (crcByte poly) 0xFFFF_FFFF#32)

/-- CRC-32 of IEEE 802.3 (R242). -/
def crc32 (bs : List Byte) : BitVec 32 := crcWith 0xEDB8_8320#32 bs

/-- CRC-32C, Castagnoli (R266). -/
def crc32c (bs : List Byte) : BitVec 32 := crcWith 0x82F6_3B78#32 bs

/-! ## Philox-4×32-10 (R206) -/

/-- One round: counter words and keys as 32-bit numbers. -/
def philoxRound (c : Nat × Nat × Nat × Nat) (k0 k1 : Nat) : Nat × Nat × Nat × Nat :=
  let p0 := 0xD251_1F53 * c.1
  let p1 := 0xCD9E_8D57 * c.2.2.1
  ((p1 / 2 ^ 32) ^^^ c.2.1 ^^^ k0, p1 % 2 ^ 32, (p0 / 2 ^ 32) ^^^ c.2.2.2 ^^^ k1, p0 % 2 ^ 32)

/-- The rounds with the key bumped after each. -/
def philoxRounds (n : Nat) (c : Nat × Nat × Nat × Nat) (k0 k1 : Nat) : Nat × Nat × Nat × Nat :=
  match n with
  | 0 => c
  | m + 1 => philoxRounds m (philoxRound c k0 k1) ((k0 + 0x9E37_79B9) % 2 ^ 32) ((k1 + 0xBB67_AE85) % 2 ^ 32)

/-- The four words of a key and a counter. -/
def philox (key c0 c1 c2 c3 : Nat) : Nat × Nat × Nat × Nat :=
  philoxRounds 10 (c0 % 2 ^ 32, c1 % 2 ^ 32, c2 % 2 ^ 32, c3 % 2 ^ 32) (key % 2 ^ 32) (key / 2 ^ 32 % 2 ^ 32)

/-! ## Keccak -/

/-- The bit sequence of the round constants: the powers of x modulo x^8 + x^6 + x^5 + x^4 + 1, read at x^0. -/
def keccakSeq (n r : Nat) : List Bool :=
  match n with
  | 0 => []
  | m + 1 => decide (r % 2 = 1) :: keccakSeq m (if 128 ≤ r then (2 * r) ^^^ 0x171 else 2 * r)

/-- A round constant from the seven bits of its round: bit j stands at place 2^j − 1. -/
def roundConst (bs : List Bool) : BitVec 64 :=
  BitVec.ofNat 64 ((bs.zipIdx.map (fun p => if p.1 then 2 ^ (2 ^ p.2 - 1) else 0)).sum)

/-- The constants of the 24 rounds. -/
def roundConsts : List (BitVec 64) :=
  let bs := keccakSeq 168 1
  (List.range 24).map (fun i => roundConst ((bs.drop (7 * i)).take 7))

/-- The rotations of the lanes: the walk (x, y) → (y, 2x + 3y) from (1, 0) turns its t-th lane by t (t + 1) / 2. -/
def rotWalk (n t x y : Nat) : Tbl Nat :=
  match n with
  | 0 => []
  | m + 1 => (x + 5 * y, t * (t + 1) / 2 % 64) :: rotWalk m (t + 1) y ((2 * x + 3 * y) % 5)

/-- The 25 lanes of a state, lane (x, y) at x + 5y; both counted modulo 5. -/
abbrev Lanes := List (BitVec 64)

/-- Lane (x, y). -/
def Lanes.at (a : Lanes) (x y : Nat) : BitVec 64 := nth a (x % 5 + 5 * (y % 5)) 0

/-- A state given lane by lane. -/
def Lanes.of (g : Nat → Nat → BitVec 64) : Lanes := (List.range 25).map (fun i => g (i % 5) (i / 5))

/-- The parity of a column. -/
def Lanes.parity (a : Lanes) (x : Nat) : BitVec 64 := (List.range 5).foldl (fun v y => v ^^^ a.at x y) 0

/-- Theta: every lane takes the parities of two columns beside it. -/
def theta (a : Lanes) : Lanes :=
  let par := (List.range 5).map a.parity
  Lanes.of (fun x y => a.at x y ^^^ nth par ((x + 4) % 5) 0 ^^^ (nth par ((x + 1) % 5) 0).rotateLeft 1)

/-- Rho and pi: lane (x, y) turned and moved to (y, 2x + 3y). -/
def rhoPi (w : Tbl Nat) (a : Lanes) : Lanes :=
  Lanes.of (fun u v => let x := (u + 3 * v) % 5
    (a.at x u).rotateLeft (look w 0 (x + 5 * u)))

/-- Chi, and iota with the constant of the round. -/
def chiIota (rc : BitVec 64) (a : Lanes) : Lanes :=
  Lanes.of (fun x y => (a.at x y ^^^ (~~~(a.at (x + 1) y) &&& a.at (x + 2) y)) ^^^ (if x + y = 0 then rc else 0))

/-- Keccak-f[1600]. -/
def keccakF (a : Lanes) : Lanes :=
  let w := rotWalk 24 1 1 0
  roundConsts.foldl (fun a rc => chiIota rc (rhoPi w (theta a))) a

/-- A block of bytes XORed into the state. -/
def absorb (a : Lanes) (blk : List Byte) : Lanes :=
  a.zipIdx.map (fun p => p.1 ^^^ BitVec.ofNat 64 (leNat ((blk.drop (8 * p.2)).take 8)))

/-- The blocks of a message absorbed. -/
def absorbAll (rate fuel : Nat) (a : Lanes) (m : List Byte) : Lanes :=
  match fuel with
  | 0 => a
  | f + 1 => if m = [] then a else absorbAll rate f (keccakF (absorb a (m.take rate))) (m.drop rate)

/-- A message padded: the domain byte after it and the last bit of the block set. -/
def keccakPad (rate : Nat) (dom : Nat) (m : List Byte) : List Byte :=
  let q := rate - m.length % rate
  if q = 1 then m ++ [BitVec.ofNat 8 (dom + 0x80)]
  else m ++ [BitVec.ofNat 8 dom] ++ List.replicate (q - 2) 0 ++ [0x80]

/-- The sponge of rate 136 or 72 bytes, up to one block of output. -/
def sponge (rate dom out : Nat) (m : List Byte) : List Byte :=
  let p := keccakPad rate dom m
  let a := absorbAll rate (p.length / rate + 1) (List.replicate 25 0) p
  (a.flatMap (fun w => leBytes 8 w.toNat)).take out

/-- SHAKE256 with at most 136 bytes of output. -/
def shake256 (out : Nat) (m : List Byte) : List Byte := sponge 136 0x1F out m

/-- SHA3-512. -/
def sha3_512 (m : List Byte) : List Byte := sponge 72 0x06 64 m

/-- left_encode and right_encode of NIST SP 800-185 for values below 65,536. -/
def leftEnc (v : Nat) : List Byte :=
  if v < 256 then [1, BitVec.ofNat 8 v] else [2, BitVec.ofNat 8 (v / 256), BitVec.ofNat 8 v]
def rightEnc (v : Nat) : List Byte :=
  if v < 256 then [BitVec.ofNat 8 v, 1] else [BitVec.ofNat 8 (v / 256), BitVec.ofNat 8 v, 2]

/-- bytepad of NIST SP 800-185 at rate 136. -/
def bytepad (m : List Byte) : List Byte :=
  let z := leftEnc 136 ++ m
  z ++ List.replicate ((136 - z.length % 136) % 136) 0

/-- KMAC256 with a 32-byte output and an empty customisation string. -/
def kmac256 (key m : List Byte) : List Byte :=
  let name : List Byte := [0x4B, 0x4D, 0x41, 0x43]
  let pre := bytepad (leftEnc 32 ++ name ++ leftEnc 0)
  let k := bytepad (leftEnc (8 * key.length) ++ key)
  sponge 136 0x04 32 (pre ++ k ++ m ++ rightEnc 256)

end Sys2Proof.Machine
end

