-- ==== Sys2Proof/Machine/Ecc.lean ====
section
/-! DEFINITION. Memory errors as a reader meets them (R74, R79, R83 to R85, R384, R411) and the traffic
charged to a context's HBM budget (R80, R99, R100). -/

namespace Sys2Proof.Machine

/-- 24 hours, 1 hour and 1 second in ns. -/
abbrev day : Nat := 86400000000000
abbrev hour : Nat := 3600000000000
abbrev second : Nat := 1000000000

/-- The pseudo-channel, 32 · stack + channel, of an HBM address (R70). -/
def chanOf (a : Nat) : Nat := 32 * (a / Config.stackBytes) + a / 256 % 32

/-- The errors of an HBM row noted: `w` of the 8 that make it due for sparing (R85). -/
def noteRow (m : Mem) (a now w : Nat) : Mem :=
  { m with rowErrs := (m.rowErrs.filter (fun e => decide (now < e.2.2 + day)))
      ++ List.replicate w (chanOf a, Config.hbmRow a, now) }

/-- The errors of a Thatch slice noted (R411). -/
def noteSlice (m : Mem) (a now : Nat) (unc : Bool) : Mem :=
  if unc then { m with sliceErrs := (m.sliceErrs.filter (fun e => decide (now < e.2.2 + day))) ++ [(sliceOf a, a / 64, now)] }
  else { m with sliceCorr := (m.sliceCorr.filter (fun e => decide (now < e.2 + hour))) ++ [(sliceOf a, now)] }

/-- The record a memory keeps of an error. -/
def noteErr (m : Mem) (a now : Nat) (unc : Bool) : Mem :=
  if a < Config.thatchDpa then noteRow m a now (if unc then 8 else 1)
  else if a < Config.scratchDpa then noteSlice m a now unc
  else m

/-- An uncorrected error met by a read (`src` 0) or the scrub (1): the grain is poisoned and
MEM_POISONED raised; the sparing of an HBM row it starts keeps the event in handling. A grain already
poisoned decodes as poison and is no new error (R83). -/
def uncorrected (s : State) (k a src : Nat) : State :=
  if s.mem.poison.elem (a / 64) then s
  else
    let s1 := poisonGrain { s with mem := noteErr s.mem a s.clock.ns true } a
    let s2 := raise s1 0x0201 clsD k (unitOfDpa a) (p8 a ++ p4 src)
    if a < Config.thatchDpa then keepHandling s2 else s2

/-- A corrected error: logged at most once per unit per second; the others are counted, and the next record of the unit
carries their count (R384). -/
def correctedErr (s : State) (k a : Nat) : State :=
  let u := unitOfDpa a
  let m := noteErr s.mem a s.clock.ns false
  let n := look m.corrCount 0 u
  if has m.lastCorr u ∧ s.clock.ns < look m.lastCorr 0 u + second then
    { s with mem := { m with corrCount := put m.corrCount u (n + 1) } }
  else
    raise { s with mem := { m with corrCount := drop m.corrCount u, lastCorr := put m.lastCorr u s.clock.ns } }
      0x0202 clsC k u (p8 a ++ p4 n)

/-- An error a memory develops: it stands until the grain is read, scrubbed or written whole. -/
def develop (s : State) (rd : ReadErr) : State :=
  match rd with
  | .none => s
  | .corrected a => { s with mem := { s.mem with upsets := s.mem.upsets ++ [(a, false)] } }
  | .uncorrected a => { s with mem := { s.mem with upsets := s.mem.upsets ++ [(a, true)] } }

/-- One error met by a read or the scrub (`src` 0 or 1) of context `k`: it is gone with its report. -/
def meetOne (k src : Nat) (s : State) (u : Nat × Bool) : State :=
  let s1 : State := { s with mem := { s.mem with upsets := s.mem.upsets.filter (fun v => v != u) } }
  if u.2 then uncorrected s1 k u.1 src else correctedErr s1 k u.1

/-- The errors in the grains of [a, a + n) met. -/
def meet (s : State) (k src a n : Nat) : State :=
  (s.mem.upsets.filter (fun u => grainIn a n (u.1 / 64))).foldl (meetOne k src) s

/-- A physical range copied by firmware or an engine for context `k`: the source read, then the copy. -/
def copyDpa (s : State) (k src dst n : Nat) : State :=
  let t := meet s k 0 src n
  { t with mem := copyMem t.mem src dst n }

/-! ## HBM traffic (R80, R99, R100) -/

/-- Whether a virtual address lies in a page with NOCACHE set (R72). -/
def noCache (s : State) (k va : Nat) : Bool :=
  match pageOf (ctxOf s k).pages va with
  | some (p, _) => p.nocache
  | none => true

/-- The grains of line `l` that [a, a + n) touches. -/
def lineGrains (a n l : Nat) : Nat := ((grainsOf a n).filter (fun g => g / 4 == l)).length

/-- One access of a 256-byte line of HBM, `g` of its grains, through the cache of partition `part`: the
state, and the grains read from HBM. A miss that fills a line reads all four of its grains, one that does
not only those it asks for, and a dirty line written back is four more. -/
def hbmLine (s : State) (part line g : Nat) (wr alloc : Bool) : State × Nat :=
  let r := cacheAccess s part line wr alloc
  let fills := alloc && decide (0 < (cacheSlices s (line * 256 / (2 * Config.stackBytes)) part).length)
  let s1 : State := { s with mem := { s.mem with lines := r.2.2 } }
  (if r.2.1 then drawn s1 else s1,
    (if r.1 then 0 else if fills then 4 else if wr then 0 else g) + (if r.2.1 then 4 else 0))

/-- A physical range accessed by an agent of partition `part`; scratchpads and Thatch take no HBM. -/
def hbmRange (part : Nat) (alloc : Bool) (st : State × Nat) (a n : Nat) (wr : Bool) : State × Nat :=
  if n = 0 ∨ Config.thatchDpa ≤ a then st
  else (List.range ((a + n - 1) / 256 - a / 256 + 1)).foldl (fun st i =>
    let r := hbmLine st.1 part (a / 256 + i) (lineGrains a n (a / 256 + i)) wr alloc
    (r.1, st.2 + r.2)) st

/-- A physical range an access leads to: address, bytes, whether it is written, and whether its page takes
the cache. -/
structure Touch where
  dpa   : Nat
  len   : Nat
  wr    : Bool
  cache : Bool
  deriving DecidableEq, Repr

/-- The physical ranges behind accesses of core `n` of context `k`: (address, bytes, write). -/
def touches (s : State) (k n : Nat) (as : List (Nat × Nat × Bool)) : List Touch :=
  as.flatMap (fun a => (segs a.1 a.2.1).filterMap (fun g =>
    match translate s k n g.1 (if a.2.2 then .write else .read) with
    | .ok (.mem d) => some ⟨d, g.2, a.2.2, !noCache s k g.1⟩
    | _ => none))

/-- The HBM accesses of a list of ranges made for context `k`: the state with its cache lines, and the
grains charged. -/
def hbmTraffic (s : State) (k : Nat) (ts : List Touch) : State × Nat :=
  ts.foldl (fun st t => hbmRange (ctxOf st.1 k).part t.cache st t.dpa t.len t.wr) (s, 0)

/-- What a context pays of the grains it owes: bursts of 64 while its level is positive (R100). -/
def payable (level : Int) (owed : Nat) : Nat := if level ≤ 0 then 0 else min owed (64 * ((level.toNat + 63) / 64))

/-- Grains charged to a context's HBM level, which falls to −63 at most; the rest is owed. -/
def chargeHbm (s : State) (k g : Nat) : State :=
  if g = 0 then s
  else
    let x := ctxOf s k
    let p := payable x.levelHbm (x.owedHbm + g)
    setCtx s k { x with levelHbm := x.levelHbm - p, owedHbm := x.owedHbm + g - p }

/-- Whether accesses of core `n` of context `k` must wait for a positive HBM level. -/
def hbmWaits (s : State) (k n : Nat) (as : List (Nat × Nat × Bool)) : Bool :=
  decide ((ctxOf s k).levelHbm ≤ 0) && decide (0 < (hbmTraffic s k (touches s k n as)).2)

/-! ## The inputs of a span (R65) -/

/-- One range of an access inside an open span: a read of bytes the span has not written is an input; a
write of an input is a breach. -/
def spanTouch (c : Core × Bool) (t : Touch) : Core × Bool :=
  if t.wr then
    ({ c.1 with spanOut := c.1.spanOut ++ [(t.dpa, t.len)] },
      c.2 || c.1.spanIn.any (fun r => overlaps r.1 r.2 t.dpa t.len))
  else ({ c.1 with spanIn := c.1.spanIn ++ c.1.spanOut.foldl (fun l o => cutOut l o.1 o.2) [(t.dpa, t.len)] }, c.2)

/-- The accesses of core `n` held against the inputs of its open span: a breach gives an unpredictable
result. -/
def spanInputs (s : State) (k n : Nat) (ts : List Touch) : State :=
  let c := coreOf s k n
  if c.pass = 0 ∨ ts = [] then s
  else
    let r := ts.foldl spanTouch (c, false)
    if r.2 then wild (setCore s k n r.1) k else setCore s k n r.1

/-- Physical ranges accessed for context `k`: the memory errors they meet, the cache lines they take, and the grains
read from HBM. -/
def reach (s : State) (k : Nat) (ts : List Touch) : State × Nat :=
  hbmTraffic ((ts.filter (fun t => !t.wr)).foldl (fun s t => meet s k 0 t.dpa t.len) s) k ts

/-- Those of an agent that is regulated: the grains are charged to the context (R99). -/
def payFor (s : State) (k : Nat) (ts : List Touch) : State :=
  let r := reach s k ts
  chargeHbm r.1 k r.2

/-- Whether an access breaks R283: a write of the A or D of a collective in flight, or a read of a D that has
no chunk-ready flags. -/
def collBreach (s : State) (k : Nat) (ts : List Touch) : Bool :=
  (ctxOf s k).colls.any (fun x =>
    let hits := fun (l : List (Nat × Nat)) (t : Touch) => l.any (fun r => overlaps r.1 r.2 t.dpa t.len)
    ts.any (fun t => hits x.outs t && (t.wr || !x.chunkFlag) || t.wr && hits x.ins t))

/-- What the accesses of core `n` of context `k` meet and cost: memory errors, cache lines, the HBM
budget, the inputs of an open span, and the operands of collectives in flight. -/
def account (s : State) (k n : Nat) (as : List (Nat × Nat × Bool)) : State :=
  let ts := touches s k n as
  let s1 := spanInputs (payFor s k ts) k n ts
  if collBreach s k ts then wild s1 k else s1

/-- A trap answered: a control read of poison has met what the grain held. -/
def trapNow (s : State) (k n opc : Nat) (t : Trap) : Out :=
  match t with
  | .consumed va => trapOut ((touches s k n [(va, 1, false)]).foldl (fun s t => meet s k 0 t.dpa t.len) s) k n opc t
  | _ => trapOut s k n opc t

end Sys2Proof.Machine
end

