-- ==== Sys2Proof/Machine/Sched.lean ====
section
/-! DEFINITION. Contexts on their partitions: save images, making a context resident and taking it
off (R78, R365 to R368, R478), the end of a launch (R363), and when a core can issue. -/

namespace Sys2Proof.Machine

/-! ## Save images -/

/-- A physical scratchpad's bytes put into the save image of core `n` of context `k`, poison kept. -/
def saveScratch (s : State) (k n p : Nat) : State :=
  [0, Config.page2].foldl (fun s o =>
    copyDpa s k (Config.scratchDpa + p * Config.scratchBytes + o) (imgAt (ctxOf s k) n o) Config.page2) s

/-- A save image's bytes put into a physical scratchpad. -/
def loadScratch (s : State) (k n p : Nat) : State :=
  [0, Config.page2].foldl (fun s o =>
    copyDpa s k (imgAt (ctxOf s k) n o) (Config.scratchDpa + p * Config.scratchBytes + o) Config.page2) s

/-- The cores of a partition that hold a physical core now, each with it. -/
def residents (s : State) (part : Nat) : List (Nat × Nat) :=
  (coresOf s.place part).filterMap (fun n => (residentPhys s n).map (fun p => (n, p)))

/-! ## Cores of a context -/

/-- The logical cores of a context's launch. -/
def launchCores (x : Ctx) : List Nat := x.launch.map (fun e => e.lcore)

/-- Whether the watchdog of a context is suspended (R238). -/
def watchSuspended (s : State) (k : Nat) : Bool :=
  let x := ctxOf s k
  (partSt s.place x.part).running != some k || x.st == .paused || x.pauseReq
    || (launchCores x).any (fun n => (coreOf s k n).halted)

/-- The watchdog's measure of a context brought up to date: a suspended time does not advance it. Done at each
test, and before anything that suspends it or lets it go on. -/
def watchTick (s : State) (k : Nat) : State :=
  let x := ctxOf s k
  if x.launched = false then s
  else setCtx s k { x with
    watchBase := if watchSuspended s k then x.watchBase + (s.clock.ns - x.watchAt) else x.watchBase
    watchAt := s.clock.ns }

/-! ## Residency -/

/-- The device ns for which cores of running contexts were away, counted (R428): since the switch of the pair, or
since the context became resident. -/
def countAway (s : State) (ns : List Nat) : State :=
  ns.foldl (fun s n =>
    let x := partSt s.place (partOf s.place n)
    let since := max (look s.place.phys {} (physOf s.place n)).switchAt x.residentAt
    if x.running = none ∨ s.clock.ns ≤ since then s else bump s 2 n 0x17 (s.clock.ns - since)) s

/-- The cores of a partition that are away: the other half of a pair is resident, or they have no physical core. -/
def awayCores (s : State) (part : Nat) : List Nat := (coresOf s.place part).filter (fun n => (residentPhys s n).isNone)

/-- A partition's settings and schedule replaced. -/
def setPart (s : State) (part : Nat) (x : PartSt) : State :=
  { s with place := { s.place with parts := put s.place.parts part x } }

/-- The running context taken off its partition, every resident core saved to its image. -/
def deschedule (s : State) (part : Nat) : State :=
  let x := partSt s.place part
  match x.running with
  | none => s
  | some k =>
    let s1 := (residents s part).foldl (fun s np => saveScratch s k np.1 np.2) (countAway (watchTick s k) (awayCores s part))
    setPart s1 part { x with running := none, lastRun := k, preempting := false }

/-- The runnable context of a partition that is next in turn: ascending from the one after the last
to run (R365). -/
def nextRunnable (s : State) (part last : Nat) : Option Nat :=
  (List.range 64).findSome? (fun i =>
    let k := (last + 1 + i) % 64
    if (ctxOf s k).st = .runnable ∧ (ctxOf s k).part = part then some k else none)

/-- A context made resident on its partition: images loaded, RUNNING, a new slice begun. -/
def makeResident (s : State) (part k : Nat) : State :=
  let x := partSt s.place part
  let s1 := setPart (watchTick s k) part { x with running := some k, sliceAt := s.clock.ns, residentAt := s.clock.ns, preempting := false }
  let s2 := (residents s1 part).foldl (fun s np => loadScratch s k np.1 np.2) s1
  traceCat (changeCtx s2 k .running 0) 2 k 0xFFFF 0 0x30 0 part []

/-- The next runnable context of an idle, available partition made resident. -/
def schedule (s : State) (part : Nat) : State :=
  let x := partSt s.place part
  if x.running = none ∧ x.unavailable = false then
    match nextRunnable s part x.lastRun with
    | some k => makeResident s part k
    | none => s
  else s

/-! ## Cores, engines and images -/

/-- Every core of a context's partition changed. -/
def mapCores (s : State) (k : Nat) (f : Nat → Core → Core) : State :=
  (coresOf s.place (ctxOf s k).part).foldl (fun s n => if has s.cores (coreKey k n) then setCore s k n (f n (coreOf s k n)) else s) s

/-- Whether all five engines of a core are empty and every instruction has completed. -/
def enginesEmpty (c : Core) : Bool := c.queues.all (fun e => e.2.isEmpty) && c.flights.all (fun e => e.2.isEmpty)

/-- A core with its engines emptied and its waits discarded. -/
def stopCore (c : Core) : Core :=
  { c with
    active := false, queues := [], flights := [], held := none, paused := false, halted := false
    oneStep := false, faulted := false, skipBp := false, tokens := [], pass := 0, obs := [], marks := [], depth := 0
    commits := [], spill := [] }

/-- The HBM pages that the fetch lists of a context spilled to given back. -/
def releaseSpill (s : State) (k : Nat) : State :=
  let gone := (s.cores.filter (fun e => e.1 / 512 == k)).flatMap (fun e => e.2.spill)
  { s with mem := { s.mem with fwRanges := s.mem.fwRanges.filter (fun r => !gone.elem r.1) } }

/-- The waits of a context's trusses discarded. -/
def dropWaiters (x : Ctx) : Ctx := { x with trusses := mapTbl x.trusses (fun _ t => { t with waiters := [] }) }

/-! ## The end of a launch (R363) -/

/-- LAUNCH_DONE of a context with a status, and the context IDLE off its partition; the next runnable
context takes the partition. -/
def endLaunch (s : State) (k status : Nat) : State :=
  let x := ctxOf s k
  let ended := ((launchCores x).filter (fun n => (coreOf s k n).ended)).length
  let s1 := if runningOn s (homeCore s x) = some k then deschedule s x.part else s
  let s2 := mapCores (releaseSpill s1 k) k (fun _ c => stopCore c)
  let s3 := setCtx s2 k { dropWaiters (ctxOf s2 k) with
    launch := [], launched := false, colls := [], endedAt := s.clock.ns, restart := { history := x.restart.history }, pauseReq := false, haltReq := 0
    heldDone := x.route == 0 && outboxBlocked s.fw }
  let s4 := asyncRec s3 0x8001 k status
    (p8 s.clock.ns ++ leBytes 2 ended ++ leBytes 2 (x.firstFault.getD 0xFFFF) ++ p4 x.faultSeq)
  schedule (changeCtx s4 k .idle 0) x.part
where
  /-- A logical core of the context's partition. -/
  homeCore (s : State) (x : Ctx) : Nat := 20 * ((baysOf s.place x.part).head?.getD 0)

/-! ## When a core issues -/

/-- Whether clocks run: the device is not dead and the reference is there (R379, R459). -/
def alive (s : State) : Bool := !s.obs.fatal && s.clock.ref25

/-- Whether the array clock of the bay a core runs on is stopped (R336). -/
def bayStopped (s : State) (n : Nat) : Bool := s.board.bayStop.elem (bayOf s n)

/-- The context and the state of a logical core that is at work: its context runs, it holds a
program that has not ended, it is resident and its clock runs. -/
def coreAtWork (s : State) (n : Nat) : Option (Nat × Core) :=
  match runningOn s n with
  | none => none
  | some k =>
    let c := coreOf s k n
    if alive s && decide (n < 320) && c.active && (residentPhys s n).isSome && !bayStopped s n then some (k, c) else none

/-- The core whose started instructions of an engine go on: stream and sync instructions run to completion while
the other half of a shadowed pair is resident (R22, R366). -/
def coreInFlight (s : State) (n : Nat) (e : Engine) : Option (Nat × Core) :=
  match runningOn s n with
  | some k =>
    let c := coreOf s k n
    if (e = .stream ∨ e = .sync) ∧ alive s = true ∧ n < 320 ∧ c.active = true then some (k, c) else coreAtWork s n
  | none => none

/-- The core of `coreAtWork` whose sequencer may issue: not ended, paused, halted, faulted or being
preempted, and not held at a checkpoint STEP (R392). -/
def coreIssues (s : State) (n : Nat) : Option (Nat × Core) :=
  match coreAtWork s n with
  | none => none
  | some (k, c) =>
    if c.ended || c.paused || c.halted || c.faulted || c.held == some .stepHold || (partSt s.place (partOf s.place n)).preempting then none
    else some (k, c)

end Sys2Proof.Machine
end

