-- ==== Sys2Proof/Machine/Frame.lean ====
section
/-! DEFINITION. What the network dies put on a lane (R258, R261, R263 to R266, R270, R276, R278): the bytes of
Furlong packets, of HELLO and SACK payloads, of RoCEv2 packets and PTP messages, and the Ethernet, IP and UDP
layers around them. The layouts of IP, UDP, RoCEv2 and PTP are those of the standards the rules name. -/

namespace Sys2Proof.Machine

/-! ## Furlong packets (R264 to R266) -/

/-- Bytes 0x00 to 0x3B of a header, in network byte order. -/
def hdrBytes (h : FHdr) : List Byte :=
  beBytes 1 (h.ver * 16 + h.opc) ++ beBytes 1 (b1 h.retrans * 128 + b1 h.first * 64 + b1 h.last * 32)
    ++ beBytes 2 h.length ++ beBytes 4 (h.srcNode * 4096 + h.srcCore) ++ beBytes 4 (h.dstNode * 4096 + h.dstCore)
    ++ beBytes 4 h.jobId ++ beBytes 2 h.epoch ++ beBytes 1 h.path ++ beBytes 1 h.cls ++ beBytes 4 h.psn
    ++ beBytes 8 h.origin ++ beBytes 4 h.key ++ beBytes 2 h.keyGen ++ beBytes 6 h.offset ++ beBytes 4 h.opId
    ++ beBytes 8 h.opInfo ++ beBytes 4 h.opAux

/-- The HCRC of a header. -/
def hcrcOf (h : FHdr) : BitVec 32 := crc32c (hdrBytes h)

/-- The BCRC of a payload and its poison word, which the trailer holds in network byte order like the header. -/
def bcrcOf (pay : List Byte) (poi : BitVec 64) : BitVec 32 := crc32c (pay ++ beBytes 8 poi.toNat)

/-- The bytes of a packet: header, payload and trailer. -/
def packetBytes (k : Packet) : List Byte :=
  hdrBytes k.hdr ++ beBytes 4 k.hdr.hcrc.toNat ++ k.payload ++ beBytes 8 k.poison.toNat ++ beBytes 4 k.bcrc.toNat

/-- The field of `n` bytes at an offset of a payload. -/
def field (bs : List Byte) (i n : Nat) : Nat := leNat ((bs.drop i).take n)

/-- The payload of a HELLO (R263). -/
def helloBytes (x : Hello) : List Byte :=
  leBytes 1 x.verMajor ++ leBytes 1 x.verMinor ++ leBytes 1 (b1 x.reply) ++ leBytes 1 x.paths ++ leBytes 4 x.features.toNat
    ++ p4 x.incarnation ++ p4 x.node ++ leBytes 2 x.mtu ++ List.replicate 14 0

/-- A HELLO payload read. -/
def readHello (bs : List Byte) : Hello :=
  ⟨field bs 0 1, field bs 1 1, (field bs 2 1).testBit 0, field bs 3 1, BitVec.ofNat 32 (field bs 4 4), field bs 8 4,
    field bs 12 4 % 0x10_0000, field bs 16 2⟩

/-- The payload of a SACK (R270). -/
def sackBytes (a : Sack) : List Byte :=
  p4 a.basePsn ++ p4 0 ++ leBytes 64 a.sackMap.toNat ++ leBytes 64 a.nakMap.toNat ++ p8 a.echoTime ++ p4 a.ceCount
    ++ p4 a.ackedCount ++ p4 a.statusPsn ++ leBytes 1 a.status ++ List.replicate 3 0

/-- A SACK read: CUM_PSN from the header, the rest from the payload. -/
def readSack (cum : Nat) (bs : List Byte) : Sack :=
  ⟨cum, field bs 0 4, BitVec.ofNat 512 (field bs 8 64), BitVec.ofNat 512 (field bs 72 64), field bs 136 8, field bs 144 4,
    field bs 148 4, field bs 152 4, field bs 156 1⟩

/-! ## RoCEv2 packets (R276) -/

/-- The opcode of the base transport header. -/
def roceOpcode (k : RocePkt) : Nat :=
  match k.kind with
  | .send => if k.last = false then (if k.first then 0 else 1) else (if k.first then 4 else 2) + b1 k.imm.isSome
  | .write => if k.last = false then (if k.first then 6 else 7) else if k.first then 10 else 8
  | .readReq => 12
  | .readResp => if k.last = false then (if k.first then 13 else 14) else if k.first then 16 else 15
  | .ack | .nak => 17
  | .cnp => 0x81

/-- The base transport header from its third byte on, less the byte the ICRC masks. -/
def bthTail (k : RocePkt) : List Byte :=
  beBytes 3 k.qp ++ [if k.kind = .send ∨ k.kind = .write ∨ k.kind = .readReq then 0x80 else 0] ++ beBytes 3 k.psn

/-- The extended headers and the payload, padded to 4 bytes. -/
def roceRest (k : RocePkt) : List Byte :=
  (if k.kind = .readReq ∨ (k.kind = .write ∧ k.first = true) then beBytes 8 k.va ++ beBytes 4 k.rkey ++ beBytes 4 k.len else [])
    ++ (if k.kind = .ack ∨ k.kind = .nak ∨ (k.kind = .readResp ∧ (k.first = true ∨ k.last = true)) then
        beBytes 1 (if k.kind = .nak then k.len else 0x1F) ++ beBytes 3 0 else [])
    ++ (match k.imm with | some v => beBytes 4 v | none => [])
    ++ k.data ++ List.replicate ((4 - k.data.length % 4) % 4) 0

/-- A RoCEv2 packet between UDP and its ICRC; `mask` is the byte the ICRC takes as ones. -/
def roceHead (k : RocePkt) (mask : Byte) : List Byte :=
  beBytes 1 (roceOpcode k) ++ beBytes 1 (0x40 + (4 - k.data.length % 4) % 4 * 16) ++ [0xFF, 0xFF, mask] ++ bthTail k ++ roceRest k

/-- The UDP port of RoCEv2. -/
abbrev rocePort : Nat := 4791

/-- The ICRC: over the packet from its IP header on, with what may change on the way taken as ones. -/
def icrcOf (k : RocePkt) : BitVec 32 :=
  let pay := roceHead k 0xFF
  let n := pay.length + 12
  let ip := if k.v6 then [0x6F, 0xFF, 0xFF, 0xFF] ++ beBytes 2 n ++ [17, 0xFF] ++ beBytes 16 k.src ++ beBytes 16 k.dst
    else [0x45, 0xFF] ++ beBytes 2 (n + 20) ++ [0, 0, 0x40, 0, 0xFF, 17, 0xFF, 0xFF] ++ beBytes 4 k.src ++ beBytes 4 k.dst
  crc32 (List.replicate 8 0xFF ++ ip ++ beBytes 2 k.sport ++ beBytes 2 rocePort ++ beBytes 2 n ++ [0xFF, 0xFF] ++ pay)

/-- The bytes of a RoCEv2 packet above UDP. -/
def roceBytes (k : RocePkt) : List Byte :=
  roceHead k (if k.kind = .cnp then 0x40 else 0) ++ leBytes 4 k.icrc.toNat

/-! ## PTP messages (R278) -/

/-- The type, sequence number, flags and body of a PTP message. -/
def ptpParts (m : PtpMsg) : Nat × Nat × Nat × List Byte :=
  let stamp := fun (t : Nat) => beBytes 6 (t / 1000000000) ++ beBytes 4 (t % 1000000000)
  match m with
  | .sync q two t => (0, q, b1 two * 0x200, stamp t)
  | .followUp q t => (8, q, 0, stamp t)
  | .delayReq _ q => (1, q, 0, stamp 0)
  | .delayResp i q t => (9, q, 0, stamp t ++ beBytes 10 i)
  | .pdelayReq _ q => (2, q, 0, stamp 0 ++ beBytes 10 0)
  | .pdelayResp i q two t => (3, q, b1 two * 0x200, stamp t ++ beBytes 10 i)
  | .pdelayFollowUp i q t => (10, q, 0, stamp t ++ beBytes 10 i)

/-- The bytes of a PTP message of version 2.1 from a port identity. -/
def ptpBytes (own : Nat) (m : PtpMsg) : List Byte :=
  let p := ptpParts m
  beBytes 1 p.1 ++ [0x12] ++ beBytes 2 (34 + p.2.2.2.length) ++ [0, 0] ++ beBytes 2 p.2.2.1 ++ List.replicate 12 0
    ++ beBytes 10 own ++ beBytes 2 p.2.1 ++ [0, 0] ++ p.2.2.2

/-- Whether a PTP message is an event message, stamped at the MAC. -/
def ptpEvent (m : PtpMsg) : Bool := decide ((ptpParts m).1 < 8)

/-- Whether a PTP message belongs to the peer delay mechanism. -/
def ptpPeer (m : PtpMsg) : Bool := [2, 3, 10].elem (ptpParts m).1

/-- The port identity of the device's clock, from the MAC address of its port. -/
def clockId (mac : Nat) : Nat := (mac / 2 ^ 24 * 2 ^ 40 + 0xFFFE * 2 ^ 24 + mac % 2 ^ 24) * 2 ^ 16 + 1

/-! ## Frames (R258, R264) -/

/-- What a frame carries above UDP, or above Ethernet. -/
def bodyBytes (f : Frame) : List Byte :=
  match f.body with
  | .furlong k => packetBytes k
  | .roce k => roceBytes k
  | .ptp m => ptpBytes (clockId f.src) m

/-- The Internet checksum of bytes. -/
def inetSum (bs : List Byte) : Nat :=
  let fold := fun (n : Nat) => n % 0x1_0000 + n / 0x1_0000
  let t := (bs.zipIdx.map (fun b => b.1.toNat * (if b.2 % 2 = 0 then 256 else 1))).sum
  0xFFFF - fold (fold (fold t))

/-- The UDP header of a frame. -/
def udpBytes (f : Frame) : List Byte :=
  beBytes 2 f.sport ++ beBytes 2 f.dport ++ beBytes 2 ((bodyBytes f).length + 8) ++ beBytes 2 f.sum

/-- The IP header of a frame: IPv4 with DF and without options, IPv6 without extension headers, ECT(0). -/
def ipBytes (f : Frame) : List Byte :=
  let n := (bodyBytes f).length + 8
  if f.net = 6 then
    beBytes 4 (0x6000_0000 + (f.dscp * 4 + 2) * 2 ^ 20) ++ beBytes 2 n ++ [17, 64] ++ beBytes 16 f.ipSrc ++ beBytes 16 f.ipDst
  else
    let a := [0x45] ++ beBytes 1 (f.dscp * 4 + 2) ++ beBytes 2 (n + 20) ++ [0, 0, 0x40, 0, 64, 17]
    let b := beBytes 4 f.ipSrc ++ beBytes 4 f.ipDst
    a ++ beBytes 2 (inetSum (a ++ b)) ++ b

/-- The checksum a frame's UDP header carries: 0 over IPv4, computed over IPv6 (R264). -/
def udpSum (f : Frame) : Nat :=
  if f.net ≠ 6 then 0
  else
    let n := (bodyBytes f).length + 8
    let v := inetSum (beBytes 16 f.ipSrc ++ beBytes 16 f.ipDst ++ beBytes 4 n ++ [0, 0, 0, 17] ++ udpBytes { f with sum := 0 } ++ bodyBytes f)
    if v = 0 then 0xFFFF else v

/-- The EtherType of a frame. -/
def etherType (f : Frame) : Nat := if f.net = 6 then 0x86DD else if f.net = 4 then 0x0800 else 0x88F7

/-- The bytes of a frame without its FCS. -/
def frameBody (f : Frame) : List Byte :=
  let up := if f.net = 0 then bodyBytes f else ipBytes f ++ udpBytes f ++ bodyBytes f
  beBytes 6 f.dst ++ beBytes 6 f.src ++ (match f.tag with | some v => [0x81, 0] ++ beBytes 2 v | none => [])
    ++ beBytes 2 (etherType f) ++ padTo (max 46 up.length) up

/-- The bytes of a frame, FCS included. -/
def frameBytes (f : Frame) : List Byte := frameBody f ++ leBytes 4 (crc32 (frameBody f)).toNat

/-! ## The device's addresses (R261) -/

/-- The device's node id, none before NET_IDENTITY (R261). -/
def ownNode (s : State) : Option Nat := s.net.identity.map (fun i => i.node)

/-- The ports that are up, rising (R262). -/
def upPorts (s : State) : List Nat := (s.net.ports.filter (fun e => e.2.up)).map (fun e => e.1)

/-- The device's MAC address on a port (R261). -/
def portMac (i : NetIdentity) (port : Nat) : Nat := (if i.macBase = 0 then Config.macBase else i.macBase) + port

/-- The paths a session is offered (R261). -/
def pathsOf (i : NetIdentity) : Nat := if i.paths = 0 then 64 else i.paths

/-- The UDP ports of path `p` and of Furlong (R261, R262). -/
def pathSport (i : NetIdentity) (p : Nat) : Nat := (if i.sportBase = 0 then 49152 else i.sportBase) + p
def furlongPort (i : NetIdentity) : Nat := if i.udpPort = 0 then 47380 else i.udpPort

/-- The DSCP of a credit class; of RoCEv2 for 6 and of PTP for 7. -/
def dscpOf (i : NetIdentity) (cls : Nat) : Nat := (nth i.dscp cls 0).toNat

/-- The address of a node in some job's table (R260); addresses below 2^32 are IPv4. -/
def nodeAddr (s : State) (node : Nat) : Option Nat :=
  s.net.tables.findSome? (fun t => (t.2.find? (fun e => e.1 == node)).map (fun e => e.2))

/-- Whether an address is an IPv6 one. -/
def isV6 (a : Nat) : Bool := decide (0x1_0000_0000 ≤ a)

/-- The next hop to an address: itself inside the prefix of its family, the gateway outside, none where
there is no gateway (R261). -/
def nextHop (i : NetIdentity) (a : Nat) : Option Nat :=
  if isV6 a then
    if a / 2 ^ (128 - i.v6Prefix) = i.v6Addr / 2 ^ (128 - i.v6Prefix) then some a
    else if i.v6Gateway = 0 then none else some i.v6Gateway
  else if a / 2 ^ (32 - i.v4Prefix) = i.v4Addr / 2 ^ (32 - i.v4Prefix) then some a
  else if i.v4Gateway = 0 then none else some i.v4Gateway

/-- The key of a resolved address on a port. -/
def arpKey (port a : Nat) : Nat := a * 128 + port

/-- The port a path leaves through. -/
def pathPort (s : State) (path : Nat) : Option Nat :=
  let l := upPorts s
  l[path % max l.length 1]?

/-- The MAC of an address asked for on a port (R261). -/
def askMac (s : State) (i : NetIdentity) (port a : Nat) : State :=
  let ask : ArpMsg := .request (isV6 a) a (if isV6 a then i.v6Addr else i.v4Addr) (portMac i port)
  { s with net := { s.net with arpTx := s.net.arpTx ++ [(port, ask)] } }

/-- Whether a packet can leave for an address by a path: by a port, to a next hop with a resolved MAC address. -/
inductive Way where
  | inside
  | go (port addr mac : Nat)
  | ask (port hop : Nat)
  | noRoute
  | noPort
  deriving DecidableEq, Repr

/-- The way to an address by a port. -/
def wayToAddr (s : State) (i : NetIdentity) (port a : Nat) : Way :=
  match nextHop i a with
  | none => .noRoute
  | some h =>
    match s.net.arpTable.find? (fun e => e.1 == arpKey port h) with
    | some e => .go port a e.2
    | none => .ask port h

/-- The way to a peer by a path: inside the device for the own node (R260). -/
def wayTo (s : State) (peer path : Nat) : Way :=
  if ownNode s = some peer then .inside
  else match s.net.identity, pathPort s path with
    | some i, some p =>
      match nodeAddr s peer with
      | none => .noRoute
      | some a => wayToAddr s i p a
    | _, _ => .noPort

/-- A frame of the device to an address, its MAC and the next hop's known. -/
def ipFrame (s : State) (i : NetIdentity) (port a mac cls sport dport : Nat) (b : Body) : Frame :=
  let f : Frame := { time := s.clock.ns, port := port, src := portMac i port, dst := mac
                     tag := if i.flags.getLsbD 2 then some i.vlan.toNat else none
                     net := if isV6 a then 6 else 4, dscp := dscpOf i cls
                     ipSrc := if isV6 a then i.v6Addr else i.v4Addr, ipDst := a, sport := sport, dport := dport, sum := 0, body := b }
  { f with sum := udpSum f }

/-- A frame put on the wire. -/
def emitFrame (s : State) (f : Frame) : State := { s with net := { s.net with tx := s.net.tx ++ [f] } }

end Sys2Proof.Machine
end

