-- ==== Sys2Proof/Machine/Wire.lean ====
section
/-! DEFINITION. Both ends of a Furlong session (R259 to R275): packets without a PSN, cutting an operation into
blocks, sessions and their operations, the checks a receiver makes, and what an operation's end does to the
instruction that made it. -/

namespace Sys2Proof.Machine

/-! ## Opcodes and classes -/

/-- The opcodes of R267. -/
abbrev opWrite : Nat := 0
abbrev opReadReq : Nat := 1
abbrev opReadResp : Nat := 2
abbrev opAtomic : Nat := 3
abbrev opSend : Nat := 4
abbrev opColl : Nat := 5
abbrev opSack : Nat := 6
abbrev opHello : Nat := 7

/-- Credit classes in the order of R90. -/
abbrev clDemand : Nat := 0
abbrev clColl : Nat := 1
abbrev clPrefetch : Nat := 2
abbrev clMirror : Nat := 3
abbrev clSpar : Nat := 4
abbrev clService : Nat := 5

/-! ## The device as a node -/

/-- The node id where there is one, 0 otherwise (R220, R226). -/
def ownNode0 (s : State) : Nat := (ownNode s).getD 0

/-- The context of a job on this device. -/
def jobCtx (s : State) (job : Nat) : Option Nat :=
  ctxNums.find? (fun k => (ctxOf s k).st != .free && (ctxOf s k).jobId == job)

/-- Whether a node is in a job's node table (R260). -/
def nodeKnown (s : State) (job node : Nat) : Bool := (look s.net.tables [] job).any (fun e => e.1 == node)

/-- A session. -/
def sessOf (s : State) (peer : Nat) : Session := look s.net.sessions {} peer

/-- A session replaced. -/
def setSess (s : State) (peer : Nat) (x : Session) : State :=
  { s with net := { s.net with sessions := put s.net.sessions peer x } }

/-- Lanes of a port in an octet's mode (R256). -/
def lanesOf (mode : Nat) : Nat := nth [8, 4, 2, 1] mode 8

/-- The ports the octet modes give the device, rising; an octet not configured is in mode 1×8. -/
def portList (s : State) : List Nat :=
  (List.range 128).filter (fun p => p % 8 % lanesOf (look s.net.octets 0 (p / 8)) == 0)

/-- The HELLO this device sends (R263). -/
def ownHello (s : State) (reply : Bool) : Hello :=
  { verMajor := 1, verMinor := 0, reply := reply
    paths := match s.net.identity with | some i => pathsOf i | none => 64
    features := 31, incarnation := s.net.incarnation, node := ownNode0 s
    mtu := ((portList s).map (fun p => (look s.net.ports {} p).mtu)).foldl min 9194 }

/-! ## Packets without a PSN (R263, R267, R270) -/

/-- A Furlong packet's frame by a port to an address. -/
def furlongFrame (s : State) (i : NetIdentity) (port a mac : Nat) (k : Packet) : Frame :=
  ipFrame s i port a mac k.hdr.cls (pathSport i k.hdr.path) (furlongPort i) (.furlong k)

/-- A SACK or HELLO of this device, of class SERVICE. -/
def ctlPacket (s : State) (opc peer path psn : Nat) (pay : List Byte) : Packet :=
  let h : FHdr := ⟨1, opc, false, true, true, pay.length, ownNode0 s, 0, peer, 0, 0, 0, path, clService, psn, s.clock.ns,
    0, 0, 0, 0, 0, 0, 0, false⟩
  { hdr := { h with hcrc := hcrcOf h }, payload := pay, poison := 0, bcrc := bcrcOf pay 0 }

/-- One sent by its path, none where it cannot leave: the MAC address of the next hop is asked for where it is
not known. -/
def sendCtl (s : State) (k : Packet) : Option State :=
  match s.net.identity, wayTo s k.hdr.dstNode k.hdr.path with
  | some i, .go p a mac => some (emitFrame s (furlongFrame s i p a mac k))
  | _, _ => none

/-- The MAC address of a peer's next hop asked for, where that is what a packet waits for. -/
def askFor (s : State) (peer path : Nat) : State :=
  match s.net.identity, wayTo s peer path with
  | some i, .ask p h => askMac s i p h
  | _, _ => s

/-- A HELLO sent to a peer. -/
def sendHello (s : State) (peer : Nat) (reply : Bool) : State :=
  (sendCtl s (ctlPacket s opHello peer 0 0 (helloBytes (ownHello s reply)))).getD (askFor s peer 0)

/-! ## Sending -/

/-- The flight number of an operation that no instruction waits for. -/
abbrev noFlight : Nat := 0x1_0000_0000

/-- That of a snapshot on its way into a mirror slot of the twin (R397). -/
abbrev mirrorFlight : Nat := 0x1_0000_0001

/-- The CONTEXT of what concerns no context (R380). -/
abbrev noCtx : Nat := 0xFF

/-- A block of an operation before it has a PSN. -/
structure Block where
  dstCore : Nat := 0
  key     : Nat := 0
  keyGen  : Nat := 0
  offset  : Nat := 0
  info    : Nat := 0
  aux     : Nat := 0
  payload : List Byte := []
  poison  : BitVec 64 := 0
  deriving DecidableEq, Repr

/-- Who sends an operation: the context (64 for firmware), its core and instruction, the opcode, the
class, the operation tag where the opcode fixes it, and the peer. -/
structure Sender where
  ctx    : Nat
  core   : Nat
  flight : Nat
  opc    : Nat
  cls    : Nat
  tag    : Option Nat := none
  peer   : Nat
  deriving DecidableEq, Repr

/-- The packet of block `i` of `n` (R265, R268); PATH, ORIGIN_TIME and HCRC are filled in when it is
sent. -/
def mkPacket (s : State) (o : Sender) (opId psn i n : Nat) (b : Block) : Packet :=
  let x := ctxOf s o.ctx
  { hdr := ⟨1, o.opc, false, i == 0, i + 1 == n, b.payload.length, ownNode0 s, o.core, o.peer, b.dstCore,
      if o.ctx < 64 then x.jobId else 0, if o.ctx < 64 then x.epoch else 0, 0, o.cls, psn, 0,
      b.key, b.keyGen, b.offset, opId, b.info, b.aux, 0, false⟩
    payload := b.payload, poison := b.poison, bcrc := bcrcOf b.payload b.poison }

/-- The opening of a session that an operation waits for (R263); one with the own node is open. -/
def openSess (s : State) (peer : Nat) : State :=
  let x := sessOf s peer
  if x.isOpen ∨ x.opening then s
  else if ownNode s = some peer then setSess s peer { x with isOpen := true, known := true, paths := 1 }
  else
    let s1 := setSess s peer { x with opening := true, helloAt := s.clock.ns, firstAt := s.clock.ns }
    if (ownNode s).isSome then sendHello s1 peer false else s1

/-- The firmware as a sender of operations to a peer (R276, R348, R396, R397): no context's, with a mark by which
its service knows them. -/
def firmware (peer cls mark flight : Nat) (opc : Nat) (tag : Option Nat) : Sender :=
  { ctx := 64, core := mark, flight := flight, opc := opc, cls := cls, tag := tag, peer := peer }

/-- An operation put in line on its session, one packet per block. -/
def enqueue (s : State) (o : Sender) (bs : List Block) : State :=
  let s1 := openSess s o.peer
  let x := sessOf s1 o.peer
  let opId := match o.tag with | some t => t | none => s1.net.nextOp
  let pk := bs.zipIdx.map (fun b => mkPacket s1 o opId ((x.sendPsn + b.2) % 0x1_0000_0000) b.2 bs.length b.1)
  let op : NetOp := ⟨opId, o.ctx, o.core, o.flight, o.opc, pk.map (fun p => p.hdr.psn)⟩
  let s2 := setSess s1 o.peer { x with
    queue := x.queue ++ pk, sendPsn := (x.sendPsn + bs.length) % 0x1_0000_0000, ops := x.ops ++ [op] }
  { s2 with net := { s2.net with nextOp := s2.net.nextOp + 1 } }

/-- A range cut at the 4 KiB boundaries of its target (R266). -/
def cut4k (fuel off n : Nat) : List (Nat × Nat) :=
  match fuel with
  | 0 => []
  | f + 1 =>
    let r := 4096 - off % 4096
    if n = 0 then [] else if n ≤ r then [(off, n)] else (off, r) :: cut4k f (off + r) (n - r)

/-- The poison word of a block: bit i for the i-th grain whose bytes it carries. -/
def poisonWord (off n : Nat) (bad : Nat → Bool) : BitVec 64 :=
  BitVec.ofNat 64 (((List.range (if n = 0 then 0 else (off + n - 1) / 64 - off / 64 + 1)).map
    (fun i => if bad (off / 64 + i) then 2 ^ i else 0)).sum)

/-- Bytes cut into the blocks of an operation; `bad` tells the poisoned grains by offset / 64. -/
def dataBlocks (b : Block) (off : Nat) (bs : List Byte) (bad : Nat → Bool) : List Block :=
  (cut4k (bs.length / 4096 + 2) off bs.length).map (fun c =>
    { b with offset := c.1, payload := (bs.drop (c.1 - off)).take c.2, poison := poisonWord c.1 c.2 bad })

/-! ## The end of an operation -/

/-- The flight of a core changed, in whichever engine it is. -/
def setFlight (c : Core) (id : Nat) (f : Flight → Flight) : Core :=
  { c with flights := mapTbl c.flights (fun _ l => l.map (fun x => if x.id = id then f x else x)) }

/-- An instruction that waited for the network made ready to complete (R55). -/
def flightDone (s : State) (k n id status : Nat) : State :=
  setCore s k n (setFlight (coreOf s k n) id (fun f =>
    { f with ready := true, status := if status = 0 then f.status else status }))

/-- A mirror of context `k` that did not get through; a heartbeat of the twin begins it again. -/
def mirrorLost (s : State) (k : Nat) : State :=
  setCtx s k { ctxOf s k with twin := (ctxOf s k).twin.map (fun t => match t.filling with
    | some (_, false) => { t with filling := none }
    | _ => t) }

/-- The end of an operation of a session: its instruction completes, with status FAULTED where the
target answered with a status (R273). The packets of a collective complete nothing, but one answered so ends it. -/
def opDone (s : State) (o : NetOp) (faulted : Bool) : State :=
  if 64 ≤ o.ctx then (if faulted ∧ o.flight = mirrorFlight then mirrorLost s o.core else s)
  else if o.opc = opColl then
    (if faulted then
      let x := ctxOf s o.ctx
      setCtx (flightDone s o.ctx o.core o.flight 5) o.ctx { x with colls := x.colls.filter (fun c => !(c.core == o.core && c.flight == o.flight)) }
    else s)
  else flightDone s o.ctx o.core o.flight (if faulted then 5 else 0)

/-- `a` is before `b` in 32-bit sequence order (R268). -/
def psnBefore (a b : Nat) : Bool :=
  let d := (b + 0x1_0000_0000 - a % 0x1_0000_0000) % 0x1_0000_0000
  decide (0 < d) && decide (d < 0x8000_0000)

/-- Whether a SACK reports a PSN received and applied. -/
def sackHas (a : Sack) (p : Nat) : Bool :=
  p == a.cumPsn || psnBefore p a.cumPsn ||
    (let i := (p + 0x1_0000_0000 - a.basePsn) % 0x1_0000_0000
     decide (i < 512) && a.sackMap.getLsbD i)

/-- Whether a SACK reports a PSN that failed its BCRC. -/
def nakHas (a : Sack) (p : Nat) : Bool :=
  let i := (p + 0x1_0000_0000 - a.basePsn) % 0x1_0000_0000
  decide (i < 512) && a.nakMap.getLsbD i

/-! ## Receiving -/

/-- The drop counters of R428. -/
abbrev cHcrc : Nat := 0x60
abbrev cBcrc : Nat := 0x61
abbrev cDup : Nat := 0x62
abbrev cStale : Nat := 0x63
abbrev cLife : Nat := 0x64
abbrev cAhead : Nat := 0x65

/-- A packet counted for its session and, where its job has one here, its context. -/
def countPkt (s : State) (h : FHdr) (number n : Nat) : State :=
  let s1 := bump s 4 h.srcNode number n
  match jobCtx s h.jobId with
  | some k => bump s1 1 k number n
  | none => s1

/-- Whether header and block are as R265 to R267 say: otherwise HCRC_DROP. -/
def hdrOk (k : Packet) : Bool :=
  hcrcOf k.hdr == k.hdr.hcrc && (k.hdr.ver == 1 || k.hdr.opc == opHello) && decide (k.hdr.opc ≤ 7) && k.hdr.length == k.payload.length
    && (match k.hdr.opc with
        | 0 => decide (1 ≤ k.hdr.length) && decide (k.hdr.offset % 4096 + k.hdr.length ≤ 4096)
        | 1 => decide (k.hdr.length = 0)
        | 2 => decide (1 ≤ k.hdr.length) && decide (k.hdr.length ≤ 4096)
        | 3 => decide (k.hdr.length = 16)
        | 4 => decide (8 ≤ k.hdr.length) && decide (k.hdr.length ≤ 256) && decide (k.hdr.length % 8 = 0)
        | 6 => decide (k.hdr.length = 160)
        | 7 => decide (k.hdr.length = 32)
        | _ => decide (1 ≤ k.hdr.length) && decide (k.hdr.length ≤ 4096))

/-- Whether a packet's age is outside the lifetime rule of R274. -/
def tooOld (s : State) (h : FHdr) : Bool :=
  decide (h.origin + 4000000 < s.clock.ns) || decide (s.clock.ns + 100000 < h.origin)

/-- The PSNs received past the cumulative one, taken in. -/
def advanceCum (fuel cum : Nat) (set : List Nat) : Nat × List Nat :=
  match fuel with
  | 0 => (cum, set)
  | f + 1 => if set.elem cum then advanceCum f ((cum + 1) % 0x1_0000_0000) (delNat set cum) else (cum, set)

/-- The bitmap of a list of PSNs from a base. -/
def psnMap (base : Nat) (l : List Nat) : BitVec 512 :=
  BitVec.ofNat 512 ((l.filterMap (fun p =>
    let i := (p + 0x1_0000_0000 - base) % 0x1_0000_0000
    if i < 512 then some (2 ^ i) else none)).sum)

/-- The SACK a session owes (R270). -/
def sackOf (x : Session) : Sack :=
  ⟨(x.recvCum + 0xFFFF_FFFF) % 0x1_0000_0000, x.recvCum, psnMap x.recvCum x.recvSet, psnMap x.recvCum x.nakSet,
    x.echo, x.ceSince, x.sinceSack, x.statusPsn, x.status⟩

/-- A session whose SACK has gone. -/
def sackGone (x : Session) : Session :=
  { x with
    sinceSack := 0, ceSince := 0, firstUnacked := none, nakSet := [], status := 0, statusPsn := 0 }

/-- The SACK a session owes, sent; it stays owed where no packet can leave. Within the device what it reports is
taken in as the packet is sent. -/
def sendSack (s : State) (peer : Nat) : State :=
  let x := sessOf s peer
  let a := sackOf x
  match sendCtl s (ctlPacket s opSack peer 0 a.cumPsn (sackBytes a)) with
  | some s1 => setSess s1 peer (sackGone x)
  | none => askFor s peer 0

/-- Whether a session has taken in a PSN before. -/
def seenPsn (x : Session) (p : Nat) : Bool := psnBefore p x.recvCum || x.recvSet.elem p

/-- A packet taken in by its session: acknowledged with a status, or reported in the NAK bitmap. The
SACK goes out after 8 packets, and at once for an ATOMIC. -/
def ackPkt (s : State) (k : Packet) (ok : Bool) (status : Nat) : State :=
  let h := k.hdr
  let x := sessOf s h.srcNode
  let r := if ok ∧ psnBefore h.psn x.recvCum = false then
      advanceCum (x.recvSet.length + 1) x.recvCum (addNat x.recvSet h.psn)
    else (x.recvCum, x.recvSet)
  let y := { x with
    recvCum := r.1, recvSet := r.2
    nakSet := if ok then delNat x.nakSet h.psn else addNat x.nakSet h.psn
    sinceSack := x.sinceSack + 1
    ceSince := x.ceSince + b1 h.ce
    firstUnacked := match x.firstUnacked with | some t => some t | none => some s.clock.ns
    echo := if ok ∧ h.retrans = false ∧ seenPsn x h.psn = false then max x.echo h.origin else x.echo
    status := if status = 0 then x.status else status
    statusPsn := if status = 0 then x.statusPsn else h.psn }
  let s1 := setSess s h.srcNode y
  if 8 ≤ y.sinceSack ∨ h.opc = opAtomic then sendSack s1 h.srcNode else s1

/-- A signed difference of 16-bit generations (R274). -/
def gen16 (m c : Nat) : Int :=
  let d := (m + 0x1_0000 - c % 0x1_0000) % 0x1_0000
  if d < 0x8000 then d else (d : Int) - 0x1_0000

/-- What R274 says of a generation: accepted, stale, or invalid. -/
inductive GenVerdict where
  | ok | stale | invalid
  deriving DecidableEq, Repr

/-- R274 for an identifier: whether it is bound, whether it ever was, its generation, the message's. -/
def judgeGen (bound ever : Bool) (cur msg : Nat) : GenVerdict :=
  if ever = false then .invalid
  else
    let d := gen16 msg cur
    if d = 0 then (if bound then .ok else .stale) else if d < 0 then .stale else .invalid

/-- The answer of a target to a packet that passed the checks common to all: the state, and
STATUS (0 none), a stale drop, a block that crosses a boundary of 4 KiB (R266), or not taken in yet, so that the
sender sends it again. -/
inductive Landed where
  | done (s : State) (status : Nat)
  | stale
  | crossing
  | later

/-- Received payload bytes counted for a port that is up: which one the packet came by is no operand of
the command. -/
def countPort (s : State) (n : Nat) : State :=
  let l := upPorts s
  if l = [] then s else drawn (bump s 6 (nth l (freeVal s 7 % l.length) 0) 0x68 n)

/-- What a landed packet leaves: its bytes counted and its acknowledgement. -/
def afterLand (s : State) (k : Packet) (l : Landed) : State :=
  let h := k.hdr
  match l with
  | .done s1 st => ackPkt (countPort (countPkt s1 h 0x68 h.length) h.length) k true st
  | .stale => ackPkt (countPkt s h cStale 1) k true 0
  | .crossing => countPkt s h cHcrc 1
  | .later => s

/-- The receipt of a packet of opcode `opc` (R265 to R268, R273, R274): `land` acts on a packet that belongs to
a context of the device, or with none to a firmware session (JOB_ID 0). A packet of another opcode, for another
node or without a session changes nothing. -/
def receive (s : State) (k : Packet) (opc : Nat) (land : Option Nat → Landed) : State :=
  let h := k.hdr
  if hdrOk k = false then countPkt s h cHcrc 1
  else if ownNode s ≠ some h.dstNode ∨ (sessOf s h.srcNode).isOpen = false ∨ h.opc ≠ opc then s
  else if tooOld s h then countPkt s h cLife 1
  else if bcrcOf k.payload k.poison ≠ k.bcrc then ackPkt (countPkt s h cBcrc 1) k false 0
  else if seenPsn (sessOf s h.srcNode) h.psn then ackPkt (countPkt s h cDup 1) k true 0
  else if h.jobId = 0 then afterLand s k (land none)
  else match jobCtx s h.jobId with
    | none =>
      if s.net.ended.any (fun e => e.1 == h.jobId && decide (s.clock.ns ≤ e.2 + 4000000)) then ackPkt (countPkt s h cStale 1) k true 0
      else ackPkt (countPkt s h 0x68 h.length) k true 1
    | some c =>
      let d := gen16 h.epoch (ctxOf s c).epoch
      if d < 0 then ackPkt (countPkt s h cStale 1) k true 0
      else if 0 < d then countPkt s h cAhead 1
      else afterLand s k (land (some c))

/-- A packet of an opcode that only contexts take: STATUS NO_CONTEXT in a firmware session (R273). -/
def ofCtx (s : State) (land : Nat → Landed) : Option Nat → Landed
  | some k => land k
  | none => .done s 1

end Sys2Proof.Machine
end

