-- ==== Sys2Proof/Machine/Barrier.lean ====
section
/-! DEFINITION. What a truss unit does: arrivals, waits, completion, release limits and forwards
(R216 to R232, R234). -/

namespace Sys2Proof.Machine

/-! ## One truss -/

/-- The events a truss operation can raise. -/
inductive TrErr where
  | overflow | underflow | notEnrolled
  deriving DecidableEq, Repr

/-- The event code of R236. -/
def trCode : TrErr → Nat
  | .overflow => 0x0302
  | .underflow => 0x0303
  | .notEnrolled => 0x0304

/-- A truss after an operation: its state, the waiters released, and the generations completed. -/
structure TrOut where
  t    : Truss
  free : List Waiter := []
  done : List Nat := []
  deriving DecidableEq, Repr

/-- The d of R223 for an operation: 0 with NOPHASE. -/
def phaseD (t : Truss) (nophase : Bool) (phase : Nat) : Int := if nophase then 0 else gen16 phase t.gen

/-- An arrival recorded for the current generation or as pending (R223, R224, R226). -/
def record (t : Truss) (who : Member) (next : Bool) : Except TrErr Truss :=
  if t.enrolled then
    if t.members.elem who = false then .error .notEnrolled
    else if next then
      (if t.pendingM.elem who then .error .overflow else .ok { t with pendingM := t.pendingM ++ [who] })
    else if t.arrivedM.elem who then .error .overflow
    else .ok { t with arrivedM := t.arrivedM ++ [who] }
  else if next then
    (if t.n ≤ t.pending then .error .overflow else .ok { t with pending := t.pending + 1 })
  else .ok { t with arrived := t.arrived + 1 }

/-- Whether the current generation is complete (R225). -/
def full (t : Truss) : Bool :=
  if t.enrolled then decide (t.members.length ≤ t.arrivedM.length) else decide (t.n ≤ t.arrived)

/-- Credits given to the oldest waiters, one each (R230). -/
def serve (fuel : Nat) (o : TrOut) : TrOut :=
  match fuel with
  | 0 => o
  | f + 1 =>
    match o.t.waiters with
    | w :: r => if 0 < o.t.credits then serve f { o with t := { o.t with waiters := r, credits := o.t.credits - 1 }, free := o.free ++ [w] } else o
    | [] => o

/-- The completions that follow an arrival (R225, R230): at most two, since the pending set is empty
after the first. -/
def complete (fuel : Nat) (o : TrOut) : Except TrErr TrOut :=
  match fuel with
  | 0 => .ok o
  | f + 1 =>
    let t := o.t
    if full t = false then .ok o
    else if t.limit ≠ 0 ∧ 255 < t.credits + t.limit then .error .overflow
    else
      let t1 : Truss := { t with
        gen := (t.gen + 1) % 0x1_0000
        arrived := t.pending, pending := 0, arrivedM := t.pendingM, pendingM := [] }
      let o1 : TrOut :=
        if t.limit = 0 then
          { o with
            t := { t1 with waiters := t.waiters.filter (fun w => w.gen != t.gen) }
            free := o.free ++ t.waiters.filter (fun w => w.gen == t.gen), done := o.done ++ [t.gen] }
        else serve (t.waiters.length + 1)
          { o with t := { t1 with credits := t.credits + t.limit }, done := o.done ++ [t.gen] }
      complete f o1

/-- An arrival (R223 to R226). -/
def arriveT (t : Truss) (who : Member) (nophase : Bool) (phase : Nat) : Except TrErr TrOut := do
  let d := phaseD t nophase phase
  if d ≤ -1 then .error .underflow
  else if 2 ≤ d then .error .overflow
  else
    let t1 ← record t who (d == 1)
    complete 2 { t := t1 }

/-- A wait (R223, R224, R230). -/
def waitT (t : Truss) (w : Waiter) (nophase : Bool) (phase : Nat) : Except TrErr TrOut :=
  if t.limit ≠ 0 then .ok (serve (t.waiters.length + 1) { t := { t with waiters := t.waiters ++ [w] } })
  else
    let d := phaseD t nophase phase
    if d ≤ -2 then .error .underflow
    else if 2 ≤ d then .error .overflow
    else if d = -1 then .ok { t := t, free := [w] }
    else .ok { t := { t with waiters := t.waiters ++ [{ w with gen := (t.gen + d.toNat) % 0x1_0000 }] } }

/-- An arrival and a wait as one operation (R227): the wait is in place before the arrival counts. -/
def arwtT (t : Truss) (who : Member) (w : Waiter) (nophase : Bool) (phase : Nat) : Except TrErr TrOut := do
  let d := phaseD t nophase phase
  if d ≤ -1 then .error .underflow
  else if 2 ≤ d then .error .overflow
  else
    let o ← waitT t w nophase phase
    let t1 ← record o.t who (d == 1)
    complete 2 { o with t := t1 }

/-! ## Trusses of a context -/

/-- The truss with a virtual id in a context. -/
def trussOf (s : State) (k v : Nat) : Truss := look (ctxOf s k).trusses {} v

/-- A truss replaced. -/
def setTruss (s : State) (k v : Nat) (t : Truss) : State :=
  setCtx s k { ctxOf s k with trusses := put (ctxOf s k).trusses v t }

/-- An identity as the 4 bytes an event carries: a core, a node and core, or a VTID. -/
def whoCode : Member → Nat
  | .core n => n
  | .remote node n => node * 4096 + n
  | .truss _ v => v

/-- The unit of a truss event: the issuing core, or the truss unit. -/
def trUnit (who : Member) (t : Truss) : Nat :=
  match who with
  | .core n => unitCore n
  | _ => unitBase t.home

/-- The event of a refused truss operation (R236). -/
def trussEvent (s : State) (k v : Nat) (t : Truss) (who : Member) (phase : Nat) (e : TrErr) : State :=
  raise s (trCode e) clsJ k (trUnit who t)
    (p4 v ++ p4 t.gen ++ (if e = .notEnrolled then [] else p4 phase) ++ p4 (whoCode who))

/-- TRUSS_INVALID_ID (R218). -/
def trussInvalid (s : State) (k unit sender v bgen opc : Nat) : State :=
  raise s 0x0301 clsJ k unit (p4 sender ++ p4 v ++ p4 bgen ++ p4 opc)

/-- A released waiter: its instruction is ready to complete, and the time it was registered is
counted (R428). -/
def freeWaiter (k : Nat) (s : State) (w : Waiter) : State :=
  bump (flightDone s k w.lcore w.flight 0) 2 w.lcore 0x16 (s.clock.ns - w.since)

/-- The fields of a truss name (R216). -/
def nmRemote (w : Word) : Bool := w.getLsbD 63
def nmNode (w : Word) : Nat := bits w.toNat 62 43
def nmBgen (w : Word) : Nat := bits w.toNat 35 20
def nmVtid (w : Word) : Nat := bits w.toNat 19 0
def nmRsv (w : Word) : Bool := bits w.toNat 42 36 != 0

/-- The fields of a phase operand (R217). -/
def phNo (w : Word) : Bool := w.getLsbD 16
def phVal (w : Word) : Nat := w.toNat % 0x1_0000
def phRsv (w : Word) : Bool := decide (0x2_0000 ≤ w.toNat)

/-- The result of an operation stored: the truss, its waiters released, progress, and the forwards it
owes (R225, R228, R238). -/
def settle (s : State) (k v : Nat) (o : TrOut) : State × List Fwd :=
  let s1 := o.free.foldl (freeWaiter k) (setTruss s k v o.t)
  let s2 := if o.done = [] then s1 else progress s1 k
  (s2, o.done.flatMap (fun g => o.t.fwd.map (fun e => ⟨v, g, e⟩)))

/-- REMOTE_NODE_INVALID (R260). -/
def nodeInvalid (s : State) (k n node : Nat) : State := raise s 0x0405 clsJ k (unitCore n) (p4 n ++ p4 node)

/-- REMOTE_NODE_INVALID of an arrival truss `v` forwards, which no core made. -/
def forwardInvalid (s : State) (k v node : Nat) : State :=
  raise s 0x0405 clsJ k (unitBase (trussOf s k v).home) (p4 0xFFFF ++ p4 node)

/-- A truss arrival sent to another node (R231): a forward names its truss in OP_INFO. -/
def sendArrival (s : State) (k core flight node : Nat) (name phase : Word) (src : Option Nat) : State :=
  enqueue s { ctx := k, core := core, flight := flight, opc := opAtomic, cls := clSpar, peer := node }
    [{ info := match src with | some v => 2 ^ 63 + v | none => 0
       payload := p8 name.toNat ++ p8 phase.toNat }]

/-- One forward arrival: to another node, or to a truss of the context; the forwards that follow. -/
def forward (s : State) (k : Nat) (f : Fwd) : State × List Fwd :=
  let phase := (f.gen + f.entry.offset.toNat) % 0x1_0000
  if nmRemote f.entry.name then
    let pw : Word := BitVec.ofNat 64 (phase + if f.entry.noPhase then 0x1_0000 else 0)
    if nodeKnown s (ctxOf s k).jobId (nmNode f.entry.name) then (sendArrival s k 0 noFlight (nmNode f.entry.name) f.entry.name pw (some f.src), [])
    else (forwardInvalid s k f.src (nmNode f.entry.name), [])
  else
    let v := nmVtid f.entry.name
    let t := trussOf s k v
    let who : Member := .truss (ownNode0 s) f.src
    if t.bound = false ∨ t.bgen ≠ nmBgen f.entry.name then (trussInvalid s k (unitBase t.home) (ownNode0 s) v (nmBgen f.entry.name) 0x50, [])
    else match arriveT t who f.entry.noPhase phase with
      | .error e => (trussEvent s k v t who phase e, [])
      | .ok o => settle s k v o

/-- Forwards owed, and those they cause in turn, made in order: the state, and those left when `fuel` have been. -/
def forwards (fuel : Nat) (s : State) (k : Nat) (fs : List Fwd) : State × List Fwd :=
  match fuel with
  | 0 => (s, fs)
  | n + 1 =>
    match fs with
    | [] => (s, [])
    | f :: r =>
      let p := forward s k f
      forwards n p.1 k (r ++ p.2)

/-- The most forward arrivals one command makes; the others wait, and the context's next truss operation goes on
with them. -/
def fwdLimit : Nat := 65536

/-- The forwards of a context carried on with new ones behind those that wait. -/
def forwardOn (s : State) (k : Nat) (fs : List Fwd) : State :=
  let p := forwards fwdLimit s k ((ctxOf s k).forwards ++ fs)
  if p.2 = (ctxOf p.1 k).forwards then p.1 else setCtx p.1 k { ctxOf p.1 k with forwards := p.2 }

/-- What an operation on a bound truss leaves: done, or refused with its event. -/
def trussDo (s : State) (k v : Nat) (who : Member) (phase : Nat) (r : Except TrErr TrOut) : State × Bool :=
  match r with
  | .error e => (trussEvent s k v (trussOf s k v) who phase e, false)
  | .ok o =>
    let p := settle s k v o
    (forwardOn p.1 k p.2, true)

/-- An arrival by an identity at a bound truss, with its forwards. -/
def arriveAt (s : State) (k v : Nat) (who : Member) (nophase : Bool) (phase : Nat) : State × Bool :=
  trussDo s k v who phase (arriveT (trussOf s k v) who nophase phase)

/-- Whether a name is a current binding of the context (R218). -/
def nameOk (s : State) (k : Nat) (name : Word) : Bool :=
  let t := trussOf s k (nmVtid name)
  t.bound && t.bgen == nmBgen name

end Sys2Proof.Machine
end

