-- ==== Sys2Proof/Machine/Transc.lean ====
section
/-! DEFINITION. The transcendental functions of R196. Each is computed far more precisely than FP32;
the result is the FP32 value at a distance the bound allows that `Config.transcStep` picks, since
the spec gives the bound and not the value. -/

namespace Sys2Proof.Machine

/-- The fixed point of the approximations: 96 fraction bits. -/
abbrev fxp : Nat := 2 ^ 96

/-- ln 2 and log2 e in fixed point. -/
def ln2Fx : Nat := 54916777467707473351141471128
def log2e : Rat := mkRat 114302077158074026402637675936 (2 ^ 96)
def ln2Q : Rat := mkRat 54916777467707473351141471128 (2 ^ 96)

/-- The terms of e^t for t in fixed point, from term `i`. -/
def expTerms (fuel : Nat) (t term i : Nat) : Nat :=
  match fuel with
  | 0 => 0
  | f + 1 => if term = 0 then 0 else term + expTerms f t (term * t / fxp / (i + 1)) (i + 1)

/-- 2^x, its exponent held within ±600. -/
def exp2A (x : Rat) : Rat :=
  let n := x.floor
  if n < -600 then 0 else if 600 < n then pow2 600
  else
    let f := ((x - (n : Rat)) * (fxp : Rat)).floor.toNat
    if f = 0 then pow2 n else (expTerms 60 (f * ln2Fx / fxp) fxp 0 : Nat) * pow2 (n - 96)

/-- e^x. -/
def expA (x : Rat) : Rat := exp2A (x * log2e)

/-- The fraction bits of log2 of a fixed-point number in [1, 2). -/
def log2Bits (n : Nat) (m : Nat) (acc : Nat) : Nat :=
  match n with
  | 0 => acc
  | k + 1 =>
    let q := m * m / fxp
    if 2 * fxp ≤ q then log2Bits k (q / 2) (2 * acc + 1) else log2Bits k q (2 * acc)

/-- log2 x of a positive number. -/
def log2A (x : Rat) : Rat :=
  let e := log2Q x
  let m := (x / pow2 e * (fxp : Rat)).floor.toNat
  (e : Rat) + mkRat (log2Bits 72 m 0) (2 ^ 72)

/-- ln x of a positive number. -/
def lnA (x : Rat) : Rat := log2A x * ln2Q

/-- √x of a number that is not negative, truncated to at least 80 significant bits. -/
def sqrtA (x : Rat) : Rat :=
  if x ≤ 0 then 0 else
    let s := (160 - log2Q x).toNat / 2 + 1
    mkRat (Nat.sqrt (x * ((4 ^ s : Nat) : Rat)).floor.toNat) (2 ^ s)

/-- tanh, the sigmoid, GELU and SiLU. -/
def sigmoidA (x : Rat) : Rat := if 0 ≤ x then 1 / (1 + expA (-x)) else 1 - 1 / (1 + expA x)
def tanhA (x : Rat) : Rat := 2 * sigmoidA (2 * x) - 1
def geluA (x : Rat) : Rat :=
  let c : Rat := mkRat 7978846 10000000
  let d : Rat := mkRat 44715 1000000
  mkRat 1 2 * x * (1 + tanhA (c * (x + d * x * x * x)))
def siluA (x : Rat) : Rat := x * sigmoidA x

/-- The FP32 value near an exact result within a bound of `ulps`, or of an absolute error, that the
free step picks (R196). A result beyond the FP32 range stays beyond it. -/
def nearFP32 (fn ulps : Nat) (absE : Rat) (x y : Rat) : Rat :=
  let u := max (if y = 0 then -149 else log2Q (absQ y)) (-126) - 23
  let z := (rtzQ (y / pow2 u) : Rat) * pow2 u
  let kk := max ulps (absE / pow2 u).floor.toNat
  let j : Int := (Config.transcStep fn x.num x.den % (2 * kk) : Nat) - ((kk - 1 : Nat) : Int)
  if z = 0 ∧ y = 0 then 0
  else roundTo fFP32 true (if y < 0 then z - (j : Rat) * pow2 u else z + (j : Rat) * pow2 u)

/-- A finite result near the exact one. -/
def approx (fn ulps : Nat) (absE x y : Rat) : Val := .fin (nearFP32 fn ulps absE x y)

/-- A value beyond every lane format: an overflow of a finite operand. -/
def beyond (neg : Bool) : Val := .fin (if neg then -(pow2 200) else pow2 200)

/-- EXP2 of a finite operand scaled to `t`: overflow at 128, +0 below −149. From −149 to −126 the
spec states no result: any FP32 value. -/
def exp2V (fn ulps : Nat) (x t : Rat) : Val :=
  if 128 ≤ t then beyond false else if t < -149 then .fin 0
  else if t < -126 then decodeFloat fFP32 (Config.transcStep fn x.num x.den % 2 ^ 32)
  else approx fn ulps 0 x (exp2A t)

/-- The transcendental functions by FN code (R194, R196). -/
def transc (fn : Nat) (v : Val) : Val :=
  match v with
  | .poison => .poison
  | .nan => .nan
  | .inf n =>
    if fn = 0x10 ∨ fn = 0x14 then (if n then .fin 0 else .inf false)
    else if fn = 0x11 ∨ fn = 0x15 then (if n then .nan else .inf false)
    else if fn = 0x12 then .fin 0
    else if fn = 0x13 then (if n then .nan else .fin 0)
    else if fn = 0x16 then (if n then .nan else .inf false)
    else if fn = 0x17 then .fin (if n then -1 else 1)
    else if fn = 0x18 then .fin (if n then 0 else 1)
    else (if n then .fin 0 else .inf false)
  | .fin x =>
    if fn = 0x10 then exp2V fn 2 x x
    else if fn = 0x14 then exp2V fn 3 x (x * log2e)
    else if fn = 0x11 ∨ fn = 0x15 then
      if x = 0 then .inf true else if x < 0 then .nan
      else if fn = 0x11 then approx fn 2 0 x (log2A x) else approx fn 3 0 x (lnA x)
    else if fn = 0x12 then
      if x = 0 then .inf false
      else if maxQ fFP32 < absQ (roundTo fFP32 false (1 / x)) then beyond (decide (x < 0))
      else approx fn 1 0 x (1 / x)
    else if fn = 0x13 then
      if x = 0 then .inf false else if x < 0 then .nan else approx fn 1 0 x (sqrtA (1 / x))
    else if fn = 0x16 then if x < 0 then .nan else if x = 0 then .fin 0 else approx fn 2 0 x (sqrtA x)
    else if fn = 0x17 then approx fn 4 (pow2 (-24)) x (tanhA x)
    else if fn = 0x18 then approx fn 4 (pow2 (-24)) x (sigmoidA x)
    else if fn = 0x19 then approx fn 6 (pow2 (-22)) x (geluA x)
    else approx fn 6 (pow2 (-22)) x (siluA x)

end Sys2Proof.Machine
end

