-- ==== Sys2Proof/Machine/Vector.lean ====
section
/-! DEFINITION. The work of the vector engine but for CVT, STAT and UPD: VOP, TOPK, NORM and SOFTMAX
(R189, R191 to R203, R207, R168 to R171, R483). -/

namespace Sys2Proof.Machine

/-! ## Lanes (R191, R194) -/

/-- A lane value with what its operations overflowed and flushed. -/
structure Lane where
  v  : Val
  ov : Nat := 0
  fl : Nat := 0
  deriving DecidableEq, Repr

/-- One lane operation's exact result rounded to FP32, or to BF16 in a BF16 lane run: a finite value
beyond the range is an infinity and an overflow, a BF16 subnormal is +0. -/
def lane1 (bf : Bool) (ov fl : Nat) (v : Val) : Lane :=
  let f := if bf then fBF16 else fFP32
  match v with
  | .fin q =>
    let r := roundTo f false q
    if maxQ f < absQ r then ⟨.inf (decide (q < 0)), ov + 1, fl⟩
    else if bf ∧ q ≠ 0 ∧ absQ r < minNormal f then ⟨.fin 0, ov, fl + 1⟩
    else ⟨.fin r, ov, fl⟩
  | v => ⟨v, ov, fl⟩

/-- An operand as a lane value. -/
def Lane.of (v : Val) : Lane := ⟨v, 0, 0⟩

/-- FP32 lane operations. -/
def Lane.add (a b : Lane) : Lane := lane1 false (a.ov + b.ov) 0 (a.v.add b.v)
def Lane.sub (a b : Lane) : Lane := lane1 false (a.ov + b.ov) 0 (a.v.add b.v.neg)
def Lane.mul (a b : Lane) : Lane := lane1 false (a.ov + b.ov) 0 (a.v.mul b.v)
def Lane.div (a b : Lane) : Lane := lane1 false (a.ov + b.ov) 0 (a.v.div b.v)
/-- A transcendental of a lane value. -/
def Lane.tr (fn : Nat) (a : Lane) : Lane := lane1 false a.ov 0 (transc fn a.v)

/-- The functions of one element by FN: the exact result of the lane operation, none for an FN that is
not elementwise. -/
def elemFn (fn : Nat) (a b x : Val) : Option Val :=
  match fn with
  | 0x00 => some (a.add b)
  | 0x01 => some (a.add b.neg)
  | 0x02 => some (a.mul b)
  | 0x03 => some ((a.mul b).add x)
  | 0x04 => some (maxV' a b)
  | 0x05 => some (minV' a b)
  | 0x06 => some a.abs
  | 0x07 => some a.neg
  | 0x20 => some (rel a b (a.eq b))
  | 0x21 => some (rel a b (a.lt b))
  | 0x22 => some (rel a b (a.lt b || a.eq b))
  | 0x23 => some (rel a b (b.lt a))
  | 0x24 => some (rel a b (b.lt a || a.eq b))
  | 0x25 => some (if a = .poison ∨ b = .poison ∨ x = .poison then .poison else if x = .fin 0 then b else a)
  | _ => if 0x10 ≤ fn ∧ fn ≤ 0x1A then some (transc fn a) else none
where
  /-- The larger of two values (R195). -/
  maxV' (a b : Val) : Val :=
    if a = .poison ∨ b = .poison then .poison else if a = .nan ∨ b = .nan then .nan else if a.lt b then b else a
  /-- The smaller of two values (R195). -/
  minV' (a b : Val) : Val :=
    if a = .poison ∨ b = .poison then .poison else if a = .nan ∨ b = .nan then .nan else if b.lt a then b else a
  /-- 1 where a relation holds. -/
  rel (a b : Val) (r : Bool) : Val :=
    if a = .poison ∨ b = .poison then .poison else .fin (if r then 1 else 0)

/-- The functions that read B. -/
def binary (fn : Nat) : Bool :=
  decide (fn ≤ 0x05) || decide (0x20 ≤ fn ∧ fn ≤ 0x25) || fn == 0x39 || decide (0x60 ≤ fn ∧ fn ≤ 0x62)

/-- The functions R191 may run on BF16 lanes: elementwise with L = 1. -/
def bfFn (fn : Nat) : Bool := decide (fn ≤ 0x07) || decide (0x10 ≤ fn ∧ fn ≤ 0x13)

/-! ## Outputs (R147, R194) -/

/-- Conv of a value D holds as the lanes gave it. -/
def plainConv (f : Nat) (v : Val) : Conv := { toD f v with cls := .none, latch := false }

/-- The elements of an output and its block scales: the lane value unchanged in FP32 and W40, else
divided by D's scale and converted as CVT.SAT with round to nearest even. -/
def narrow (d : Desc) (vs : List Val) : List Conv × List Nat :=
  if d.scaleKind = 3 then
    let bs := (List.range (vs.length / 32)).map (fun i => mxBlock d.code false false ((vs.drop (32 * i)).take 32))
    (bs.flatMap (fun b => b.2), bs.map (fun b => b.1))
  else if d.scaleKind = 0 ∧ (d.code = fFP32 ∨ d.code = fW40) then (vs.map (plainConv d.code), [])
  else (vs.zipIdx.map (fun p => convElem d.code false false (p.1.div (scaleOf d p.2))), [])

/-- The stores of block scales (R146). -/
def scaleWrs (d : Desc) (ss : List Nat) : List Wr := ss.zipIdx.map (fun p => ⟨d.scalePtr + p.2, leBytes 1 p.1, false⟩)

/-- The effect of an output of lane values: stores, counters of source 1, latch, observations.
`satToo` counts the overflows as saturations as well (R196). -/
def finishLanes (s : State) (k n : Nat) (d : Desc) (ls : List Lane) (satToo : Bool) : Except Trap Eff := do
  let r := narrow d (ls.map (fun l => l.v))
  let es := r.1.map (fun c => (⟨c.code, c.poi⟩ : OutEl))
  let ob ← watchObs s k n d (es.zipIdx.map (fun p => (p.2, p.1)))
  let ov := (ls.map (fun l => l.ov)).sum
  let t := tally r.1
  .ok { src := 1
        tally := { t with sat := t.sat + (if satToo then ov else 0), under := t.under + (ls.map (fun l => l.fl)).sum, latch := ov }
        cause := if ov = 0 then 0 else causeVector
        slots := [d.slot], obs := ob, ws := tensorWrs d es ++ scaleWrs d r.2 }

/-! ## Broadcast (R194) -/

/-- Whether a source fits D: each size equal, or 1 where D's is larger. -/
def fits (src d : Desc) : Bool :=
  (List.range 5).all (fun i =>
    let a := if i < src.rank then nth src.sizes i 1 else 1
    let b := if i < d.rank then nth d.sizes i 1 else 1
    a == b || a == 1)

/-- The element of a source that D's element `j` reads. -/
def castIdx (src d : Desc) (j : Nat) : Nat :=
  linear (dims src) ((indexOf (dims d) j).zipIdx.map (fun p => if nth src.sizes p.2 1 = 1 then 0 else p.1))

/-- The values of a source laid out as D's elements. -/
def castVals (src d : Desc) (vs : List Val) : List Val :=
  (List.range (count d)).map (fun j => nth vs (castIdx src d j) .poison)

/-- An operand as D's elements: its tensor, or the immediate in its place. -/
def operandVals (s : State) (k n : Nat) (d : Desc) (o : Option Desc) (imm : Val) : Except Trap (List Val) :=
  match o with
  | some x => do
    need (ownBase x && fits x d)
    let vs ← readVals s k n x
    .ok (castVals x d vs)
  | none => .ok (List.replicate (count d) imm)

/-! ## Elementwise functions -/

/-- The BF16 rule of R191. -/
def bfRun (fn : Nat) (f : Flight) (d : Desc) : Bool :=
  let isBf := fun (o : Option Desc) => match o with | none => true | some x => x.code == fBF16 && !x.mx
  bfFn fn && isBf f.a && isBf f.b && isBf f.x && d.code == fBF16 && d.scaleKind == 0
    && !(binary fn && f.b.isNone && f.q.w.imm.toNat % 0x1_0000 != 0)

/-- A wrapping INT32 operation on exact integers (R194); of operands whose scales leave no integers the
spec states no result, and `free` is the code of one. -/
def intFn (fn free : Nat) (a b : Val) : Val :=
  match a, b with
  | .poison, _ => .poison
  | _, .poison => .poison
  | .fin p, .fin q =>
    let i := p.floor
    let j := q.floor
    let r := if fn = 0x60 then i + j else if fn = 0x61 then i - j else i * j
    .fin ((decodeInt fINT32 (if p.den = 1 ∧ q.den = 1 then (r % 4294967296).toNat else free) : Int) : Rat)
  | _, _ => .nan

/-- ADD to SELECT and IADD to IMUL. -/
def elementwise (s : State) (k n fn : Nat) (f : Flight) : Except Trap Eff := do
  let d ← needDesc f.d
  let a ← needDesc f.a
  let isI := decide (0x60 ≤ fn)
  need (ownBase d && (fn != 0x03 || f.x.isSome) && (fn != 0x25 || (match f.x with | some x => x.code == fUINT8 | none => false)))
  need (!isI || (a.code == fINT32 && (match f.b with | some b => b.code == fINT32 | none => true)))
  need (!(decide (0x20 ≤ fn) && decide (fn ≤ 0x24)) || d.code == fUINT8)
  let imm := if isI then Val.fin ((decodeInt fINT32 f.q.w.imm.toNat : Int) : Rat) else decodeFloat fFP32 f.q.w.imm.toNat
  let av ← operandVals s k n d (some a) imm
  let bv ← (if binary fn then operandVals s k n d f.b imm else .ok av)
  let xv ← (if fn = 0x03 ∨ fn = 0x25 then operandVals s k n d f.x (.fin 0) else .ok av)
  let bf := bfRun fn f d
  let ls ← (List.range (count d)).mapM (fun j =>
    let x := nth av j .poison
    let y := nth bv j .poison
    if isI then .ok (Lane.of (intFn fn (Config.freeBits (s.freeCtr + j) 32 % 2 ^ 32) x y))
    else match elemFn fn x y (nth xv j .poison) with
      | some v => .ok (lane1 bf 0 0 v)
      | none => .error (.unpred .reservedField))
  let e ← finishLanes s k n d ls (fn == 0x10 || fn == 0x12 || fn == 0x14)
  .ok { e with draws := if isI then count d else 0 }

/-! ## Reductions along dimension 0 (R197) -/

/-- The rows of a tensor's values along dimension 0. -/
def rowsOf (n : Nat) (vs : List Val) : List (List Val) :=
  (List.range (vs.length / max n 1)).map (fun r => (vs.drop (r * n)).take n)

/-- Exact terms added in order, each addition rounded to W40: n terms take n − 1 roundings. -/
def sumW40 (vs : List Val) : Val :=
  match vs with
  | [] => .fin 0
  | v :: r => r.foldl addW40 v

/-- The extreme of a row. -/
def extreme (mx : Bool) (vs : List Val) : Val :=
  match vs with
  | [] => .nan
  | v :: r => r.foldl (fun a b => if mx then elemFn.maxV' a b else elemFn.minV' a b) v

/-- D's shape for a reduction of A: dimension 0 of size `w`, every other size A's. -/
def reducedShape (a d : Desc) (w : Nat) : Bool :=
  nth d.sizes 0 1 == w && (List.range 4).all (fun i =>
    (if i + 1 < a.rank then nth a.sizes (i + 1) 1 else 1) == (if i + 1 < d.rank then nth d.sizes (i + 1) 1 else 1))

/-- m and s of a row over the elements kept: m the largest, s := Σ exp2((x − m) × log2 e) in W40
(R189, R198). -/
def expSum (xs : List (Val × Bool)) : Val × Lane × List Lane :=
  let m := extreme true ((xs.filter (fun x => x.2)).map (fun x => x.1))
  let c := Lane.of ((Val.fin log2e).toFP32)
  let es := xs.map (fun x =>
    if x.2 then Lane.tr 0x10 (((Lane.of x.1).sub (Lane.of m)).mul c) else Lane.of (.fin 0))
  let ov := (es.map (fun e => e.ov)).sum
  let sum := sumW40 (((xs.zip es).filter (fun p => p.1.2)).map (fun p => p.2.v))
  (m, lane1 false ov 0 sum, es.map (fun e => { e with ov := 0 }))

/-- m + ln s in FP32. -/
def lseOf (m : Val) (sum : Lane) : Lane := (Lane.of m).add (Lane.tr 0x15 sum)

/-- A W40 sum as a lane result: in FP32 or W40 as it is, beyond FP32 an infinity with the latch. -/
def reduceLane (d : Desc) (v : Val) : Lane :=
  if d.code = fW40 ∧ d.scaleKind = 0 then Lane.of v else if d.code = fFP32 ∧ d.scaleKind = 0 then lane1 false 0 0 v else Lane.of v

/-- A product of a value with itself. -/
def sq (v : Val) : Val := v.mul v

/-- RSUM, RMAX, RMIN, RSUMSQ, RANGE, XENT and SQERR. -/
def reduction (s : State) (k n fn : Nat) (f : Flight) : Except Trap Eff := do
  let d ← needDesc f.d
  let a ← needDesc f.a
  let w := if fn = 0x34 then 2 else 1
  need (ownBase d && ownBase a && reducedShape a d w)
  let nn := dim0' a
  let av ← readVals s k n a
  let bv ← (if fn = 0x39 then operandVals s k n a f.b (decodeFloat fFP32 f.q.w.imm.toNat) else .ok av)
  let rows := (rowsOf nn av).zip (rowsOf nn bv)
  let ls ← (if fn = 0x38 then do
      let b ← needDesc f.b
      need (ownBase b && b.code == fINT32 && count b == rows.length && d.code == fFP32)
      let ts ← readVals s k n b
      rows.zipIdx.mapM (fun p => do
        let row := p.1.1
        match nth ts p.2 .poison with
        | .fin t =>
          if t = -1 then .ok [Lane.of (.fin 0)]
          else do
            need (t.den == 1 && decide (0 ≤ t) && decide (t < (nn : Rat)))
            if row.any (· == .poison) then .ok [Lane.of .poison]
            else
              let e := expSum (row.map (fun x => (x, true)))
              .ok [(lseOf e.1 e.2.1).sub (Lane.of (nth row t.floor.toNat .nan))]
        | .poison => .ok [Lane.of .poison]
        | _ => .error (.unpred .malformed))
    else .ok (rows.map (fun p =>
      let x := p.1
      if x.any (· == .poison) ∨ p.2.any (· == .poison) then List.replicate w (Lane.of .poison)
      else if fn = 0x30 then [reduceLane d (sumW40 x)]
      else if fn = 0x31 then [lane1 false 0 0 (extreme true x)]
      else if fn = 0x32 then [lane1 false 0 0 (extreme false x)]
      else if fn = 0x33 then [reduceLane d (sumW40 (x.map sq))]
      else if fn = 0x34 then [lane1 false 0 0 (extreme false x), lane1 false 0 0 (extreme true x)]
      else [reduceLane d (sumW40 ((x.zip p.2).map (fun q => sq (q.1.add q.2.neg))))])))
  finishLanes s k n d ls.flatten false
where
  /-- The size of dimension 0. -/
  dim0' (a : Desc) : Nat := nth a.sizes 0 1

/-! ## NORM and SOFTMAX (R198) -/

/-- One row of NORM. -/
def normRow (layer : Bool) (eps : Val) (xs gain bias : List Val) : List Lane :=
  let nn := Val.fin ((xs.length : Nat) : Rat)
  let mu : Lane := if layer then (lane1 false 0 0 (sumW40 xs)).div (Lane.of nn) else Lane.of (.fin 0)
  let cs := xs.map (fun x => if layer then (Lane.of x).sub mu else Lane.of x)
  let ss := lane1 false (cs.map (fun c => c.ov)).sum 0 (sumW40 (cs.map (fun c => sq c.v)))
  let r := Lane.tr 0x13 ((ss.div (Lane.of nn)).add (Lane.of eps))
  cs.zipIdx.map (fun p =>
    let y := (({ p.1 with ov := 0 }).mul (if p.2 = 0 then r else { r with ov := 0 })).mul (Lane.of (nth gain p.2 (.fin 1)))
    if bias = [] then y else y.add (Lane.of (nth bias p.2 (.fin 0))))

/-- NORM's work. -/
def normEff (s : State) (k n : Nat) (f : Flight) : Except Trap Eff := do
  let sub := f.q.w.sub.toNat
  let d ← needDesc f.d
  let a ← needDesc f.a
  let g ← needDesc f.b
  let nn := nth a.sizes 0 1
  need (decide (bits sub 11 10 ≤ 1) && bits sub 8 0 == 0 && ownBase d && ownBase a && ownBase g && dims d == dims a
    && nth g.sizes 0 1 == nn && count g == nn)
  let av ← readVals s k n a
  let gv ← readVals s k n g
  let bv ← (if bit sub 9 then do
      let x ← needDesc f.x
      need (ownBase x && nth x.sizes 0 1 == nn && count x == nn)
      readVals s k n x
    else .ok [])
  let eps := decodeFloat fFP32 f.q.w.imm.toNat
  let ls := (rowsOf nn av).flatMap (fun row =>
    if row.any (· == .poison) then List.replicate nn (Lane.of .poison)
    else normRow (bits sub 11 10 == 1) eps row gv bv)
  finishLanes s k n d ls false

/-- One row of SOFTMAX: its outputs and its log-sum-exp. -/
def softRow (row : List (Val × Bool)) : List Lane × Lane :=
  if row.any (fun x => x.1 == .poison && x.2) then (List.replicate row.length (Lane.of .poison), Lane.of .poison)
  else if row.all (fun x => !x.2) then (List.replicate row.length (Lane.of (.fin 0)), Lane.of (.inf true))
  else
    let e := expSum row
    ((e.2.2.zip row).zipIdx.map (fun p =>
      if p.1.2.2 then p.1.1.div (if p.2 = 0 then e.2.1 else { e.2.1 with ov := 0 }) else Lane.of (.fin 0)),
      lseOf e.1 { e.2.1 with ov := 0 })

/-- SOFTMAX's work. -/
def softmaxEff (s : State) (k n : Nat) (f : Flight) : Except Trap Eff := do
  let sub := f.q.w.sub.toNat
  let d ← needDesc f.d
  let a ← needDesc f.a
  let nn := nth a.sizes 0 1
  need (bits sub 9 0 == 0 && ownBase d && ownBase a && dims d == dims a)
  let av ← readVals s k n a
  let mv ← (if bit sub 11 then do
      let b ← needDesc f.b
      need (ownBase b && b.code == fUINT8 && fits b a)
      let vs ← readVals s k n b
      .ok (castVals b a vs)
    else .ok (List.replicate av.length (.fin 0)))
  let rows := (rowsOf nn av).zip (rowsOf nn mv)
  let rs := rows.map (fun p =>
    if p.2.any (· == .poison) then (List.replicate nn (Lane.of .poison), Lane.of .poison)
    else softRow (p.1.zip (p.2.map (fun m => m == .fin 0))))
  let e ← finishLanes s k n d (rs.flatMap (fun r => r.1)) false
  if bit sub 10 then do
    let x ← needDesc f.x
    need (ownBase x && x.code == fFP32 && reducedShape a x 1)
    let e2 ← finishLanes s k n x (rs.map (fun r => r.2)) false
    .ok { e with
      slots := e.slots ++ e2.slots, ws := e.ws ++ e2.ws, obs := e.obs ++ e2.obs
      tally := { sat := e.tally.sat + e2.tally.sat, under := e.tally.under + e2.tally.under
                 nan := e.tally.nan + e2.tally.nan, zero := e.tally.zero + e2.tally.zero
                 latch := e.tally.latch + e2.tally.latch }
      cause := e.cause ||| e2.cause }
  else .ok e

/-! ## Stores of single elements -/

/-- One element put into a table of bytes by address, the bytes around it read from memory. -/
def patchEl (s : State) (k n : Nat) (d : Desc) (t : Tbl (Nat × Bool)) (j : Nat) (e : OutEl) :
    Except Trap (Tbl (Nat × Bool)) := do
  let (va, sh) := elemAt d j
  let b := elemBits d.code
  let len := (sh + b + 7) / 8
  let old ← (List.range len).mapM (fun i =>
    if has t (va + i) then .ok (look t (0, false) (va + i))
    else do
      let r ← readVa s k n (va + i) 1
      .ok (leNat r.1, false))
  let o := leNat (old.map (fun p => BitVec.ofNat 8 p.1))
  let v := o - o / 2 ^ sh % 2 ^ b * 2 ^ sh + e.code % 2 ^ b * 2 ^ sh
  .ok ((List.range len).foldl (fun t i => put t (va + i) (v / 256 ^ i % 256, (nth old i (0, false)).2 || e.poi)) t)

/-- The stores of a list of elements in order, the last writer of an element winning. -/
def patchEls (s : State) (k n : Nat) (d : Desc) (es : List (Nat × OutEl)) : Except Trap (List Wr) := do
  if 8 ≤ elemBits d.code then .ok (es.map (fun e => elemWr d e.1 e.2))
  else
    let t ← es.foldlM (fun t e => patchEl s k n d t e.1 e.2) []
    .ok (t.map (fun p => ⟨p.1, leBytes 1 p.2.1, p.2.2⟩))

/-- The touch bits of rows set by an atomic OR: one store a byte (R199). -/
def touchSets (s : State) (k n : Nat) (d : Desc) (rows : List Nat) : Except Trap (List Wr) := do
  let bs := rows.foldl (fun l r => addNat l (r / 8)) []
  bs.mapM (fun b => do
    let o ← readVa s k n (d.bitmap + b) 1
    let v := rows.foldl (fun v r => if r / 8 = b ∧ !bit v (r % 8) then v + 2 ^ (r % 8) else v) (leNat o.1)
    .ok ⟨d.bitmap + b, leBytes 1 v, o.2⟩)

/-! ## GATHER, SCATTER, SCATTER.ADD (R200 to R202, R483) -/

/-- The element of row `r` at place `i` of the row. -/
def rowEl (d : Desc) (r i : Nat) : Nat := i + rowLen d * r

/-- The shapes of R483. -/
def rowShapes (t o b : Desc) : Bool :=
  t.rank == o.rank && t.sizes.take (t.rank - 1) == o.sizes.take (o.rank - 1)
    && b.code == fINT32 && b.rank == 1 && count b == rowCount o

/-- A row index: none for −1, poisoned with the index, and malformed where it is no row of the table. -/
inductive RowIx where
  | row (r : Nat)
  | skip
  | bad
  deriving DecidableEq, Repr

/-- The row an element of B names, of `rows` rows. -/
def rowIx (rows : Nat) (v : Val) : Except Trap RowIx :=
  match v with
  | .fin q =>
    if q = -1 then .ok .skip
    else if q.den = 1 ∧ 0 ≤ q ∧ q < (rows : Rat) then .ok (.row q.floor.toNat)
    else .error (.unpred .malformed)
  | .poison => .ok .bad
  | _ => .error (.unpred .malformed)

/-- The code of an output element that holds a code of the same format: its unused bits 0, a zero +0, a
NaN canonical, and whether it is the poison encoding (R141 to R143, R159). -/
def canonCode (f c : Nat) : Conv :=
  if isInt f then ⟨c % 2 ^ elemBits f, .none, false, false⟩
  else match decodeElem f false c with
    | .poison => ⟨w40Poison, .none, false, true⟩
    | .nan => ⟨nanCode f, .none, false, false⟩
    | .fin q => ⟨if q = 0 then 0 else c % 2 ^ (if f = fW40 then 40 else elemBits f), .none, false, false⟩
    | .inf _ => ⟨c % 2 ^ (if f = fW40 then 40 else elemBits f), .none, false, false⟩

/-- The element of one tensor as another holds it: its code where formats agree and neither is scaled,
else converted as R194 says. -/
def moveEl (src : Desc) (j : Nat) (c : Option Nat) (dst : Desc) (j' : Nat) : Conv :=
  match c with
  | none => ⟨if dst.code = fW40 then w40Poison else nanCode dst.code, .none, false, true⟩
  | some c =>
    if src.code = dst.code ∧ src.scaleKind = 0 ∧ dst.scaleKind = 0 then canonCode dst.code c
    else if dst.scaleKind = 0 ∧ (dst.code = fFP32 ∨ dst.code = fW40) then plainConv dst.code (elemVal src j (some c))
    else convElem dst.code false false ((elemVal src j (some c)).div (scaleOf dst j'))

/-- The bytes of row `r` of a tensor: runs along dimension 0. -/
def rowSpan (d : Desc) (r : Nat) : List (Nat × Nat) :=
  if d.rank ≤ 1 then [((elemAt d r).1, (elemBits d.code + 7) / 8)]
  else
    let n := nth d.sizes 0 1
    (List.range (rowLen d / n)).map (fun i => ((elemAt d (rowEl d r (i * n))).1, (n * elemBits d.code + 7) / 8))

/-- A poisoned element of an output. -/
def poisonEl (d : Desc) : OutEl := ⟨if d.code = fW40 then w40Poison else nanCode d.code, true⟩

/-- Elements from `at'` on laid into D from their codes and values: an MX destination's blocks are derived
anew (R154), any other takes the codes. -/
def layEls (d : Desc) (at' : Nat) (mv : List (Conv × Val)) : List Conv × List Wr :=
  if d.scaleKind = 3 then
    let vs := mv.map (fun p => p.2)
    let bs := (List.range (vs.length / 32)).map (fun i => mxBlock d.code false false ((vs.drop (32 * i)).take 32))
    (bs.flatMap (fun b => b.2), bs.zipIdx.map (fun b => ⟨d.scalePtr + at' / 32 + b.2, leBytes 1 b.1.1, false⟩))
  else (mv.map (fun p => p.1), [])

/-- Element `j` of a source as element `j'` of D: its code and its value. -/
def moved (src : Desc) (j : Nat) (c : Option Nat) (d : Desc) (j' : Nat) : Conv × Val :=
  (moveEl src j c d j', elemVal src j c)

/-- The row of D that an index of GATHER gives. -/
def gatherRow (s : State) (k n : Nat) (a d : Desc) (i : Nat) (x : RowIx) : Except Trap (List (Conv × Val)) :=
  let w := rowLen d
  match x with
  | .skip => .ok (List.replicate w (⟨0, .none, false, false⟩, .fin 0))
  | .bad => .ok (List.replicate w (⟨(poisonEl d).code, .none, false, true⟩, .poison))
  | .row r => (List.range w).mapM (fun e => do
      let c ← readCode s k n a (rowEl a r e)
      .ok (moved a (rowEl a r e) c d (rowEl d i e)))

/-- GATHER's work. -/
def gatherEff (s : State) (k n : Nat) (f : Flight) : Except Trap Eff := do
  let d ← needDesc f.d
  let a ← needDesc f.a
  let b ← needDesc f.b
  need (ownBase d && ownBase b && rowShapes a d b)
  let vs ← readVals s k n b
  let ix ← vs.mapM (rowIx (rowCount a))
  let rows ← ix.zipIdx.mapM (fun p => gatherRow s k n a d p.2 p.1)
  let hit := ix.filterMap (fun x => match x with | .row r => some r | _ => none)
  let tw ← (if a.rowsp then touchSets s k n a hit else .ok [])
  let cs := layEls d 0 rows.flatten
  let el := cs.1.map (fun c => (⟨c.code, c.poi⟩ : OutEl))
  let ob ← watchObs s k n d (el.zipIdx.map (fun p => (p.2, p.1)))
  .ok { src := 1, tally := tally cs.1, obs := ob, slots := [d.slot]
        ws := tensorWrs d el ++ cs.2 ++ tw, reads := hit.flatMap (rowSpan a) }

/-- The elements of one destination row of SCATTER: the last source row that names it; of SCATTER.ADD: the
sum of the source rows in ascending order, added once to what the row holds (R201). -/
def scatterRow (s : State) (k n fn : Nat) (a d : Desc) (ps : List (Nat × Nat)) (r : Nat) :
    Except Trap (List (Conv × Val)) :=
  let src := (ps.filter (fun p => p.2 == r)).map (fun p => p.1)
  (List.range (rowLen d)).mapM (fun e => do
    if fn = 0x41 then
      let i := src.getLast?.getD 0
      let c ← readCode s k n a (rowEl a i e)
      .ok (moved a (rowEl a i e) c d (rowEl d r e))
    else
      let vs ← src.mapM (fun i => do
        let c ← readCode s k n a (rowEl a i e)
        .ok (elemVal a (rowEl a i e) c))
      let o ← readCode s k n d (rowEl d r e)
      let v := (sumW40 vs).add (elemVal d (rowEl d r e) o)
      .ok (if d.scaleKind = 0 ∧ (d.code = fFP32 ∨ d.code = fW40) then toD d.code v
        else convElem d.code false false (v.div (scaleOf d (rowEl d r e))), v))

/-- The elements of D that the rows written give, with their places, and the block scales. The rows of a
RANK 1 tensor are single elements: each block of an MX destination that one of them lies in is derived
anew from all of its values. -/
def scatterLay (s : State) (k n : Nat) (d : Desc) (rows : List (Nat × List (Conv × Val))) :
    Except Trap (List (Nat × Conv) × List Wr) :=
  if d.scaleKind = 3 ∧ d.rank ≤ 1 then do
    let new : Tbl (Conv × Val) := rows.foldl (fun t p => put t p.1 (nth p.2 0 (⟨0, .none, false, false⟩, .fin 0))) []
    let bl := (new.map (fun p => p.1 / 32)).foldl addNat []
    let out ← bl.mapM (fun b => do
      let mv ← (List.range 32).mapM (fun i => do
        let j := 32 * b + i
        let o ← readCode s k n d j
        .ok (look new (⟨0, .none, false, false⟩, elemVal d j o) j))
      let l := layEls d (32 * b) mv
      .ok (l.1.zipIdx.map (fun c => (32 * b + c.2, c.1)), l.2))
    .ok (out.flatMap (fun o => o.1), out.flatMap (fun o => o.2))
  else
    let out := rows.map (fun p =>
      let l := layEls d (rowEl d p.1 0) p.2
      (l.1.zipIdx.map (fun c => (rowEl d p.1 c.2, c.1)), l.2))
    .ok (out.flatMap (fun o => o.1), out.flatMap (fun o => o.2))

/-- SCATTER's and SCATTER.ADD's work. The last row wins under SCATTER, so each destination row is
written once. The block scales of an MX destination are read where its values are. -/
def scatterEff (s : State) (k n fn : Nat) (f : Flight) : Except Trap Eff := do
  let d0 ← needDesc f.d
  let a ← needDesc f.a
  let b ← needDesc f.b
  need (ownBase a && ownBase b && rowShapes d0 a b)
  let sc ← (if d0.scaleKind = 3 then readScales s k n false d0 else .ok d0.scales)
  let d := { d0 with scales := sc }
  let vs ← readVals s k n b
  let ix ← vs.mapM (rowIx (rowCount d))
  let ps := ix.zipIdx.filterMap (fun p => match p.1 with | .row r => some (p.2, r) | _ => none)
  let bad := ix.zipIdx.filterMap (fun p => if p.1 = .bad then some (Trap.consumed (elemAt b p.2).1) else none)
  let dst := ps.foldl (fun l p => if l.elem p.2 then l else l ++ [p.2]) []
  let rows ← dst.mapM (fun r => do
    let x ← scatterRow s k n fn a d ps r
    .ok (r, x))
  let lay ← scatterLay s k n d rows
  let el := lay.1.map (fun p => (p.1, (⟨p.2.code, p.2.poi⟩ : OutEl)))
  let ws ← patchEls s k n d el
  let tw ← (if d.rowsp then touchSets s k n d dst else .ok [])
  let ob ← watchObs s k n { d with rowsp := false } el
  let t := tally (lay.1.map (fun p => p.2))
  .ok { src := 1, tally := t, cause := if t.latch = 0 then 0 else causeVector, slots := [d.slot], obs := ob
        ws := ws ++ lay.2 ++ tw, traps := bad
        reads := if fn = 0x42 ∨ (d.scaleKind = 3 ∧ d.rank ≤ 1) then dst.flatMap (rowSpan d) else [] }

/-! ## RAND (R207) and QSCALE (R168 to R171) -/

/-- RAND's work. -/
def randEff (s : State) (k n : Nat) (f : Flight) : Except Trap Eff := do
  let d ← needDesc f.d
  need (ownBase d && (d.code == fFP32 || d.code == fINT32) && f.q.oa.isReg && f.q.ob.isReg)
  let st := f.q.ob.val
  finishLanes s k n d ((List.range (count d)).map (fun i =>
    let w := (philox f.q.oa.val i (i / 2 ^ 32 % 0x1_0000 + 0x1_0000) st (st / 2 ^ 32)).1
    Lane.of (.fin (if d.code = fINT32 then ((decodeInt fINT32 w : Int) : Rat) else (w / 256 : Nat) * pow2 (-24))))) false

/-- The largest finite magnitude of a scale target (R168). -/
def scaleQ (f : Nat) : Rat := if f = fINT4 then 7 else if f = fINT8 then 127 else if f = fUINT8 then 255 else maxQ f

/-- ⌈log2 q⌉ of a positive number. -/
def clog2Q (q : Rat) : Int := let e := log2Q q; if pow2 e = q then e else e + 1

/-- A scale in its form: 2^⌈log2⌉ under POW2, else rounded to FP32. -/
def scaleForm (p2 : Bool) (q : Rat) : Val := if p2 then .fin (pow2 (clog2Q q)) else (Val.fin q).toFP32

/-- The scale, zero point and degeneracy of one channel (R168 to R170). -/
def qscale (f : Nat) (asym p2 : Bool) (kk : Nat) (lo hi : Val) : Val × Int × Bool :=
  match lo, hi with
  | .fin l0, .fin h0 =>
    if asym then
      let l := min l0 h0
      let h := max l0 h0
      let qmin := (intRange f).1
      let qmax := (intRange f).2
      if l = h then
        if l = 0 then (.fin 1, 0, true)
        else if f = fUINT8 then ((Val.fin (l / 255)).toFP32, 0, true)
        else ((Val.fin (absQ l / (qmax : Rat))).toFP32, 0, true)
      else
        let sc := scaleForm p2 ((h - l) / ((qmax - qmin : Int) : Rat))
        let z := match (Val.fin l).div sc with
          | .fin q => max qmin (min qmax (qmin - rneQ q))
          | _ => 0
        (sc, z, false)
    else
      let amax := max (absQ l0) (absQ h0)
      if amax = 0 then (.fin 1, 0, true) else (scaleForm p2 (amax * pow2 (-(kk : Int)) / scaleQ f), 0, false)
  | .poison, _ => (.poison, 0, false)
  | _, .poison => (.poison, 0, false)
  | _, _ => (.fin 1, 0, true)

/-- QSCALE's work. -/
def qscaleEff (s : State) (k n : Nat) (c : Core) (f : Flight) : Except Trap Eff := do
  let d ← needDesc f.d
  let a ← needDesc f.a
  let imm := f.q.w.imm.toNat
  let tf := bits imm 3 0
  let asym := bit imm 5
  let ch := nth a.sizes 1 1
  need (ownBase d && ownBase a && a.code == fFP32 && a.rank == 2 && nth a.sizes 0 1 == 2
    && d.code == fFP32 && d.rank == 1 && count d == ch)
  need (!bit imm 4 && (c.level != 2 || decide (3 ≤ tf)) && decide (tf ≤ fUINT8) && tf != fW40 && bits imm 31 9 == 0
    && (!asym || (tf == fINT4 || tf == fINT8 || tf == fUINT8)))
  need (match f.x with
    | some x => ownBase x && x.code == fINT32 && x.rank == 1 && count x == ch
    | none => !asym)
  let vs ← readVals s k n a
  let rs := (List.range ch).map (fun i =>
    qscale tf asym (bit imm 6) (bits imm 8 7) (nth vs (2 * i) .nan) (nth vs (2 * i + 1) .nan))
  let ds ← finishLanes s k n d (rs.map (fun r => Lane.of r.1)) false
  let zs ← (match f.x with
    | some x => finishLanes s k n x (rs.map (fun r => Lane.of (if r.1 = .poison then .poison else .fin (r.2.1 : Rat)))) false
    | none => .ok {})
  let deg := (rs.filter (fun r => r.2.2)).length
  let ev : List HeldObs := if deg = 0 then [] else [.event 0x0103 (p4 d.tensorId ++ p4 deg ++ p4 c.stepNo.toNat)]
  .ok { src := 1, slots := ds.slots ++ zs.slots, obs := ds.obs ++ zs.obs ++ ev, ws := ds.ws ++ zs.ws
        tally := { sat := ds.tally.sat + zs.tally.sat, under := ds.tally.under + zs.tally.under
                   nan := ds.tally.nan + zs.tally.nan, zero := ds.tally.zero + zs.tally.zero } }

/-! ## TOPK (R203) -/

/-- Whether candidate `a` ranks before `b`: NaN after every number, equal values lower index first. -/
def ranksBefore (smallest : Bool) (a b : Val × Nat) : Bool :=
  match a.1, b.1 with
  | .nan, .nan => decide (a.2 < b.2)
  | .nan, _ => false
  | _, .nan => true
  | x, y => if x.eq y then decide (a.2 < b.2) else if smallest then x.lt y else y.lt x

/-- A candidate put into a ranked list. -/
def rankIn (sm : Bool) (l : List (Val × Nat)) (c : Val × Nat) : List (Val × Nat) :=
  match l with
  | [] => [c]
  | h :: t => if ranksBefore sm c h then c :: h :: t else h :: rankIn sm t c

/-- TOPK's work. -/
def topkEff (s : State) (k n : Nat) (f : Flight) : Except Trap Eff := do
  let sub := f.q.w.sub.toNat
  let kk := bits sub 11 8 + 1
  let d ← needDesc f.d
  let a ← needDesc f.a
  let nn := nth a.sizes 0 1
  let rows := count a / nn
  need (bits sub 6 0 == 0 && ownBase d && ownBase a && [fFP32, fBF16, fFP16, fE4M3, fE5M2, fE2M3, fE3M2].elem a.code)
  need (d.code == fFP32 && d.rank == 3 && d.scaleKind == 0 && nth d.sizes 0 1 == 2 && nth d.sizes 1 1 == kk
    && nth d.sizes 2 1 == rows && decide (nn ≤ 4096) && decide (kk ≤ nn))
  let vs ← readVals s k n a
  let cs := (rowsOf nn vs).flatMap (fun row =>
    if row.any (· == .poison) then List.replicate (2 * kk) (⟨nanCode fFP32, .none, false, true⟩ : Conv)
    else ((row.zipIdx.foldl (rankIn (bit sub 7)) []).take kk).flatMap (fun p =>
      let c := toD fFP32 p.1
      [{ c with latch := false, cls := if c.cls = .sat then .sat else .none }, plainConv fFP32 (.fin (p.2 : Rat))]))
  let es := cs.map (fun c => (⟨c.code, c.poi⟩ : OutEl))
  let ob ← watchObs s k n d (es.zipIdx.map (fun p => (p.2, p.1)))
  .ok { src := 1, tally := tally cs, slots := [d.slot], obs := ob, ws := tensorWrs d es }

/-! ## VOP -/

/-- VOP's work by FN; a reserved FN is unpredictable (R194). -/
def vopEff (s : State) (k n : Nat) (c : Core) (f : Flight) : Except Trap Eff := do
  let sub := f.q.w.sub.toNat
  let fn := bits sub 11 4
  need (bits sub 3 0 == 0)
  if fn ≤ 0x07 ∨ (0x10 ≤ fn ∧ fn ≤ 0x1A) ∨ (0x20 ≤ fn ∧ fn ≤ 0x25) ∨ (0x60 ≤ fn ∧ fn ≤ 0x62) then elementwise s k n fn f
  else if (0x30 ≤ fn ∧ fn ≤ 0x34) ∨ fn = 0x38 ∨ fn = 0x39 then reduction s k n fn f
  else if fn = 0x40 then gatherEff s k n f
  else if fn = 0x41 ∨ fn = 0x42 then scatterEff s k n fn f
  else if fn = 0x48 then randEff s k n f
  else if fn = 0x50 then qscaleEff s k n c f
  else .error (.unpred .reservedField)

end Sys2Proof.Machine
end

