-- ==== Sys2Proof/Machine/Convert.lean ====
section
/-! DEFINITION. CVT and STAT: conversion, statistics records, the candidate-scale search and the
threshold tests (R148 to R155, R161 to R166). -/

namespace Sys2Proof.Machine

/-- What a conversion found out about its source (R161). -/
structure Stats where
  elements : Nat
  amax     : Nat
  sat      : Nat
  under    : Nat
  zeros    : Nat
  nans     : Nat
  poisoned : Nat
  infSeen  : Bool
  deriving DecidableEq, Repr

/-- The counts of source values and of the conversions made of them. -/
def statsOf (vs : List Val) (t : Tally) : Stats :=
  let amax := vs.foldl (fun m v => match v with | .fin q => max m (absQ q) | _ => m) 0
  { elements := (vs.filter (fun v => v != .poison)).length
    amax := (toD fFP32 (.fin amax)).code
    sat := t.sat, under := t.under, zeros := t.zero, nans := t.nan
    poisoned := (vs.filter (fun v => v == .poison)).length
    infSeen := vs.any (fun v => v == .inf true || v == .inf false) }

/-- The candidate search (R163): the four errors and BEST_K, where it is made. -/
def mseSearch (tf : Nat) (mx : Bool) (ref : Val) (vs : List Val) : Option (List Nat × Nat) :=
  let fs := vs.filterMap (fun v => match v with | .fin q => some q | _ => none)
  match ref with
  | .fin r =>
    if r ≤ 0 ∨ mx ∨ fs = [] then none
    else
      let es := (List.range 4).map (fun (kk : Nat) =>
        let sk := r * pow2 (-(kk : Int))
        let terms := fs.map (fun q =>
          let c := convElem tf false false (.fin (q / sk))
          let e := (Val.fin q).add ((Val.fin sk).mul (decodeElem tf false c.code)).neg
          let e32 := e.toFP32
          (e32.mul e32).toFP32)
        ((sumW40 terms).div (.fin ((fs.length : Nat) : Rat))).toFP32)
      let best := (List.range 4).foldl (fun b i => if (nth es i .nan).lt (nth es b .nan) then i else b) 0
      some (es.map (fun e => (toD fFP32 e).code), best)
  | _ => none

/-- A 32-bit count that saturates. -/
def cap32 (n : Nat) : Nat := min n 0xFFFF_FFFF

/-- The 64 bytes of a record (R161). -/
def statRecBytes (st : Stats) (mse : Option (List Nat × Nat)) (ref target : Nat) (replay latch : Bool) (tensor step : Nat) : List Byte :=
  let es := match mse with | some m => m.1 | none => [0, 0, 0, 0]
  let flags := 1 + (match mse with | some m => 2 + 4 * m.2 | none => 0) + (if st.infSeen then 16 else 0)
    + (if replay then 32 else 0) + (if latch then 64 else 0)
  p8 st.elements ++ p4 st.amax ++ p4 (cap32 st.sat) ++ p4 (cap32 st.under) ++ p4 (cap32 st.zeros) ++ p4 (cap32 st.nans)
    ++ p4 (cap32 st.poisoned) ++ es.flatMap p4 ++ p4 ref ++ leBytes 1 target ++ leBytes 1 flags ++ leBytes 2 0
    ++ leBytes 3 tensor ++ leBytes 1 0 ++ p4 step

/-- The events of the threshold tests (R166). -/
def thresholds (p : NumericPolicy) (st : Stats) (tensor step : Nat) : List HeldObs :=
  let pay := fun n => p4 tensor ++ p4 (cap32 n) ++ p4 (st.elements % 2 ^ 32) ++ p4 step
  if st.elements < 2 ^ p.minLog2 then []
  else
    (if st.elements < st.sat * 2 ^ p.satLog2 then [.event 0x0101 (pay st.sat)] else [])
      ++ (if st.elements < st.under * 2 ^ p.underLog2 then [.event 0x0102 (pay st.under)] else [])

/-- CVT's conversions and block scales: D's scale divides each value (R148, R154). -/
def cvtConv (d : Desc) (strict rtz : Bool) (vs : List Val) : List Conv × List Nat :=
  if d.scaleKind = 3 then
    let bs := (List.range (vs.length / 32)).map (fun i => mxBlock d.code strict rtz ((vs.drop (32 * i)).take 32))
    (bs.flatMap (fun b => b.2), bs.map (fun b => b.1))
  else (vs.zipIdx.map (fun p => convElem d.code strict rtz (if d.scaleKind = 0 then p.1 else p.1.div (scaleOf d p.2))), [])

/-- The address of a statistics record (R162): a register operand aligned to 64. -/
def recordVa (o : Opnd) : Except Trap Nat :=
  if o.isReg ∧ o.val % 64 = 0 then .ok o.val else .error (.unpred .malformed)

/-- CVT's work. -/
def cvtEff (s : State) (k n : Nat) (c : Core) (f : Flight) : Except Trap Eff := do
  let sub := f.q.w.sub.toNat
  let d ← needDesc f.d
  let a ← needDesc f.a
  need (bits sub 7 0 == 0 && ownBase d && ownBase a && dims d == dims a)
  let vs ← readVals s k n a
  let r := cvtConv d (bit sub 11) (bit sub 10) vs
  let t := tally r.1
  let st := statsOf vs t
  let es := r.1.map (fun c => (⟨c.code, c.poi⟩ : OutEl))
  let ob ← watchObs s k n d (es.zipIdx.map (fun p => (p.2, p.1)))
  let ref := if d.scaleKind = 1 then (nth d.scales 0 (some 0)).getD 0 else 0
  let mse := if bit sub 8 ∧ d.scaleKind = 1 then mseSearch d.code d.mx (scaleOf d 0) vs else none
  let rec' ← (if bit sub 9 then do
      let va ← recordVa f.q.ox
      .ok [(⟨va, statRecBytes st mse ref (d.code + if d.mx then 16 else 0) (c.pass == 2) (decide (t.latch ≠ 0)) a.tensorId c.stepNo.toNat, false⟩ : Wr)]
    else .ok [])
  .ok { src := 0, tally := t, cause := if t.latch = 0 then 0 else causeCvt, slots := [d.slot]
        obs := ob ++ thresholds (ctxOf s k).policy st a.tensorId c.stepNo.toNat
        ws := tensorWrs d es ++ scaleWrs d r.2 ++ rec' }

/-- The element codes a statistics target may name. -/
def targetOk (tf : Nat) (mx : Bool) : Bool := if mx then [0, 1, 2, 3, 4, 10].elem tf else decide (tf ≤ 12)

/-- STAT's work: the record it read at its start stands in `extra`. -/
def statEff (s : State) (k n : Nat) (c : Core) (f : Flight) : Except Trap Eff := do
  let sub := f.q.w.sub.toNat
  let a ← needDesc f.a
  let va ← recordVa f.q.ox
  let w6 := (nth f.extra 6 0).toNat
  let tf := bits w6 35 32
  let mx := bit w6 36
  let ref := w6 % 2 ^ 32
  need (bits sub 10 0 == 0 && ownBase a && targetOk tf mx && (c.level != 2 || (!mx && decide (3 ≤ tf))) && (!mx || nth a.sizes 0 1 % 32 == 0))
  let vs ← readVals s k n a
  let rv := decodeFloat fFP32 ref
  let good := match rv with | .fin q => decide (0 < q) | _ => false
  let cs : List Conv :=
    if mx then (List.range (vs.length / 32)).flatMap (fun i => (mxBlock tf false false ((vs.drop (32 * i)).take 32)).2)
    else vs.map (fun v => convElem tf false false (v.div rv))
  let t0 := tally cs
  let t := if mx ∨ good = true then t0 else { t0 with sat := 0, under := 0 }
  let st := statsOf vs t
  let mse := if bit sub 11 then mseSearch tf mx rv vs else none
  .ok { src := 0
        obs := thresholds (ctxOf s k).policy st a.tensorId c.stepNo.toNat
        ws := [⟨va, statRecBytes st mse ref (bits w6 39 32) (c.pass == 2) false a.tensorId c.stepNo.toNat, false⟩] }

end Sys2Proof.Machine
end

