-- ==== Sys2Proof/Machine/Issue.lean ====
section
/-! DEFINITION. How a sequencer issues an instruction: the code fetch (R38), breakpoints (R437,
R438), the predicate (R52), holds (R53, R56, R57, R63, R64), decode faults (R50) and what a trap of
the sequencer does (R66). -/

namespace Sys2Proof.Machine

/-! ## Breakpoints and halts (R437, R438) -/

/-- Every core of context `k` stopped for debug, because of core `n`; while a halt is under way a
second match is only recorded. -/
def haltCores (s : State) (k n cause : Nat) : State :=
  let x := ctxOf s k
  if x.haltReq = 0 then
    let s1 := mapCores (watchTick s k) k (fun _ c => { c with halted := true, oneStep := false })
    let s2 := setCore s1 k n { coreOf s1 k n with haltCause := cause }
    setCtx s2 k { ctxOf s2 k with haltReq := cause }
  else
    let c := coreOf s k n
    setCore s k n { c with secondHit := true, haltCause := if c.haltCause = 0 then cause else c.haltCause }

/-- Whether an enabled address breakpoint stands at the instruction to issue. -/
def addrBp (c : Core) : Bool :=
  !c.skipBp && (List.range 8).any (fun i =>
    let b := look c.bps {} i
    b.enable && decide (b.addr = c.pc.toNat))

/-- Whether an enabled data breakpoint watches a grain of an access. -/
def dataBp (c : Core) (va len : Nat) (wr : Bool) : Bool :=
  decide (0 < len) && (List.range 4).any (fun i =>
    let b := look c.bps {} (8 + i)
    let size := 2 ^ b.lenLog2
    let lo := va / 64 * 64
    b.enable && (if wr then b.access / 2 % 2 == 1 else b.access % 2 == 1)
      && overlaps lo ((va + len - 1) / 64 * 64 + 64 - lo) (b.addr / size * size) size)

/-- The accesses of core `n` made: what they meet and cost, and its data breakpoints. -/
def touchData (s : State) (k n : Nat) (as : List (Nat × Nat × Bool)) : State :=
  let t := account s k n as
  if as.any (fun a => dataBp (coreOf s k n) a.1 a.2.1 a.2.2) then haltCores t k n 2 else t

/-! ## Issue -/

/-- The code fetch of an instruction of `len` bytes (R38). -/
def fetchOk (s : State) (k n pc len : Nat) : Except Trap Unit := do
  let _ ← translate s k n pc .fetch
  let _ ← translate s k n (pc + len - 8) .fetch
  .ok ()

/-- A core past its instruction of `len` bytes. -/
def adv (c : Core) (len : Nat) : Core :=
  { c with pc := c.pc + BitVec.ofNat 64 len, held := none, skipBp := false }

/-- A core held before its instruction: nothing of it happens, and the time its wait began stands. -/
def hold (s : State) (k n : Nat) (h : Held) : State :=
  let c := coreOf s k n
  if c.held = some h then s else setCore s k n { c with held := some h, heldSince := s.clock.ns }

/-- The core after a command of DEBUG_STEP issued its one instruction (R439). -/
def stepped (s : State) (k n : Nat) : State :=
  let c := coreOf s k n
  if c.oneStep ∧ (c.held = none ∨ c.held = some .stepHold) then
    haltCores (setCore s k n { c with oneStep := false }) k n 4
  else s

/-- What a trap of the sequencer does: the event, and no further issue by the core (R50, R66); an instruction
whose result is unpredictable leaves what that result leaves (R67). -/
def seqTrap (s : State) (k n opc : Nat) (t : Trap) : Out :=
  match t, trapNow s k n opc t with
  | .unpred _, o => o
  | _, .next s' => .next (setCore s' k n { coreOf s' k n with faulted := true })
  | _, o => o

/-- The issue of one instruction of `len` bytes by logical core `n`, whose effect under a true
predicate is `body`. A core that cannot issue leaves the state as it is. -/
def issue (s : State) (n len opc : Nat) (pred : BitVec 4) (neg : Bool)
    (body : Nat → Core → Except Trap State) : Out :=
  match coreIssues s n with
  | none => .next s
  | some (k, c) =>
    match fetchOk s k n c.pc.toNat len with
    | .error t => seqTrap s k n opc t
    | .ok _ =>
      if addrBp c then .next (haltCores s k n 1)
      else if predTrue c pred neg then
        match body k c with
        | .error t => seqTrap s k n opc t
        | .ok s' => .next (stepped s' k n)
      else .next (stepped (setCore s k n (adv c len)) k n)

/-- The issue of a control instruction (R43). -/
def issueC (s : State) (n opc : Nat) (w : CWord) (body : Nat → Core → Except Trap State) : Out :=
  issue s n 8 opc w.pred w.pneg body

/-- The issue of a control instruction that changes its core only: none stands for a reserved
FUNC or a nonzero reserved field. -/
def issueCore (s : State) (n opc : Nat) (w : CWord) (f : Nat → Core → Option Core) : Out :=
  issueC s n opc w (fun k c =>
    match f k c with
    | some c' => .ok (setCore s k n (adv c' 8))
    | none => .error (.unpred .reservedField))

/-- The event of a decode fault (R50, R384): the opcode is met before the predicate is looked at. -/
def decodeFault (s : State) (k n code : Nat) (opc : BitVec 8) : State :=
  let c := coreOf s k n
  let s1 := raise s code clsJ k (unitCore n) (p4 n ++ p8 c.pc.toNat ++ p4 opc.toNat)
  setCore s1 k n { coreOf s1 k n with faulted := true }

/-- A decode fault of the instruction at PC, met where the instruction would issue. -/
def issueFault (s : State) (n code : Nat) (opc : BitVec 8) : Out :=
  match coreIssues s n with
  | none => .next s
  | some (k, c) =>
    match fetchOk s k n c.pc.toNat 8 with
    | .error t => seqTrap s k n opc.toNat t
    | .ok _ => if addrBp c then .next (haltCores s k n 1) else .next (decodeFault s k n code opc)

/-- An instruction that level-2 programs do not have (R41): ILLEGAL_OPCODE on them. -/
def level3 (s : State) (n opc : Nat) (o : Out) : Out :=
  match coreIssues s n with
  | some (_, c) => if c.level = 2 then issueFault s n 0x0208 (BitVec.ofNat 8 opc) else o
  | none => o

end Sys2Proof.Machine
end

