-- ==== Sys2Proof/Machine/Path.lean ====
section
/-! DEFINITION. Where a burst goes: the units of R91, the mesh of a base die and what its routers attach
(R252), the dies and joins between them (R254), and the credits of the buffers on the way (R90). -/

namespace Sys2Proof.Machine

/-! ## Units (R91) -/

/-- The unit a physical address lies in: an HBM stack, a Thatch slice or a scratchpad. -/
def unitNo (a : Nat) : Nat :=
  if a < Config.thatchDpa then a / Config.stackBytes
  else if a < Config.scratchDpa then 0x2000 + sliceOf a
  else 0x1000 + (a - Config.scratchDpa) / Config.scratchBytes

/-- The unit behind a virtual address; 0xFFFF where it leads nowhere. -/
def unitVa (s : State) (k n va : Nat) (a : Acc) : Nat :=
  match translate s k n va a with
  | .ok (.mem d) => unitNo d
  | _ => 0xFFFF

/-- The die of a unit: base dies 0 to 3. -/
def dieOfUnit (u : Nat) : Nat :=
  if u < 8 then u / 2 else if u < 0x2000 then (u - 0x1000) / 84 else (u - 0x2000) / 44 % 4

/-! ## The mesh of a base die (R252) -/

/-- What router `i` of the quadrant of local bay `q` attaches: a Thatch slice of the die, the bond port of a
run of the bay's core slots, an HBM controller, the truss unit, or the TLB and walkers. -/
inductive Attach where
  | slice (i : Nat)
  | bond (bay first last : Nat)
  | hbm (stack : Nat)
  | truss
  | walkers
  deriving DecidableEq, Repr

/-- The attachment of router `i`, 0 to 15, in quadrant `q` of base die `n`. -/
def attachment (n q i : Nat) : Attach :=
  if i < 11 then .slice (11 * q + i)
  else if i < 15 then .bond q (nth [0, 6, 11, 16] (i - 11) 0) (nth [5, 10, 15, 20] (i - 11) 0)
  else nth [.hbm (2 * n), .hbm (2 * n + 1), .truss, .walkers] q .walkers

/-- The coordinate of router `i` in quadrant `q`: x, then y. -/
def routerXY (q i : Nat) : Nat × Nat := (4 * (q % 2) + i % 4, 4 * (q / 2) + i / 4)

/-- A router coordinate as DEST_TILE and SRC_TILE hold it (R243). -/
def tileNo (p : Nat × Nat) : Nat := 8 * (p.1 % 8) + p.2 % 8

/-- The quadrant and router of a unit within its die. -/
def routerOfUnit (u : Nat) : Nat × Nat :=
  if u < 8 then (u % 2, 15)
  else if u < 0x2000 then
    let slot := (u - 0x1000) % 21
    ((u - 0x1000) / 21 % 4, 11 + (if slot ≤ 5 then 0 else if slot ≤ 10 then 1 else if slot ≤ 15 then 2 else 3))
  else ((u - 0x2000) % 44 / 11, (u - 0x2000) % 11)

/-- The router coordinate of a unit. -/
def unitXY (u : Nat) : Nat × Nat := routerXY (routerOfUnit u).1 (routerOfUnit u).2

/-- The edge router a join attaches to on a base die; the control die's join at (0, 7). -/
def joinXY (j die : Nat) : Nat × Nat :=
  if 12 ≤ j then (0, 7) else (Config.edgeRouter j die / 8 % 8, Config.edgeRouter j die % 8)

/-- The coordinates from one to another along a line, the first left out. -/
def walk (a b : Nat) : List Nat :=
  if a ≤ b then (List.range (b - a)).map (fun i => a + 1 + i) else (List.range (a - b)).map (fun i => a - 1 - i)

/-- The routers a flit passes within a die: X first, then Y (R254). -/
def meshRoute (a b : Nat × Nat) : List (Nat × Nat) :=
  a :: (walk a.1 b.1).map (fun x => (x, a.2)) ++ (walk a.2 b.2).map (fun y => (b.1, y))

/-! ## Dies and joins (R254) -/

/-- The fixed table of R254: the next die from a die toward another, by the burst's TAG between the network
dies. -/
def nextDie0 (a b tag : Nat) : Nat :=
  if (a = 0 ∧ b = 3) ∨ (a = 3 ∧ b = 0) then 1
  else if (a = 1 ∧ b = 2) ∨ (a = 2 ∧ b = 1) then 0
  else if (a = 4 ∧ b = 5) ∨ (a = 5 ∧ b = 4) then tag % 4
  else if 4 ≤ a ∧ 4 ≤ b ∧ a ≠ b then 0
  else b

/-- The next die, where firmware has rewritten it too. -/
def nextDie (ch : Chain) (a b tag : Nat) : Nat := look ch.routes (nextDie0 a b tag) (8 * a + b)

/-- The join of two adjacent dies, numbered as UNIT kind 4 (R381): 4 and 5 are the network dies, 6 the
control die. -/
def joinOf (a b : Nat) : Nat :=
  let x := min a b
  let y := max a b
  if y < 4 then (if x = 0 then (if y = 1 then 0 else 3) else if x = 1 then 1 else 2)
  else if y < 6 then 4 + 4 * (y - 4) + x
  else 12 + x

/-- Whether going from `a` to `b` is the direction from the die the join names first. -/
def joinUp (a b : Nat) : Bool :=
  (a == 0 && b == 1) || (a == 1 && b == 3) || (a == 3 && b == 2) || (a == 2 && b == 0) || (decide (a < 4) && decide (4 ≤ b))

/-- The hops of a path: the die left, the die entered. -/
def pathHops (fuel : Nat) (ch : Chain) (a b tag : Nat) : List (Nat × Nat) :=
  match fuel with
  | 0 => []
  | f + 1 => if a = b then [] else (a, nextDie ch a b tag) :: pathHops f ch (nextDie ch a b tag) b tag

/-- The groups of a join. -/
def groupsOf (j : Nat) : Nat := if j < 4 then 16 else if j < 12 then 5 else 1

/-- The groups of a join still in use. -/
def liveGroups (ch : Chain) (j : Nat) : List Nat := (List.range (groupsOf j)).filter (fun g => !ch.removed.elem (16 * j + g))

/-! ## Buffers and their credits (R90) -/

/-- A buffer on a burst's path: the read port of its source unit, a router of a die, a lane group of a join in
a direction, and the write port of its destination unit. -/
inductive Buf where
  | readPort (unit : Nat)
  | router (die tile : Nat)
  | group (g : Nat) (up : Bool)
  | writePort (unit : Nat)
  deriving DecidableEq, Repr

/-- The kind of a buffer. -/
def Buf.kind : Buf → Nat
  | .readPort _ => 0 | .router _ _ => 1 | .group _ _ => 2 | .writePort _ => 3

/-- The number of a buffer within its kind. -/
def Buf.index : Buf → Nat
  | .readPort u => u | .router d t => 64 * d + t | .group g up => 2 * g + b1 up | .writePort u => u

/-- The key of the credits of a class in a buffer. -/
def creditKey (b : Buf) (cls : Nat) : Nat := 8 * (4 * b.index + b.kind) + cls

/-- The credit classes of R90, as R243 numbers them. -/
abbrev crDemand : Nat := 0
abbrev crCollective : Nat := 1
abbrev crPrefetch : Nat := 2
abbrev crMirror : Nat := 3
abbrev crSpar : Nat := 4
abbrev crService : Nat := 5

/-- The lane group a burst with a TAG takes over a join; the spec names no choice of the group. -/
def groupFor (ch : Chain) (j tag : Nat) : Nat :=
  let l := liveGroups ch j
  nth l (Config.groupChoice tag % max 1 l.length) 0

/-- The lane groups of a path, each with its direction. -/
def pathGroups (ch : Chain) (hops : List (Nat × Nat)) (tag : Nat) : List (Nat × Bool) :=
  hops.map (fun h => (16 * joinOf h.1 h.2 + groupFor ch (joinOf h.1 h.2) tag, joinUp h.1 h.2))

/-- The routers of a path, die by die: from the source's router to the join, between joins, and from the last
join to the destination's router. A network die and the control die hold no mesh. -/
def pathRouters (hops : List (Nat × Nat)) (at' : Nat × Nat) (die : Nat) (dst : Nat × Nat) : List Buf :=
  match hops with
  | [] => (meshRoute at' dst).map (fun p => .router die (tileNo p))
  | h :: t =>
    (if h.1 < 4 then (meshRoute at' (joinXY (joinOf h.1 h.2) h.1)).map (fun p => Buf.router h.1 (tileNo p)) else [])
      ++ pathRouters t (joinXY (joinOf h.1 h.2) h.2) h.2 dst

/-- Every buffer on the path of a burst from one unit to another. -/
def pathBufs (ch : Chain) (src dst tag : Nat) : List Buf :=
  let hops := pathHops 4 ch (dieOfUnit src) (dieOfUnit dst) tag
  [.readPort src] ++ pathRouters hops (unitXY src) (dieOfUnit src) (unitXY dst)
    ++ (pathGroups ch hops tag).map (fun g => .group g.1 g.2) ++ [.writePort dst]

/-- Whether every buffer has a credit of the class left; each holds at least one for every class. -/
def hasCredits (ch : Chain) (bs : List Buf) (cls : Nat) : Bool :=
  bs.all (fun b => decide (look ch.credits 0 (creditKey b cls) < Config.credits b.kind cls + 1))

/-- Whether a buffer gives its credit back only over the Chain. -/
def Buf.onChain : Buf → Bool
  | .group _ _ => true
  | _ => false

/-- The credits of a burst acquired, all at once; when it has landed, those of the dies' own buffers are given
back, and those of lane groups stand until a flit returns them. -/
def takeCredits (ch : Chain) (bs : List Buf) (cls : Nat) : Chain :=
  { ch with credits := (bs.filter Buf.onChain).foldl (fun t b => put t (creditKey b cls) (look t 0 (creditKey b cls) + 1)) ch.credits }

/-- The buffers between core `n`'s scratchpad and the units its accesses reach. -/
def accessBufs (s : State) (n : Nat) (ts : List Touch) (tag : Nat) : List Buf :=
  let me := 0x1000 + physOf s.place n
  let us := ts.foldl (fun (l : List (Nat × Bool)) t =>
    let u := (unitNo t.dpa, t.wr)
    if u.1 = me ∨ l.elem u = true then l else l ++ [u]) []
  us.flatMap (fun u => if u.2 then pathBufs s.chain me u.1 tag else pathBufs s.chain u.1 me tag)

end Sys2Proof.Machine
end

