-- ==== Sys2Proof/Machine/Update.lean ====
section
/-! DEFINITION. UPD: the update forms, stochastic rounding, compensated pairs and row-sparse updates
(R208 to R214). -/

namespace Sys2Proof.Machine

/-- The hyperparameter block (R208). -/
structure Hyper where
  lr      : Val
  beta1   : Val
  beta2   : Val
  eps     : Val
  wd      : Val
  gscale  : Val
  stepT   : Nat
  bias    : Bool
  rowStep : Nat
  seed    : Nat
  deriving DecidableEq, Repr

/-- The block from the words captured at the instruction's start. -/
def hyperOf (w : List Word) : Hyper :=
  let lo := fun i => decodeFloat fFP32 ((nth w i 0).toNat % 2 ^ 32)
  let hi := fun i => decodeFloat fFP32 ((nth w i 0).toNat / 2 ^ 32)
  { lr := lo 0, beta1 := hi 0, beta2 := lo 1, eps := hi 1, wd := lo 2, gscale := hi 2
    stepT := (nth w 3 0).toNat % 2 ^ 32, bias := (nth w 3 0).getLsbD 32
    rowStep := (nth w 5 0).toNat, seed := (nth w 6 0).toNat }

/-- Reserved FLAGS bits of the block. -/
def hyperOk (w : List Word) : Bool := (nth w 3 0).toNat / 2 ^ 33 == 0

/-- The states a form has (R209). -/
def formStates (form : Nat) : Nat := nth [0, 1, 1, 2, 1, 1, 0, 0] form 0

/-- 1 − β^t as 1 − EXP2(t × LOG2 β), or 1 without BIAS_CORR (R209). -/
def biasOf (h : Hyper) (beta : Val) (t : Nat) : Lane :=
  if h.bias then (Lane.of (.fin 1)).sub (Lane.tr 0x10 ((Lane.of (.fin (t : Rat))).mul (Lane.tr 0x11 (Lane.of beta))))
  else Lane.of (.fin 1)

/-- The sign of a value, sign(0) = 0. -/
def signV (v : Val) : Val :=
  match v with
  | .fin q => .fin (if q < 0 then -1 else if q = 0 then 0 else 1)
  | .inf n => .fin (if n then -1 else 1)
  | v => v

/-- An exact multiply-add β·s + γ·x. -/
def mix (b s g x : Val) : Val := (b.mul s).add (g.mul x)

/-- 1 − β formed exactly. -/
def oneMinus (b : Val) : Val := (Val.fin 1).add b.neg

/-- The exact new parameter and states of one element (R209, R210): p, the first and the second
state, and g, at update count t. -/
def updForm (form : Nat) (h : Hyper) (t : Nat) (p lo m v a : Val) : Val × Val × Val :=
  let g := (lane1 false 0 0 (h.gscale.mul a)).v
  let base := p.add lo
  let lp := (Lane.of h.wd).mul (Lane.of base)
  let g2 := (lane1 false 0 0 (g.mul g)).v
  let step := fun (u : Lane) => base.add (h.lr.mul u.v).neg
  match form with
  | 0 => (step ((Lane.of g).add lp), m, v)
  | 1 =>
    let m' := mix h.beta1 m (.fin 1) g
    (step ((Lane.of m'.toFP32).add lp), m', v)
  | 2 =>
    let m' := mix h.beta1 m (.fin 1) g
    (step (((Lane.of g).add ((Lane.of h.beta1).mul (Lane.of m'.toFP32))).add lp), m', v)
  | 3 =>
    let m' := mix h.beta1 m (oneMinus h.beta1) g
    let v' := mix h.beta2 v (oneMinus h.beta2) g2
    let num := (Lane.of m'.toFP32).div (biasOf h h.beta1 t)
    let den := (Lane.tr 0x16 ((Lane.of v'.toFP32).div (biasOf h h.beta2 t))).add (Lane.of h.eps)
    (step ((num.div den).add lp), m', v')
  | 4 =>
    let v' := m.add g2
    let den := (Lane.tr 0x16 (Lane.of v'.toFP32)).add (Lane.of h.eps)
    (step ((Lane.of g).div den), v', v)
  | 5 =>
    let c := ((Lane.of h.beta1).mul (Lane.of m)).add (((Lane.of (.fin 1)).sub (Lane.of h.beta1)).mul (Lane.of g))
    (step ((Lane.of (signV c.v)).add lp), mix h.beta2 m (oneMinus h.beta2) g, v)
  | 6 => (base.add (h.lr.mul g), m, v)
  | _ => (mix h.beta1 base (oneMinus h.beta1) g, m, v)

/-- A value stored (R210, R212): stochastically with 16 random bits, or to nearest even; subnormals
kept, the largest finite value beyond the range. -/
def storeVal (f : Nat) (rne : Bool) (r : Nat) (v : Val) : Conv :=
  match v with
  | .poison => ⟨nanCode f, .none, false, true⟩
  | .nan => ⟨nanCode f, .nan, false, false⟩
  | .inf n => ⟨infCode f n, .sat, false, false⟩
  | .fin q =>
    let res :=
      if rne then roundTo f false q
      else if q = 0 then 0
      else
        let sh := floatShape f
        let u := pow2 (max (log2Q (absQ q)) (1 - (sh.2.2 : Int)) - (sh.2.1 : Int))
        let z := ((absQ q / u).floor : Rat) * u
        let fr := ((absQ q - z) / u * 65536).floor.toNat
        let mag := if r < fr then z + u else z
        if q < 0 then -mag else mag
    if maxQ f < absQ res ∨ maxQ f < absQ q then ⟨satCode f (decide (q < 0)), .sat, false, false⟩
    else ⟨encodeExact f res, .none, false, false⟩

/-- The formats UPD stores and reads (R208). -/
def updFormats (d : Desc) (a : Desc) (sts : List Desc) (lo : Option Desc) : Bool :=
  let pf := fun (x : Desc) => (x.code == fFP32 || x.code == fBF16 || x.code == fFP16) && x.scaleKind == 0
  pf d && (match lo with | some x => pf x | none => true)
    && ([fFP32, fBF16, fFP16, fE4M3, fE5M2, fW40].elem a.code && !a.mx)
    && sts.all (fun x => (x.code == fFP32 || x.code == fBF16) && x.scaleKind == 0)

/-- One element's stores: its parameter, states and low part. -/
structure UpdEl where
  j  : Nat
  p  : Conv
  lo : Option Conv
  m  : Option Conv
  v  : Option Conv

/-- One element updated at count `t` (R209 to R214). -/
def updElem (s : State) (k n : Nat) (f : Flight) (h : Hyper) (d a : Desc) (j t : Nat) : Except Trap UpdEl := do
  let sub := f.q.w.sub.toNat
  let form := bits sub 11 8
  let comp := bit sub 7
  let get := fun (x : Option Desc) => match x with
    | none => Except.ok (Val.fin 0)
    | some x => do
      let c ← readCode s k n x j
      .ok (elemVal x j c)
  let p ← get (some d)
  let g ← get (some a)
  let m ← (if 1 ≤ formStates form then get f.b else .ok (.fin 0))
  let v ← (if formStates form = 2 then get f.x else .ok (.fin 0))
  let lo ← (if comp then get f.y else .ok (.fin 0))
  let w := philox h.seed j (j / 2 ^ 32 % 0x1_0000) d.tensorId t
  let rne := bit sub 6 || (coreOf s k n).level == 2
  let r := updForm form h t p lo m v g
  let poi := [p, g, m, v, lo].any (· == .poison)
  let mark := fun (c : Conv) => if poi then { c with poi := true, cls := .none } else c
  let hi := mark (storeVal d.code (rne || comp) (w.1 % 0x1_0000) r.1)
  let low := match f.y with
    | some y => if comp then some (mark (storeVal y.code true 0 (r.1.add (decodeFloat d.code hi.code).neg))) else none
    | none => none
  let sm := match f.b with
    | some b => if 1 ≤ formStates form then some (mark (storeVal b.code rne (w.1 / 0x1_0000) r.2.1)) else none
    | none => none
  let sv := match f.x with
    | some x => if formStates form = 2 then some (mark (storeVal x.code rne (w.2.1 % 0x1_0000) r.2.2)) else none
    | none => none
  .ok ⟨j, hi, low, sm, sv⟩

/-- A row's step count after this update, or the trap of a poisoned control read (R213, R479). -/
def rowCountOf (s : State) (k n : Nat) (h : Hyper) (r : Nat) : Except Trap Nat := do
  let bs ← controlRead s k n (h.rowStep + 4 * r) 4
  .ok (min (leNat bs + 1) 0xFFFF_FFFF)

/-- The rows UPD updates with their counts, and the traps of poisoned control reads: every row at
STEP_T for a dense tensor. -/
def updRows (s : State) (k n : Nat) (h : Hyper) (d : Desc) : Except Trap (List (Nat × Nat) × List Trap) :=
  (List.range (rowCount d)).foldlM (fun (acc : List (Nat × Nat) × List Trap) r =>
    match touchBit s k n d r with
    | .error (.consumed va) => .ok (acc.1, acc.2 ++ [.consumed va])
    | .error t => .error t
    | .ok false => .ok acc
    | .ok true => match rowCountOf s k n h r with
      | .error (.consumed va) => .ok (acc.1, acc.2 ++ [.consumed va])
      | .error t => .error t
      | .ok t => .ok (acc.1 ++ [(r, t)], acc.2)) ([], [])

/-- The touch bits of rows cleared by an atomic AND: one store a byte (R213). -/
def touchClears (s : State) (k n : Nat) (d : Desc) (rows : List Nat) : Except Trap (List Wr) := do
  let bs := rows.foldl (fun l r => addNat l (r / 8)) []
  bs.mapM (fun b => do
    let o ← readVa s k n (d.bitmap + b) 1
    let v := rows.foldl (fun v r => if r / 8 = b ∧ bit v (r % 8) then v - 2 ^ (r % 8) else v) (leNat o.1)
    .ok ⟨d.bitmap + b, leBytes 1 v, o.2⟩)

/-- The element of an output a conversion makes. -/
def Conv.el (c : Conv) : OutEl := ⟨c.code, c.poi⟩

/-- UPD's work. -/
def updEff (s : State) (k n : Nat) (f : Flight) : Except Trap Eff := do
  let sub := f.q.w.sub.toNat
  let form := bits sub 11 8
  let d ← needDesc f.d
  let a ← needDesc f.a
  let h := hyperOf f.extra
  let sts := (if 1 ≤ formStates form then [f.b] else []) ++ (if formStates form = 2 then [f.x] else [])
  need (decide (form ≤ 7) && bits sub 5 0 == 0 && hyperOk f.extra && sts.all (fun x => x.isSome) && (!bit sub 7 || f.y.isSome))
  let ls := sts.filterMap (fun x => x)
  let lo := if bit sub 7 then f.y else none
  let all := [d, a] ++ ls ++ lo.toList
  need (updFormats d a ls lo && all.all (fun x => ownBase x && dims x == dims d))
  let rows ← (if d.rowsp then updRows s k n h d else .ok ([], []))
  let js := if d.rowsp then rows.1.flatMap (fun r => (List.range (rowLen d)).map (fun i => (rowEl d r.1 i, r.2)))
    else (List.range (count d)).map (fun j => (j, h.stepT))
  let us ← js.mapM (fun p => updElem s k n f h d a p.1 p.2)
  let outs : List (Desc × List (Nat × Conv)) := [(d, us.map (fun u => (u.j, u.p)))]
    ++ (match lo with | some x => [(x, us.filterMap (fun u => u.lo.map (fun c => (u.j, c))))] | none => [])
    ++ (match f.b with | some x => [(x, us.filterMap (fun u => u.m.map (fun c => (u.j, c))))] | none => [])
    ++ (match f.x with | some x => [(x, us.filterMap (fun u => u.v.map (fun c => (u.j, c))))] | none => [])
  let obs ← outs.mapM (fun o => watchObs s k n o.1 (o.2.map (fun e => (e.1, e.2.el))))
  let clears ← (if d.rowsp then touchClears s k n d (rows.1.map (fun r => r.1)) else .ok [])
  .ok { src := 2
        tally := { tally (outs.flatMap (fun o => o.2.map (fun e => e.2))) with zero := 0, under := 0, latch := 0 }
        slots := [d.slot], obs := obs.flatten
        ws := outs.flatMap (fun o => o.2.map (fun e => elemWr o.1 e.1 e.2.el))
          ++ rows.1.map (fun r => ⟨h.rowStep + 4 * r.1, p4 r.2, false⟩) ++ clears
        traps := rows.2 }

end Sys2Proof.Machine
end

