-- ==== Sys2Proof/Machine/Engine.lean ====
section
/-! DEFINITION. The engines' queues (R53 to R56): issue of a tensor instruction into its queue, the
start of the instruction at a queue's head with what it captures (R54, R60 to R62), the wrapper in
which an engine does its work, and completion with its status entry and token (R54, R55, R94). -/

namespace Sys2Proof.Machine

/-! ## The instructions of the table (R47, R48) -/

/-- The major opcode. -/
def opcOf : TOp → Nat
  | .mma => 0x20 | .mmaLd => 0x21 | .mda => 0x22 | .mvm => 0x28 | .vop => 0x30 | .topk => 0x31
  | .norm => 0x32 | .softmax => 0x33 | .cvt => 0x34 | .stat => 0x35 | .upd => 0x36 | .xfer => 0x40
  | .fetch => 0x41 | .ridge => 0x42 | .spar => 0x43 | .yealm => 0x44 | .cancel => 0x45 | .fence => 0x46
  | .trussArrive => 0x50 | .trussWait => 0x51 | .trussArwt => 0x52
  | .coll k => 0x58 + k

/-- The engine whose queue takes it (R53). -/
def engOf : TOp → Engine
  | .mma | .mmaLd | .mda => .array
  | .mvm => .mv
  | .vop | .topk | .norm | .softmax | .cvt | .stat | .upd => .vector
  | .trussArrive | .trussWait | .trussArwt => .sync
  | _ => .stream

/-- The bits of SUB that R47 assigns. -/
def subMask : TOp → BitVec 12
  | .mma | .mda => 0xFFF
  | .mmaLd | .topk | .spar => 0xF80
  | .mvm => 0xFF1
  | .vop => 0xFF0
  | .norm | .fetch => 0xE00
  | .softmax | .xfer => 0xC00
  | .cvt => 0xF00
  | .stat => 0x800
  | .upd | .coll _ => 0xFC0
  | _ => 0

/-- The Replay column: whether it may execute inside a span. -/
def replayOk : TOp → Bool
  | .upd | .ridge | .spar | .yealm | .cancel | .trussArrive | .trussWait | .trussArwt | .coll _ => false
  | _ => true

/-- Whether a level-2 program has it (R41). -/
def atLevel2 : TOp → Bool
  | .mda | .yealm => false
  | _ => true

/-- Instructions of an engine that may be in flight at once (R53). -/
def inFlightMax : Engine → Nat
  | .stream => 64
  | .sync => 16
  | _ => 1

/-! ## Queues and flights -/

/-- The queue of an engine, oldest first. -/
def queueOf (c : Core) (e : Engine) : List QInstr := look c.queues [] (engCode e)

/-- The instructions of an engine that have started and not completed, in the order they started. -/
def flightsOf (c : Core) (e : Engine) : List Flight := look c.flights [] (engCode e)

/-- A queue replaced. -/
def setQueue (c : Core) (e : Engine) (l : List QInstr) : Core := { c with queues := put c.queues (engCode e) l }

/-- The flights of an engine replaced. -/
def setFlights (c : Core) (e : Engine) (l : List Flight) : Core := { c with flights := put c.flights (engCode e) l }

/-- A flight by its number. -/
def flightAt (c : Core) (e : Engine) (id : Nat) : Option Flight := (flightsOf c e).find? (fun f => f.id == id)

/-- A flight replaced in its place. -/
def putFlight (c : Core) (e : Engine) (f : Flight) : Core :=
  setFlights c e ((flightsOf c e).map (fun g => if g.id = f.id then f else g))

/-- A core's flight replaced in the state. -/
def setFlightS (s : State) (k n : Nat) (e : Engine) (f : Flight) : State := setCore s k n (putFlight (coreOf s k n) e f)

/-- Places in flight taken: listed fetches hold none (R95). -/
def inFlight (c : Core) (e : Engine) : Nat := ((flightsOf c e).filter (fun f => f.q.op != .fetch)).length

/-! ## Issue into a queue (R52, R53) -/

/-- The registers a SPAR carries: SUB[11:7] + 1 of them from the one OPA names, S31 followed by S0. -/
def sparRegs (c : Core) (w : TWord) : List Word :=
  (List.range (bits w.sub.toNat 11 7 + 1)).map (fun i => sreg c ((w.opa.toNat % 32 + i) % 32))

/-- The queue entry an instruction makes; none for a reserved field, SUB bit or operand kind, or a
wait on a reserved engine (R45 to R47, R67). -/
def mkEntry (c : Core) (op : TOp) (w : TWord) : Option QInstr :=
  match operand c w.opd, operand c w.opa, operand c w.opb, operand c w.opx with
  | some d, some a, some b, some x =>
    if w.rsv = 0 ∧ w.sub &&& ~~~(subMask op) = 0 ∧ waitsOk w = true then
      some { op := op, w := w, od := d, oa := a, ob := b, ox := x, pass := c.pass
             promote := c.pass == 2 && !c.spanRescale
             regs := match op with | .spar => sparRegs c w | _ => [] }
    else none
  | _, _, _, _ => none

/-- The group check of a collective, made at decode (R284): the group word must name a binding of the
context with its GGEN. -/
def groupOk (s : State) (k : Nat) (g : Nat) : Bool :=
  let b := look (ctxOf s k).groups {} (g % 0x1_0000)
  b.bound && b.ggen == g / 0x1_0000 % 0x1_0000

/-- COLL_GROUP_INVALID of a core (R284). -/
def groupInvalid (s : State) (k n g : Nat) : State :=
  raise s 0x0505 clsJ k (unitCore n) (p4 n ++ p4 (g % 0x1_0000_0000))

/-- The issue of a tensor, stream, sync or collective instruction. -/
def issueT (op : TOp) (n : Nat) (w : TWord) (s : State) : Out :=
  issue s n 16 (opcOf op) w.pred w.pneg (fun k c =>
    match mkEntry c op w with
    | none => .error (.unpred .reservedField)
    | some q =>
      if c.pass ≠ 0 ∧ replayOk op = false then .error (.unpred .spanRules)
      else
        let bad := match op with | .coll _ => !groupOk s k q.ob.val | _ => false
        if bad then
          let s1 := groupInvalid s k n q.ob.val
          .ok (setCore s1 k n { coreOf s1 k n with faulted := true })
        else if 32 ≤ (queueOf c (engOf op)).length then .ok (hold s k n (.queueFull (engOf op)))
        else
          let c1 := if queueOf c (engOf op) = [] then { c with headSince := put c.headSince (engCode (engOf op)) s.clock.ns } else c
          .ok (setCore s k n (adv (setQueue c1 (engOf op) (queueOf c (engOf op) ++ [q])) 16)))

/-- Its issue by a program of the level the instruction needs. -/
def issueTL (op : TOp) (n : Nat) (w : TWord) (s : State) : Out :=
  if atLevel2 op then issueT op n w s else level3 s n (opcOf op) (issueT op n w s)

/-! ## Start (R54, R60 to R62) -/

/-- The descriptor an operand names, if it names one. -/
def capDesc (s : State) (k n level : Nat) (dest : Bool) (o : Opnd) : Except Trap (Option Desc) :=
  match o with
  | .desc va => do
    let d ← readDesc s k n level dest va.toNat
    .ok (some d)
  | _ => .ok none

/-- The eight words of a block or record that an instruction reads when it starts, as a control
read; its address is a multiple of 64. -/
def capWords (s : State) (k n : Nat) (o : Opnd) : Except Trap (List Word) :=
  if o.isReg = false ∨ o.val % 64 ≠ 0 then .error (.unpred .malformed)
  else do
    let bs ← controlRead s k n o.val 64
    .ok ((wordsOf bs).map (BitVec.ofNat 64))

/-- The descriptor at an address of the hyperparameter block. -/
def capAt (s : State) (k n level : Nat) (want : Bool) (va : Word) : Except Trap (Option Desc) :=
  if want then
    (if va.toNat % 64 = 0 then do
      let d ← readDesc s k n level true va.toNat
      .ok (some d)
    else .error (.unpred .malformed))
  else .ok none

/-- What an instruction captures when it starts. -/
def capture (s : State) (k n : Nat) (c : Core) (f : Flight) : Except Trap Flight := do
  let q := f.q
  let d ← capDesc s k n c.level true q.od
  let a ← capDesc s k n c.level false q.oa
  let b ← capDesc s k n c.level (q.op == .upd) q.ob
  match q.op with
  | .upd =>
    let ws ← capWords s k n q.ox
    let sub := q.w.sub.toNat
    let x ← capAt s k n c.level (formStates (bits sub 11 8) == 2) (nth ws 4 0)
    let y ← capAt s k n c.level (bit sub 7) (nth ws 7 0)
    .ok { f with d := d, a := a, b := b, x := x, y := y, extra := ws }
  | .stat =>
    let ws ← capWords s k n q.ox
    .ok { f with d := d, a := a, b := b, extra := ws }
  | _ =>
    let x ← capDesc s k n c.level false q.ox
    .ok { f with d := d, a := a, b := b, x := x }

/-- The accesses a start makes: descriptors, slots, scales and blocks. -/
def captureReads (f : Flight) : List (Nat × Nat × Bool) :=
  let op := fun (o : Opnd) => match o with | .desc va => [(va.toNat, 64, false)] | _ => []
  let ds := fun (d : Option Desc) => match d with
    | none => []
    | some d => (if d.slot = 0 then [] else [(d.slot, 64, false)])
        ++ (if d.scales = [] then [] else [(d.scalePtr, (scaleShape d).1 * (scaleShape d).2, false)])
  op f.q.od ++ op f.q.oa ++ op f.q.ob ++ op f.q.ox ++ ds f.d ++ ds f.a ++ ds f.b ++ ds f.x ++ ds f.y
    ++ (if f.extra = [] ∨ f.q.op = .stat then [] else [(f.q.ox.val, 64, false)])

/-! ## Work -/

/-- The function of a VOP. -/
def fnOf (f : Flight) : Nat := if f.q.op = .vop then bits f.q.w.sub.toNat 11 4 else 0

/-- The tensors an instruction writes. -/
def outDescs (f : Flight) : List Desc :=
  match f.q.op with
  | .upd => f.d.toList ++ f.b.toList ++ f.x.toList ++ f.y.toList
  | .softmax | .yealm => f.d.toList ++ f.x.toList
  | .vop => f.d.toList ++ (if fnOf f = 0x50 then f.x.toList else [])
  | .mmaLd | .stat => []
  | _ => f.d.toList

/-- The tensors an instruction only reads. -/
def srcDescs (f : Flight) : List Desc :=
  match f.q.op with
  | .upd => f.a.toList
  | .softmax | .yealm => f.a.toList ++ f.b.toList
  | .vop => f.a.toList ++ f.b.toList ++ (if fnOf f = 0x50 then [] else f.x.toList)
  | _ => f.a.toList ++ f.b.toList ++ f.x.toList

/-- The record an instruction writes at the address in OPX: STAT's, and CVT's where it asks for one. -/
def recordSpan (f : Flight) : List (Nat × Nat) :=
  if f.q.op = .stat ∨ (f.q.op = .cvt ∧ bit f.q.w.sub.toNat 9 = true) then [(f.q.ox.val, 64)] else []

/-- The bytes of a descriptor's scales. -/
def scaleSpan (d : Desc) : List (Nat × Nat) :=
  let sh := scaleShape d
  if sh.1 = 0 then [] else [(d.scalePtr, sh.1 * sh.2)]

/-- Physical ranges joined where one ends at the next one's start. -/
def joinRanges (l : List (Nat × Nat)) : List (Nat × Nat) :=
  match l with
  | [] => []
  | r :: t =>
    match joinRanges t with
    | q :: u => if r.1 + r.2 = q.1 then (r.1, r.2 + q.2) :: u else r :: q :: u
    | [] => [r]

/-- The physical ranges behind spans of virtual addresses. -/
def physSpans (s : State) (k n : Nat) (l : List (Nat × Nat)) : List (Nat × Nat) :=
  joinRanges ((touches s k n (l.map (fun r => (r.1, r.2, false)))).map (fun t => (t.dpa, t.len)))

/-- Whether two lists of ranges share an address. -/
def rangesMeet (l m : List (Nat × Nat)) : Bool := l.any (fun r => m.any (fun q => overlaps r.1 r.2 q.1 q.2))

/-- Whether some two lists of ranges share an address. -/
def anyMeet (l : List (List (Nat × Nat))) : Bool :=
  match l with
  | [] => false
  | r :: t => t.any (rangesMeet r) || anyMeet t

/-- Whether something an instruction writes shares bytes with another of its operands (R67). -/
def operandsMeet (s : State) (k n : Nat) (f : Flight) : Bool :=
  let foot := fun (d : Desc) => physSpans s k n (tensorSpan d ++ scaleSpan d)
  let outs := (outDescs f).map foot ++ (if recordSpan f = [] then [] else [physSpans s k n (recordSpan f)])
  let srcs := (srcDescs f).map foot
  anyMeet outs || outs.any (fun o => srcs.any (rangesMeet o))

/-- The accesses an instruction of the array, the matrix-vector unit or the vector engine makes: the
tensors it reads, the rows it picks of a table, and its stores. STAT reads the record it then writes. -/
def workAccesses (f : Flight) (e : Eff) : List (Nat × Nat × Bool) :=
  let src := fun (d : Desc) => (tensorSpan d).map (fun r => (r.1, r.2, false))
  let a := if fnOf f = 0x40 then f.b.toList else srcDescs f
  let old := if f.q.op = .upd then outDescs f
    else if f.q.op = .mvm ∧ bit f.q.w.sub.toNat 0 = true then f.d.toList else []
  (a ++ old).flatMap src ++ e.reads.map (fun r => (r.1, r.2, false)) ++ e.ws.map (fun w => (w.va, w.bs.length, true))

/-- The work of an instruction by an engine, whole: `eff` tells its effects. An instruction that is not in
flight there, has run, or trapped changes nothing; one that traps raises its event and never completes, and
one whose operands overlap has an unpredictable result. It waits for a positive HBM level where it reads HBM
(R100), and for the credits of the buffers toward memory beyond its own scratchpad (R90, R202). -/
def runWork (op : TOp) (n id : Nat) (s : State) (go : Core → Flight → Bool)
    (eff : Nat → Core → Flight → Except Trap Eff) : Out :=
  match coreAtWork s n with
  | none => .next s
  | some (k, c) =>
    match flightAt c (engOf op) id with
    | none => .next s
    | some f =>
      let trap := fun t => trapNow (setFlightS s k n (engOf op) { f with trapped := true }) k n (opcOf op) t
      if f.q.op ≠ op ∨ f.ran ∨ f.trapped ∨ go c f = false then .next s
      else match eff k c f with
        | .error t => trap t
        | .ok e =>
          let acc := workAccesses f e
          let bufs := accessBufs s n (touches s k n acc) s.chain.nextTag
          if operandsMeet s k n f then trap (.unpred .overlap)
          else if hbmWaits s k n acc ∨ hasCredits s.chain bufs crDemand = false then .next s
          else match applyEff s k n (opcOf op) e with
            | .error t => trap t
            | .ok s1 =>
              let s2 : State := { s1 with chain := takeCredits s1.chain bufs crDemand }
              .next (touchData (setFlightS s2 k n (engOf op) { f with ran := true, ready := true }) k n acc)

/-! ## The fetch list (R95) -/

/-- The fetches of a core not completed, in list order. -/
def listed (c : Core) : List Flight := (flightsOf c .stream).filter (fun f => f.listed)

/-- The pages that a list of `n` fetches spills to: 64 bytes for each entry beyond 256. -/
def spillPages (n : Nat) : Nat := ((n - 256) * 64 + Config.page2 - 1) / Config.page2

/-- Room for a fetch list of core `n` of context `k` to grow by one entry: a page of the partition's HBM where
it spills into a new one, charged to the context; none where the partition has no room. -/
def growSpill (s : State) (k n : Nat) : Option State :=
  let c := coreOf s k n
  let part := (ctxOf s k).part
  if spillPages ((listed c).length + 1) ≤ c.spill.length then some s
  else if quotaOk s part Config.page2 = false then none
  else (takeHbm s (stacksOf s.place part) s.mem.allocs Config.page2 (Config.pageStart s.mem.allocs)).map (fun a =>
    setCore { s with mem := { s.mem with fwRanges := s.mem.fwRanges ++ [(a, Config.page2)], allocs := s.mem.allocs + 1 } }
      k n { c with spill := c.spill ++ [a] })

/-- Pages a core's fetch list no longer spills to given back. -/
def trimSpill (s : State) (k n : Nat) : State :=
  let c := coreOf s k n
  let keep := c.spill.take (spillPages (listed c).length)
  let gone := c.spill.drop (spillPages (listed c).length)
  if gone = [] then s
  else setCore { s with mem := { s.mem with fwRanges := s.mem.fwRanges.filter (fun r => !gone.elem r.1) } } k n { c with spill := keep }

/-! ## Completion (R54, R55, R94) -/

/-- The status entry a stream instruction writes: entry SIGT with SIGV, 8 without. -/
def writeStatus (c : Core) (f : Flight) (bitmap nparts : Nat) : Core :=
  let i := if f.q.w.sigv then f.q.w.sigt.toNat else 8
  let o := look c.stat {} i
  let e : StatEntry := {
    sticky := if f.status = 0 then o.sticky else o.sticky ||| (1#6 <<< f.status)
    stickyPoison := o.stickyPoison || f.poisonSeen
    orphaned := f.orphaned, poisonSeen := f.poisonSeen, nparts := nparts
    opc := opcOf f.q.op, status := f.status, bitmap := BitVec.ofNat 64 bitmap
    tag := f.q.w.imm, grains := BitVec.ofNat 64 f.grains }
  { c with stat := put c.stat i e }

/-- The part bitmap and the number of parts of a completed instruction: those of its transfer; 0 and
no count for a collective (R302); one finished part for a SPAR; and for the instructions that are no
transfer a free bitmap of one part. -/
def partsOf (s : State) (f : Flight) : Nat × Nat :=
  match f.q.op with
  | .xfer | .fetch | .ridge =>
    (((f.parts.zipIdx.map (fun p => if p.1.outcome = 1 then 2 ^ p.2 else 0)).sum), max f.parts.length 1)
  | .coll _ => (0, 1)
  | .spar => (1, 1)
  | _ => (freeVal s 1, 1)

/-- Whether the bitmap of a completed instruction is a free value. -/
def freeParts : TOp → Bool
  | .cancel | .fence | .yealm => true
  | _ => false

/-- Whether a replay buffer still holds a burst of a flight, so that its data may yet be lost (R250). -/
def onChain (s : State) (k n id : Nat) : Bool := s.chain.bursts.any (fun b => b.key == coreKey k n && b.flight == id)

/-- A token signalled; above 255 the signal is lost and the result is unpredictable (R56). -/
def signal (c : Core) (e : Engine) (w : TWord) : Option Core :=
  if w.sigv then
    let t := 8 * engCode e + w.sigt.toNat
    if 255 ≤ token c t then none else some (setToken c t (token c t + 1))
  else some c

/-- TRANSFER_PARTIAL of a transfer that ended PARTIAL or FAILED by its parts (R92). -/
def partialEvent (s : State) (k n : Nat) (f : Flight) (bitmap : Nat) : State :=
  let isT : Bool := match f.q.op with | .xfer | .fetch | .ridge | .yealm => true | _ => false
  if isT ∧ (f.status = 1 ∨ f.status = 2) then
    raiseOn s 0x0203 clsD k 0 n (p4 n ++ p4 (opcOf f.q.op) ++ p4 f.status ++ p8 bitmap)
  else s

/-- The completion of an instruction whose work is done, with no burst of it left in a replay buffer: its status
entry, its token, progress. -/
def execEngineInstructionComplete (c : Nat) (e : Engine) (id : Nat) (s : State) : Out :=
  match coreInFlight s c e with
  | none => .next s
  | some (k, x) =>
    match flightAt x e id with
    | none => .next s
    | some f =>
      if f.ready = false ∨ onChain s k c id = true then .next s
      else
        let ps := partsOf s f
        let x1 := setFlights x e ((flightsOf x e).filter (fun g => g.id != id))
        let x2 := if e = .stream then writeStatus x1 f ps.1 ps.2 else x1
        let x3 := signal x2 e f.q.w
        let s1 := trimSpill (progress (setCore s k c (x3.getD x2)) k) k c
        let s2 := if e = .stream then partialEvent s1 k c f ps.1 else s1
        let s3 := if freeParts f.q.op then drawn s2 else s2
        .next (if x3.isNone then wild s3 k else s3)

end Sys2Proof.Machine
end

