-- ==== Sys2Proof/Machine/Flit.lean ====
section
/-! DEFINITION. Flits and the two ends of a lane group's direction (R240 to R245): the bytes of a flit, the
scrambler of a lane, and sending: what waits, what the replay buffer holds, and what each flit acknowledges and
gives back. -/

namespace Sys2Proof.Machine

/-! ## Flits (R242 to R244) -/

/-- The header word of a flit. -/
def flitHeader (f : Flit) : Nat :=
  f.ctx % 64 + f.tag % 0x1_0000 * 2 ^ 8 + f.srcTile % 64 * 2 ^ 24 + f.srcDie % 16 * 2 ^ 30 + f.destTile % 64 * 2 ^ 34
    + f.destDie % 16 * 2 ^ 40 + f.len % 256 * 2 ^ 44 + f.poison.toNat * 2 ^ 52 + f.cls % 8 * 2 ^ 57 + f.kind % 16 * 2 ^ 60

/-- The LINK word of a flit. -/
def flitLink (f : Flit) : Nat :=
  b1 f.ackValid + b1 f.nak * 2 + f.ack % 4096 * 2 ^ 8 + f.seq % 4096 * 2 ^ 20

/-- Bytes 0 to 251 of a flit. -/
def flitBody (f : Flit) : List Byte := p8 (flitHeader f) ++ padTo 240 f.payload ++ p4 (flitLink f)

/-- The 256 bytes of a flit as it travels. -/
def flitBytes (f : Flit) : List Byte := flitBody f ++ p4 f.crc.toNat

/-- Whether a flit's CRC is right. -/
def flitCrcOk (f : Flit) : Bool := crc32 (flitBody f) == f.crc

/-- A flit between the ends of a join, before it has its place in the sequence. -/
def linkFlit (kind : Nat) (payload : List Byte) (nak : Bool) : Flit :=
  ⟨kind, crService, 0, payload.length, 0, 0, 0, 0, 0, 0, payload, 0, 0, nak, false, 0⟩

/-! ## Scrambling (R241) -/

/-- A lane's scrambler after one more bit: x^23 + x^18 + 1. -/
def scrambleStep (r : BitVec 23) : BitVec 23 := (r <<< 1) ||| BitVec.zeroExtend 23 (BitVec.ofBool (r.getLsbD 22 ^^ r.getLsbD 17))

/-- A lane's scrambler of a direction: reset at training, and one step for each of the 256 bits a flit takes on
a lane. -/
def scrambler (d : Dir) : BitVec 23 := Nat.repeat scrambleStep (256 * d.sent) Config.scramblerSeed

/-- The bits of lane `i` of a group for one flit, in the order they are sent, scrambled from register `r`. -/
def laneBits (f : Flit) (i : Nat) (r : BitVec 23) : List Bool :=
  let bits := ((flitBytes f).zipIdx.filter (fun b => b.2 % 8 == i)).flatMap (fun b => (List.range 8).map (fun n => b.1.getLsbD n))
  (bits.foldl (fun (st : List Bool × BitVec 23) b => (st.1 ++ [b ^^ st.2.getLsbD 22], scrambleStep st.2)) ([], r)).1

/-! ## Directions -/

/-- The dies a join connects, in the order its name gives them. -/
def joinEnds (j : Nat) : Nat × Nat :=
  if j = 0 then (0, 1) else if j = 1 then (1, 3) else if j = 2 then (3, 2) else if j = 3 then (2, 0)
  else if j < 12 then ((j - 4) % 4, 4 + (j - 4) / 4) else (j - 12, 6)

/-- The key of a direction of group `g` of join `j`. -/
def dirKey (j g : Nat) (up : Bool) : Nat := 2 * (16 * j + g) + b1 up

/-- A direction's state. -/
def dirOf (s : State) (j g : Nat) (up : Bool) : Dir := look s.chain.dirs {} (dirKey j g up)

/-- A direction's state replaced. -/
def setDir (s : State) (j g : Nat) (up : Bool) (d : Dir) : State :=
  { s with chain := { s.chain with dirs := put s.chain.dirs (dirKey j g up) d } }

/-- Whether a group exists and is in use. -/
def laneGroupOk (s : State) (j g : Nat) : Bool := decide (j < 16) && decide (g < groupsOf j) && !s.chain.removed.elem (16 * j + g)

/-! ## Sending (R241, R244, R245) -/

/-- The credits of the six classes a receiver owes, as IDLE and CONTROL flits carry them in their first six
bytes. -/
def owedBytes (d : Dir) : List Byte := (List.range 6).map (fun c => BitVec.ofNat 8 (min 255 (look d.owed 0 c)))

/-- A flit as it leaves: its SEQ, what the same end has received of the other direction `r`, the credits it gives
back, and its CRC. -/
def sealFlit (d r : Dir) (f : Flit) : Flit :=
  let p := if f.kind ≤ 1 then owedBytes r ++ f.payload.drop 6 else f.payload
  let g := { f with
    payload := p, len := p.length, seq := d.sendSeq, ack := (r.expect + 4095) % 4096, ackValid := true, crc := 0 }
  { g with crc := crc32 (flitBody g) }

/-- The flits that wait in a direction sent as far as its replay buffer of 512 has room. -/
def pumpDir (fuel : Nat) (ch : Chain) (now g : Nat) (up : Bool) : Chain :=
  match fuel with
  | 0 => ch
  | n + 1 =>
    let key := 2 * g + b1 up
    let rev := 2 * g + b1 (!up)
    let d := look ch.dirs {} key
    let r := look ch.dirs {} rev
    match d.waiting with
    | [] => ch
    | f :: t =>
      if 512 ≤ d.buffer.length then ch
      else
        let d1 := { d with
          sendSeq := (d.sendSeq + 1) % 4096, waiting := t, buffer := d.buffer ++ [(now, sealFlit d r f)], sent := d.sent + 1 }
        let r1 := if f.kind ≤ 1 then { r with owed := mapTbl r.owed (fun _ n => n - min 255 n) } else r
        pumpDir n { ch with dirs := put (put ch.dirs key d1) rev r1 } now g up

/-- Flits put in line on a direction of a lane group, ahead of what waits there or behind it, and sent as far as
there is room. -/
def queueFlits (ch : Chain) (now : Nat) (g : Nat × Bool) (front : Bool) (fs : List Flit) : Chain :=
  let key := 2 * g.1 + b1 g.2
  let d := look ch.dirs {} key
  let w := if front then fs ++ d.waiting else d.waiting ++ fs
  pumpDir w.length { ch with dirs := put ch.dirs key { d with waiting := w } } now g.1 g.2

/-- The bursts that no replay buffer of their group holds any more are past being lost (R250). -/
def pruneBursts (ch : Chain) (g : Nat) : Chain :=
  let held := fun (up : Bool) (t : Nat) =>
    let d := look ch.dirs {} (2 * g + b1 up)
    (d.waiting ++ d.buffer.map (fun e => e.2)).any (fun f => decide (2 ≤ f.kind) && decide (f.kind ≤ 5) && f.tag == t)
  { ch with bursts := ch.bursts.filter (fun b => b.group != g || held true b.tag || held false b.tag) }

end Sys2Proof.Machine
end

