-- ==== Sys2Proof/Machine/Stream.lean ====
section
/-! DEFINITION. The stream engine: transfers with their parts (R87 to R93), the fetch list, its
conditions and CANCEL (R95 to R98), RIDGE and SPAR (R101, R102), YEALM (R204, R205), FENCE (R55), and
the bursts in which data moves (R90, R100, R103). -/

namespace Sys2Proof.Machine

/-! ## Which source element a destination element receives (R87 to R89) -/

/-- The five sizes of a tensor, 1 where it has no such dimension. -/
def dims5 (d : Desc) : List Nat := dims d ++ List.replicate (5 - d.rank) 1

/-- TRANS and SKIP. -/
def isTrans (f : Flight) : Bool := f.q.w.sub.getLsbD 11
def isSkip (f : Flight) : Bool := f.q.w.sub.getLsbD 10

/-- Elements of a block. -/
abbrev blockEls : Nat := 16384

/-- The source element of destination element `j`, both in index order. -/
def srcOf (f : Flight) (a d : Desc) (j : Nat) : Nat :=
  let s0 := nth (dims5 a) 0 1
  let s1 := nth (dims5 a) 1 1
  if isSkip f then
    let b := nth f.blocks (j / blockEls) 0
    let w := j % blockEls
    let i0 := if isTrans f then w / 128 else w % 128
    let i1 := if isTrans f then w % 128 else w / 128
    let n0 := max (s0 / 128) 1
    let n1 := max (s1 / 128) 1
    (b % n0 * 128 + i0) + s0 * ((b / n0 % n1 * 128 + i1) + s1 * (b / (n0 * n1)))
  else if isTrans f then
    match indexOf (dims5 d) j with
    | i0 :: i1 :: r => linear (dims5 a) (i1 :: i0 :: r)
    | _ => j
  else j

/-- The blocks a mask selects, as control reads (R89, R479). -/
def maskBlocks (s : State) (k n : Nat) (x : Desc) (nb : Nat) : Except Trap (List Nat) := do
  let bs ← (List.range ((nb + 7) / 8)).mapM (fun i => controlRead s k n (elemAt x i).1 1)
  .ok ((List.range nb).filter (fun b => bit (leNat (nth bs (b / 8) [])) (b % 8)))

/-- The conditions of R87 to R89 on a transfer; the blocks a SKIP moves. -/
def transferBlocks (s : State) (k n : Nat) (f : Flight) (a d : Desc) : Except Trap (List Nat) := do
  need (a.code == d.code && a.mx == d.mx)
  need (!isTrans f || ([4, 8, 16, 32, 64].elem (elemBits a.code) && !a.mx))
  if isSkip f then do
    let x ← needDesc f.x
    need (x.code == fUINT8 && !x.mx && x.rank == 1 && decide (nth (dims5 a) 0 1 % 128 = 0) && decide (nth (dims5 a) 1 1 % 128 = 0))
    let nb := count a / blockEls
    need (decide (nb ≤ 8 * count x))
    let bl ← maskBlocks s k n x nb
    need (count d == blockEls * bl.length)
    .ok bl
  else do
    need (count a == count d)
    match dims5 a, dims5 d with
    | a0 :: a1 :: ar, d0 :: d1 :: dr => need (!isTrans f || (a0 == d1 && a1 == d0 && ar == dr))
    | _, _ => .ok ()
    .ok []

/-! ## Parts (R91) -/

/-- Maximal runs of equal pairs of units, each with its length. -/
def runsOf (l : List (Nat × Nat)) : List (Nat × Nat × Nat) :=
  match l with
  | [] => []
  | (a, b) :: r =>
    match runsOf r with
    | (a', b', n) :: t => if a = a' ∧ b = b' then (a, b, n + 1) :: t else (a, b, 1) :: (a', b', n) :: t
    | [] => [(a, b, 1)]

/-- Runs taken together into parts of the given counts of runs, from element `at'` on. -/
def mergeRuns (cs : List Nat) (at' : Nat) (rs : List (Nat × Nat × Nat)) : List Part :=
  match cs with
  | [] => []
  | c :: t =>
    let g := rs.take c
    let n := (g.map (fun r => r.2.2)).sum
    match g with
    | (a, b, _) :: _ => ⟨a, b, at', n, 0⟩ :: mergeRuns t (at' + n) (rs.drop c)
    | [] => []

/-- The parts of a list of runs: one each, or 64 whose run counts differ by at most one. -/
def partsFrom (rs : List (Nat × Nat × Nat)) : List Part :=
  let n := rs.length
  if n ≤ 64 then mergeRuns (List.replicate n 1) 0 rs
  else mergeRuns ((List.range 64).map (fun i => n / 64 + b1 (decide (i < n % 64)))) 0 rs

/-- The parts of a transfer. -/
def planParts (s : State) (k n : Nat) (f : Flight) (a d : Desc) : List Part :=
  partsFrom (runsOf ((List.range (count d)).map (fun j =>
    (unitVa s k n (elemAt a (srcOf f a d j)).1 .read, unitVa s k n (elemAt d j).1 .write))))

/-- A transfer planned: its blocks, its parts and its size. -/
def planned (s : State) (k n : Nat) (f : Flight) (a d : Desc) : Except Trap Flight := do
  let bl ← transferBlocks s k n f a d
  if operandsMeet s k n { f with a := some a, d := some d } then .error (.unpred .overlap) else
  let g : Flight := { f with blocks := bl, total := count d, d := some d, a := some a, ran := true }
  .ok { g with parts := planParts s k n g a d }

/-! ## The work of a stream instruction -/

/-- The work of a stream instruction once it has started: `eff` gives the state with its flight
brought up to date; a trap raises its event, and the instruction does not take effect. -/
def runStream (op : TOp) (n id : Nat) (s : State) (eff : Nat → Core → Flight → Except Trap State) : Out :=
  match coreInFlight s n (engOf op) with
  | none => .next s
  | some (k, c) =>
    match flightAt c (engOf op) id with
    | none => .next s
    | some f =>
      if f.q.op ≠ op ∨ f.ran ∨ f.trapped then .next s
      else match eff k c f with
        | .ok s1 => .next s1
        | .error t => trapNow (setFlightS s k n (engOf op) { f with trapped := true }) k n (opcOf op) t

/-- XFER: its plan, all of it issued to bursts (R87 to R91). -/
def execXfer (c : Nat) (g : Stage) (s : State) : Out :=
  match g with
  | .issue w => issueTL .xfer c w s
  | .run id => runStream .xfer c id s (fun k _ f => do
      let a ← needDesc f.a
      let d ← needDesc f.d
      let p ← planned s k c f a d
      .ok (setFlightS s k c .stream { p with issued := p.total }))

/-- FETCH_SPILL_EXHAUSTED (R95, R384). -/
def spillExhausted (s : State) (k n cnt : Nat) : State := raise s 0x0207 clsJ k (unitCore n) (p4 n ++ p4 cnt)

/-- A fetch appended to the core's fetch list with its plan (R95): beyond 256 entries the list needs HBM of the
partition. COND is ignored at level 2 (R41). -/
def appendFetch (s : State) (k c : Nat) (f : Flight) : Except Trap State := do
  let a ← needDesc f.a
  let d ← needDesc f.d
  let x := coreOf s k c
  need (!f.q.w.sub.getLsbD 9 || x.level == 2 || (f.q.ob.isReg && decide (f.q.ob.val % 8 = 0)))
  let p ← planned s k c f a d
  match growSpill s k c with
  | none => .ok (spillExhausted (setFlightS s k c .stream { f with trapped := true }) k c ((listed x).length + 1))
  | some s1 => .ok (setFlightS s1 k c .stream { p with listed := true })

/-- FETCH: its start appends it to the fetch list; what is left of its work is its chunks. -/
def execFetch (c : Nat) (g : Stage) (s : State) : Out :=
  match g with
  | .issue w => issueTL .fetch c w s
  | .run id => runStream .fetch c id s (fun k _ f => if f.listed then .ok s else appendFetch s k c f)

/-- Elements of a chunk: 64 KiB of destination (R96); of a 6-bit tensor the groups of three whole grains that
lie within 64 KiB. -/
def chunkEls (d : Desc) : Nat := if elemBits d.code = 6 then 87296 else 524288 / elemBits d.code

/-- A fetch that has stopped issuing, or issued everything, and landed all it issued is ready. Its STATUS is
FAULTED where a piece faulted, then that of what stopped it, then that of its parts. -/
def fetchReady (f : Flight) : Flight :=
  { f with
    ready := f.ran && f.pos == f.issued && (f.stop != 0 || f.issued == f.total)
    status := if f.faulted then 5 else if f.stop = 1 then 4 else if f.stop = 2 then 3 else f.status }

/-- Whether COND applies, and the predicate word's address. -/
def condOf (c : Core) (f : Flight) : Option Nat :=
  if f.q.w.sub.getLsbD 9 ∧ c.level ≠ 2 then some f.q.ob.val else none

/-- The next chunk of a listed fetch issued (R95, R96): the fetch is one of the first 16 of the list;
with COND the predicate word is read just before. A poisoned predicate word stops that chunk only, or
the whole fetch when it is the first (R479). -/
def execFetchChunkIssue (c : Nat) (id : Nat) (s : State) : Out :=
  match coreAtWork s c with
  | none => .next s
  | some (k, x) =>
    match (listed x).take 16 |>.find? (fun f => f.id == id) with
    | none => .next s
    | some f =>
      if f.stop ≠ 0 ∨ f.trapped ∨ f.issued = f.total then .next s
      else
        let len := match f.d with | some d => chunkEls d | none => 0
        let next := min f.total (f.issued + max len 1)
        let go : Except Trap Bool := match condOf x f with
          | none => .ok true
          | some va => do
            let bs ← controlRead s k c va 8
            .ok (leNat bs != 0)
        let s0 := match condOf x f with
          | none => s
          | some va => touchData s k c [(va, 8, false)]
        match go with
        | .ok true => .next (setFlightS s0 k c .stream { f with issued := next })
        | .ok false => .next (setFlightS s0 k c .stream (fetchReady { f with stop := 1 }))
        | .error t =>
          let g := if f.issued = 0 then { f with trapped := true } else { f with issued := next, skips := f.skips ++ [f.issued] }
          trapNow (setFlightS s k c .stream g) k c 0x41 t

/-! ## RIDGE and SPAR (R101, R102) -/

/-- A core number a program names: reserved from 320 on, and outside the partition a trap (R15, R66). -/
def needCore (s : State) (k dest : Nat) : Except Trap Unit :=
  if 320 ≤ dest then .error (.unpred .coreReserved)
  else if inPartition s k dest then .ok () else .error (.outside dest)

/-- The destination of a RIDGE: the descriptor's offset within another core's scratchpad. -/
def ridgeDest (d : Desc) (dest : Nat) : Desc :=
  { d with base := 0xF_1000_0000_0000 + dest * Config.scratchBytes + (d.base - 0xF_0000_0000_0000) }

/-- RIDGE: its plan; the arrival follows the data (R101). -/
def execRidge (c : Nat) (g : Stage) (s : State) : Out :=
  match g with
  | .issue w => issueTL .ridge c w s
  | .run id => runStream .ridge c id s (fun k _ f => do
      let a ← needDesc f.a
      let d ← needDesc f.d
      need (f.q.ob.isReg && !f.q.ox.isDesc && ownBase a && ownBase d)
      need (!phRsv (f.q.w.imm.setWidth 64) && !(f.q.ox.isReg && nmRsv (BitVec.ofNat 64 f.q.ox.val)))
      needCore s k f.q.ob.val
      let p ← planned s k c f a (ridgeDest d f.q.ob.val)
      .ok (setFlightS s k c .stream { p with issued := p.total }))

/-- The arrival a RIDGE owes once its data is visible, made as the destination core (R101, R226); a
refused one raises its event and the instruction does not complete. -/
def ridgeArrive (s : State) (k n : Nat) (f : Flight) : State :=
  match f.q.ox with
  | .reg nm =>
    let ph : Word := f.q.w.imm.setWidth 64
    let who : Member := .core f.q.ob.val
    let r :=
      if nameOk s k nm then arriveAt s k (nmVtid nm) who (phNo ph) (phVal ph)
      else (trussInvalid s k (unitCore f.q.ob.val) f.q.ob.val (nmVtid nm) (nmBgen nm) 0x50, false)
    setFlightS r.1 k n .stream { f with ready := r.2, trapped := !r.2 }
  | _ => setFlightS s k n .stream { f with ready := true }

/-- The fields of a SPAR's destination word (R102). -/
def spRemote (w : Word) : Bool := w.getLsbD 63
def spNode (w : Word) : Nat := bits w.toNat 62 43
def spCore (w : Word) : Nat := bits w.toNat 42 31
def spOff (w : Word) : Nat := bits w.toNat 30 12 * 8

/-- The bytes of the registers a spar carries. -/
def sparBytes (rs : List Word) : List Byte := rs.flatMap (fun r => p8 r.toNat)

/-- The grains a byte range touches. -/
def grainCount (a n : Nat) : Nat := (grainsOf a n).length

/-- SPAR: to a scratchpad of this device at once, or to a node of the job's table over Furlong. -/
def execSpar (c : Nat) (g : Stage) (s : State) : Out :=
  match g with
  | .issue w => issueTL .spar c w s
  | .run id => runStream .spar c id s (fun k _ f => do
      let w : Word := BitVec.ofNat 64 f.q.od.val
      need (f.q.od.isReg && f.q.oa.isReg && decide (w.toNat % 4096 = 0))
      let bs := sparBytes f.q.regs
      if Config.scratchBytes < spOff w + bs.length then .error (.unpred .sparOverrun)
      else if spRemote w then
        (if 320 ≤ spCore w then .error (.unpred .coreReserved)
        else if nodeKnown s (ctxOf s k).jobId (spNode w) then
          .ok (enqueue (setFlightS s k c .stream { f with ran := true, grains := grainCount (spOff w) bs.length })
            { ctx := k, core := c, flight := id, opc := opSend, cls := clSpar, peer := spNode w }
            [{ dstCore := spCore w, offset := spOff w, payload := bs }])
        else .ok (nodeInvalid (setFlightS s k c .stream { f with trapped := true }) k c (spNode w)))
      else do
        needCore s k (spCore w)
        let va := 0xF_1000_0000_0000 + spCore w * Config.scratchBytes + spOff w
        let bufs := accessBufs s c (touches s k c [(va, bs.length, true)]) s.chain.nextTag
        if hasCredits s.chain bufs crSpar = false then .ok s
        else
          let s1 ← writeVa s k c va bs false
          let s2 : State := { s1 with chain := takeCredits s1.chain bufs crSpar }
          .ok (touchData (setFlightS s2 k c .stream { f with ran := true, ready := true, grains := grainCount va bs.length })
            k c [(va, bs.length, true)]))

/-! ## CANCEL and FENCE (R97, R55) -/

/-- What CANCEL does to a fetch its tag names: a fetch with no chunk issued is done at once, one with
chunks in flight issues no more. -/
def cancelOne (f : Flight) : Flight :=
  if f.ready ∨ f.listed = false then f
  else fetchReady { f with stop := if f.stop = 0 then 2 else f.stop, cancelHit := true }

/-- The fetches started before flight `id` whose tag `t` names cancelled. -/
def cancelBefore (c : Core) (id : Nat) (t : BitVec 32) : Core :=
  setFlights c .stream ((flightsOf c .stream).map (fun f =>
    if f.id < id ∧ f.q.op = .fetch ∧ (t = 0xFFFF_FFFF ∨ f.q.w.imm = t) then cancelOne f else f))

/-- CANCEL. -/
def execCancel (c : Nat) (g : Stage) (s : State) : Out :=
  match g with
  | .issue w => issueTL .cancel c w s
  | .run id => runStream .cancel c id s (fun k x f =>
      .ok (setFlightS (setCore s k c (cancelBefore x id f.q.w.imm)) k c .stream { f with ran := true, ready := true }))

/-- FENCE: ready once every earlier stream instruction has completed. -/
def execFence (c : Nat) (g : Stage) (s : State) : Out :=
  match g with
  | .issue w => issueTL .fence c w s
  | .run id => runStream .fence c id s (fun k x f =>
      if (flightsOf x .stream).any (fun h => decide (h.id < id)) then .ok s
      else .ok (setFlightS s k c .stream { f with ran := true, ready := true }))

/-! ## YEALM (R204, R205) -/

/-- What becomes of one assignment: its slot in an expert's bucket, dropped, skipped, or stopped by a
poisoned expert id. -/
inductive Placed where
  | slot (e i : Nat)
  | dropped (e : Nat)
  | skipped
  | poisoned (va : Nat)
  deriving DecidableEq, Repr

/-- The assignment of an expert id to the next free slot of its expert, from the counts placed. -/
def place (e cap : Nat) (id : Val) (cnt : Tbl Nat) : Placed × Tbl Nat :=
  match id with
  | .fin q =>
    if q.den = 1 ∧ 0 ≤ q.num ∧ q.num.toNat < e then
      let x := q.num.toNat
      let n := look cnt 0 x
      if n < cap then (.slot x n, put cnt x (n + 1)) else (.dropped x, cnt)
    else (.skipped, cnt)
  | _ => (.skipped, cnt)

/-- Every assignment in ascending token and choice order. -/
def placeAll (e cap : Nat) (ids : List (Option Val × Nat)) (cnt : Tbl Nat) : List Placed :=
  match ids with
  | [] => []
  | (none, va) :: r => .poisoned va :: placeAll e cap r cnt
  | (some v, _) :: r =>
    let p := place e cap v cnt
    p.1 :: placeAll e cap r p.2

/-- The stores of one token row into a slot: its elements with their poison, and its block scales for
an MX tensor. -/
def rowCopy (s : State) (k n : Nat) (a d : Desc) (t slot : Nat) : Except Trap (List Wr) := do
  let w := nth a.sizes 0 1
  let cs ← (List.range w).mapM (fun i => readCode s k n a (t * w + i))
  let es := cs.map (fun c => (⟨c.getD 0, c.isNone⟩ : OutEl))
  let sc ← (if a.mx then do
      let r ← readVa s k n (a.scalePtr + t * (w / 32)) (w / 32)
      .ok [(⟨d.scalePtr + slot * (w / 32), r.1, r.2⟩ : Wr)]
    else .ok [])
  .ok (rowWrs (elemAt d (slot * w)).1 (elemBits d.code) es ++ sc)

/-- The element of the dispatch record for an assignment. -/
def recordOf : Placed → Nat
  | .slot _ i => i
  | _ => 0xFFFF_FFFF

/-- The counts that end the record: placed, then dropped, 64 bits each. -/
def countBytes (e : Nat) (ps : List Placed) : List Byte :=
  ((List.range e).flatMap (fun x => p8 (ps.filter (fun p => match p with | .slot y _ => y == x | _ => false)).length))
    ++ ((List.range e).flatMap (fun x => p8 (ps.filter (fun p => p == .dropped x)).length))

/-- What YEALM does: the stores of its rows, of the record's choices and of the counts, in this order, the
rows it reads, the poisoned expert ids, and its observations. -/
structure Yealm where
  rows   : List Wr
  recs   : List Wr
  counts : List Wr
  reads  : List (Nat × Nat)
  bad    : List Nat
  obs    : List HeldObs

/-- YEALM's stores in order. -/
def Yealm.ws (y : Yealm) : List Wr := y.rows ++ y.recs ++ y.counts

/-- YEALM's work. -/
def yealmEff (s : State) (k n : Nat) (f : Flight) : Except Trap Yealm := do
  let a ← needDesc f.a
  let b ← needDesc f.b
  let d ← needDesc f.d
  let x ← needDesc f.x
  let w := nth a.sizes 0 1
  let t := if 2 ≤ a.rank then nth a.sizes 1 1 else 1
  let kk := if 2 ≤ b.rank then nth b.sizes 1 1 else 1
  let e := if 3 ≤ d.rank then nth d.sizes 2 1 else 1
  let cap := if 2 ≤ d.rank then nth d.sizes 1 1 else 1
  need (decide (a.rank ≤ 2) && decide (d.rank ≤ 3) && a.code == d.code && a.mx == d.mx && nth d.sizes 0 1 == w)
  need (b.code == fFP32 && b.scaleKind == 0 && b.rank == 3 && nth b.sizes 0 1 == 2 && nth b.sizes 2 1 == t)
  need (x.code == fINT32 && x.rank == 1 && nth x.sizes 0 1 == 4 * e + t * kk)
  let ids ← (List.range (t * kk)).mapM (fun i => do
    let c ← readCode s k n b (2 * i + 1)
    .ok (c.map (decodeElem fFP32 false), (elemAt b (2 * i + 1)).1))
  let ps := placeAll e cap ids []
  let rows ← (ps.zipIdx.mapM (fun p => match p.1 with
    | .slot y i => rowCopy s k n a d (p.2 / kk) (y * cap + i)
    | _ => .ok []))
  let obs ← watchObs s k n d ((ps.zipIdx.flatMap (fun p => match p.1 with
    | .slot y i => (List.range w).map (fun j => ((y * cap + i) * w + j, p.2 / kk * w + j))
    | _ => [])).filterMap (fun q => match readCode s k n a q.2 with
      | .ok c => some (q.1, (⟨c.getD 0, c.isNone⟩ : OutEl))
      | .error _ => none))
  let cnt := countBytes e ps
  let recEls := (List.range (4 * e)).map (fun i => (i, (⟨leNat ((cnt.drop (4 * i)).take 4), false⟩ : OutEl)))
    ++ ps.zipIdx.map (fun p => (4 * e + p.2, (⟨recordOf p.1, false⟩ : OutEl)))
  let obx ← watchObs s k n x recEls
  .ok { rows := rows.flatten
        recs := ps.zipIdx.map (fun p => ⟨(elemAt x (4 * e + p.2)).1, p4 (recordOf p.1), false⟩)
        counts := [⟨x.base, cnt, false⟩]
        reads := (ps.zipIdx.flatMap (fun p => match p.1 with | .slot _ _ => rowSpan { a with rank := 2 } (p.2 / kk) | _ => []))
          ++ (List.range (t * kk)).map (fun i => ((elemAt b (2 * i + 1)).1, 4))
        bad := ps.filterMap (fun p => match p with | .poisoned va => some va | _ => none)
        obs := obs ++ obx }

/-- YEALM carried out: it waits for a positive HBM level where it reads HBM and for credits of class DEMAND, and
its operands must not overlap. -/
def yealmRun (s : State) (k n : Nat) (f : Flight) : Except Trap State := do
  let y ← yealmEff s k n f
  let acc := y.reads.map (fun r => (r.1, r.2, false)) ++ y.ws.map (fun q => (q.va, q.bs.length, true))
  let bufs := accessBufs s n (touches s k n acc) s.chain.nextTag
  if operandsMeet s k n f then .error (.unpred .overlap)
  else if hbmWaits s k n acc ∨ hasCredits s.chain bufs crDemand = false then .ok s
  else do
    let s1 ← writeVas s k n y.ws
    let s2 := y.bad.foldl (fun s va => raiseTrap s k n 0x44 (.consumed va)) { s1 with chain := takeCredits s1.chain bufs crDemand }
    let gs := (y.ws.flatMap (fun q => grainsOf q.va q.bs.length)).foldl addNat []
    .ok (touchData (setFlightS (emit s2 k n y.obs) k n .stream { f with
        ran := true, ready := true, grains := gs.length, poisonSeen := y.rows.any (fun q => q.poi) }) k n acc)

/-- YEALM; level 3 only. -/
def execYealm (c : Nat) (g : Stage) (s : State) : Out :=
  match g with
  | .issue w => issueTL .yealm c w s
  | .run id => runStream .yealm c id s (fun k _ f => yealmRun s k c f)

/-! ## Bursts (R90) -/

/-- The bytes from an address to where a piece of a row ends: its grain's end, or for 6-bit elements, of which
four fill three bytes, the end of the third grain at the latest, where elements and grains both end (R104). -/
def pieceBytes (b va : Nat) : Nat :=
  let r := 64 - va % 64
  if b = 6 then (if r % 3 = 0 then r else if (r + 64) % 3 = 0 then r + 64 else r + 128) else r

/-- The number of elements from `j` that lie in one piece, at most up to `lim`. -/
def pieceLen (d : Desc) (j lim : Nat) : Nat :=
  let per := pieceBytes (elemBits d.code) (elemAt d j).1 * 8 / elemBits d.code
  min (nth d.sizes 0 1 - j % nth d.sizes 0 1) (min per (lim - j))

/-- The pieces of a burst from an element on. -/
def pieces64 (fuel : Nat) (d : Desc) (j lim : Nat) : List (Nat × Nat) :=
  match fuel with
  | 0 => []
  | f + 1 => if lim ≤ j then [] else (j, max 1 (pieceLen d j lim)) :: pieces64 f d (j + max 1 (pieceLen d j lim)) lim

/-- What a moved piece wrote and showed. -/
structure Piece where
  ws  : List Wr
  obs : List HeldObs
  poi : Bool

/-- A piece as it moves: its bytes with their poison, and what its elements show the watch slot. -/
def readPiece (s : State) (k n : Nat) (f : Flight) (a d : Desc) (p : Nat × Nat) : Except Trap Piece := do
  let cs ← (List.range p.2).mapM (fun i => readCode s k n a (srcOf f a d (p.1 + i)))
  let es := cs.map (fun c => (⟨c.getD 0, c.isNone⟩ : OutEl))
  let ob ← watchObs s k n d (es.zipIdx.map (fun e => (p.1 + e.2, e.1)))
  .ok ⟨rowWrs (elemAt d p.1).1 (elemBits d.code) es, ob, es.any (fun e => e.poi)⟩

/-- What a burst has done so far: the state, whether it wrote poison, the first elements of the pieces that
trapped, its stores and its observations. -/
structure Burst where
  s    : State
  poi  : Bool := false
  bad  : List Nat := []
  ws   : List Wr := []
  obs  : List HeldObs := []

/-- One piece of a burst; one that traps writes nothing, and the first of the transfer raises the event
(R93). -/
def burstPiece (k n opc : Nat) (f : Flight) (a d : Desc) (u : Burst) (p : Nat × Nat) : Burst :=
  match (do
    let x ← readPiece u.s k n f a d p
    let s1 ← writeVas u.s k n x.ws
    .ok (x, s1) : Except Trap (Piece × State)) with
  | .ok (x, s1) => { u with s := s1, poi := u.poi || x.poi, obs := u.obs ++ x.obs, ws := u.ws ++ x.ws }
  | .error t => { u with s := if u.bad ≠ [] ∨ f.faulted then u.s else raiseTrap u.s k n opc t, bad := u.bad ++ [p.1] }

/-- Runs of destination grains with those of a store added, and the number that are new. -/
def addGrains (st : List (Nat × Nat) × Nat) (va len : Nat) : List (Nat × Nat) × Nat :=
  if len = 0 then st
  else
    let lo := va / 64
    let n := (va + len - 1) / 64 - lo + 1
    let new := st.1.foldl (fun l r => l.flatMap (fun q => cutOut [q] r.1 r.2)) [(lo, n)]
    match st.1, new with
    | r :: t, [q] => (if r.1 + r.2 = q.1 then (r.1, r.2 + q.2) :: t else q :: r :: t, st.2 + q.2)
    | l, _ => (new ++ l, st.2 + (new.map (fun q => q.2)).sum)

/-- A transfer with destination grains counted as written (R94). -/
def wroteGrains (f : Flight) (l : List (Nat × Nat)) : Flight :=
  let r := l.foldl (fun st w => addGrains st w.1 w.2) (f.wrote, f.grains)
  { f with wrote := r.1, grains := r.2 }

/-- Parts wholly moved are finished. -/
def finishParts (ps : List Part) (pos : Nat) : List Part :=
  ps.map (fun (p : Part) => if p.outcome = 0 ∧ p.first + p.count ≤ pos then { p with outcome := 1 } else p)

/-- The parts in which some element of a list lies failed. -/
def failParts (ps : List Part) (bad : List Nat) : List Part :=
  ps.map (fun (p : Part) =>
    if bad.any (fun j => decide (p.first ≤ j) && decide (j < p.first + p.count)) then { p with outcome := 2 } else p)

/-- The status of a transfer by its parts (R92, R93): a part that faulted is not finished. -/
def partStatus (f : Flight) : Nat :=
  if f.faulted then 5
  else if f.parts.any (fun p => p.outcome == 2) then (if f.parts.all (fun p => p.outcome == 2) then 2 else 1)
  else 0

/-- A transfer with its status, and whether it is a fetch that is ready. -/
def settled (f : Flight) : Flight :=
  let r := { f with status := partStatus f }
  if r.q.op = .fetch then fetchReady r else r

/-- A transfer after a burst: where it stands, its grains and parts, and whether it is ready. -/
def afterBurst (f : Flight) (newPos : Nat) (u : Burst) : Flight :=
  let g := wroteGrains f (u.ws.map (fun w => (w.va, w.bs.length)))
  settled { g with
    pos := newPos
    poisonSeen := f.poisonSeen || u.poi
    orphaned := f.orphaned || f.cancelHit
    faulted := f.faulted || u.bad != []
    parts := finishParts (failParts f.parts u.bad) newPos }

/-- The accesses of a burst: source grains and destination pieces. -/
def burstAccess (f : Flight) (a d : Desc) (ps : List (Nat × Nat)) : List (Nat × Nat × Bool) :=
  let src := (ps.flatMap (fun p => (List.range p.2).map (fun i => (elemAt a (srcOf f a d (p.1 + i))).1 / 64))).foldl addNat []
  src.map (fun g => (g * 64, 64, false))
    ++ ps.map (fun p => ((elemAt d p.1).1, ((elemAt d p.1).2 + p.2 * elemBits d.code + 7) / 8, true))

/-- The last element a burst may reach: what is issued, and the end of a chunk whose control read
failed comes without moving it. -/
def burstFrom (f : Flight) (d : Desc) : Nat :=
  if f.skips.elem f.pos then min f.total (f.pos + chunkEls d) else f.pos

/-- The end of what a burst from an element may move: what is issued, as far as the next chunk skipped. -/
def burstTo (f : Flight) (at' : Nat) : Nat := (f.skips.filter (fun q => decide (at' < q))).foldl min f.issued

/-- The state after the last burst of a transfer: a RIDGE makes its arrival. -/
def landed (s : State) (k n : Nat) (f : Flight) : State :=
  if f.q.op = .fetch then setFlightS s k n .stream f
  else if f.pos < f.total then setFlightS s k n .stream f
  else if f.q.op = .ridge then ridgeArrive (setFlightS s k n .stream f) k n f
  else setFlightS s k n .stream { f with ready := true }

/-- The credit class of a transfer (R90). -/
def classOf (op : TOp) : Nat := if op = .fetch then crPrefetch else crDemand

/-- The units a piece goes between, by its first element. -/
def pieceUnits (s : State) (k n : Nat) (f : Flight) (a d : Desc) (p : Nat × Nat) : Nat × Nat :=
  (unitVa s k n (elemAt a (srcOf f a d p.1)).1 .read, unitVa s k n (elemAt d p.1).1 .write)

/-- The next burst of a transfer: its units, its pieces, and where the transfer then stands. It ends where
the source or the destination unit changes, as a part does (R91). -/
def nextBurst (s : State) (k n : Nat) (f : Flight) (a d : Desc) : (Nat × Nat) × List (Nat × Nat) × Nat :=
  let at' := burstFrom f d
  let l := pieces64 (if elemBits d.code = 6 then 21 else 64) d at' (if at' = f.pos then burstTo f at' else at')
  match l with
  | [] => ((0, 0), [], at')
  | p :: _ =>
    let u := pieceUnits s k n f a d p
    let ps := l.takeWhile (fun q => pieceUnits s k n f a d q == u)
    (u, ps, (ps.getLast?.map (fun p => p.1 + p.2)).getD at')

/-- The buffers on the path of a burst between two units. -/
def burstBufs (ch : Chain) (u : Nat × Nat) : List Buf :=
  if 0xFFFF ≤ u.1 ∨ 0xFFFF ≤ u.2 then [] else pathBufs ch u.1 u.2 ch.nextTag

/-! ## A burst on the Chain (R242, R243) -/

/-- The request word of a burst, 16 bytes: the physical address in bytes 0 to 4, the byte count in bytes 8 to 11
and the operation in byte 12, 1 for a write. -/
def requestWord (addr count : Nat) : List Byte := leBytes 8 (addr % 2 ^ 40) ++ p4 count ++ p4 1

/-- A payload with its request word cut into flits of 240 bytes. -/
def cutFlits (fuel : Nat) (l : List Byte) : List (List Byte) :=
  match fuel with
  | 0 => [l.take 240]
  | n + 1 => if l.length ≤ 240 then [l] else l.take 240 :: cutFlits n (l.drop 240)

/-- The POISON bits of the flit that carries bytes [lo, hi) of a burst's data from physical address `addr`: the
grains whose bytes appear, in payload order. -/
def poisonBits (m : Mem) (addr lo hi : Nat) : BitVec 5 :=
  if hi ≤ lo then 0
  else ((grainsOf (addr + lo) (hi - lo)).zipIdx.foldl (fun (b : BitVec 5) g =>
    if m.poison.elem g.1 then b ||| (1#5 <<< g.2) else b) 0)

/-- The flits of a burst of `data` to a physical address, between two units, with a TAG. -/
def burstFlits (m : Mem) (k cls tag : Nat) (u : Nat × Nat) (addr : Nat) (data : List Byte) : List Flit :=
  let parts := cutFlits 18 (requestWord addr data.length ++ data)
  parts.zipIdx.map (fun p =>
    let kind := if parts.length = 1 then 5 else if p.2 = 0 then 2 else if p.2 + 1 = parts.length then 4 else 3
    let lo := 240 * p.2 - 16
    { kind := kind, cls := cls, poison := poisonBits m addr lo (240 * p.2 + p.1.length - 16), len := p.1.length
      destDie := dieOfUnit u.2, destTile := tileNo (unitXY u.2), srcDie := dieOfUnit u.1, srcTile := tileNo (unitXY u.1)
      tag := tag, ctx := k, payload := p.1, seq := 0, ack := 0, nak := false, ackValid := false, crc := 0 })

/-- A burst put on the lane groups of its path: its flits on each, and a note of it for R250. -/
def launchBurst (s : State) (k n : Nat) (f : Flight) (u : Nat × Nat) (lo hi : Nat) (ws : List Wr) : State :=
  let ch := s.chain
  let tag := ch.nextTag
  let gs := pathGroups ch (pathHops 4 ch (dieOfUnit u.1) (dieOfUnit u.2) tag) tag
  if gs = [] ∨ ws = [] then s
  else
    let addr := match translate s k n (nth ws 0 ⟨0, [], false⟩).va .write with | .ok (.mem a) => a | _ => 0
    let fs := burstFlits s.mem k (classOf f.q.op) tag u addr (ws.flatMap (fun w => w.bs))
    let c1 := gs.foldl (fun c g => queueFlits c s.clock.ns g false fs) ch
    { s with chain := { c1 with
        nextTag := (tag + 1) % 0x1_0000
        bursts := c1.bursts ++ gs.map (fun g => ⟨g.1, tag, coreKey k n, f.id, lo, hi⟩) } }

/-! ## BURST_START -/

/-- A burst carried out: its pieces moved, its flits on the Chain, what its accesses meet and cost, and the
transfer after it. -/
def burstMove (s : State) (k c : Nat) (f : Flight) (a d : Desc) : State :=
  let b := nextBurst s k c f a d
  let u := b.2.1.foldl (burstPiece k c (opcOf f.q.op) f a d) { s := s }
  let s1 := launchBurst u.s k c f b.1 f.pos b.2.2 u.ws
  landed (account (emit s1 k c u.obs) k c (burstAccess f a d b.2.1)) k c (afterBurst f b.2.2 u)

/-- Whether a transfer has a burst to move. -/
def burstDue (f : Flight) : Bool := f.ran && !f.trapped && !f.ready && decide (f.pos < f.issued)

/-- Whether the next burst of a transfer reads HBM. -/
def burstReadsHbm (s : State) (k n : Nat) (f : Flight) : Bool :=
  match f.a, f.d with
  | some a, some d => burstDue f && decide (0 < (hbmTraffic s k (touches s k n (burstAccess f a d (nextBurst s k n f a d).2.1))).2)
  | _, _ => false

/-- The credit classes of the bursts of a context that wait for its HBM level. -/
def waitingClasses (s : State) (k : Nat) : List Nat :=
  (launchCores (ctxOf s k)).flatMap (fun n =>
    ((flightsOf (coreOf s k n) .stream).filter (burstReadsHbm s k n)).map (fun f => classOf f.q.op))

/-- Whether a burst of a class has its turn (R100): none of a higher class waits, or 31 bursts of others have
been served since one of its own. -/
def hasTurn (s : State) (k cls : Nat) : Bool :=
  !(waitingClasses s k).any (fun c => decide (c < cls)) || decide (31 ≤ look (ctxOf s k).passedOver 0 cls)

/-- The turns of a context after a burst of a class was served. -/
def servedTurn (s : State) (k cls : Nat) : State :=
  let x := ctxOf s k
  setCtx s k { x with passedOver := (waitingClasses s k).foldl (fun t c =>
    if c = cls then t else put t c (look x.passedOver 0 c + 1)) (put x.passedOver cls 0) }

/-- A burst of a transfer of core `c` (R90, R92, R93, R100, R103): up to 64 destination grains move. It
waits while a buffer on its path has no credit of its class; one that reads HBM waits too while its context's
HBM level is not positive or another class has the turn. `rd` is an error the memory has developed. -/
def execBurstStart (c : Nat) (id : Nat) (rd : ReadErr) (s : State) : Out :=
  match coreInFlight s c .stream with
  | none => .next s
  | some (k, x) =>
    match flightAt x .stream id with
    | none => .next s
    | some f =>
      match f.a, f.d with
      | some a, some d =>
        if burstDue f = false then .next s
        else
          let b := nextBurst s k c f a d
          let acc := burstAccess f a d b.2.1
          let cls := classOf f.q.op
          let bufs := burstBufs s.chain b.1
          let hbm := burstReadsHbm s k c f
          if hbmWaits s k c acc ∨ (hbm && !hasTurn s k cls) = true ∨ hasCredits s.chain bufs cls = false then .next s
          else
            let s1 := develop { s with chain := takeCredits s.chain bufs cls } rd
            let s2 := burstMove s1 k c f a d
            let s3 := if acc.any (fun q => dataBp x q.1 q.2.1 q.2.2) then haltCores s2 k c 2 else s2
            .next (if hbm then servedTurn s3 k cls else s3)
      | _, _ => .next s

/-- The bursts already issued of a transfer carried out to their end, as an orphan's are (R97, R98). -/
def landFlight (fuel : Nat) (s : State) (k c id : Nat) : State :=
  match fuel with
  | 0 => s
  | n + 1 =>
    match flightAt (coreOf s k c) .stream id with
    | none => s
    | some f =>
      match f.a, f.d with
      | some a, some d => if burstDue f = false then s else landFlight n (burstMove s k c f a d) k c id
      | _, _ => s

/-- Every burst issued by core `c` of context `k` carried out, of the transfers `p` picks. -/
def landCore (s : State) (k c : Nat) (p : Flight → Bool) : State :=
  ((flightsOf (coreOf s k c) .stream).filter p).foldl (fun s f => landFlight (f.issued - f.pos) s k c f.id) s

/-! ## ENGINE_INSTRUCTION_START -/

/-- A started instruction with what it captured; a FETCH goes on the fetch list, which is its start (R95). -/
def begun (s : State) (k c : Nat) (e : Engine) (f : Flight) : Except Trap State :=
  let s1 := touchData (setFlightS s k c e f) k c (captureReads f)
  if f.q.op = .fetch then appendFetch s1 k c f else .ok s1

/-- The start of the instruction at the head of an engine's queue, once its waits are met and a place
in flight is free: the waits consume, the descriptors are read. A control read that fails raises its
event and the instruction does not take effect. A FETCH takes no place in flight. -/
def execEngineInstructionStart (c : Nat) (e : Engine) (s : State) : Out :=
  match coreAtWork s c with
  | none => .next s
  | some (k, x) =>
    match queueOf x e with
    | [] => .next s
    | q :: r =>
      if (partSt s.place (partOf s.place c)).preempting ∨ (q.op ≠ .fetch ∧ inFlightMax e ≤ inFlight x e)
          ∨ waitsMet x q.w = false then .next s
      else
        let f0 : Flight := { id := x.nextId, q := q, started := s.clock.ns }
        let x1 := consume (setQueue x e r) q.w
        let x2 := setFlights { x1 with
          nextId := x.nextId + 1
          headSince := if r = [] then drop x1.headSince (engCode e) else put x1.headSince (engCode e) s.clock.ns } e
            (flightsOf x1 e ++ [f0])
        let s1 := setCore s k c x2
        match (do
          let f ← capture s1 k c x2 f0
          begun s1 k c e f : Except Trap State) with
        | .ok t => .next t
        | .error t => trapNow (setFlightS s1 k c e { f0 with trapped := true }) k c (opcOf q.op) t

end Sys2Proof.Machine
end

