-- ==== Sys2Proof/Machine/Sync.lean ====
section
/-! DEFINITION. The sync engine: TRUSS.ARRIVE, TRUSS.WAIT and TRUSS.ARWT (R216 to R218, R223 to R231). -/

namespace Sys2Proof.Machine

/-- The name and phase operands of a TRUSS instruction, both scalar registers with their reserved
fields 0 (R216, R217). -/
def trussOperands (f : Flight) : Except Trap (Word × Word) :=
  match f.q.oa, f.q.ob with
  | .reg nm, .reg ph => if nmRsv nm || phRsv ph then .error (.unpred .reservedField) else .ok (nm, ph)
  | _, _ => .error (.unpred .reservedField)

/-- A truss operation's result in the flight that made it: a refused one traps; an arrival is ready
once recorded, a wait once it is released. -/
def syncResult (k n : Nat) (f : Flight) (waits : Bool) (r : State × Bool) : State :=
  if r.2 then
    (if waits then r.1 else flightDone r.1 k n f.id 0)
  else setFlightS r.1 k n .sync { f with trapped := true }

/-- A local operation on a bound truss, or TRUSS_INVALID_ID (R218). -/
def localTruss (s : State) (k n opc : Nat) (f : Flight) (nm : Word) (waits : Bool) (act : State → State × Bool) : State :=
  if nameOk s k nm then syncResult k n f waits (act (setFlightS s k n .sync { f with ran := true }))
  else trussInvalid (setFlightS s k n .sync { f with trapped := true }) k (unitCore n) n (nmVtid nm) (nmBgen nm) opc

/-- TRUSS.ARRIVE: on this device at once; on another node as an ATOMIC, complete when it is
acknowledged (R231); a node that the job's table lacks raises REMOTE_NODE_INVALID (R260). -/
def execTrussArrive (c : Nat) (g : Stage) (s : State) : Out :=
  match g with
  | .issue w => issueTL .trussArrive c w s
  | .run id => runStream .trussArrive c id s (fun k _ f => do
      let (nm, ph) ← trussOperands f
      if nmRemote nm then
        (if nodeKnown s (ctxOf s k).jobId (nmNode nm) then
          .ok (sendArrival (setFlightS s k c .sync { f with ran := true }) k c f.id (nmNode nm) nm ph none)
        else .ok (nodeInvalid (setFlightS s k c .sync { f with trapped := true }) k c (nmNode nm)))
      else .ok (localTruss s k c 0x50 f nm false (fun s => arriveAt s k (nmVtid nm) (.core c) (phNo ph) (phVal ph))))

/-- A waiter for an instruction, registered now. -/
def waiterOf (s : State) (n : Nat) (t : Truss) (f : Flight) : Waiter := ⟨n, f.id, t.gen, s.clock.ns⟩

/-- TRUSS.WAIT: released at once, or registered and complete at its release. -/
def execTrussWait (c : Nat) (g : Stage) (s : State) : Out :=
  match g with
  | .issue w => issueTL .trussWait c w s
  | .run id => runStream .trussWait c id s (fun k _ f => do
      let (nm, ph) ← trussOperands f
      if nmRemote nm then .error (.unpred .remoteWait)
      else .ok (localTruss s k c 0x51 f nm true (fun s =>
        let t := trussOf s k (nmVtid nm)
        trussDo s k (nmVtid nm) (.core c) (phVal ph) (waitT t (waiterOf s c t f) (phNo ph) (phVal ph)))))

/-- TRUSS.ARWT: an arrival and a wait as one operation. -/
def execTrussArwt (c : Nat) (g : Stage) (s : State) : Out :=
  match g with
  | .issue w => issueTL .trussArwt c w s
  | .run id => runStream .trussArwt c id s (fun k _ f => do
      let (nm, ph) ← trussOperands f
      if nmRemote nm then .error (.unpred .remoteWait)
      else .ok (localTruss s k c 0x52 f nm true (fun s =>
        let t := trussOf s k (nmVtid nm)
        trussDo s k (nmVtid nm) (.core c) (phVal ph)
          (arwtT t (.core c) (waiterOf s c t f) (phNo ph) (phVal ph)))))

end Sys2Proof.Machine
end

