-- ==== Sys2Proof/Machine/Coll.lean ====
section
/-! DEFINITION. A collective on one member (R280 to R303): its shards, chunks and paths, the fold of
contributions in W40, what it sends, what lands in D, the chunk-ready flags, checks, aborts and its end. -/

namespace Sys2Proof.Machine

/-! ## Paths (R290, R292) -/

/-- ALLREDUCE, REDSCAT and REDUCE reduce; the others copy. -/
def collRed (op : Nat) : Bool := op == 0 || op == 1 || op == 5

/-- The ranks after and before this one on the ring. -/
def ringNext (x : Coll) : Nat := (x.rank + 1) % x.n
def ringPrev (x : Coll) : Nat := (x.rank + x.n - 1) % x.n

/-- The virtual rank of `r` in the tree of an owner. -/
def vrank (x : Coll) (r o : Nat) : Nat := (r + x.n - o) % x.n

/-- The children of this rank in the tree of an owner, in rising virtual rank. -/
def kids (x : Coll) (o : Nat) : List Nat :=
  (((List.range x.fanin).map (fun i => x.fanin * vrank x x.rank o + 1 + i)).filter (fun v => decide (v < x.n))).map
    (fun v => (v + o) % x.n)

/-- The parent of this rank in the tree of an owner. -/
def treeParent (x : Coll) (o : Nat) : Nat := ((vrank x x.rank o - 1) / max x.fanin 1 + o) % x.n

/-- The ranks whose contributions this member folds into a chunk, in the order of the fold. -/
def redIns (x : Coll) (ch : Chunk) : List Nat :=
  if collRed x.op = false then []
  else if x.alg = 0 then (if x.n ≤ 1 ∨ x.rank = (ch.owner + 1) % x.n then [] else [ringPrev x])
  else kids x ch.owner

/-- The rank this member sends its partial of a chunk to. -/
def redOut (x : Coll) (ch : Chunk) : Option Nat :=
  if collRed x.op = false ∨ x.rank = ch.owner then none
  else if x.alg = 0 then some (ringNext x) else some (treeParent x ch.owner)

/-- The rank a chunk's result or copy data comes from. -/
def resIn (x : Coll) (ch : Chunk) : Option Nat :=
  if x.op = 1 ∨ x.op = 5 ∨ x.rank = ch.owner then none
  else if x.op = 3 then some ch.owner
  else if x.alg = 0 then some (ringPrev x) else some (treeParent x ch.owner)

/-- The ranks this member passes a chunk's result or copy data on to. -/
def resOut (x : Coll) (ch : Chunk) : List Nat :=
  if x.op = 1 ∨ x.op = 5 then []
  else if x.op = 3 then (if x.rank = ch.owner ∧ ch.shard ≠ x.rank then [ch.shard] else [])
  else if x.alg = 0 then (if ringNext x = ch.owner then [] else [ringNext x])
  else kids x ch.owner

/-- Whether this member writes a chunk into its D. -/
def writesD (x : Coll) (ch : Chunk) : Bool :=
  match x.op with
  | 1 | 5 => ch.owner == x.rank
  | 3 => ch.shard == x.rank
  | _ => true

/-- The index in D, and in A, of a chunk's first element. -/
def dFirst (x : Coll) (ch : Chunk) : Nat := if x.op = 1 then ch.first - x.rank * x.count else ch.first
def aFirst (x : Coll) (ch : Chunk) : Nat :=
  match x.op with
  | 2 => ch.first - x.rank * x.count
  | 3 => ch.shard * x.count + (ch.first - x.rank * x.count)
  | _ => ch.first

/-- The other ranks of the group. -/
def others (x : Coll) : List Nat := (List.range x.n).filter (fun r => r != x.rank)

/-- Every rank this member exchanges a chunk's data with: those on its path, those it has sent to, and the
owner or source that repairs it. -/
def chunkPeers (x : Coll) (ch : Chunk) : List Nat :=
  (redIns x ch ++ (redOut x ch).toList ++ (resIn x ch).toList ++ resOut x ch ++ ch.sent.map (· / 2)
    ++ (if ch.failures = 0 then [] else [ch.owner])).filter (fun r => r != x.rank)

/-! ## Chunks (R290) -/

/-- Runs of at most `e` elements that make up [first, first + n). -/
def cutRuns (fuel e first n : Nat) : List (Nat × Nat) :=
  match fuel with
  | 0 => []
  | f + 1 => if n = 0 then [] else (first, min e n) :: cutRuns f e (first + min e n) (n - min e n)

/-- Elements of a chunk of a format. -/
def collChunkEls (f : Nat) : Nat := 524288 / elemBits f / 32 * 32

/-- The elements of a chunk: by D's format, or by A's on a member that has no D. -/
def chunkSize (x : Coll) : Nat :=
  match x.d, x.a with
  | some d, _ => collChunkEls d.code
  | none, some a => collChunkEls a.code
  | none, none => 1

/-- The shards this member has part in: shard, owner or source, first element and count. -/
def collShards (x : Coll) : List (Nat × Nat × Nat × Nat) :=
  match x.op with
  | 0 =>
    if x.alg = 0 then (List.range x.n).map (fun q => (q, q, q * x.count / x.n, (q + 1) * x.count / x.n - q * x.count / x.n))
    else [(0, 0, 0, x.count)]
  | 1 | 2 => (List.range x.n).map (fun q => (q, q, q * x.count, x.count))
  | 3 => (List.range x.n).map (fun q => (x.rank, q, q * x.count, x.count))
      ++ (others x).map (fun q => (q, x.rank, x.rank * x.count, x.count))
  | _ => [(0, x.root, 0, x.count)]

/-- The ranks whose DONE a chunk awaits (R302): the owner or source hears from every member that receives it,
a contributor from the owner, and a member that passes it on from those it passes it to. -/
def doneFrom (x : Coll) (ch : Chunk) : List Nat :=
  if ch.owner = x.rank then
    (if x.op = 1 ∨ x.op = 5 then [] else if x.op = 3 then resOut x ch else others x)
  else (if collRed x.op then [ch.owner] else []) ++ (resOut x ch).filter (fun r => r != ch.owner)

/-- The chunks of a collective on this member. -/
def collChunks (x : Coll) : List Chunk :=
  (collShards x).flatMap (fun q => (cutRuns (q.2.2.2 + 1) (chunkSize x) q.2.2.1 q.2.2.2).map (fun r =>
    let ch : Chunk := { shard := q.1, owner := q.2.1, first := r.1, count := r.2 }
    { ch with needDone := doneFrom x ch }))

/-- A chunk replaced. -/
def setChunk (x : Coll) (i : Nat) (ch : Chunk) : Coll := { x with chunks := setNth x.chunks i ch }

/-- A collective replaced in its context. -/
def setColl (s : State) (k : Nat) (x : Coll) : State :=
  let y := ctxOf s k
  setCtx s k { y with colls := y.colls.map (fun z => if z.gid = x.gid ∧ z.seq = x.seq then x else z) }

/-! ## Values and check records (R291, R299) -/

/-- Whether the collective adds integers. -/
def intColl (x : Coll) : Bool := match x.a with | some a => a.code == fINT32 | none => false

/-- The mark of a poisoned integer partial. -/
abbrev intPoison : Nat := 0x1_0000_0000

/-- Element `j` of a tensor as a partial, its scale applied (R144): a W40 code, or an integer; a scaled INT32
that is no integer has no stated value. -/
def toPartial (d : Desc) (free j : Nat) (c : Option Nat) : Nat :=
  if d.code = fINT32 then
    match c with
    | none => intPoison
    | some v =>
      if d.scaleKind = 0 then v
      else match elemVal d j (some v) with
        | .fin q => if q.den = 1 then (q.num % 0x1_0000_0000).toNat else Config.freeBits (free + j) 32 % 0x1_0000_0000
        | .poison => intPoison
        | _ => Config.freeBits (free + j) 32 % 0x1_0000_0000
  else toW40 (elemVal d j c)

/-- Two partials combined. -/
def foldVal (int : Bool) (rop a b : Nat) : Nat :=
  if int then
    if intPoison ≤ a ∨ intPoison ≤ b then intPoison
    else match rop with
      | 0 => (a + b) % 0x1_0000_0000
      | 1 => if decodeInt fINT32 a < decodeInt fINT32 b then b else a
      | _ => if decodeInt fINT32 b < decodeInt fINT32 a then b else a
  else
    match rop with
    | 0 => toW40 ((ofW40 a).add (ofW40 b))
    | 1 => toW40 (elemFn.maxV' (ofW40 a) (ofW40 b))
    | _ => toW40 (elemFn.minV' (ofW40 a) (ofW40 b))

/-- Whether a partial is NaN, infinite or poisoned. -/
def specialPartial (int : Bool) (v : Nat) : Bool :=
  if int then decide (intPoison ≤ v) else match ofW40 v with | .fin _ => false | _ => true

/-- The check record of a run of partials. -/
def sumRecord (int : Bool) (rop : Nat) (vs : List Nat) : CheckRec :=
  match vs with
  | [] => {}
  | v :: r =>
    { sum := if rop = 0 then vs.foldl (foldVal int 0) 0 else r.foldl (foldVal int rop) v
      abs := if rop = 0 ∧ int = false then vs.foldl (fun a v => foldVal false 0 a (toW40 (ofW40 v).abs)) 0 else 0
      skip := vs.any (specialPartial int) }

/-- Two check records reduced. -/
def mergeRecord (int : Bool) (rop : Nat) (a b : CheckRec) : CheckRec :=
  { sum := foldVal int rop a.sum b.sum
    abs := if rop = 0 ∧ int = false then foldVal false 0 a.abs b.abs else 0
    skip := a.skip || b.skip }

/-- The bytes elements of a format pack into. -/
def packEls (b : Nat) (es : List OutEl) : List Byte := leBytes ((es.length * b + 7) / 8) (packNat b es)

/-- The check record of copied elements of a format. -/
def copyRecord (f : Nat) (es : List OutEl) : CheckRec :=
  { crc := crc32c (packEls (elemBits f) es)
    skip := es.any (fun e => e.poi || match decodeElem f false e.code with | .fin _ => false | _ => true) }

/-- A check record on the wire, an integer sum without its mark of poison. -/
def checkBytes (int : Bool) (r : CheckRec) : List Byte :=
  p8 (if int then r.sum % intPoison else r.sum) ++ p8 r.abs ++ p4 r.crc.toNat ++ p4 (b1 r.skip) ++ p8 0

/-- A check record read from the wire. -/
def readRecord (bs : List Byte) : CheckRec :=
  { sum := leNat (bs.take 8), abs := leNat ((bs.drop 8).take 8)
    crc := BitVec.ofNat 32 (leNat ((bs.drop 16).take 4)), skip := bit (leNat ((bs.drop 20).take 4)) 0 }

/-! ## Packets (R293) -/

/-- A packet's block of a KIND. -/
def collBlock (x : Coll) (kind first : Nat) (pay : List Byte) (poi : BitVec 64) : Block :=
  { key := x.gid, keyGen := x.ggen, offset := first, info := x.fp, aux := kind * 0x1000_0000, payload := pay, poison := poi }

/-- Blocks sent to the member of a rank, their bytes counted (R428). -/
def collSend (s : State) (k : Nat) (x : Coll) (r : Nat) (bs : List Block) : State :=
  bump (enqueue s { ctx := k, core := x.core, flight := x.flight, opc := opColl, cls := clColl, tag := some x.seq, peer := nth x.nodes r 0 } bs)
    1 k 0x42 ((bs.map (fun b => b.payload.length)).sum)

/-- One packet with an 8-byte payload sent to each of a list of ranks. -/
def collTell (s : State) (k : Nat) (x : Coll) (rs : List Nat) (kind first : Nat) (pay : List Byte) : State :=
  rs.foldl (fun s r => collSend s k x r [collBlock x kind first pay 0]) s

/-- Elements of `b` bits that a packet carries at most. -/
def perPacket (b : Nat) : Nat := if b = 6 then 5460 else 32768 / b

/-- [first, first + n) cut at the multiples of `per`. -/
def pktRuns (fuel per first n : Nat) : List (Nat × Nat) :=
  match fuel with
  | 0 => []
  | f + 1 =>
    let m := min n (per - first % per)
    if n = 0 then [] else (first, m) :: pktRuns f per (first + m) (n - m)

/-- Whether a poisoned element of a run touches grain `g` of the byte space its offset counts in. -/
def grainBad (b off : Nat) (es : List OutEl) (g : Nat) : Bool :=
  es.zipIdx.any (fun p => p.1.poi && overlaps (off + p.2 * b / 8) ((b + 7) / 8) (g * 64) 64)

/-- Elements in packets of a KIND. -/
def elBlocks (x : Coll) (kind b first : Nat) (es : List OutEl) : List Block :=
  (pktRuns (es.length + 1) (perPacket b) first es.length).map (fun r =>
    let q := (es.drop (r.1 - first)).take r.2
    let bs := packEls b q
    collBlock x kind r.1 bs (poisonWord (r.1 * b / 8) bs.length (grainBad b (r.1 * b / 8) q)))

/-- Runs of at most `n` integers, a poisoned one by itself. -/
def intRuns (n first : Nat) (vs : List Nat) : List (Nat × List Nat) :=
  match vs with
  | [] => []
  | v :: r =>
    match intRuns n (first + 1) r with
    | (f, w) :: t =>
      if v < intPoison ∧ w.all (fun u => decide (u < intPoison)) = true ∧ w.length < n then (first, v :: w) :: t
      else (first, [v]) :: (f, w) :: t
    | [] => [(first, [v])]

/-- The bytes of a run of integers; one poisoned element travels as the W40 encoding. -/
def intPartials (vs : List Nat) : List Byte :=
  match vs with
  | [v] => if intPoison ≤ v then leBytes 5 w40Poison else leBytes 4 v
  | vs => vs.flatMap (leBytes 4)

/-- Partials in packets. -/
def partialBlocks (x : Coll) (first : Nat) (vs : List Nat) : List Block :=
  if intColl x then (intRuns 1024 first vs).map (fun r => collBlock x 2 r.1 (intPartials r.2) 0)
  else (cutRuns (vs.length + 1) 819 first vs.length).map (fun r =>
    collBlock x 2 r.1 (((vs.drop (r.1 - first)).take r.2).flatMap (leBytes 5)) 0)

/-- The CHECK packet of a chunk. -/
def checkBlock (x : Coll) (ch : Chunk) (r : CheckRec) : Block := collBlock x 4 ch.first (checkBytes (intColl x) r) 0

/-! ## Chunk-ready flags (R296) -/

/-- The core whose scratchpad D lies in. -/
def destCore (x : Coll) (d : Desc) : Nat :=
  if ownBase d then x.core else (d.base - 0xF_1000_0000_0000) / Config.scratchBytes

/-- The number of a chunk among those written into D. -/
def dOrd (x : Coll) (i : Nat) : Nat := ((x.chunks.take i).filter (writesD x)).length

/-- The frame of the `m`-th chunk of D. -/
def dFrame (d : Desc) (m : Nat) : Nat := (d.base % Config.scratchBytes / 0x1_0000 + m) % 64

/-- A frame's ready bit set, and cleared with its place in the order. -/
def setFrame (c : Core) (g : Nat) : Core :=
  if c.readyMap.getLsbD g then c
  else { c with readyMap := c.readyMap ||| (1#64 <<< g), readyOrder := delNat c.readyOrder g ++ [g] }
def clearFrame (c : Core) (g : Nat) : Core :=
  { c with readyMap := c.readyMap &&& ~~~(1#64 <<< g), readyOrder := delNat c.readyOrder g }

/-- The chunks of D in order. -/
def dChunks (x : Coll) : List Chunk := x.chunks.filter (writesD x)

/-- The chunks of D whose ready bits a collective has due: all written ones in arrival mode, those
before the first unwritten one in ordered mode. -/
def dueFrames (x : Coll) (d : Desc) : List Nat :=
  let l := (dChunks x).map (fun ch => ch.written || ch.lost)
  let n := if x.ordered then (l.takeWhile (fun b => b)).length else l.length
  (List.range n).filterMap (fun i => if nth l i false then some (dFrame d i) else none)

/-- The ready bits that are due set. -/
def readyUp (s : State) (k : Nat) (x : Coll) : State :=
  match x.d with
  | some d => if x.chunkFlag then setCore s k (destCore x d) ((dueFrames x d).foldl setFrame (coreOf s k (destCore x d))) else s
  | none => s

/-- The ready bit of the chunk at `i` cleared. -/
def readyDown (s : State) (k : Nat) (x : Coll) (i : Nat) : State :=
  match x.d with
  | some d => if x.chunkFlag then setCore s k (destCore x d) (clearFrame (coreOf s k (destCore x d)) (dFrame d (dOrd x i))) else s
  | none => s

/-- Whether the frame of the chunk at `i` has been read (R301). -/
def frameRead (s : State) (k : Nat) (x : Coll) (i : Nat) : Bool :=
  match x.d with
  | some d => x.chunkFlag && (coreOf s k (destCore x d)).firstRead.getLsbD (dFrame d (dOrd x i))
  | none => false

/-- The ready and first-read bits of D's frames cleared at the start. -/
def frameStart (c : Core) (ordered : Bool) (gs : List Nat) : Core :=
  gs.foldl (fun c g =>
    let y := clearFrame c g
    { y with
      firstRead := y.firstRead &&& ~~~(1#64 <<< g)
      arrival := if ordered then delNat y.arrival g else addNat y.arrival g }) c

/-! ## Landing, folding and sending -/

/-- The accesses of elements [first, first + n) of a tensor. -/
def elAccesses (d : Desc) (first n : Nat) (wr : Bool) : List (Nat × Nat × Bool) :=
  (pieces64 (n + 1) d first (first + n)).map (fun p => ((elemAt d p.1).1, (p.2 * elemBits d.code + 7) / 8, wr))

/-- Elements of a tensor accessed by a collective: the errors met and the HBM traffic charged (R281). -/
def elPay (s : State) (k n : Nat) (d : Desc) (first m : Nat) (wr : Bool) : State :=
  payFor s k (touches s k n (elAccesses d first m wr))

/-- Elements stored into D from an index on, each an observation of D's watch slot (R186). -/
def putEls (s : State) (k n : Nat) (d : Desc) (first : Nat) (es : List OutEl) : Except Trap State := do
  let s1 ← writeVas s k n ((pieces64 (es.length + 1) d first (first + es.length)).flatMap (fun p =>
    rowWrs (elemAt d p.1).1 (elemBits d.code) ((es.drop (p.1 - first)).take p.2)))
  let obs ← watchObs s1 k n d (es.zipIdx.map (fun e => (first + e.2, e.1)))
  .ok (obs.foldl (applyObs k n) (elPay s1 k n d first es.length true))

/-- Result or copy elements taken in by a chunk from its element `at'` on, written into D where the
chunk belongs there. -/
def landEls (s : State) (k : Nat) (x : Coll) (i : Nat) (ch : Chunk) (at' : Nat) (es : List OutEl) : Except Trap (State × Coll) := do
  let idx := es.zipIdx.map (fun e => (at' + e.2, e.1))
  let res := idx.foldl (fun t e => put t e.1 e.2.code) ch.res
  let poi := idx.foldl (fun l e => if e.2.poi then addNat l e.1 else delNat l e.1) ch.resPoi
  let ch1 : Chunk := { ch with res := res, resPoi := poi, written := ch.written || res.length == ch.count }
  let s1 ← (match x.d with
    | some d => if writesD x ch then putEls s k x.core d (dFirst x ch + at') es else .ok s
    | none => .ok s)
  let x1 := setChunk x i ch1
  .ok (readyUp s1 k x1, x1)

/-- The codes of elements [first, first + n) of a tensor. -/
def codesOf (s : State) (k n : Nat) (d : Desc) (first m : Nat) : Except Trap (List (Option Nat)) :=
  (List.range m).mapM (fun i => readCode s k n d (first + i))

/-- The codes of a chunk of A, and the state after the read of them. -/
def aCodes (s : State) (k : Nat) (x : Coll) (ch : Chunk) : Except Trap (State × List (Option Nat)) :=
  match x.a with
  | some a => do
    let cs ← codesOf s k x.core a (aFirst x ch) ch.count
    .ok (elPay s k x.core a (aFirst x ch) ch.count false, cs)
  | none => .ok (s, [])

/-- Codes as elements to send or store. -/
def codeEls (cs : List (Option Nat)) : List OutEl := cs.map (fun c => ⟨c.getD 0, c.isNone⟩)

/-- Whether every contribution of a chunk has come, its record with it. -/
def inputsIn (x : Coll) (ch : Chunk) : Bool :=
  (redIns x ch).all (fun p => (look ch.parts [] p).length == ch.count && has ch.recs p)

/-- A result narrowed into element `j` of D, at D's scale (R147, R282); an unscaled integer wraps. -/
def collNarrow (int : Bool) (d : Desc) (j v : Nat) : Conv :=
  if int ∧ (d.scaleKind = 0 ∨ intPoison ≤ v) then ⟨v % 0x1_0000_0000, .none, false, decide (intPoison ≤ v)⟩
  else
    let y := if int then Val.fin ((decodeInt fINT32 v : Int) : Rat) else ofW40 v
    convElem d.code false false (if d.scaleKind = 0 then y else y.div (scaleOf d j))

/-- The fold of a chunk once its contributions are in (R291, R292); at the owner the result is formed
and lands. A narrowing that saturated skips the check of every member: its record says so (R300). -/
def foldChunk (s : State) (k : Nat) (x : Coll) (i : Nat) (ch : Chunk) : Except Trap (State × Coll) := do
  if collRed x.op = false ∨ ch.folded ∨ ch.lost ∨ inputsIn x ch = false then .ok (s, x)
  else
    let int := intColl x
    let (s, cs) ← aCodes s k x ch
    let own := match x.a with
      | some a => cs.zipIdx.map (fun c => toPartial a s.freeCtr (aFirst x ch + c.2) c.1)
      | none => []
    let s := drawn s
    let acc := own.zipIdx.map (fun v => (redIns x ch).foldl (fun w p => foldVal int x.rop w (look (look ch.parts [] p) 0 v.2)) v.1)
    let rec' := (redIns x ch).foldl (fun r p => mergeRecord int x.rop r (look ch.recs {} p)) (sumRecord int x.rop own)
    let ch1 : Chunk := { ch with folded := true, acc := acc, accRec := rec' }
    match x.d with
    | some d =>
      if ch.owner = x.rank then
        let cv := acc.zipIdx.map (fun v => collNarrow int d (dFirst x ch + v.2) v.1)
        let t := tally cv
        let sat := cv.any (fun c => c.cls == .sat)
        let ch2 : Chunk := { ch1 with sat := sat, record := some { rec' with skip := rec'.skip || sat } }
        landEls (countNumeric s k 4 { t with latch := 0 }) k x i ch2 0 (cv.map (fun c => ⟨c.code, c.poi⟩))
      else .ok (s, setChunk x i ch1)
    | none => .ok (s, setChunk x i ch1)

/-- The elements of a chunk's result. -/
def resEls (ch : Chunk) : List OutEl := (List.range ch.count).map (fun j => ⟨look ch.res 0 j, ch.resPoi.elem j⟩)

/-- The element format a result or copy travels in. -/
def resFmt (x : Coll) : Nat :=
  match x.d, x.a with
  | some d, _ => d.code
  | none, some a => a.code
  | none, none => fUINT8

/-- A chunk's result or copy data sent to a rank, its record after it. -/
def sendResult (s : State) (k : Nat) (x : Coll) (ch : Chunk) (r : Nat) : State :=
  match ch.record with
  | some c => collSend s k x r (elBlocks x (if collRed x.op then 3 else 1) (elemBits (resFmt x)) ch.first (resEls ch) ++ [checkBlock x ch c])
  | none => s

/-- The contribution of a chunk sent on: unscaled elements of A by the first of a ring, partials otherwise. -/
def sendPartial (s : State) (k : Nat) (x : Coll) (ch : Chunk) (r : Nat) : Except Trap State := do
  match x.a with
  | some a =>
    if x.alg = 0 ∧ redIns x ch = [] ∧ a.scaleKind = 0 then
      let cs ← codesOf s k x.core a (aFirst x ch) ch.count
      .ok (collSend s k x r (elBlocks x 1 (elemBits a.code) ch.first (codeEls cs) ++ [checkBlock x ch ch.accRec]))
    else .ok (collSend s k x r (partialBlocks x ch.first ch.acc ++ [checkBlock x ch ch.accRec]))
  | none => .ok s

/-- What a chunk has ready for peers whose READY has come (R294). -/
def sendChunk (s : State) (k : Nat) (x : Coll) (i : Nat) (ch : Chunk) : Except Trap (State × Coll) := do
  let out := match redOut x ch with
    | some r => if ch.folded && x.readyFrom.elem r && !ch.sent.elem (2 * r) then [r] else []
    | none => []
  let s1 ← out.foldlM (fun s r => sendPartial s k x ch r) s
  let rs := if ch.record.isSome && ch.res.length == ch.count then
      (resOut x ch).filter (fun r => x.readyFrom.elem r && !ch.sent.elem (2 * r + 1)) else []
  let s2 := rs.foldl (fun s r => sendResult s k x ch r) s1
  .ok (s2, setChunk x i { ch with sent := ch.sent ++ out.map (fun r => 2 * r) ++ rs.map (fun r => 2 * r + 1) })

/-- Every chunk folded and sent as far as it can be. -/
def pumpFrom (fuel : Nat) (s : State) (k : Nat) (x : Coll) (i : Nat) : Except Trap (State × Coll) :=
  match fuel with
  | 0 => .ok (s, x)
  | n + 1 =>
    match x.chunks[i]? with
    | none => .ok (s, x)
    | some ch => do
      let (s1, x1) ← foldChunk s k x i ch
      let (s2, x2) ← (match x1.chunks[i]? with
        | some c => sendChunk s1 k x1 i c
        | none => .ok (s1, x1))
      pumpFrom n s2 k x2 (i + 1)

/-! ## The end (R297, R298, R302, R303) -/

/-- Whether some grain of D is poisoned. -/
def dPoisoned (s : State) (k : Nat) (x : Coll) : Bool :=
  match x.d with
  | some d => (tensorSpan d).any (fun r => match readVa s k x.core r.1 r.2 with | .ok p => p.2 | .error _ => false)
  | none => false

/-- The destination grains of a collective. -/
def dGrains (x : Coll) : Nat :=
  match x.d with
  | some d => (((tensorSpan d).flatMap (fun r => grainsOf r.1 r.2)).foldl addNat []).length
  | none => 0

/-- The group word [31:0] of a collective. -/
def groupWord (x : Coll) : Nat := x.ggen * 0x1_0000 + x.gid

/-- A collective's instruction ready to complete, its status array written, and the collective gone. -/
def endColl (s : State) (k : Nat) (x : Coll) (status : Nat) (byteOf : Nat → Nat) : State :=
  let ptr := (look (ctxOf s k).groups {} x.gid).statusPtr
  let s1 := match writeVa s k 320 ptr ((List.range x.n).map (fun r => BitVec.ofNat 8 (byteOf r))) false with
    | .ok t => t
    | .error _ => s
  let poi := dPoisoned s1 k x
  let s2 := setCore s1 k x.core (setFlight (coreOf s1 k x.core) x.flight (fun f =>
    { f with ready := true, status := status, poisonSeen := poi, grains := dGrains x }))
  let y := ctxOf s2 k
  let s3 := setCtx s2 k { y with colls := y.colls.filter (fun z => !(z.gid == x.gid && z.seq == x.seq)) }
  traceCat s3 3 k x.core (unitCore x.core) 0x41 0 x.seq (p4 (groupWord x) ++ leBytes 1 status)

/-- The destination grains of a chunk poisoned, their bytes unchanged. -/
def poisonChunk (s : State) (k : Nat) (x : Coll) (ch : Chunk) : State :=
  match x.d with
  | none => s
  | some d =>
    let fst := dFirst x ch
    let gs := ((pieces64 (ch.count + 1) d fst (fst + ch.count)).flatMap (fun p =>
      grainsOf (elemAt d p.1).1 ((p.2 * elemBits d.code + 7) / 8))).foldl addNat []
    gs.foldl (fun s g => match translate s k x.core (g * 64) .write with
      | .ok (.mem a) => poisonGrain s a
      | _ => s) s

/-- The members data is exchanged with. -/
def collPeers (x : Coll) : List Nat := (x.chunks.flatMap (chunkPeers x)).foldl addNat []

/-- The abort of a collective on this member (R298). -/
def abortColl (s : State) (k : Nat) (x : Coll) : State :=
  let bad := (dChunks x).filter (fun ch => !ch.passed)
  let s1 := bad.foldl (fun s ch => poisonChunk s k x ch) s
  let x1 : Coll := { x with chunks := x.chunks.map (fun (ch : Chunk) => { ch with lost := ch.lost || !ch.passed }) }
  let ps := collPeers x
  endColl (readyUp s1 k x1) k x1 2 (fun r => if ps.elem r then 3 else 0)

/-- COLLECTIVE_MISMATCH (R298): every member told, and the collective aborted. -/
def mismatch (s : State) (k : Nat) (x : Coll) (fp node : Nat) (tell : Bool) : State :=
  let s1 := raise s 0x0501 clsJ k (unitCore x.core) (p4 (groupWord x) ++ p4 x.seq ++ p8 x.fp ++ p8 fp ++ p4 node)
  abortColl (if tell then collTell s1 k x (others x) 6 0 (p8 x.fp) else s1) k x

/-- COLLECTIVE_REVOKED with the abort of the collective here (R301). -/
def revoked (s : State) (k : Nat) (x : Coll) (first node : Nat) (tell : Bool) : State :=
  let s1 := raise s 0x0502 clsJ k 0 (p4 (groupWord x) ++ p4 x.seq ++ p8 first ++ p4 node)
  abortColl (if tell then collTell s1 k x (others x) 7 first (p8 first) else s1) k x

/-- Whether a collective is complete on this member. -/
def collComplete (x : Coll) : Bool :=
  (dChunks x).all (fun ch => ch.passed || ch.lost) && x.chunks.all (fun ch => ch.needDone.isEmpty || ch.lost)

/-- The byte of a member in the status array (R297, R303). -/
def memberByte (x : Coll) (r : Nat) : Nat :=
  if x.lostRanks.elem r then 2
  else if x.chunks.any (fun ch => ch.lost && (chunkPeers x ch).elem r) then 1 else 0

/-- The end of a collective that is complete; chunks lost with a peer make it PARTIAL or FAILED. -/
def finishColl (s : State) (k : Nat) (x : Coll) : State :=
  if collComplete x = false then s
  else
    let bad := (x.chunks.filter (fun ch => ch.lost)).length
    let dl := dChunks x
    if bad = 0 then endColl s k x 0 (memberByte x)
    else
      let s1 := raise s 0x0503 clsD k 0
        (p4 (groupWord x) ++ p4 x.seq ++ p4 bad ++ p4 (nth x.nodes (x.lostRanks.head?.getD 0) 0))
      endColl s1 k x (if dl ≠ [] ∧ dl.all (fun ch => ch.lost) = true then 2 else 1) (memberByte x)

/-- A collective carried on after anything has changed; a failed access faults its instruction. -/
def pump (s : State) (k : Nat) (x : Coll) : State :=
  match pumpFrom (x.chunks.length + 1) s k x 0 with
  | .ok (s1, y) => finishColl (setColl s1 k y) k y
  | .error t => raiseTrap (setColl s k x) k x.core (0x58 + x.op) t

/-- The same after a step that may itself fail. -/
def pumpE (s : State) (k : Nat) (x : Coll) (r : Except Trap (State × Coll)) : State :=
  match r with
  | .ok (s1, y) => pump s1 k y
  | .error t => raiseTrap s k x.core (0x58 + x.op) t

/-! ## The check of a chunk (R300) -/

/-- The unit roundoff u_D and the λ_D of a format. -/
def uOf (f : Nat) : Rat :=
  if f = fW40 then pow2 (-30) else if f = fFP32 then pow2 (-24) else if f = fFP16 then pow2 (-11)
  else if f = fBF16 then pow2 (-8) else if f = fE4M3 then pow2 (-4) else pow2 (-3)
def lamOf (f : Nat) : Rat := if f = fBF16 ∨ f = fFP16 then minNormal f else 0

/-- The bound τ. -/
def tau (f n m : Nat) (abs : Rat) : Rat :=
  (((n + m + 2 : Nat) : Rat) * pow2 (-29) + uOf f) * abs + (m : Rat) * lamOf f

/-- Whether the elements of D read back from `first` on pass against a record, and S − SUM as W40. -/
def checkPasses (x : Coll) (d : Desc) (free first : Nat) (cs : List (Option Nat)) (r : CheckRec) : Bool × Nat :=
  if collRed x.op then
    let int := intColl x
    let vs := cs.zipIdx.map (fun c => toPartial d free (first + c.2) c.1)
    let c := sumRecord int x.rop vs
    if int ∨ x.rop ≠ 0 then (c.sum == r.sum && !vs.any (fun v => int && decide (intPoison ≤ v)), toW40 ((ofW40 c.sum).add (ofW40 r.sum).neg))
    else match ofW40 c.sum, ofW40 r.sum, ofW40 r.abs with
      | .fin a, .fin b, .fin t => (decide (absQ (a - b) ≤ tau d.code x.n cs.length t), toW40 (.fin (a - b)))
      | a, b, _ => (false, toW40 (a.add b.neg))
  else (crc32c (packEls (elemBits d.code) (codeEls cs)) == r.crc && cs.all (fun c => c.isSome), 0)

end Sys2Proof.Machine
end

