-- ==== Sys2Proof/Machine/Collective.lean ====
section
/-! DEFINITION. The commands of collectives: the six instructions (R280 to R289, R296, R298), the ten
packet kinds as they arrive (R293, R294, R298, R301, R302), the check of a chunk (R300, R301), and what
the loss of a peer does to them (R303). -/

namespace Sys2Proof.Machine

/-! ## The instructions -/

/-- The fingerprint of a collective (R298). -/
def fingerprint (x : Coll) (afmt dfmt : Nat) : Nat :=
  leNat (shake256 8 (leBytes 1 (0x58 + x.op) ++ leBytes 1 (if collRed x.op then x.rop else 0) ++ leBytes 1 afmt
    ++ leBytes 1 dfmt ++ p4 (groupWord x) ++ p4 x.n ++ leBytes 1 x.alg ++ leBytes 1 x.fanin ++ leBytes 2 0
    ++ p8 x.count ++ p4 x.seq ++ p4 (if x.op = 4 ∨ x.op = 5 then x.root else 0)))

/-- The byte FMT[56:52] of a descriptor (R58). -/
def fmtByte (d : Option Desc) : Nat := match d with | some d => d.code + (if d.mx then 16 else 0) | none => 0

/-- The formats R282 accepts. -/
def collFmtOk (op : Nat) (a d : Option Desc) : Bool :=
  let fl := fun (f : Nat) => decide (fE4M3 ≤ f) && decide (f ≤ fW40)
  let ok := fun (t : Option Desc) => match t with | some t => !t.mx && decide (t.code ≤ fINT32) | none => true
  let red := fun (t : Option Desc) (int : Bool) => match t with | some t => if int then t.code == fINT32 else fl t.code | none => true
  ok a && ok d &&
    (if collRed op then (match a with | some t => red a (t.code == fINT32) && red d (t.code == fINT32) | none => false)
     else match a, d with | some p, some q => p.code == q.code | _, _ => true)

/-- The element count of R280, none where the sizes of A and D do not agree with the operation. -/
def collCount (op n : Nat) (root : Bool) (a d : Option Desc) : Option Nat :=
  let na := match a with | some t => count t | none => 0
  let nd := match d with | some t => count t | none => 0
  match op with
  | 0 => if a.isSome ∧ d.isSome ∧ na = nd then some na else none
  | 1 => if a.isSome ∧ d.isSome ∧ na = n * nd then some nd else none
  | 2 => if a.isSome ∧ d.isSome ∧ nd = n * na then some na else none
  | 3 => if a.isSome ∧ d.isSome ∧ na = nd ∧ na % n = 0 then some (na / n) else none
  | 4 => if d.isSome ∧ a.isSome = root ∧ (root = false ∨ na = nd) then some nd else none
  | _ => if a.isSome ∧ d.isSome = root ∧ (root = false ∨ na = nd) then some na else none

/-- Whether a tensor lies contiguously in one scratchpad from a multiple of 64 KiB on. -/
def inOneScratch (d : Desc) : Bool :=
  let n := (count d * elemBits d.code + 7) / 8
  let lin := (tensorSpan d).zipIdx.all (fun p => p.1.1 == d.base + p.2 * p.1.2)
  let off := d.base % Config.scratchBytes
  decide (d.base % 0x1_0000 = 0) && lin && decide (off + n ≤ Config.scratchBytes)
    && (ownBase d || decide (0xF_1000_0000_0000 ≤ d.base))

/-- The conditions of CHUNKFLAG (R296). -/
def chunkFlagOk (x : Coll) : Bool :=
  match x.d with
  | none => false
  | some d => inOneScratch d && elemBits d.code != 6
      && (dChunks x).zipIdx.all (fun c => dFirst x c.1 * elemBits d.code == c.2 * 524288)

/-- The local data of a copy taken in: the chunks this member is the source of. -/
def loadOwn (fuel : Nat) (s : State) (k : Nat) (x : Coll) (i : Nat) : Except Trap (State × Coll) :=
  match fuel with
  | 0 => .ok (s, x)
  | n + 1 =>
    match x.chunks[i]? with
    | none => .ok (s, x)
    | some ch => do
      if collRed x.op ∨ ch.owner ≠ x.rank then loadOwn n s k x (i + 1)
      else
        let (s, cs) ← aCodes s k x ch
        let es := codeEls cs
        let ch1 : Chunk := { ch with record := some (copyRecord (resFmt x) es) }
        let (s1, x1) ← landEls s k (setChunk x i ch1) i ch1 0 es
        loadOwn n s1 k x1 (i + 1)

/-- Every byte of A readable and of D writable (R66). -/
def collReach (s : State) (k n : Nat) (a d : Option Desc) : Except Trap Unit := do
  let _ ← (match a with
    | some t => (tensorSpan t).mapM (fun r => readVa s k n r.1 r.2)
    | none => .ok [])
  let _ ← (match d with
    | some t => (tensorSpan t).mapM (fun r => (segs r.1 r.2).mapM (fun g => translate s k n g.1 .write))
    | none => .ok [])
  .ok ()

/-- The accesses of a whole tensor. -/
def wholeOf (t : Option Desc) (wr : Bool) : List (Nat × Nat × Bool) :=
  match t with
  | some t => (tensorSpan t).map (fun r => (r.1, r.2, wr))
  | none => []

/-- The frames of D that a collective with CHUNKFLAG uses, with the core they belong to (R296). -/
def readyFrames (x : Coll) : List (Nat × Nat) :=
  match x.chunkFlag, x.d with
  | true, some d => (List.range (dChunks x).length).map (fun m => (destCore x d, dFrame d m))
  | _, _ => []

/-- Whether an earlier COLL of a core holds the head of its collective work (R295). -/
def collBehind (c : Core) (id : Nat) : Bool :=
  ((flightsOf c .stream).takeWhile (fun f => f.id != id)).any (fun f =>
    decide (f.issued = 1) && !f.ran && !f.trapped && (match f.q.op with | .coll _ => true | _ => false))

/-- The peers that will send this member data (R294). -/
def sendersToMe (x : Coll) : List Nat :=
  (x.chunks.flatMap (fun ch => redIns x ch ++ (resIn x ch).toList)).foldl addNat []

/-- The collectives of the device in flight (R295). -/
def collsInFlight (s : State) : Nat := (s.ctxs.map (fun e => e.2.colls.length)).sum

/-- A collective whose instruction has started reaches the network die (R280 to R298). -/
def collStart (op : Nat) (s : State) (k n : Nat) (f : Flight) : Except Trap State := do
  let g := f.q.ob.val
  let gid := g % 0x1_0000
  if groupOk s k g = false then .ok (groupInvalid (setFlightS s k n .stream { f with trapped := true }) k n g)
  else if collBehind (coreOf s k n) f.id then .ok s
  else if 256 ≤ collsInFlight s then .ok (setFlightS s k n .stream { f with issued := 1 })
  else if hbmWaits s k n (wholeOf f.a false) then .ok s
  else
    let b := look (ctxOf s k).groups {} gid
    let m := b.members.length
    let sub := f.q.w.sub.toNat
    let rop := bits sub 11 8
    let rooted := op == 4 || op == 5
    need (f.q.ob.isReg && decide (g < 0x1_0000_0000) && !f.q.oa.isReg && !f.q.od.isReg && (!rooted || decide (f.q.w.imm.toNat < m)))
    if collRed op && decide (2 < rop) then .error (.unpred .reservedField)
    else
      let root := if rooted then f.q.w.imm.toNat else 0
      need (collFmtOk op f.a f.d)
      match collCount op m (root == b.rank) f.a f.d with
      | none => .error (.unpred .malformed)
      | some cnt =>
        let x0 : Coll := { core := n, flight := f.id, op := op, gid := gid, ggen := b.ggen, seq := b.seqNo, rop := rop
                           ordered := bit sub 7, chunkFlag := bit sub 6, root := root, count := cnt, n := m, rank := b.rank
                           alg := b.alg, fanin := b.fanin, fp := 0, nodes := b.members, a := f.a, d := f.d, started := s.clock.ns }
        let x1 := { x0 with
          fp := fingerprint x0 (if op = 4 ∧ root ≠ b.rank then fmtByte f.d else fmtByte f.a) (if op = 0 then fmtByte f.d else 0xFF)
          chunks := collChunks x0 }
        need (!x1.chunkFlag || chunkFlagOk x1)
        collReach s k n f.a f.d
        if operandsMeet s k n f ∨ (ctxOf s k).colls.any (fun z => (readyFrames z).any (readyFrames x1).elem) = true then
          .error (.unpred .overlap) else
        let phys := fun (t : Option Desc) (wr : Bool) => joinRanges ((touches s k n (wholeOf t wr)).map (fun t => (t.dpa, t.len)))
        let x1 := { x1 with ins := phys f.a false, outs := phys f.d true }
        let held := b.held.filter (fun h => h.seq == b.seqNo)
        let y := ctxOf s k
        let s1 := setCtx s k { y with
          groups := put y.groups gid { b with
            seqNo := (b.seqNo + 1) % 0x1_0000_0000
            held := b.held.filter (fun h => h.seq != b.seqNo), aborts := delNat b.aborts b.seqNo
            revokes := b.revokes.filter (fun r => r.1 != b.seqNo) }
          colls := y.colls ++ [x1] }
        let s2 := setFlightS s1 k n .stream { f with ran := true }
        let s3 := match x1.chunkFlag, f.d with
          | true, some d => setCore s2 k (destCore x1 d) (frameStart (coreOf s2 k (destCore x1 d)) x1.ordered
              ((List.range (dChunks x1).length).map (dFrame d)))
          | _, _ => s2
        let s4 := traceCat s3 3 k n (unitCore n) 0x40 0 x1.seq (p4 (groupWord x1) ++ leBytes 1 (0x58 + op))
        let x2 := { x1 with readyFrom := held.map (fun h => h.rank) }
        match held.find? (fun h => h.fp != x1.fp) with
        | some h => .ok (mismatch s4 k x2 h.fp h.node true)
        | none =>
          if b.aborts.elem b.seqNo then .ok (mismatch s4 k x2 x1.fp (ownNode0 s) false)
          else match b.revokes.find? (fun r => r.1 == b.seqNo) with
          | some r => .ok (revoked s4 k x2 r.2.1 r.2.2 false)
          | none =>
            let s5 := collTell s4 k x2 (sendersToMe x2) 0 0 (p4 x2.rank ++ p4 0)
            .ok (pumpE s5 k x2 (loadOwn (x2.chunks.length + 1) s5 k x2 0))

/-- COLL.ALLREDUCE. -/
def execCollAllreduce (c : Nat) (g : Stage) (s : State) : Out :=
  match g with
  | .issue w => issueTL (.coll 0) c w s
  | .run id => runStream (.coll 0) c id s (fun k _ f => collStart 0 s k c f)

/-- COLL.REDSCAT. -/
def execCollRedscat (c : Nat) (g : Stage) (s : State) : Out :=
  match g with
  | .issue w => issueTL (.coll 1) c w s
  | .run id => runStream (.coll 1) c id s (fun k _ f => collStart 1 s k c f)

/-- COLL.ALLGATHER. -/
def execCollAllgather (c : Nat) (g : Stage) (s : State) : Out :=
  match g with
  | .issue w => issueTL (.coll 2) c w s
  | .run id => runStream (.coll 2) c id s (fun k _ f => collStart 2 s k c f)

/-- COLL.ALLTOALL. -/
def execCollAlltoall (c : Nat) (g : Stage) (s : State) : Out :=
  match g with
  | .issue w => issueTL (.coll 3) c w s
  | .run id => runStream (.coll 3) c id s (fun k _ f => collStart 3 s k c f)

/-- COLL.BCAST. -/
def execCollBcast (c : Nat) (g : Stage) (s : State) : Out :=
  match g with
  | .issue w => issueTL (.coll 4) c w s
  | .run id => runStream (.coll 4) c id s (fun k _ f => collStart 4 s k c f)

/-- COLL.REDUCE. -/
def execCollReduce (c : Nat) (g : Stage) (s : State) : Out :=
  match g with
  | .issue w => issueTL (.coll 5) c w s
  | .run id => runStream (.coll 5) c id s (fun k _ f => collStart 5 s k c f)

/-! ## Packets -/

/-- A sequence number not reached by a group: at or after its current one. -/
def seqAhead (cur q : Nat) : Bool := q == cur || psnBefore cur q

/-- Whether the elements of a DATA or RESULT packet cross a boundary of 4 KiB of the destination's bytes (R266).
Elements of 6 bits do not end at such boundaries, and their packets are cut at 5,460 elements. -/
def crosses (x : Coll) (p : Packet) : Bool :=
  let kind := p.hdr.opAux / 0x1000_0000
  let f := match x.a with | some a => if collRed x.op && kind == 1 then a.code else resFmt x | none => resFmt x
  (kind == 1 || kind == 3) && elemBits f != 6 &&
    decide (4096 < p.hdr.offset * elemBits f / 8 % 4096 + p.payload.length)

/-- What a member does with a COLL packet its session has taken in: the group judged (R293), the
fingerprint held against its own whoever sent it (R298), and then `act` with the collective and the sender's
rank; `ahead` where the sequence number is not reached here. -/
def collLand (s : State) (p : Packet) (k : Nat) (checkFp : Bool) (act : Coll → Nat → State) (ahead : Group → Landed) : Landed :=
  let h := p.hdr
  let gid := h.key % 0x1_0000
  let b := look (ctxOf s k).groups {} gid
  match judgeGen b.bound b.ever b.ggen h.keyGen with
  | .stale => .stale
  | .invalid => .done (raise s 0x0505 clsJ k 0 (p4 h.srcNode ++ p4 (h.keyGen * 0x1_0000 + gid))) 0
  | .ok =>
    match (ctxOf s k).colls.find? (fun x => x.gid == gid && x.seq == h.opId) with
    | some x =>
      let r := x.nodes.findIdx (· == h.srcNode)
      if checkFp ∧ h.opInfo ≠ x.fp then .done (mismatch s k x h.opInfo h.srcNode true) 0
      else if checkFp ∧ x.n ≤ r then .done s 0
      else if crosses x p then .crossing
      else .done (act x r) 0
    | none => if seqAhead b.seqNo h.opId then ahead b else .done s 0

/-- A COLL packet of a KIND received; a packet of another KIND belongs to another command. -/
def collRecv (s : State) (p : Packet) (kind : Nat) (land : Nat → Landed) : State :=
  if p.hdr.opAux / 0x1000_0000 = kind then receive s p opColl (ofCtx s land) else s

/-- Nothing done for a sequence number this member has not reached. -/
def notYet (s : State) : Group → Landed := fun _ => .done s 0

/-- The bytes of a packet counted as received by the context (R428). -/
def collBytes (s : State) (k : Nat) (p : Packet) : State := bump s 1 k 0x43 p.payload.length

/-- The group word's binding replaced. -/
def setGroup (s : State) (k gid : Nat) (b : Group) : State :=
  setCtx s k { ctxOf s k with groups := put (ctxOf s k).groups gid b }

/-- The elements of `b` bits a payload carries, poison by its grains. -/
def payEls (p : Packet) (b : Nat) : List OutEl :=
  let v := leNat p.payload
  let off := p.hdr.offset * b / 8
  (List.range (p.payload.length * 8 / b)).map (fun j =>
    let lo := off + j * b / 8
    let hi := off + (j * b + b - 1) / 8
    ⟨v / 2 ^ (j * b) % 2 ^ b,
      p.poison.getLsbD (lo / 64 - off / 64) || p.poison.getLsbD (hi / 64 - off / 64)⟩)

/-- The chunk that holds an element of data from a rank. -/
def chunkOf (x : Coll) (off r : Nat) : Option (Nat × Chunk) :=
  ((x.chunks.zipIdx.find? (fun c => decide (c.1.first ≤ off) && decide (off < c.1.first + c.1.count)
    && !c.1.lost && !c.1.passed && (x.op != 3 || c.1.owner == r)))).map (fun c => (c.2, c.1))

/-- Partials of a rank taken in by a chunk; new ones after the fold begin it again (R301). -/
def takePartials (s : State) (k : Nat) (x : Coll) (r off : Nat) (vs : List Nat) : State :=
  match chunkOf x off r with
  | none => s
  | some (i, ch) =>
    if (redIns x ch).elem r = false then s
    else
      let c0 : Chunk := if ch.folded then
          { ch with folded := false, parts := [], recs := []
                    sent := ch.sent.filter (fun q => q % 2 == 1) }
        else ch
      let p := ((vs.take (ch.first + ch.count - off)).zipIdx).foldl (fun t v => put t (off - ch.first + v.2) v.1) (look c0.parts [] r)
      pump s k (setChunk x i { c0 with parts := put c0.parts r p })

/-- Result or copy data taken in by a chunk. -/
def takeResult (s : State) (k : Nat) (x : Coll) (r off : Nat) (es : List OutEl) : State :=
  match chunkOf x off r with
  | none => s
  | some (i, ch) =>
    if resIn x ch = some r ∨ (ch.owner = r ∧ writesD x ch = true) then
      pumpE s k x (landEls s k x i ch (off - ch.first) (es.take (ch.first + ch.count - off)))
    else s

/-- DATA: a contribution in A's format, or copy data. -/
def execCollData (k : Packet) (s : State) : Out :=
  .next (collRecv s k 1 (fun c =>
    let s1 := collBytes s c k
    collLand s1 k c true
      (fun x r =>
        if collRed x.op then
          match x.a with
          | some a => takePartials s1 c x r k.hdr.offset ((payEls k (elemBits a.code)).map (fun e =>
              toPartial { a with scaleKind := 0 } 0 0 (if e.poi then none else some e.code)))
          | none => s1
        else takeResult s1 c x r k.hdr.offset (payEls k (elemBits (resFmt x))))
      (notYet s1)))

/-- The partials a payload packs: 5 bytes each, 4 for integers but for a poisoned one by itself. -/
def payPartials (p : Packet) (int : Bool) : List Nat :=
  let n := if int then 4 else 5
  if int ∧ p.payload.length = 5 then [intPoison]
  else (List.range (p.payload.length / n)).map (fun j => leNat ((p.payload.drop (j * n)).take n))

/-- PARTIAL. -/
def execCollPartial (k : Packet) (s : State) : Out :=
  .next (collRecv s k 2 (fun c =>
    let s1 := collBytes s c k
    collLand s1 k c true (fun x r => takePartials s1 c x r k.hdr.offset (payPartials k (intColl x))) (notYet s1)))

/-- RESULT. -/
def execCollResult (k : Packet) (s : State) : Out :=
  .next (collRecv s k 3 (fun c =>
    let s1 := collBytes s c k
    collLand s1 k c true (fun x r => takeResult s1 c x r k.hdr.offset (payEls k (elemBits (resFmt x)))) (notYet s1)))

/-- A check record taken in: of the contribution of a rank whose record has not come, or of the
result. -/
def takeRecord (s : State) (k : Nat) (x : Coll) (r off : Nat) (c : CheckRec) : State :=
  match chunkOf x off r with
  | none => s
  | some (i, ch) =>
    if (redIns x ch).elem r && !has ch.recs r then pump s k (setChunk x i { ch with recs := put ch.recs r c })
    else if resIn x ch = some r ∨ (ch.owner = r ∧ writesD x ch = true) then pump s k (setChunk x i { ch with record := some c })
    else s

/-- CHECK. -/
def execCollCheck (k : Packet) (s : State) : Out :=
  .next (collRecv s k 4 (fun c =>
    let s1 := collBytes s c k
    collLand s1 k c true (fun x r => takeRecord s1 c x r k.hdr.offset (readRecord k.payload)) (notYet s1)))

/-- A reduction path run again from the contributions (R301). -/
def rerun (s : State) (k : Nat) (x : Coll) (i : Nat) (ch : Chunk) : State :=
  pump (collTell s k x (others x) 5 ch.first (p8 ch.first)) k (setChunk x i { ch with
    folded := false, parts := [], recs := [], acc := [], res := [], resPoi := [], record := none, written := false, sent := [] })

/-- A copy of a chunk of A sent again to the rank that asks. -/
def resendCopy (s : State) (k : Nat) (x : Coll) (ch : Chunk) (r : Nat) : State :=
  match aCodes s k x ch with
  | .ok (s, cs) => collSend s k x r (elBlocks x 1 (elemBits (resFmt x)) ch.first (codeEls cs)
      ++ [checkBlock x ch (copyRecord (resFmt x) (codeEls cs))])
  | .error t => raiseTrap s k x.core (0x58 + x.op) t

/-- Whether what a rank asks for is this member's contribution run again, which goes on the chunk's own path. -/
def redWanted (x : Coll) (first r : Nat) : Bool :=
  collRed x.op && x.chunks.any (fun ch => ch.first == first && ch.owner == r)

/-- What a member does when a rank asks for a chunk to be repaired. -/
def repairFor (s : State) (k : Nat) (x : Coll) (r first : Nat) : State :=
  match (x.chunks.zipIdx.find? (fun c => c.1.first == first && !c.1.lost
      && (x.op != 3 || (c.1.shard == r && c.1.owner == x.rank)))).map (fun c => (c.2, c.1)) with
  | none => s
  | some (i, ch) =>
    if collRed x.op = false then (if ch.owner = x.rank then resendCopy s k x ch r else s)
    else if ch.owner = x.rank then
      (if ch.passed || (ch.written && ch.failures == 0) then sendResult s k x ch r else rerun (readyDown s k x i) k x i ch)
    else if ch.owner = r ∧ redIns x ch = [] then
      pump s k (setChunk x i { ch with folded := false, sent := ch.sent.filter (fun q => q % 2 == 1) })
    else s

/-- REPAIR: answered once the READY of the rank that asks has come (R294). -/
def execCollRepair (k : Packet) (s : State) : Out :=
  .next (collRecv s k 5 (fun c =>
    let s1 := collBytes s c k
    let v := leNat (k.payload.take 8)
    collLand s1 k c true
      (fun x r => if x.readyFrom.elem r || redWanted x v r then repairFor s1 c x r v
        else setColl s1 c { x with asked := x.asked ++ [(r, v)] })
      (notYet s1)))

/-- The repairs that waited for the READY of a rank, answered. -/
def askedNow (s : State) (k gid seq r : Nat) (l : List (Nat × Nat)) : State :=
  (l.filter (fun q => q.1 == r)).foldl (fun s q =>
    match (ctxOf s k).colls.find? (fun x => x.gid == gid && x.seq == seq) with
    | some x => repairFor s k x r q.2
    | none => s) s

/-- READY: data may go to the sender; one for a later sequence number is held, up to 4 per group. -/
def execCollReady (k : Packet) (s : State) : Out :=
  .next (collRecv s k 0 (fun c =>
    let s1 := collBytes s c k
    collLand s1 k c true
      (fun x r => askedNow (pump s1 c { x with
        readyFrom := addNat x.readyFrom r, asked := x.asked.filter (fun q => q.1 != r) }) c x.gid x.seq r x.asked)
      (fun b =>
        if 4 ≤ b.held.length then .later
        else .done (setGroup s1 c (k.hdr.key % 0x1_0000)
          { b with held := b.held ++ [⟨leNat (k.payload.take 4), k.hdr.srcNode, k.hdr.opId, k.hdr.opInfo⟩] }) 0)))

/-- ABORT: the collective aborted here, now or when its sequence number is reached. -/
def execCollAbort (k : Packet) (s : State) : Out :=
  .next (collRecv s k 6 (fun c =>
    let s1 := collBytes s c k
    collLand s1 k c false
      (fun x _ => mismatch s1 c x (leNat (k.payload.take 8)) k.hdr.srcNode false)
      (fun b => .done (setGroup s1 c (k.hdr.key % 0x1_0000) { b with aborts := addNat b.aborts k.hdr.opId }) 0)))

/-- REVOKE: the collective revoked here, now or when its sequence number is reached. -/
def execCollRevoke (k : Packet) (s : State) : Out :=
  .next (collRecv s k 7 (fun c =>
    let s1 := collBytes s c k
    let v := leNat (k.payload.take 8)
    collLand s1 k c true (fun x _ => revoked s1 c x v k.hdr.srcNode false)
      (fun b => .done (setGroup s1 c (k.hdr.key % 0x1_0000) { b with revokes := b.revokes ++ [(k.hdr.opId, v, k.hdr.srcNode)] }) 0)))

/-- DONE: one rank fewer to wait for. -/
def execCollDone (k : Packet) (s : State) : Out :=
  .next (collRecv s k 8 (fun c =>
    let s1 := collBytes s c k
    collLand s1 k c true
      (fun x r =>
        let v := leNat (k.payload.take 8)
        let y : Coll := { x with chunks := x.chunks.map (fun (ch : Chunk) =>
          if ch.first = v ∧ ch.needDone.elem r = true then { ch with needDone := delNat ch.needDone r } else ch) }
        finishColl (setColl s1 c y) c y)
      (notYet s1)))

/-! ## The check of a chunk -/

/-- The collective of a core's instruction, the running context looked at first. -/
def collOf (s : State) (n id : Nat) : Option (Nat × Coll) :=
  ((runningOn s n).toList ++ ctxNums).findSome? (fun k =>
    ((ctxOf s k).colls.find? (fun x => x.core == n && x.flight == id)).map (fun x => (k, x)))

/-- The place of the `m`-th chunk of D. -/
def dPlace (x : Coll) (m : Nat) : Option (Nat × Chunk) :=
  (((x.chunks.zipIdx.filter (fun c => writesD x c.1))[m]?)).map (fun c => (c.2, c.1))

/-- Who hears that a chunk has passed (R302): the owner or source and the sender of its data; from the owner
of a reduction, every member. -/
def doneTo (x : Coll) (ch : Chunk) : List Nat :=
  if ch.owner = x.rank then (if collRed x.op then others x else [])
  else ((resIn x ch).toList.filter (fun r => r != ch.owner)) ++ [ch.owner]

/-- A chunk that passed its check. -/
def chunkPass (s : State) (k : Nat) (x : Coll) (i : Nat) (ch : Chunk) (skipped : Bool) : State :=
  let s1 := if skipped then bump s 1 k 0x41 1 else s
  let s2 := if 0 < ch.failures then bump s1 1 k 0x40 1 else s1
  let y := setChunk x i { ch with passed := true }
  finishColl (setColl (collTell s2 k x (doneTo x ch) 8 ch.first (p8 ch.first)) k y) k y

/-- A chunk that failed its check (R301): the third failure ends the collective, a chunk already read
revokes it, and any other is repaired; an owner that was to send this member nothing gets a READY first. -/
def chunkFail (s : State) (k : Nat) (x : Coll) (i : Nat) (ch : Chunk) (diff : Nat) : State :=
  if 2 ≤ ch.failures then
    let s1 := raise s 0x0504 clsJ k (unitCore x.core) (p4 (groupWord x) ++ p4 x.seq ++ p8 ch.first ++ p8 diff)
    abortColl (collTell s1 k x (others x) 6 0 (p8 x.fp)) k x
  else if frameRead s k x i then revoked s k x ch.first (ownNode0 s) true
  else
    let s1 := readyDown s k x i
    let ch1 : Chunk := { ch with failures := ch.failures + 1, written := false, res := [], resPoi := [], record := none }
    if ch.owner = x.rank then
      (if collRed x.op then rerun s1 k x i ch1
      else pumpE s1 k (setChunk x i ch1) (do
        let (s1, cs) ← aCodes s1 k x ch1
        let es := codeEls cs
        let ch2 : Chunk := { ch1 with record := some (copyRecord (resFmt x) es) }
        landEls s1 k (setChunk x i ch2) i ch2 0 es))
    else
      let s2 := if (sendersToMe x).elem ch.owner then s1 else collTell s1 k x [ch.owner] 0 0 (p4 x.rank ++ p4 0)
      setColl (collTell s2 k x [ch.owner] 5 ch.first (p8 ch.first)) k (setChunk x i ch1)

/-- The check of the `chunk`-th chunk of D of the collective that instruction `id` of core `c` started
(R300): once the chunk is written and its record has come. -/
def execChunkCheck (c id chunk : Nat) (s : State) : Out :=
  match collOf s c id with
  | none => .next s
  | some (k, x) =>
    match dPlace x chunk, x.d with
    | some (i, ch), some d =>
      match ch.record with
      | none => .next s
      | some r =>
        if ch.written = false ∨ ch.passed ∨ ch.lost then .next s
        else
          match codesOf s k x.core d (dFirst x ch) ch.count with
          | .error t => .next (raiseTrap s k x.core (0x58 + x.op) t)
          | .ok cs =>
            let s1 := elPay s k x.core d (dFirst x ch) ch.count false
            if r.skip || ch.sat then .next (chunkPass s1 k x i ch true)
            else
              let v := checkPasses x d s.freeCtr (dFirst x ch) cs r
              .next (if v.1 then chunkPass s1 k x i ch false else chunkFail s1 k x i ch v.2)
    | _, _ => .next s

/-! ## The loss of a peer (R303) -/

/-- Whether rank `l` is `v`'s rank or an ancestor of it in the tree of a chunk's owner. -/
def treeAbove (fuel : Nat) (x : Coll) (ch : Chunk) (l v : Nat) : Bool :=
  match fuel with
  | 0 => false
  | n + 1 => if v = vrank x l ch.owner then true else if v = 0 then false else treeAbove n x ch l ((v - 1) / max x.fanin 1)

/-- Whether rank `l` stands between a chunk's source and rank `r`, or is `r`. A ring leads every shard through
every member. -/
def passesBy (x : Coll) (ch : Chunk) (l r : Nat) : Bool :=
  if x.op = 3 then r == l else x.alg = 0 || treeAbove x.n x ch l (vrank x r ch.owner)

/-- Whether the loss of rank `l` fails a chunk here: on a ring every chunk; one still to be reduced, since every
member contributes; a copy that was to come from or through `l`. -/
def dependsOn (x : Coll) (ch : Chunk) (l : Nat) : Bool :=
  if x.op ≠ 3 ∧ x.alg = 0 then true
  else if collRed x.op then
    (if writesD x ch then !ch.written else ch.owner != l && !ch.needDone.isEmpty)
  else !ch.written && writesD x ch && ch.owner != x.rank && passesBy x ch l x.rank

/-- A collective after rank `l` is lost: the chunks it fails are poisoned and ready, and no DONE is awaited from
a member that no longer gets its data. -/
def loseRank (s : State) (k : Nat) (x : Coll) (l : Nat) : State :=
  let hit := fun (ch : Chunk) => dependsOn x ch l && !ch.lost && !(ch.passed && ch.needDone.isEmpty)
  let s1 := x.chunks.foldl (fun s ch => if hit ch && writesD x ch && !ch.passed then poisonChunk s k x ch else s) s
  let y : Coll := { x with
    lostRanks := addNat x.lostRanks l
    readyFrom := delNat x.readyFrom l
    asked := x.asked.filter (fun q => q.1 != l)
    chunks := x.chunks.map (fun (ch : Chunk) =>
      if hit ch then { ch with lost := !ch.passed, needDone := [] }
      else { ch with needDone := ch.needDone.filter (fun r => r != l && !passesBy x ch l r) }) }
  pump (readyUp s1 k y) k y

/-- Every collective of the device outstanding whose group a lost node is in: those that exchange data with
it, and those of a ring. -/
def collsLose (s : State) (node : Nat) : State :=
  ctxNums.foldl (fun s k => (ctxOf s k).colls.foldl (fun s x =>
    let r := x.nodes.findIdx (· == node)
    if r < x.n ∧ x.lostRanks.elem r = false ∧ (x.alg = 0 ∨ (collPeers x).elem r = true) then loseRank s k x r else s) s) s

end Sys2Proof.Machine
end

