-- ==== Sys2Proof/Machine/Tree.lean ====
section
/-! DEFINITION. The tree of a job over its grid (R393) and the gather of a job restart on it (R400, R401,
R403): who the coordinator, the parent and the children are, firmware messages, HALT_ACK, RESTORE, and the
end of a job that cannot be recovered. -/

namespace Sys2Proof.Machine

/-! ## Firmware messages (R393, R396)

A firmware session carries them as WRITE packets whose bytes the spec does not lay out; each is kept as
its node, a kind and its fields. -/

abbrev fwJobHalt : Nat := 0x9000
abbrev fwHaltAck : Nat := 0x9001
abbrev fwRestore : Nat := 0x9002
abbrev fwRestoreDone : Nat := 0x9003
abbrev fwResume : Nat := 0x9004
abbrev fwCkptReady : Nat := 0x9005
abbrev fwCkptCommit : Nat := 0x9006
abbrev fwHeartbeat : Nat := 0x9007
abbrev fwMirror : Nat := 0x9008
abbrev fwUnpair : Nat := 0x9009

/-- A firmware message put on the wire. -/
def fwSend (s : State) (node kind : Nat) (fields : List Nat) : State :=
  { s with net := { s.net with fwTx := s.net.fwTx ++ [(node, kind, fields)] } }

/-- A firmware message to several nodes. -/
def fwSendAll (s : State) (nodes : List Nat) (kind : Nat) (fields : List Nat) : State :=
  nodes.foldl (fun s n => fwSend s n kind fields) s

/-! ## The tree -/

/-- The nodes of a context's job in grid order; without a grid the device alone. -/
def jobNodes (s : State) (k : Nat) : List Nat :=
  match (ctxOf s k).grid with
  | some g => g.nodes
  | none => [ownNode0 s]

/-- The coordinator: the live node with the lowest index. -/
def rootNode (s : State) (k : Nat) : Nat :=
  ((jobNodes s k).find? (fun n => !(ctxOf s k).restart.absent.elem n)).getD (ownNode0 s)

/-- Whether this device is the coordinator of a context's job. -/
def isRoot (s : State) (k : Nat) : Bool := rootNode s k == ownNode0 s

/-- The index of a node in a list. -/
def gridPos (l : List Nat) (n : Nat) : Nat := (l.findIdx? (fun m => m == n)).getD 0

/-- The virtual rank of a node, the coordinator's being 0 (R292, fan-in 16). -/
def treeRank (s : State) (k n : Nat) : Nat :=
  let l := jobNodes s k
  (gridPos l n + l.length - gridPos l (rootNode s k)) % max l.length 1

/-- The node of a virtual rank. -/
def nodeAt (s : State) (k v : Nat) : Nat :=
  let l := jobNodes s k
  nth l ((v + gridPos l (rootNode s k)) % max l.length 1) 0

/-- The parent of a node in the tree. -/
def parentOf (s : State) (k n : Nat) : Option Nat :=
  if treeRank s k n = 0 then none else some (nodeAt s k ((treeRank s k n - 1) / 16))

/-- The children of a node in the tree. -/
def kidsOf (s : State) (k n : Nat) : List Nat :=
  ((List.range 16).map (fun i => 16 * treeRank s k n + 1 + i)).filterMap (fun v =>
    if v < (jobNodes s k).length then some (nodeAt s k v) else none)

/-- The nearest live ancestor of a node (R401); the tree is at most 16 levels deep. -/
def liveParent (fuel : Nat) (s : State) (k n : Nat) : Option Nat :=
  match fuel with
  | 0 => none
  | f + 1 => match parentOf s k n with
    | none => none
    | some p => if (ctxOf s k).restart.absent.elem p then liveParent f s k p else some p

/-- The live descendants a node gathers from: its children, and for an absent child those of it. -/
def liveKids (fuel : Nat) (s : State) (k n : Nat) : List Nat :=
  match fuel with
  | 0 => []
  | f + 1 => (kidsOf s k n).flatMap (fun c => if (ctxOf s k).restart.absent.elem c then liveKids f s k c else [c])

/-- The live children of this device. -/
def myKids (s : State) (k : Nat) : List Nat := liveKids 16 s k (ownNode0 s)

/-- The parent this device answers to. -/
def myParent (s : State) (k : Nat) : Option Nat := liveParent 16 s k (ownNode0 s)

/-! ## The end of a job (R403) -/

/-- JOB_UNRECOVERABLE, still of the restart it ends (R387, rule 1): the restart ends, and LAUNCH_DONE carries JOB_FAULT. -/
def unrecoverable (s : State) (k cause : Nat) : State :=
  let x := ctxOf s k
  let s1 := raise s 0x0818 clsJ k 0 (p4 x.jobId ++ p4 cause)
  let s2 := setCtx s1 k { ctxOf s1 k with restart := { history := x.restart.history } }
  let s3 := if x.launched then endLaunch s2 k 0x27 else changeCtx s2 k .idle 0
  endHandling s3 (fun g => g.ctx == k && g.cls == clsJ)

/-! ## The gather (R401) -/

/-- The newest epoch committed on this device; 0 when none has committed. -/
def ownEpoch (x : Ctx) : Nat := x.ckpt.committed.getD 0

/-- The newest READY snapshot of this device. -/
def ownReady (x : Ctx) : Option Nat := ((x.ckpt.slots.filter (fun v => v.ready)).map (fun v => v.epoch)).max?

/-- The newest epoch any node of the gather reports as committed. -/
def gatherEpoch (x : Ctx) : Nat := (x.restart.acks.map (fun a => a.committed)).foldl max (ownEpoch x)

/-- Whether a node has answered. -/
def answered (x : Ctx) (n : Nat) : Bool := x.restart.acks.any (fun a => a.node == n)

/-- Whether a node has answered, is named absent, or is covered by the answer of an ancestor. -/
def covered (fuel : Nat) (s : State) (k n : Nat) : Bool :=
  match fuel with
  | 0 => false
  | f + 1 =>
    let x := ctxOf s k
    answered x n || x.restart.absent.elem n ||
      (match parentOf s k n with | some p => !x.restart.absent.elem p && p != ownNode0 s && covered f s k p | none => false)

/-- The nodes of a job not yet covered. -/
def uncovered (s : State) (k : Nat) : List Nat :=
  (jobNodes s k).filter (fun n => n != ownNode0 s && !covered 17 s k n)

/-! ## What a restore reads (R401, R402) -/

/-- The virtual addresses of the 4 KiB pieces of the state ranges, in order. -/
def piecesOf (x : Ctx) : List Nat := x.ckpt.ranges.flatMap (fun r => (List.range (r.2 / 4096)).map (fun i => r.1 + 4096 * i))

/-- Where piece `i` of a slot lies. -/
def slotAt (x : Ctx) (slot i : Nat) : Nat := nth (nth x.ckpt.pages slot []) (i / 512) 0 + i % 512 * 4096

/-- The poisoned grains of a slot, by their number within it. -/
def slotPoison (s : State) (k slot : Nat) : List Nat :=
  let x := ctxOf s k
  (List.range (piecesOf x).length).flatMap (fun i =>
    (List.range 64).filterMap (fun j => if s.mem.poison.elem (slotAt x slot i / 64 + j) then some (64 * i + j) else none))

/-- Whether the twin's mirror holds an epoch. -/
def mirrored (x : Ctx) (e : Nat) : Bool :=
  match x.twin with
  | some t => t.paired && t.confirmed.elem e
  | none => false

/-- A READ of the twin's mirror (R397, R402): slot `slot`, to the physical addresses from `base` on. -/
def readMirror (s : State) (k node slot off len base : Nat) : State :=
  let s1 := enqueue s (firmware node clMirror k noFlight opReadReq none) [{ key := slot + 1, offset := off, info := len - 1, aux := (ctxOf s k).jobId }]
  { s1 with net := { s1.net with reads := s1.net.reads ++ [⟨s.net.nextOp, node, base, off, len, [], k⟩] } }

/-- What the target needs from the twin's mirror asked for: the grains poisoned in the local snapshot since it was taken,
or for a replacement the whole of it, into its first slot. -/
def fetchTarget (s : State) (k target : Nat) : State :=
  let x := ctxOf s k
  match x.twin with
  | none => s
  | some t =>
    if mirrored x target = false then s
    else
      let from' := if nth t.confirmed 0 0 = target then 0 else 1
      match x.ckpt.slots.find? (fun v => v.epoch == target) with
      | some v => ((slotPoison s k v.slot).filter (fun g => !v.poison.elem g)).foldl (fun s g =>
          readMirror s k t.node from' (64 * g) 64 (slotAt x v.slot (g / 64) + g % 64 * 64)) s
      | none =>
        if t.replace = false then s
        else
          let n := 4096 * (piecesOf x).length
          let s1 := setCtx s k { x with ckpt := { x.ckpt with slots := [⟨target, 0, [], true⟩] } }
          (List.range ((n + Config.page2 - 1) / Config.page2)).foldl (fun s i =>
            readMirror s k t.node from' (i * Config.page2) (min Config.page2 (n - i * Config.page2)) (slotAt x 0 (512 * i))) s1

/-- RESTORE sent down the tree, and the halt phase ended here: every child receives it, absent ones too,
so that a replacement does. A target of 0 says that no epoch has committed. -/
def beginRestore (s : State) (k target : Nat) : State :=
  let x := ctxOf s k
  let s1 := fwSendAll s (kidsOf s k (ownNode0 s) ++ (myKids s k).filter (fun n => !(kidsOf s k (ownNode0 s)).elem n)) fwRestore [x.jobId, target]
  if target = 0 then unrecoverable s1 k 0
  else fetchTarget (setCtx s1 k { x with restart := { x.restart with phase := 3, target := target, restoreAt := some s.clock.ns } }) k target

/-- What a halted device does once its part of the gather is complete: HALT_ACK to its parent, or, as
coordinator, RESTORE. -/
def tryAck (s : State) (k : Nat) : State :=
  let x := ctxOf s k
  if x.restart.phase ≠ 2 ∨ x.restart.ackSent then s
  else if isRoot s k then (if (uncovered s k).isEmpty then beginRestore s k (gatherEpoch x) else s)
  else if (kidsOf s k (ownNode0 s)).all (fun n => answered x n || x.restart.absent.elem n) then
    match myParent s k with
    | none => s
    | some p =>
      let s1 := fwSend s p fwHaltAck ([x.jobId, ownNode0 s, gatherEpoch x, (ownReady x).getD 0] ++ x.restart.absent)
      setCtx s1 k { x with restart := { x.restart with ackSent := true } }
  else s

/-- A child named absent: JOB_HALT goes to the rest of its subtree, and the gather goes on. -/
def nameAbsent (s : State) (k n : Nat) : State :=
  let x := ctxOf s k
  let s1 := setCtx s k { x with restart := { x.restart with absent := addNat x.restart.absent n } }
  tryAck (fwSendAll s1 (kidsOf s k n) fwJobHalt [x.jobId, x.epoch, ownNode0 s, 0]) k

/-- A peer lost under R275 before it answers, in every job that is halting. -/
def peerAbsent (s : State) (peer : Nat) : State :=
  ctxNums.foldl (fun s k =>
    let x := ctxOf s k
    if 1 ≤ x.restart.phase ∧ x.restart.phase ≤ 2 ∧ (jobNodes s k).elem peer = true ∧ answered x peer = false
        ∧ x.restart.absent.elem peer = false then nameAbsent s k peer
    else s) s

end Sys2Proof.Machine
end

