-- ==== Sys2Proof/Machine/Furlong.lean ====
section
/-! DEFINITION. Furlong between nodes (R256 to R276, R231, R102): sending under the window and the
regulator, HELLO and loss of a peer, what a WRITE, READ, SEND or ATOMIC does at its target, SACKs,
losses and congestion, ports, address resolution and RoCEv2. -/

namespace Sys2Proof.Machine

/-! ## Loss of a peer (R275) -/

/-- How an operation to a peer failed, in the order of R275: a block unacknowledged, a session that
did not open, a new incarnation. -/
abbrev lossBlock : Nat := 1
abbrev lossOpen : Nat := 2
abbrev lossIncarnation : Nat := 3

/-- Whether runs (first byte, length) cover [lo, hi). -/
def runsCover (fuel : Nat) (l : List (Nat × Nat)) (lo hi : Nat) : Bool :=
  match fuel with
  | 0 => decide (hi ≤ lo)
  | n + 1 =>
    if hi ≤ lo then true
    else match l.find? (fun r => decide (r.1 ≤ lo) && decide (lo < r.1 + r.2)) with
      | some r => runsCover n l (r.1 + r.2) hi
      | none => false

/-- The destination grains of a READ that bytes are still missing of. -/
def missingGrains (r : ReadOp) : List Nat :=
  (grainsOf r.base r.len).filter (fun g => !runsCover (r.got.length + 1) r.got (64 * g - r.base) (min (64 * g + 64 - r.base) r.len))

/-- The parts of a READ not received failed: their destination grains are poisoned (R92, R275). -/
def failRead (s : State) (op : Nat) : State :=
  let s1 := (s.net.reads.filter (fun r => r.opId == op)).foldl (fun s r => (missingGrains r).foldl (fun s g => poisonGrain s (g * 64)) s) s
  { s1 with net := { s1.net with reads := s1.net.reads.filter (fun r => r.opId != op) } }

/-- One failed operation: a READ poisons what it had not received; a WRITE, ATOMIC or SEND completes. -/
def failOp (s : State) (o : NetOp) : State :=
  if o.opc = opReadReq then failRead s o.opId
  else if o.flight = mirrorFlight then mirrorLost s o.core
  else if o.opc = opColl ∨ 64 ≤ o.ctx then s
  else flightDone s o.ctx o.core o.flight 0

/-- The contexts that a failed WRITE, ATOMIC or SEND belongs to. -/
def lostCtxs (l : List NetOp) : List Nat :=
  (l.filter (fun o => decide (o.ctx < 64) && (o.opc == opWrite || o.opc == opAtomic || o.opc == opSend))).foldl
    (fun a o => addNat a o.ctx) []

/-- Every operation to a peer failed, PEER_UNREACHABLE raised and the session closed. -/
def losePeer (s : State) (peer cause : Nat) : State :=
  let x := sessOf s peer
  let s1 := setSess s peer { incarnation := x.incarnation, known := x.known }
  let s2 := x.ops.foldl failOp s1
  let pay := p4 peer ++ p4 cause ++ p4 x.ops.length
  let cs := lostCtxs x.ops
  let s3 := if cs = [] then raise s2 0x0404 clsC noCtx 0 pay
    else cs.foldl (fun s k => raise s 0x0404 clsJ k 0 pay) s2
  peerAbsent (collsLose s3 peer) peer

/-- A block unacknowledged for 4 ms. -/
def execPeerLoss (peer : Nat) (s : State) : Out :=
  if (sessOf s peer).unacked.any (fun e => decide (e.pkt.hdr.origin + 4000000 ≤ s.clock.ns)) then
    .next (losePeer s peer lossBlock)
  else .next s

/-! ## HELLO (R263) -/

/-- A HELLO request sent again, every 500 µs. -/
def execFurlongHelloRetry (peer : Nat) (s : State) : Out :=
  let x := sessOf s peer
  if x.opening ∧ x.isOpen = false ∧ x.helloAt + 500000 ≤ s.clock.ns ∧ (ownNode s).isSome = true then
    .next (sendHello (setSess s peer { x with helloAt := s.clock.ns }) peer false)
  else .next s

/-- No reply within 4 ms. -/
def execSessionOpenTimeout (peer : Nat) (s : State) : Out :=
  let x := sessOf s peer
  if x.opening ∧ x.isOpen = false ∧ x.firstAt + 4000000 ≤ s.clock.ns then .next (losePeer s peer lossOpen) else .next s

/-- What waits on a session put in line again from PSN 0. -/
def renumber (x : Session) : List Packet × List NetOp :=
  let old := x.unacked.map (fun e => e.pkt) ++ x.queue
  let new := old.zipIdx.map (fun p => { p.1 with hdr := { p.1.hdr with psn := p.2 } })
  let psnOf := fun (q : Nat) => old.findIdx (fun p => p.hdr.psn == q)
  (new, x.ops.map (fun (o : NetOp) => { o with left := o.left.map psnOf }))

/-- A session opened with what a HELLO agrees: packet sequences start at PSN 0 in both directions. -/
def openWith (s : State) (h : Hello) : State :=
  let x := sessOf s h.node
  let own := ownHello s false
  let feat := own.features &&& h.features
  let q := renumber x
  setSess s h.node {
    isOpen := true, incarnation := h.incarnation, known := true
    paths := if feat.getLsbD 0 then min own.paths h.paths else 1
    features := feat, sendPsn := q.1.length, queue := q.1, ops := q.2 }

/-- The SPDM sessions of a node over Furlong ended, its attestation as a manager among them (R423). -/
def endManager (s : State) (node : Nat) : State :=
  { s with
    net := { s.net with attested := s.net.attested.filter (fun a => a.1 != node) }
    sec := { s.sec with spdm := s.sec.spdm.filter (fun x => x.via != .furlong node) } }

/-- A HELLO of a node taken in: a session opens, or starts new packet sequences, unless the peer is not
compatible; a new INCARNATION fails what was outstanding. -/
def helloIn (s : State) (h : Hello) : State :=
  if h.verMajor ≠ 1 ∨ h.features.getLsbD 1 = false then
    raise s 0x0403 clsC noCtx 0 (p4 h.node ++ p4 (h.verMajor * 256 + h.verMinor) ++ p4 h.features.toNat)
  else
    let x := sessOf s h.node
    let s0 := if x.known ∧ x.incarnation ≠ h.incarnation then endManager s h.node else s
    let s1 := if x.known ∧ x.incarnation ≠ h.incarnation ∧ x.ops ≠ [] then losePeer s0 h.node lossIncarnation else s0
    let s2 := openWith s1 h
    if h.reply then s2 else sendHello s2 h.node true

/-- A HELLO received. -/
def execFurlongHelloReceive (k : Packet) (s : State) : Out :=
  let h := readHello k.payload
  if hdrOk k = false then .next (countPkt s k.hdr cHcrc 1)
  else if k.hdr.opc ≠ opHello ∨ ownNode s = none ∨ ownNode s = some h.node ∨ ownNode s ≠ some k.hdr.dstNode then .next s
  else if bcrcOf k.payload k.poison ≠ k.bcrc then .next (countPkt s k.hdr cBcrc 1)
  else .next (helloIn s h)

/-! ## At the target (R267, R272, R273) -/

/-- REMOTE_ACCESS_FAULT in the target context, with STATUS ACCESS_FAULT. -/
def accessFault (s : State) (k : Nat) (h : FHdr) : Landed :=
  .done (raise s 0x0406 clsJ k 0 (p4 h.srcNode ++ p4 h.key ++ p4 h.keyGen ++ p8 h.offset ++ p4 h.opc)) 2

/-- The stores of a block at a virtual address, poison by the grains its bytes appear in (R266). -/
def blockWrs (va off : Nat) (pay : List Byte) (poi : BitVec 64) : List Wr :=
  if poi = 0 then [⟨va, pay, false⟩]
  else
    let n := pay.length
    (List.range ((off % 64 + n + 63) / 64)).map (fun g =>
      let lo := if g = 0 then 0 else g * 64 - off % 64
      let hi := min n ((g + 1) * 64 - off % 64)
      ⟨va + lo, (pay.drop lo).take (hi - lo), poi.getLsbD g⟩)

/-- A region access judged: R274, then the bounds and the permission. -/
def regionLand (s : State) (k : Nat) (h : FHdr) (len : Nat) (perm : Region → Bool) (act : Region → Except Trap State) : Landed :=
  let r := look (ctxOf s k).regions {} h.key
  match judgeGen r.bound r.ever r.keyGen h.keyGen with
  | .stale => .stale
  | .invalid => accessFault s k h
  | .ok =>
    if h.offset + len ≤ r.length ∧ perm r = true then
      match act r with
      | .ok s1 => .done s1 0
      | .error _ => accessFault s k h
    else accessFault s k h

/-- A range of a region accessed from the network: what it meets and costs the context (R80, R83, R99). -/
def netTouch (s : State) (k va len : Nat) (wr : Bool) : State := payFor s k (touches s k 320 [(va, len, wr)])

/-- The blocks of a READ_RESP for bytes at an address of the target, cut at its boundaries of 4 KiB (R266); `bad`
tells the poisoned grains by their number. -/
def respBlocks (va : Nat) (bs : List Byte) (bad : Nat → Bool) : List Block :=
  (cut4k (bs.length / 4096 + 2) va bs.length).map (fun c =>
    { offset := c.1 - va, payload := (bs.drop (c.1 - va)).take c.2, poison := poisonWord c.1 c.2 bad })

/-! ### Mirror slots (R395 to R397, R402)

A firmware session reaches the two mirror slots held for a partner as keys 1 and 2, the job in OP_AUX. -/

/-- The context of a job whose twin a node is. -/
def twinCtx (s : State) (job node : Nat) : Option Nat :=
  match jobCtx s job with
  | some k => match (ctxOf s k).twin with
    | some t => if t.paired ∧ t.node = node then some k else none
    | none => none
  | none => none

/-- The physical address of a byte of a mirror slot, none past its end. -/
def mirrorAt (t : Twin) (slot off : Nat) : Option Nat :=
  ((nth t.pages slot [])[off / Config.page2]?).map (fun a => a + off % Config.page2)

/-- A READ_REQ of a firmware session: a mirror slot held for the partner. -/
def mirrorRead (s : State) (h : FHdr) (len : Nat) : Landed :=
  match twinCtx s h.opAux h.srcNode with
  | none => .done s 2
  | some k =>
    match (ctxOf s k).twin with
    | none => .done s 2
    | some t =>
      let at' := fun (i : Nat) => (mirrorAt t (h.key - 1) (h.offset + i)).getD 0
      if h.key = 0 ∨ 2 < h.key ∨ (mirrorAt t (h.key - 1) (h.offset + len - 1)).isNone = true then .done s 2
      else
        let bs := (cut4k (len / 4096 + 2) h.offset len).flatMap (fun c => readDpa s.mem (at' (c.1 - h.offset)) c.2)
        let bad := fun (g : Nat) => poisonedDpa s.mem (at' (64 * g - h.offset)) 1
        let s1 := (cut4k (len / 4096 + 2) h.offset len).foldl (fun s c => meet s k 0 (at' (c.1 - h.offset)) c.2) s
        .done (enqueue s1 (firmware h.srcNode h.cls 0 noFlight opReadResp (some h.opId)) (respBlocks h.offset bs bad)) 0

/-- READ_REQ: answered with READ_RESP blocks of the range. -/
def execReadReqReceive (k : Packet) (s : State) : Out :=
  let h := k.hdr
  let len := h.opInfo % 0x100_0000 + 1
  .next (receive s k opReadReq (fun c => match c with
    | none => mirrorRead s h len
    | some c => regionLand s c h len (fun r => r.rread) (fun r => do
        let va := r.base + h.offset
        let bs ← readVa s c 320 va len
        let bad := fun (g : Nat) => match readVa s c 320 (max va (64 * g)) 1 with | .ok p => p.2 | .error _ => false
        .ok (enqueue (netTouch s c va len false) { ctx := c, core := 0, flight := noFlight, opc := opReadResp, cls := h.cls, tag := some h.opId, peer := h.srcNode }
          (respBlocks va bs.1 bad)))))

/-- READ_RESP: placed in the memory of the firmware service that asked, at device physical addresses. -/
def execReadRespReceive (k : Packet) (s : State) : Out :=
  let h := k.hdr
  .next (receive s k opReadResp (fun _ =>
    match s.net.reads.find? (fun r => r.opId == h.opId && r.peer == h.srcNode) with
    | none => .done s 0
    | some r =>
      if 4096 < (r.off + h.offset) % 4096 + k.payload.length then .crossing
      else if r.len < h.offset + k.payload.length then .done s 2
      else
        let s1 := (blockWrs (r.base + h.offset) (r.off + h.offset) k.payload k.poison).foldl (fun s w => writeDpa s w.va w.bs w.poi) s
        let q : ReadOp := { r with got := r.got ++ [(h.offset, k.payload.length)] }
        let all := runsCover (q.got.length + 1) q.got 0 q.len
        let x := sessOf s1 h.srcNode
        let s2 := if all then setSess s1 h.srcNode { x with ops := x.ops.filter (fun o => !(o.opc == opReadReq && o.opId == r.opId)) } else s1
        .done { s2 with net := { s2.net with
          reads := if all then s2.net.reads.filter (fun y => y.opId != r.opId)
            else s2.net.reads.map (fun y => if y.opId = r.opId then q else y) } } 0))

/-- SEND: a spar made visible in the scratchpad of a core of the context's partition. -/
def execSendReceive (k : Packet) (s : State) : Out :=
  let h := k.hdr
  .next (receive s k opSend (ofCtx s (fun c =>
    if inPartition s c h.dstCore = false then
      .done (raise s 0x020A clsJ c 0 (p4 h.srcCore ++ p4 h.dstCore)) 2
    else if Config.scratchBytes < h.offset + k.payload.length then accessFault s c h
    else match writeVas s c 320 (blockWrs (0xF_1000_0000_0000 + h.dstCore * Config.scratchBytes + h.offset) h.offset k.payload k.poison) with
      | .ok s1 => .done s1 0
      | .error _ => accessFault s c h)))

/-- An arrival from another node, judged by R274 and applied once (R218, R231). -/
def execRemoteTrussArrival (k : Packet) (s : State) : Out :=
  let h := k.hdr
  let nm : Word := BitVec.ofNat 64 (leNat (k.payload.take 8))
  let ph : Word := BitVec.ofNat 64 (leNat ((k.payload.drop 8).take 8))
  .next (receive s k opAtomic (ofCtx s (fun c =>
    let t := trussOf s c (nmVtid nm)
    match judgeGen t.bound t.ever t.bgen (nmBgen nm) with
    | .stale => .stale
    | .invalid => .done (trussInvalid s c (unitBase t.home) h.srcNode (nmVtid nm) (nmBgen nm) 0x50) 0
    | .ok =>
      let who : Member := if bit h.opInfo 63 then .truss h.srcNode (h.opInfo % 0x10_0000) else .remote h.srcNode h.srcCore
      .done (arriveAt s c (nmVtid nm) who (phNo ph) (phVal ph)).1 0)))

/-! ## Acknowledgement and loss (R268 to R270) -/

/-- A packet declared lost: resent next, its path suspended for 100 µs, one packet marked. -/
def declareLost (now : Nat) (x : Session) (lost : Sent → Bool) : Session :=
  let hit := x.unacked.filter (fun e => !e.lost && lost e)
  { x with
    unacked := x.unacked.map (fun e => if !e.lost && lost e then { e with lost := true } else e)
    suspended := hit.foldl (fun t e => put t e.path (now + 100000)) x.suspended
    marked := x.marked + hit.length }

/-- The smallest round trip of the last 10 s. -/
def baseRtt (x : Session) (now : Nat) : Nat :=
  ((x.baseRtt.filter (fun e => decide (now ≤ e.1 + 10000000000))).map (fun e => e.2)).foldl min 0x7FFF_FFFF_FFFF

/-- A round-trip sample taken in. -/
def takeRtt (x : Session) (now r : Nat) : Session :=
  let l := x.baseRtt.filter (fun e => decide (now ≤ e.1 + 10000000000)) ++ [(now, r)]
  if x.srtt = 0 then { x with srtt := r, rttvar := r / 2, baseRtt := l }
  else
    let d := if x.srtt < r then r - x.srtt else x.srtt - r
    { x with srtt := (7 * x.srtt + r) / 8, rttvar := (3 * x.rttvar + d) / 4, baseRtt := l }

/-- Acknowledged packets counted for their paths: one that a SACK reports mostly marked counts as
marked. -/
def ackPaths (x : Session) (l : List Sent) (ce : Bool) : Session :=
  { x with pathAck := l.foldl (fun t e =>
      let p := look t (0, 0) e.path
      put t e.path (p.1 + 1, p.2 + b1 ce)) x.pathAck }

/-- The operations of a session after packets are acknowledged: those left, those done, and those
answered with a status. A READ stays until its responses have come. -/
def settleOps (ops : List NetOp) (acked : Nat → Bool) (bad : Option Nat) : List NetOp × List NetOp × List NetOp :=
  let l := ops.map (fun (o : NetOp) => { o with left := o.left.filter (fun p => !acked p) })
  let hit := fun (o : NetOp) => match bad with
    | some p => (ops.find? (fun q => q.opId == o.opId && q.left.elem p)).isSome
    | none => false
  let waits := fun (o : NetOp) => !o.left.isEmpty || o.opc == opReadReq
  (l.filter (fun o => !hit o && waits o), l.filter (fun o => !hit o && !waits o), l.filter hit)

/-- An operation answered with a status (R273): a READ fails. -/
def opRefused (s : State) (o : NetOp) : State := if o.opc = opReadReq then failRead s o.opId else opDone s o true

/-- A SACK of a session taken in: packets acknowledged, lost or refused, and the counts of congestion control. -/
def sackIn (s : State) (peer : Nat) (a : Sack) : State :=
  let x := sessOf s peer
  let now := s.clock.ns
  let got := x.unacked.filter (fun e => sackHas a e.pkt.hdr.psn)
  let newest := (got.map (fun e => e.sentAt)).foldl max 0
  let left := x.unacked.filter (fun e => !sackHas a e.pkt.hdr.psn)
  let o := settleOps x.ops (fun p => got.any (fun e => e.pkt.hdr.psn == p)) (if a.status = 0 then none else some a.statusPsn)
  let x1 := ackPaths { x with unacked := left, ops := o.1 } got (decide (a.ackedCount < 2 * a.ceCount))
  let sample := now - a.echoTime
  let timed := decide (a.echoTime ≠ 0)
  let x2 := if timed then takeRtt x1 now sample else x1
  let slow := timed && decide (baseRtt x2 now + 8000 < sample)
  let x3 := { x2 with
    marked := x2.marked + a.ceCount + (if slow then a.ackedCount else 0)
    acked := x2.acked + a.ackedCount }
  let x4 := declareLost now x3 (fun e => nakHas a e.pkt.hdr.psn || decide (e.sentAt + 10000 ≤ newest))
  let s1 := setSess s peer x4
  let s2 := o.2.1.foldl (fun s p => opDone s p false) s1
  o.2.2.foldl opRefused s2

/-- A SACK received: no PSN, and no check of ORIGIN_TIME (R267). -/
def execSackReceive (h : FHdr) (b : PacketBody) (s : State) : Out :=
  let k := h.carrying b
  if hdrOk k = false then .next (countPkt s h cHcrc 1)
  else if h.opc ≠ opSack ∨ ownNode s ≠ some h.dstNode ∨ (sessOf s h.srcNode).isOpen = false then .next s
  else if bcrcOf k.payload k.poison ≠ k.bcrc then .next (countPkt s h cBcrc 1)
  else .next (sackIn s h.srcNode (readSack h.psn k.payload))

/-- The SACK owed 2 µs after the earliest packet not yet acknowledged. -/
def execSackTimer (peer : Nat) (s : State) : Out :=
  match (sessOf s peer).firstUnacked with
  | some t => if t + 2000 ≤ s.clock.ns then .next (sendSack s peer) else .next s
  | none => .next s

/-- The RTO of a packet sent again `tries` times. -/
def rtoOf (x : Session) (tries : Nat) : Nat := max 20000 (x.srtt + 4 * x.rttvar) * 2 ^ tries

/-- A packet unacknowledged within its RTO. -/
def execRtoExpiry (peer psn : Nat) (s : State) : Out :=
  let x := sessOf s peer
  .next (setSess s peer (declareLost s.clock.ns x (fun e =>
    e.pkt.hdr.psn == psn && decide (e.sentAt + rtoOf x e.tries ≤ s.clock.ns))))

/-- A path back in the spray. -/
def execPathSuspendExpiry (peer path : Nat) (s : State) : Out :=
  let x := sessOf s peer
  if has x.suspended path ∧ look x.suspended 0 path ≤ s.clock.ns then
    .next (setSess s peer { x with suspended := drop x.suspended path })
  else .next s

/-- The congestion interval, once per SRTT (R271): the window cut or grown, and the paths mostly marked
suspended (R262). -/
def execCongestionInterval (peer : Nat) (s : State) : Out :=
  let x := sessOf s peer
  let now := s.clock.ns
  if x.isOpen = false ∨ now < x.intervalAt + x.srtt then .next s
  else
    let m := min x.marked x.acked
    let w := if x.acked = 0 then x.cwnd
      else if 0 < m then max 4096 (x.cwnd * (2 * x.acked - m) / (2 * x.acked))
      else min 0x200_0000 (x.cwnd + max 4096 (x.cwnd / 8))
    let sus := x.pathAck.foldl (fun t e => if e.2.1 < 2 * e.2.2 then put t e.1 (now + 100000) else t) x.suspended
    .next (setSess s peer { x with cwnd := w, marked := 0, acked := 0, pathAck := [], suspended := sus, intervalAt := now })

/-! ## Ports (R256, R257, R262) -/

/-- A port. -/
def portOf (s : State) (p : Nat) : Port := look s.net.ports {} p

/-- A port replaced. -/
def setPort (s : State) (p : Nat) (x : Port) : State := { s with net := { s.net with ports := put s.net.ports p x } }

/-- A port comes up at a lane rate in Gb/s. -/
def portUp (s : State) (p rate : Nat) : State :=
  raise (setPort s p { portOf s p with up := true, rate := rate, failed := false }) 0x0401 clsC noCtx (unitPort p) (p4 p ++ p4 rate)

/-- The unacknowledged packets of every session that left by a port declared lost, so that they are
resent on others. -/
def losePort (s : State) (p : Nat) : State :=
  { s with net := { s.net with sessions := mapTbl s.net.sessions (fun _ x =>
      { x with unacked := x.unacked.map (fun e => if e.port = some p then { e with lost := true } else e) }) } }

/-- A port down, with PORT_DOWN; one that failed to train waits for its next negotiation. -/
def portDown (s : State) (p cause : Nat) (failed : Bool) : State :=
  let s1 := losePort s p
  raise (setPort s1 p { portOf s1 p with up := false, downAt := s.clock.ns, failed := failed })
    0x0402 clsC noCtx (unitPort p) (p4 p ++ p4 cause)

/-- The end of a negotiation: the highest lane rate the partner also offers, or PORT_DOWN with cause 1, no
common mode, or 2, a lane that fails training (R257). -/
def negotiated (s : State) (p : Nat) (rates : List Nat) (trained : Bool) : State :=
  let rate := if rates.elem 200 then 200 else if rates.elem 100 then 100 else 0
  if rate ≠ 0 ∧ trained = true then portUp s p rate else portDown s p (if rate = 0 then 1 else 2) true

/-- Auto-negotiation and training of a port done: `offer` is the lane rates the partner offers and whether every lane trained. -/
def execPortTrained (port : Nat) (offer : List Nat × Bool) (s : State) : Out :=
  let x := portOf s port
  if (portList s).elem port ∧ x.up = false ∧ x.failed = false then .next (negotiated s port offer.1 offer.2) else .next s

/-- A port loses its link. -/
def execPortLinkLoss (port cause : Nat) (s : State) : Out :=
  if (portOf s port).up then .next (portDown s port cause false) else .next s

/-- A port that failed to train negotiates again, every 1 s. -/
def execPortAnRetry (port : Nat) (rates : List Nat) (trained : Bool) (s : State) : Out :=
  let x := portOf s port
  if (portList s).elem port = false ∨ x.up ∨ s.clock.ns < x.downAt + second then .next s
  else .next (negotiated s port rates trained)

/-! ## Address resolution (R258, R261) -/

/-- ARP or neighbour discovery on a port: a request for the own address is answered, an answer is
kept. Without an identity the device answers nothing. -/
def execArp (port : Nat) (a : ArpMsg) (s : State) : Out :=
  match s.net.identity with
  | none => .next s
  | some i =>
    match a with
    | .request v6 target _ _ =>
      if (v6 = true ∧ i.flags.getLsbD 1 = true ∧ target = i.v6Addr) ∨ (v6 = false ∧ i.flags.getLsbD 0 = true ∧ target = i.v4Addr) then
        .next { s with net := { s.net with arpTx := s.net.arpTx ++ [(port, .reply v6 target (portMac i port))] } }
      else .next s
    | .reply _ sender mac =>
      .next { s with net := { s.net with
        arpTable := s.net.arpTable.filter (fun e => e.1 != arpKey port sender) ++ [(arpKey port sender, mac)] } }

/-! ## RoCEv2 (R276) -/

/-- A queue pair, and one replaced. -/
def qpAt (s : State) (q : Nat) : Qp := look s.net.qps {} q
def setQp (s : State) (q : Nat) (x : Qp) : State := { s with net := { s.net with qps := put s.net.qps q x } }

/-- The path MTU nearest below what a port carries: 1,024, 2,048 or 4,096 bytes. -/
def roceMtu (mtu : Nat) : Nat := if 4096 + 100 ≤ mtu then 4096 else if 2048 + 100 ≤ mtu then 2048 else 1024

/-- A packet with its addresses and its ICRC. -/
def sealRoce (i : NetIdentity) (a q : Nat) (k : RocePkt) : RocePkt :=
  let g := { k with
    v6 := isV6 a, src := if isV6 a then i.v6Addr else i.v4Addr, dst := a, sport := 0xC000 + q % 0x4000, icrc := 0 }
  { g with icrc := icrcOf g }

/-- A RoCEv2 packet of a queue pair on its way: by the first port that is up, and no sooner than the rate its
latest CNP left allows. -/
def roceOut (q : Nat) (s : State) (k : RocePkt) : State :=
  let x := qpAt s q
  match s.net.identity, pathPort s 0 with
  | some i, some p =>
    match wayToAddr s i p x.peer with
    | .go p a mac =>
      let g := sealRoce i a q k
      let t := max s.clock.ns x.nextAt
      let n := (roceBytes g).length
      let f := ipFrame s i p a mac 6 g.sport rocePort (.roce g)
      emitFrame (if x.rate = 0 then s else setQp s q { x with nextAt := t + n * 8000 / x.rate }) { f with time := t }
    | .ask p h => askMac s i p h
    | _ => s
  | _, _ => s

/-- RoCEv2 packets of a queue pair put on the wire. -/
def roceSend (s : State) (q : Nat) (l : List RocePkt) : State := l.foldl (roceOut q) s

/-- 24-bit sequence arithmetic and order. -/
def psnAdd (a n : Nat) : Nat := (a + n) % 0x100_0000
def psn24 (a b : Nat) : Bool :=
  let d := (b + 0x100_0000 - a % 0x100_0000) % 0x100_0000
  decide (0 < d) && decide (d < 0x80_0000)

/-- A payload cut at the path MTU; one packet where it is empty. -/
def cutMtu (fuel mtu : Nat) (bs : List Byte) : List (List Byte) :=
  match fuel with
  | 0 => [bs]
  | n + 1 => if bs.length ≤ mtu then [bs] else bs.take mtu :: cutMtu n mtu (bs.drop mtu)

/-- A message as the packets of a queue pair, from a PSN on: immediate data goes with the last. -/
def rocePkts (mtu psn : Nat) (k : RocePkt) : List RocePkt :=
  let l := cutMtu k.data.length (max mtu 1024) k.data
  l.zipIdx.map (fun e =>
    let lst := e.2 + 1 == l.length
    { k with
      first := e.2 == 0, last := lst, psn := psnAdd psn e.2, data := e.1, imm := if lst then k.imm else none })

/-- The packets a request takes of its sender's sequence: for an RDMA READ those of its responses. -/
def rocePsns (mtu : Nat) (k : RocePkt) : Nat :=
  if k.kind = .readReq then max 1 ((k.len + max mtu 1024 - 1) / max mtu 1024) else 1

/-- A request of the device as requester: SEND, RDMA WRITE or RDMA READ, the last with the physical address its
data goes to. -/
def roceRequest (s : State) (q : Nat) (k : RocePkt) (dpa : Nat) : State :=
  let x := qpAt s q
  let l := rocePkts x.mtu x.sendPsn k
  let n := (l.map (rocePsns x.mtu)).sum
  roceSend (setQp s q { x with
    sendPsn := psnAdd x.sendPsn n, unacked := x.unacked ++ l
    reads := if k.kind = .readReq then x.reads ++ [(x.sendPsn, dpa, k.len)] else x.reads }) q l

/-- The HBM a remote key opens at an address, none outside its registration. -/
def rkeyAt (s : State) (rkey va len : Nat) : Option Nat :=
  if has s.net.rkeys rkey then
    let r := look s.net.rkeys (0, 0, 0) rkey
    if r.1 ≤ va ∧ va + len ≤ r.1 + r.2.1 then some (r.2.2 + (va - r.1)) else none
  else none

/-- An RDMA access of the memory a key opens, for the context whose request registered it: SERVICE traffic. -/
def roceTouch (s : State) (rkey d len : Nat) (wr : Bool) : State :=
  match ctxNums.find? (fun k => (ctxOf s k).storage.any (fun r => r.keys.elem rkey)) with
  | some k => (reach s k [⟨d, len, wr, true⟩]).1
  | none => s

/-- The response packets of an RDMA READ. -/
def readResps (mtu : Nat) (k : RocePkt) (data : List Byte) : List RocePkt :=
  rocePkts mtu k.psn { kind := .readResp, qp := k.qp, data := data }

/-- What an in-order request of a peer does: the state, its answers and the PSNs it takes; none where its remote key
does not open the range, or a packet that goes on with an RDMA WRITE has none to go on with. -/
def roceAct (s : State) (k : RocePkt) : Option (State × List RocePkt × Nat) :=
  let x := qpAt s k.qp
  let ack : RocePkt := { kind := .ack, qp := k.qp, psn := k.psn }
  match k.kind with
  | .write =>
    let at' := if k.first then (rkeyAt s k.rkey k.va k.len).map (fun d => (d, k.len)) else x.landing
    match at' with
    | some (d, left) =>
      if left < k.data.length then none
      else
        let s1 := writeDpa (roceTouch s k.rkey d k.data.length true) d k.data false
        some (setQp s1 k.qp { x with landing := if k.last then none else some (d + k.data.length, left - k.data.length) }, [ack], 1)
    | none => none
  | .readReq => (rkeyAt s k.rkey k.va k.len).map (fun d => (roceTouch s k.rkey d k.len false, readResps x.mtu k (readDpa s.mem d k.len), rocePsns x.mtu k))
  | _ => some (s, [ack], 1)

/-- A response of an RDMA READ the device made, taken in order: its data goes where the READ says. -/
def roceResp (s : State) (k : RocePkt) : State :=
  let x := qpAt s k.qp
  match x.reads with
  | (p, d, left) :: r =>
    if k.psn ≠ p ∨ left < k.data.length then s
    else
      let s1 := writeDpa s d k.data false
      let n := left - k.data.length
      setQp s1 k.qp { x with
        reads := if n = 0 then r else (psnAdd p 1, d + k.data.length, n) :: r
        unacked := if n = 0 then x.unacked.filter (fun u => psn24 p u.psn) else x.unacked }
  | [] => s

/-- A RoCEv2 packet of a target whose ICRC is right: in order a request is acted on and acknowledged, a duplicate
acknowledged again, a gap answered with a NAK; responses, acknowledgements, NAKs and CNPs act on what the device has
sent, with go-back-N. -/
def execRocev2Receive (k : RocePkt) (s : State) : Out :=
  let q := k.qp
  if has s.net.qps q = false ∨ icrcOf { k with icrc := 0 } ≠ k.icrc then .next s
  else
    let s1 := if k.ce then roceSend s q [{ kind := .cnp, qp := q }] else s
    let x := qpAt s1 q
    match k.kind with
    | .ack => .next (setQp s1 q { x with unacked := x.unacked.filter (fun u => psn24 k.psn u.psn) })
    | .nak =>
      let l := x.unacked.filter (fun u => !psn24 u.psn k.psn)
      .next (roceSend (setQp s1 q { x with unacked := l }) q l)
    | .cnp => .next (drawn (setQp s1 q { x with rate := 1 + freeVal s 32 }))
    | .readResp => .next (roceResp s1 k)
    | _ =>
      if k.psn = x.expect then
        match roceAct s1 k with
        | some (s2, l, n) => .next (roceSend (setQp s2 q { qpAt s2 q with expect := psnAdd x.expect n }) q l)
        | none => .next (roceSend s1 q [{ kind := .nak, qp := q, psn := k.psn, len := 0x62 }])
      else if psn24 k.psn x.expect then .next (roceSend s1 q [{ kind := .ack, qp := q, psn := k.psn }])
      else .next (roceSend s1 q [{ kind := .nak, qp := q, psn := x.expect, len := 0x60 }])

end Sys2Proof.Machine
end

