-- ==== Sys2Proof/Machine/Placement.lean ====
section
/-! DEFINITION. The placement of logical cores (R14 to R26): choosing physical cores, failures,
shadowed pairs, the capacity report, the patrol test (R409, R410) and the progress watchdog (R237 to
R239); the progress of long operations (R443). -/

namespace Sys2Proof.Machine

/-! ## Progress records (R356, R443) -/

/-- The percent of a position; 100 where there is nothing to do. -/
def percentOf (pos total : Nat) : Nat := if total = 0 then 100 else 100 * pos / total

/-- A PROGRESS record. -/
def progressRec (s : State) (op k pos total : Nat) : State :=
  asyncRec s 0x8003 k 0 (leBytes 1 op ++ leBytes 1 (percentOf pos total) ++ leBytes 6 0 ++ p8 pos ++ p8 total)

/-- An operation gone from `old` to `pos`: a record at its start, at each change of percent and at its
end. -/
def progressTo (s : State) (op k old pos total : Nat) (start : Bool) : State :=
  if start || percentOf old total != percentOf pos total || (pos == total && old != total) then progressRec s op k pos total else s

/-! ## Healthy and free cores -/

/-- A physical core's state. -/
def physAt (s : State) (p : Nat) : Phys := look s.place.phys {} p

/-- A physical core's state replaced. -/
def setPhys (s : State) (p : Nat) (x : Phys) : State := { s with place := { s.place with phys := put s.place.phys p x } }

/-- Whether a physical core is healthy. -/
def healthy (s : State) (p : Nat) : Bool := decide (p < 336) && !(physAt s p).failed

/-- A free healthy physical core: it holds no logical core and is not under test. -/
def freeCore (s : State) (p : Nat) : Bool :=
  healthy s p && (placedOn s.place p).isEmpty && (mappedOn s.place p).isEmpty && s.place.patrol != some p

/-- The physical cores of a bay, rising. -/
def bayCores (b : Nat) : List Nat := (List.range 21).map (fun i => 21 * b + i)

/-- The candidates for logical core `n` in the order of R17. -/
def candidates (s : State) (n : Nat) : List Nat :=
  let hb := homeBay n
  bayCores hb ++ ((List.range 4).map (fun i => 4 * (hb / 4) + i)).flatMap bayCores
    ++ (baysOf s.place (partOf s.place n)).flatMap bayCores ++ List.range 336

/-- The free healthy physical core firmware chooses for a logical core. -/
def chooseFree (s : State) (n : Nat) : Option Nat := (candidates s n).find? (freeCore s)

/-- Whether a logical core has a healthy dedicated placement. -/
def dedicated (s : State) (n : Nat) : Bool := healthy s (mapPhys s.place n) && (mappedOn s.place (mapPhys s.place n)) == [n]

/-- The partner with which logical core `n` shares a physical core (R21). -/
def choosePartner (s : State) (n : Nat) : Option Nat :=
  let part := coresOf s.place (partOf s.place n)
  let ok := fun (m : Nat) => m != n && dedicated s m
  match part.find? (fun m => ok m && homeBay m == homeBay n) with
  | some m => some m
  | none => match part.find? (fun m => ok m && m / 80 == n / 80) with
    | some m => some m
    | none => part.find? ok

/-- The OVERLAY area of the flash written: the placement map, the lane maps and the re-fit overlay (R413). -/
def noteOverlay (s : State) : State := { s with sec := { s.sec with writeCtr := put s.sec.writeCtr 4 (look s.sec.writeCtr 0 4 + 1) } }

/-- A logical core given a physical core in the placement map, which the flash keeps at each change (R16). -/
def mapCore (s : State) (n p : Nat) : State :=
  if mapPhys s.place n = p then s
  else noteOverlay { s with place := { s.place with
      map := if p = homePhys s.place n then drop s.place.map n else put s.place.map n p } }

/-- The number of no physical core: where the map puts a logical core that has none. -/
abbrev noPhys : Nat := 336

/-- A logical core placed as R17 and R21 choose: the state and whether it could be. A shared core's
earlier holder stays resident. -/
def placeCore (s : State) (n : Nat) : State × Bool :=
  match chooseFree s n with
  | some p => (mapCore s n p, true)
  | none => match choosePartner s n with
    | some m =>
      let p := mapPhys s.place m
      let s1 := mapCore s n p
      (setPhys s1 p { physAt s1 p with resident := some m, switchAt := s.clock.ns }, true)
    | none => (s, false)

/-- The logical cores of a partition without a healthy physical core. -/
def unplaced (s : State) (part : Nat) : List Nat := (coresOf s.place part).filter (fun n => !healthy s (mapPhys s.place n))

/-- CAPACITY_EXHAUSTED of a partition that cannot place every logical core (R26). -/
def markUnavailable (s : State) (part : Nat) : State :=
  if (partSt s.place part).unavailable then s
  else raise (setPart s part { partSt s.place part with unavailable := true }) 0x0803 clsC noCtx 0 (p4 part)

/-! ## The capacity report (R25, R355) -/

/-- What the report counts over a list of logical cores, bays and slices. -/
structure Capacity where
  dedicated : Nat
  shadowed  : Nat
  free      : Nat
  failed    : Nat
  retired   : Nat
  deriving DecidableEq, Repr

/-- The counts over bays. -/
def capacityOf (s : State) (bays : List Nat) : Capacity :=
  let cs := (List.range 320).filter (fun n => bays.elem (homeBay n))
  let ps := bays.flatMap bayCores
  let sl := bays.flatMap (fun b => (List.range 11).map (fun i => 44 * (b / 4) + 11 * (b % 4) + i))
  ⟨(cs.filter (dedicated s)).length,
   (cs.filter (fun n => healthy s (mapPhys s.place n) && (mappedOn s.place (mapPhys s.place n)).length == 2)).length,
   (ps.filter (freeCore s)).length, (ps.filter (fun p => !healthy s p)).length,
   (sl.filter (fun i => sliceMode s.mem i == .retired)).length⟩

/-- The counts of the device. -/
def capacity (s : State) : Capacity := capacityOf s (List.range 16)

/-- What the report of R25 rests on: the counts of the device, and the placement and layout that decide those of
each partition. -/
def reportOf (s : State) : Capacity × Tbl Nat × List Nat := (capacity s, s.place.map, s.place.layout)

/-- CAPACITY_CHANGED at a placement change, and where the report differs from an earlier one (R25). -/
def capacityEvent (s : State) (old : Capacity × Tbl Nat × List Nat) : State :=
  let c := capacity s
  if reportOf s = old then s
  else raise s 0x0802 clsC noCtx 0 (p4 c.dedicated ++ p4 c.shadowed ++ p4 c.free ++ p4 c.failed ++ p4 c.retired)

/-! ## Failure of a physical core (R19) -/

/-- 30 days in ns. -/
abbrev days30 : Nat := 30 * day

/-- The contexts whose program is on a physical core: running there, on the logical core resident. -/
def ctxsOn (s : State) (p : Nat) : List Nat :=
  ((placedOn s.place p).filter (fun n => residentPhys s n == some p)).filterMap (fun n =>
    match runningOn s n with
    | some k => if (coreOf s k n).active then some k else none
    | none => none)

/-- The logical cores that must move placed in turn; the partition of one that cannot is unavailable. -/
def placeAll' (s : State) (ns : List Nat) : State :=
  ns.foldl (fun s n =>
    let r := placeCore s n
    if r.2 then r.1 else markUnavailable r.1 (partOf s.place n)) s

/-- A physical core marked failed; one that fails for a reason that lasts, or for a second time within
30 days, never returns (R410). -/
def markFailed (s : State) (p cause : Nat) : State :=
  let x := physAt s p
  let recent := x.failures.filter (fun t => decide (s.clock.ns < t + days30))
  setPhys s p { x with
    failed := true, cause := cause, failedAt := s.clock.ns, failures := recent ++ [s.clock.ns], passes := 0, lastTest := s.clock.ns
    never := x.never || cause == 1 || cause == 2 || !recent.isEmpty }

/-- CORE_FAILED: class J for each context with its program on the core, class C otherwise. -/
def coreFailedEvent (s : State) (p moved cause : Nat) (ks : List Nat) : State :=
  let pay := p4 p ++ p4 moved ++ p4 cause
  if ks = [] then raise s 0x0801 clsC noCtx (unitPhys p) pay
  else ks.foldl (fun s k => raise s 0x0801 clsJ k (unitPhys p) pay) s

/-- A stand-in made the placement (R409). -/
def keepStandIn (s : State) : State :=
  let s1 := s.place.patrolMoves.foldl (fun s e => mapCore s e.1 e.2) s
  { s1 with place := { s1.place with patrolMoves := [] } }

/-- The logical cores that stand in on a core that fails move to another free core, or without one back to the
core under test, whose test ends. -/
def moveStandIns (s : State) (p : Nat) : State :=
  match s.place.patrolMoves.filter (fun e => e.2 == p) with
  | [] => s
  | (n, _) :: _ =>
    let y := physAt s p
    let dst := chooseFree s n
    let q := dst.getD (mapPhys s.place n)
    let s1 : State := { s with place := { s.place with
      patrolMoves := if dst.isSome then s.place.patrolMoves.map (fun e => (e.1, q)) else []
      patrol := if dst.isSome then s.place.patrol else none } }
    setPhys s1 q { physAt s1 q with resident := y.resident, switchAt := y.switchAt }

/-- The cores of running contexts that were away when their physical core failed, put on the ones they now hold
from their save images (R19). -/
def loadAway (s : State) (ns : List Nat) : State :=
  ns.foldl (fun s n => match runningOn s n, residentPhys s n with
    | some k, some q => loadScratch s k n q
    | _, _ => s) s

/-- A physical core declared failed and its logical cores placed anew; those that stood in on it, or stand in for
it elsewhere, among them. -/
def failCore (s : State) (p cause : Nat) : State :=
  if healthy s p = false then s
  else
    let old := reportOf s
    let ks := ctxsOn s p
    let away := (mappedOn s.place p).filter (fun n => (residentPhys s n).isNone)
    let s' := countAway s away
    let s0 := if s.place.patrol = some p then keepStandIn { s' with place := { s'.place with patrol := none } } else s'
    let ns := mappedOn s0.place p
    let s1 := loadAway (moveStandIns (placeAll' (markFailed s0 p cause) ns) p) away
    capacityEvent (coreFailedEvent s1 p ((placedOn s.place p).foldl addNat ns).length cause ks) old

/-- An uncorrected fault of a core's logic. -/
def execCoreLogicFault (p : Nat) (s : State) : Out := .next (failCore s p 0)

/-! ## Return to service (R410, R26) -/

/-- The logical cores without a physical core placed where that is now possible; a partition that lacked one
returns to service, and one that cannot place all is unavailable. -/
def replaceUnplaced (s : State) : State :=
  (partNums s.place).foldl (fun s part =>
    let s1 := (unplaced s part).foldl (fun s n => (placeCore s n).1) s
    if unplaced s1 part ≠ [] then markUnavailable s1 part
    else if (partSt s1.place part).unavailable then schedule (setPart s1 part { partSt s1.place part with unavailable := false }) part
    else s1) s

/-- The scratchpads of `n` cores from `p` on hold test data, which no rule gives (R135). -/
def testData (s : State) (p n : Nat) : State :=
  let a := Config.scratchDpa + p * Config.scratchBytes
  let m := clearMem s.mem a (n * Config.scratchBytes)
  { s with mem := { m with stale := m.stale ++ [(a, n * Config.scratchBytes)] } }

/-- A re-verification run of a core that failed for one logic fault, at least 1 hour after the last:
three passes return it, a failure keeps it out. -/
def execCoreReverify (p : Nat) (pass : Bool) (s : State) : Out :=
  let x := physAt s p
  if x.failed = false ∨ x.cause ≠ 0 ∨ x.never ∨ s.clock.ns < x.lastTest + hour then .next s
  else
  let s := testData s p 1
  if pass then
    let y := { x with passes := x.passes + 1, lastTest := s.clock.ns }
    if y.passes < 3 then .next (setPhys s p y)
    else
      let old := reportOf s
      let s1 := raise (setPhys s p { y with failed := false, passes := 0 }) 0x0804 clsC noCtx (unitPhys p) (p4 p)
      .next (capacityEvent (replaceUnplaced s1) old)
  else
    .next (coreFailedEvent (setPhys s p { x with lastTest := s.clock.ns, never := true, cause := 2, passes := 0 }) p 0 2 [])

/-! ## Shadowed pairs (R22, R23) -/

/-- The pair on a physical core: the resident logical core and the other. -/
def pairOn (s : State) (p : Nat) : Option (Nat × Nat) :=
  match placedOn s.place p with
  | [a, b] => if residentPhys s a = some p then some (a, b) else some (b, a)
  | _ => none

/-- The switch of a pair: state saved and loaded, the time away counted (R428), the record of R433. What the
outgoing core's stream and sync engines have started goes on, and reaches the saved image (R366). -/
def switchPair (s : State) (p a b : Nat) : State :=
  let k := (runningOn s a).getD 64
  let s1 := if k < 64 then saveScratch (countAway s [b]) k a p else s
  let s2 := setPhys s1 p { physAt s1 p with resident := some b, switchAt := s.clock.ns }
  if k < 64 then
    traceCat (loadScratch s2 k b p) 2 k b (unitPhys p) 0x32 0 p (leBytes 2 a ++ leBytes 2 b)
  else s2

/-- The quantum of a pair's partition over. -/
def execShadowQuantumExpiry (p : Nat) (s : State) : Out :=
  match pairOn s p with
  | some (a, b) =>
    if (physAt s p).switchAt + (partSt s.place (partOf s.place a)).quantumUs * 1000 ≤ s.clock.ns ∧ s.place.patrol ≠ some p then
      .next (switchPair s p a b)
    else .next s
  | none => .next s

/-- Whether a core waits in TRUSS.WAIT or FENCE, and has for a time. -/
def waitsFor (s : State) (k n t : Nat) : Bool :=
  (coreOf s k n).flights.any (fun e => e.2.any (fun f =>
    !f.ready && ((f.q.op == .trussWait && f.ran) || f.q.op == .fence) && decide (f.started + t ≤ s.clock.ns)))

/-- An early switch: the resident core has waited 2 µs and the other is not known to wait. -/
def execShadowEarlySwitch (p : Nat) (s : State) : Out :=
  match pairOn s p with
  | some (a, b) =>
    match runningOn s a with
    | some k => if waitsFor s k a 2000 && !waitsFor s k b 0 && s.place.patrol != some p then .next (switchPair s p a b) else .next s
    | none => .next s
  | none => .next s

/-! ## The patrol test (R409) -/

/-- The next core of the pass, cores declared failed skipped. -/
def patrolTarget (s : State) : Option Nat :=
  ((List.range 336).map (fun i => (s.place.patrolNext + i) % 336)).find? (healthy s)

/-- Cores not declared failed. -/
def healthyCount (s : State) : Nat := ((List.range 336).filter (healthy s)).length

/-- The pass moved past a core. -/
def patrolPast (s : State) (p : Nat) : State :=
  { s with place := { s.place with patrolNext := (p + 1) % 336, patrolAt := s.clock.ns } }

/-- The logical cores on `p` moved to a stand-in: the resident core's scratchpad with them. -/
def standIn (s : State) (p q : Nat) : State :=
  let ns := placedOn s.place p
  let s1 : State := { s with place := { s.place with patrolMoves := ns.map (fun n => (n, q)) } }
  let s2 := setPhys s1 q { physAt s1 q with resident := (physAt s p).resident, switchAt := (physAt s p).switchAt }
  copyDpa s2 noCtx (Config.scratchDpa + p * Config.scratchBytes) (Config.scratchDpa + q * Config.scratchBytes) Config.scratchBytes

/-- The patrol test of the next core begins, every 60 s: a free core directly, an occupied one after its
logical cores stand in elsewhere, and without a free core only when nothing runs on its partition. -/
def execPatrolTestStart (s : State) : Out :=
  if s.place.patrol.isSome ∨ s.clock.ns < s.place.patrolAt + 60 * second ∨ alive s = false ∨ s.fw.stage < 10 then .next s
  else match patrolTarget s with
    | none => .next s
    | some p =>
      let s0 := patrolPast s p
      let begin' := fun (t : State) => testData { t with place := { t.place with patrol := some p } } p 1
      match placedOn s0.place p with
      | [] => .next (begin' s0)
      | n :: _ =>
        match chooseFree s0 n with
        | some q => .next (begin' (standIn s0 p q))
        | none => if (runningOn s0 n).isNone then .next (begin' s0) else .next s0

/-- The logical cores of a core under test back on it. -/
def standBack (s : State) (p : Nat) : State :=
  match s.place.patrolMoves with
  | [] => s
  | (_, q) :: _ =>
    let r := (physAt s q).resident
    let w := (physAt s q).switchAt
    let s0 := copyDpa s noCtx (Config.scratchDpa + q * Config.scratchBytes) (Config.scratchDpa + p * Config.scratchBytes) Config.scratchBytes
    let s1 : State := { s0 with place := { s0.place with patrolMoves := [] } }
    setPhys (setPhys s1 q { physAt s1 q with resident := none }) p { physAt s1 p with resident := r, switchAt := w }

/-- The end of a patrol test, 40 ms after its start: the core serves again, or is declared failed. -/
def patrolEnd (s : State) (p : Nat) (pass : Bool) (sig : Word) : State :=
  let old := reportOf s
  let n := s.place.patrolDone + 1
  let tot := healthyCount s
  let s0 := progressTo { s with place := { s.place with patrolDone := if tot ≤ n then 0 else n } } 6 noCtx (n - 1) n tot (n == 1)
  let s1 : State := { s0 with place := { s0.place with patrol := none } }
  if pass then setPhys (standBack s1 p) p { physAt (standBack s1 p) p with lastTest := s.clock.ns }
  else
    let s2 := keepStandIn (raise s1 0x080A clsC noCtx (unitPhys p) (p4 p ++ p8 sig.toNat))
    let ns := mappedOn s2.place p
    let s3 := placeAll' (markFailed s2 p 1) ns
    capacityEvent (coreFailedEvent s3 p s1.place.patrolMoves.length 1 []) old

/-! ## The progress watchdog (R237 to R239) -/

/-- A waiter record of the snapshot: core, engine, kind, identifier, count or phase, and since when. -/
structure WaitRec where
  core  : Nat
  eng   : Nat
  kind  : Nat
  ident : Nat
  num   : Nat
  since : Nat
  deriving DecidableEq, Repr

/-- The first token a queue head waits for: one whose count does not reach the times the head names it (R54). -/
def heldToken (c : Core) (q : QInstr) : Nat :=
  ((waits q.w).find? (fun t => decide (token c t < (waits q.w).countP (· == t)))).getD 0

/-- The waits of one core, by engine: queue heads held, trusses, the sequencer. -/
def waitsOfCore (s : State) (k n : Nat) : List WaitRec :=
  let c := coreOf s k n
  (List.range 5).flatMap (fun e =>
    (match look c.queues [] e with
      | q :: _ => if waitsMet c q.w = false then [(⟨n, e, 1, heldToken c q, token c (heldToken c q), look c.headSince 0 e⟩ : WaitRec)] else []
      | [] => [])
    ++ (if e = 4 then (ctxOf s k).trusses.flatMap (fun t =>
        (t.2.waiters.filter (fun w => w.lcore == n)).map (fun w => (⟨n, 4, 0, t.1, w.gen, w.since⟩ : WaitRec))) else []))
  ++ (match c.held with
      | some (.wtok t) => [⟨n, 5, 1, t, token c t, c.heldSince⟩]
      | _ => [])

/-- The waits of a context's cores. -/
def waitsOf (s : State) (k : Nat) : List WaitRec := (launchCores (ctxOf s k)).foldl addNat [] |>.flatMap (waitsOfCore s k)

/-- The members of a truss that have not arrived. -/
def absentMembers (t : Truss) : List Member := t.members.filter (fun m => !t.arrivedM.elem m)

/-- The words of a member in a WAITFOR_MEMBERS record. -/
def memberWord (m : Member) : Nat :=
  match m with
  | .core n => n
  | .remote a n => a * 4096 + n
  | .truss a v => a * 4096 + v % 4096

/-- The trace records of a waiter (R239, R433). -/
def waiterTrace (_s : State) (k q : Nat) (w : WaitRec) : TraceRec :=
  ⟨w.since, unitCore w.core, 0x60, k, 0, w.core, q,
    leBytes 1 w.eng ++ leBytes 1 w.kind ++ leBytes 2 (if w.kind = 0 then w.num else 0) ++ p4 w.ident ++ p4 (if w.kind = 1 then w.num else 0) ++ p4 0⟩

/-- The trace records of a truss. -/
def trussTrace (s : State) (k q v : Nat) : List TraceRec :=
  let t := trussOf s k v
  let cnt := if t.enrolled then t.arrivedM.length else t.arrived
  let pen := if t.enrolled then t.pendingM.length else t.pending
  let n := if t.enrolled then t.members.length else t.n
  let ms := (absentMembers t).take 4
  let rec' := fun (l : List Member) => (⟨s.clock.ns, unitBase t.home, 0x62, k, 0, 0xFFFF, q, padTo 12 (l.flatMap (fun m => p4 (memberWord m))) ++ p4 0⟩ : TraceRec)
  [⟨s.clock.ns, unitBase t.home, 0x61, k, 0, 0xFFFF, q,
    p4 (v + b1 t.enrolled * 0x10_0000 + t.credits * 0x100_0000) ++ leBytes 2 t.gen ++ leBytes 2 cnt ++ leBytes 2 pen ++ leBytes 2 n ++ p4 0⟩]
    ++ (if ms = [] then [] else if ms.length ≤ 3 then [rec' ms] else [rec' (ms.take 3), rec' (ms.drop 3)])

/-- Whether a context is waiting (R238). -/
def ctxWaiting (s : State) (k : Nat) : Bool := !(waitsOf s k).isEmpty

/-- DEADLOCK_SUSPECT with its snapshot. -/
def deadlock (s : State) (k : Nat) : State :=
  let x := ctxOf s k
  let ws := (waitsOf s k).take 1024
  let vs := (((ws.filter (fun w => w.kind == 0)).map (fun w => w.ident)).foldl addNat []).take (1024 - ws.length)
  let q := s.obs.seqNext
  let o := (ws.map (waiterTrace s k q) ++ vs.flatMap (trussTrace s k q)).foldl traceO s.obs
  raise { s with obs := o } 0x0305 clsJ k 0
    (p8 (x.watchdogMs * 1000000) ++ p4 (ws.length + vs.length) ++ p8 x.lastProgress)

/-- One context's test; a context whose job fault awaits its restart is halting. -/
def watchCtx (s : State) (k : Nat) : State :=
  let x := ctxOf s k
  let now := s.clock.ns
  let s1 := watchTick s k
  if x.launched && !watchSuspended s k && ctxWaiting s k && decide (x.watchBase + x.watchdogMs * 1000000 ≤ now)
      && x.restart.phase == 0 && x.faultSeq == 0 then
    deadlock (setCtx s1 k { ctxOf s1 k with watchBase := now }) k
  else s1

/-- The test of every context's watchdog, each 1 ms. -/
def execWatchdogTest (s : State) : Out := .next (ctxNums.foldl watchCtx s)

end Sys2Proof.Machine
end

