-- ==== Sys2Proof/Machine/Services.lean ====
section
/-! DEFINITION. The services of the memories: the regulator (R99, R100), the patrol scrub (R84), row
sparing, page retirement and post-package repair of the HBM (R85, R86, R412), the retirement of Thatch
slices (R82, R411), and save images moved home on demand (R478). -/

namespace Sys2Proof.Machine

/-! ## The regulator -/

/-- A level after one refill. -/
def refill (level : Int) (budget : Nat) : Int := min (level + budget) (4 * budget)

/-- A context at a refill; what it owes of bursts already made is paid first. -/
def refillCtx (x : Ctx) : Ctx :=
  let l := refill x.levelHbm x.budgetHbm
  let p := payable l x.owedHbm
  { x with levelHbm := l - p, owedHbm := x.owedHbm - p, levelNet := refill x.levelNet x.budgetNet }

/-- The refill of every context and of the mirror service, once in each 1 µs of device time. -/
def execRegulatorRefill (s : State) : Out :=
  if s.clock.ns < s.mem.refillAt + 1000 then .next s
  else .next { s with
    ctxs := mapTbl s.ctxs (fun _ x => refillCtx x)
    mem := { s.mem with refillAt := s.mem.refillAt + 1000 }
    fw := { s.fw with mirrorLevel := refill s.fw.mirrorLevel s.fw.mirrorBudget } }

/-! ## The patrol scrub -/

/-- Grains of a scrub pass (R443). -/
abbrev scrubTotal : Nat := 6442450944

/-- The context that maps a physical address. -/
def ownerOf (s : State) (d : Nat) : Nat :=
  (ctxNums.find? (fun k => !(vasOf (ctxOf s k).pages d).isEmpty)).getD noCtx

/-- The scrub reads the next grain of the stacks, with an error the memories may have developed. A grain that
decodes as poison sets the flags of R389. -/
def execPatrolScrub (rd : ReadErr) (s : State) : Out :=
  let g := s.mem.scrubPos
  let s1 := if s.mem.poison.elem g then notePoison s (64 * g) else s
  let s2 := meet (develop s1 rd) (ownerOf s (64 * g)) 1 (64 * g) 64
  let n := if g + 1 < scrubTotal then g + 1 else 0
  let s3 := progressTo { s2 with mem := { s2.mem with scrubPos := n } } 3 noCtx g (g + 1) scrubTotal (g == 0)
  .next s3

/-! ## Row sparing -/

/-- The errors of a row within 24 hours: 8 for an uncorrected one, 1 for a corrected one. -/
def rowWeight (m : Mem) (chan row now : Nat) : Nat :=
  (m.rowErrs.filter (fun e => e.1 == chan && e.2.1 == row && decide (now < e.2.2 + day))).length

/-- A row due for sparing. -/
def rowDue (s : State) (chan row : Nat) : Bool := decide (8 ≤ rowWeight s.mem chan row s.clock.ns)

/-- The errors of a row forgotten. -/
def dropRow (m : Mem) (chan row : Nat) : Mem :=
  { m with rowErrs := m.rowErrs.filter (fun e => !(e.1 == chan && e.2.1 == row)) }

/-- Spare rows of a pseudo-channel still free. -/
def sparesLeft (m : Mem) (chan : Nat) : Nat := 16 - (look m.spares [] chan).length

/-- The copy of a due row to a spare; its bytes and poison keep their addresses. -/
def execHbmRowSpare (chan row : Nat) (s : State) : Out :=
  if rowDue s chan row = false ∨ sparesLeft s.mem chan = 0 then .next s
  else
    let m := dropRow s.mem chan row
    let m1 : Mem := { m with spares := put m.spares chan (look m.spares [] chan ++ [row]) }
    let s1 := endHandling { s with mem := m1 } (fun h => h.code == 0x0201 && h.unit == unitChan chan)
    .next (raise s1 0x0806 clsC noCtx (unitChan chan) (p4 chan ++ p4 row ++ p4 (sparesLeft m1 chan)))

/-! ## Page retirement -/

/-- Whether a 2 MiB page holds a piece of a row. -/
def pageHolds (page chan row : Nat) : Bool :=
  decide (page / Config.stackPages = chan / 32) &&
    (List.range 256).any (fun i => Config.hbmRow (page * Config.page2 + chan % 32 * 256 + i * 8192) == row)

/-- Whether a page holds a row that is due while its table is full. -/
def pageDue (s : State) (page : Nat) : Bool :=
  s.mem.rowErrs.any (fun e => rowDue s e.1 e.2.1 && sparesLeft s.mem e.1 == 0 && pageHolds page e.1 e.2.1)

/-- The 1 GiB page that holds a physical 2 MiB page split into 512 (R86, R360). -/
def splitPage (t : Tbl Page) (d : Nat) : Tbl Page :=
  match t.find? (fun e => e.2.valid && e.2.big && decide (e.2.dpa ≤ d) && decide (d < e.2.dpa + Config.page1g)) with
  | none => t
  | some e => (List.range 512).foldl (fun t i => put t (e.1 + i) { e.2 with big := false, dpa := e.2.dpa + i * Config.page2 }) (drop t e.1)

/-- What the network dies hold of a physical page that moved: remote keys, and the RDMA and Furlong transfers
under way. -/
def remapNet (n : Net) (old d : Nat) : Net :=
  let mv := fun (a : Nat) => if a / Config.page2 * Config.page2 = old then d + a % Config.page2 else a
  { n with
    rkeys := mapTbl n.rkeys (fun _ r => (r.1, r.2.1, mv r.2.2))
    qps := mapTbl n.qps (fun _ q => { q with
      reads := q.reads.map (fun r => (r.1, mv r.2.1, r.2.2)), landing := q.landing.map (fun r => (mv r.1, r.2)) })
    reads := n.reads.map (fun r => { r with base := mv r.base }) }

/-- Firmware's own tables with a physical page moved: the homes of save images, snapshot and mirror slots, spilled
fetch lists, its reserved ranges and the trace region (R86). -/
def remapFw (s : State) (old d : Nat) : State :=
  let mv := fun (l : List Nat) => l.map (fun a => if a = old then d else a)
  { s with
    ctxs := mapTbl s.ctxs (fun _ x => { x with
      imgHome := mapTbl x.imgHome (fun _ l => mv l), ckpt := { x.ckpt with pages := x.ckpt.pages.map mv }
      twin := x.twin.map (fun t => { t with pages := t.pages.map mv }) })
    cores := mapTbl s.cores (fun _ c => { c with spill := mv c.spill })
    mem := { s.mem with fwRanges := s.mem.fwRanges.map (fun r => if r.1 = old then (d, r.2) else r) }
    net := remapNet s.net old d
    obs := { s.obs with pages := mv s.obs.pages } }

/-- Every mapping of a physical page moved to another page, or removed. -/
def remap (s : State) (old : Nat) (new : Option Nat) : State :=
  { s with ctxs := mapTbl s.ctxs (fun _ x =>
      let t := splitPage x.pages old
      let on := fun (e : Nat × Page) => e.2.valid && !e.2.big && e.2.dpa == old
      { x with pages := match new with
          | some d => t.map (fun e => if on e then (e.1, { e.2 with dpa := d }) else e)
          | none => t.filter (fun e => !on e) }) }

/-- PROGRESS of a repair that copies `n` bytes (R443). -/
def repairProgress (s : State) (k n : Nat) : State := progressRec (progressRec s 5 k 0 n) 5 k n n

/-- MiB of a stack that remain usable: what firmware keeps, a larger trace region among it, and the pages
retired without a replacement taken off. -/
def usableMib (s : State) (stack : Nat) : Nat :=
  2 * (fwFloor stack
    - (s.obs.pages.filter (fun a => a / Config.stackBytes == stack)).length
    - ((s.mem.retired.filter (fun p => p / Config.stackPages == stack)).length - look s.mem.pool 0 stack))

/-- The due rows of a page that no spare is left for are no longer due: the page leaves the device. -/
def forgetPage (s : State) (page : Nat) : Mem :=
  let l := s.mem.rowErrs.filter (fun e => rowDue s e.1 e.2.1 && sparesLeft s.mem e.1 == 0 && pageHolds page e.1 e.2.1)
  l.foldl (fun m e => dropRow m e.1 e.2.1) s.mem

/-- What firmware keeps on a page that leaves translation, moved to a free page. -/
def fwElsewhere (s : State) (k old : Nat) : State :=
  if s.mem.fwRanges.any (fun r => r.1 == old) then
    match takeHbm s (List.range 8) (old / Config.stackBytes) Config.page2 (Config.pageStart s.mem.allocs) with
    | some d => remapFw (copyDpa s k old d Config.page2) old d
    | none => s
  else s

/-- A page retired: copied to a page of the pool, poison included, and remapped; without a page of the
pool it leaves translation, and the usable capacity falls. -/
def execHbmPageRetire (page : Nat) (s : State) : Out :=
  if pageDue s page = false ∨ s.mem.retired.elem page then .next s
  else
    let st := page / Config.stackPages
    let k := ownerOf s (page * Config.page2)
    let used := look s.mem.pool 0 st
    let m := forgetPage s page
    let m1 : Mem := { m with retired := addNat m.retired page }
    let s0 := endHandling { s with mem := m1 } (fun h => h.code == 0x0201 && h.unit / 32 == unitChan (32 * st) / 32)
    if used < poolPages then
      let d := (st * Config.stackPages + Config.stackPages - poolPages + used) * Config.page2
      let c := copyDpa s0 k (page * Config.page2) d Config.page2
      let s1 : State := { c with mem := { c.mem with pool := put c.mem.pool st (used + 1) } }
      let s2 := repairProgress (remapFw (remap s1 (page * Config.page2) (some d)) (page * Config.page2) d) k Config.page2
      .next (raise s2 0x0807 clsC k (unitChan (32 * st)) (p8 (page * Config.page2) ++ p4 (poolPages - used - 1)))
    else
      let s1 := fwElsewhere (remap s0 (page * Config.page2) none) k (page * Config.page2)
      let s2 := raise s1 0x0808 clsC noCtx 0 (p4 st ++ p4 (usableMib s1 st))
      .next (raise s2 0x0807 clsC k (unitChan (32 * st)) (p8 (page * Config.page2) ++ p4 0))

/-! ## Post-package repair -/

/-- Whether some context but `k` has pages on a stack. -/
def otherPages (s : State) (k stack : Nat) : Bool :=
  ctxNums.any (fun q => q != k && (ctxOf s q).pages.any (fun e => e.2.valid && e.2.dpa / Config.stackBytes == stack))

/-- The context in whose restart, between its halt and its RESUME, a channel may be repaired. -/
def repairer (s : State) (chan : Nat) : Option Nat :=
  ctxNums.find? (fun k =>
    decide (2 ≤ (ctxOf s k).restart.phase) && decide ((ctxOf s k).restart.ppr < 4) && !otherPages s k (chan / 32))

/-- One channel's spared rows made permanent: the table entries are free. The duration is a free value
of at most 5 ms. -/
def repairChan (s : State) (chan : Nat) : State :=
  match repairer s chan with
  | none => s
  | some k =>
    let rows := look s.mem.spares [] chan
    if rows = [] ∨ 256 ≤ chan then s
    else
      let x := ctxOf s k
      let m : Mem := { s.mem with
        spares := drop s.mem.spares chan
        repaired := put s.mem.repaired chan (look s.mem.repaired [] chan ++ rows) }
      let s1 := setCtx { s with mem := m } k { x with restart := { x.restart with ppr := x.restart.ppr + 1 } }
      raise (drawn s1) 0x0809 clsC k (unitChan chan) (p4 chan ++ p4 rows.length ++ p4 (freeVal s 13 % 5001))

/-- Post-package repair of channels, at most four in a restart. -/
def execHbmPostPackageRepair (chans : List Nat) (s : State) : Out := .next (chans.foldl repairChan s)

/-! ## Thatch slices (R82, R411, R478) -/

/-- Whether an address lies in slice `i`. -/
def inSlice (i d : Nat) : Bool := decide (sliceBase i ≤ d) && decide (d < sliceBase i + 0x100_0000)

/-- A slice given a mode. -/
def setSlice (s : State) (i : Nat) (md : SliceMode) : State := { s with mem := { s.mem with slices := put s.mem.slices i md } }

/-- The contents of a slice that no rule determines: what CACHE mode leaves (R81). -/
def staleSlice (s : State) (i : Nat) : State :=
  { s with mem := { s.mem with stale := cutOut s.mem.stale (sliceBase i) 0x100_0000 ++ [(sliceBase i, 0x100_0000)] } }

/-- The save images a slice holds, by context and core. -/
def imagesOn (s : State) (i : Nat) : List (Nat × Nat) :=
  ctxNums.flatMap (fun k => ((ctxOf s k).imgThatch.filter (fun e => inSlice i e.2)).map (fun e => (k, e.1)))

/-- One save image moved home. -/
def imageHome (s : State) (e : Nat × Nat) : State :=
  let x := ctxOf s e.1
  let home : Ctx := { x with imgThatch := drop x.imgThatch e.2 }
  setCtx ([0, Config.page2].foldl (fun s o => copyDpa s e.1 (imgAt x e.2 o) (imgAt home e.2 o) Config.page2) s) e.1 home

/-- A FIRMWARE slice that holds only save images given back (R478): firmware keeps no other data on
Thatch. -/
def giveBack (s : State) (i : Nat) : State :=
  if sliceMode s.mem i = .firmware then setSlice ((imagesOn s i).foldl imageHome s) i .software else s

/-- A CACHE slice returned to SOFTWARE: the lines of its base die and partition are written back, and
the remaining slices start empty; its contents are unpredictable. -/
def cacheOff (s : State) (i : Nat) : State :=
  let part := partOfBay s.place (4 * (i / 44) + i % 44 / 11)
  let mine := fun (l : Line) => l.line * 256 / (2 * Config.stackBytes) == i / 44
  let s1 := staleSlice (setSlice s i .software) i
  if (cacheSlices s (i / 44) part).elem i then { s1 with mem := { s1.mem with lines := s1.mem.lines.filter (fun l => !mine l) } } else s1

/-- Whether R411 has firmware retire a slice. -/
def sliceDue (s : State) (i : Nat) : Bool :=
  let now := s.clock.ns
  let u := (s.mem.sliceErrs.filter (fun e => e.1 == i && decide (now < e.2.2 + day))).map (fun e => e.2.1)
  let c := s.mem.sliceCorr.filter (fun e => e.1 == i && decide (now < e.2 + hour))
  u.any (fun g => u.any (fun h => g != h)) || decide (1000 ≤ c.length)

/-- The slices of the partition that owns slice `i`. -/
def peerSlices (s : State) (i : Nat) : List Nat := slicesOf s.place (partOfBay s.place (4 * (i / 44) + i % 44 / 11))

/-- A slice to take the pages of a retiring one: a free one, or one given back by the save images. -/
def sparSlice (s : State) (i : Nat) : Option Nat :=
  match (peerSlices s i).find? (fun j => j != i && sliceFree s j) with
  | some j => some j
  | none => (peerSlices s i).find? (fun j => j != i && sliceMode s.mem j == .firmware)

/-- The pages of every context on slice `i`. -/
def pagesOn (s : State) (i : Nat) : List (Nat × Nat) :=
  ctxNums.flatMap (fun k => ((ctxOf s k).pages.filter (fun e => e.2.valid && inSlice i e.2.dpa)).map (fun e => (k, e.2.dpa)))

/-- The free slices of a slice's partition. -/
def freeLeft (s : State) (i : Nat) : Nat := ((peerSlices s i).filter (sliceFree s)).length

/-- A Thatch slice retired: its pages moved to a free slice with their poison, or, where the partition
has none, unmapped with a job fault of each context that mapped it. -/
def execThatchSliceRetire (slice : Nat) (s : State) : Out :=
  if 176 ≤ slice ∨ sliceMode s.mem slice = .retired ∨ sliceDue s slice = false then .next s
  else
    let old := reportOf s
    let s0 := if sliceMode s.mem slice = .cache then cacheOff s slice else giveBack s slice
    let ps := pagesOn s0 slice
    let ks := (ps.map (fun e => e.1)).foldl addNat []
    let fin := fun (t : State) => setSlice { t with mem := { t.mem with
      sliceErrs := t.mem.sliceErrs.filter (fun e => e.1 != slice), sliceCorr := t.mem.sliceCorr.filter (fun e => e.1 != slice) } } slice .retired
    let ev := fun (t : State) (cls k n : Nat) => raise t 0x0805 cls k (unitSlice slice) (p4 slice ++ p4 n ++ p4 (freeLeft t slice))
    if ps = [] then .next (capacityEvent (ev (fin s0) clsC noCtx 0) old)
    else match sparSlice s0 slice with
      | some j =>
        let s1 := giveBack s0 j
        let s2 := copyDpa s1 noCtx (sliceBase slice) (sliceBase j) 0x100_0000
        let s3 := (List.range 8).foldl (fun t i => remap t (sliceBase slice + i * Config.page2) (some (sliceBase j + i * Config.page2))) s2
        let s4 := repairProgress (fin s3) noCtx (ps.length * Config.page2)
        .next (capacityEvent (ev s4 clsC noCtx ps.length) old)
      | none =>
        let s1 := (List.range 8).foldl (fun t i => remap t (sliceBase slice + i * Config.page2) none) s0
        .next (capacityEvent (ks.foldl (fun t k => ev t clsJ k 0) (fin s1)) old)

end Sys2Proof.Machine
end

