-- ==== Sys2Proof/Machine/Power.lean ====
section
/-! DEFINITION. The bay clocks and voltages (R307 to R319, R335, R336), power capping and energy
(R320 to R326), heat and the emergency state (R328 to R332), and the end of a patrol test (R409, R312).
The sensors are numbered: 0 to 31 two per bay, 32 to 47 the base dies, 48 to 51 the network dies, 52
the control die, 53 + n stack Hn. -/

namespace Sys2Proof.Machine

/-- The FP32 code of a ratio or gain in an event (R380). -/
def fp32 (q : Rat) : Nat := encodeExact fFP32 (roundTo fFP32 false q)

/-! ## Which cores a bay serves -/

/-- The resident logical cores on a bay's physical cores. -/
def bayResidents (s : State) (b : Nat) : List Nat :=
  (bayCores b).flatMap (fun p => (placedOn s.place p).filter (fun n => residentPhys s n == some p && (runningOn s n).isSome))

/-- The partitions of those cores; the bay's own where it serves none. -/
def bayParts (s : State) (b : Nat) : List Nat :=
  match ((bayResidents s b).map (partOf s.place)).foldl addNat [] with
  | [] => [partOfBay s.place b]
  | l => l

/-- Whether a bay runs in fixed-frequency mode: every partition it serves asks for it (R20, R317). -/
def bayFixed (s : State) (b : Nat) : Bool := (bayParts s b).all (fun part => (partSt s.place part).fixed)

/-- Whether the array clock of a bay is stopped for want of a resident core; one that has a core placed
on it restarts (R336). -/
def bayIdle (s : State) (b : Nat) : Bool := (bayResidents s b).isEmpty

/-! ## Requests and the set point (R314 to R317) -/

/-- The request of one partition in a bay: the highest frequency among the points its cores name. -/
def partRequest (s : State) (b part : Nat) : Nat :=
  let x := partSt s.place part
  let ns := (bayResidents s b).filter (fun n => partOf s.place n == part)
  if ns = [] then (bayAt s b).setPoint
  else (ns.map (fun n =>
    match runningOn s n with
    | some k => nth x.freq (coreOf s k n).hint 1320
    | none => 0)).foldl max 550

/-- The bay's request: the lower of its partitions', 1,100 MHz in fixed-frequency mode. -/
def bayRequest (s : State) (b : Nat) : Nat :=
  if bayFixed s b then 1100 else ((bayParts s b).map (partRequest s b)).foldl min 1320

/-- Whether every bay is held to an effective 550 MHz: a thermal emergency, or FAST_THROTTLE_N (R329,
R330). -/
def held550 (s : State) : Bool := s.power.emergency || s.power.fastLow

/-- The set point the PMU wants for a bay. -/
def wanted (s : State) (b : Nat) : Nat :=
  let y := bayAt s b
  if held550 s then 550
  else min (min (bayRequest s b) (min y.thermal y.capped)) (Config.pointMhz b y.topPoint)

/-! ## Voltages (R310, R311) -/

/-- The effective voltage of a point in mV. -/
def effMv (b : Nat) (y : Bay) (i : Nat) : Nat := Config.pointMv b i + look y.offsets 0 i

/-- The lower of the two points that bracket a set point. -/
def bracket (b f : Nat) : Nat := ((List.range 15).filter (fun i => decide (Config.pointMhz b i ≤ f))).getLast?.getD 0

/-- The voltage of a bay at a set point: the interpolation rounded up to a whole mV. -/
def tableMv (b : Nat) (y : Bay) (f : Nat) : Nat :=
  let i := bracket b f
  let v0 : Rat := effMv b y i
  let v1 : Rat := effMv b y (i + 1)
  let f0 : Rat := Config.pointMhz b i
  let f1 : Rat := Config.pointMhz b (i + 1)
  ((v0 + (v1 - v0) * (((f : Nat) : Rat) - f0) / (f1 - f0)).ceil).toNat

/-- A number rounded up to a multiple of 5. -/
def up5 (v : Nat) : Nat := (v + 4) / 5 * 5

/-- The rail of a compute die: 10 mV above its highest bay, in steps of 5 mV, from 600 to 900 mV. -/
def railMv (s : State) (d : Nat) : Nat :=
  max 600 (min 900 (up5 (((List.range 4).map (fun i => (bayAt s (4 * d + i)).volt)).foldl max 0 + 10)))

/-- The rail of a bay's die set anew. -/
def setRail (s : State) (b : Nat) : State :=
  { s with power := { s.power with rails := setNth s.power.rails (b / 4) (railMv s (b / 4)) } }

/-- Whether the AVSBus of a bay's die fails (R452): no rail of it moves. -/
def avsFails (s : State) (b : Nat) : Bool := nth s.power.avsFail (b / 4) false

/-- 20 µs, 100 µs and 1 ms in ns. -/
abbrev us20 : Nat := 20000
abbrev us100 : Nat := 100000
abbrev ms1 : Nat := 1000000

/-- Whether less than `t` ns have passed since a droop of the bay cleared (R319). -/
def afterDroop (s : State) (y : Bay) (t : Nat) : Bool :=
  match y.droopAt with
  | some a => decide (s.clock.ns < a + t)
  | none => false

/-- The voltage of a bay lowered to a value, or the lowering held (R319, R332, R452). -/
def lower (s : State) (b v : Nat) : State :=
  let y := bayAt s b
  if y.volt ≤ v then s
  else if y.droop || afterDroop s y us100 || s.power.fallback || avsFails s b then setBay s b { y with lowerTo := some v }
  else setRail (setBay s b { y with volt := v, lowerTo := none }) b

/-! ## Episodes of a fixed-frequency bay (R317) -/

/-- The effective frequency of a bay under lever 1, an emergency or FAST_THROTTLE_N. -/
def effMhz (s : State) (b : Nat) : Nat :=
  let y := bayAt s b
  let t := if bayFixed s b then s.power.throttleFixed else s.power.throttle
  let f := y.setPoint * (16 - t) / 16
  if held550 s then min f 550 else f

/-- What holds a fixed-frequency bay below 1,100 MHz: 0 capping, 1 a thermal level, 2 FAST_THROTTLE_N,
3 fallback; none where nothing of these does. -/
def slowCause (s : State) (b : Nat) : Option Nat :=
  let y := bayAt s b
  if s.power.fastLow then some 2
  else if s.power.emergency || decide (y.thermal < 1100) then some 1
  else if s.power.fallback then some 3
  else if decide (y.capped < 1100) || decide (0 < s.power.throttleFixed) then some 0
  else none

/-- The episode of one bay begun, continued or ended with its event. -/
def watchFixed (s : State) (b : Nat) : State :=
  let y := bayAt s b
  let low := bayFixed s b && !y.stopped && !bayIdle s b && decide (effMhz s b < 1100)
  match y.episode with
  | some (c, m) =>
    if low then setBay s b { y with episode := some (c, min m (effMhz s b)) }
    else raise (setBay s b { y with episode := none }) 0x0601 clsC noCtx (unitBay b)
      (p4 (partOfBay s.place b) ++ p4 b ++ p4 c ++ p4 m)
  | none =>
    match slowCause s b with
    | some c => if low then setBay s b { y with episode := some (c, effMhz s b) } else s
    | none => s

/-- Every bay's episode looked at. -/
def watchAllFixed (s : State) : State := (List.range 16).foldl watchFixed s

/-! ## Frequency steps (R307, R308) -/

/-- The PLL that drives a bay is PLL1 where `sel` holds. The PLL that locks for a step: the free one,
or the driving one where the other is out of service (R309). -/
def lockPll (y : Bay) (f : Nat) : Bay :=
  if y.sel then (if y.out0 then { y with pll1 := f } else { y with pll0 := f })
  else (if y.out1 then { y with pll0 := f } else { y with pll1 := f })

/-- The PMU begins the step of a bay to the set point it wants: voltage and rail first on the way up
(R308), nothing while the fallback holds the set points, no upward step within 20 µs of a droop or while
the die's AVSBus fails. A bay stopped for want of a core restarts with one placed on it. -/
def execFrequencyStep (b : Nat) (s : State) : Out :=
  let y := bayAt s b
  let f := wanted s b
  let up := decide (y.setPoint < f)
  if 16 ≤ b ∨ alive s = false ∨ s.power.fallback ∨ (y.stopped && bayIdle s b) ∨ f = y.setPoint ∨ y.stepTo = some f then .next s
  else if up && (afterDroop s y us20 || avsFails s b) then .next s
  else
    let y1 := lockPll { y with stepTo := some f } f
    if up && decide (y.volt < tableMv b y f) then
      .next (setRail (setBay s b { y1 with volt := tableMv b y f, lowerTo := none }) b)
    else .next (setBay s b y1)

/-- The nominal cycles of R335 carried over a change of set point. -/
def carryNominal (y : Bay) (now : Nat) : Bay :=
  let dt := min (now - y.nomAt) (1000 - y.nomNs)
  { y with nomAcc := y.nomAcc + y.setPoint * dt, nomNs := y.nomNs + dt, nomAt := now }

/-- The mux of a bay switches to the PLL locked for the step, unless a droop holds it; a lower set point
then lowers the voltage. -/
def execMuxSwitch (b : Nat) (s : State) : Out :=
  let y := bayAt s b
  match y.stepTo with
  | none => .next s
  | some f =>
    if y.droop ∨ s.power.fallback ∨ alive s = false then .next s
    else
      let one := if y.sel then y.out0 else y.out1
      let y1 := { carryNominal y s.clock.ns with
        setPoint := f, stepTo := none, minMargin := none
        sel := if one then y.sel else !y.sel }
      .next (watchAllFixed (lower (setBay s b y1) b (tableMv b y f)))

/-- The driving PLL of a bay loses lock (R309): the bay stops and resumes within 50 µs, on the same PLL
relocked, or on the other one when this is the PLL's second loss within 1 s; the last PLL of a bay stays
in service. The stop's length is a free value. -/
def execPllUnlock (b pll : Nat) (s : State) : Out :=
  let y := bayAt s b
  if 16 ≤ b ∨ 2 ≤ pll ∨ y.sel != (pll == 1) ∨ alive s = false then .next s
  else
    let now := s.clock.ns
    let last := if pll = 0 then y.lossAt0 else y.lossAt1
    let other := if pll = 0 then y.out1 else y.out0
    let again := match last with
      | some t => decide (now < t + second)
      | none => false
    let y1 := if pll = 0 then { y with lossAt0 := some now } else { y with lossAt1 := some now }
    let y2 := if again && !other then
        (if pll = 0 then { y1 with out0 := true, sel := true, pll1 := y.setPoint }
         else { y1 with out1 := true, sel := false, pll0 := y.setPoint })
      else y1
    let s1 := drawn (setBay s b y2)
    .next (raise s1 0x060E clsC noCtx (unitBay b) (p4 b ++ p4 pll ++ p8 (freeVal s 16 % 50001)))

/-! ## Droop (R318, R319) -/

/-- A bay's voltage falls below its threshold: its cycles are stretched, and the droop is counted. -/
def execDroopDetect (b : Nat) (s : State) : Out :=
  let y := bayAt s b
  if 16 ≤ b ∨ y.droop then .next s
  else .next (bump (setBay s b { y with droop := true }) 3 b 0x80 1)

/-- The voltage has stayed above the threshold for 100 ns: the stretch ends. -/
def execDroopClear (b : Nat) (s : State) : Out :=
  let y := bayAt s b
  if y.droop = false then .next s
  else .next (setBay s b { y with droop := false, droopAt := some s.clock.ns })

/-- 100 µs after a droop cleared, the held lowering of the bay and its rail takes place. -/
def execVoltageLowerHoldExpiry (b : Nat) (s : State) : Out :=
  match (bayAt s b).lowerTo with
  | some v => .next (lower s b v)
  | none => .next s

/-! ## Re-fit of the voltage tables (R312, R313) -/

/-- A re-fit under way: the bay, the points raised, and the point that could not be. -/
structure Refit where
  bay    : Bay
  raised : List Nat
  limit  : Option Nat
  deriving DecidableEq, Repr

/-- One point raised by some mV, at most once in 24 hours, within the bound of the bay and 890 mV. -/
def raisePoint (b now : Nat) (r : Refit) (i mv : Nat) : Refit :=
  let o := look r.bay.offsets 0 i + mv
  if has r.bay.raisedAt i && decide (now < look r.bay.raisedAt 0 i + day) then r
  else if Config.refitBound b < o ∨ 890 < Config.pointMv b i + o then { r with limit := match r.limit with | none => some i | l => l }
  else { r with bay := { r.bay with offsets := put r.bay.offsets i o, raisedAt := put r.bay.raisedAt i now }, raised := addNat r.raised i }

/-- The two bracketing points raised by 5 mV, then every higher point kept from falling below a lower
one. -/
def refitPoints (b now : Nat) (y : Bay) : Refit :=
  let i := bracket b y.setPoint
  let r := raisePoint b now (raisePoint b now ⟨y, [], none⟩ i 5) (i + 1) 5
  (List.range 16).foldl (fun r j =>
    if i + 1 < j ∧ effMv b r.bay j < effMv b r.bay (j - 1) then raisePoint b now r j (effMv b r.bay (j - 1) - effMv b r.bay j) else r) r

/-- The points raised as a bitmap. -/
def bitmapOf (l : List Nat) : Nat := (l.map (fun i => 2 ^ i)).sum

/-- VF_REFIT_LIMIT: action 1 lowers TOP_POINT below the point concerned, action 2 declares the cores of
the bay failed. -/
def refitLimit (s : State) (b i : Nat) : State :=
  let y := bayAt s b
  if 1100 < Config.pointMhz b i then
    raise (setBay s b { y with topPoint := min y.topPoint (i - 1) }) 0x060C clsC noCtx (unitBay b) (p4 b ++ p4 i ++ p4 1)
  else raise ((bayCores b).foldl (fun s p => failCore s p 3) s) 0x060C clsC noCtx (unitBay b) (p4 b ++ p4 i ++ p4 2)

/-- A margin read in a bay: when the smallest within 24 hours at the set point is below the bay's bound,
the table is re-fitted and the overlay written before VF_REFIT. -/
def marginSeen (s : State) (b margin : Nat) : State :=
  let y := bayAt s b
  let now := s.clock.ns
  let m := match y.minMargin with
    | some (v, t) => if now < t + day ∧ v ≤ margin then (v, t) else (margin, now)
    | none => (margin, now)
  let s1 := setBay s b { y with minMargin := some m }
  if Config.minMargin b ≤ m.1 then s1
  else
    let r := refitPoints b now (bayAt s1 b)
    let s2 := setBay s1 b r.bay
    let s3 := if r.raised = [] then s2
      else raise { s2 with sec := { s2.sec with writeCtr := put s2.sec.writeCtr 4 (look s2.sec.writeCtr 0 4 + 1) } }
        0x060B clsC noCtx (unitBay b)
        (p4 b ++ p4 (bitmapOf r.raised) ++ (List.range 16).flatMap (fun i => leBytes 1 (look r.bay.offsets 0 i)))
    match r.limit with
    | some i => refitLimit s3 b i
    | none => s3

/-- The PMU reads a bay's replica-path monitors. -/
def execMarginMonitorRead (b margin : Nat) (s : State) : Out :=
  if 16 ≤ b ∨ s.power.fallback ∨ alive s = false then .next s else .next (marginSeen s b margin)

/-- The end of the patrol test, whose margin is read like a monitor's. -/
def execPatrolTestDone (pass : Bool) (sig : Word) (margin : Nat) (s : State) : Out :=
  match s.place.patrol with
  | none => .next s
  | some p =>
    if s.clock.ns < s.place.patrolAt + 40 * ms1 then .next s
    else .next (marginSeen (patrolEnd s p pass sig) (p / 21) margin)

/-! ## Power capping (R320 to R325) -/

/-- The effective package power limit L in mW. -/
def limitMw (s : State) : Nat := 1000 * min s.power.hostLimit s.power.boardLimit

/-- A limit set by a source: 0 the host, 1 the board; a change is logged. -/
def setLimit (s : State) (source w : Nat) : State :=
  let s1 : State := { s with power := if source = 0 then { s.power with hostLimit := w } else { s.power with boardLimit := w } }
  if (if source = 0 then s.power.hostLimit else s.power.boardLimit) = w then s
  else raise s1 0x0604 clsC noCtx unitPmu (p4 source ++ p4 (1000 * w) ++ p4 (limitMw s1))

/-- The estimate e_d of a die: its gain times the raw estimates of its four bays. -/
def dieEst (s : State) (raw : List Nat) (d : Nat) : Rat :=
  nth s.power.gains d 1 * (((List.range 4).map (fun i => nth raw (4 * d + i) 0)).sum : Nat)

/-- k_d: 1.10 while the fallback holds control (R332). -/
def kOf (s : State) (d : Nat) : Rat := if s.power.fallback then mkRat 11 10 else nth s.power.k d 1

/-- Package power p of the fast loop in mW. -/
def packageMw (s : State) (raw : List Nat) (uncore : Nat) : Rat :=
  ((List.range 4).map (fun d => kOf s d * dieEst s raw d)).sum + (uncore : Nat)

/-- Whether every bay that is not in fixed-frequency mode is at the lowest lever. -/
def othersLowest (s : State) : Bool :=
  s.power.throttle == 12 && (List.range 16).all (fun b => bayFixed s b || decide ((bayAt s b).setPoint ≤ 550) || (bayAt s b).stopped)

/-- Lever 1 raised: the common level, then that of the fixed-frequency bays, then the HBM's rate; the
fallback has lever 1 alone. -/
def capMore (s : State) : State :=
  let w := s.power
  if w.throttle < 12 then { s with power := { w with throttle := w.throttle + 1 } }
  else if s.power.fallback then s
  else if othersLowest s ∧ w.throttleFixed < 12 then { s with power := { w with throttleFixed := w.throttleFixed + 1 } }
  else if othersLowest s ∧ (List.range 16).all (fun b => decide ((bayAt s b).setPoint ≤ 550) || (bayAt s b).stopped) then
    { s with power := { w with hbmHalf := true } }
  else s

/-- Lever 1 lowered, the fixed-frequency bays first; lever 4 ends. -/
def capLess (s : State) : State :=
  let w := s.power
  { s with power := { w with
      hbmHalf := false
      throttleFixed := w.throttleFixed - 1
      throttle := if 0 < w.throttleFixed then w.throttle else w.throttle - 1
      lowSince := if w.throttle = 0 ∧ w.throttleFixed = 0 then (match w.lowSince with | none => some s.clock.ns | t => t) else none } }

/-- The throttle level of every bay summed (R428). -/
def countThrottle (s : State) : State :=
  (List.range 16).foldl (fun s b => bump s 3 b 0x81 (if bayFixed s b then s.power.throttleFixed else s.power.throttle)) s

/-- The fast loop, each 1 µs, over the raw bay estimates and the uncore estimate in mW. -/
def execFastLoop (raw : List Nat) (uncore : Nat) (s : State) : Out :=
  let p := packageMw s raw uncore
  let l : Rat := (limitMw s : Nat)
  let w := s.power
  let n := w.pkgCount + 1
  let s1 : State := { s with power := { w with
    estSum := (List.range 4).map (fun d => nth w.estSum d 0 + dieEst s raw d)
    estCount := w.estCount + 1
    pkgSum := if n = 1000 then 0 else w.pkgSum + p
    pkgCount := if n = 1000 then 0 else n
    package := if n = 1000 then (w.pkgSum + p) / 1000 else w.package } }
  let s2 := if l < p then { capMore s1 with power := { (capMore s1).power with lowSince := none } }
    else if p < l * mkRat 95 100 then capLess s1
    else { s1 with power := { s1.power with lowSince := none } }
  let s3 : State := { s2 with power := { s2.power with tSum := s2.power.tSum + s2.power.throttle, tfSum := s2.power.tfSum + s2.power.throttleFixed } }
  .next (watchAllFixed (countThrottle s3))

/-- One die in the slow loop: ρ, the basis, the suspect state and the drift (R323, R324, R452). -/
def slowDie (s : State) (measured : List (Option Nat)) (d : Nat) : State :=
  let w := s.power
  let e : Rat := nth w.estSum d 0 / (w.estCount : Nat)
  let read := nth measured d none
  if w.estCount = 0 ∨ e ≤ 0 then s
  else
    let rho : Rat := match read with
      | some m => (m : Rat) / e
      | none => 0
    let m := read.getD (nth w.measured d 0)
    let basis : Rat := if rho < mkRat 1 2 then e * mkRat 11 10
      else if mkRat 5 4 < rho then (m : Rat) * mkRat 105 100
      else max e (m : Rat)
    let was := nth w.suspect d false
    let good := if rho < mkRat 1 2 then 0 else nth w.goodRuns d 0 + 1
    let sus := decide (rho < mkRat 1 2) || (was && decide (good < 100))
    let out := !sus && (decide (rho < mkRat 9 10) || decide (mkRat 11 10 < rho))
    let runs := if out then nth w.driftRuns d 0 + 1 else 0
    let sum := if out then nth w.driftSum d 0 + rho else 0
    let fit := decide (10000 ≤ runs) && decide (nth w.refitAt d 0 + second ≤ s.clock.ns)
    let g := nth w.gains d 1
    let g' := if fit then max (mkRat 7 10) (min (mkRat 14 10) (g * (sum / (runs : Nat)))) else g
    let s1 : State := { s with power := { w with
      k := setNth w.k d (basis / e), rho := setNth w.rho d rho, measured := setNth w.measured d m
      suspect := setNth w.suspect d sus, goodRuns := setNth w.goodRuns d good
      driftRuns := setNth w.driftRuns d (if fit then 0 else runs), driftSum := setNth w.driftSum d (if fit then 0 else sum)
      gains := setNth w.gains d g', refitAt := if fit then setNth w.refitAt d s.clock.ns else w.refitAt
      avsFail := setNth w.avsFail d read.isNone } }
    let s2 := if sus && !was then raise s1 0x0603 clsC noCtx unitPmu (p4 d ++ p4 (fp32 rho) ++ p4 m) else s1
    if fit then raise (noteOverlay s2) 0x0602 clsC noCtx unitPmu (p4 d ++ p4 (fp32 g) ++ p4 (fp32 g') ++ p4 (fp32 (sum / (runs : Nat)))) else s2

/-- Lever 2 in one bay: its limit falls by 55 MHz below the present set point, or rises by 55 MHz. -/
def lever2 (s : State) (b : Nat) (down up : Bool) : State :=
  let y := bayAt s b
  if down then setBay s b { y with capped := max 550 (min y.capped y.setPoint - 55) }
  else if up then setBay s b { y with capped := min 1320 (y.capped + 55) }
  else s

/-- Lever 2 over every bay: the fixed-frequency bays after every other. -/
def lever2All (s : State) : State :=
  let w := s.power
  let up := match w.lowSince with
    | some t => decide (t + ms1 ≤ s.clock.ns) && w.throttle == 0
    | none => false
  let down := decide (2 * w.estCount ≤ w.tSum) && decide (0 < w.estCount)
  let downF := decide (2 * w.estCount ≤ w.tfSum) && decide (0 < w.estCount)
  (List.range 16).foldl (fun s b => if bayFixed s b then lever2 s b downF up else lever2 s b down up) s

/-- The slow loop, each 100 µs, over the measured power of the four rails in mW (none: the read failed
for the whole period). The fallback does none of this. -/
def execSlowLoop (measured : List (Option Nat)) (s : State) : Out :=
  if s.power.fallback ∨ alive s = false then .next s
  else
    let s1 := lever2All ((List.range 4).foldl (fun s d => slowDie s measured d) s)
    let w := s1.power
    .next (watchAllFixed { s1 with power := { w with estSum := [0, 0, 0, 0], estCount := 0, tSum := 0, tfSum := 0 } })

/-! ## Energy (R326) -/

/-- Energy in nJ charged to a context, or to the overhead counter. -/
def charge (s : State) (k e : Nat) : State :=
  if k < 64 ∧ (ctxOf s k).st ≠ .free then setCtx s k { ctxOf s k with energy := (ctxOf s k).energy + e }
  else { s with power := { s.power with overhead := s.power.overhead + e } }

/-- The context resident on a physical core. -/
def ctxOnCore (s : State) (p : Nat) : Nat :=
  match (placedOn s.place p).find? (fun n => residentPhys s n == some p) with
  | some n => (runningOn s n).getD noCtx
  | none => noCtx

/-- The energy of 1 µs attributed: the raw nJ of each physical core, calibrated by k_d · g_d; the uncore
nJ of the grains charged to each context (255: the mirror service); and the rest. -/
def execEnergyAttribution (cores : List (Nat × Nat)) (grains : List (Nat × Nat)) (rest : Nat) (s : State) : Out :=
  let s1 := cores.foldl (fun s e =>
    let d := e.1 / 84
    charge s (ctxOnCore s e.1) ((kOf s d * nth s.power.gains d 1 * (e.2 : Nat)).floor.toNat)) s
  let s2 := grains.foldl (fun s e => charge s e.1 e.2) s1
  .next (charge s2 noCtx rest)

/-! ## Cycle counters and stopped bays (R335, R336) -/

/-- One bay's microsecond: `n` cycles delivered. -/
def countBay (s : State) (b n : Nat) : State :=
  let y := bayAt s b
  let idle := bayIdle s b
  let nominal := (y.nomAcc + y.setPoint * (1000 - y.nomNs)) / 1000
  setBay s b { y with
    cycles := y.cycles + n, lost := y.lost + (nominal - n), nomAcc := 0, nomNs := 0, nomAt := s.clock.ns
    idleSince := if idle then y.idleSince else s.clock.ns
    stopped := y.stopped && idle }

/-- The cycles each bay delivered in the last microsecond. -/
def execLostCycleUpdate (delivered : List Nat) (s : State) : Out :=
  .next ((List.range 16).foldl (fun s b => countBay s b (nth delivered b 0)) s)

/-- A bay without a resident core for 100 µs has its clock stopped and its voltage lowered. -/
def execBayClockStop (b : Nat) (s : State) : Out :=
  let y := bayAt s b
  if 16 ≤ b ∨ y.stopped ∨ bayIdle s b = false ∨ s.clock.ns < y.idleSince + us100 then .next s
  else .next (lower (setBay s b { y with stopped := true, stepTo := none }) b (tableMv b y 550))

/-! ## The emergency state (R331) -/

/-- Whether the emergency state holds. -/
def emergencyNow (s : State) : Bool :=
  s.power.emergency || s.power.fastLow || (s.power.fallback && !s.power.planned)

/-- The emergency state entered or left, with ALERT_N and EMERGENCY_CLEAR. -/
def settleEmergency (s : State) : State :=
  if emergencyNow s && !s.power.emActive then
    fire2 { s with power := { s.power with emActive := true, emAt := s.clock.ns }, board := { s.board with alertN := false } }
  else if !emergencyNow s && s.power.emActive then
    let s1 : State := { s with power := { s.power with emActive := false }, board := { s.board with alertN := !s.obs.fatal } }
    fire2 (raise s1 0x060D clsC noCtx unitPmu (p8 (s.clock.ns - s.power.emAt)))
  else s

/-! ## Heat (R328, R329) -/

/-- A temperature as an event carries it: 0.01 °C, two's complement. -/
def pTemp (t : Int) : List Byte := p4 (t % 0x1_0000_0000).toNat

/-- The highest of the logic-die readings. -/
def hottest (l : List Int) : Int := l.foldl max (l.head?.getD 0)

/-- The unit in which a sensor's event arises. -/
def unitSensor (n : Nat) : Nat :=
  if n < 32 then unitBay (n / 2) else if n < 48 then unitBase ((n - 32) / 4)
  else if n < 52 then unitNd ((n - 48) / 2) else if n = 52 then unitPmu else unitChan (32 * (n - 53))

/-- The thermal limit of every bay that a reading of 100 °C concerns lowered by 55 MHz. -/
def heatDown (s : State) (dies : List Int) : State :=
  let all := (dies.drop 32).any (fun t => decide (10000 ≤ t))
  (List.range 16).foldl (fun s b =>
    let y := bayAt s b
    if all || decide (10000 ≤ nth dies (2 * b) 0) || decide (10000 ≤ nth dies (2 * b + 1) 0) then
      setBay s b { y with thermal := max 550 (min y.thermal y.setPoint - 55) }
    else s) s

/-- The thermal limit of every bay raised by 55 MHz. -/
def heatUp (s : State) : State :=
  (List.range 16).foldl (fun s b => let y := bayAt s b; setBay s b { y with thermal := min 1320 (y.thermal + 55) }) s

/-- The throttle level: entered at 100 °C, released after 10 ms at 97 °C or below; its steps are 1 ms
apart. -/
def throttleLevel (s : State) (dies : List Int) : State :=
  let w := s.power
  let now := s.clock.ns
  let tj := hottest dies
  let cool := if tj ≤ 9700 then (match w.coolSince with | none => some now | t => t) else none
  let rel := match cool with
    | some t => decide (t + 10 * ms1 ≤ now)
    | none => false
  let hot := decide (10000 ≤ tj)
  let on := hot || (w.throttled && !rel)
  let due := decide (w.lastStep + ms1 ≤ now) || (hot && !w.throttled)
  let s1 : State := { s with power := { w with coolSince := cool, throttled := on, lastStep := if due then now else w.lastStep } }
  let s2 := if hot && !w.throttled then
      let i := (dies.findIdx? (fun t => t == tj)).getD 0
      raise s1 0x0605 clsC noCtx (unitSensor i) (p4 i ++ pTemp tj)
    else s1
  if due && on && hot then heatDown s2 dies else if due && !on then heatUp s2 else s2

/-- The HBM throttle of one stack released after 10 ms at 92 °C or below. -/
def stackCool (s : State) (n : Nat) (t : Int) : State :=
  let w := s.power
  if w.hbmHot.elem n = false then s
  else if 9200 < t then { s with power := { w with hbmCool := drop w.hbmCool n } }
  else
    let since := if has w.hbmCool n then look w.hbmCool 0 n else s.clock.ns
    if since + 10 * ms1 ≤ s.clock.ns then
      { s with
        power := { w with hbmHot := delNat w.hbmHot n, hbmCool := drop w.hbmCool n }
        mem := { s.mem with halfRate := delNat s.mem.halfRate n } }
    else { s with power := { w with hbmCool := put w.hbmCool n since } }

/-- A sample of every sensor, each 100 µs: readings, the throttle level, and how long the device has
been cool enough to leave an emergency. The set points move only while the PMU has control. -/
def execThermalSample (dies : List Int) (hbm : List Int) (s : State) : Out :=
  let tj := hottest dies
  let cool := decide (tj ≤ 10500) && hbm.all (fun t => decide (t ≤ 10000))
  let w := s.power
  let s1 : State := { s with power := { w with
    temps := dies, stackT := (List.range 8).map (fun i => nth hbm i 0), tj := tj
    emCoolSince := if cool then (match w.emCoolSince with | none => some s.clock.ns | t => t) else none } }
  let s2 := (List.range 8).foldl (fun s n => stackCool s n (nth hbm n 0)) s1
  .next (if s.power.fallback || !alive s then s2 else watchAllFixed (throttleLevel s2 dies))

/-- An emergency temperature: every bay held to 550 MHz. -/
def execThermalEmergency (sensor : Nat) (temp : Int) (s : State) : Out :=
  let trip : Int := if sensor < 53 then 11000 else 10500
  if 61 ≤ sensor ∨ temp < trip ∨ s.power.emergency then .next s
  else
    let s1 : State := { s with power := { s.power with emergency := true, emCoolSince := none } }
    .next (watchAllFixed (settleEmergency (raise s1 0x0606 clsC noCtx (unitSensor sensor) (p4 sensor ++ pTemp temp))))

/-- The emergency released after 100 ms at Tj 105 °C and stacks 100 °C or below. -/
def execThermalEmergencyRelease (s : State) : Out :=
  match s.power.emCoolSince with
  | some t =>
    if s.power.emergency ∧ t + 100 * ms1 ≤ s.clock.ns then
      .next (watchAllFixed (settleEmergency { s with power := { s.power with emergency := false } }))
    else .next s
  | none => .next s

/-- Tj at 120 °C: THERMTRIP_N is latched low, every bay clock stops, class X; the always-on domain keeps
the record for the next boot. -/
def execThermalTrip (sensor : Nat) (temp : Int) (s : State) : Out :=
  if 53 ≤ sensor ∨ temp < 12000 ∨ s.board.tripLatch then .next s
  else
    let s1 : State := { s with board := { s.board with tripLatch := true, thermN := false, tripSaved := some (sensor, temp) } }
    .next (raise s1 0x0607 clsX noCtx (unitSensor sensor) (p4 sensor ++ pTemp temp))

/-- A stack at 95 °C: its controller halves its command rate and doubles its refresh rate. -/
def execHbmThrottle (stack : Nat) (temp : Int) (s : State) : Out :=
  if 8 ≤ stack ∨ temp < 9500 ∨ s.power.hbmHot.elem stack then .next s
  else
    let s1 : State := { s with
      power := { s.power with hbmHot := addNat s.power.hbmHot stack }
      mem := { s.mem with halfRate := addNat s.mem.halfRate stack } }
    .next (raise s1 0x0608 clsC noCtx (unitChan (32 * stack)) (p4 stack ++ pTemp temp))

/-- FAST_THROTTLE_N falls (R330). -/
def execFastThrottle (s : State) : Out :=
  if s.power.fastLow then .next s
  else
    let s1 : State := { s with power := { s.power with fastLow := true } }
    .next (watchAllFixed (settleEmergency (raise s1 0x0609 clsC noCtx unitPmu (p8 s.clock.ns))))

/-- 1 ms after FAST_THROTTLE_N went high. -/
def execFastThrottleRelease (s : State) : Out :=
  if s.power.fastLow = false then .next s
  else .next (watchAllFixed (settleEmergency { s with power := { s.power with fastLow := false } }))

/-! ## The hardware fallback (R332) -/

/-- The bank the PMU's microcode runs from (R418): the boot bank, or the other one while an image is on
trial. -/
def pmuBank (s : State) : Nat :=
  if (look s.fw.updates {} 1).phase = 4 then 1 - look s.sec.bootPtr 0 1 else look s.sec.bootPtr 0 1

/-- The fallback takes control after missed signals. -/
def execPmuFallback (missed : Nat) (s : State) : Out :=
  if missed < 3 ∨ s.power.fallback then .next s
  else
    let s1 : State := { s with power := { s.power with fallback := true, planned := false } }
    .next (watchAllFixed (settleEmergency (raise s1 0x060A clsC noCtx unitPmu (p4 missed ++ p4 (pmuBank s)))))

/-- The PMU has control again. -/
def execPmuResume (s : State) : Out :=
  if s.power.fallback = false then .next s
  else .next (watchAllFixed (settleEmergency { s with power := { s.power with fallback := false, planned := false } }))

/-- PMBUS_ALERT_N falls: firmware reads the status of the four regulators (R452), which is free. -/
def execPmbusAlert (s : State) : Out :=
  let f := fun (i : Nat) => Config.freeBits (s.freeCtr + i) 16 % 65536
  .next { s with
    power := { s.power with regStatus := [f 0, f 1, f 2, f 3] }
    freeCtr := s.freeCtr + 4 }

end Sys2Proof.Machine
end

