-- ==== Sys2Proof/Machine/Time.lean ====
section
/-! DEFINITION. Device time (R333), its discipline by PTP or PPS_IN (R278, R334), and the tick of the
reference clock. -/

namespace Sys2Proof.Machine

/-- One ns in the clock's fractions. -/
abbrev nsOne : Int := 0x1_0000_0000

/-- The largest rate correction, ±200 ppm of 40 ns, and the largest slew, ±100 ppm. -/
abbrev rateMax : Int := 34359738
abbrev slewMax : Int := 17179869

/-- A value held within ±`m`. -/
def clampBy (m v : Int) : Int := max (-m) (min m v)

/-- What one reference cycle removes of the offset still to be slewed. -/
def slewStep (c : Clock) : Int := clampBy slewMax c.slew

/-- One cycle of the 25 MHz reference: 40 ns, corrected by the rate and the slew. -/
def tickClock (c : Clock) : Clock :=
  let t : Int := (c.frac : Nat) + 40 * nsOne + clampBy rateMax c.rate + slewStep c
  { c with ns := c.ns + (t / nsOne).toNat, frac := (t % nsOne).toNat, slew := c.slew - slewStep c }

/-- The band of set points a bay's time is counted in (R428). -/
def bandOf (f : Nat) : Nat := min 14 ((f - 550) / 55)

/-- The device ns of every bay at its set point counted. -/
def countBands (s : State) (n : Nat) : State :=
  (List.range 16).foldl (fun s b => bump s 3 b (0x90 + bandOf (bayAt s b).setPoint) n) s

/-- One reference cycle of device time; without REF25 time stands still (R459). -/
def tick (s : State) : State :=
  if s.clock.ref25 then
    let c := tickClock s.clock
    countBands { s with clock := c } (c.ns - s.clock.ns)
  else s

/-- Whether a context exists. -/
def anyCtx (s : State) : Bool := ctxNums.any (fun k => (ctxOf s k).st != .free)

/-- A signed number of ns as an event carries it: four bytes, two's complement. -/
def pSigned (t : Int) : List Byte := p4 (t % 0x1_0000_0000).toNat

/-- PTP_UNSYNCED when it is not yet so (R278). -/
def unsync (s : State) (offset : Int) : State :=
  if s.clock.unsynced then s
  else raise { s with clock := { s.clock with unsynced := true } } 0x0407 clsC noCtx 0
    (pSigned offset ++ p8 (s.clock.ns - s.clock.lastSync))

/-- PTP_SYNCED on recovery. -/
def resync (s : State) (offset : Int) : State :=
  if s.clock.unsynced then raise { s with clock := { s.clock with unsynced := false } } 0x0408 clsC noCtx 0 (pSigned offset)
  else s

/-- An offset measured (device time less the source's, in ns), with a rate correction in 2^-32 ns per cycle. The first
one of a power-up steps device time while no context exists; every other offset is slewed. -/
def disciplined (s : State) (offset rate : Int) : State :=
  let c := s.clock
  if c.stepped = false ∧ anyCtx s = false then
    let ns := ((c.ns : Int) - offset).toNat
    resync { s with clock := { c with
      ns := ns, rate := clampBy rateMax rate, slew := 0, stepped := true, lastSync := ns, offset := 0 } } 0
  else
    let s1 := if 1000 < offset.natAbs then unsync s offset else resync s offset
    { s1 with clock := { s1.clock with
      rate := clampBy rateMax rate, slew := -offset * nsOne, stepped := true, lastSync := c.ns, offset := offset } }

/-! ### PTP messages (R278)

PROFILE bit 0 selects the peer-to-peer delay mechanism, bit 1 makes the clock a master. -/

/-- The MAC address of the device on a port, with or without an identity. -/
def macOn (s : State) (port : Nat) : Nat :=
  match s.net.identity with
  | some i => portMac i port
  | none => Config.macBase + port

/-- The multicast address of a PTP message over IPv4, IPv6 or Ethernet. -/
def ptpAddr (net : Nat) (m : PtpMsg) : Nat :=
  if net = 4 then (if ptpPeer m then 0xE000_006B else 0xE000_0181)
  else if net = 6 then (if ptpPeer m then 0xFF02 * 2 ^ 112 + 0x6B else 0xFF0E * 2 ^ 112 + 0x181)
  else if ptpPeer m then 0x0180_C200_000E else 0x011B_1900_0000

/-- The MAC address a multicast address maps to. -/
def multicastMac (net a : Nat) : Nat :=
  if net = 4 then 0x0100_5E00_0000 + a % 2 ^ 23 else if net = 6 then 0x3333 * 2 ^ 32 + a % 2 ^ 32 else a

/-- A PTP message sent by a port; over IP a device without an identity has no address to send it from. -/
def ptpSend (s : State) (port net : Nat) (m : PtpMsg) : State :=
  let a := ptpAddr net m
  let p := if ptpEvent m then 319 else 320
  let f : Frame := { time := s.clock.ns, port := port, src := macOn s port, dst := multicastMac net a, tag := none, net := net, dscp := 0
                     ipSrc := 0, ipDst := if net = 0 then 0 else a, sport := p, dport := p, sum := 0, body := .ptp m }
  match s.net.identity with
  | none => if net = 0 then emitFrame s f else s
  | some i =>
    let g : Frame := { f with
      tag := if i.flags.getLsbD 2 then some i.vlan.toNat else none, dscp := dscpOf i 7
      ipSrc := if net = 6 then i.v6Addr else if net = 4 then i.v4Addr else 0 }
    emitFrame s { g with sum := udpSum g }

/-- The transport of the messages a master sends of its own: by the family of its identity, else by Ethernet. -/
def ptpNet (s : State) : Nat :=
  match s.net.identity with
  | some i => if i.flags.getLsbD 0 then 4 else 6
  | none => 0

/-- What follows a Sync: the next exchange of the delay mechanism. -/
def askDelay (s : State) (port net t1 t2 : Nat) : State :=
  let c := s.clock
  let id := clockId (macOn s port)
  let q := (c.ptpSeq + 1) % 0x1_0000
  if c.profile.testBit 0 then
    ptpSend { s with clock := { c with ptpSeq := q, pdelayReq := some (q, c.ns), pdelayResp := none } } port net (.pdelayReq id q)
  else ptpSend { s with clock := { c with ptpSeq := q, delayReq := some (q, t1, t2, c.ns) } } port net (.delayReq id q)

/-- A Sync that left its master at `t1` and arrived at `t2`: the offset less the path delay disciplines device time. -/
def synced (s : State) (port net t1 t2 : Nat) (rate : Int) : State :=
  let offset := (t2 : Int) - t1 - s.clock.delay
  let s1 := disciplined { s with clock := { s.clock with syncWait := none } } offset rate
  let step := (s1.clock.ns : Int) - s.clock.ns
  askDelay s1 port net t1 ((t2 : Int) + step).toNat

/-- A path delay measured. -/
def setDelay (s : State) (d : Int) : State := { s with clock := { s.clock with delay := d } }

/-- A PTP message at the port of the discipline, stamped with device time. -/
def ptpIn (s : State) (port net : Nat) (m : PtpMsg) (rate : Int) : State :=
  let c := s.clock
  let id := clockId (macOn s port)
  let slave := !c.profile.testBit 1
  match m with
  | .sync q two t1 =>
    if slave = false then s
    else if two then { s with clock := { c with syncWait := some (q, c.ns) } } else synced s port net t1 c.ns rate
  | .followUp q t1 =>
    match c.syncWait with
    | some (p, t2) => if p = q then synced s port net t1 t2 rate else s
    | none => s
  | .delayReq i q => if slave then s else ptpSend s port net (.delayResp i q c.ns)
  | .delayResp i q t4 =>
    match c.delayReq with
    | some (p, t1, t2, t3) => if p = q ∧ i = id then setDelay s ((((t2 : Int) - t1) + ((t4 : Int) - t3)) / 2) else s
    | none => s
  | .pdelayReq i q => ptpSend (ptpSend s port net (.pdelayResp i q true c.ns)) port net (.pdelayFollowUp i q c.ns)
  | .pdelayResp i q two t2 =>
    match c.pdelayReq with
    | some (p, t1) =>
      if p ≠ q ∨ i ≠ id then s
      else if two then { s with clock := { c with pdelayResp := some (t2, c.ns) } } else setDelay s (((c.ns : Int) - t1) / 2)
    | none => s
  | .pdelayFollowUp i q t3 =>
    match c.pdelayReq, c.pdelayResp with
    | some (p, t1), some (t2, t4) => if p = q ∧ i = id then setDelay s ((((t4 : Int) - t1) - ((t3 : Int) - t2)) / 2) else s
    | _, _ => s

/-- A PTP message received; those of another port than the one firmware chose are not taken. -/
def execPtpSyncReceive (a : PtpArrival) (rate : Int) (s : State) : Out :=
  let c := s.clock
  if c.source ≠ 0 ∨ c.ref25 = false ∨ c.port ≠ a.port ∨ (a.net ≠ 0 ∧ a.net ≠ 4 ∧ a.net ≠ 6) then .next s
  else .next (ptpIn s a.port a.net a.msg rate)

/-- No Sync for 3 s. -/
def execPtpSyncTimeout (s : State) : Out :=
  if s.clock.source = 0 ∧ s.clock.lastSync + 3 * second ≤ s.clock.ns then .next (unsync s s.clock.offset) else .next s

/-- A rising edge of PPS_IN: the phase is slewed to the nearest whole second, and the rate follows the source, by a law
that is not given: a free value within the bound. -/
def execPpsIn (s : State) : Out :=
  let c := s.clock
  if c.source ≠ 1 ∨ c.ref25 = false then .next s
  else
    let r : Int := (c.ns % second : Nat)
    let off : Int := if 2 * r < (second : Nat) then r else r - (second : Nat)
    .next { drawn s with clock := { c with
      rate := clampBy rateMax (BitVec.ofNat 64 (freeVal s 64)).toInt, slew := -off * nsOne, offset := off, lastSync := c.ns, stepped := true } }

/-- A master's Sync. -/
def sendSync (s : State) : State :=
  let c := s.clock
  let q := (c.ptpSeq + 1) % 0x1_0000
  if c.source = 0 ∧ c.profile.testBit 1 = true then
    ptpSend { s with clock := { c with ptpSeq := q } } c.port (ptpNet s) (.sync q false c.ns)
  else s

/-- PPS_OUT rises at a whole second of device time, for 100 ms; a master of PTP sends its Sync with it. -/
def execPpsOut (s : State) : Out :=
  let c := s.clock
  let sec := c.ns / second
  if c.ref25 = false ∨ sec = c.lastSec then .next s
  else .next (sendSync { s with clock := { c with lastSec := sec, ppsOutAt := some (sec * second) } })

end Sys2Proof.Machine
end

