-- ==== Sys2Proof/Machine/Chain.lean ====
section
/-! DEFINITION. The Chain joins: flits and their replay (R242 to R246), lane margins and sparing (R247 to
R249), the removal of groups and joins, and routing (R250, R251, R254). -/

namespace Sys2Proof.Machine

/-! ## Lanes -/

/-- The active lanes of a join (R11). -/
def lanesActive (j : Nat) : Nat := if j < 4 then 128 else if j < 12 then 40 else 8

/-- All physical lanes of a join. -/
def lanesAll (j : Nat) : Nat := if j < 4 then 136 else if j < 12 then 43 else 9

/-- The physical lane of a logical lane. -/
def physLane (ch : Chain) (j l : Nat) : Nat := look ch.laneMap l (256 * j + l)

/-- The state of a physical lane (R428, number 0x0072). -/
def laneState (ch : Chain) (j p : Nat) : Nat := look ch.laneSt (if p < lanesActive j then 0 else 1) (256 * j + p)

/-- The lanes of a group. -/
def groupLanes (g : Nat) : List Nat := (List.range 8).map (fun i => 8 * g + i)

/-! ## Acknowledgement and replay (R244, R245) -/

/-- The flits of a buffer left after an acknowledgement of `a`; one that names no flit of it changes
nothing. -/
def ackBuffer (l : List (Nat × Flit)) (a : Nat) : List (Nat × Flit) :=
  match l.findIdx? (fun f => f.2.seq == a) with
  | some i => l.drop (i + 1)
  | none => l

/-- A replay from the oldest unacknowledged flit: counted on each lane of the group, and on the flit. What comes
next at the receiver is that flit. -/
def replayDir (s : State) (j g : Nat) (up : Bool) : State :=
  let d := dirOf s j g up
  match d.buffer.head? with
  | none => s
  | some f =>
    let d' := { d with
      replays := if d.replays ≠ 0 ∧ d.replaySeq = f.2.seq then d.replays + 1 else 1
      replaySeq := f.2.seq
      buffer := d.buffer.map (fun e => (s.clock.ns, e.2)), sent := d.sent + d.buffer.length
      discarded := (f.2.seq + 4096 - d.expect) % 4096, nakSent := false }
    (groupLanes g).foldl (fun s l => bump s 5 (256 * j + physLane s.chain j l) 0x71 1) (setDir s j g up d')

/-- The acknowledgement of a direction's flits through `a`, and the replay of the rest where it comes as
a NAK; room in the buffer lets waiting flits go. -/
def acked (s : State) (j g : Nat) (up : Bool) (a : Nat) (nak : Bool) : State :=
  let d := dirOf s j g up
  let b := ackBuffer d.buffer a
  let s1 := setDir s j g up { d with buffer := b, replays := if b.length < d.buffer.length then 0 else d.replays }
  let s2 := if nak then replayDir s1 j g up else s1
  { s2 with chain := pumpDir d.waiting.length (pruneBursts s2.chain (16 * j + g)) s.clock.ns (16 * j + g) up }

/-! ## Errors charged to lanes (R246) -/

/-- The logical lanes on which two copies of a flit differ. -/
def differing (g : Nat) (x y : Flit) : List Nat :=
  (((flitBytes x).zip (flitBytes y)).zipIdx.filterMap (fun e =>
    if e.1.1 = e.1.2 then none else some (8 * g + e.2 % 8))).foldl addNat []

/-- An error charged to a logical lane. -/
def chargeLane (s : State) (j l : Nat) : State :=
  let key := 256 * j + l
  let old := (look s.chain.errAt [] key).filter (fun t => decide (s.clock.ns < t + second))
  bump { s with chain := { s.chain with errAt := put s.chain.errAt key (old ++ [s.clock.ns]) } } 5 (256 * j + physLane s.chain j l) 0x70 1

/-! ## Margins and sparing (R248, R249) -/

/-- The bytes of a lane's margin in a CONTROL flit: the physical lane, the margin, and bit 0 of the last byte for
lock. -/
def marginBytes (e : Nat × Nat × Bool) : List Byte := leBytes 1 e.1 ++ leBytes 2 e.2.1 ++ leBytes 1 (b1 e.2.2)

/-- The payloads of the CONTROL flits that carry lane margins, 58 lanes in each behind its credits. -/
def marginLoads (fuel : Nat) (l : List (Nat × Nat × Bool)) : List (List Byte) :=
  match fuel with
  | 0 => []
  | n + 1 => if l = [] then [] else (List.replicate 6 0 ++ (l.take 58).flatMap marginBytes) :: marginLoads n (l.drop 58)

/-- The margins and locks of lanes kept. -/
def keepMargins (ch : Chain) (j : Nat) (ls : List (Nat × Nat × Bool)) : Chain :=
  { ch with
    margins := ls.foldl (fun t e => put t (256 * j + e.1) e.2.1) ch.margins
    unlocked := ls.foldl (fun t e => if e.2.2 then delNat t (256 * j + e.1) else addNat t (256 * j + e.1)) ch.unlocked }

/-- The margins the receiver of a direction reports each 1 ms: physical lane, margin, and whether the lane is in
lock; CONTROL flits carry them to the sender. -/
def execMarginReport (j : Nat) (up : Bool) (lanes : List (Nat × Nat × Bool)) (s : State) : Out :=
  let key := 2 * j + b1 up
  if 16 ≤ j ∨ alive s = false ∨ (has s.chain.marginAt key = true ∧ s.clock.ns < look s.chain.marginAt 0 key + 1000000) then .next s
  else
    let ls := lanes.filter (fun e => decide (e.1 < lanesAll j))
    let c1 := keepMargins { s.chain with marginAt := put s.chain.marginAt key s.clock.ns } j ls
    .next { s with chain := match liveGroups c1 j with
      | g :: _ => queueFlits c1 s.clock.ns (16 * j + g, !up) false ((marginLoads 3 ls).map (fun p => linkFlit 1 p false))
      | [] => c1 }

/-- Why a logical lane is due: 0 errors, 1 margin, 2 lost lock; none where it is not. -/
def laneCause (s : State) (j l : Nat) : Option Nat :=
  let p := 256 * j + physLane s.chain j l
  let es := (look s.chain.errAt [] (256 * j + l)).filter (fun t => decide (s.clock.ns < t + second))
  if 8 ≤ es.length then some 0
  else if has s.chain.margins p ∧ look s.chain.margins 0 p < Config.laneThreshold then some 1
  else if s.chain.unlocked.elem p then some 2
  else none

/-- The spares of a join not yet taken. -/
def freeSpares (ch : Chain) (j : Nat) : List Nat :=
  (List.range (lanesAll j)).filter (fun p => laneState ch j p == 1 &&
    !ch.swaps.any (fun e => e.1 / 512 == j && e.2.spare == p))

/-- The key of a swap. -/
def swapKey (j l : Nat) (up : Bool) : Nat := 2 * (256 * j + l) + b1 up

/-- Whether a swap of a logical lane is under way in either direction. -/
def swapping (ch : Chain) (j l : Nat) : Bool := has ch.swaps (swapKey j l true) || has ch.swaps (swapKey j l false)

/-- A lane found due by the receiving end of a direction: it names the lane and the lowest free spare in
a SWAP flit; a lower lane of the group that is due goes first. -/
def execLaneDue (j : Nat) (up : Bool) (lane : Nat) (s : State) : Out :=
  let g := lane / 8
  let lower := (groupLanes g).any (fun l => decide (l < lane) && (laneCause s j l).isSome && !swapping s.chain j l)
  match laneCause s j lane, freeSpares s.chain j with
  | some cause, sp :: _ =>
    if laneGroupOk s j g = false ∨ lower ∨ swapping s.chain j lane ∨ alive s = false then .next s
    else
      let c1 := { s.chain with swaps := put s.chain.swaps (swapKey j lane up) ⟨lane, sp, cause, 0⟩ }
      .next { s with chain := queueFlits c1 s.clock.ns (16 * j + g, !up) false [linkFlit 6 (leBytes 1 lane ++ leBytes 1 sp) false] }
  | _, _ => .next s

/-- The sender of a direction has a SWAP flit: the lane's bits go on the spare as well, and 64 IDLE flits are next. -/
def swapHeard (s : State) (j : Nat) (up : Bool) (lane spare : Nat) : State :=
  let key := swapKey j lane up
  let w := look s.chain.swaps ⟨0, 0, 0, 0⟩ key
  let g := lane / 8
  if has s.chain.swaps key = false ∨ w.spare ≠ spare ∨ 0 < w.idled ∨ laneGroupOk s j g = false then s
  else
    let c1 := { s.chain with swaps := put s.chain.swaps key { w with idled := (dirOf s j g up).sent + 64 } }
    { s with chain := queueFlits c1 s.clock.ns (16 * j + g, up) true (List.replicate 64 (linkFlit 0 [] false)) }

/-- Whether a SWAP flit for a lane is still held back in a direction. -/
def swapHeld (s : State) (j : Nat) (up : Bool) (lane spare : Nat) : Bool :=
  (dirOf s j (lane / 8) (!up)).waiting.any (fun f => f.kind == 6 && f.payload == leBytes 1 lane ++ leBytes 1 spare)

/-- The sender receives SWAP. -/
def execSwap (j : Nat) (up : Bool) (lane spare : Nat) (s : State) : Out :=
  if alive s = false ∨ swapHeld s j up lane spare = true then .next s else .next (swapHeard s j up lane spare)

/-- One lane switched to its spare. -/
def switchLane (s : State) (j : Nat) (up : Bool) (w : Swapping) : State :=
  let old := physLane s.chain j w.lane
  let ch := s.chain
  let s1 := noteOverlay { s with chain := { ch with
    laneMap := put ch.laneMap (256 * j + w.lane) w.spare
    laneSt := put (put ch.laneSt (256 * j + w.spare) 2) (256 * j + old) 3
    errAt := drop ch.errAt (256 * j + w.lane)
    swaps := drop ch.swaps (swapKey j w.lane up) } }
  raise s1 0x0821 clsC noCtx (0x4000 + j)
    (p4 j ++ p4 w.lane ++ p4 old ++ p4 w.spare ++ p4 w.cause ++ p4 (freeSpares s1.chain j).length)

/-- Once the IDLE flits have gone both ends of a direction switch, lanes in ascending order. -/
def execLaneSwitch (j : Nat) (up : Bool) (s : State) : Out :=
  let ws := (s.chain.swaps.filter (fun e => e.1 / 512 == j && e.1 % 2 == b1 up && decide (0 < e.2.idled)
    && decide (e.2.idled ≤ (dirOf s j (e.2.lane / 8) up).sent))).map (fun e => e.2)
  if alive s = false then .next s else .next (ws.foldl (fun s w => switchLane s j up w) s)

/-! ## Receiving (R241 to R246) -/

/-- The credits a flit gives back to the buffer of the other direction's group. -/
def giveBackCredits (ch : Chain) (j g : Nat) (up : Bool) (f : Flit) : Chain :=
  if 1 < f.kind then ch
  else { ch with credits := (List.range 6).foldl (fun t c =>
    let key := creditKey (.group (16 * j + g) (!up)) c
    put t key (look t 0 key - (nth f.payload c 0).toNat)) ch.credits }

/-- The credit a burst's last flit frees is owed to the sender. -/
def oweCredit (d : Dir) (f : Flit) : Dir :=
  if f.kind = 4 ∨ f.kind = 5 then { d with owed := put d.owed f.cls (look d.owed 0 f.cls + 1) } else d

/-- What a receiver takes in after a flit: the request word of a first one begins a burst, and a last one ends it. -/
def arrives (d : Dir) (f : Flit) : Option Arriving :=
  if f.kind = 2 ∨ f.kind = 5 then
    some ⟨f.tag, leNat (f.payload.take 5), leNat ((f.payload.drop 8).take 4), 0⟩
  else if f.kind = 3 ∨ f.kind = 4 then d.arriving else none

/-- The data bytes of a flit of a burst. -/
def flitData (f : Flit) : List Byte := if f.kind = 2 ∨ f.kind = 5 then (f.payload.take f.len).drop 16 else f.payload.take f.len

/-- A burst's flit taken in at the die it was sent to: its bytes stored, and the grains its POISON bits mark
poisoned. A burst this device made has moved already, poison with it. -/
def takeData (s : State) (j g : Nat) (up : Bool) (f : Flit) (w : Arriving) : State :=
  let die := if up then (joinEnds j).2 else (joinEnds j).1
  let bs := (flitData f).take (w.count - w.off)
  let a := w.addr + w.off
  if f.destDie ≠ die ∨ bs = [] ∨ s.chain.bursts.any (fun b => b.tag == w.tag && b.group == 16 * j + g) = true
      ∨ Config.scratchDpa + 336 * Config.scratchBytes < a + bs.length then s
  else (grainsOf a bs.length).zipIdx.foldl (fun s q => if f.poison.getLsbD q.2 then poisonGrain s (q.1 * 64) else s) (writeDpa s a bs false)

/-- A flit accepted by the receiver of a direction: lanes charged, credits given back, its burst taken in, its
acknowledgement heard, a SWAP acted on, and an IDLE flit in answer where nothing else goes the other way. -/
def accept (s : State) (j g : Nat) (up : Bool) (f : Flit) : State :=
  let d := dirOf s j g up
  let lanes := (((d.bad.filter (fun e => e.1 == f.seq)).map (fun e => e.2)).flatMap (fun c => differing g c f)).foldl addNat []
  let w := arrives d f
  let s1 := match w with
    | some w => takeData s j g up f w
    | none => s
  let s2 := setDir s1 j g up (oweCredit { d with
    expect := (d.expect + 1) % 4096, discarded := 0, nakSent := false
    bad := d.bad.filter (fun e => e.1 != f.seq)
    arriving := if f.kind = 4 ∨ f.kind = 5 then none else if f.kind = 2 ∨ f.kind = 3 then
      w.map (fun w => { w with off := w.off + (flitData f).length }) else d.arriving } f)
  let s3 := lanes.foldl (fun s l => chargeLane s j l) { s2 with chain := giveBackCredits s2.chain j g up f }
  let s4 := if f.ackValid then acked s3 j g (!up) f.ack f.nak else s3
  let s5 := if f.kind = 6 then swapHeard s4 j (!up) (nth f.payload 0 0).toNat (nth f.payload 1 0).toNat else s4
  if (dirOf s5 j g (!up)).waiting = [] then { s5 with chain := queueFlits s5.chain s.clock.ns (16 * j + g, !up) false [linkFlit 0 [] false] } else s5

/-- A flit discarded by the receiver of a direction: a copy that failed its CRC is kept with its place, and the
first of a row is answered with a NAK. -/
def discard (s : State) (j g : Nat) (up : Bool) (f : Flit) : State :=
  let d := dirOf s j g up
  let crc := flitCrcOk f
  let s1 := setDir s j g up { d with
    discarded := (if crc then f.seq + 4097 - d.expect else d.discarded + 1) % 4096, nakSent := true
    bad := if crc then d.bad else d.bad ++ [((d.expect + d.discarded) % 4096, f)] }
  if d.nakSent then s1
  else { s1 with chain := queueFlits s1.chain s.clock.ns (16 * j + g, !up) true [linkFlit 0 [] true] }

/-- A flit received on a direction, with its LINK word: accepted in SEQ order, or discarded. -/
def execFlitReceive (j g : Nat) (up : Bool) (d : FlitData) (l : FlitLink) (s : State) : Out :=
  let f := d.linked l
  if laneGroupOk s j g = false ∨ alive s = false then .next s
  else if flitCrcOk f && decide (f.kind < 7) && decide (f.cls < 6) && f.seq == (dirOf s j g up).expect then .next (accept s j g up f)
  else .next (discard s j g up f)

/-- A NAK received by the sender of a direction: it resends from the flit after ACK. -/
def execNakReceive (j g : Nat) (up : Bool) (ack : Nat) (s : State) : Out :=
  if laneGroupOk s j g = false ∨ alive s = false then .next s else .next (acked s j g up ack true)

/-- No acknowledgement of the oldest flit within 256 ns of its sending. -/
def execReplayTimeout (j g : Nat) (up : Bool) (s : State) : Out :=
  if laneGroupOk s j g = false ∨ alive s = false then .next s
  else match (dirOf s j g up).buffer.head? with
    | some f => if f.1 + 256 ≤ s.clock.ns then .next (replayDir s j g up) else .next s
    | none => .next s

/-! ## Groups and joins removed (R250, R251, R254) -/

/-- The runs of destination bytes of elements [lo, hi). -/
def destRuns (d : Desc) (lo hi : Nat) : List (Nat × Nat) :=
  (pieces64 (hi - lo + 1) d lo hi).map (fun p => ((elemAt d p.1).1, ((elemAt d p.1).2 + p.2 * elemBits d.code + 7) / 8))

/-- The parts of a transfer that a lost burst belonged to failed, finished ones among them: their destination
grains are written as poisoned, and the transfer goes on behind them (R92). -/
def failBurst (s : State) (b : ChainBurst) : State :=
  let k := b.key / 512
  let n := b.key % 512
  match flightAt (coreOf s k n) .stream b.flight with
  | none => s
  | some f =>
    match f.d with
    | none => s
    | some d =>
      let hit := fun (p : Part) => p.outcome != 2 && decide (p.first < b.hi) && decide (b.lo < p.first + p.count)
      let runs := (f.parts.filter hit).flatMap (fun p => destRuns d p.first (p.first + p.count))
      let s1 := (runs.flatMap (fun r => grainsOf r.1 r.2)).foldl (fun s g =>
        match translate s k n (g * 64) .write with
        | .ok (.mem a) => poisonGrain s a
        | _ => s) s
      let e := ((f.parts.filter hit).filter (fun p => decide (p.first ≤ f.pos))).foldl (fun m p => max m (p.first + p.count)) f.pos
      let h := settled { wroteGrains f runs with
        parts := f.parts.map (fun (p : Part) => if hit p then { p with outcome := 2 } else p)
        pos := e, issued := max f.issued e, poisonSeen := f.poisonSeen || runs != [] }
      if f.ready then setFlightS s1 k n .stream h else landed s1 k n h

/-- Why a group cannot be made whole: 0 a due lane without a spare, 1 sixteen replays of one flit. -/
def groupCause (s : State) (j g : Nat) : Option Nat :=
  if 16 ≤ (dirOf s j g true).replays ∨ 16 ≤ (dirOf s j g false).replays then some 1
  else if freeSpares s.chain j = [] ∧ (groupLanes g).any (fun l => (laneCause s j l).isSome && !has s.chain.swaps (swapKey j l true) && !has s.chain.swaps (swapKey j l false)) then some 0
  else none

/-- Whether two dies are joined by a working join. -/
def joined (ch : Chain) (a b : Nat) : Bool :=
  (List.range 16).any (fun j => !ch.down.elem j && (joinEnds j == (a, b) || joinEnds j == (b, a)))

/-- The distances from every die to die `b` after `n` rounds; 99 where there is no path. -/
def distances (ch : Chain) (b : Nat) (n : Nat) : List Nat :=
  match n with
  | 0 => (List.range 7).map (fun d => if d = b then 0 else 99)
  | m + 1 =>
    let l := distances ch b m
    (List.range 7).map (fun d =>
      ((List.range 4 ++ [b]).filter (fun c => joined ch d c)).foldl (fun x c => min x (nth l c 99 + 1)) (nth l d 99))

/-- The tables rewritten: the fixed path where it works and is a shortest one, for every TAG, and otherwise the
shortest working path, the lower-numbered intermediate die on a tie. -/
def rewriteRoutes (ch : Chain) : Chain :=
  { ch with routes := (List.range 7).foldl (fun t b =>
      let l := distances ch b 7
      let short := fun (a c : Nat) => joined ch a c && nth l c 99 + 1 == nth l a 99
      (List.range 7).foldl (fun t a =>
        if a = b ∨ (List.range 4).all (fun g => short a (nextDie0 a b g)) = true then drop t (8 * a + b)
        else match ((List.range 4 ++ [b]).filter (short a)).head? with
          | some c => put t (8 * a + b) c
          | none => t) t) ch.routes }

/-- Whether a die has no working join to a base die. -/
def isolated (ch : Chain) (d : Nat) : Bool := !(List.range 4).any (fun b => b != d && joined ch d b)

/-- A join whose groups are all removed goes down; a die it leaves without a base die is isolated, class
X. -/
def joinDown (s : State) (j : Nat) : State :=
  let ch := rewriteRoutes { s.chain with down := addNat s.chain.down j }
  let s1 := raise { s with chain := ch } 0x0823 clsC noCtx (0x4000 + j) (p4 j)
  [(joinEnds j).1, (joinEnds j).2].foldl (fun s d =>
    if isolated ch d then raise s 0x0824 clsX noCtx (0x4000 + j) (p4 d) else s) s1

/-- The flits of a removed group that were never sent put in line on another group of the join. -/
def moveWaiting (ch : Chain) (now j g : Nat) (up : Bool) (fs : List Flit) : Chain :=
  match (liveGroups ch j).filter (fun q => q != g) with
  | q :: _ =>
    let c1 := { ch with bursts := ch.bursts.map (fun b => if b.group = 16 * j + g ∧ fs.any (fun f => f.tag == b.tag) = true then { b with group := 16 * j + q } else b) }
    queueFlits c1 now (16 * j + q, up) false fs
  | [] => ch

/-- A group that cannot be made whole is removed, and the bursts in its replay buffer fail; those not begun go
on another group. -/
def execChainGroupRemoved (j g : Nat) (s : State) : Out :=
  match groupCause s j g with
  | none => .next s
  | some cause =>
    if laneGroupOk s j g = false ∨ alive s = false then .next s
    else
      let ch := s.chain
      let lanes := (groupLanes g).map (fun l => physLane ch j l)
      let sent := fun (up : Bool) => (dirOf s j g up).buffer.map (fun e => e.2.tag)
      let data := fun (up : Bool) => (dirOf s j g up).waiting.filter (fun f =>
        decide (2 ≤ f.kind) && decide (f.kind ≤ 5) && !(sent up).elem f.tag)
      let c1 := { ch with
        removed := addNat ch.removed (16 * j + g)
        laneSt := lanes.foldl (fun t p => put t (256 * j + p) 4) ch.laneSt
        swaps := ch.swaps.filter (fun e => !(e.1 / 512 == j && e.2.lane / 8 == g))
        dirs := drop (drop ch.dirs (dirKey j g true)) (dirKey j g false) }
      let c2 := [true, false].foldl (fun c up => moveWaiting c s.clock.ns j g up (data up)) c1
      let lost := c2.bursts.filter (fun e => e.group == 16 * j + g)
      let s1 : State := { s with chain := { c2 with bursts := c2.bursts.filter (fun e => e.group != 16 * j + g) } }
      let s2 := lost.foldl failBurst s1
      let left := (liveGroups s1.chain j).length
      let s3 := raise s2 0x0822 clsC noCtx (0x4000 + j) (p4 j ++ p4 g ++ p4 cause ++ p4 left ++ p4 lost.length)
      .next (if left = 0 then joinDown s3 j else s3)

end Sys2Proof.Machine
end

