-- ==== Sys2Proof/Machine/Payload.lean ====
section
/-! DEFINITION. Where the fields of a message lie in its payload (R165, R220, R261, R285, R288, R352, R354, R358,
R360 to R362, R364, R372 to R374, R391, R394, R430, R431, R437, R440, R480, R481), its header (R346) and its length
(R347, R480). -/

namespace Sys2Proof.Machine

/-- Whether a byte of a run of a payload is nonzero. -/
def rsvSet (b : List Byte) (i n : Nat) : Bool := ((b.drop i).take n).any (fun x => x != 0)

/-- Fields of `n` bytes in a row. -/
def fields (b : List Byte) (i n m : Nat) : List Nat := (List.range m).map (fun j => field b (i + n * j) n)

/-- A register-sized field. -/
def word (b : List Byte) (i : Nat) : Word := BitVec.ofNat 64 (field b i 8)

/-- A field of bytes as bits. -/
def flags8 (b : List Byte) (i : Nat) : BitVec 8 := BitVec.ofNat 8 (field b i 1)

/-- A list brought to a length. -/
def resize {α : Type} (n : Nat) (d : α) (l : List α) : List α := (l ++ List.replicate (n - l.length) d).take n

/-- One member entry of TRUSS_CREATE (R220), and whether a bit of it that must be 0 is set: KIND 3 is reserved. -/
def memberOf (w : Nat) : Member × Bool :=
  let node := w / 2 ^ 42 % 2 ^ 20
  let gap := w / 2 ^ 20 % 2 ^ 22
  match w / 2 ^ 62 with
  | 0 => (.core (w % 4096), gap != 0 || node != 0 || w % 2 ^ 20 / 4096 != 0)
  | 1 => (.remote node (w % 4096), gap != 0 || w % 2 ^ 20 / 4096 != 0)
  | k => (.truss node (w % 2 ^ 20), gap != 0 || k == 3)

/-- TRUSS_CREATE (R220). -/
def readTruss (h : MsgHdr) (b : List Byte) : Instr :=
  let nf := field b 7 1
  let fwd := (List.range nf).map (fun i =>
    let w := field b (24 + 16 * i) 8
    ((⟨word b (16 + 16 * i), w.testBit 16, BitVec.ofNat 16 w⟩ : FwdEntry), decide (2 ^ 17 ≤ w)))
  let ms := (fields b (16 + 16 * nf) 8 (if field b 4 1 = 1 then field b 8 2 else 0)).map memberOf
  .trussCreate h (field b 0 4 % 2 ^ 20) (field b 4 1) (field b 5 1) (field b 6 1) (field b 8 2) (fwd.map (fun e => e.1)) (ms.map (fun e => e.1))
    (decide (2 ^ 20 ≤ field b 0 4) || rsvSet b 10 6 || fwd.any (fun e => e.2) || ms.any (fun e => e.2))

/-- NET_IDENTITY (R261): addresses in network byte order. -/
def readIdentity (b : List Byte) : NetIdentity :=
  let be := fun (i n : Nat) => leNat ((b.drop i).take n).reverse
  { node := field b 0 4 % 2 ^ 20, nodeRsv := decide (2 ^ 20 ≤ field b 0 4), udpPort := field b 4 2, sportBase := field b 6 2
    paths := field b 8 1, flags := flags8 b 9, vlan := BitVec.ofNat 16 (field b 10 2), macBase := be 12 6
    v4Prefix := field b 18 1, v6Prefix := field b 19 1, v4Addr := be 20 4, v4Gateway := be 24 4, v6Addr := be 28 16, v6Gateway := be 44 16
    dscp := (b.drop 60).take 8, rsv := rsvSet b 68 12 }

/-- LAUNCH (R362). -/
def readLaunch (h : MsgHdr) (b : List Byte) : Instr :=
  .launch h ((List.range (field b 0 2)).map (fun i =>
    ⟨field b (16 + 24 * i) 2, field b (24 + 24 * i) 8, word b (32 + 24 * i), rsvSet b (18 + 24 * i) 6⟩)) (rsvSet b 2 14)

/-- The message that a payload spells: a message of the type of `i` with its fields read from `b`. What a message
brings by reference from host memory, or learns from a storage target, stays as `i` has it. -/
def respell (i : Instr) (b : List Byte) : Instr :=
  let f := field b
  let z := rsvSet b
  match i with
  | .hello h _ _ _ => .hello h (f 8 8) (f 16 2) (z 18 14)
  | .hostAlive h _ _ => .hostAlive h (f 0 1) (z 1 7)
  | .capacity h _ _ => .capacity h (f 0 8) (z 8 8)
  | .contextCreate h _ _ _ _ _ _ _ _ => .contextCreate h (f 0 1) (f 1 1) (f 2 1) (f 3 1) (f 4 4) (f 8 4) (f 12 4) (z 16 16)
  | .contextPolicy h _ _ _ _ => .contextPolicy h (f 0 1) (f 1 1) (f 4 4) (z 2 2)
  | .memAlloc h _ _ _ _ _ _ => .memAlloc h (f 0 8) (f 8 8) (f 16 1) (f 17 1) (flags8 b 18) (z 19 5)
  | .memFree h _ _ => .memFree h (f 0 8) (f 8 8)
  | .memWrite h _ _ _ data => .memWrite h (f 0 8) (f 8 8) (f 16 8) data
  | .memRead h _ _ _ => .memRead h (f 0 8) (f 8 8) (f 16 8)
  | .launch h _ _ => readLaunch h b
  | .numericPolicy h _ => .numericPolicy h ⟨f 0 1, f 1 1, f 2 1, f 3 1, f 4 2, f 6 1, flags8 b 7, z 8 8⟩
  | .numericWatch h _ _ _ _ => .numericWatch h (f 0 2) (f 2 2) (f 4 1) (z 5 3)
  | .watchdogSet h _ _ => .watchdogSet h (f 0 4) (z 4 4)
  | .trussCreate h _ _ _ _ _ _ _ _ => readTruss h b
  | .trussDestroy h _ _ => .trussDestroy h (f 0 4 % 2 ^ 20) (decide (2 ^ 20 ≤ f 0 4) || z 4 4)
  | .regionCreate h _ _ _ _ _ => .regionCreate h (f 0 4) (flags8 b 4) (f 8 8) (f 16 8) (z 5 3)
  | .regionDestroy h _ _ => .regionDestroy h (f 0 4) (z 4 4)
  | .partitionSet h _ _ => .partitionSet h (fields b 0 1 16) (fields b 16 2 16)
  | .sliceMode h _ _ _ _ => .sliceMode h (f 0 1) (f 1 1) (f 2 1) (z 3 5)
  | .schedSet h _ _ _ _ => .schedSet h (f 0 1) (f 2 2) (f 4 4) (z 1 1)
  | .fixedFreq h _ _ _ => .fixedFreq h (f 0 1) (f 1 1) (z 2 6)
  | .oppointSet h _ _ _ => .oppointSet h (f 0 1) (fields b 2 2 4) (z 1 1 || z 10 6)
  | .powerLimit h _ _ => .powerLimit h (f 0 2) (z 2 6)
  | .budgetSet h _ _ _ _ => .budgetSet h (f 0 1) (f 4 4) (f 8 4) (z 1 3 || z 12 4)
  | .timeSource h _ _ _ _ => .timeSource h (f 0 1) (f 1 1) (f 2 1) (z 3 5)
  | .portConfig h _ _ _ _ => .portConfig h (f 0 1) (f 1 1) (fields b 2 2 8) (z 18 6)
  | .nodeTable h _ nodes => .nodeTable h (f 0 4) (resize (f 4 4) (0, 0) nodes)
  | .managerSet h _ _ => .managerSet h ((List.range 4).map (fun i => (f (8 * i) 4, f (8 * i + 4) 1))) ((List.range 4).any (fun i => z (8 * i + 5) 3))
  | .netIdentity h _ => .netIdentity h (readIdentity b)
  | .gridSet h _ _ nodes _ => .gridSet h (f 0 1) (fields b 8 2 6) nodes (z 1 7 || z 20 4)
  | .groupCreate h _ _ _ _ _ _ nodes _ => .groupCreate h (f 0 2) (f 2 1) (f 3 1) (f 4 4) (fields b 8 2 6) (f 24 8) (resize (f 4 4) 0 nodes) (z 20 4)
  | .groupDestroy h _ _ => .groupDestroy h (f 0 2) (z 2 6)
  | .storageConnect h _ _ _ _ _ _ _ _ ns =>
    .storageConnect h (f 0 1) (f 1 1) (f 2 2) (f 4 2) (f 6 2) (leNat ((b.drop 8).take (if f 1 1 = 4 then 4 else 16)).reverse) (((b.drop 32).take 256).takeWhile (fun c => c != 0))
      (z 24 8) ns
  | .storageRead h _ _ _ _ _ _ _ _ => .storageRead h (f 0 1) (f 4 4) (f 8 8) (f 16 4) (f 24 8) (word b 32) (word b 40) (z 1 3 || z 20 4)
  | .storageWrite h _ _ _ _ _ _ _ _ => .storageWrite h (f 0 1) (f 4 4) (f 8 8) (f 16 4) (f 24 8) (word b 32) (word b 40) (z 1 3 || z 20 4)
  | .checkpointSet h _ _ _ _ _ =>
    .checkpointSet h (f 0 4) (f 5 1) (f 8 4) ((List.range (f 4 1)).map (fun i => (f (16 + 16 * i) 8, f (24 + 16 * i) 8))) (z 6 2 || z 12 4)
  | .twinSet h _ _ _ _ =>
    .twinSet h (f 0 4 % 2 ^ 20) (flags8 b 4) (f 8 4 % 2 ^ 20) (decide (2 ^ 20 ≤ f 0 4) || decide (2 ^ 20 ≤ f 8 4) || z 5 3)
  | .fwStage h _ _ _ _ data _ _ =>
    let byRef := (flags8 b 1).getLsbD 2
    .fwStage h (f 0 1) (flags8 b 1) (f 8 8) (f 16 8) (if byRef then data else b.drop 24) (if byRef then some (f 24 8, f 32 8) else none) (z 2 6)
  | .fwActivate h _ _ _ _ => .fwActivate h (f 0 1) (f 4 4) (f 8 4) (z 1 3 || z 12 4)
  | .fwCommit h _ _ => .fwCommit h (f 0 1) (z 1 7)
  | .fwRollback h _ _ => .fwRollback h (f 0 1) (z 1 7)
  | .counterRead h _ _ _ =>
    .counterRead h (f 8 8) ((List.range (f 0 2)).map (fun i => ⟨f (16 + 8 * i) 1, f (18 + 8 * i) 2, f (20 + 8 * i) 4⟩))
      (z 2 6 || (List.range (f 0 2)).any (fun i => z (17 + 8 * i) 1))
  | .traceSet h _ _ _ _ _ => .traceSet h (f 0 4) (f 4 1) (flags8 b 5) (word b 8) (z 6 2)
  | .traceRead h _ _ _ _ => .traceRead h (f 0 8) (f 8 4) (f 16 8) (z 12 4)
  | .histSet h _ _ _ _ _ => .histSet h (f 0 1) (f 1 1) (f 2 1) (f 4 4) (z 3 1)
  | .histRead h _ _ _ _ => .histRead h (f 0 1) (f 1 1) (f 8 8) (z 2 6)
  | .bpSet h _ _ _ _ _ _ _ => .bpSet h (f 0 2) (f 2 1) (f 3 1) (f 4 1) (f 5 1) (f 8 8) (z 6 2)
  | .debugStep h _ _ => .debugStep h (f 0 2) (z 2 6)
  | .stateRead h _ _ _ _ => .stateRead h (f 0 2) (flags8 b 2) (f 8 8) (z 3 5)
  | .regWrite h _ _ _ _ => .regWrite h (f 0 2) (f 2 1) (word b 8) (z 3 5)
  | i => i

/-- The payload length of a type (R354, R430, R480): fixed, or by counts that the payload carries; none for a
type that is not known. `p` is the payload. -/
def payloadLength (type : Nat) (p : List Byte) : Option Nat :=
  let u := field p
  match type with
  | 0x01 | 0x10 | 0x52 | 0x58 => some 32
  | 0x02 | 0x12 | 0x29 | 0x2A | 0x31 | 0x39 | 0x41 | 0x42 | 0x43 | 0x45 | 0x47 | 0x5A | 0x72 | 0x73 | 0x84 | 0x8B => some 8
  | 0x03 | 0x04 | 0x11 | 0x13 | 0x14 | 0x15 | 0x82 | 0x89 | 0x8A => some 0
  | 0x05 | 0x19 | 0x28 | 0x44 | 0x46 | 0x51 | 0x71 | 0x81 | 0x85 | 0x88 | 0x8C | 0x8D => some 16
  | 0x18 | 0x1A | 0x1B | 0x38 | 0x50 | 0x83 => some 24
  | 0x20 => some (16 + 24 * u 0 2)
  | 0x30 => some (16 + 16 * u 7 1 + (if u 4 1 = 1 then 8 * u 8 2 else 0))
  | 0x40 | 0x61 | 0x62 => some 48
  | 0x53 => some 80
  | 0x59 => some 40
  | 0x60 => some 288
  | 0x68 => some (16 + 16 * u 4 1)
  | 0x69 => some 12
  | 0x70 => some (if (u 1 1).testBit 2 then 40 else max 24 (min p.length 8152))
  | 0x80 => some (16 + 8 * u 0 2)
  | _ => none

/-- The header that firmware copies (R346), its TYPE and its LENGTH. -/
def readMsg (m : Nat) (bs : List Byte) : MsgHdr × Nat × Nat :=
  (⟨m, field bs 0 1, field bs 1 1, field bs 4 4, field bs 12 1, (field bs 13 1).testBit 0, word bs 16⟩, field bs 2 2, field bs 8 4)

end Sys2Proof.Machine
end

