-- ==== Sys2Proof/Machine/Message.lean ====
section
/-! DEFINITION. What every message shares (R342 to R348, R357, R369): where it may come from, the checks of
R347 that its header decides, the response record, and the presence of the host; and the messages HELLO,
HOST_ALIVE, STATUS, CONTEXT_LIST and CAPACITY. -/

namespace Sys2Proof.Machine

/-! ## Status codes (R357) -/

abbrev stOk : Nat := 0
abbrev stNotPrivileged : Nat := 4
abbrev stNotReady : Nat := 5
abbrev stNoContext : Nat := 6
abbrev stContextBusy : Nat := 7
abbrev stContextLimit : Nat := 8
abbrev stInvalidCore : Nat := 9
abbrev stPartitionBusy : Nat := 0xA
abbrev stPartitionUnavailable : Nat := 0xB
abbrev stInvalidPartition : Nat := 0xC
abbrev stNoMemory : Nat := 0xD
abbrev stInvalidAddress : Nat := 0xE
abbrev stInvalidPolicy : Nat := 0xF
abbrev stSliceBusy : Nat := 0x10
abbrev stBadHeader : Nat := 0x11
abbrev stIsaUnsupported : Nat := 0x12
abbrev stFeatureUnsupported : Nat := 0x13
abbrev stInvalidTruss : Nat := 0x14
abbrev stTrussIdInUse : Nat := 0x15
abbrev stTrussExhausted : Nat := 0x16
abbrev stTrussBusy : Nat := 0x17
abbrev stInvalidRegion : Nat := 0x18
abbrev stKeyInUse : Nat := 0x19
abbrev stRegionLimit : Nat := 0x1A
abbrev stInvalidGroup : Nat := 0x1B
abbrev stNotMember : Nat := 0x1C
abbrev stGroupIdInUse : Nat := 0x1D
abbrev stGroupLimit : Nat := 0x1E
abbrev stGroupBusy : Nat := 0x1F
abbrev stSignatureInvalid : Nat := 0x20
abbrev stRollbackRefused : Nat := 0x21
abbrev stNothingStaged : Nat := 0x22
abbrev stActivateDeferred : Nat := 0x23
abbrev stActivationPending : Nat := 0x24
abbrev stStorageError : Nat := 0x25
abbrev stHostAbsentAbort : Nat := 0x26
abbrev stJobFault : Nat := 0x27
abbrev stAborted : Nat := 0x28

/-! ## Types (R354, R430) -/

/-- The mailboxes that accept a type: any, the context's own or 0, 0 alone, or 0 and 15. -/
inductive MbxKind where
  | any | own | priv | debug
  deriving DecidableEq, Repr

/-- A message type: its code, its mailboxes, whether it names a context, whether it is answered before
READY (R342) and in recovery boot (R343), and the firmware pair whose service handles it (R338). -/
structure MsgType where
  code  : Nat
  kind  : MbxKind
  ctx   : Bool := false
  early : Bool := false
  recov : Bool := false
  svc   : Nat := 0
  deriving DecidableEq, Repr

/-! ## Firmware pairs (R338, R339) -/

/-- A firmware pair's state. -/
def pairAt (s : State) (p : Nat) : Pair := look s.fw.pairs {} p

/-- The pair that serves a service now: its own, or the next in service. -/
def pairFor (s : State) (svc : Nat) : Option Nat :=
  ((List.range 4).map (fun i => (svc + i) % 4)).find? (fun p => !(pairAt s p).out)

/-- Whether the services of a pair answer: it is in service and not restarting. -/
def serves (s : State) (svc : Nat) : Bool :=
  match pairFor s svc with
  | some p => !(pairAt s p).restarting
  | none => false

/-! ## Taking a message -/

/-- Whether the outbox is full (R472), or the link is down, which counts as that (R369). -/
def outboxFull (f : Firmware) : Bool := decide (4096 ≤ unconsumed f.outbox) || !f.linkUp

/-- Whether a held message has a header and a type. -/
def heldAs (h : MsgHdr) (t : MsgType) (e : MsgHdr × Nat × List Byte) : Bool := e.1 == h && e.2.1 == t.code

/-- Whether a message may be answered now: one held in its mailbox is the oldest held there, for the responses go out in
submission order (R345), and its fields are those its payload spells. One no mailbox holds comes with its fields. -/
def inOrder (s : State) (i : Instr) (h : MsgHdr) (t : MsgType) : Bool :=
  match (look s.fw.boxes {} h.src).taken with
  | [] => true
  | e :: r => if heldAs h t e then respell i e.2.2 == i else !r.any (heldAs h t)

/-- The mailbox as which a message counts: its own, or for a manager's message mailbox 0 or that of its
context (R348). -/
def boxOf (s : State) (h : MsgHdr) : Option Nat :=
  if h.src < 16 then some h.src
  else match s.net.managers[h.src - 16]? with
    | some (node, priv) =>
      if s.net.attested.any (fun a => a.1 == node) = false ∨ s.fw.stage < 4 then none
      else some (if priv = 1 then 0 else (ctxOf s h.ctx).mailbox)
    | none => none

/-- The mailbox as which firmware takes a message; none where it does not take it now. -/
def takes (s : State) (i : Instr) (h : MsgHdr) (t : MsgType) : Option Nat :=
  if alive s = false ∨ serves s 0 = false ∨ serves s t.svc = false ∨ inOrder s i h t = false then none
  else if h.src < 16 ∧ (outboxFull s.fw ∨ (s.fw.stage < 4 ∧ (s.fw.recoveryBoot = false ∨ h.src ≠ 0))) then none
  else boxOf s h

/-- Check 3: whether a type is allowed on a mailbox. -/
def kindOk (k : MbxKind) (box : Nat) : Bool :=
  match k with
  | .any => true
  | .own => decide (box < 15)
  | .priv => box == 0
  | .debug => box == 0 || box == 15

/-- Whether a context exists. -/
def ctxExists (s : State) (k : Nat) : Bool := decide (k < 64) && (ctxOf s k).st != .free

/-- Check 5: the context exists and is bound to the mailbox. -/
def ctxOk (s : State) (box k : Nat) : Bool :=
  ctxExists s k && (box == 0 || box == 15 || (ctxOf s k).mailbox == box)

/-- The device is READY (R341, R342); during a device recovery it is not (R407). -/
def ready (s : State) : Bool := decide (10 ≤ s.fw.stage) && !s.fw.recovering

/-- Check 6: the device is READY, or the type is answered without. -/
def readyOk (s : State) (t : MsgType) : Bool :=
  if s.fw.recoveryBoot then t.recov else ready s || t.early

/-- Whether check 5 applies: to a type that names a context, and on a mailbox other than 0 and 15 to every
message whose CONTEXT is not 0xFF, no context (R346). -/
def namesCtx (box : Nat) (h : MsgHdr) (t : MsgType) : Bool := t.ctx || (box != 0 && box != 15 && h.ctx != noCtx)

/-- The first of the checks 3, 5 and 6 of R347 that a message fails. -/
def refuses (s : State) (box : Nat) (h : MsgHdr) (t : MsgType) : Option Nat :=
  if kindOk t.kind box = false then some stNotPrivileged
  else if namesCtx box h t && !ctxOk s box h.ctx then some stNoContext
  else if readyOk s t = false then some stNotReady
  else none

/-- The message no longer held unanswered in its mailbox (R345). -/
def untake (s : State) (h : MsgHdr) (t : MsgType) : State :=
  let b := look s.fw.boxes {} h.src
  if b.taken.any (heldAs h t) then
    { s with fw := { s.fw with boxes := put s.fw.boxes h.src { b with
      taken := b.taken.eraseP (heldAs h t), late := b.late.map (fun e => (e.1 - 1, e.2)) } } }
  else s

/-- The response record of a message. -/
def response (h : MsgHdr) (type status : Nat) (result : List Byte) : Rec :=
  ⟨h.seq, type, h.src, h.ctx, status, false, h.tag, padTo 40 result⟩

/-- The response put in line for the outbox, or sent to the manager: exactly one, but for a QUIET message
that completes OK (R345, R348). -/
def respond (s : State) (h : MsgHdr) (type status : Nat) (result : List Byte) : State :=
  let r := response h type status result
  if h.quiet ∧ status = stOk then s
  else if h.src < 16 then { s with fw := putRec s.fw r }
  else { s with net := toManager s.net ((s.net.managers[h.src - 16]?.map (fun e => e.1)).getD 0) r }

/-- The messages of a mailbox that were refused when submitted and have no earlier one left unanswered. -/
def lateDue (s : State) (m : Nat) : List (Nat × MsgHdr × Nat × Nat) :=
  (look s.fw.boxes {} m).late.takeWhile (fun e => e.1 == 0)

/-- Their responses, in submission order (R345). -/
def answerLate (s : State) (m : Nat) : State :=
  match lateDue s m with
  | [] => s
  | es =>
    let b := look s.fw.boxes {} m
    es.foldl (fun s e => respond s e.2.1 e.2.2.1 e.2.2.2 [])
      { s with fw := { s.fw with boxes := put s.fw.boxes m { b with late := b.late.drop es.length } } }

/-- The response of a message, and of the refused ones of its mailbox that waited for it. -/
def answer (s : State) (h : MsgHdr) (type status : Nat) (result : List Byte) : State :=
  answerLate (respond s h type status result) h.src

/-- An accepted message of mailbox 0: the host is present (R369). -/
def present (s : State) (box : Nat) : State :=
  if box ≠ 0 then s
  else
    let s1 : State := { s with fw := { s.fw with lastHost := s.clock.ns } }
    if s.fw.absent = false then s1
    else fire2 (raise { s1 with fw := { s1.fw with absent := false } } 0x0702 clsC noCtx 0 (p8 (s.clock.ns - s.fw.absentAt)))

/-- A message handled: `body` answers the state, the status and the RESULT. -/
def message (i : Instr) (t : MsgType) (h : MsgHdr) (s : State) (body : State → State × Nat × List Byte) : Out :=
  match takes s i h t with
  | none => .next s
  | some box =>
    let s0 := untake s h t
    match refuses s box h t with
    | some st => .next (answer s0 h t.code st [])
    | none =>
      let r := body s0
      .next (present (answer r.1 h t.code r.2.1 (if r.2.1 = stOk then r.2.2 else [])) box)

/-- The mailboxes that accept a message type (R354, R430). -/
def typeKind (type : Nat) : MbxKind :=
  if type = 0x01 ∨ type = 0x03 ∨ type = 0x05 then .any
  else if type = 0x81 then .priv
  else if 0x80 ≤ type then .debug
  else if type = 0x04 ∨ (0x13 ≤ type ∧ type ≤ 0x39) ∨ type = 0x61 ∨ type = 0x62 then .own
  else .priv

/-- The first of checks 1 to 4 of R347 that a message on a mailbox fails. -/
def submitRefusal (minor box : Nat) (h : MsgHdr) (type len : Nat) (payload : List Byte) : Option Nat :=
  if h.verMajor ≠ 3 then some 2
  else match payloadLength type (payload.take len) with
    | none => some 1
    | some n =>
      if kindOk (typeKind type) box = false then some stNotPrivileged
      else if 8160 < len ∨ len < n ∨ (n < len ∧ h.verMinor ≤ minor) then some 3
      else none

/-- A message taken in from a mailbox or a manager and held until it is answered. One that checks 1 to 4 refuse is
answered at once, or after the messages submitted before it (R345). -/
def submitTo (s : State) (m : Nat) (x : MsgHdr × Nat × Nat) (payload : List Byte) : State :=
  let b := look s.fw.boxes {} m
  let set := fun (b : Mailbox) => ({ s with fw := { s.fw with boxes := put s.fw.boxes m b } } : State)
  match submitRefusal s.fw.msgMinor ((boxOf s x.1).getD m) x.1 x.2.1 x.2.2 payload with
  | some st =>
    if b.taken = [] then answer s x.1 x.2.1 st [] else set { b with late := b.late ++ [(b.taken.length, x.1, x.2.1, st)] }
  | none => set { b with taken := b.taken ++ [(x.1, x.2.1, payload.take x.2.2)] }

/-- A message refused by the checks of its type: nothing changes. -/
def deny (s : State) (status : Nat) : State × Nat × List Byte := (s, status, [])

/-- A message done. -/
def done (s : State) (result : List Byte) : State × Nat × List Byte := (s, stOk, result)

/-! ## HELLO (R352) -/

def tHello : MsgType := { code := 0x0001, kind := .any, early := true, recov := true }

/-- Whether an activated image awaits commit or rollback (R376, R468). -/
def onTrial (s : State) : Bool := s.fw.updates.any (fun e => e.2.phase == 4)

/-- Boot progress in percent (R341, R443, R482). -/
def bootPercent (s : State) : Nat := if 10 ≤ s.fw.stage then 100 else percentOf s.fw.progPos 1000

/-- Contexts in existence. -/
def ctxCount (s : State) : Nat := (ctxNums.filter (fun k => ctxExists s k)).length

/-- The RESULT of HELLO. -/
def helloResult (s : State) (absentBefore : Bool) : List Byte :=
  leBytes 2 s.fw.fwMajor ++ leBytes 2 s.fw.fwMinor ++ p4 s.fw.fwPatch ++ leBytes 1 s.fw.msgMinor ++ leBytes 1 s.fw.stage
    ++ leBytes 1 (bootPercent s)
    ++ leBytes 1 (b1 s.power.emActive + 2 * b1 absentBefore + 4 * b1 (onTrial s))
    ++ p4 s.fw.compatId ++ leBytes 1 (ctxCount s)

/-- The record types that a new ring takes over from the old one. -/
def rewritten (r : Rec) : Bool := r.type == 0x8001 || r.type == 0x8004

/-- A new ring (R352): the response, REATTACH, the LAUNCH_DONE and FW_STATE records the host had not
consumed, and then what was held. -/
def newRing (s : State) (addr : Nat) (resp : List Rec) : State :=
  let o := s.fw.outbox
  let re : Rec := ⟨0, 0x8006, 0xFF, noCtx, 0, true, 0, padTo 40 (p4 o.notWritten ++ p4 (unconsumed o) ++ p8 s.clock.ns)⟩
  { s with fw := { s.fw with outbox := { o with
      addr := addr, prod := 0, cons := 0, notWritten := 0, ring := [], full := false, oldest := none
      waiting := resp ++ [re] ++ o.ring.filter rewritten ++ o.waiting } } }

/-- HELLO. -/
def execHello (h : MsgHdr) (outboxAddr threshold : Nat) (rsv : Bool) (s : State) : Out :=
  match takes s (.hello h outboxAddr threshold rsv) h tHello with
  | none => .next s
  | some box =>
    let s0 := untake s h tHello
    match refuses s box h tHello with
    | some st => .next (answer s0 h 1 st [])
    | none =>
      if 4096 < threshold ∨ rsv ∨ outboxAddr % 4096 ≠ 0 then .next (present (answer s0 h 1 stInvalidPolicy []) box)
      else
        let res := helloResult s s.fw.absent
        let s1 : State := { s0 with fw := { s0.fw with outbox := { s0.fw.outbox with
          threshold := if threshold = 0 then s0.fw.outbox.threshold else threshold } } }
        if box = 0 ∧ outboxAddr ≠ 0 ∧ h.src < 16 then
          .next (present (answerLate (newRing s1 outboxAddr (if h.quiet then [] else [response h 1 stOk res])) h.src) box)
        else .next (present (answer s1 h 1 stOk res) box)

/-! ## The plain types -/

/-- HOST_ALIVE (R369): TIMEOUT_S from 2 to 60, 0 keeps. -/
def execHostAlive (h : MsgHdr) (timeoutS : Nat) (rsv : Bool) (s : State) : Out :=
  message (.hostAlive h timeoutS rsv) { code := 0x0002, kind := .priv } h s (fun s =>
    if rsv then deny s stInvalidPolicy else
    if timeoutS ≠ 0 ∧ (timeoutS < 2 ∨ 60 < timeoutS) then deny s stInvalidPolicy
    else done { s with fw := { s.fw with timeoutS := if timeoutS = 0 then s.fw.timeoutS else timeoutS } } (p8 s.clock.ns))

/-- The RESULT of STATUS (R482); before SERVICES the layout is the whole partition. -/
def statusResult (s : State) : List Byte :=
  leBytes 1 s.fw.stage ++ leBytes 1 (bootPercent s)
    ++ leBytes 1 (b1 s.power.emActive + 2 * b1 s.fw.absent + 4 * b1 (onTrial s) + 8 * b1 s.fw.recovering) ++ [0]
    ++ (List.range 16).flatMap (fun b => leBytes 1 (if s.fw.stage < 9 then 0 else partOfBay s.place b))

/-- STATUS. -/
def execStatus (h : MsgHdr) (s : State) : Out :=
  message (.status h) { code := 0x0003, kind := .any, early := true, recov := true } h s (fun s => done s (statusResult s))

/-- The RESULT of CONTEXT_LIST on a mailbox: mailbox 0 sees every context. -/
def ctxListResult (s : State) (box : Nat) : List Byte :=
  let sees := fun (k : Nat) => ctxExists s k && (box == 0 || (ctxOf s k).mailbox == box)
  let nib := fun (k : Nat) => if sees k then ctxCode (ctxOf s k).st else 0
  p8 ((ctxNums.map (fun k => if sees k then 2 ^ k else 0)).sum)
    ++ (List.range 32).flatMap (fun i => leBytes 1 (nib (2 * i) + 16 * nib (2 * i + 1)))

/-- CONTEXT_LIST. -/
def execContextList (h : MsgHdr) (s : State) : Out :=
  message (.contextList h) { code := 0x0004, kind := .own } h s (fun s' =>
    done s' (ctxListResult s' ((boxOf s' h).getD 0)))

/-! ## CAPACITY (R355) -/

/-- The working groups and spare lanes left of a join. -/
def joinWord (ch : Chain) (j : Nat) : Nat := (liveGroups ch j).length + 256 * (freeSpares ch j).length

/-- The figures of the report at 0x00, or those of a partition from its fourth byte. -/
def capBytes (c : Capacity) : List Byte :=
  leBytes 2 c.dedicated ++ leBytes 2 c.shadowed ++ leBytes 2 c.free ++ leBytes 2 c.failed ++ leBytes 2 c.retired
    ++ leBytes 2 (2 * c.dedicated + c.shadowed)

/-- The head of the report, bytes 0x00 to 0x0F. -/
def capHead (s : State) : List Byte := capBytes (capacity s) ++ leBytes 1 (partNums s.place).length ++ [0, 0, 0]

/-- The whole report. -/
def capReport (s : State) : List Byte :=
  capHead s ++ (List.range 8).flatMap (fun n => p4 (usableMib s n)) ++ (List.range 16).flatMap (fun j => p4 (joinWord s.chain j))
    ++ (partNums s.place).flatMap (fun p =>
      leBytes 1 p ++ leBytes 1 (b1 (!(partSt s.place p).unavailable)) ++ capBytes (capacityOf s (baysOf s.place p)) ++ [0, 0])

/-- Bytes written to host memory. -/
def hostWrite (s : State) (addr : Nat) (bs : List Byte) : State := { s with host := { s.host with hostWr := s.host.hostWr ++ [(addr, bs)] } }

/-- CAPACITY. -/
def execCapacity (h : MsgHdr) (hostAddr : Nat) (rsv : Bool) (s : State) : Out :=
  message (.capacity h hostAddr rsv) { code := 0x0005, kind := .any, early := true } h s (fun s =>
    if rsv then deny s stInvalidPolicy
    else if hostAddr = 0 then done s (capHead s ++ p4 0)
    else done (hostWrite s hostAddr (capReport s)) (capHead s ++ p4 (capReport s).length))

end Sys2Proof.Machine
end

