-- ==== Sys2Proof/Machine/Transmit.lean ====
section
/-! DEFINITION. Packets on their way (R260, R262, R268, R269, R271): which packet of a session goes next and by which
path, the window, the pace and the regulator; what is delivered inside the die; and what a WRITE does at its target:
in a region, in a mirror slot, or as a message of a manager (R348). -/

namespace Sys2Proof.Machine

/-! ## WRITE at its target (R267, R268, R272) -/

/-- The bytes of a message from its blocks, by OFFSET. -/
def joinParts (l : List (Nat × List Byte)) (n : Nat) : List Byte :=
  (List.range n).map (fun i => match l.find? (fun p => decide (p.1 ≤ i) && decide (i < p.1 + p.2.length)) with
    | some p => nth p.2 (i - p.1) 0
    | none => 0)

/-- Whether blocks cover the first `n` bytes of a message. -/
def partsCover (l : List (Nat × List Byte)) (n : Nat) : Bool := runsCover (l.length + 1) (l.map (fun p => (p.1, p.2.length))) 0 n

/-- A block of a message of manager `m`: with the last of its blocks the message is taken in. -/
def managerBlock (s : State) (m : Nat) (h : FHdr) (pay : List Byte) : State :=
  let same := fun (x : Incoming) => x.node == h.srcNode && x.opId == h.opId
  let parts := ((s.net.incoming.find? same).map (fun x => x.parts)).getD [] ++ [(h.offset, pay)]
  let rest := s.net.incoming.filter (fun x => !same x)
  let x := readMsg (16 + m) (joinParts parts 32)
  if partsCover parts 32 && partsCover parts (32 + x.2.2) then
    submitTo { s with net := { s.net with incoming := rest } } (16 + m) x ((joinParts parts (32 + x.2.2)).drop 32)
  else { s with net := { s.net with incoming := rest ++ [⟨h.srcNode, h.opId, parts⟩] } }

/-- A block for a manager's messages: of an attested manager node, as long as fewer than 64 messages are held. -/
def managerLand (s : State) (h : FHdr) (pay : List Byte) : Landed :=
  match s.net.managers.findIdx? (fun e => e.1 == h.srcNode) with
  | none => .done s 0
  | some m =>
    if s.net.attested.any (fun a => a.1 == h.srcNode) = false ∨ 8192 < h.offset + pay.length then .done s 0
    else if 64 ≤ (look s.fw.boxes {} (16 + m)).taken.length then .later
    else .done (managerBlock s m h pay) 0

/-- A block for a mirror slot held for the partner: the slot holds no epoch until it is whole (R397). -/
def mirrorLand (s : State) (h : FHdr) (pay : List Byte) (poi : BitVec 64) : Landed :=
  match twinCtx s h.opAux h.srcNode with
  | none => .done s 2
  | some k =>
    match (ctxOf s k).twin with
    | none => .done s 2
    | some t =>
      match mirrorAt t (h.key - 1) h.offset, mirrorAt t (h.key - 1) (h.offset + pay.length - 1) with
      | some d, some _ =>
        let s1 := (blockWrs d h.offset pay poi).foldl (fun s w => writeDpa s w.va w.bs w.poi) s
        .done (setCtx s1 k { ctxOf s1 k with twin := some { t with
          landing := some (h.key - 1), mirrors := t.mirrors.set (h.key - 1) 0
          fill := if t.landing = some (h.key - 1) then t.fill + pay.length else pay.length } }) 0
      | _, _ => .done s 2

/-- A WRITE of a firmware session: a message of a manager, a message of another device's firmware (its effect is a
command of its own), or a block for a mirror slot. -/
def firmwareLand (s : State) (h : FHdr) (pay : List Byte) (poi : BitVec 64) : Landed :=
  if h.key = 0xFFFF_FFFF then managerLand s h pay
  else if h.key = 0xFFFF_FFFE then .done s 0
  else if h.cls = clMirror ∧ (h.key = 1 ∨ h.key = 2) then mirrorLand s h pay poi
  else .done s 2

/-- WRITE. -/
def execFurlongWriteReceive (k : Packet) (s : State) : Out :=
  let h := k.hdr
  .next (receive s k opWrite (fun c => match c with
    | none => firmwareLand s h k.payload k.poison
    | some c => regionLand s c h k.payload.length (fun r => r.rwrite)
        (fun r => (writeVas s c 320 (blockWrs (r.base + h.offset) h.offset k.payload k.poison)).map
          (fun t => netTouch t c (r.base + h.offset) k.payload.length true))))

/-! ## Within the device (R260) -/

/-- The state an outcome answers; none answers another. -/
def outState (s : State) (o : Out) : State :=
  match o with
  | .next t => t
  | _ => s

/-- A packet received by the command of its opcode. -/
def handOver (s : State) (k : Packet) : State :=
  outState s (match k.hdr.opc with
    | 0 => execFurlongWriteReceive k s
    | 1 => execReadReqReceive k s
    | 2 => execReadRespReceive k s
    | 3 => execRemoteTrussArrival k s
    | 4 => execSendReceive k s
    | 5 => match k.hdr.opAux / 0x1000_0000 with
      | 0 => execCollReady k s
      | 1 => execCollData k s
      | 2 => execCollPartial k s
      | 3 => execCollResult k s
      | 4 => execCollCheck k s
      | 5 => execCollRepair k s
      | 6 => execCollAbort k s
      | 7 => execCollRevoke k s
      | _ => execCollDone k s
    | _ => .next s)

/-- A packet to the own node delivered, and its acknowledgement taken in. -/
def handOwn (s : State) (own : Nat) (k : Packet) : State :=
  let s1 := handOver s k
  let x := sessOf s1 own
  sackIn (setSess s1 own (sackGone x)) own (sackOf x)

/-! ## Sending (R262, R268, R269, R271) -/

/-- Bytes of a session sent and not acknowledged. -/
def inFlightBytes (x : Session) : Nat := (x.unacked.map (fun e => e.pkt.payload.length)).sum

/-- The lost packet that is resent next: ATOMIC, SEND and class COLLECTIVE before the others. -/
def nextLost (x : Session) : Option Sent :=
  let l := x.unacked.filter (fun e => e.lost)
  match l.find? (fun e => e.pkt.hdr.opc == opAtomic || e.pkt.hdr.opc == opSend || e.pkt.hdr.cls == clColl) with
  | some e => some e
  | none => l.head?

/-- The next path in turn that is not suspended; every one counts where all are (R262). -/
def pickPath (x : Session) (now : Nat) : Nat :=
  let n := max x.paths 1
  let l := (List.range n).map (fun i => (x.nextPath + i) % n)
  (l.find? (fun p => !(has x.suspended p && decide (now < look x.suspended 0 p)))).getD (x.nextPath % n)

/-- When the pace CWND / SRTT lets the packet after one of `n` bytes go (R271). -/
def paceNext (x : Session) (now n : Nat) : Nat := max now x.paceAt + n * x.srtt / max x.cwnd 1

/-- The network grains a packet is charged (R99): SERVICE traffic is not regulated. -/
def netGrains (p : Packet) : Nat := if p.hdr.cls = clService then 0 else (p.payload.length + 63) / 64

/-- Whether the regulator lets a packet go, and the state charged (R100): the mirror service has a
budget of its own. -/
def netCharge (s : State) (p : Packet) : Option State :=
  let g := netGrains p
  if g = 0 then some s
  else if p.hdr.cls = clMirror then
    (if s.fw.mirrorLevel ≤ 0 then none else some { s with fw := { s.fw with mirrorLevel := s.fw.mirrorLevel - g } })
  else match jobCtx s p.hdr.jobId with
    | none => some s
    | some k =>
      let x := ctxOf s k
      if x.levelNet ≤ 0 then none else some (setCtx s k { x with levelNet := x.levelNet - g })

/-- Counts of a packet that leaves: payload bytes for its session, context and port, and a resending. -/
def countSent (s : State) (p : Packet) (peer : Nat) (port : Option Nat) (again : Bool) : State :=
  let n := p.payload.length
  let s1 := bump s 4 peer 0x67 n
  let s2 := match port with | some q => bump s1 6 q 0x67 n | none => s1
  let s3 := match jobCtx s p.hdr.jobId with
    | some k => let t := bump s2 1 k 0x67 n
                if again then bump t 1 k 0x66 1 else t
    | none => s2
  if again then bump s3 4 peer 0x66 1 else s3

/-- A header as it is sent: its path, its origin and its CRC. -/
def sealHdr (h : FHdr) (path origin : Nat) (again : Bool) : FHdr :=
  let g := { h with path := path, origin := origin, retrans := again }
  { g with hcrc := hcrcOf g }

/-- A packet on the wire, or to the own node inside the die. -/
def transmit (s : State) (p : Packet) (peer : Nat) (w : Way) (again : Bool) : State :=
  match s.net.identity, w with
  | some i, .go port a mac => emitFrame (countSent s p peer (some port) again) (furlongFrame s i port a mac p)
  | _, _ => handOwn (countSent s p peer none again) peer p

/-- The port of a way. -/
def wayPort : Way → Option Nat
  | .go port _ _ => some port
  | _ => none

/-- What a packet that finds no way does: it waits for the MAC address it asks for or for a port, or the peer is
lost for want of a route (R261). -/
def noWay (s : State) (peer path : Nat) : State :=
  match wayTo s peer path with
  | .noRoute => losePeer s peer lossOpen
  | _ => askFor s peer path

/-- Whether a way leads somewhere. -/
def wayOpen : Way → Bool
  | .go _ _ _ => true
  | .inside => true
  | _ => false

/-- A lost packet sent again on the next path; nothing older than 4 ms is sent (R274). -/
def resend (s : State) (peer : Nat) (x : Session) (e : Sent) : State :=
  let path := pickPath x s.clock.ns
  let w := wayTo s peer path
  if e.pkt.hdr.origin + 4000000 ≤ s.clock.ns ∨ s.clock.ns < x.paceAt then s
  else if wayOpen w then
    let p : Packet := { e.pkt with hdr := sealHdr e.pkt.hdr path e.pkt.hdr.origin true }
    let y : Session := { x with
      nextPath := (path + 1) % max x.paths 1, paceAt := paceNext x s.clock.ns p.payload.length
      unacked := x.unacked.map (fun u => if u.pkt.hdr.psn = e.pkt.hdr.psn then ⟨p, wayPort w, path, s.clock.ns, u.tries + 1, false⟩ else u) }
    transmit (setSess s peer y) p peer w true
  else noWay s peer path

/-- A new packet sent, within the window of 8,192 packets and CWND, the pace and the regulator's level. -/
def sendNew (s : State) (peer : Nat) (x : Session) (p : Packet) (r : List Packet) : State :=
  let path := pickPath x s.clock.ns
  let w := wayTo s peer path
  if 8192 ≤ x.unacked.length ∨ x.cwnd < inFlightBytes x + p.payload.length ∨ s.clock.ns < x.paceAt then s
  else if wayOpen w then
    match netCharge s p with
    | none => s
    | some s1 =>
      let q : Packet := { p with hdr := sealHdr p.hdr path s.clock.ns false }
      let y : Session := { x with
        nextPath := (path + 1) % max x.paths 1, paceAt := paceNext x s.clock.ns q.payload.length, queue := r
        unacked := x.unacked ++ [⟨q, wayPort w, path, s.clock.ns, 0, false⟩] }
      transmit (setSess s1 peer y) q peer w false
  else noWay s peer path

/-- A record for a manager put in line as a firmware WRITE of 64 bytes (R348). -/
def sendRecord (peer : Nat) (s : State) (r : Rec) : State :=
  enqueue s (firmware peer clService 0 noFlight opWrite (some r.seq)) [{ key := 0xFFFF_FFFF, payload := recordBytes r 1 }]

/-- The records that wait for a manager node put in line. -/
def flushRecords (s : State) (peer : Nat) : State :=
  let l := (s.net.records.filter (fun e => e.1 == peer)).map (fun e => e.2)
  l.foldl (sendRecord peer) { s with net := { s.net with records := s.net.records.filter (fun e => e.1 != peer) } }

/-- The next packet of a session: a lost one before a new one. -/
def execPacketSend (peer : Nat) (s : State) : Out :=
  if alive s = false then .next s
  else
    let s1 := flushRecords s peer
    let x := sessOf s1 peer
    if x.isOpen = false then .next s1
    else match nextLost x with
      | some e => .next (resend s1 peer x e)
      | none => match x.queue with
        | [] => .next s1
        | p :: r => .next (sendNew s1 peer x p r)

end Sys2Proof.Machine
end

