-- ==== Sys2Proof/Machine/Contexts.lean ====
section
/-! DEFINITION. The messages about contexts: their life and policy (R358, R359, R481, R370), their launches
(R39 to R41, R362, R363), numeric and watchdog settings (R165, R186, R237), and host absence (R369,
R370). -/

namespace Sys2Proof.Machine

/-! ## Save images (R368, R478) -/

/-- Bytes of a save image: 4,192 KiB; its home is three pages of 2 MiB. -/
abbrev imageBytes : Nat := 4292608
abbrev homeBytes : Nat := 3 * Config.page2

/-- A home reserved for the image of one core; none when the partition's stacks have no room. -/
def reserveHome (s : State) (k part n : Nat) : Option State :=
  match takeHbm s (stacksOf s.place part) s.mem.allocs homeBytes (Config.pageStart s.mem.allocs) with
  | none => none
  | some a =>
    let m := clearMem s.mem a homeBytes
    let ps := (List.range 3).map (fun i => a + i * Config.page2)
    some (setCtx { s with mem := { m with fwRanges := m.fwRanges ++ ps.map (fun p => (p, Config.page2)), allocs := m.allocs + 1 } } k
      { ctxOf s k with imgHome := put (ctxOf s k).imgHome n ps })

/-- Homes reserved for every core of a partition. -/
def reserveHomes (s : State) (k part : Nat) : Option State :=
  (coresOf s.place part).foldlM (fun s n => reserveHome s k part n) s

/-- The images of a context put on free Thatch slices of its partition, three to a slice. -/
def imagesToThatch (s : State) (k part : Nat) : State :=
  let slots := ((slicesOf s.place part).filter (sliceFree s)).flatMap (fun i => (List.range 3).map (fun j => (i, sliceBase i + j * imageBytes)))
  ((coresOf s.place part).zip slots).foldl (fun s e =>
    let x := ctxOf s k
    let s1 := setSlice s e.2.1 .firmware
    setCtx { s1 with mem := clearMem s1.mem e.2.2 imageBytes } k { x with imgThatch := put x.imgThatch e.1 e.2.2 }) s

/-- The save images of a context released; FIRMWARE slices left empty return to SOFTWARE. -/
def releaseImages (s : State) (k : Nat) : State :=
  let x := ctxOf s k
  let homes := (x.imgHome.flatMap (fun e => e.2)).map (fun a => (a, Config.page2))
  let sl := (x.imgThatch.map (fun e => sliceOf e.2)).foldl addNat []
  let s1 := setCtx { s with mem := { s.mem with fwRanges := s.mem.fwRanges.filter (fun r => !homes.elem r) } } k
    { x with imgHome := [], imgThatch := [] }
  sl.foldl (fun s i => if (imagesOn s i).isEmpty ∧ sliceMode s.mem i = .firmware then setSlice s i .software else s) s1

/-! ## CONTEXT_CREATE (R358) -/

/-- Whether a context policy names a route that exists: with NETWORK a node of the manager table. -/
def routeOk (s : State) (route manager : Nat) : Bool :=
  (route == 0 && manager == 0) || (route == 1 && s.net.managers.any (fun e => e.1 == manager && decide (0 < e.1)))

/-- The lowest free context number. -/
def freeCtx (s : State) : Option Nat := ctxNums.find? (fun k => (ctxOf s k).st == .free)

/-- The counters of a context set to 0 (R427). -/
def clearCtxCounters (o : Observe) (k : Nat) : Observe :=
  { o with counters := o.counters.filter (fun e => !(decide (counterKey 1 k 0 ≤ e.1) && decide (e.1 < counterKey 1 (k + 1) 0))) }

/-- CONTEXT_CREATE. -/
def execContextCreate (h : MsgHdr) (part mbx hostLoss route job manager watchdog : Nat) (rsv : Bool) (s : State) : Out :=
  message (.contextCreate h part mbx hostLoss route job manager watchdog rsv) { code := 0x0010, kind := .priv } h s (fun s =>
    match freeCtx s with
    | none => deny s stContextLimit
    | some k =>
      if (partNums s.place).elem part = false then deny s stInvalidPartition
      else if (partSt s.place part).unavailable then deny s stPartitionUnavailable
      else if mbx = 0 ∨ 14 < mbx ∨ 2 < hostLoss ∨ job = 0 ∨ 0xFFFF_FFFF < job ∨ 60000 < watchdog ∨ rsv ∨ routeOk s route manager = false then
        deny s stInvalidPolicy
      else
        let x : Ctx := {
          part := part, mailbox := mbx, hostLoss := hostLoss, route := route, jobId := job, manager := manager
          watchdogMs := if watchdog = 0 then 100 else watchdog }
        let s0 := setCtx { s with cores := s.cores.filter (fun e => e.1 / 512 != k), obs := clearCtxCounters s.obs k } k { x with st := .idle }
        match reserveHomes s0 k part with
        | none => deny s stNoMemory
        | some s1 => done (changeCtx (imagesToThatch s1 k part) k .idle 0) (leBytes 1 k))

/-! ## Ending a launch -/

/-- The stream work of a context landed, as by CANCEL and then FENCE (R97, R359). -/
def landAll (s : State) (k : Nat) : State :=
  (launchCores (ctxOf s k)).foldl (fun s n => landCore s k n (fun _ => true)) s

/-- The launch of a context ended with a status, its stream work landed first. -/
def stopLaunch (s : State) (k status : Nat) : State :=
  if (ctxOf s k).launched then
    let x := ctxOf s k
    let s1 := landAll s k
    let s2 := if x.st = .running then
        traceCat s1 2 k 0xFFFF 0 0x31 0 x.part (leBytes 1 (if status = stHostAbsentAbort then 3 else 1))
      else s1
    endLaunch s2 k status
  else s

/-- Pages of firmware HBM given back. -/
def freePages (s : State) (l : List Nat) : State :=
  { s with mem := { s.mem with fwRanges := s.mem.fwRanges.filter (fun r => !l.elem r.1) } }

/-- Bindings of a context ended now, kept for the lifetime of packets (R274). -/
def noteUnbound (s : State) (k : Nat) (l : List (Nat × Nat × Nat)) : State :=
  let live := s.net.unbound.filter (fun u => decide (s.clock.ns < u.time + 4000000))
  { s with net := { s.net with unbound := live ++ l.map (fun e => ⟨(ctxOf s k).jobId, e.1, e.2.1, e.2.2, s.clock.ns⟩) } }

/-- Whether an identifier of a context and a generation were bound within the last 4 ms (R219, R274, R284): firmware
then holds the message that would bind them again. -/
def boundLately (s : State) (k kind id : Nat) (bound ever : Bool) (gen : Nat) : Bool :=
  !bound && s.net.unbound.any (fun u => u.job == (ctxOf s k).jobId && u.kind == kind && u.id == id
    && u.gen == (if ever then (gen + 1) % 0x1_0000 else 0) && decide (s.clock.ns < u.time + 4000000))

/-- The bindings a context holds. -/
def bindingsOf (x : Ctx) : List (Nat × Nat × Nat) :=
  (x.trusses.filter (fun e => e.2.bound)).map (fun e => (0, e.1, e.2.bgen))
    ++ (x.regions.filter (fun e => e.2.bound)).map (fun e => (1, e.1, e.2.keyGen))
    ++ (x.groups.filter (fun e => e.2.bound)).map (fun e => (2, e.1, e.2.ggen))

/-- The remote keys of a context's storage requests withdrawn. -/
def dropKeys (s : State) (x : Ctx) : State :=
  let keys := x.storage.flatMap (fun r => r.keys)
  { s with net := { s.net with rkeys := s.net.rkeys.filter (fun e => !keys.elem e.1) } }

/-- The resources of a context released and the context FREE (R359); the end of its job is remembered for
the lifetime of packets (R273). -/
def freeContext (s : State) (k : Nat) : State :=
  let s0 := noteUnbound s k (bindingsOf (ctxOf s k))
  let s1 := dropKeys (freePages (releaseImages s0 k) (ctxOf s k).ckpt.pages.flatten) (ctxOf s k)
  let s2 := changeCtx s1 k .free 0
  { s2 with
    ctxs := drop s2.ctxs k
    cores := s2.cores.filter (fun e => e.1 / 512 != k)
    net := { s2.net with ended := s2.net.ended.filter (fun e => decide (s.clock.ns ≤ e.2 + 4000000)) ++ [((ctxOf s k).jobId, s.clock.ns)] } }

/-- The pairing of a context ended from this side: the partner raises TWIN_UNPAIRED (R395). -/
def unpair (s : State) (k : Nat) : State :=
  match (ctxOf s k).twin with
  | some t =>
    let s1 := setCtx (freePages s t.pages.flatten) k { ctxOf s k with twin := none }
    if t.paired then fwSend s1 t.node fwUnpair [(ctxOf s k).jobId] else s1
  | none => s

/-- CONTEXT_DESTROY: stopped as by CONTEXT_STOP, then everything released. -/
def execContextDestroy (h : MsgHdr) (s : State) : Out :=
  message (.contextDestroy h) { code := 0x0011, kind := .priv, ctx := true } h s (fun s =>
    let k := h.ctx
    let s1 := endHandling (changeCtx (unpair (stopLaunch s k stAborted) k) k .destroying 0) (fun g => g.ctx == k)
    done (freeContext s1 k) [])

/-- CONTEXT_POLICY (R481). -/
def execContextPolicy (h : MsgHdr) (hostLoss route manager : Nat) (rsv : Bool) (s : State) : Out :=
  message (.contextPolicy h hostLoss route manager rsv) { code := 0x0012, kind := .priv, ctx := true } h s (fun s =>
    if 2 < hostLoss ∨ rsv ∨ routeOk s route manager = false then deny s stInvalidPolicy
    else done (setCtx s h.ctx { ctxOf s h.ctx with hostLoss := hostLoss, route := route, manager := manager }) [])

/-- CONTEXT_STOP. -/
def execContextStop (h : MsgHdr) (s : State) : Out :=
  message (.contextStop h) { code := 0x0014, kind := .own, ctx := true } h s (fun s => done (stopLaunch s h.ctx stAborted) [])

/-- CONTEXT_RESUME: a paused context is RUNNABLE again (R370); one that is not paused is busy, and none is resumed
in an unavailable partition (R26). -/
def execContextResume (h : MsgHdr) (s : State) : Out :=
  message (.contextResume h) { code := 0x0013, kind := .own, ctx := true } h s (fun s =>
    let k := h.ctx
    let x := ctxOf s k
    if x.st ≠ .paused then deny s stContextBusy
    else if (partSt s.place x.part).unavailable then deny s stPartitionUnavailable
    else
      let s1 := mapCores (watchTick s k) k (fun _ c => { c with paused := false })
      let s2 := setCtx s1 k { ctxOf s1 k with pauseReq := false }
      done (schedule (changeCtx s2 k .runnable 0) x.part) [])

/-- CONTEXT_ENERGY: the counter in µJ (R326). -/
def execContextEnergy (h : MsgHdr) (s : State) : Out :=
  message (.contextEnergy h) { code := 0x0015, kind := .own, ctx := true } h s (fun s =>
    done s (p8 ((ctxOf s h.ctx).energy / 1000) ++ p8 s.clock.ns))

/-! ## LAUNCH (R37 to R41, R362, R363) -/

/-- A program header as LAUNCH reads it. -/
structure Header where
  magic    : Nat
  level    : Nat
  version  : Nat
  codeSize : Nat
  entry    : Nat
  features : Nat
  rsv      : Bool
  deriving DecidableEq, Repr

/-- The 64 bytes of a header. -/
def readHeader (s : State) (k va : Nat) : Option Header :=
  match controlRead s k 320 va 64 with
  | .error _ => none
  | .ok b =>
    let f := fun (i n : Nat) => leNat ((b.drop i).take n)
    some ⟨f 0 4, f 4 1, f 5 1, f 8 4, f 12 4, f 16 4, f 6 2 != 0 || (b.drop 24).any (fun x => x != 0)⟩

/-- The first check of R40 a header fails. -/
def headerStatus (x : Header) : Nat :=
  if x.magic ≠ 0x4A58_4254 ∨ x.version ≠ 1 ∨ x.codeSize % 8 ≠ 0 ∨ 0x100_0000 < x.codeSize
      ∨ x.entry % 8 ≠ 0 ∨ x.entry < 64 ∨ 64 + x.codeSize < x.entry + 8 then stBadHeader
  else if x.level ≠ 2 ∧ x.level ≠ 3 then stIsaUnsupported
  else if 256 ≤ x.features then stFeatureUnsupported
  else stOk

/-- A list without repeats. -/
def distinct (l : List Nat) : Bool := (l.foldl addNat []).length == l.length

/-- The first check of R363 a launch fails, taken over every entry. -/
def launchStatus (s : State) (k : Nat) (entries : List LaunchEntry) (rsv : Bool) : Nat :=
  let x := ctxOf s k
  let sts := entries.map (fun e => match readHeader s k e.headerVa with | some hd => headerStatus hd | none => stInvalidAddress)
  if rsv ∨ entries = [] ∨ 320 < entries.length ∨ entries.any (fun e => e.rsv) then stInvalidPolicy
  else if x.st ≠ .idle ∨ x.heldDone ∨ x.heldLaunch then stContextBusy
  else if (partSt s.place x.part).unavailable then stPartitionUnavailable
  else if entries.any (fun e => !inPartition s k e.lcore) ∨ distinct (entries.map (fun e => e.lcore)) = false then stInvalidCore
  else if sts.any (fun t => t == stInvalidAddress) then stInvalidAddress
  else (sts.find? (fun t => t != stOk)).getD stOk

/-- A core at entry to its program (R37); its breakpoints, accumulators and status page stay. -/
def entryCore (s : State) (k : Nat) (e : LaunchEntry) (i n : Nat) : Core :=
  let old := coreOf s k e.lcore
  let x := ctxOf s k
  match readHeader s k e.headerVa with
  | some hd => {
      sregs := [(1, e.argVa), (2, BitVec.ofNat 64 e.lcore), (3, BitVec.ofNat 64 i), (4, BitVec.ofNat 64 n)]
      pc := BitVec.ofNat 64 (e.headerVa + hd.entry)
      stepNo := BitVec.ofNat 32 x.stepNo, level := hd.level, active := true
      bps := old.bps, acc := old.acc, stat := old.stat }
  | none => old

/-- Every core of a launch started and the context RUNNABLE. -/
def startLaunch (s : State) (k : Nat) (entries : List LaunchEntry) : State :=
  let now := s.clock.ns
  let s1 := entries.zipIdx.foldl (fun t e => setCore t k e.1.lcore (entryCore s k e.1 e.2 entries.length)) s
  let s2 := setCtx s1 k { ctxOf s1 k with
    launch := entries, launched := true, heldLaunch := false, firstFault := none, faultSeq := 0
    lastProgress := now, watchBase := now, watchAt := now, pauseReq := false, haltReq := 0 }
  schedule (changeCtx s2 k .runnable 0) (ctxOf s2 k).part

/-- Whether an entry's header has a nonzero reserved field, which makes the result unpredictable (R40). -/
def headerRsv (s : State) (k : Nat) (entries : List LaunchEntry) : Bool :=
  entries.any (fun e => match readHeader s k e.headerVa with | some hd => hd.rsv | none => false)

/-- Whether a TWIN_SET with REPLACE is pending on a context (R399). -/
def replacePending (x : Ctx) : Bool :=
  match x.twin with
  | some t => t.replace
  | none => false

def tLaunch : MsgType := { code := 0x0020, kind := .own, ctx := true }

/-- Whether a LAUNCH message passes every check. -/
def launchOk (s : State) (h : MsgHdr) (entries : List LaunchEntry) (rsv : Bool) : Bool :=
  match takes s (.launch h entries rsv) h tLaunch with
  | none => false
  | some box => (refuses s box h tLaunch).isNone && launchStatus s h.ctx entries rsv == stOk

/-- A replacement announces its addresses on every port that is up, by gratuitous ARP and unsolicited
neighbour advertisement (R399). -/
def announce (s : State) : State :=
  match s.net.identity with
  | none => s
  | some i =>
    let of := fun (p : Nat) =>
      (if i.flags.getLsbD 0 then [(p, ArpMsg.reply false i.v4Addr (portMac i p))] else [])
        ++ (if i.flags.getLsbD 1 then [(p, ArpMsg.reply true i.v6Addr (portMac i p))] else [])
    { s with net := { s.net with arpTx := s.net.arpTx ++ (upPorts s).flatMap of } }

/-- An outcome with an unpredictable result of context `k` after it, where `b` holds. -/
def wildOut (k : Nat) (b : Bool) (o : Out) : Out :=
  match o with
  | .next s => if b then .next (wild s k) else .next s
  | o => o

/-- LAUNCH: checked as a whole before any core starts; held while REPLACE is pending. A nonzero reserved
field of a header that firmware does not check gives an unpredictable result (R40). -/
def execLaunch (h : MsgHdr) (entries : List LaunchEntry) (rsv : Bool) (s : State) : Out :=
  wildOut h.ctx (launchOk s h entries rsv && headerRsv s h.ctx entries) (message (.launch h entries rsv) tLaunch h s (fun s =>
    let st := launchStatus s h.ctx entries rsv
    if st ≠ stOk then deny s st
    else if replacePending (ctxOf s h.ctx) then
      done (announce (setCtx s h.ctx { ctxOf s h.ctx with launch := entries, heldLaunch := true })) []
    else done (startLaunch s h.ctx entries) []))

/-! ## Numeric policy, watch slots, watchdog -/

/-- Whether every field of a numeric policy is in range (R165). -/
def policyOk (p : NumericPolicy) : Bool :=
  decide (1 ≤ p.satLog2) && decide (p.satLog2 ≤ 24) && decide (1 ≤ p.underLog2) && decide (p.underLog2 ≤ 24)
    && decide (p.minLog2 ≤ 30) && decide (p.unresolved ≤ 1) && decide (1 ≤ p.zeroRun) && decide (p.zeroRun ≤ 65535)
    && decide (1 ≤ p.eventLimit) && decide (p.eventLimit ≤ 255) && decide (p.flags.toNat ≤ 1) && !p.rsv

/-- NUMERIC_POLICY: in force from the next STEP commit. -/
def execNumericPolicy (h : MsgHdr) (p : NumericPolicy) (s : State) : Out :=
  message (.numericPolicy h p) { code := 0x0028, kind := .own, ctx := true } h s (fun s =>
    if policyOk p then done (setCtx s h.ctx { ctxOf s h.ctx with policyNext := some p }) [] else deny s stInvalidPolicy)

/-- NUMERIC_WATCH (R186). -/
def execNumericWatch (h : MsgHdr) (slot threshold arm : Nat) (rsv : Bool) (s : State) : Out :=
  message (.numericWatch h slot threshold arm rsv) { code := 0x0029, kind := .own, ctx := true } h s (fun s =>
    let x := ctxOf s h.ctx
    if slot = 0 ∨ 4095 < slot ∨ 1 < arm ∨ rsv then deny s stInvalidPolicy
    else done (setCtx s h.ctx { x with
      watches := if arm = 1 then put x.watches slot { armed := true, threshold := threshold } else drop x.watches slot }) [])

/-- WATCHDOG_SET: 1 ms to 60 s. -/
def execWatchdogSet (h : MsgHdr) (periodMs : Nat) (rsv : Bool) (s : State) : Out :=
  message (.watchdogSet h periodMs rsv) { code := 0x002A, kind := .own, ctx := true } h s (fun s =>
    if rsv then deny s stInvalidPolicy else
    if periodMs = 0 ∨ 60000 < periodMs then deny s stInvalidPolicy
    else done (setCtx s h.ctx { ctxOf s h.ctx with watchdogMs := periodMs }) [])

/-! ## Host absence (R369, R370) -/

/-- What HOST_ABSENT does to one context. A context that is paused, or holds no program that could reach
a pause, stays as it is. -/
def absentCtx (s : State) (k : Nat) : State :=
  let x := ctxOf s k
  if x.launched = false then s
  else if x.hostLoss = 2 then stopLaunch s k stHostAbsentAbort
  else if x.hostLoss = 1 then setCtx (watchTick s k) k { ctxOf (watchTick s k) k with pauseReq := true }
  else s

/-- The test of host silence, each 10 ms. -/
def execHostAbsenceTest (s : State) : Out :=
  if alive s = false ∨ serves s 0 = false ∨ s.fw.absent ∨ s.fw.stage < 10 ∨ s.clock.ns < s.fw.lastHost + s.fw.timeoutS * second then .next s
  else
    let s1 : State := { s with fw := { s.fw with absent := true, absentAt := s.clock.ns } }
    let s2 := fire2 (raise s1 0x0701 clsC noCtx 0 (p8 s.fw.lastHost ++ p8 (s.fw.timeoutS * second)))
    .next (ctxNums.foldl absentCtx s2)

end Sys2Proof.Machine
end

