-- ==== Sys2Proof/Machine/MemMsg.lean ====
section
/-! DEFINITION. The messages about memory (R360), trusses (R220 to R222), regions (R272, R361), the
partition layout and its slices (R28, R30, R32, R81, R364), scheduling, power and budgets (R99, R314,
R317, R320), and the time source (R334). -/

namespace Sys2Proof.Machine

/-! ## Pages of a context (R360) -/

/-- The end of the context range of R68. -/
abbrev vaEnd : Nat := 0xF_0000_0000_0000

/-- Whether VA and SIZE are multiples of a page size inside the context range. -/
def rangeOk (va size page : Nat) : Bool := va % page == 0 && size % page == 0 && decide (va + size ≤ vaEnd)

/-- The 2 MiB steps of a range. -/
def pageVas (va size : Nat) : List Nat := (List.range (size / Config.page2)).map (fun i => va + i * Config.page2)

/-- Whether every byte of a range of whole pages is mapped. -/
def allMapped (t : Tbl Page) (va size : Nat) : Bool := (pageVas va size).all (fun v => (pageOf t v).isSome)

/-- Whether some byte of a range of whole pages is mapped. -/
def someMapped (t : Tbl Page) (va size : Nat) : Bool := (pageVas va size).any (fun v => (pageOf t v).isSome)

/-- A fresh page at an address of a context. -/
def mapPage (s : State) (k va dpa size : Nat) (perm : BitVec 8) : State :=
  let x := ctxOf s k
  setCtx { s with mem := clearMem s.mem dpa size } k { x with
    pages := put x.pages (va / Config.page2) {
      big := size == Config.page1g, dpa := dpa, r := perm.getLsbD 0, w := perm.getLsbD 1
      x := perm.getLsbD 2, nocache := perm.getLsbD 3, valid := true } }

/-- One HBM page mapped, the rotation over the stacks advanced (R70). -/
def allocHbm (part k size : Nat) (perm : BitVec 8) (s : State) (va : Nat) : Option State :=
  let x := ctxOf s k
  match takeHbm s (stacksOf s.place part) x.turn size (Config.pageStart s.mem.allocs) with
  | none => none
  | some a =>
    some (mapPage (setCtx { s with mem := { s.mem with allocs := s.mem.allocs + 1 } } k { x with turn := x.turn + 1 }) k va a size perm)

/-- One Thatch page mapped; a slice that holds only save images is given back where no other has room
(R478). -/
def allocThatch (part k : Nat) (perm : BitVec 8) (s : State) (va : Nat) : Option State :=
  match findThatch s (slicesOf s.place part) with
  | some a => some (mapPage s k va a Config.page2 perm)
  | none =>
    match (slicesOf s.place part).find? (fun i => sliceMode s.mem i == .firmware) with
    | none => none
    | some i => some (mapPage (giveBack s i) k va (sliceBase i) Config.page2 perm)

/-- MEM_ALLOC. -/
def execMemAlloc (h : MsgHdr) (va size kind page : Nat) (perm : BitVec 8) (rsv : Bool) (s : State) : Out :=
  message (.memAlloc h va size kind page perm rsv) { code := 0x0018, kind := .own, ctx := true } h s (fun s =>
    if rsv then deny s stInvalidPolicy else
    let k := h.ctx
    let part := (ctxOf s k).part
    let ps := if page = 1 then Config.page1g else Config.page2
    if 1 < kind ∨ 1 < page ∨ 16 ≤ perm.toNat ∨ (kind = 1 ∧ page = 1) then deny s stInvalidPolicy
    else if rangeOk va size ps = false ∨ someMapped (ctxOf s k).pages va size then deny s stInvalidAddress
    else
      let vas := (List.range (size / ps)).map (fun i => va + i * ps)
      if kind = 0 then
        if quotaOk s part size = false then deny s stNoMemory
        else match vas.foldlM (allocHbm part k ps perm) s with
          | some s1 => done s1 []
          | none => deny s stNoMemory
      else match vas.foldlM (allocThatch part k perm) s with
        | some s1 => done s1 []
        | none => deny s stNoMemory)

/-- The 1 GiB page that maps an address split into 512 at the same physical addresses. -/
def splitVa (t : Tbl Page) (va : Nat) : Tbl Page :=
  match pageOf t va with
  | some (p, d) => if p.big then splitPage t d else t
  | none => t

/-- A range unmapped; a 1 GiB page that it covers in part is split first. -/
def unmapRange (t : Tbl Page) (va size : Nat) : Tbl Page :=
  let bigs := (pageVas va size).filter (fun v => match pageOf t v with
    | some (p, _) => p.big && !(decide (va ≤ v / Config.page1g * Config.page1g) && decide (v / Config.page1g * Config.page1g + Config.page1g ≤ va + size))
    | none => false)
  (bigs.foldl splitVa t).filter (fun e => !(decide (va ≤ e.1 * Config.page2) && decide (e.1 * Config.page2 < va + size)))

/-- Whether a range overlaps a state range or a region of a context. -/
def pinned (x : Ctx) (va size : Nat) : Bool :=
  x.ckpt.ranges.any (fun r => overlaps va size r.1 r.2) ||
    x.regions.any (fun e => e.2.bound && overlaps va size e.2.base e.2.length)

/-- The orphans of a context that have chunks in flight, completed (R98). -/
def landOrphans (s : State) (k : Nat) : State :=
  (launchCores (ctxOf s k)).foldl (fun s n => landCore s k n (fun f => f.cancelHit)) s

/-- MEM_FREE. -/
def execMemFree (h : MsgHdr) (va size : Nat) (s : State) : Out :=
  message (.memFree h va size) { code := 0x0019, kind := .own, ctx := true } h s (fun s =>
    let k := h.ctx
    if rangeOk va size Config.page2 = false ∨ allMapped (ctxOf s k).pages va size = false then deny s stInvalidAddress
    else if pinned (ctxOf s k) va size then deny s stContextBusy
    else
      let s1 := landOrphans s k
      done (setCtx s1 k { ctxOf s1 k with pages := unmapRange (ctxOf s1 k).pages va size }) [])

/-- What MEM_WRITE and MEM_READ require of a range. -/
def copyOk (x : Ctx) (va size : Nat) : Bool :=
  rangeOk va size Config.page2 && decide (size ≤ Config.page1g) && allMapped x.pages va size &&
    (pageVas va size).all (fun v => match pageOf x.pages v with | some (p, _) => !p.fw | none => false)

/-- Where a mapped page leads. -/
def dpaOf (x : Ctx) (v : Nat) : Nat := match pageOf x.pages v with | some (_, d) => d | none => 0

/-- One page of a MEM_WRITE: whole grains, clean. -/
def writePage (k va : Nat) (data : List Byte) (s : State) (v : Nat) : State :=
  let d := dpaOf (ctxOf s k) v
  { s with mem := { clearMem s.mem d Config.page2 with
      cells := setBytes (clearMem s.mem d Config.page2).cells d ((data.drop (v - va)).take Config.page2) } }

/-- The pages of a MEM_WRITE or MEM_READ accessed, as SERVICE traffic that no budget is charged (R99). -/
def touchPages (s : State) (k va size : Nat) (wr : Bool) : State :=
  (reach s k ((pageVas va size).map (fun v => ⟨dpaOf (ctxOf s k) v, Config.page2, wr, !noCache s k v⟩))).1

/-- MEM_WRITE: `data` is what host memory holds from HOST_ADDR on; bytes past its end are zeros. -/
def execMemWrite (h : MsgHdr) (va size _hostAddr : Nat) (data : List Byte) (s : State) : Out :=
  message (.memWrite h va size _hostAddr data) { code := 0x001A, kind := .own, ctx := true } h s (fun s =>
    let k := h.ctx
    let x := ctxOf s k
    if copyOk x va size = false then deny s stInvalidAddress
    else if x.launched && (pageVas va size).any (fun v => match pageOf x.pages v with | some (p, _) => p.x | none => false) then
      deny s stContextBusy
    else done ((pageVas va size).foldl (writePage k va data) (touchPages s k va size true)) [])

/-- The bytes of a page as MEM_READ copies them: poisoned grains arrive as zeros. -/
def pageBytes (m : Mem) (d : Nat) : List Byte :=
  (List.range (Config.page2 / 64)).flatMap (fun g =>
    if m.poison.elem (d / 64 + g) then List.replicate 64 0 else readDpa m (d + 64 * g) 64)

/-- The poisoned grains of a page. -/
def pagePoison (m : Mem) (d : Nat) : List Nat := m.poison.filter (fun g => decide (d / 64 ≤ g) && decide (g * 64 < d + Config.page2))

/-- MEM_READ. -/
def execMemRead (h : MsgHdr) (va size hostAddr : Nat) (s : State) : Out :=
  message (.memRead h va size hostAddr) { code := 0x001B, kind := .own, ctx := true } h s (fun s =>
    let x := ctxOf s h.ctx
    if copyOk x va size = false then deny s stInvalidAddress
    else
      let s := touchPages s h.ctx va size false
      let ds := (pageVas va size).map (dpaOf x)
      let s1 := (ds.flatMap (pagePoison s.mem)).foldl (fun s g => notePoison s (64 * g)) s
      done (hostWrite s1 hostAddr (ds.flatMap (pageBytes s.mem))) (p8 ((ds.map (fun d => (pagePoison s.mem d).length)).sum)))

/-! ## Trusses (R220 to R222) -/

/-- Physical trusses of a base die in use. -/
def trussesOn (s : State) (d : Nat) : Nat :=
  (ctxNums.map (fun k => ((ctxOf s k).trusses.filter (fun e => e.2.bound && e.2.home == d)).length)).sum

/-- Whether a base die has a free physical truss. -/
def trussRoom (s : State) (d : Nat) : Bool := decide (trussesOn s d < 16384)

/-- The local cores among member entries. -/
def localMembers (ms : List Member) : List Nat := ms.filterMap (fun m => match m with | .core n => some n | _ => none)

/-- Firmware's choice of HOME: under the lowest member core of the partition, or its lowest core. -/
def homeChoice (s : State) (part : Nat) (ms : List Member) : Nat :=
  match (coresOf s.place part).find? (fun n => (localMembers ms).elem n) with
  | some n => n / 80
  | none => ((coresOf s.place part).head?.getD 0) / 80

/-- Where a truss goes: HOME, or firmware's choice, or another base die of the partition. -/
def trussHome (s : State) (part home : Nat) (ms : List Member) : Option Nat :=
  if home ≠ 0xFF then (if trussRoom s home then some home else none)
  else (homeChoice s part ms :: diesOf s.place part).find? (trussRoom s)

/-- Whether a member entry's fields are in range. -/
def memberOk : Member → Bool
  | .core n => decide (n < 320)
  | .remote node n => decide (node < 0x10_0000) && decide (n < 320)
  | .truss node v => decide (node < 0x10_0000) && decide (0 < v) && decide (v < 0x10_0000)

/-- Whether a member entry names a reserved core, which any message that names one refuses (R15). -/
def badCore : Member → Bool
  | .core n => decide (320 ≤ n)
  | .remote _ n => decide (320 ≤ n)
  | .truss _ _ => false

/-- Whether a list of members has no entry twice. -/
def membersDistinct (l : List Member) : Bool :=
  match l with
  | [] => true
  | m :: r => !r.elem m && membersDistinct r

/-- Whether the payload of TRUSS_CREATE is valid. -/
def trussValid (s : State) (part vtid mode home limit participants : Nat) (fwd : List FwdEntry) (members : List Member) (rsv : Bool) : Bool :=
  !rsv && decide (0 < vtid) && decide (vtid < 0x10_0000) && decide (mode ≤ 1) && decide (limit ≤ 255) &&
    (home == 0xFF || (diesOf s.place part).elem home) && decide (fwd.length ≤ 8) &&
    fwd.all (fun e => !nmRsv e.name && nmVtid e.name != 0) &&
    (if mode = 0 then decide (1 ≤ participants) && decide (participants ≤ 65535)
     else limit == 0 && decide (1 ≤ participants) && decide (participants ≤ 256) && members.length == participants
       && members.all memberOk && membersDistinct members)

/-- TRUSS_CREATE. -/
def execTrussCreate (h : MsgHdr) (vtid mode home limit participants : Nat) (fwd : List FwdEntry) (members : List Member) (rsv : Bool) (s : State) : Out :=
  let old := trussOf s h.ctx vtid
  if boundLately s h.ctx 0 vtid old.bound old.ever old.bgen then .next s
  else message (.trussCreate h vtid mode home limit participants fwd members rsv) { code := 0x0030, kind := .own, ctx := true } h s (fun s =>
    let k := h.ctx
    let part := (ctxOf s k).part
    let old := trussOf s k vtid
    if mode = 1 ∧ members.any badCore = true then deny s stInvalidCore
    else if trussValid s part vtid mode home limit participants fwd members rsv = false then deny s stInvalidTruss
    else if old.bound then deny s stTrussIdInUse
    else match trussHome s part home members with
      | none => deny s stTrussExhausted
      | some d =>
        let g := if old.ever then (old.bgen + 1) % 0x1_0000 else 0
        let t : Truss := {
          bound := true, ever := true, bgen := g, enrolled := mode == 1, home := d, limit := limit
          n := if mode = 0 then participants else 0, members := if mode = 1 then members else [], fwd := fwd }
        done (setTruss s k vtid t) (leBytes 2 g))

/-- TRUSS_DESTROY. -/
def execTrussDestroy (h : MsgHdr) (vtid : Nat) (rsv : Bool) (s : State) : Out :=
  message (.trussDestroy h vtid rsv) { code := 0x0031, kind := .own, ctx := true } h s (fun s =>
    let t := trussOf s h.ctx vtid
    if rsv ∨ 0x10_0000 ≤ vtid ∨ t.bound = false then deny s stInvalidTruss
    else if t.waiters ≠ [] then deny s stTrussBusy
    else done (setTruss (noteUnbound s h.ctx [(0, vtid, t.bgen)]) h.ctx vtid { ever := true, bgen := t.bgen }) [])

/-! ## Regions (R272, R361) -/

/-- Whether a byte range lies wholly in pages of the context in HBM or SOFTWARE Thatch. -/
def regionMapped (s : State) (x : Ctx) (base len : Nat) : Bool :=
  decide (base + len ≤ vaEnd) && (segs base len).all (fun g => match pageOf x.pages g.1 with
    | some (p, d) => !p.fw && (decide (d < Config.thatchDpa) || sliceMode s.mem (sliceOf d) == .software)
    | none => false)

/-- REGION_CREATE. -/
def execRegionCreate (h : MsgHdr) (key : Nat) (perm : BitVec 8) (base length : Nat) (rsv : Bool) (s : State) : Out :=
  let old := look (ctxOf s h.ctx).regions {} key
  if boundLately s h.ctx 1 key old.bound old.ever old.keyGen then .next s
  else message (.regionCreate h key perm base length rsv) { code := 0x0038, kind := .own, ctx := true } h s (fun s =>
    let x := ctxOf s h.ctx
    let old := look x.regions {} key
    if rsv ∨ key = 0 ∨ 0xFFFF_FFFF < key ∨ 4 ≤ perm.toNat ∨ base % 64 ≠ 0 ∨ length % 64 ≠ 0 ∨ length = 0
        ∨ regionMapped s x base length = false then deny s stInvalidRegion
    else if old.bound then deny s stKeyInUse
    else if 4096 ≤ (x.regions.filter (fun e => e.2.bound)).length then deny s stRegionLimit
    else
      let g := if old.ever then (old.keyGen + 1) % 0x1_0000 else 0
      let r : Region := { bound := true, ever := true, keyGen := g, base := base, length := length, rwrite := perm.getLsbD 0, rread := perm.getLsbD 1 }
      done (setCtx s h.ctx { x with regions := put x.regions key r }) (leBytes 2 g))

/-- REGION_DESTROY; the key's last generation is remembered (R274). -/
def execRegionDestroy (h : MsgHdr) (key : Nat) (rsv : Bool) (s : State) : Out :=
  message (.regionDestroy h key rsv) { code := 0x0039, kind := .own, ctx := true } h s (fun s =>
    if rsv then deny s stInvalidRegion else
    let x := ctxOf s h.ctx
    let r := look x.regions {} key
    if r.bound = false then deny s stInvalidRegion
    else done (setCtx (noteUnbound s h.ctx [(1, key, r.keyGen)]) h.ctx { x with regions := put x.regions key { ever := true, keyGen := r.keyGen } }) [])

/-! ## The partition layout (R28, R30, R32, R364) -/

/-- The bays a layout gives to a number. -/
def unitBays (part : List Nat) (p : Nat) : List Nat := (List.range 16).filter (fun b => nth part b 16 == p)

/-- Whether the bays of a number form a unit of R28 numbered by its lowest bay. -/
def unitOk (part : List Nat) (p : Nat) : Bool :=
  let l := unitBays part p
  [16, 8, 4, 1].any (fun n => p % n == 0 && l == (List.range n).map (fun i => p + i))

/-- HBM available on a base die in GB: its stacks less what firmware keeps. -/
def dieGb (s : State) (d : Nat) : Nat := (usableMib s (2 * d) + usableMib s (2 * d + 1)) / 1024

/-- Whether a layout changes the unit of a bay. -/
def unitMoves (pl : Place) (part : List Nat) (b : Nat) : Bool := unitBays part (nth part b 16) != baysOf pl (partOfBay pl b)

/-- A shadowed pair whose members a new layout puts in two partitions: one of them is placed anew, or has no
physical core. -/
def splitPair (s : State) (p : Nat) : State :=
  match mappedOn s.place p with
  | [a, b] =>
    if partOf s.place a = partOf s.place b then s
    else
      let n := if homePhys s.place a = p then b else a
      let r := placeCore s n
      if r.2 then r.1 else mapCore s n noPhys
  | _ => s

/-- The slices of a bay back in SOFTWARE mode. -/
def softenBay (s : State) (b : Nat) : State :=
  ((List.range 11).map (fun i => 44 * (b / 4) + 11 * (b % 4) + i)).foldl (fun s i =>
    match sliceMode s.mem i with
    | .cache => cacheOff s i
    | .firmware => giveBack s i
    | _ => s) s

/-- A new layout put in force. -/
def relayout (s : State) (part quota : List Nat) : State :=
  let old := reportOf s
  let moved := (List.range 16).filter (unitMoves s.place part)
  let s1 := moved.foldl softenBay s
  let s2 : State := { s1 with place := { s1.place with
    layout := part, quota := quota, parts := s1.place.parts.filter (fun e => !moved.elem e.1) } }
  capacityEvent (replaceUnplaced ((List.range 336).foldl splitPair s2)) old

/-- PARTITION_SET. -/
def execPartitionSet (h : MsgHdr) (part : List Nat) (quota : List Nat) (s : State) : Out :=
  message (.partitionSet h part quota) { code := 0x0040, kind := .priv } h s (fun s =>
    let bayPart := fun (b : Nat) => (unitBays part (nth part b 16)).length == 1
    let quotaOf := fun (d : Nat) => ((List.range 4).map (fun i => nth quota (4 * d + i) 0)).sum
    if part.length ≠ 16 ∨ quota.length ≠ 16 ∨ part.all (unitOk part) = false then deny s stInvalidPartition
    else if (List.range 16).any (fun b => unitMoves s.place part b && ctxNums.any (fun k => ctxExists s k && partOfBay s.place b == (ctxOf s k).part)) then
      deny s stPartitionBusy
    else if (List.range 16).any (fun b => !bayPart b && nth quota b 0 != 0) then deny s stInvalidPolicy
    else if (List.range 4).any (fun d => decide (dieGb s d < quotaOf d)) then deny s stNoMemory
    else done (relayout s part quota) ((List.range 4).flatMap (fun d => leBytes 2 (dieGb s d))))

/-- SLICE_MODE (R81). -/
def execSliceMode (h : MsgHdr) (bd slice mode : Nat) (rsv : Bool) (s : State) : Out :=
  message (.sliceMode h bd slice mode rsv) { code := 0x0041, kind := .priv } h s (fun s =>
    if rsv then deny s stInvalidPolicy else
    let i := 44 * bd + slice
    let part := partOfBay s.place (4 * bd + slice / 11)
    if 4 ≤ bd ∨ 44 ≤ slice ∨ 1 < mode ∨ sliceMode s.mem i = .retired then deny s stInvalidPolicy
    else
      let s1 := giveBack s i
      match sliceMode s1.mem i with
      | .cache => done (if mode = 0 then cacheOff s1 i else s1) []
      | _ =>
        if mode = 0 then done s1 []
        else if sliceUnmapped s1 i = false then deny s stSliceBusy
        else
          let keep := s1.mem.lines.filter (fun l => (cacheSlices s1 bd part).isEmpty || l.line * 256 / (2 * Config.stackBytes) != bd)
          done (setSlice { s1 with mem := { clearMem s1.mem (sliceBase i) 0x100_0000 with lines := keep } } i .cache) [])

/-! ## Scheduling, clocks, power and budgets -/

/-- A message about a partition: refused when the layout has none of that number. -/
def onPart (s : State) (part : Nat) (ok : Bool) (f : PartSt → PartSt) : State × Nat × List Byte :=
  if ok = false then deny s stInvalidPolicy
  else if (partNums s.place).elem part = false then deny s stInvalidPartition
  else done (setPart s part (f (partSt s.place part))) []

/-- SCHED_SET. -/
def execSchedSet (h : MsgHdr) (part sliceMs quantumUs : Nat) (rsv : Bool) (s : State) : Out :=
  message (.schedSet h part sliceMs quantumUs rsv) { code := 0x0042, kind := .priv } h s (fun s =>
    if rsv then deny s stInvalidPolicy else
    onPart s part (decide (1 ≤ sliceMs) && decide (sliceMs ≤ 1000) && decide (250 ≤ quantumUs) && decide (quantumUs ≤ 10000))
      (fun x => { x with sliceMs := sliceMs, quantumUs := quantumUs }))

/-- FIXED_FREQ (R317). -/
def execFixedFreq (h : MsgHdr) (part on : Nat) (rsv : Bool) (s : State) : Out :=
  message (.fixedFreq h part on rsv) { code := 0x0043, kind := .priv } h s (fun s =>
    if rsv then deny s stInvalidPolicy else
    let r := onPart s part (decide (on ≤ 1)) (fun x => { x with fixed := on == 1 })
    (watchAllFixed r.1, r.2))

/-- OPPOINT_SET (R314). -/
def execOppointSet (h : MsgHdr) (part : Nat) (freq : List Nat) (rsv : Bool) (s : State) : Out :=
  message (.oppointSet h part freq rsv) { code := 0x0044, kind := .priv } h s (fun s =>
    if rsv then deny s stInvalidPolicy else
    onPart s part (freq.length == 4 && freq.all (fun f => f % 5 == 0 && decide (550 ≤ f) && decide (f ≤ 1320)))
      (fun x => { x with freq := freq }))

/-- POWER_LIMIT (R320). -/
def execPowerLimit (h : MsgHdr) (watts : Nat) (rsv : Bool) (s : State) : Out :=
  message (.powerLimit h watts rsv) { code := 0x0045, kind := .priv } h s (fun s =>
    if rsv then deny s stInvalidPolicy else
    if watts < 1200 ∨ 2700 < watts then deny s stInvalidPolicy
    else
      let s1 := setLimit s 0 watts
      done s1 (leBytes 2 (min s1.power.hostLimit s1.power.boardLimit)))

/-- BUDGET_SET (R99): a context's budgets, or the network budget of the mirror service. -/
def execBudgetSet (h : MsgHdr) (ctx hbm network : Nat) (rsv : Bool) (s : State) : Out :=
  message (.budgetSet h ctx hbm network rsv) { code := 0x0046, kind := .priv } h s (fun s =>
    if rsv then deny s stInvalidPolicy else
    if network < 64 ∨ 50000 < network ∨ (ctx ≠ 0xFF ∧ (hbm < 64 ∨ 160000 < hbm)) then deny s stInvalidPolicy
    else if ctx = 0xFF then done { s with fw := { s.fw with mirrorBudget := network } } []
    else if ctxExists s ctx = false then deny s stNoContext
    else done (setCtx s ctx { ctxOf s ctx with budgetHbm := hbm, budgetNet := network }) [])

/-- TIME_SOURCE (R278, R334). -/
def execTimeSource (h : MsgHdr) (source profile port : Nat) (rsv : Bool) (s : State) : Out :=
  message (.timeSource h source profile port rsv) { code := 0x0047, kind := .priv } h s (fun s =>
    if rsv then deny s stInvalidPolicy else
    if 2 < source ∨ 3 < profile ∨ 128 ≤ port then deny s stInvalidPolicy
    else done { s with clock := { s.clock with source := source, profile := profile, port := port } } [])

end Sys2Proof.Machine
end

