-- ==== Sys2Proof/Machine/NetMsg.lean ====
section
/-! DEFINITION. The messages about the network: ports (R256, R259), node tables (R260), managers (R348),
the identity (R261), grids and groups (R284 to R289); and the storage initiator (R277, R372). -/

namespace Sys2Proof.Machine

/-! ## Ports, nodes, managers, identity -/

/-- The ports of an octet in a mode. -/
def octetPorts (octet mode : Nat) : List Nat := ((List.range 8).filter (fun i => i % lanesOf mode == 0)).map (fun i => 8 * octet + i)

/-- A port taken down to retrain. -/
def retrain (s : State) (p : Nat) : State :=
  let s1 := losePort s p
  setPort s1 p { portOf s1 p with up := false, downAt := s.clock.ns, failed := false }

/-- PORT_CONFIG: the MTU of each port the mode gives; a change of mode takes the octet's ports down. -/
def execPortConfig (h : MsgHdr) (octet mode : Nat) (mtu : List Nat) (rsv : Bool) (s : State) : Out :=
  message (.portConfig h octet mode mtu rsv) { code := 0x0050, kind := .priv } h s (fun s =>
    if rsv then deny s stInvalidPolicy else
    let ps := octetPorts octet mode
    let mtuOf := fun (p : Nat) => nth mtu (p % 8) 0
    if 16 ≤ octet ∨ 4 ≤ mode ∨ ps.any (fun p => decide (mtuOf p < 4220) || decide (9194 < mtuOf p)) then deny s stInvalidPolicy
    else
      let old := look s.net.octets 0 octet
      let s1 := if mode = old then s else (octetPorts octet old).foldl retrain s
      let s2 : State := { s1 with net := { s1.net with octets := put s1.net.octets octet mode } }
      done (ps.foldl (fun s p => setPort s p { portOf s p with mtu := mtuOf p }) s2) [])

/-- NODE_TABLE: `nodes` is what host memory holds, node id and address. -/
def execNodeTable (h : MsgHdr) (job : Nat) (nodes : List (Nat × Nat)) (s : State) : Out :=
  message (.nodeTable h job nodes) { code := 0x0051, kind := .priv } h s (fun s =>
    if job = 0 ∨ 0xFFFF_FFFF < job ∨ 65536 < nodes.length ∨ nodes.any (fun e => decide (0x10_0000 ≤ e.1))
        ∨ distinct (nodes.map (fun e => e.1)) = false then deny s stInvalidPolicy
    else done { s with net := { s.net with tables := put s.net.tables job nodes } } [])

/-- MANAGER_SET: the sessions of nodes no longer named are not those of a manager. -/
def execManagerSet (h : MsgHdr) (entries : List (Nat × Nat)) (rsv : Bool) (s : State) : Out :=
  message (.managerSet h entries rsv) { code := 0x0052, kind := .priv } h s (fun s =>
    if rsv ∨ entries.length ≠ 4 ∨ entries.any (fun e => decide (0x10_0000 ≤ e.1) || decide (1 < e.2)) then deny s stInvalidPolicy
    else done { s with net := { s.net with
      managers := entries, incoming := []
      attested := s.net.attested.filter (fun a => entries.any (fun e => e.1 == a.1)) } } [])

/-- Whether every field of NET_IDENTITY is in range (R261). -/
def identityOk (n : NetIdentity) : Bool :=
  decide (n.node < 0x10_0000) && !n.nodeRsv && decide (n.udpPort ≤ 65535) &&
    decide ((if n.sportBase = 0 then 49152 else n.sportBase) + 127 ≤ 65535) && decide (n.paths ≤ 128) &&
    decide (n.flags.toNat < 8) && (n.flags.getLsbD 0 || n.flags.getLsbD 1) &&
    (!n.flags.getLsbD 2 || (decide (1 ≤ n.vlan.toNat % 4096) && decide (n.vlan.toNat % 4096 ≤ 4094) && !n.vlan.getLsbD 12)) &&
    decide (n.macBase < 0x1_0000_0000_0000) &&
    (!n.flags.getLsbD 0 || (decide (8 ≤ n.v4Prefix) && decide (n.v4Prefix ≤ 30))) &&
    (!n.flags.getLsbD 1 || (decide (16 ≤ n.v6Prefix) && decide (n.v6Prefix ≤ 127))) &&
    n.dscp.length == 8 && n.dscp.all (fun b => decide (b.toNat < 64)) && !n.rsv

/-- NET_IDENTITY. -/
def execNetIdentity (h : MsgHdr) (n : NetIdentity) (s : State) : Out :=
  message (.netIdentity h n) { code := 0x0053, kind := .priv } h s (fun s =>
    if anyCtx s then deny s stContextBusy
    else if identityOk n = false then deny s stInvalidPolicy
    else done { s with net := { s.net with identity := some n } } [])

/-! ## The grid and the groups (R284 to R289) -/

/-- A 16-bit extent or block size, 0 encoding 65,536. -/
def size16 (v : Nat) : Nat := if v = 0 then 65536 else v

/-- The product of a list. -/
def prod (l : List Nat) : Nat := l.foldl (· * ·) 1

/-- Whether the fields and the table of a grid are valid. -/
def gridOk (s : State) (k naxes : Nat) (extent nodes : List Nat) : Bool :=
  let es := extent.map size16
  decide (1 ≤ naxes) && decide (naxes ≤ 6) && extent.length == 6 && extent.all (fun e => decide (e ≤ 65535)) &&
    (extent.drop naxes).all (fun e => e == 1) && decide (prod es ≤ 65536) && nodes.length == prod es &&
    nodes.all (nodeKnown s (ctxOf s k).jobId) &&
    (match ownNode s with | some o => (nodes.filter (fun n => n == o)).length == 1 | none => false)

/-- Whether some group of a context is bound. -/
def anyGroup (x : Ctx) : Bool := x.groups.any (fun e => e.2.bound)

/-- GRID_SET. -/
def execGridSet (h : MsgHdr) (naxes : Nat) (extent : List Nat) (nodes : List Nat) (rsv : Bool) (s : State) : Out :=
  message (.gridSet h naxes extent nodes rsv) { code := 0x0058, kind := .priv, ctx := true } h s (fun s =>
    let x := ctxOf s h.ctx
    if rsv ∨ gridOk s h.ctx naxes extent nodes = false then deny s stInvalidGroup
    else if anyGroup x then deny s stGroupBusy
    else done (setCtx s h.ctx { x with grid := some ⟨naxes, extent.map size16, nodes⟩ }) [])

/-- The coordinates of a gridIndex index, axis 0 fastest. -/
def coords (es : List Nat) (i : Nat) : List Nat :=
  match es with
  | [] => []
  | e :: r => i % max e 1 :: coords r (i / max e 1)

/-- The gridIndex index of coordinates. -/
def gridIndex (es xs : List Nat) : Nat :=
  match es, xs with
  | e :: r, x :: y => x + e * gridIndex r y
  | _, _ => 0

/-- The members of a topology group around a caller, in order of rank, and the caller's rank (R286). -/
def blockMembers (g : Grid) (bs : List Nat) (own : Nat) : List Nat × Nat :=
  let xs := coords g.extent ((g.nodes.findIdx? (fun n => n == own)).getD 0)
  let base := (xs.zip bs).map (fun e => e.1 / max e.2 1 * e.2)
  let at' := fun (r : Nat) => gridIndex g.extent ((base.zip (coords bs r)).map (fun e => e.1 + e.2))
  ((List.range (prod bs)).map (fun r => nth g.nodes (at' r) 0), gridIndex bs ((xs.zip bs).map (fun e => e.1 % max e.2 1)))

/-- The members and the caller's rank a GROUP_CREATE names, none where it is invalid; a list that omits
the own node has no rank. -/
def groupMembers (s : State) (k gid members : Nat) (block nodes : List Nat) : Option (List Nat × Option Nat) :=
  let x := ctxOf s k
  let own := ownNode0 s
  if gid / 4096 = 0 then
    match x.grid with
    | none => none
    | some g =>
      let bs := block.map size16
      if gid % 4096 ≤ 255 ∧ members = 0 ∧ nodes = [] ∧ block.length = 6 ∧ (g.extent.zip bs).all (fun e => e.1 % max e.2 1 == 0) = true then
        let r := blockMembers g bs own
        some (r.1, some r.2)
      else none
  else if gid / 4096 = 1 ∧ gid % 4096 ≤ 15 ∧ 1 ≤ members ∧ members ≤ 65536 ∧ nodes.length = members ∧ block.all (fun b => b == 0) = true
      ∧ distinct nodes = true ∧ nodes.all (nodeKnown s x.jobId) = true then
    some (nodes, nodes.findIdx? (fun n => n == own))
  else none

/-- Whether a virtual range lies in writable pages. -/
def writable (x : Ctx) (va len : Nat) : Bool :=
  decide (va + len ≤ vaEnd) && (segs va len).all (fun g => match pageOf x.pages g.1 with | some (p, _) => allows p .write | none => false)

/-- GROUP_CREATE. -/
def execGroupCreate (h : MsgHdr) (gid alg fanin members : Nat) (block : List Nat) (statusPtr : Nat) (nodes : List Nat) (rsv : Bool) (s : State) : Out :=
  let old := look (ctxOf s h.ctx).groups {} gid
  if boundLately s h.ctx 2 gid old.bound old.ever old.ggen then .next s
  else message (.groupCreate h gid alg fanin members block statusPtr nodes rsv) { code := 0x0059, kind := .priv, ctx := true } h s (fun s =>
    let x := ctxOf s h.ctx
    let old := look x.groups {} gid
    if rsv ∨ 1 < alg ∨ (alg = 0 ∧ fanin ≠ 0) ∨ (alg = 1 ∧ (fanin < 2 ∨ 16 < fanin)) ∨ statusPtr % 64 ≠ 0 then deny s stInvalidGroup
    else match groupMembers s h.ctx gid members block nodes with
      | none => deny s stInvalidGroup
      | some (ms, rank) =>
        if writable x statusPtr ms.length = false then deny s stInvalidGroup
        else match rank with
          | none => deny s stNotMember
          | some r =>
            if old.bound then deny s stGroupIdInUse
            else if gid / 4096 = 1 ∧ 16 ≤ (x.groups.filter (fun e => e.2.bound && e.1 / 4096 == 1)).length then deny s stGroupLimit
            else
              let g := if old.ever then (old.ggen + 1) % 0x1_0000 else 0
              let y : Group := { bound := true, ever := true, ggen := g, alg := alg, fanin := fanin, members := ms, rank := r, statusPtr := statusPtr }
              done (setCtx s h.ctx { x with groups := put x.groups gid y }) (leBytes 4 g ++ p4 r ++ p4 ms.length))

/-- GROUP_DESTROY; the last generation is remembered. -/
def execGroupDestroy (h : MsgHdr) (gid : Nat) (rsv : Bool) (s : State) : Out :=
  message (.groupDestroy h gid rsv) { code := 0x005A, kind := .priv, ctx := true } h s (fun s =>
    if rsv then deny s stInvalidGroup else
    let x := ctxOf s h.ctx
    let g := look x.groups {} gid
    if g.bound = false then deny s stInvalidGroup
    else if x.colls.any (fun c => c.gid == gid) then deny s stGroupBusy
    else done (setCtx (noteUnbound s h.ctx [(2, gid, g.ggen)]) h.ctx { x with groups := put x.groups gid { ever := true, ggen := g.ggen } }) [])

/-! ## Storage (R276, R277, R372) -/

/-- The number of queue pair `i` of a controller; 0 is its admin queue. -/
def qpOf (ctrl i : Nat) : Nat := 128 * ctrl + i

/-- A controller's queue pairs removed. -/
def dropQps (t : Tbl Qp) (ctrl : Nat) : Tbl Qp := t.filter (fun e => e.1 / 128 != ctrl)

/-- A keyed data block descriptor: an address, a length and a remote key. -/
def keyedSgl (va len key : Nat) : List Byte := p8 va ++ leBytes 3 len ++ p4 key ++ [0x40]

/-- A command capsule (NVM Express): opcode, command identifier, namespace, data pointer, the double words 10 to 15,
and what follows in the capsule. -/
def capsule (opc cid nsid : Nat) (sgl : List Byte) (cdw : List Nat) (rest : List Byte) : List Byte :=
  leBytes 1 opc ++ [0x40] ++ leBytes 2 cid ++ p4 nsid ++ List.replicate 16 0 ++ padTo 16 sgl ++ padTo 24 (cdw.flatMap p4) ++ rest

/-- A Fabrics command: its type stands where others have the namespace. -/
def fabrics (cid fctype : Nat) (sgl : List Byte) (cdw : List Nat) (rest : List Byte) : List Byte := capsule 0x7F cid fctype sgl cdw rest

/-- The descriptor of data that follows the command in its capsule. -/
def inCapsule (len : Nat) : List Byte := p8 0 ++ p4 len ++ [0, 0, 0, 1]

/-- The host's name and identifier. -/
def hostId (node : Nat) : List Byte := padTo 16 (p4 node)
def hostNqn (node : Nat) : List Byte := "nqn.2014-08.org.nvmexpress:uuid:".toList.map (fun c => BitVec.ofNat 8 c.toNat) ++ (hostId node).map (fun b => 0x30 + b % 10)

/-- Connect of a queue, with `size` entries. -/
def nvmeConnect (node qid size : Nat) (subnqn : List Byte) : List Byte :=
  fabrics qid 1 (inCapsule 1024) [qid * 0x1_0000, size - 1, 0]
    (padTo 1024 (hostId node ++ leBytes 2 0xFFFF ++ List.replicate 238 0 ++ padTo 256 subnqn ++ padTo 256 (hostNqn node)))

/-- Property Get of 8 bytes or 4, and Property Set. -/
def nvmePropertyGet (off : Nat) (wide : Bool) : List Byte := fabrics off 4 [] [b1 wide, off] []
def nvmePropertySet (off v : Nat) : List Byte := fabrics off 0 [] [0, off, v] []

/-- Identify, of a data structure and a namespace; Get Log Page; Keep Alive; Read, Write and Flush of a namespace. -/
def nvmeIdentify (cns nsid : Nat) : List Byte := capsule 6 (256 * cns + nsid) nsid (keyedSgl 0 4096 0) [cns] []
def nvmeGetLog (lid n : Nat) : List Byte := capsule 2 (256 * lid) 0 (keyedSgl 0 n 0) [lid + (n / 4 - 1) * 0x1_0000] []
def nvmeKeepAlive : List Byte := capsule 0x18 0x1800 0 [] [] []
def nvmeRw (read : Bool) (cid nsid slba nlb : Nat) (segs : List (Nat × Nat × Nat)) : List Byte :=
  let cdw := [slba % 0x1_0000_0000, slba / 0x1_0000_0000, nlb - 1]
  match segs with
  | [g] => capsule (if read then 2 else 1) cid nsid (keyedSgl g.1 g.2.1 g.2.2) cdw []
  | _ => capsule (if read then 2 else 1) cid nsid (p8 0 ++ p4 (16 * segs.length) ++ [0, 0, 0, 0x31]) cdw
      (segs.flatMap (fun g => keyedSgl g.1 g.2.1 g.2.2))
def nvmeFlush (cid nsid : Nat) : List Byte := capsule 0 cid nsid [] [] []

/-- Whether a name is that of the discovery service. -/
def isDiscovery (subnqn : List Byte) : Bool := subnqn == "nqn.2014-08.org.nvmexpress.discovery".toList.map (fun c => BitVec.ofNat 8 c.toNat)

/-- A command capsule sent on a queue pair. -/
def sendCapsule (s : State) (q : Nat) (c : List Byte) : State := roceRequest s q { kind := .send, qp := q, data := c } 0

/-- The capsules of a connection: Connect of the admin queue, the properties that enable the controller, then of a
discovery controller its log, and of another Identify of the controller and of its namespaces and Connect of its I/O queues. -/
def connectCapsules (node queues depth namespaces : Nat) (subnqn : List Byte) : List (Nat × List Byte) :=
  [nvmeConnect node 0 32 subnqn, nvmePropertyGet 0 true, nvmePropertySet 0x14 0x46_0001, nvmePropertyGet 0x1C false, nvmeIdentify 1 0].map (fun c => (0, c))
    ++ (if isDiscovery subnqn then [(0, nvmeGetLog 0x70 4096)]
      else (nvmeIdentify 2 0 :: (List.range namespaces).map (fun i => nvmeIdentify 0 (i + 1))).map (fun c => (0, c))
        ++ (List.range queues).map (fun i => (i + 1, nvmeConnect node (i + 1) depth subnqn)))

/-- STORAGE_CONNECT: `namespaces` is what the controller answered, the block size of each namespace, or
none where the connection failed. -/
def execStorageConnect (h : MsgHdr) (ctrl family svcid queues depth addr : Nat) (subnqn : List Byte) (rsv : Bool) (namespaces : Option (List Nat)) (s : State) : Out :=
  message (.storageConnect h ctrl family svcid queues depth addr subnqn rsv namespaces) { code := 0x0060, kind := .priv, svc := 1 } h s (fun s =>
    let t := dropQps s.net.qps ctrl
    let mtu := roceMtu (((portList s).map (fun p => (look s.net.ports {} p).mtu)).foldl min 9194)
    let node := ownNode0 s
    if 32 ≤ ctrl ∨ (family ≠ 4 ∧ family ≠ 6) ∨ 65535 < svcid ∨ queues = 0 ∨ 64 < queues ∨ depth < 2 ∨ 1024 < depth ∨ 255 < subnqn.length ∨ rsv
        ∨ 1024 < t.length + queues + 1 then deny s stInvalidPolicy
    else match namespaces with
      | none => deny (sendCapsule (setQp s (qpOf ctrl 0) { mtu := mtu, peer := addr }) (qpOf ctrl 0) (nvmeConnect node 0 32 subnqn)) stStorageError
      | some l =>
        let c : NvmeCtrl := ⟨family, if svcid = 0 then 4420 else svcid, queues, depth, addr, subnqn, l⟩
        let q := (List.range (queues + 1)).foldl (fun t i => put t (qpOf ctrl i) { mtu := mtu, peer := addr }) t
        let s1 : State := { s with net := { s.net with ctrls := put s.net.ctrls ctrl c, qps := q } }
        done ((connectCapsules node queues depth l.length subnqn).foldl (fun s e => sendCapsule s (qpOf ctrl e.1) e.2) s1) (p4 l.length))

/-- The memory of a request, by virtual address, length and physical address, none where a page of it is
not HBM or does not allow the access. -/
def storSegs (x : Ctx) (va len : Nat) (a : Acc) : Option (List (Nat × Nat × Nat)) :=
  if vaEnd < va + len then none
  else (segs va len).mapM (fun g => match pageOf x.pages g.1 with
    | some (p, d) => if allows p a = true ∧ d < Config.thatchDpa then some (g.1, g.2, d) else none
    | none => none)

/-- Whether the truss fields of a request are valid: none, or a local name and a phase. -/
def storTruss (truss phase : Word) : Bool := truss == 0 || (!nmRemote truss && !nmRsv truss && !phRsv phase)

/-- The remote keys registered for a request. -/
def regKeys (s : State) (sg : List (Nat × Nat × Nat)) : State × List Nat :=
  let key := fun (i : Nat) => (s.net.nextOp * 16 + i) % 0x1_0000_0000
  let n := { s.net with
    rkeys := sg.zipIdx.foldl (fun t e => put t (key e.2) e.1) s.net.rkeys
    nextOp := s.net.nextOp + 1 }
  ({ s with net := n }, (List.range sg.length).map key)

/-- STORAGE_READ and STORAGE_WRITE: the response comes at acceptance. -/
def storageIo (i : Instr) (code : Nat) (read : Bool) (h : MsgHdr) (ctrl nsid slba nlb va : Nat) (truss phase : Word) (rsv : Bool) (s : State) : Out :=
  message i { code := code, kind := .own, ctx := true, svc := 1 } h s (fun s =>
    let x := ctxOf s h.ctx
    match s.net.ctrls.find? (fun e => e.1 == ctrl) with
    | none => deny s stInvalidPolicy
    | some (_, c) =>
      let len := nlb * nth c.spaces (nsid - 1) 0
      if rsv ∨ nsid = 0 ∨ c.spaces.length < nsid ∨ nlb = 0 ∨ 0x100_0000 < len ∨ storTruss truss phase = false ∨ 1024 ≤ x.storage.length then
        deny s stInvalidPolicy
      else match storSegs x va len (if read then .write else .read) with
        | none => deny s stInvalidAddress
        | some sg =>
          let r := regKeys s sg
          let req : StorReq := ⟨h.seq, h.tag, ctrl, read, va, len, truss, phase, r.2⟩
          let s1 := setCtx r.1 h.ctx { x with storage := x.storage ++ [req] }
          let cmd := nvmeRw read (h.seq % 0x1_0000) nsid slba nlb ((sg.zip r.2).map (fun e => (e.1.1, e.1.2.1, e.2)))
          done (sendCapsule s1 (qpOf ctrl (1 + x.storage.length % max c.queues 1)) cmd) [])

/-- STORAGE_READ. -/
def execStorageRead (h : MsgHdr) (ctrl nsid slba nlb va : Nat) (truss phase : Word) (rsv : Bool) (s : State) : Out :=
  storageIo (.storageRead h ctrl nsid slba nlb va truss phase rsv) 0x0061 true h ctrl nsid slba nlb va truss phase rsv s

/-- STORAGE_WRITE. -/
def execStorageWrite (h : MsgHdr) (ctrl nsid slba nlb va : Nat) (truss phase : Word) (rsv : Bool) (s : State) : Out :=
  storageIo (.storageWrite h ctrl nsid slba nlb va truss phase rsv) 0x0062 false h ctrl nsid slba nlb va truss phase rsv s

/-- The destination of a failed read poisoned. -/
def poisonDest (s : State) (k : Nat) (r : StorReq) : State :=
  match storSegs (ctxOf s k) r.va r.bytes .write with
  | some sg => (sg.flatMap (fun g => grainsOf g.2.2 g.2.1)).foldl (fun s g => poisonGrain s (g * 64)) s
  | none => s

/-- The identity with which firmware arrives at a truss: a node's own, and no core. -/
def fwMember (s : State) : Member := .remote (ownNode0 s) 0xFFF

/-- The truss arrival of a completed request. -/
def storArrive (s : State) (k : Nat) (r : StorReq) : State :=
  if r.truss = 0 then s
  else if nameOk s k r.truss then (arriveAt s k (nmVtid r.truss) (fwMember s) (phNo r.phase) (phVal r.phase)).1
  else trussInvalid s k (unitPair 1) (ownNode0 s) (nmVtid r.truss) (nmBgen r.truss) 0x50

/-- STORAGE_DONE of request `seq`, with the NVMe status of the target. -/
def execStorageDone (ctx seq nvmeStatus blocks : Nat) (s : State) : Out :=
  match (ctxOf s ctx).storage.find? (fun r => r.seq == seq) with
  | none => .next s
  | some r =>
    let x := ctxOf s ctx
    let s1 := setCtx s ctx { x with storage := x.storage.erase r }
    let s2 : State := { s1 with net := { s1.net with rkeys := s1.net.rkeys.filter (fun e => !r.keys.elem e.1) } }
    let s3 := if r.read ∧ nvmeStatus ≠ 0 then poisonDest s2 ctx r else s2
    let s4 := asyncRec s3 0x8002 ctx (if nvmeStatus = 0 then stOk else stStorageError)
      (p4 r.seq ++ p4 0 ++ p8 r.tag.toNat ++ leBytes 2 nvmeStatus ++ [0, 0] ++ p4 blocks)
    .next (storArrive s4 ctx r)

end Sys2Proof.Machine
end

