-- ==== Sys2Proof/Machine/Restart.lean ====
section
/-! DEFINITION. Job restart (R400 to R405), checkpoints (R389 to R393) and twins (R394 to R399). -/

namespace Sys2Proof.Machine

/-! ## The halt (R400) -/

/-- The context halted as by CONTEXT_STOP, its launch kept: waits, local arrivals and collectives are
discarded, storage requests and their truss arrivals cancelled, and the context is RESTARTING. -/
def haltCtx (s : State) (k : Nat) : State :=
  let s1 := landAll s k
  let x := ctxOf s1 k
  let s2 := if (partSt s1.place x.part).running = some k then deschedule s1 x.part else s1
  let s3 := mapCores (releaseSpill s2 k) k (fun _ c => stopCore c)
  let s4 := dropKeys s3 x
  let s5 := setCtx s4 k { dropWaiters (ctxOf s4 k) with colls := [], storage := [], pauseReq := false, haltReq := 0 }
  schedule (changeCtx s5 k .restarting 0) x.part

/-- The restarts of the last hour with one more. -/
def restartTimes (x : Ctx) (now : Nat) : List Nat := x.restart.history.filter (fun t => decide (now < t + hour)) ++ [now]

/-- JOB_HALT: the event, the new epoch, the halt of the context and the message to its neighbours in the
tree but the one it came from. -/
def beginHalt (s : State) (k epoch origin cause : Nat) (sender : Option Nat) : State :=
  let x := ctxOf s k
  let s1 := raise s 0x0811 clsJ k 0 (p4 x.jobId ++ p4 epoch ++ p4 origin ++ p4 cause)
  let s2 := haltCtx s1 k
  let s3 := setCtx s2 k { ctxOf s2 k with
    epoch := epoch
    restart := { phase := 1, began := s.clock.ns, history := restartTimes x s.clock.ns, merged := (ctxOf s2 k).restart.merged } }
  let near := (parentOf s3 k (ownNode0 s)).toList ++ kidsOf s3 k (ownNode0 s)
  fwSendAll s3 (near.filter (fun n => sender != some n)) fwJobHalt [x.jobId, epoch, origin, cause]

/-- JOB_HALT of a context with a class J event in handling. -/
def execJobHalt (ctx : Nat) (s : State) : Out :=
  let x := ctxOf s ctx
  match s.obs.handling.find? (fun h => h.cls == clsJ && h.ctx == ctx && h.code != 0x0811) with
  | none => .next s
  | some h =>
    if ctxExists s ctx = false ∨ x.restart.phase ≠ 0 then .next s
    else .next (beginHalt s ctx ((x.epoch + 1) % 0x1_0000) (ownNode0 s) h.seq none)

/-- JOB_HALT of another node: acted on once per epoch, and on a new epoch also while an earlier restart
runs. -/
def execJobHaltReceive (job epoch origin cause sender : Nat) (s : State) : Out :=
  match jobCtx s job with
  | none => .next s
  | some k =>
    if gen16 epoch (ctxOf s k).epoch ≤ 0 then .next s
    else .next (beginHalt s k (epoch % 0x1_0000) origin cause (some sender))

/-- The halt complete, every orphan drained: beyond RESTART_LIMIT restarts in an hour the job ends. -/
def execHaltComplete (ctx : Nat) (s : State) : Out :=
  let x := ctxOf s ctx
  if x.restart.phase ≠ 1 then .next s
  else if x.ckpt.limit < x.restart.history.length then .next (unrecoverable s ctx 1)
  else .next (tryAck (setCtx s ctx { x with restart := { x.restart with phase := 2 } }) ctx)

/-! ## The gather (R401) -/

/-- Whether a replacement by this context's TWIN_SET has named a node. -/
def replacedHere (x : Ctx) (n : Nat) : Bool :=
  match x.twin with
  | some t => t.replace && t.lost == n
  | none => false

/-- HALT_ACK of a subtree; one that comes after the gather has ended is sent RESTORE while the
replacement of its sender is still awaited. -/
def execHaltAckReceive (job sender committed : Nat) (ready : Option Nat) (absent : List Nat) (s : State) : Out :=
  match jobCtx s job with
  | none => .next s
  | some k =>
    let x := ctxOf s k
    let r := x.restart
    let acks := r.acks.filter (fun a => a.node != sender) ++ [⟨sender, committed, ready⟩]
    if 1 ≤ r.phase ∧ r.phase ≤ 2 then
      .next (tryAck (setCtx s k { x with restart := { r with acks := acks, absent := absent.foldl addNat r.absent } }) k)
    else if 3 ≤ r.phase ∧ r.absent.elem sender = true ∧ isRoot s k = true ∧ replacedHere x sender = false
        ∧ s.clock.ns < r.restoreAt.getD 0 + x.ckpt.replaceWait * second then
      .next (fwSend (setCtx s k { x with restart := { r with acks := acks, absent := delNat r.absent sender } }) sender fwRestore [job, r.target])
    else .next s

/-- A child silent for 50 ms. -/
def execHaltAckTimeout (ctx child : Nat) (s : State) : Out :=
  let x := ctxOf s ctx
  if 1 ≤ x.restart.phase ∧ x.restart.phase ≤ 2 ∧ (myKids s ctx).elem child = true ∧ answered x child = false
      ∧ x.restart.began + 50000000 ≤ s.clock.ns then .next (nameAbsent s ctx child)
  else .next s

/-- 200 ms after the coordinator's own halt began: the nodes not covered are treated as lost. -/
def execGatherTimeout (ctx : Nat) (s : State) : Out :=
  let x := ctxOf s ctx
  if x.restart.phase ≠ 2 ∨ isRoot s ctx = false ∨ s.clock.ns < x.restart.began + 200000000 then .next s
  else
    let y := { x with restart := { x.restart with absent := (uncovered s ctx).foldl addNat x.restart.absent } }
    .next (beginRestore (setCtx s ctx y) ctx (gatherEpoch y))

/-! ## Snapshots (R391, R392) -/

/-- The state ranges copied into a slot, poison with the data. -/
def copyToSlot (s : State) (k slot : Nat) : State :=
  let x := ctxOf s k
  (piecesOf x).zipIdx.foldl (fun s e => copyDpa s k (dpaOf x e.1) (slotAt x slot e.2) 4096) s

/-- A slot copied back into the state ranges as whole clean grains. -/
def copyFromSlot (s : State) (k slot : Nat) : State :=
  let x := ctxOf s k
  (piecesOf x).zipIdx.foldl (fun s e =>
    let d := dpaOf x e.1
    let t := copyDpa s k (slotAt x slot e.2) d 4096
    { t with mem := { t.mem with poison := t.mem.poison.filter (fun g => !(decide (d / 64 ≤ g) && decide (g < d / 64 + 64))) } }) s

/-! ## Restore and resume (R402 to R404) -/

/-- RESTORE of an epoch, sent on down the tree. A replacement, whose context is not halted, joins here. -/
def execRestore (job target : Nat) (s : State) : Out :=
  match jobCtx s job with
  | none => .next s
  | some k =>
    let x := ctxOf s k
    if x.restart.phase = 2 then .next (beginRestore s k target)
    else if x.restart.phase = 0 ∧ replacePending x = true ∧ target ≠ 0 then .next (beginRestore (changeCtx s k .restarting 0) k target)
    else .next s

/-- The target copied into the state ranges, none where a grain of it is lost in both copies. -/
def restoreData (s : State) (k : Nat) : Option State :=
  let x := ctxOf s k
  match x.ckpt.slots.find? (fun v => v.epoch == x.restart.target) with
  | some v => if (slotPoison s k v.slot).isEmpty then some (copyFromSlot s k v.slot) else none
  | none => none

/-- The trusses of a context at generation 0, bindings kept (R235). -/
def resetTruss (t : Truss) : Truss :=
  { t with gen := 0, arrived := 0, pending := 0, arrivedM := [], pendingM := [], waiters := [], credits := 0 }

/-- RESUME here: what R404 resets is reset, and the last accepted launch starts at the target epoch. -/
def resumeHere (s : State) (k : Nat) : State :=
  let x := ctxOf s k
  let r := x.restart
  let s1 := setCtx s k { x with
    stepNo := r.target, forwards := []
    trusses := mapTbl x.trusses (fun _ t => resetTruss t)
    groups := mapTbl x.groups (fun _ g => { g with seqNo := 0, held := [], aborts := [], revokes := [] })
    watches := mapTbl x.watches (fun _ w => { w with run := 0, alarm := false, seen := false, nonzero := false })
    twin := x.twin.map (fun t => { t with replace := false })
    restart := { history := r.history } }
  let s2 := mapCores s1 k (fun _ c => { c with acc := [] })
  let m := (coresOf s2.place x.part).foldl (fun m n =>
    [0, Config.page2].foldl (fun m o => clearMem m (imgAt x n o) Config.page2) m) s2.mem
  let s3 := endHandling { s2 with mem := m } (fun g => g.ctx == k && g.cls == clsJ)
  let s4 := raise s3 0x0812 clsC k 0 (p4 x.jobId ++ p4 r.target ++ p4 ((s.clock.ns - r.began) / 1000))
  if x.launch = [] then changeCtx s4 k .idle 0 else startLaunch s4 k x.launch

/-- RESTORE_DONE to the parent once the subtree has restored; the coordinator sends RESUME. -/
def tryDone (s : State) (k : Nat) : State :=
  let x := ctxOf s k
  if x.restart.phase ≠ 4 ∨ (kidsOf s k (ownNode0 s)).all (fun n => x.restart.restored.elem n) = false then s
  else if isRoot s k then
    let kids := kidsOf s k (ownNode0 s)
    resumeHere (fwSendAll s kids fwResume [x.jobId]) k
  else match myParent s k with
    | some p => fwSend s p fwRestoreDone [x.jobId]
    | none => s

/-- The copy of the target done, STATE_POISON cleared; or the state is lost in both copies. -/
def execRestoreCopyDone (ctx : Nat) (s : State) : Out :=
  if (ctxOf s ctx).restart.phase ≠ 3 ∨ s.net.reads.any (fun r => r.ctx == ctx) then .next s
  else match restoreData s ctx with
    | none => .next (unrecoverable s ctx 3)
    | some s1 =>
      let x := ctxOf s1 ctx
      let t := x.restart.target
      .next (tryDone (setCtx s1 ctx { x with
        statePoison := false
        restart := { x.restart with phase := 4 }
        ckpt := { x.ckpt with
          committed := some t, slots := x.ckpt.slots.filter (fun v => v.epoch == t), copying := none, marks := [], readySent := none, readyKids := [] } }) ctx)

/-- RESTORE_DONE of a subtree. -/
def execRestoreDone (job sender : Nat) (s : State) : Out :=
  match jobCtx s job with
  | none => .next s
  | some k =>
    let x := ctxOf s k
    if x.restart.phase < 3 ∨ x.restart.restored.elem sender = true then .next s
    else .next (tryDone (setCtx s k { x with restart := { x.restart with restored := addNat x.restart.restored sender } }) k)

/-- RESUME, sent on down the tree. -/
def execResume (job : Nat) (s : State) : Out :=
  match jobCtx s job with
  | none => .next s
  | some k =>
    let x := ctxOf s k
    if x.restart.phase ≠ 4 then .next s
    else .next (resumeHere (fwSendAll s (kidsOf s k (ownNode0 s)) fwResume [job]) k)

/-- REPLACE_WAIT_S after RESTORE without RESUME. -/
def execReplaceWaitExpiry (ctx : Nat) (s : State) : Out :=
  let x := ctxOf s ctx
  match x.restart.restoreAt with
  | some t => if 3 ≤ x.restart.phase ∧ t + x.ckpt.replaceWait * second ≤ s.clock.ns then .next (unrecoverable s ctx 2) else .next s
  | none => .next s

/-! ## Checkpoints (R391 to R393) -/

/-- Bytes of the state ranges. -/
def stateBytes (ranges : List (Nat × Nat)) : Nat := (ranges.map (fun r => r.2)).sum

/-- Whether no two ranges overlap. -/
def rangesApart (l : List (Nat × Nat)) : Bool :=
  match l with
  | [] => true
  | r :: t => t.all (fun q => !overlaps r.1 r.2 q.1 q.2) && rangesApart t

/-- Whether every field of CHECKPOINT_SET is in range. -/
def ckptOk (s : State) (x : Ctx) (interval restartLimit replaceWait : Nat) (ranges : List (Nat × Nat)) : Bool :=
  decide (interval ≤ 2 ^ 31) && decide (restartLimit ≤ 255) && decide (replaceWait ≤ 3600) && decide (1 ≤ ranges.length) &&
    decide (ranges.length ≤ 16) && ranges.all (fun r => r.1 % 4096 == 0 && r.2 % 4096 == 0 && decide (0 < r.2)
      && writable x r.1 r.2 && regionMapped s x r.1 r.2) && rangesApart ranges && decide (stateBytes ranges ≤ 48 * Config.page1g)

/-- One page of a slot reserved in the partition's HBM. -/
def reserveSlotPage (part : Nat) (e : State × List Nat) (_ : Nat) : Option (State × List Nat) :=
  let s := e.1
  match takeHbm s (stacksOf s.place part) s.mem.allocs Config.page2 (Config.pageStart s.mem.allocs) with
  | none => none
  | some a =>
    some ({ s with mem := { s.mem with fwRanges := s.mem.fwRanges ++ [(a, Config.page2)], allocs := s.mem.allocs + 1 } }, e.2 ++ [a])

/-- CHECKPOINT_SET: the slots of earlier ranges are given back, and their snapshots with them. -/
def execCheckpointSet (h : MsgHdr) (interval restartLimit replaceWait : Nat) (ranges : List (Nat × Nat)) (rsv : Bool) (s : State) : Out :=
  message (.checkpointSet h interval restartLimit replaceWait ranges rsv) { code := 0x0068, kind := .priv, ctx := true, svc := 1 } h s (fun s =>
    let x := ctxOf s h.ctx
    if x.launched then deny s stContextBusy
    else if rsv ∨ x.grid = none ∨ ckptOk s x interval restartLimit replaceWait ranges = false then deny s stInvalidPolicy
    else
      let n := (stateBytes ranges + Config.page2 - 1) / Config.page2
      let s1 := freePages s x.ckpt.pages.flatten
      match (List.range (2 * n)).foldlM (reserveSlotPage x.part) (s1, []) with
      | none => deny s stNoMemory
      | some (s2, l) =>
        let s3 := setCtx s2 h.ctx { x with ckpt := {
          interval := interval, limit := if restartLimit = 0 then 8 else restartLimit
          replaceWait := if replaceWait = 0 then 60 else replaceWait, ranges := ranges, pages := [l.take n, l.drop n] } }
        let s4 := s3.mem.poison.foldl (fun s g => notePoison s (64 * g)) s3
        done s4 (p8 (2 * stateBytes ranges)))

/-- The epoch of a context committed on this device: the older snapshot is free. -/
def commitEpoch (s : State) (k e : Nat) : State :=
  let x := ctxOf s k
  let s1 := setCtx s k { x with ckpt := { x.ckpt with
    committed := some e, slots := x.ckpt.slots.filter (fun v => decide (e ≤ v.epoch))
    readyKids := x.ckpt.readyKids.filter (fun q => decide (e < q.2)) } }
  let s2 := raise s1 0x0814 clsC k 0 (p4 x.jobId ++ p4 e)
  fwSendAll s2 (myKids s2 k) fwCkptCommit [x.jobId, e]

/-- CKPT_READY once this device and all its children have an epoch READY; the coordinator commits it. -/
def checkReady (s : State) (k : Nat) : State :=
  let x := ctxOf s k
  match x.ckpt.slots.find? (fun v => v.ready && x.ckpt.committed != some v.epoch) with
  | none => s
  | some v =>
    if x.ckpt.readySent = some v.epoch ∨ (myKids s k).all (fun n => x.ckpt.readyKids.elem (n, v.epoch)) = false then s
    else if isRoot s k then commitEpoch s k v.epoch
    else match myParent s k with
      | some p => fwSend (setCtx s k { x with ckpt := { x.ckpt with readySent := some v.epoch } }) p fwCkptReady [x.jobId, v.epoch]
      | none => s

/-- Whether a context is paired with its twin. -/
def paired (x : Ctx) : Bool :=
  match x.twin with
  | some t => t.paired
  | none => false

/-- The mirror slot of the twin that does not hold the newest committed epoch (R397). -/
def mirrorSlot (x : Ctx) (t : Twin) : Nat := if nth t.confirmed 0 0 = ownEpoch x ∧ ownEpoch x ≠ 0 then 1 else 0

/-- A snapshot sent to the twin at class MIRROR, poison as poison. -/
def startMirror (s : State) (k : Nat) (t : Twin) (v : Snapshot) : State :=
  let x := ctxOf s k
  let slot := mirrorSlot x t
  let s := (List.range (piecesOf x).length).foldl (fun s i => meet s k 0 (slotAt x v.slot i) 4096) s
  let bs : List Block := (List.range (piecesOf x).length).map (fun i =>
    let a := slotAt x v.slot i
    { key := slot + 1, offset := 4096 * i, aux := x.jobId, payload := readDpa s.mem a 4096
      poison := poisonWord 0 4096 (fun g => s.mem.poison.elem (a / 64 + g)) })
  enqueue (setCtx s k { x with twin := some { t with filling := some (v.epoch, false) } })
    (firmware t.node clMirror k mirrorFlight opWrite none) bs

/-- The oldest snapshot that the twin has not confirmed sent to it, where none is on its way and no restart runs. -/
def nextMirror (s : State) (k : Nat) : State :=
  let x := ctxOf s k
  match x.twin with
  | some t =>
    if t.paired = false ∨ t.filling ≠ none ∨ x.restart.phase ≠ 0 then s
    else match x.ckpt.slots.find? (fun v => !t.confirmed.elem v.epoch) with
      | some v => startMirror s k t v
      | none => s
  | none => s

/-- The state ranges copied for the checkpoint step: allowed once the previous checkpoint has committed;
the cores held at their STEP go on. -/
def execSnapshotCopyDone (ctx : Nat) (s : State) : Out :=
  let x := ctxOf s ctx
  match x.ckpt.copying with
  | none => .next s
  | some q =>
    if x.restart.phase ≠ 0 ∨ x.ckpt.slots.any (fun v => x.ckpt.committed != some v.epoch) then .next s
    else
      let slot := if x.ckpt.slots.any (fun v => v.slot == 0) then 1 else 0
      let s1 := copyToSlot s ctx slot
      let v : Snapshot := ⟨q, slot, slotPoison s1 ctx slot, !paired x⟩
      let y := ctxOf s1 ctx
      let s2 := nextMirror (setCtx s1 ctx { y with ckpt := { y.ckpt with slots := y.ckpt.slots ++ [v], copying := none } }) ctx
      let s3 := mapCores s2 ctx (fun _ c => if c.held = some .stepHold then { c with held := none } else c)
      .next (checkReady s3 ctx)

/-- CKPT_READY of a subtree. -/
def execCkptReady (job sender epoch : Nat) (s : State) : Out :=
  match jobCtx s job with
  | none => .next s
  | some k =>
    let x := ctxOf s k
    if x.ckpt.readyKids.elem (sender, epoch) ∨ (kidsOf s k (ownNode0 s)).elem sender = false then .next s
    else .next (checkReady (setCtx s k { x with ckpt := { x.ckpt with readyKids := x.ckpt.readyKids ++ [(sender, epoch)] } }) k)

/-- CKPT_COMMIT of the coordinator. -/
def execCkptCommit (job epoch : Nat) (s : State) : Out :=
  match jobCtx s job with
  | none => .next s
  | some k =>
    let x := ctxOf s k
    if x.ckpt.committed = some epoch ∨ x.ckpt.slots.any (fun v => v.epoch == epoch && v.ready) = false then .next s
    else .next (commitEpoch s k epoch)

/-! ## Twins (R394 to R398) -/

/-- Mirror slots reserved on this device, in bytes. -/
def mirrorReserved (s : State) : Nat :=
  (ctxNums.map (fun k => match (ctxOf s k).twin with | some t => t.reserved | none => 0)).sum

/-- Whether the fields of TWIN_SET are in range. -/
def twinOk (s : State) (x : Ctx) (node : Nat) (flags : BitVec 8) (lost : Nat) (rsv : Bool) : Bool :=
  !rsv && decide (flags.toNat < 4) && nodeKnown s x.jobId node && (!flags.getLsbD 1 || nodeKnown s x.jobId lost) &&
    some node != ownNode s && !x.ckpt.ranges.isEmpty && (x.twin.isNone || flags.getLsbD 0)

/-- TWIN_SET. -/
def execTwinSet (h : MsgHdr) (node : Nat) (flags : BitVec 8) (lost : Nat) (rsv : Bool) (s : State) : Out :=
  message (.twinSet h node flags lost rsv) { code := 0x0069, kind := .priv, ctx := true, svc := 1 } h s (fun s =>
    let x := ctxOf s h.ctx
    let need := 2 * stateBytes x.ckpt.ranges
    if twinOk s x node flags lost rsv = false then deny s stInvalidPolicy
    else if flags.getLsbD 0 then done (unpair s h.ctx) []
    else if 96 * Config.page1g < mirrorReserved s + need then deny s stNoMemory
    else
      let t : Twin := { node := node, replace := flags.getLsbD 1, lost := lost, lastBeat := s.clock.ns }
      done (setCtx s h.ctx { x with twin := some t }) [])

/-- What a heartbeat says of one context. -/
def beatFields (x : Ctx) (t : Twin) : List Nat :=
  [x.jobId, ownEpoch x, (ownReady x).getD 0, t.mirrors.length] ++ t.mirrors ++ [t.fill]

/-- A heartbeat to every twin of the device. -/
def execTwinHeartbeatSend (s : State) : Out :=
  if alive s = false ∨ serves s 1 = false then .next s
  else
    let twins := ctxNums.filterMap (fun k => (ctxOf s k).twin.map (fun t => (k, t)))
    let nodes := (twins.map (fun e => e.2.node)).foldl addNat []
    .next (nodes.foldl (fun s n =>
      fwSend s n fwHeartbeat ([s.clock.ns, s.net.incarnation] ++
        (twins.filter (fun e => e.2.node == n)).flatMap (fun e => beatFields (ctxOf s e.1) e.2))) s)

/-- The two mirror slots of a pairing reserved; those of an earlier pairing of the context with the same twin are
kept. None where the partition has no room. -/
def reserveMirror (s : State) (k : Nat) (t : Twin) : Option (State × List (List Nat)) :=
  if t.pages ≠ [] then some (s, t.pages)
  else
    let x := ctxOf s k
    let n := (stateBytes x.ckpt.ranges + Config.page2 - 1) / Config.page2
    ((List.range (2 * n)).foldlM (reserveSlotPage x.part) (s, [])).map (fun e => (e.1, [e.2.take n, e.2.drop n]))

/-- TWIN_PAIRED, with the epochs held in the mirror. -/
def pairUp (s : State) (k incarnation : Nat) (t : Twin) : State :=
  match reserveMirror s k t with
  | none => s
  | some (s0, pages) =>
    let x := ctxOf s0 k
    let s1 := setCtx s0 k { x with twin := some { t with
      paired := true, incarnation := incarnation, lastBeat := s.clock.ns, reserved := 2 * stateBytes x.ckpt.ranges
      pages := pages, filling := none } }
    let s2 := raise s1 0x0815 clsC k 0 (p4 t.node ++ p4 (nth t.mirrors 0 0) ++ p4 (nth t.mirrors 1 0))
    if t.replace then fwSend s2 (rootNode s2 k) fwHaltAck [x.jobId, ownNode0 s, ownEpoch x, 0] else s2

/-- The pairing or its renewal after a new INCARNATION; `attested` is the outcome of R423, none where the
peer was accepted. Without an ATTEST key it does not complete (R416). -/
def pairing (s : State) (k incarnation : Nat) (attested : Option Nat) (t : Twin) : State :=
  if s.sec.attestOk = false then s
  else match attested with
    | some c => raise (setCtx s k { ctxOf s k with twin := some { t with paired := false } }) 0x0904 clsC k 0 (p4 t.node ++ p4 c)
    | none => pairUp s k incarnation t

/-- The mirror epochs the twin holds confirm the snapshots of this device (R397). -/
def confirm (s : State) (k : Nat) (b : BeatCtx) : State :=
  let x := ctxOf s k
  match x.twin with
  | none => s
  | some t =>
    if t.paired then
      checkReady (nextMirror (setCtx s k { x with
        twin := some { t with
          lastBeat := s.clock.ns, confirmed := b.mirrors
          filling := match t.filling with | some (e, w) => if b.mirrors.elem e then none else some (e, w) | none => none }
        ckpt := { x.ckpt with slots := x.ckpt.slots.map (fun v => if b.mirrors.elem v.epoch then { v with ready := true } else v) } }) k) k
    else s

/-- What a heartbeat of a node does to one context it is named the twin of: a partner that no longer
names the job has unpaired. -/
def beatOf (node incarnation : Nat) (attested : Option Nat) (beats : List BeatCtx) (s : State) (k : Nat) : State :=
  let x := ctxOf s k
  match x.twin with
  | none => s
  | some t =>
    if t.node ≠ node then s
    else match beats.find? (fun b => b.jobId == x.jobId) with
      | none => if t.paired then raise (setCtx (freePages s t.pages.flatten) k { x with twin := none }) 0x0817 clsC k 0 (p4 node) else s
      | some b =>
        confirm (if t.paired = false ∨ t.incarnation ≠ incarnation then pairing s k incarnation attested t else s) k b

/-- A heartbeat of a twin. -/
def execTwinHeartbeatReceive (node incarnation : Nat) (attested : Option Nat) (beats : List BeatCtx) (s : State) : Out :=
  if alive s = false ∨ serves s 1 = false then .next s
  else .next (ctxNums.foldl (beatOf node incarnation attested beats) s)

/-- No heartbeat for 10 ms. -/
def execTwinLost (ctx : Nat) (s : State) : Out :=
  match (ctxOf s ctx).twin with
  | none => .next s
  | some t =>
    if t.paired = false ∨ s.clock.ns < t.lastBeat + 10000000 then .next s
    else
      let s1 := setCtx s ctx { ctxOf s ctx with twin := some { t with paired := false } }
      .next (raise s1 0x0816 clsJ ctx 0 (p4 t.node ++ p8 t.lastBeat))

/-- Whether a mirror of a context has no block left to be acknowledged. -/
def mirrorSent (s : State) (k node : Nat) : Bool :=
  !(sessOf s node).ops.any (fun o => decide (64 ≤ o.ctx) && o.core == k && o.flight == mirrorFlight)

/-- A snapshot fully written into a mirror slot: of this device on its twin, every block acknowledged, or of the twin
on this device. -/
def execMirrorWriteDone (ctx epoch : Nat) (s : State) : Out :=
  let x := ctxOf s ctx
  match x.twin with
  | none => .next s
  | some t =>
    if t.paired = false then .next s
    else if t.filling = some (epoch, false) ∧ mirrorSent s ctx t.node = true then
      let n := stateBytes x.ckpt.ranges / 64
      let s1 := setCtx s ctx { x with twin := some { t with filling := some (epoch, true) } }
      .next (progressRec (progressRec (fwSend s1 t.node fwMirror [x.jobId, epoch, n]) 4 ctx 0 n) 4 ctx n n)
    else match t.landing with
      | some i => .next (setCtx s ctx { x with twin := some { t with mirrors := t.mirrors.set i epoch, landing := none } })
      | none => .next s

end Sys2Proof.Machine
end

