-- ==== Sys2Proof/Machine/LiveUpdate.lean ====
section
/-! DEFINITION. Live update (R373 to R377, R420), the verification of images (R417), writes of the
configuration flash (R413) and the debug token (R424). Targets are 0 the firmware complex, 1 the PMU, 2 the
network dies; a bank of target t is 2t or 2t + 1. -/

namespace Sys2Proof.Machine

/-! ## Banks and images (R417, R418) -/

/-- The live update of a target. -/
def updAt (s : State) (t : Nat) : Update := look s.fw.updates {} t

/-- The live update of a target replaced. -/
def setUpd (s : State) (t : Nat) (u : Update) : State := { s with fw := { s.fw with updates := put s.fw.updates t u } }

/-- The image a part is shipped with: SVN 0, as its counters. -/
def shippedImage (t : Nat) : Image :=
  { version := Config.shipped t 0, compatId := Config.shipped t 1, manifest := Config.shippedManifest t }

/-- The image a target runs. -/
def runningOf (s : State) (t : Nat) : Image := look s.sec.running (shippedImage t) t

/-- The boot bank of a target. -/
def bootBank (s : State) (t : Nat) : Nat := look s.sec.bootPtr 0 t

/-- Counter `i` of the flash (R419). -/
def rollCtr (s : State) (i : Nat) : Nat := look s.sec.counters 0 i

/-- The counter that guards a target. -/
def guardOf (t : Nat) : Nat := t + 2

/-- The first check of R417 that an image fails, in order, 0 where none does; `ctr` tells whether check 6
is made. -/
def failedCheck (s : State) (target : Nat) (m : Manifest) (img : List Byte) (ctr : Bool) : Nat :=
  if m.magicOk = false then 1
  else if m.target ≠ target then 2
  else if m.keySlot < rollCtr s 0 ∨ 3 < m.keySlot then 3
  else if shake256 64 m.signer ≠ Config.rootDigest m.keySlot then 4
  else if Config.ed448Verify m.signer (shake256 64 m.signed) m.signature = false then 5
  else if ctr && decide (m.svn < rollCtr s m.counter) then 6
  else if img.length < m.length ∨ shake256 64 (img.take m.length) ≠ m.hash then 7
  else 0

/-- IMAGE_REJECTED. -/
def imageRejected (s : State) (target check svn ctr : Nat) : State :=
  raise s 0x0901 clsC noCtx 0 (p4 target ++ p4 check ++ p4 svn ++ p4 ctr)

/-- The bytes of a manifest (R417). -/
def manifestBytes (m : Manifest) : List Byte := padTo 0xC0 m.signed ++ padTo 114 m.signature ++ List.replicate 14 0

/-- What a bank holds of a verified image. -/
def imageOf (m : Manifest) : Image :=
  { svn := m.svn, version := m.version, compatId := m.compatId, loaderSvn := m.loaderSvn, revoke := m.revoke, manifest := manifestBytes m }

/-! ## Records and progress -/

/-- An FW_STATE record. -/
def fwState (s : State) (target state version cause : Nat) : State :=
  asyncRec s 0x8004 noCtx (if state = 4 then stActivateDeferred else stOk)
    (leBytes 1 target ++ leBytes 1 state ++ leBytes 6 0 ++ p8 version ++ leBytes 1 cause)

/-- A staging gone from `old` to `pos` bytes: its PROGRESS record, and from READY on DEV_PROGRESS with
vector 2 at each change of PERCENT. -/
def stageProgress (s : State) (target old pos total : Nat) (first : Bool) : State :=
  let s1 := progressTo s 1 noCtx old pos total first
  if s.fw.stage < 10 ∨ (first = false ∧ percentOf old total = percentOf pos total) then s1
  else
    let before := percentOf s.fw.progPos s.fw.progTotal
    let s2 : State := { s1 with fw := { s1.fw with progOp := 1, progTarget := target, progPos := pos, progTotal := total } }
    if before = percentOf pos total then s2 else fire2 s2

/-! ## FW_STAGE (R373) -/

/-- The staged bytes with a piece put in its place. -/
def placePiece (d : List Byte) (off : Nat) (p : List Byte) : List Byte :=
  padTo off d ++ p ++ d.drop (off + p.length)

/-- The manifest an image begins with (R417). -/
def readManifest (b : List Byte) : Manifest :=
  let f := field b
  let body := b.drop 320
  { magicOk := f 0 4 == 0x4D58_4254 && f 4 2 == 1 && decide (f 0x24 4 < 2) && !rsvSet b 0x68 24 && !rsvSet b 0xB9 7 && !rsvSet b 0x132 14
    target := f 6 1, keySlot := f 7 1, svn := f 8 4, counter := f 12 4, version := f 16 8, length := f 24 8, compatId := f 32 4
    loaderSvn := if f 0x24 4 = 1 then Config.nestedSvn body else 0
    revoke := Config.revocation body, hash := (b.drop 0x28).take 64, signer := (b.drop 0x80).take 57
    signature := (b.drop 0xC0).take 114, signed := b.take 0xC0 }

/-- The verification after LAST: the state and the status. -/
def verifyStaged (s : State) (t : Nat) : State × Nat :=
  let u := updAt s t
  let m := readManifest u.data
  let check := failedCheck s t m (u.data.drop 320) true
  if check = 0 then
    let s1 := setUpd s t { u with phase := 2, data := [], staged := some (imageOf m) }
    let s2 : State := { s1 with sec := { s1.sec with banks := put s1.sec.banks (2 * t + (1 - bootBank s t)) (imageOf m) } }
    (raise (fwState s2 t 0 m.version 0) 0x0704 clsC noCtx 0 (p4 t ++ p4 m.version), stOk)
  else (imageRejected (setUpd s t {}) t check m.svn (rollCtr s m.counter), if check = 6 then stRollbackRefused else stSignatureInvalid)

/-- The piece of an image that FW_STAGE brings: carried, or by reference LEN bytes of what host memory holds at HOST_ADDR. -/
def stagedPiece (data : List Byte) (ref : Option (Nat × Nat)) : List Byte :=
  match ref with
  | some r => resize r.2 0 data
  | none => data

/-- FW_STAGE: a piece put into the staging area, the image verified after the last. -/
def execFwStage (h : MsgHdr) (target : Nat) (flags : BitVec 8) (offset total : Nat) (data : List Byte) (ref : Option (Nat × Nat))
    (rsv : Bool) (s : State) : Out :=
  message (.fwStage h target flags offset total data ref rsv) { code := 0x0070, kind := .priv, recov := true, svc := 3 } h s (fun s =>
    let u := updAt s target
    let first := flags.getLsbD 0
    let data := stagedPiece data ref
    if rsv ∨ ref.isSome ≠ flags.getLsbD 2 ∨ 2 < target ∨ 8 ≤ flags.toNat ∨ total < offset + data.length ∨ (flags.getLsbD 2 = false ∧ 8128 < data.length) then deny s stInvalidPolicy
    else if 3 ≤ u.phase then deny s stActivationPending
    else if first = false ∧ (u.phase ≠ 1 ∨ total ≠ u.total) then deny s stInvalidPolicy
    else
      let got := (if first then 0 else u.got) + data.length
      let v : Update := { u with
        phase := 1, got := got, total := total, data := placePiece (if first then [] else u.data) offset data, staged := none }
      let s1 := stageProgress (setUpd s target v) target (if first then 0 else u.got) got total first
      if flags.getLsbD 1 then
        let r := verifyStaged s1 target
        (r.1, r.2, p8 got)
      else done s1 (p8 got))

/-! ## Activation (R374 to R377) -/

/-- The version registers of a firmware-complex image (R467). -/
def setFwNumbers (f : Firmware) (v : Image) : Firmware :=
  let n := fun (i b : Nat) => Config.fwNumbers v.version i % 2 ^ b
  { f with fwMajor := n 0 16, fwMinor := n 1 16, fwPatch := n 2 32, msgMinor := n 3 8, compatId := v.compatId }

/-- A target runs an image. -/
def runImage (s : State) (t : Nat) (v : Image) : State :=
  { s with
    sec := { s.sec with running := put s.sec.running t v }
    fw := if t = 0 then setFwNumbers s.fw v else s.fw }

/-- The recovery boot's activation: the image is in flash and boot starts again at stage ROM. -/
def rebootFrom (s : State) (t : Nat) : State :=
  fire2 { s with
    sec := { s.sec with bootPtr := put s.sec.bootPtr t (1 - bootBank s t) }
    fw := { s.fw with stage := 1, bootError := 0, recoveryBoot := false, updates := drop s.fw.updates t, progPos := 0 } }

/-- FW_ACTIVATE. -/
def execFwActivate (h : MsgHdr) (target windowS commitS : Nat) (rsv : Bool) (s : State) : Out :=
  message (.fwActivate h target windowS commitS rsv) { code := 0x0071, kind := .priv, recov := true, svc := 3 } h s (fun s =>
    let u := updAt s target
    if rsv ∨ 2 < target ∨ 600 < windowS ∨ (commitS ≠ 0 ∧ (commitS < 10 ∨ 3600 < commitS)) then deny s stInvalidPolicy
    else if 3 ≤ u.phase then deny s stActivationPending
    else if u.phase ≠ 2 then deny s stNothingStaged
    else if s.fw.recoveryBoot then done (rebootFrom s target) []
    else done (setUpd s target { u with
      phase := 3, reqAt := s.clock.ns, window := if windowS = 0 then 30 else windowS, commit := if commitS = 0 then 60 else commitS }) [])

/-- Whether a job restart is in progress on the device. -/
def anyRestart (s : State) : Bool := ctxNums.any (fun k => (ctxOf s k).restart.phase != 0)

/-- The image on trial given up: the target runs its old image again. -/
def rollBack (s : State) (t cause : Nat) : State :=
  let u := updAt s t
  let v := u.old.getD (runningOf s t)
  let s1 := fire2 (setUpd (runImage s t v) t {})
  let s2 := fwState s1 t 3 v.version cause
  raise s2 0x0707 clsC noCtx 0 (p4 t ++ p4 v.version ++ p4 cause)

/-- The longest pause of an activation in µs (R375, R377). -/
def pauseLimit (t : Nat) : Nat := if t = 0 then 20000 else if t = 1 then 1000 else 5000

/-- An activation begun and carried out: no emergency and no restart holds it. A hand-over record that the
new image cannot import brings the old image back. The PMU's bank swap is made under the fallback. -/
def execFwActivationBegin (target : Nat) (importOk : Bool) (s : State) : Out :=
  let u := updAt s target
  match u.staged with
  | none => .next s
  | some v =>
    if u.phase ≠ 3 ∨ s.power.emActive ∨ anyRestart s = true ∨ alive s = false ∨ serves s 3 = false then .next s
    else
      let old := runningOf s target
      let s1 := setUpd s target { u with phase := 4, old := some old, actAt := s.clock.ns }
      if target = 0 ∧ importOk = false then .next (rollBack s1 target 2)
      else
        let s2 := runImage s1 target v
        let s3 : State := if target = 1 then { s2 with power := { s2.power with fallback := true, planned := true } } else s2
        let s4 := fire2 (fwState s3 target 1 v.version 0)
        .next (drawn (raise s4 0x0705 clsC noCtx 0
          (p4 target ++ p4 old.version ++ p4 v.version ++ p4 (freeVal s 32 % (pauseLimit target + 1)))))

/-- WINDOW_S passed before the activation could begin: it is deferred, the image staged. -/
def execFwActivateWindowExpiry (target : Nat) (s : State) : Out :=
  let u := updAt s target
  if u.phase ≠ 3 ∨ s.clock.ns < u.reqAt + u.window * second then .next s
  else
    let cause := if s.power.emActive then 0 else 1
    let s1 := fwState (setUpd s target { u with phase := 2 }) target 4 ((u.staged.map (fun v => v.version)).getD 0) cause
    .next (raise s1 0x0708 clsC noCtx 0 (p4 target ++ p8 (u.window * second) ++ p4 cause))

/-! ## Commit and rollback (R376, R420) -/

/-- A counter raised to a value, with COUNTER_ADVANCED where it rises; it never falls. -/
def raiseCounter (s : State) (i v : Nat) : State :=
  let old := rollCtr s i
  if v ≤ old then s
  else
    let s1 : State := { s with sec := { s.sec with counters := put s.sec.counters i v } }
    raise s1 0x0905 clsC noCtx 0 (p4 i ++ p4 old ++ p4 v)

/-- The counters of an image brought up to it. -/
def advanceCounters (s : State) (t : Nat) (v : Image) : State :=
  let s1 := raiseCounter s (guardOf t) v.svn
  let s2 := if t = 0 then raiseCounter s1 1 v.loaderSvn else s1
  raiseCounter s2 0 v.revoke

/-- An authenticated area written by firmware: its write counter is one higher (R413). -/
def wroteArea (s : State) (a : Nat) : State := { s with sec := { s.sec with writeCtr := put s.sec.writeCtr a (look s.sec.writeCtr 0 a + 1) } }

/-- The image of a target committed: BOOT_PTR, then the counters, then the old bank. -/
def commitImage (s : State) (t : Nat) (v : Image) : State :=
  let old := bootBank s t
  let s1 := wroteArea { s with sec := { s.sec with bootPtr := put s.sec.bootPtr t (1 - old) } } 6
  let s2 := wroteArea (advanceCounters s1 t v) 3
  { s2 with sec := { s2.sec with banks := drop s2.sec.banks (2 * t + old) } }

/-- FW_COMMIT, within COMMIT_S. -/
def execFwCommit (h : MsgHdr) (target : Nat) (rsv : Bool) (s : State) : Out :=
  message (.fwCommit h target rsv) { code := 0x0072, kind := .priv, svc := 3 } h s (fun s =>
    if rsv then deny s stInvalidPolicy else
    let u := updAt s target
    let v := runningOf s target
    if 2 < target then deny s stInvalidPolicy
    else if u.phase ≠ 4 ∨ u.actAt + u.commit * second < s.clock.ns then deny s stNothingStaged
    else
      let s1 := fire2 (setUpd (commitImage s target v) target {})
      done (raise (fwState s1 target 2 v.version 0) 0x0706 clsC noCtx 0 (p4 target ++ p4 v.version)) [])

/-- FW_ROLLBACK. -/
def execFwRollback (h : MsgHdr) (target : Nat) (rsv : Bool) (s : State) : Out :=
  message (.fwRollback h target rsv) { code := 0x0073, kind := .priv, svc := 3 } h s (fun s =>
    if rsv then deny s stInvalidPolicy else
    if 2 < target then deny s stInvalidPolicy
    else if (updAt s target).phase ≠ 4 then deny s stNothingStaged
    else done (rollBack s target 0) [])

/-- COMMIT_S passed without a commit. -/
def execFwCommitTimeout (target : Nat) (s : State) : Out :=
  let u := updAt s target
  if u.phase ≠ 4 ∨ s.clock.ns < u.actAt + u.commit * second then .next s else .next (rollBack s target 1)

/-! ## The flash (R413, R419) -/

/-- Counter `i` as sixteen little-endian words give it. -/
def ctrField (d : List Byte) (i : Nat) : Nat := leNat ((d.drop (4 * i)).take 4)

/-- What an authenticated write changes: the counters only rise and 5 to 15 stay 0; BOOT_PTR holds a byte
per target. -/
def applyArea (x : Security) (area : Nat) (d : List Byte) : Security :=
  let y := { x with areas := put x.areas area d }
  if area = 3 then { y with counters := (List.range 5).foldl (fun t i => put t i (max (look t 0 i) (ctrField d i))) x.counters }
  else if area = 6 then { y with bootPtr := (List.range 3).foldl (fun t i => put t i ((nth d i 0).toNat % 2)) x.bootPtr }
  else y

/-- FLASH_WRITE_REFUSED. -/
def flashRefused (s : State) (area cause : Nat) : State := raise s 0x0906 clsC noCtx 0 (p4 area ++ p4 cause)

/-- An authenticated write of area 2 HELPER, 3 COUNTERS, 4 OVERLAY or 6 BOOT_PTR; no other area takes one. -/
def execFlashWrite (area : Nat) (counter : Nat) (tag : List Byte) (data : List Byte) (s : State) : Out :=
  if [2, 3, 4, 6].elem area = false then .next s
  else if tag ≠ kmac256 Config.flashKey (Config.flashTagged area counter data) then .next (flashRefused s area 0)
  else if counter ≠ look s.sec.writeCtr 0 area + 1 then .next (flashRefused s area 1)
  else .next { s with sec := { applyArea s.sec area data with writeCtr := put s.sec.writeCtr area counter } }

/-- A debug token: it takes effect at the next boot. -/
def execDebugUnlockToken (m : Manifest) (s : State) : Out :=
  let check := failedCheck s 4 m (p8 Config.serial ++ Config.identityDigest) false
  if check = 0 then .next { s with sec := { s.sec with debugNext := true } }
  else .next (imageRejected s 4 check m.svn (rollCtr s m.counter))

end Sys2Proof.Machine
end

