-- ==== Sys2Proof/Machine/Boot.lean ====
section
/-! DEFINITION. Power, reset and boot (R333, R341 to R343, R418, R420, R449, R453 to R459), the firmware
pairs (R339), device recovery (R406, R407), the sideband mode (R449), the PCIe link (R464) and the end of
manager sessions (R423). -/

namespace Sys2Proof.Machine

/-! ## Device recovery (R406, R407) -/

/-- The engines reset: sessions, bursts and Chain credits are lost, HBM is not. -/
def resetEngines (s : State) : State :=
  { s with
    net := { s.net with sessions := [], reads := [] }
    chain := { s.chain with dirs := [], credits := [], bursts := [], swaps := [] } }

/-- DEVICE_RECOVERY raised. During a recovery it is class X (R387); otherwise every job is halted, an image
on trial given up, and boot stages 3 to 9 are run again. -/
def startRecovery (s : State) (cause : Nat) : State :=
  let s1 := raise s 0x0819 clsV noCtx 0 (p4 cause ++ p4 (if s.fw.recovering then s.fw.recoverStage else 3))
  if s.fw.recovering then s1
  else
    let s2 := (List.range 3).foldl (fun s t => if (updAt s t).phase = 4 then rollBack s t 3 else s) s1
    let s3 := ctxNums.foldl (fun s k =>
      if ctxExists s k then beginHalt s k (((ctxOf s k).epoch + 1) % 0x1_0000) (ownNode0 s) cause none else s) s2
    let s4 := resetEngines s3
    fire2 { s4 with fw := { s4.fw with recovering := true, recoverStage := 3, recoverBlocked := false } }

/-- DEVICE_RECOVERY: cause 0 is a class V event in handling, 1 to 5 an uncorrected error in a truss unit, a
TLB or walker, credit state, session state or firmware memory. -/
def execDeviceRecovery (cause : Nat) (s : State) : Out :=
  if alive s = false ∨ s.fw.stage < 4 then .next s
  else if cause = 0 then
    match s.obs.handling.find? (fun h => h.cls == clsV && h.code != 0x0819) with
    | some h => if s.fw.recovering then .next s else .next (startRecovery s h.seq)
    | none => .next s
  else if cause ≤ 5 then .next (startRecovery s 0)
  else .next s

/-- The end of a recovery whose stages have run: firmware state imported and INCARNATION incremented; one
that cannot complete becomes class X. -/
def execDeviceRecoveryComplete (imported : Bool) (s : State) : Out :=
  if s.fw.recovering = false ∨ s.fw.recoverStage < 10 ∨ alive s = false then .next s
  else if imported = false ∨ s.fw.recoverBlocked then .next (startRecovery s 0)
  else
    let s1 : State := { s with
      fw := { s.fw with recovering := false, recoverStage := 0 }
      net := { s.net with incarnation := s.net.incarnation + 1, attested := [] } }
    .next (fire2 (endHandling s1 (fun h => h.cls == clsV)))

/-! ## Reset (R456) -/

/-- A bay at reset: what the re-fit overlay and the always-on counters keep. -/
def resetBay (y : Bay) : Bay :=
  { cycles := y.cycles, lost := y.lost, offsets := y.offsets, raisedAt := y.raisedAt, topPoint := y.topPoint }

/-- Every domain but the always-on domain reset. What the flash holds stays: counters, banks, placement
map, lane map, re-fit overlay, gains and the repairs of the memories. -/
def perstReset (s : State) : State :=
  { pending := s.pending, freeCtr := s.freeCtr
    clock := { s.clock with
      source := 0, profile := 0, port := 0, unsynced := false, ppsOutAt := none, delay := 0, syncWait := none
      delayReq := none, pdelayReq := none, pdelayResp := none, ptpSeq := 0 }
    obs := { counters := s.obs.counters, seqNext := s.obs.seqNext, fatal := s.obs.fatal }
    sec := { s.sec with running := [], spdm := [] }
    host := {
      errSummary := s.host.errSummary, lastSeq := s.host.lastSeq, lastInfo := s.host.lastInfo, lastTime := s.host.lastTime
      latchInfo := s.host.latchInfo, latchTime := s.host.latchTime
      cntJ := s.host.cntJ, cntV := s.host.cntV, cntX := s.host.cntX, cntFw := s.host.cntFw
      hostWr := s.host.hostWr, msi := s.host.msi, pldm := s.host.pldm }
    board := { s.board with i3c := none, alertN := !s.obs.fatal, bayStop := List.range 16 }
    place := {
      phys := mapTbl s.place.phys (fun _ x => { x with resident := none, switchAt := 0 })
      map := s.place.map, spare := s.place.spare }
    power := { bays := mapTbl s.power.bays (fun _ y => resetBay y), gains := s.power.gains, overhead := s.power.overhead, fastLow := s.power.fastLow }
    chain := { laneMap := s.chain.laneMap, laneSt := s.chain.laneSt }
    mem := {
      slices := s.mem.slices.filter (fun e => e.2 == .retired), spares := s.mem.spares, repaired := s.mem.repaired
      pool := s.mem.pool, retired := s.mem.retired }
    net := {
      incarnation := s.net.incarnation, tx := s.net.tx, arpTx := s.net.arpTx, fwTx := s.net.fwTx } }

/-- PERST_N falls. -/
def execPerstNAssert (s : State) : Out :=
  if s.board.perstLow then .next s
  else
    let s1 := perstReset s
    .next { s1 with board := { s1.board with perstLow := true, waiting := false } }

/-- Whether a rail of groups 1 to 4 is out of range (R454). -/
def groupsLow (b : Board) : Bool := b.low.any (fun r => decide (4 ≤ r))

/-- The events that boot raises once the error log exists. -/
def note (f : Firmware) (code : Nat) (pay : List Byte) : Firmware := { f with notes := f.notes ++ [(code, pay)] }

/-- PERST_N rises: the straps are sampled, the sideband starts as an SMBus target, a debug token takes
effect, and boot starts, or waits for a rail; INCARNATION is incremented. -/
def execPerstNRelease (bootMode : BitVec 2) (clkMode : Bool) (s : State) : Out :=
  if s.board.perstLow = false then .next s
  else
    let f : Firmware := { s.fw with bootMode := bootMode, clkMode := clkMode }
    .next { s with
      board := { s.board with perstLow := false, waiting := groupsLow s.board, i3c := none }
      fw := if s.sec.debugNext then note f 0x0907 (p8 Config.serial) else f
      sec := { s.sec with debug := s.sec.debug || s.sec.debugNext, debugNext := false }
      net := { s.net with incarnation := s.net.incarnation + 1 } }

/-- VDD_AON comes up first: device time starts at 0, the always-on counters at 0, every other rail is still
out of range and the board holds PERST_N low. -/
def execPowerUp (s : State) : Out :=
  let s1 := perstReset s
  .next { s1 with
    clock := {}
    obs := {}
    host := { hostWr := s.host.hostWr, msi := s.host.msi, pldm := s.host.pldm }
    sec := { s1.sec with debug := false, debugNext := false }
    power := { s1.power with bays := mapTbl s1.power.bays (fun _ y => { y with cycles := 0, lost := 0 }), overhead := 0 }
    board := { low := (List.range 22).filter (fun r => r != 13), perstLow := true, bayStop := List.range 16 } }

/-! ## Rails and REF25 (R453, R457, R459) -/

/-- A rail below its range for 1 µs: VDD_CTL and VDD_AON reset the device, whose next boot is a new incarnation (R263,
R456), a VDD_CD rail stops its bay
clocks, and it and every other rail raise device recovery. -/
def execRailUndervoltage (r : Nat) (s : State) : Out :=
  if 22 ≤ r ∨ s.board.low.elem r then .next s
  else
    let s1 : State := { s with board := { s.board with low := addNat s.board.low r } }
    if r = 12 ∨ r = 13 then
      let s2 := perstReset s1
      .next { s2 with
        board := { s2.board with waiting := !s.board.perstLow }
        net := { s2.net with incarnation := s2.net.incarnation + b1 (!s.board.perstLow) } }
    else if s.board.perstLow ∨ s.fw.stage < 4 ∨ (r < 4 ∧ s.fw.stage < 6) ∨ s.obs.fatal then .next s1
    else
      let s2 : State := if r < 4 then
        { s1 with board := { s1.board with bayStop := (List.range 4).foldl (fun l i => addNat l (4 * r + i)) s1.board.bayStop } } else s1
      .next (startRecovery s2 0)

/-- A rail back in range: a ROM that waited goes on once groups 1 to 4 are in range, a rise of VIO_1V8
resets the sideband, and VDD_CTL back after it was away clears the trip latch and FATAL. -/
def execRailInRange (r : Nat) (s : State) : Out :=
  if s.board.low.elem r = false then .next s
  else
    let b : Board := { s.board with low := delNat s.board.low r }
    let b1 : Board := { b with waiting := b.waiting && groupsLow b, i3c := if r = 14 then none else b.i3c }
    if r = 12 then .next { s with board := { b1 with tripLatch := false, thermN := true, alertN := true }, obs := { s.obs with fatal := false } }
    else .next { s with board := b1 }

/-- REF25 lost: device time stops and DEVICE_RECOVERY is raised. -/
def execRef25Loss (s : State) : Out :=
  if s.clock.ref25 = false then .next s
  else
    let s1 : State := { s with clock := { s.clock with ref25 := false } }
    if s.board.perstLow ∨ s.fw.stage < 4 ∨ s.obs.fatal then .next s1 else .next (startRecovery s1 0)

/-- REF25 back: device time runs again. -/
def execRef25Return (s : State) : Out := .next { s with clock := { s.clock with ref25 := true } }

/-! ## Boot (R341, R418) -/

/-- The position of boot at the end of a stage, in thousandths of the typical 8 s. -/
def bootPos (stage : Nat) : Nat := nth [1, 7, 11, 13, 25, 625, 687, 750, 1000] (stage - 1) 1000

/-- Boot stopped with an error; recovery over PCIe follows where the straps allow it. -/
def bootStop (s : State) (err : Nat) : State :=
  fire2 { s with fw := { s.fw with bootError := err, recoveryBoot := decide (err ≠ 4) && (s.fw.bootMode == 0) } }

/-- The image a bank holds; the boot bank of a part as shipped holds the shipped one. -/
def bankImage (s : State) (t bank : Nat) : Image := look s.sec.banks (shippedImage t) (2 * t + bank)

/-- A target started from its boot bank, or from the other one with BOOT_BANK_FALLBACK. -/
def bootTarget (f : BootFinding) (s : State) (t : Nat) : State :=
  let b := if f.bankFailed.elem t then 1 - bootBank s t else bootBank s t
  let s1 : State := { s with sec := { s.sec with running := put s.sec.running t (bankImage s t b) } }
  if f.bankFailed.elem t then { s1 with fw := note s1.fw 0x0902 (p4 t ++ p4 b) } else s1

/-- Stage ROM: the identity, with helper data written afresh where a block needed much correction (R414), the
configuration record and the loader of target 0. -/
def bootRom (f : BootFinding) (s : State) : State :=
  let s1 : State := { s with sec := { s.sec with attestOk := f.identityBad.isNone, attestCtrs := (List.range 5).map (rollCtr s), attestDbg := s.sec.debug } }
  let s2 : State := match f.identityBad with
    | some c => { s1 with fw := note s1.fw 0x0903 (p4 c) }
    | none => s1
  bootTarget f (if f.helperWorn then wroteArea s2 2 else s2) 0

/-- The event of a thermal trip that the always-on domain kept, put in the log. -/
def logTrip (s : State) : State :=
  match s.board.tripSaved with
  | none => s
  | some (n, t) =>
    let e : Event := { mkEvent s 0x0607 clsX noCtx (unitSensor n) (p4 n ++ pTemp t) with cls := clsX, escal := false }
    { s with
      obs := { traceEvent s.obs e 0xFFFF 0 with seqNext := seqAfter s.obs.seqNext, log := logAdd s.obs.log e }
      board := { s.board with tripSaved := none } }

/-- Stage KERNEL: the version registers, the events kept for the log, and the commit that power
interrupted (R420). -/
def bootKernel (s : State) : State :=
  let s1 : State := { s with fw := { setFwNumbers s.fw (runningOf s 0) with serial := Config.serial, notes := [] } }
  let s2 := s.fw.notes.foldl (fun s n => raise s n.1 clsC noCtx 0 n.2) (logTrip s1)
  (List.range 3).foldl (fun s t =>
    let v := runningOf s t
    if rollCtr s (guardOf t) < v.svn then
      let s3 := wroteArea (advanceCounters s t v) 3
      { s3 with sec := { s3.sec with banks := drop s3.sec.banks (2 * t + (1 - bootBank s3 t)) } }
    else s) s2

/-- Whether a lane fails training: its margin is below the threshold, or it found no lock. -/
def failsTraining (e : Nat × Nat × Bool) : Bool := decide (e.2.1 < Config.laneThreshold) || !e.2.2

/-- The training of a join's lanes, active and spare alike (R247): the margins measured are kept, a spare that fails
is failed, and each active lane that fails is replaced by the lowest free spare; without one it counts as unlocked. -/
def trainJoin (lanes : List (Nat × Nat × Nat × Bool)) (s : State) (j : Nat) : State :=
  let ls := (lanes.filter (fun e => e.1 == j && decide (e.2.1 < lanesAll j))).map (fun e => e.2)
  let bad := ls.filter failsTraining
  let c1 := keepMargins s.chain j ls
  let c2 := { c1 with laneSt := bad.foldl (fun t e => if laneState c1 j e.1 = 1 then put t (256 * j + e.1) 3 else t) c1.laneSt }
  ((List.range (lanesActive j)).filter (fun l => bad.any (fun e => e.1 == physLane c2 j l))).foldl (fun s l =>
    match freeSpares s.chain j with
    | sp :: _ => switchLane s j true ⟨l, sp, if s.chain.unlocked.elem (256 * j + physLane s.chain j l) then 2 else 1, 0⟩
    | [] => { s with chain := { s.chain with unlocked := addNat s.chain.unlocked (256 * j + physLane s.chain j l) } })
    { s with chain := c2 }

/-- Stage CHAIN: every lane of every join trained; each direction starts anew, its scrambler reset (R241). -/
def bootChain (f : BootFinding) (s : State) : State :=
  (List.range 16).foldl (trainJoin f.trained) { s with chain := { s.chain with dirs := [], swaps := [], credits := [] } }

/-- A bay started at 550 MHz; an overlay refused at boot leaves offsets of 0. -/
def bootBay (bad : List Nat) (s : State) (b : Nat) : State :=
  let y := bayAt s b
  let y1 : Bay := { resetBay y with offsets := if bad.elem b then [] else y.offsets, idleSince := s.clock.ns }
  let s1 := setRail (setBay s b { y1 with volt := tableMv b y1 550 }) b
  if bad.elem b then raise s1 0x060C clsC noCtx (unitBay b) (p4 b ++ p4 0 ++ p4 0) else s1

/-- Stage CLOCKS: the compute rails, the bays and the PLLs. -/
def bootClocks (f : BootFinding) (s : State) : State :=
  let s1 := (List.range 16).foldl (bootBay f.badOverlay) s
  { s1 with board := { s1.board with bayStop := [], low := if s.fw.recovering then s1.board.low else s1.board.low.filter (fun r => decide (4 ≤ r)) } }

/-- Stage MEMORY of a recovery: Thatch and the scratchpads are written clean, HBM is not; save images are
then at home. -/
def remakeSram (s : State) : State :=
  { s with
    mem := { s.mem with
      cells := s.mem.cells.filter (fun e => decide (e.1 < Config.thatchDpa))
      poison := s.mem.poison.filter (fun g => decide (g * 64 < Config.thatchDpa))
      upsets := s.mem.upsets.filter (fun u => decide (u.1 < Config.thatchDpa))
      stale := s.mem.stale.filter (fun r => decide (r.1 < Config.thatchDpa))
      slices := s.mem.slices.filter (fun e => e.2 == .retired)
      lines := [] }
    ctxs := mapTbl s.ctxs (fun _ x => { x with imgThatch := [] }) }

/-- Stage SELFTEST: the scratchpads hold test data, the cores that failed are declared failed, and a partition that
lacks a core is unavailable (R26, R135). -/
def selfTest (f : BootFinding) (s : State) : State :=
  let show' := fun (s : State) (n : Nat) => if s.fw.outbox.addr = 0 then s else progressRec s 2 noCtx n 336
  let s1 := testData (show' s 0) 0 336
  let s2 := f.failedCores.foldl (fun s p => failCore s p (if s.fw.recovering then 2 else 0)) s1
  show' (replaceUnplaced s2) 336

/-- What a stage leaves done; the stages common to boot and recovery. -/
def stageWork (f : BootFinding) (s : State) (stage : Nat) : State :=
  match stage with
  | 1 => bootRom f s
  | 2 => bootTarget f (bootTarget f s 1) 2
  | 3 => bootKernel s
  | 4 => bootChain f s
  | 5 => bootClocks f s
  | 7 => if s.fw.recovering then remakeSram s else s
  | 8 => selfTest f s
  | _ => s

/-- The error of R418 that a stage ends in. -/
def stageError (f : BootFinding) (stage : Nat) : Option Nat :=
  if stage = 1 ∧ f.recordBad then some 4
  else if stage ≤ 2 then f.bothFailed.map (fun t => t + 1)
  else none

/-- Boot at the next stage, with its progress and vector 2. -/
def nextStage (s : State) (stage : Nat) : State :=
  let pos := bootPos stage
  let s1 := if s.fw.outbox.addr = 0 then s else progressTo s 0 noCtx s.fw.progPos pos 1000 (stage == 1)
  let f := { s1.fw with stage := stage + 1, progOp := 0, progTarget := 0, progPos := pos, progTotal := 1000 }
  fire2 { s1 with fw := if stage = 9 then { f with lastHost := s.clock.ns } else f }

/-- Free healthy cores of the device, the spares a self-test can be covered with. -/
def freeCount (s : State) : Nat := ((List.range 336).filter (freeCore s)).length

/-- The stage of a recovery that follows another: HBM is left out. -/
def recoverNext (stage : Nat) : Nat := if stage = 5 then 7 else stage + 1

/-- A stage of a recovery; a rail still out of range at CLOCKS, or more failed cores than spares, keep it
from completing. -/
def recoverStep (f : BootFinding) (s : State) : State :=
  let st := s.fw.recoverStage
  if st = 5 ∧ s.board.low ≠ [] then startRecovery s 0
  else
    let s1 := stageWork f s st
    fire2 { s1 with fw := { s1.fw with
      recoverStage := recoverNext st
      recoverBlocked := s1.fw.recoverBlocked || (st == 8 && decide (freeCount s < (f.failedCores.filter (healthy s)).length)) } }

/-- A boot stage ends. Nothing runs while PERST_N is low, a rail is awaited or the trip latch holds. -/
def execBootStageComplete (f : BootFinding) (s : State) : Out :=
  if s.board.perstLow ∨ s.board.waiting ∨ s.board.tripLatch ∨ alive s = false then .next s
  else if s.fw.recovering then (if s.fw.recoverStage < 10 then .next (recoverStep f s) else .next s)
  else if 10 ≤ s.fw.stage ∨ s.fw.bootError ≠ 0 ∨ s.fw.recoveryBoot then .next s
  else match stageError f s.fw.stage with
    | some e => .next (bootStop s e)
    | none =>
      if s.fw.stage = 1 ∧ s.fw.bootMode = 2 then .next (fire2 { bootRom f s with fw := { (bootRom f s).fw with recoveryBoot := true } })
      else .next (nextStage (stageWork f s s.fw.stage) s.fw.stage)

/-! ## Firmware pairs (R339) -/

/-- The services a pair carries now, as a bitmap of the pairs they belong to. -/
def servicesOf (s : State) (p : Nat) : Nat := ((List.range 4).map (fun v => if pairFor s v = some p then 2 ^ v else 0)).sum

/-- A lockstep mismatch: the pair restarts its services, and the second within 24 hours takes it out of
service. -/
def execLockstepMismatch (pair : Nat) (s : State) : Out :=
  let x := pairAt s pair
  if 4 ≤ pair ∨ x.out ∨ alive s = false ∨ s.fw.stage < 3 then .next s
  else
    let second := match x.lastMiss with | some t => decide (s.clock.ns < t + day) | none => false
    let s1 := raise s 0x070A clsC noCtx (unitPair pair) (p4 pair ++ p4 (servicesOf s pair))
    let y : Pair := { out := second, lastMiss := some s.clock.ns, restarting := !second }
    let s2 : State := { s1 with fw := { s1.fw with pairs := put s1.fw.pairs pair y } }
    let gone := ((List.range 4).filter (fun p => (pairAt s2 p).out)).length
    if gone = 4 then .next (raise s2 0x070B clsX noCtx (unitPair pair) (p4 gone)) else .next s2

/-- A pair's services have restarted. -/
def execPairRestartComplete (pair : Nat) (s : State) : Out :=
  if (pairAt s pair).restarting = false then .next s
  else .next { s with fw := { s.fw with pairs := put s.fw.pairs pair { pairAt s pair with restarting := false } } }

/-! ## The sideband mode (R449) -/

/-- The sideband with a mode: none SMBus, or I3C with a dynamic address; VIO_1V8 must be in range. -/
def setI3c (s : State) (a : Option Nat) : State :=
  if s.board.low.elem 14 then s else { s with board := { s.board with i3c := a } }

/-- ENTDAA. -/
def execEntdaa (addr : Nat) (s : State) : Out := if addr < 128 then .next (setI3c s (some addr)) else .next s

/-- SETDASA with the static address. -/
def execSetdasa (s : State) : Out := .next (setI3c s (some 0x3A))

/-- RSTDAA. -/
def execRstdaa (s : State) : Out := .next (setI3c s none)

/-! ## The PCIe link (R369, R464) -/

/-- D3hot, a hot reset, a link disable or a lost link. -/
def execPcieLinkDown (s : State) : Out := .next { s with fw := { s.fw with linkUp := false } }

/-- The message of a vector held pending delivered, unless the vector is masked. -/
def deliver (h : HostIf) (v : Nat) : HostIf :=
  let e := look h.msix {} v
  if e.pend && !e.mask then { h with msix := put h.msix v { e with pend := false }, msi := h.msi ++ [v] } else h

/-- The link retrains or the function returns to D0. -/
def execPcieLinkUp (s : State) : Out :=
  .next { s with fw := { s.fw with linkUp := true }, host := [0, 1, 2].foldl deliver s.host }

/-! ## Manager sessions (R423) -/

/-- The attested session of manager entry `k` ends 24 hours after it opened. -/
def execManagerSessionTimeout (k : Nat) (s : State) : Out :=
  match s.net.managers[k]? with
  | none => .next s
  | some (node, _) =>
    if s.net.attested.any (fun a => a.1 == node && decide (a.2 + day ≤ s.clock.ns)) then .next (endManager s node) else .next s

end Sys2Proof.Machine
end

