-- ==== Sys2Proof/Machine/Compute.lean ====
section
/-! DEFINITION. The instructions of the array, the matrix-vector unit and the vector engine: each
command is the issue of the instruction into its queue or, once started, its work. -/

namespace Sys2Proof.Machine

/-- Whether an instruction with CHUNK finds the chunk-ready flags of its weights set (R128). -/
def chunkGo (c : Core) (f : Flight) : Bool :=
  !bit (subOf f) 0 || (match f.a with | some d => chunksReady c d | none => true)

/-- No condition beyond the start's. -/
def freely (_ : Core) (_ : Flight) : Bool := true

/-- MMA (R111 to R128). -/
def execMma (c : Nat) (g : Stage) (s : State) : Out :=
  match g with
  | .issue w => issueTL .mma c w s
  | .run id => runWork .mma c id s chunkGo (fun k x f => mmaEff s k c x f)

/-- MMA.LD (R109, R110). -/
def execMmaLd (c : Nat) (g : Stage) (s : State) : Out :=
  match g with
  | .issue w => issueTL .mmaLd c w s
  | .run id => runWork .mmaLd c id s freely (fun k _ f => mmaLdEff s k c f)

/-- MDA (R129, R130); level 3 only. -/
def execMda (c : Nat) (g : Stage) (s : State) : Out :=
  match g with
  | .issue w => issueTL .mda c w s
  | .run id => runWork .mda c id s chunkGo (fun k x f => mdaEff s k c x f)

/-- MVM (R131 to R133). -/
def execMvm (c : Nat) (g : Stage) (s : State) : Out :=
  match g with
  | .issue w => issueTL .mvm c w s
  | .run id => runWork .mvm c id s freely (fun k _ f => mvmEff s k c f)

/-- VOP (R194 to R201, R206, R207, R168 to R171). -/
def execVop (c : Nat) (g : Stage) (s : State) : Out :=
  match g with
  | .issue w => issueTL .vop c w s
  | .run id => runWork .vop c id s freely (fun k x f => vopEff s k c x f)

/-- TOPK (R203). -/
def execTopk (c : Nat) (g : Stage) (s : State) : Out :=
  match g with
  | .issue w => issueTL .topk c w s
  | .run id => runWork .topk c id s freely (fun k _ f => topkEff s k c f)

/-- NORM (R198). -/
def execNorm (c : Nat) (g : Stage) (s : State) : Out :=
  match g with
  | .issue w => issueTL .norm c w s
  | .run id => runWork .norm c id s freely (fun k _ f => normEff s k c f)

/-- SOFTMAX (R198). -/
def execSoftmax (c : Nat) (g : Stage) (s : State) : Out :=
  match g with
  | .issue w => issueTL .softmax c w s
  | .run id => runWork .softmax c id s freely (fun k _ f => softmaxEff s k c f)

/-- CVT (R148 to R155, R161 to R163, R166). -/
def execCvt (c : Nat) (g : Stage) (s : State) : Out :=
  match g with
  | .issue w => issueTL .cvt c w s
  | .run id => runWork .cvt c id s freely (fun k x f => cvtEff s k c x f)

/-- STAT (R164, R166). -/
def execStat (c : Nat) (g : Stage) (s : State) : Out :=
  match g with
  | .issue w => issueTL .stat c w s
  | .run id => runWork .stat c id s freely (fun k x f => statEff s k c x f)

/-- UPD (R208 to R215). -/
def execUpd (c : Nat) (g : Stage) (s : State) : Out :=
  match g with
  | .issue w => issueTL .upd c w s
  | .run id => runWork .upd c id s freely (fun k _ f => updEff s k c f)

end Sys2Proof.Machine
end

