-- ==== Sys2Proof/Machine/Control.lean ====
section
/-! DEFINITION. The control instructions that act on the core alone and its memory: NOP to WTOK,
the decode faults, the range markers and OPHINT (R48, R50, R51, R56, R314, R436). -/

namespace Sys2Proof.Machine

/-- An immediate sign-extended to 64 bits. -/
def simm (w : CWord) : Word := w.imm.signExtend 64

/-- NOP. -/
def execNop (c : Nat) (w : CWord) (s : State) : Out := issueCore s c 0x01 w (fun _ x => some x)

/-- ALU: DST := SRCA FUNC SRCB. -/
def execAlu (c : Nat) (w : CWord) (s : State) : Out :=
  issueCore s c 0x04 w (fun _ x =>
    (aluFn w.func.toNat (sreg x w.srca.toNat) (sreg x w.srcb.toNat)).map (setReg x w.dst.toNat))

/-- ALUI: DST := SRCA FUNC the sign-extended immediate. -/
def execAlui (c : Nat) (w : CWord) (s : State) : Out :=
  issueCore s c 0x05 w (fun _ x => (aluFn w.func.toNat (sreg x w.srca.toNat) (simm w)).map (setReg x w.dst.toNat))

/-- MOVHI: DST[63:32] := IMM. -/
def execMovhi (c : Nat) (w : CWord) (s : State) : Out :=
  issueCore s c 0x06 w (fun _ x => some (setReg x w.dst.toNat (w.imm ++ (sreg x w.dst.toNat).truncate 32)))

/-- The predicate a comparison or PRED writes, its index in DST[3:0]; DST[4] is reserved (R43). -/
def predDst (w : CWord) (x : Core) (v : Option Bool) : Option Core :=
  if w.dst.getLsbD 4 then none else v.map (setPred x (w.dst.toNat % 16))

/-- CMP. -/
def execCmp (c : Nat) (w : CWord) (s : State) : Out :=
  issueCore s c 0x07 w (fun _ x => predDst w x (compare w.func.toNat (sreg x w.srca.toNat) (sreg x w.srcb.toNat)))

/-- CMPI. -/
def execCmpi (c : Nat) (w : CWord) (s : State) : Out :=
  issueCore s c 0x08 w (fun _ x => predDst w x (compare w.func.toNat (sreg x w.srca.toNat) (simm w)))

/-- PRED, on the predicates in SRCA[3:0] and SRCB[3:0]. -/
def execPred (c : Nat) (w : CWord) (s : State) : Out :=
  issueCore s c 0x09 w (fun _ x =>
    predDst w x (predFn w.func.toNat (predBit x (w.srca.toNat % 16)) (predBit x (w.srcb.toNat % 16))))

/-- The target of BR and JAL: A + 8 × IMM, A the address of the instruction itself. -/
def brTarget (w : CWord) (x : Core) : Word := x.pc + simm w * 8

/-- A core whose next instruction is at an address. -/
def jump (x : Core) (a : Word) : Core := { x with pc := a, held := none, skipBp := false }

/-- BR. -/
def execBr (c : Nat) (w : CWord) (s : State) : Out :=
  issueC s c 0x0A w (fun k x => .ok (setCore s k c (jump x (brTarget w x))))

/-- JAL: DST := A + 8. -/
def execJal (c : Nat) (w : CWord) (s : State) : Out :=
  issueC s c 0x0B w (fun k x => .ok (setCore s k c (jump (setReg x w.dst.toNat (x.pc + 8)) (brTarget w x))))

/-- JR: PC := SRCA; an address that is no multiple of 8 begins no instruction (R36, R38). -/
def execJr (c : Nat) (w : CWord) (s : State) : Out :=
  issueC s c 0x0C w (fun k x =>
    let a := sreg x w.srca.toNat
    if a.toNat % 8 = 0 then .ok (setCore s k c (jump x a)) else .error (.unpred .badTarget))

/-- The width in bytes an LD or ST moves; none for a reserved FUNC. -/
def widthOf (f : Nat) : Option Nat :=
  match f with
  | 0 => some 8
  | 1 => some 4
  | 2 => some 2
  | 3 => some 1
  | _ => none

/-- The address and width of an LD or ST: SRCA + IMM, a multiple of the width. -/
def scalarAccess (w : CWord) (x : Core) : Except Trap (Nat × Nat) :=
  match widthOf w.func.toNat with
  | none => .error (.unpred .reservedField)
  | some n =>
    let a := (sreg x w.srca.toNat + simm w).toNat
    if a % n = 0 then .ok (a, n) else .error (.unpred .misaligned)

/-- LD: zero-extended; a poisoned grain raises POISON_CONSUMED (R104). -/
def execLd (c : Nat) (w : CWord) (s : State) : Out :=
  issueC s c 0x0D w (fun k x => do
    let (a, n) ← scalarAccess w x
    let bs ← controlRead s k c a n
    .ok (touchData (setCore s k c (adv (setReg x w.dst.toNat (BitVec.ofNat 64 (leNat bs))) 8)) k c [(a, n, false)]))

/-- ST: the low bytes of SRCB. -/
def execSt (c : Nat) (w : CWord) (s : State) : Out :=
  issueC s c 0x0E w (fun k x => do
    let (a, n) ← scalarAccess w x
    let s1 ← writeVa s k c a (leBytes n (sreg x w.srcb.toNat).toNat) false
    .ok (touchData (setCore s1 k c (adv (coreOf s1 k c) 8)) k c [(a, n, true)]))

/-- The system values of SYSRD (R51); none for a reserved FUNC or token code. -/
def sysValue (s : State) (k n : Nat) (x : Core) (f imm : Nat) : Option Nat :=
  match f with
  | 0 => some n
  | 1 => some k
  | 2 => some (ctxOf s k).part
  | 3 => some s.clock.ns
  | 4 => some (bayAt s (bayOf s n)).cycles
  | 5 => some (bayAt s (bayOf s n)).lost
  | 6 => some x.stepNo.toNat
  | 7 => some x.pass
  | 8 => some x.level
  | 9 => if imm % 64 < 40 then some (token x (imm % 64)) else none
  | _ => none

/-- SYSRD. -/
def execSysrd (c : Nat) (w : CWord) (s : State) : Out :=
  issueCore s c 0x0F w (fun k x =>
    (sysValue s k c x w.func.toNat w.imm.toNat).map (fun v => setReg x w.dst.toNat (BitVec.ofNat 64 v)))

/-- WTOK: a count of at least 1 decreases; otherwise the sequencer waits (R56). -/
def execWtok (c : Nat) (w : CWord) (s : State) : Out :=
  issueC s c 0x10 w (fun k x =>
    let t := w.imm.toNat % 64
    if 40 ≤ t then .error (.unpred .reservedField)
    else if token x t = 0 then .ok (hold s k c (.wtok t))
    else .ok (setCore s k c (adv (setToken x t (token x t - 1)) 8)))

/-- The major opcodes of R48 that programs may use. -/
def programOpcodes : List Nat :=
  [0x01, 0x02, 0x04, 0x05, 0x06, 0x07, 0x08, 0x09, 0x0A, 0x0B, 0x0C, 0x0D, 0x0E, 0x0F, 0x10, 0x18, 0x19,
   0x1A, 0x1B, 0x1C, 0x1D, 0x20, 0x21, 0x22, 0x28, 0x30, 0x31, 0x32, 0x33, 0x34, 0x35, 0x36] ++
  [0x40, 0x41, 0x42, 0x43, 0x44, 0x45, 0x46, 0x50, 0x51, 0x52, 0x58, 0x59, 0x5A, 0x5B, 0x5C, 0x5D]

/-- The privileged opcodes 0xF0 to 0xF3. -/
def isPrivileged (o : BitVec 8) : Bool := decide (0xF0 ≤ o.toNat) && decide (o.toNat ≤ 0xF3)

/-- The reserved opcodes: every other one. -/
def isReserved (o : BitVec 8) : Bool := !programOpcodes.elem o.toNat && !isPrivileged o

/-- ILLEGAL_OPCODE: a reserved opcode at decode (R50). -/
def execIllegalOpcode (c : Nat) (opc : BitVec 8) (s : State) : Out :=
  if isReserved opc then issueFault s c 0x0208 opc else .next s

/-- PRIVILEGED_INSTRUCTION: a privileged opcode in a program (R50). -/
def execPrivilegedInstruction (c : Nat) (opc : BitVec 8) (s : State) : Out :=
  if isPrivileged opc then issueFault s c 0x0209 opc else .next s

/-- A marker record of the trace, and the count of one not applied (R428, R433, R436). -/
def markRecord (s : State) (k n ev id depth : Nat) (applied : Bool) : State :=
  let s1 := traceCat s 0 k n (unitCore n) ev (coreOf s k n).pass id (leBytes 1 depth ++ leBytes 1 (if applied then 1 else 0))
  if applied then s1 else bump s1 2 n 0x18 1

/-- MARK.PUSH. -/
def execMarkPush (c : Nat) (w : CWord) (s : State) : Out :=
  issueC s c 0x1B w (fun k x =>
    let ok := decide (x.depth < 16)
    let x1 := if ok then { x with marks := put x.marks x.depth w.imm, depth := x.depth + 1 } else x
    .ok (markRecord (setCore s k c (adv x1 8)) k c 0x10 w.imm.toNat x1.depth ok))

/-- MARK.POP. -/
def execMarkPop (c : Nat) (w : CWord) (s : State) : Out :=
  issueC s c 0x1C w (fun k x =>
    let ok := decide (0 < x.depth)
    let id := if ok then (look x.marks 0 (x.depth - 1)).toNat else 0
    let x1 := { x with depth := x.depth - 1 }
    .ok (markRecord (setCore s k c (adv x1 8)) k c 0x11 id x1.depth ok))

/-- OPHINT: the operating point the core asks for (R314, R315); level 3 only. -/
def execOphint (c : Nat) (w : CWord) (s : State) : Out :=
  level3 s c 0x1D (issueCore s c 0x1D w (fun _ x => some { x with hint := w.imm.toNat % 4 }))

end Sys2Proof.Machine
end

