-- ==== Sys2Proof/Machine/Records.lean ====
section
/-! DEFINITION. Records on their way out: the outbox ring (R349 to R351, R472), its signal (R350), and the
trace region (R434, R435). -/

namespace Sys2Proof.Machine

/-! ## The outbox -/

/-- The 64 bytes of a record written as record `n` of the ring (R349, R472). -/
def outboxBytes (r : Rec) (n : Nat) : List Byte :=
  recordBytes r (if n.testBit 12 then 0 else 1)

/-- Contexts whose LAUNCH_DONE is held (R351). -/
def heldContexts (s : State) : Nat := (ctxNums.filter (fun k => (ctxOf s k).heldDone)).length

/-- OUTBOX_FULL, once for each episode (R351). -/
def outboxFullEvent (s : State) : State :=
  if 4096 ≤ unconsumed s.fw.outbox ∧ s.fw.outbox.full = false then
    raise { s with fw := { s.fw with outbox := { s.fw.outbox with full := true } } } 0x0703 clsC noCtx 0 (p4 (heldContexts s))
  else s

/-- A record written to the ring. -/
def ringWrite (s : State) (r : Rec) (rest : List Rec) : State :=
  let o := s.fw.outbox
  let o1 : Outbox := { o with prod := (o.prod + 1) % 8192, ring := o.ring ++ [r], waiting := rest }
  let reach := unconsumed o1 == o.threshold
  let o2 : Outbox := { o1 with oldest := if reach then none else some (o.oldest.getD s.clock.ns) }
  { s with
    fw := { s.fw with outbox := o2 }
    host := fireIf reach { s.host with
      hostWr := s.host.hostWr ++ [(o.addr + 64 * (o.prod % 4096), outboxBytes r o.prod)] } s.fw.linkUp 0
    ctxs := if r.type = 0x8001 ∧ r.ctx < 64 then put s.ctxs r.ctx { ctxOf s r.ctx with heldDone := false } else s.ctxs }

/-- The next record written to the outbox when room exists; held as they are otherwise. -/
def execOutboxRecordWrite (s : State) : Out :=
  match s.fw.outbox.waiting with
  | [] => .next s
  | r :: rest =>
    if outboxBlocked s.fw ∨ s.clock.ref25 = false ∨ serves s 0 = false then .next s
    else .next (outboxFullEvent (ringWrite s r rest))

/-- A record that has waited 10 µs unsignalled fires vector 0. -/
def execOutboxSignalTimer (s : State) : Out :=
  match s.fw.outbox.oldest with
  | none => .next s
  | some t =>
    if s.clock.ns < t + 10000 then .next s
    else .next { s with
      fw := { s.fw with outbox := { s.fw.outbox with oldest := none } }
      host := fire s.host s.fw.linkUp 0 }

/-- A write of CONS: records released, unless it would pass PROD or release more than the ring holds. -/
def execCons (value : Word32) (s : State) : Out :=
  let o := s.fw.outbox
  let v := value.toNat % 8192
  if 4096 < (o.prod + 8192 - v) % 8192 then .next s
  else
    let n := (v + 8192 - o.cons) % 8192
    let o1 : Outbox := { o with cons := v, ring := o.ring.drop n }
    .next { s with fw := { s.fw with outbox := { o1 with
      full := o.full && decide (4096 ≤ unconsumed o1)
      oldest := if unconsumed o1 = 0 then none else o.oldest } } }

/-! ## The trace region -/

/-- The 32 bytes of a trace record (R432). -/
def traceBytes (t : TraceRec) : List Byte :=
  p8 t.time ++ leBytes 2 t.source ++ leBytes 2 t.event ++ leBytes 1 t.ctx ++ leBytes 1 t.flags ++ leBytes 2 t.lcore ++ p4 t.tag
    ++ padTo 12 t.payload

/-- The lowest index present in the region (R435). -/
def traceOldest (o : Observe) : Nat := if o.mode = 0 then o.next - o.capacity else 0

/-- A record that has reached the region, or was dropped because a STOP region is full (R435). -/
def regionPut (o : Observe) (t : TraceRec) : Observe :=
  if o.mode = 1 ∧ o.capacity ≤ o.next then { o with counters := bumpT o.counters 0 0 0xC1 1, lostB := addNat o.lostB t.source }
  else
    let l := o.region ++ [t]
    { o with
      region := if o.capacity < l.length then l.drop 1 else l
      next := o.next + 1
      counters := bumpT o.counters 0 0 0xC0 1 }

/-- The oldest record of a source's buffer written to the region. -/
def execTraceRecordWrite (source : Nat) (s : State) : Out :=
  match look s.obs.buffers [] source with
  | [] => .next s
  | t :: rest =>
    .next { s with obs := regionPut { s.obs with buffers := if rest = [] then drop s.obs.buffers source else put s.obs.buffers source rest } t }

end Sys2Proof.Machine
end

