-- ==== Sys2Proof/Machine/Preempt.lean ====
section
/-! DEFINITION. Preemption (R365 to R368), and the debug types that stop, step and change the cores of a
context (R430, R437 to R439). -/

namespace Sys2Proof.Machine

/-! ## Preemption -/

/-- The engines that a drain point and a halt look at: array, matrix-vector unit and vector. -/
def computeEngines : List Engine := [.array, .mv, .vector]

/-- Whether no array, matrix-vector or vector instruction of a core is in progress (R367). -/
def drained (c : Core) : Bool := computeEngines.all (fun e => (flightsOf c e).isEmpty)

/-- The cores of a context's launch that have not reached a drain point. -/
def undrained (s : State) (k : Nat) : List Nat := (launchCores (ctxOf s k)).filter (fun n => !drained (coreOf s k n))

/-- The end of a slice with another context runnable: issue stops on every core of the partition (R365,
R366). -/
def execSchedSliceExpiry (part : Nat) (s : State) : Out :=
  let x := partSt s.place part
  match x.running with
  | none => .next s
  | some k =>
    if alive s = false ∨ serves s 0 = false ∨ x.preempting ∨ (ctxOf s k).haltReq ≠ 0 ∨ s.clock.ns < x.sliceAt + x.sliceMs * 1000000
        ∨ nextRunnable s part x.lastRun = none then .next s
    else .next (setPart s part { x with preempting := true, preemptAt := s.clock.ns })

/-- A small configuration not drained 100 µs after the request: the preemption is abandoned and the context
runs one more slice (R367). -/
def execPreemptDrainTimeout (part : Nat) (s : State) : Out :=
  let x := partSt s.place part
  match x.running with
  | none => .next s
  | some k =>
    let l := undrained s k
    if x.preempting = false ∨ isLarge s.place part ∨ s.clock.ns < x.preemptAt + 100000 ∨ l = [] then .next s
    else .next (raise (setPart s part { x with preempting := false, sliceAt := s.clock.ns }) 0x0709 clsC k 0 (p4 k ++ p4 l.length))

/-- Whether a started stream or sync instruction of a core has still to reach its unit; a COLL that waits for a
place in flight does not count (R295). -/
def unreached (c : Core) : Bool :=
  [Engine.stream, Engine.sync].any (fun e => (flightsOf c e).any (fun f => !f.ran && !f.trapped && f.issued == 0 && f.q.op != .fence))

/-- The preemption complete (R366 to R368): stream and sync instructions already started have run and their
bursts land, the images are saved, and the next context in turn is made resident. A small configuration must
have drained. -/
def execPreemptionComplete (part : Nat) (s : State) : Out :=
  let x := partSt s.place part
  match x.running with
  | none => .next s
  | some k =>
    if x.preempting = false ∨ (isLarge s.place part = false ∧ undrained s k ≠ []) ∨ alive s = false
        ∨ (launchCores (ctxOf s k)).any (fun n => unreached (coreOf s k n)) = true then .next s
    else
      let s1 := deschedule (landAll s k) part
      let s2 := traceCat (changeCtx s1 k .runnable 0) 2 k 0xFFFF 0 0x31 0 part [0]
      .next (schedule s2 part)

/-! ## Breakpoints -/

/-- Whether a message's core number names a core of its context's partition (R15). -/
def debugCore (s : State) (k n : Nat) : Bool := decide (n < 320) && decide (partOf s.place n = (ctxOf s k).part)

/-- Whether the fields of BP_SET are in range. -/
def bpOk (slot enable len access : Nat) (rsv : Bool) : Bool :=
  !rsv && decide (enable ≤ 1)
    && ((decide (slot < 8) && len == 0 && access == 0)
      || (decide (8 ≤ slot) && decide (slot < 12) && decide (6 ≤ len) && decide (len ≤ 30) && decide (1 ≤ access) && decide (access ≤ 3)))

/-- BP_SET (R437). -/
def execBpSet (h : MsgHdr) (lcore slot enable lenLog2 access addr : Nat) (rsv : Bool) (s : State) : Out :=
  message (.bpSet h lcore slot enable lenLog2 access addr rsv) { code := 0x0088, kind := .debug, ctx := true } h s (fun s =>
    if debugCore s h.ctx lcore = false then deny s stInvalidCore
    else if bpOk slot enable lenLog2 access rsv = false then deny s stInvalidPolicy
    else
      let c := coreOf s h.ctx lcore
      done (setCore s h.ctx lcore { c with bps := put c.bps slot ⟨enable == 1, lenLog2, access, addr⟩ }) [])

/-! ## Halts -/

/-- DEBUG_HALT (R438): every core of a launch in progress halted. A context with no launch, or one that a
restart or a pause holds, is busy; one already halted stays so. -/
def execDebugHalt (h : MsgHdr) (s : State) : Out :=
  message (.debugHalt h) { code := 0x0089, kind := .debug, ctx := true } h s (fun s =>
    match (ctxOf s h.ctx).st with
    | .running | .runnable =>
      if (ctxOf s h.ctx).haltReq ≠ 0 then done s []
      else
        let s1 := mapCores (watchTick s h.ctx) h.ctx (fun _ c => { c with halted := true, oneStep := false })
        done (setCtx s1 h.ctx { ctxOf s1 h.ctx with haltReq := 3 }) []
    | .halted => done s []
    | _ => deny s stContextBusy)

/-- The context HALTED and off its partition once no array, matrix-vector or vector instruction of it is in
progress (R438). -/
def execDebugHaltComplete (ctx : Nat) (s : State) : Out :=
  let x := ctxOf s ctx
  if ctxExists s ctx = false ∨ x.haltReq = 0 ∨ (x.st ≠ .running ∧ x.st ≠ .runnable) ∨ undrained s ctx ≠ [] ∨ alive s = false then .next s
  else
    let s1 := landAll s ctx
    let s2 := if x.st = .running then traceCat (deschedule s1 x.part) 2 ctx 0xFFFF 0 0x31 0 x.part [2] else s1
    .next (schedule (changeCtx s2 ctx .halted x.haltReq) x.part)

/-- A core that continues where it stopped: one stopped by an address breakpoint issues that instruction
(R438, R439). -/
def resumeCore (c : Core) : Core :=
  { c with halted := false, oneStep := false, skipBp := c.haltCause == 1, haltCause := 0, secondHit := false }

/-- A halted context RUNNABLE again. -/
def unhalt (s : State) (k : Nat) : State :=
  let s1 := setCtx s k { ctxOf s k with haltReq := 0 }
  schedule (changeCtx s1 k .runnable 0) (ctxOf s k).part

/-- DEBUG_RESUME (R439). -/
def execDebugResume (h : MsgHdr) (s : State) : Out :=
  message (.debugResume h) { code := 0x008A, kind := .debug, ctx := true } h s (fun s =>
    if (ctxOf s h.ctx).st ≠ .halted then deny s stContextBusy
    else if (partSt s.place (ctxOf s h.ctx).part).unavailable then deny s stPartitionUnavailable
    else done (unhalt (mapCores (watchTick s h.ctx) h.ctx (fun _ c => resumeCore c)) h.ctx) [])

/-- DEBUG_STEP (R439): one core issues one instruction, the others stay halted. -/
def execDebugStep (h : MsgHdr) (lcore : Nat) (rsv : Bool) (s : State) : Out :=
  message (.debugStep h lcore rsv) { code := 0x008B, kind := .debug, ctx := true } h s (fun s =>
    if rsv then deny s stInvalidPolicy else
    let c := coreOf s h.ctx lcore
    if (ctxOf s h.ctx).st ≠ .halted then deny s stContextBusy
    else if debugCore s h.ctx lcore = false ∨ c.active = false ∨ c.ended then deny s stInvalidCore
    else if (partSt s.place (ctxOf s h.ctx).part).unavailable then deny s stPartitionUnavailable
    else done (unhalt (setCore (watchTick s h.ctx) h.ctx lcore { resumeCore c with oneStep := true, skipBp := true }) h.ctx) [])

/-- REG_WRITE (R430): a scalar register of a halted core. -/
def execRegWrite (h : MsgHdr) (lcore reg : Nat) (value : Word) (rsv : Bool) (s : State) : Out :=
  message (.regWrite h lcore reg value rsv) { code := 0x008D, kind := .debug, ctx := true } h s (fun s =>
    if (ctxOf s h.ctx).st ≠ .halted then deny s stContextBusy
    else if debugCore s h.ctx lcore = false then deny s stInvalidCore
    else if reg = 0 ∨ 31 < reg ∨ rsv then deny s stInvalidPolicy
    else
      let c := coreOf s h.ctx lcore
      done (setCore s h.ctx lcore { c with sregs := put c.sregs reg value }) [])

/-! ## STATE_READ -/

/-- A span's 1 KiB block of the state of R36: its layout is not given, so the block is a free value of the
core. -/
def stateBlock (s : State) : List Byte := leBytes 1024 (Config.freeBits s.freeCtr 8192)

/-- The accumulator file as W40 containers of 64 bits in row-major order (R141). -/
def accBlock (c : Core) : List Byte := (List.range 16384).flatMap (fun i => p8 (look c.acc 0 i).toNat)

/-- The 4 MiB of a scratchpad image. -/
def imageBlock (s : State) (k n : Nat) : List Byte := [0, Config.page2].flatMap (fun o => readDpa s.mem (imgAt (ctxOf s k) n o) Config.page2)

/-- STATE_READ (R430): the parts selected, from the save image. -/
def execStateRead (h : MsgHdr) (lcore : Nat) (parts : BitVec 8) (hostAddr : Nat) (rsv : Bool) (s : State) : Out :=
  message (.stateRead h lcore parts hostAddr rsv) { code := 0x008C, kind := .debug, ctx := true } h s (fun s =>
    let k := h.ctx
    if (ctxOf s k).st ≠ .halted then deny s stContextBusy
    else if debugCore s k lcore = false then deny s stInvalidCore
    else if 8 ≤ parts.toNat ∨ rsv then deny s stInvalidPolicy
    else
      let bs := (if parts.getLsbD 0 then stateBlock s else [])
        ++ (if parts.getLsbD 1 then accBlock (coreOf s k lcore) else [])
        ++ (if parts.getLsbD 2 then imageBlock s k lcore else [])
      done (drawn (hostWrite s hostAddr bs)) (p8 bs.length))

end Sys2Proof.Machine
end

