-- ==== Sys2Proof/Machine/Observe.lean ====
section
/-! DEFINITION. The counters and how they are read (R427 to R430), the trace types (R430, R431, R435), and the
histogram units (R440 to R442). -/

namespace Sys2Proof.Machine

/-! ## Counters -/

/-- The event codes of the device, by group: the highest of each run of codes (R428). -/
def isEventCode (n : Nat) : Bool :=
  let l := n % 256
  match n / 256 with
  | 1 | 4 => decide (1 ≤ l) && decide (l ≤ 8)
  | 2 => decide (1 ≤ l) && decide (l ≤ 10)
  | 3 | 5 => decide (1 ≤ l) && decide (l ≤ 5)
  | 6 => decide (1 ≤ l) && decide (l ≤ 14)
  | 7 => decide (1 ≤ l) && decide (l ≤ 12)
  | 8 => (decide (1 ≤ l) && decide (l ≤ 10)) || (decide (0x11 ≤ l) && decide (l ≤ 0x19)) || (decide (0x21 ≤ l) && decide (l ≤ 0x24))
  | 9 => decide (1 ≤ l) && decide (l ≤ 7)
  | _ => false

/-- Physical lanes of a join (R427). -/
def lanesIn (j : Nat) : Nat := if j < 4 then 136 else if j < 12 then 43 else 9

/-- What a counter address names: nothing, a counter that the table of counters holds, a value kept elsewhere,
or a count of cycles that the model does not follow. -/
inductive Named where
  | none
  | counted
  | value (n : Nat)
  | cycles
  deriving DecidableEq, Repr

/-- The counters of a session and of a context that the network raises. -/
def isNetCounter (n : Nat) : Bool := decide (0x60 ≤ n) && decide (n ≤ 0x68)

/-- What a counter address names (R427, R428). -/
def counterAt (s : State) (kind index number : Nat) : Named :=
  let yes := fun (b : Bool) => if b then Named.counted else .none
  match kind with
  | 0 => yes (index == 0 && (number == 0xC0 || number == 0xC1 || number == 0xC2 || isEventCode number))
  | 1 =>
    if index = 0xFF then (if number = 0x50 then .value (s.power.overhead / 1000) else .none)
    else if ctxExists s index = false then .none
    else if number = 0x50 then .value ((ctxOf s index).energy / 1000)
    else yes ((decide (0x20 ≤ number) && decide (number < 0x34)) || (decide (0x40 ≤ number) && decide (number ≤ 0x43))
      || isNetCounter number || isEventCode number)
  | 2 =>
    if 320 ≤ index then .none
    else if (1 ≤ number ∧ number ≤ 5) ∨ (0x10 ≤ number ∧ number ≤ 0x15) then .cycles
    else yes (decide (0x16 ≤ number) && decide (number ≤ 0x18))
  | 3 =>
    if 16 ≤ index then .none
    else if number = 0x82 then .value (bayAt s index).cycles
    else if number = 0x83 then .value (bayAt s index).lost
    else yes (number == 0x80 || number == 0x81 || (decide (0x90 ≤ number) && decide (number < 0x9F)))
  | 4 => yes (has s.net.sessions index && isNetCounter number)
  | 5 =>
    let j := index / 256
    let p := index % 256
    if 16 ≤ j ∨ lanesIn j ≤ p then .none
    else if number = 0x72 then .value (laneState s.chain j p)
    else yes (number == 0x70 || number == 0x71)
  | 6 => yes (decide (index < 128) && (number == 0x67 || number == 0x68))
  | _ => .none

/-- The value a counter address reads as; all ones where it names no counter (R429). `i` numbers the free values
of one set. -/
def counterValue (s : State) (i kind index number : Nat) : Nat :=
  match counterAt s kind index number with
  | .none => 2 ^ 64 - 1
  | .counted => counter s kind index number
  | .value n => n
  | .cycles => Config.freeBits s.freeCtr (64 * (i + 1)) / 2 ^ (64 * i) % 2 ^ 64

/-- COUNTER_READ: every value at one instant. -/
def execCounterRead (h : MsgHdr) (hostAddr : Nat) (entries : List CounterAddr) (rsv : Bool) (s : State) : Out :=
  message (.counterRead h hostAddr entries rsv) { code := 0x0080, kind := .debug } h s (fun s =>
    if entries = [] ∨ 512 < entries.length ∨ rsv then deny s stInvalidPolicy
    else
      let bs := entries.zipIdx.flatMap (fun e => p8 (counterValue s e.2 e.1.kind e.1.index e.1.number))
      done (drawn (hostWrite s hostAddr bs)) (p8 s.clock.ns))

/-! ## Trace types -/

/-- Pages of a larger trace region, `n` on each of the eight stacks; none where a stack has no room. -/
def tracePages (s : State) (n : Nat) : Option State :=
  ((List.range 8).flatMap (fun st => List.replicate n st)).foldlM (fun s st =>
    match findHbm s st Config.page2 (Config.pageStart s.mem.allocs) with
    | none => none
    | some a => some { s with
        mem := { s.mem with fwRanges := s.mem.fwRanges ++ [(a, Config.page2)], allocs := s.mem.allocs + 1 }
        obs := { s.obs with pages := s.obs.pages ++ [a] } }) s

/-- TRACE_SET (R431). The 256 MiB of boot stay firmware's; a larger region takes pages besides. -/
def execTraceSet (h : MsgHdr) (sizeMib mode : Nat) (categories : BitVec 8) (mask : Word) (rsv : Bool) (s : State) : Out :=
  message (.traceSet h sizeMib mode categories mask rsv) { code := 0x0081, kind := .priv } h s (fun s =>
    if sizeMib < 256 ∨ 16384 < sizeMib ∨ sizeMib % 256 ≠ 0 ∨ 1 < mode ∨ 32 ≤ categories.toNat ∨ rsv then deny s stInvalidPolicy
    else
      let old := s.obs.pages
      let s1 := freePages { s with obs := { s.obs with pages := [] } } old
      match tracePages s1 (16 * (sizeMib / 256 - 1)) with
      | none => deny s stNoMemory
      | some s2 =>
        done { s2 with obs := { s2.obs with
          region := [], next := 0, capacity := 32768 * sizeMib, mode := mode, cats := categories, mask := mask } } (p8 (32768 * sizeMib)))

/-- TRACE_STATUS. -/
def execTraceStatus (h : MsgHdr) (s : State) : Out :=
  message (.traceStatus h) { code := 0x0082, kind := .debug } h s (fun s =>
    done s (p8 s.obs.next ++ p8 (traceOldest s.obs) ++ p8 (counter s 0 0 0xC1) ++ leBytes 1 s.obs.mode))

/-- The records present with indices from `first` upward, `count` at most. -/
def traceFrom (o : Observe) (first count : Nat) : List TraceRec := (o.region.drop (first - traceOldest o)).take count

/-- TRACE_READ. -/
def execTraceRead (h : MsgHdr) (first count hostAddr : Nat) (rsv : Bool) (s : State) : Out :=
  message (.traceRead h first count hostAddr rsv) { code := 0x0083, kind := .debug } h s (fun s =>
    if count = 0 ∨ 0x100_0000 < count ∨ rsv then deny s stInvalidPolicy
    else
      let l := traceFrom s.obs first count
      done (hostWrite s hostAddr (l.flatMap traceBytes)) (p4 l.length ++ p4 0 ++ p8 (traceOldest s.obs)))

/-! ## Histograms -/

/-- A unit of the 32. -/
def histAt (s : State) (u : Nat) : Hist := look s.obs.hists {} u

/-- A unit replaced. -/
def setHist (s : State) (u : Nat) (x : Hist) : State := { s with obs := { s.obs with hists := put s.obs.hists u x } }

/-- Whether a FILTER is in range for a source (R440): all, or one of what the source is sampled by. -/
def filterOk (source filter : Nat) : Bool :=
  let all := filter == 0xFFFF_FFFF
  match source with
  | 0 => true
  | 1 => all || decide (filter < 8)
  | 2 => all || decide (filter < 0x10_0000)
  | 3 => all || decide (filter < 64)
  | 4 => all || (decide (filter % 256 < 64) && filter / 256 % 256 == 0)
  | 5 => decide (filter < 4)
  | 6 => decide (filter < 61)
  | _ => filter == 0

/-- HIST_SET: one unit programmed and cleared. -/
def execHistSet (h : MsgHdr) (unit source base filter : Nat) (rsv : Bool) (s : State) : Out :=
  message (.histSet h unit source base filter rsv) { code := 0x0084, kind := .debug } h s (fun s =>
    if 32 ≤ unit ∨ 7 < source ∨ 33 < base ∨ rsv ∨ filterOk source filter = false then deny s stInvalidPolicy
    else done (setHist s unit { source := source, base := base, filter := filter }) [])

/-- The bin of a sample (R441): the number of thresholds from 2^BASE on that it reaches, 31 at most. -/
def binOf (base : Nat) (v : Int) : Nat := ((List.range 31).filter (fun i => decide ((2 ^ (base + i) : Int) ≤ v))).length

/-- A unit after a sample. -/
def histAdd (x : Hist) (v : Int) : Hist :=
  let b := binOf x.base v
  { x with
    count := x.count + 1
    min := if x.count = 0 then v else min x.min v
    max := if x.count = 0 then v else max x.max v
    sum := min (x.sum + v) (2 ^ 64 - 1)
    bins := put x.bins b (look x.bins 0 b + 1) }

/-- A sample of the unit's source, none taken while it is off. -/
def execHistSample (unit : Nat) (v : Int) (s : State) : Out :=
  let x := histAt s unit
  if 32 ≤ unit ∨ x.source = 0 then .next s else .next (setHist s unit (histAdd x v))

/-- The 64 bits of a signed field. -/
def sBytes (v : Int) : List Byte := p8 (BitVec.ofInt 64 v).toNat

/-- The 288-byte block of a unit (R442). -/
def histBlock (x : Hist) : List Byte :=
  p8 x.count ++ sBytes x.min ++ sBytes x.max ++ sBytes x.sum ++ (List.range 32).flatMap (fun i => p8 (look x.bins 0 i))

/-- HIST_READ. -/
def execHistRead (h : MsgHdr) (unit clear hostAddr : Nat) (rsv : Bool) (s : State) : Out :=
  message (.histRead h unit clear hostAddr rsv) { code := 0x0085, kind := .debug } h s (fun s =>
    if 32 ≤ unit ∨ 1 < clear ∨ rsv then deny s stInvalidPolicy
    else
      let x := histAt s unit
      let s1 := hostWrite s hostAddr (histBlock x)
      done (if clear = 1 then setHist s1 unit { source := x.source, base := x.base, filter := x.filter } else s1) (p8 s.clock.ns))

end Sys2Proof.Machine
end

