-- ==== Sys2Proof/Machine/Pldm.lean ====
section
/-! DEFINITION. The PLDM endpoint of the sideband (R321): the base types and platform monitoring. A response is
kept as its command code, its completion code and its fields. The codes of DSP0240 and DSP0248 are PRESUMED. -/

namespace Sys2Proof.Machine

/-! ## Answering -/

abbrev plSuccess : Nat := 0
abbrev plInvalidData : Nat := 2
abbrev plBadId : Nat := 0x80
abbrev plBadHandle : Nat := 0x82
abbrev plBadType : Nat := 0x83

/-- Whether the endpoint answers: VIO_1V8 and VDD_CTL in range, and PERST_N high. A class X event does not
stop it. -/
def sidebandUp (s : State) : Bool := !s.board.low.elem 14 && !s.board.low.elem 12 && !s.board.perstLow

/-- A response of the endpoint. -/
def pldm (s : State) (cmd code : Nat) (fields : List Nat) : Out :=
  if sidebandUp s then .next { s with host := { s.host with pldm := s.host.pldm ++ [cmd :: code :: fields] } } else .next s

/-! ## Type 0 -/

/-- GetTID. -/
def execGetTid (s : State) : Out := pldm s 0x02 plSuccess [Config.tid]

/-- Whether the endpoint supports a PLDM type. -/
def pldmType (t : Nat) : Bool := t == 0 || t == 2

/-- GetPLDMVersion. -/
def execGetPldmVersion (type : Nat) (s : State) : Out :=
  if pldmType type then pldm s 0x03 plSuccess [Config.pldmVersion type] else pldm s 0x03 plBadType []

/-- GetPLDMTypes. -/
def execGetPldmTypes (s : State) : Out := pldm s 0x04 plSuccess [0, 2]

/-- The commands of a type. -/
def pldmCommands (t : Nat) : List Nat := if t = 0 then [0x02, 0x03, 0x04, 0x05] else [0x11, 0x21, 0x31, 0x32, 0x50, 0x51]

/-- GetPLDMCommands. -/
def execGetPldmCommands (type : Nat) (s : State) : Out :=
  if pldmType type then pldm s 0x05 plSuccess (pldmCommands type) else pldm s 0x05 plBadType []

/-! ## The repository -/

/-- The records of the repository: 2 a numeric sensor, 4 a state sensor, 9 a numeric effecter, with its id. -/
def pdrs : List (Nat × Nat) := (List.range 19).map (fun i => (2, i + 1)) ++ [(4, 32), (4, 33), (9, 1)]

/-- GetPDRRepositoryInfo: the number of records. -/
def execGetPdrRepositoryInfo (s : State) : Out := pldm s 0x50 plSuccess [pdrs.length]

/-- GetPDR: the record with a handle, counted from 1, and the handle after it; 0 asks for the first. -/
def execGetPdr (record : Nat) (s : State) : Out :=
  let i := if record = 0 then 0 else record - 1
  match pdrs[i]? with
  | some (t, id) => pldm s 0x51 plSuccess [if i + 1 < pdrs.length then i + 2 else 0, t, id]
  | none => pldm s 0x51 plBadHandle []

/-! ## Sensors and the effecter -/

/-- A signed reading in 32 bits. -/
def signed32 (v : Int) : Nat := (BitVec.ofInt 32 v).toNat

/-- A numeric sensor's reading in units of its resolution. -/
def sensorReading (s : State) (id : Nat) : Nat :=
  let p := s.power
  if id = 1 then signed32 p.tj
  else if id ≤ 9 then signed32 (nth p.stackT (id - 2) 0)
  else if id = 10 then (p.package / 1000).floor.toNat
  else if id = 11 then min p.hostLimit p.boardLimit
  else if id ≤ 15 then nth p.rails (id - 12) 0
  else nth p.measured (id - 16) 0 * 10 / nth p.rails (id - 16) 1

/-- GetSensorReading: the operational state (0 enabled, 2 unavailable) and the reading. -/
def execGetSensorReading (id : Nat) (s : State) : Out :=
  if id = 0 ∨ 19 < id then pldm s 0x11 plBadId []
  else if 12 ≤ id ∧ s.fw.stage < 5 then pldm s 0x11 plSuccess [2]
  else pldm s 0x11 plSuccess [0, sensorReading s id]

/-- The state of the device as sensor 32 gives it. -/
def deviceState (s : State) : Nat :=
  if s.obs.fatal then 4 else if s.fw.recovering then 3 else if s.power.emActive then 2 else 1

/-- The thermal level as sensor 33 gives it. -/
def thermalLevel (s : State) : Nat :=
  if s.power.emergency then 3 else if s.power.throttled then 2 else if s.power.hbmHot = [] then 1 else 4

/-- GetStateSensorReadings. -/
def execGetStateSensorReadings (id : Nat) (s : State) : Out :=
  if id = 32 then pldm s 0x21 plSuccess [0, deviceState s]
  else if id = 33 then pldm s 0x21 plSuccess [0, thermalLevel s]
  else pldm s 0x21 plBadId []

/-- SetNumericEffecterValue: the board power limit. -/
def execSetNumericEffecterValue (id value : Nat) (s : State) : Out :=
  if id ≠ 1 then pldm s 0x31 plBadId []
  else if value < 1200 ∨ 2700 < value then pldm s 0x31 plInvalidData []
  else if sidebandUp s then pldm (setLimit s 1 value) 0x31 plSuccess []
  else .next s

/-- GetNumericEffecterValue: the pending and the present value, which are one. -/
def execGetNumericEffecterValue (id : Nat) (s : State) : Out :=
  if id ≠ 1 then pldm s 0x32 plBadId [] else pldm s 0x32 plSuccess [s.power.boardLimit, s.power.boardLimit]

end Sys2Proof.Machine
end

