-- ==== Sys2Proof/Machine/Spdm.lean ====
section
/-! DEFINITION. The SPDM responder (R415, R416, R421 to R424): its connections and sessions, certificates,
measurements and the attestation of managers. A response is kept as its transport, its code and its payload. The
codes of DSP0274 are PRESUMED; signatures and the key exchange are leaf functions of Config. -/

namespace Sys2Proof.Machine

/-! ## Answering -/

abbrev spInvalid : Nat := 0x01
abbrev spInvalidSession : Nat := 0x02
abbrev spUnexpected : Nat := 0x04
abbrev spDecrypt : Nat := 0x06
abbrev spUnsupported : Nat := 0x07
abbrev spSessionLimit : Nat := 0x0A

/-- Whether the responder is reached over a transport: firmware runs, and the transport is there. -/
def spdmUp (s : State) (v : SpdmVia) : Bool :=
  alive s && decide (4 ≤ s.fw.stage) &&
    (match v with
     | .doe => s.fw.linkUp && !s.board.perstLow
     | .mctp => sidebandUp s
     | .furlong n => (look s.net.sessions {} n).isOpen)

/-- A response sent. -/
def spdmSend (s : State) (v : SpdmVia) (code : Nat) (pay : List Byte) : State :=
  { s with sec := { s.sec with spdmOut := s.sec.spdmOut ++ [(v, code, pay)] } }

/-- ERROR with a code. -/
def spdmError (s : State) (v : SpdmVia) (e : Nat) : State := spdmSend s v 0x7F [BitVec.ofNat 8 e, 0]

/-- The phase of a connection: 1 after GET_VERSION, 2 after GET_CAPABILITIES, 3 after NEGOTIATE_ALGORITHMS. -/
def phaseOf (s : State) (v : SpdmVia) : Nat := ((s.sec.spdm.find? (fun x => x.via == v && !x.session)).map (fun x => x.phase)).getD 0

/-- A connection put in a phase. -/
def setPhase (s : State) (v : SpdmVia) (p : Nat) : State :=
  { s with sec := { s.sec with spdm := s.sec.spdm.filter (fun x => x.session || x.via != v) ++ [{ via := v, phase := p }] } }

/-- A request handled in at least a phase of its connection. -/
def request (s : State) (v : SpdmVia) (phase : Nat) (body : State) : Out :=
  if spdmUp s v = false then .next s
  else if phaseOf s v < phase then .next (spdmError s v spUnexpected)
  else .next body

/-- GET_VERSION: version 1.3. -/
def execGetVersion (v : SpdmVia) (s : State) : Out := request s v 0 (setPhase (spdmSend s v 0x04 [0, 1, 0, 0x13]) v 1)

/-- The capability flags: CERT, CHAL, MEAS with signature, ENCRYPT, MAC, KEY_EX, HBEAT. -/
def capFlags : Nat := 0x22D6

/-- GET_CAPABILITIES. -/
def execGetCapabilities (v : SpdmVia) (s : State) : Out := request s v 1 (setPhase (spdmSend s v 0x61 (p4 capFlags)) v 2)

/-- NEGOTIATE_ALGORITHMS: `agreed` tells whether the request offers what the device supports. -/
def execNegotiateAlgorithms (v : SpdmVia) (agreed : Bool) (s : State) : Out :=
  request s v 2 (if agreed then setPhase (spdmSend s v 0x63 []) v 3 else spdmError s v spInvalid)

/-! ## Certificates -/

/-- The chain of slot 0 (R415): the ATTEST certificate as the ROM issued it at boot. -/
def chainBytes (s : State) : List Byte := Config.certChain s.sec.attestCtrs s.sec.attestDbg

/-- A signature of the ATTEST key, which counter 2 at boot gives (R414). -/
def attestSign (s : State) (m : List Byte) : List Byte := Config.ed448Sign (nth s.sec.attestCtrs 2 0) m

/-- GET_DIGESTS: slot 0. -/
def execGetDigests (v : SpdmVia) (s : State) : Out := request s v 3 (spdmSend s v 0x01 (1 :: sha3_512 (chainBytes s)))

/-- GET_CERTIFICATE: a part of the chain of slot 0. -/
def execGetCertificate (v : SpdmVia) (slot offset length : Nat) (s : State) : Out :=
  request s v 3 (
    if s.sec.attestOk = false then spdmError s v spUnexpected
    else
      let c := chainBytes s
      if slot ≠ 0 ∨ c.length ≤ offset then spdmError s v spInvalid
      else
        let p := (c.drop offset).take length
        spdmSend s v 0x02 (leBytes 2 p.length ++ leBytes 2 (c.length - offset - p.length) ++ p))

/-! ## Measurements -/

/-- The value of a measurement block (R422). -/
def measurement (s : State) (i : Nat) : List Byte :=
  match i with
  | 1 => sha3_512 Config.romImage
  | 2 => sha3_512 (Config.loaderManifest (runningOf s 0).loaderSvn)
  | 3 | 4 | 5 => sha3_512 (runningOf s (i - 3)).manifest
  | 6 => sha3_512 Config.recordImage
  | 7 => (List.range 16).flatMap (fun c => p4 (rollCtr s c))
  | _ => leBytes 1 (b1 s.sec.debug)

/-- A block with its index and size. -/
def measBlock (s : State) (i : Nat) : List Byte :=
  leBytes 1 i ++ leBytes 2 (measurement s i).length ++ measurement s i

/-- The blocks an index asks for: none, one, or all (0xFF). -/
def measBlocks (index : Nat) : Option (List Nat) :=
  if index = 0 then some [] else if index = 0xFF then some [1, 2, 3, 4, 5, 6, 7, 8] else if index ≤ 8 then some [index] else none

/-- GET_MEASUREMENTS, signed on request over the nonce and the blocks. -/
def execGetMeasurements (v : SpdmVia) (index : Nat) (signed : Bool) (nonce : List Byte) (s : State) : Out :=
  request s v 3 (
    if signed && !s.sec.attestOk then spdmError s v spUnexpected
    else match measBlocks index with
      | none => spdmError s v spInvalid
      | some l =>
        let m := leBytes 1 (if l = [] then 8 else l.length) ++ l.flatMap (measBlock s)
        spdmSend s v 0x60 (m ++ (if signed then nonce ++ attestSign s (nonce ++ m) else [])))

/-- CHALLENGE: a signature over the nonce, the chain's digest and every measurement. -/
def execChallenge (v : SpdmVia) (slot : Nat) (nonce : List Byte) (s : State) : Out :=
  request s v 3 (
    if s.sec.attestOk = false then spdmError s v spUnexpected
    else if slot ≠ 0 then spdmError s v spInvalid
    else
      let m := sha3_512 (chainBytes s) ++ nonce ++ sha3_512 ([1, 2, 3, 4, 5, 6, 7, 8].flatMap (measBlock s))
      spdmSend s v 0x03 (m ++ attestSign s m))

/-! ## Sessions -/

/-- The sessions over a transport. -/
def sessionsOf (s : State) (v : SpdmVia) : List Spdm := s.sec.spdm.filter (fun x => x.via == v && x.session)

/-- KEY_EXCHANGE: a session begun, four at most over a transport. -/
def execKeyExchange (v : SpdmVia) (exchange : List Byte) (s : State) : Out :=
  request s v 3 (
    if s.sec.attestOk = false then spdmError s v spUnexpected
    else if 4 ≤ (sessionsOf s v).length then spdmError s v spSessionLimit
    else
      let y := Config.keyShare s.freeCtr
      let s1 : State := drawn { s with sec := { s.sec with spdm := s.sec.spdm ++ [{ via := v, session := true, openedAt := s.clock.ns }] } }
      spdmSend s1 v 0x64 (y ++ attestSign s (exchange ++ y)))

/-- Whether a session begun over a transport awaits FINISH. -/
def awaitsFinish (v : SpdmVia) (x : Spdm) : Bool := x.via == v && x.session && x.phase == 0

/-- A manager attested by its session (R423). -/
def attest (s : State) (v : SpdmVia) : State :=
  match v with
  | .furlong n =>
    if s.net.managers.any (fun m => m.1 == n) then
      { s with net := { s.net with attested := s.net.attested.filter (fun a => a.1 != n) ++ [(n, s.clock.ns)] } }
    else s
  | _ => s

/-- FINISH: `verified` tells whether its verify data are right; a session whose FINISH fails is closed. -/
def execFinish (v : SpdmVia) (verified : Bool) (s : State) : Out :=
  request s v 3 (
    if s.sec.spdm.any (awaitsFinish v) = false then spdmError s v spUnexpected
    else if verified then
      attest (spdmSend { s with sec := { s.sec with spdm := s.sec.spdm.map (fun x => if awaitsFinish v x then { x with phase := 1 } else x) } } v 0x65 []) v
    else spdmError { s with sec := { s.sec with spdm := s.sec.spdm.filter (fun x => !awaitsFinish v x) } } v spDecrypt)

/-- An established session over a transport. -/
def established (v : SpdmVia) (x : Spdm) : Bool := x.via == v && x.session && x.phase == 1

/-- HEARTBEAT in an established session. -/
def execHeartbeat (v : SpdmVia) (s : State) : Out :=
  request s v 3 (if s.sec.spdm.any (established v) then spdmSend s v 0x68 [] else spdmError s v spInvalidSession)

/-- The oldest element a predicate holds of taken out. -/
def dropFirst {α : Type} (p : α → Bool) : List α → List α
  | [] => []
  | a :: l => if p a then l else a :: dropFirst p l

/-- END_SESSION: the oldest established session over the transport ends, a manager's attestation with it. -/
def execEndSession (v : SpdmVia) (s : State) : Out :=
  request s v 3 (
    if s.sec.spdm.any (established v) = false then spdmError s v spInvalidSession
    else
      let s1 : State := { s with sec := { s.sec with spdm := dropFirst (established v) s.sec.spdm } }
      let s2 : State := match v with
        | .furlong n => { s1 with net := { s1.net with attested := s1.net.attested.filter (fun a => a.1 != n) } }
        | _ => s1
      spdmSend s2 v 0x6C [])

/-- A request outside the supported subset. -/
def execUnsupportedRequest (v : SpdmVia) (code : Nat) (s : State) : Out :=
  if spdmUp s v then .next (spdmSend s v 0x7F [BitVec.ofNat 8 spUnsupported, BitVec.ofNat 8 code]) else .next s

end Sys2Proof.Machine
end

