-- ==== Sys2Proof/Machine/HostRegs.lean ====
section
/-! DEFINITION. What the host does through BAR0 and BAR2 (R6, R7, R463 to R477): register reads and writes,
the submission of a message (R344 to R347), counter snapshots, MSI-X masks and the windows. -/

namespace Sys2Proof.Machine

/-! ## BAR0 (R464 to R469) -/

/-- Whether the function answers BAR accesses: its link is up and PERST_N is high. -/
def barUp (s : State) : Bool := s.fw.linkUp && !s.board.perstLow

/-- DEV_STATUS (R468). -/
def devStatus (s : State) : Nat :=
  b1 s.power.emActive * 2 ^ 31 + b1 s.fw.absent * 2 ^ 30 + b1 (onTrial s) * 2 ^ 29 + b1 s.fw.recovering * 2 ^ 28
    + b1 s.obs.fatal * 2 ^ 27 + b1 s.fw.recoveryBoot * 2 ^ 26 + s.fw.bootError % 16 * 2 ^ 20
    + (if s.fw.recovering then s.fw.recoverStage else s.fw.stage) % 256 * 2 ^ 8 + ctxCount s

/-- DEV_PROGRESS (R469). -/
def devProgress (s : State) : Nat :=
  s.fw.progOp % 256 * 2 ^ 24 + s.fw.progTarget % 256 * 2 ^ 16 + percentOf s.fw.progPos s.fw.progTotal

/-- Whether the outbox, or an early boot or a class X event, keeps firmware from taking messages (R471). -/
def boxBusy (s : State) (m : Nat) : Bool :=
  let b := look s.fw.boxes {} m
  decide (64 ≤ b.taken.length + b.late.length) || outboxFull s.fw || s.obs.fatal || (decide (s.fw.stage < 4) && !(s.fw.recoveryBoot && m == 0))

/-- The status register of mailbox `m` (R470). -/
def boxStatus (s : State) (m : Nat) : Nat :=
  let n := (look s.fw.boxes {} m).taken.length + (look s.fw.boxes {} m).late.length
  b1 (m == 0) * 2 ^ 31 + b1 (m == 15) * 2 ^ 30 + m * 2 ^ 24 + n % 256 * 2 ^ 16 + b1 (decide (64 ≤ n)) * 2 + b1 (boxBusy s m)

/-- The value of a 64-bit register pair by the offset of its low word (R6, R466). -/
def pairValue (s : State) (off : Nat) : Option Nat :=
  if off = 0x008 then some s.fw.serial
  else if off = 0x028 then some s.fw.progPos
  else if off = 0x030 then some s.fw.progTotal
  else if off = 0x038 then some s.clock.ns
  else if off = 0x1010 then some s.host.latchTime
  else if off = 0x1018 then some s.host.cntJ
  else if off = 0x1020 then some s.host.cntV
  else if off = 0x1028 then some s.host.cntX
  else if off = 0x1030 then some s.host.cntFw
  else if off = 0x2000 then some s.fw.outbox.addr
  else if 0x4010 ≤ off ∧ off < 0x4058 ∧ off % 8 = 0 then some (look s.host.cntSlots 0 ((off - 0x4010) / 8))
  else if 0x8000 ≤ off ∧ off < 0x8400 ∧ off % 16 = 0 then some (look s.host.msix {} ((off - 0x8000) / 16)).addr
  else none

/-- A word of a BAR2 window's controls. -/
def windowWord (x : Window) (i : Nat) : Nat :=
  match i with
  | 0 => x.base % 2 ^ 32
  | 1 => x.baseHi
  | 2 => 2 * b1 x.writeEn + b1 x.enable
  | _ => x.blocked

/-- A word of an MSI-X table entry behind its address. -/
def msixWord (x : Msix) (i : Nat) : Nat := if i = 2 then x.data.toNat else b1 x.mask

/-- Thirty-two pending bits from vector `v` on. -/
def pbaWord (h : HostIf) (v : Nat) : Nat := ((List.range 32).map (fun i => b1 (look h.msix {} (v + i)).pend * 2 ^ i)).sum

/-- A word of a mailbox: its buffer, or its status; SUBMIT reads 0. -/
def boxWord (s : State) (m i : Nat) : Nat :=
  if i < 0x800 then (look (look s.fw.boxes {} m).buf 0 i).toNat else if i = 0x801 then boxStatus s m else 0

/-- Device ID and Vendor ID (R1, R463, R467). -/
abbrev identityWord : Nat := 0x0320_1F2B

/-- The identity of the function in configuration space (R463): a word of the type 0 header. The address bits of the
BARs, which software sets, and the command and status registers are PCI Express's. -/
def configWord (off : Nat) : Nat :=
  if off = 0x00 then identityWord
  else if off = 0x08 then 0x1200_0010
  else if off = 0x10 then 0x4
  else if off = 0x18 then 0xC
  else if off = 0x2C then 0x0001_1F2B
  else 0

/-- What a register holds that is no part of a 64-bit pair; reserved offsets read 0 (R465). -/
def wordValue (s : State) (off : Nat) : Nat :=
  if off % 4 ≠ 0 then 0
  else if off = 0x000 then identityWord
  else if off = 0x004 then 0x0303_0010 + s.fw.msgMinor % 256 * 256
  else if off = 0x010 then s.fw.fwMajor % 2 ^ 16 * 2 ^ 16 + s.fw.fwMinor % 2 ^ 16
  else if off = 0x014 then s.fw.fwPatch
  else if off = 0x018 then s.fw.compatId
  else if off = 0x020 then devStatus s
  else if off = 0x024 then devProgress s
  else if off = 0x1000 then s.host.errSummary.toNat
  else if off = 0x1004 then s.host.errMask.toNat
  else if off = 0x1008 then s.host.lastSeq
  else if off = 0x100C then s.host.latchInfo.toNat
  else if off = 0x2008 then s.fw.outbox.prod
  else if off = 0x200C then s.fw.outbox.cons
  else if off = 0x2010 then s.fw.outbox.threshold
  else if 0x3000 ≤ off ∧ off < 0x3100 then windowWord (look s.host.windows {} ((off - 0x3000) / 16)) (off % 16 / 4)
  else if off = 0x4000 then s.host.cntCtx * 256
  else if off = 0x4004 then b1 s.host.cntValid
  else if 0x8000 ≤ off ∧ off < 0x8400 then msixWord (look s.host.msix {} ((off - 0x8000) / 16)) (off % 16 / 4)
  else if off = 0x9000 then pbaWord s.host 0
  else if off = 0x9004 then pbaWord s.host 32
  else if 0x10_0000 ≤ off ∧ off < 0x14_0000 then boxWord s ((off - 0x10_0000) / 0x4000) (off % 0x4000 / 4)
  else 0

/-! ## Reads -/

/-- The data of a read. -/
def gives (s : State) (v : Nat) : State := { s with host := { s.host with rdata := p4 v, rpoison := false } }

/-- A read of a pair's low word: its high word is latched. -/
def readLow (s : State) (off v : Nat) : State :=
  gives { s with host := { s.host with hold := put s.host.hold (off + 4) (BitVec.ofNat 32 (v / 2 ^ 32)) } } v

/-- A read of DEV_PROG_POS_LO: the high words of position and total and DEV_PROGRESS are latched (R469). -/
def readProgPos (s : State) : State :=
  gives { s with host := { s.host with
    hold := put (put s.host.hold 0x02C (BitVec.ofNat 32 (s.fw.progPos / 2 ^ 32))) 0x034 (BitVec.ofNat 32 (s.fw.progTotal / 2 ^ 32))
    progLatch := some (BitVec.ofNat 32 (devProgress s)) } } s.fw.progPos

/-- A read of LAST_SEQ: LAST_INFO and LAST_TIME are latched (R473). -/
def readLastSeq (s : State) : State :=
  gives { s with host := { s.host with latchInfo := s.host.lastInfo, latchTime := s.host.lastTime } } s.host.lastSeq

/-- LAST_SEQ. -/
def execLastSeq (s : State) : Out := if barUp s then .next (readLastSeq s) else .next s

/-- DEV_PROG_POS_LO. -/
def execDevProgPosLo (s : State) : Out := if barUp s then .next (readProgPos s) else .next s

/-- A register read: a low word latches its high word, a high word is given as latched, DEV_PROGRESS as the last
read of DEV_PROG_POS_LO latched it, once. -/
def readReg (s : State) (off : Nat) : State :=
  if off = 0x028 then readProgPos s
  else if off = 0x1008 then readLastSeq s
  else
    match pairValue s off with
    | some v => readLow s off v
    | none =>
      if 4 ≤ off ∧ (pairValue s (off - 4)).isSome then gives s (look s.host.hold 0 off).toNat
      else
        match s.host.progLatch with
        | some v => if off = 0x024 then gives { s with host := { s.host with progLatch := none } } v.toNat else gives s (wordValue s off)
        | none => gives s (wordValue s off)

/-- LOW_WORD_READ, and every other read of a register. -/
def execLowWordRead (off : Nat) (s : State) : Out := if barUp s then .next (readReg s off) else .next s

/-! ## The error summary, snapshots and MSI-X -/

/-- A write of 1 to bits of ERR_SUMMARY clears them. -/
def execErrSummaryClear (value : Word32) (s : State) : Out :=
  if barUp s then .next { s with host := { s.host with errSummary := s.host.errSummary &&& ~~~(value.setWidth 5) } } else .next s

/-- The nine slots of a snapshot (R474). -/
def snapSlots (s : State) (k : Nat) : Tbl Nat :=
  let ctx := fun (n : Nat) => if ctxExists s k then counterValue s 0 1 k n else 0
  let energy := if k = 0xFF then s.power.overhead / 1000 else ctx 0x50
  [(0, s.clock.ns), (1, energy), (2, ctx 0x42), (3, ctx 0x43), (4, ctx 0x67), (5, ctx 0x68), (6, ctx 0x811),
    (7, counter s 0 0 0xC1), (8, counter s 0 0 0xC2)]

/-- A write of the snapshot register: CONTEXT, and with SNAP a snapshot. -/
def execSnap (value : Word32) (s : State) : Out :=
  if barUp s = false then .next s
  else
    let f := value.toNat / 256 % 256
    let k := if f < 64 ∨ f = 0xFF then f else s.host.cntCtx
    let h := { s.host with cntCtx := k }
    .next { s with host :=
      if value.getLsbD 0 then { h with cntSlots := snapSlots s k, cntValid := k == 0xFF || ctxExists s k } else h }

/-- A write of an MSI-X entry's MASK: a message held pending goes once the bit is clear. -/
def execMask (vec : Nat) (value : Word32) (s : State) : Out :=
  if barUp s = false ∨ 64 ≤ vec then .next s
  else
    let h := { s.host with msix := put s.host.msix vec { look s.host.msix {} vec with mask := value.getLsbD 0 } }
    .next { s with host := deliver h vec }

/-! ## Windows (R476, R477) -/

/-- Window `w`. -/
def windowAt (s : State) (w : Nat) : Window := look s.host.windows {} w

/-- Window `w` replaced. -/
def setWindow (s : State) (w : Nat) (x : Window) : State := { s with host := { s.host with windows := put s.host.windows w x } }

/-- A write of BASE_LO: the base committed, BLOCKED cleared. -/
def execBaseLo (win : Nat) (value : Word32) (s : State) : Out :=
  if barUp s = false ∨ 16 ≤ win then .next s
  else
    let x := windowAt s win
    .next (setWindow s win { x with base := x.baseHi * 2 ^ 32 + value.toNat / 2 ^ 21 * 2 ^ 21, blocked := 0 })

/-- What a physical address reached through a window is. -/
inductive Reach where
  | plain
  | refused
  | cache
  deriving DecidableEq, Repr

/-- The reach of a physical address (R69, R477). -/
def reachOf (s : State) (a : Nat) : Reach :=
  if a < 8 * Config.stackBytes then
    let st := a / Config.stackBytes
    let p := a / Config.page2
    if fwFloor st * Config.page2 ≤ a % Config.stackBytes ∨ s.mem.retired.elem p ∨ s.mem.fwRanges.any (fun r => decide (r.1 ≤ a) && decide (a < r.1 + r.2)) then .refused
    else .plain
  else if Config.thatchDpa ≤ a ∧ a < Config.thatchDpa + 0x1_0000_0000 then
    if 0x2C00_0000 ≤ (a - Config.thatchDpa) % 0x4000_0000 then .refused
    else match sliceMode s.mem (sliceOf a) with
      | .software => .plain
      | .cache => .cache
      | _ => .refused
  else if Config.scratchDpa ≤ a ∧ a < Config.scratchDpa + 336 * Config.scratchBytes then .plain
  else .refused

/-- An access refused and counted, BLOCKED saturating. -/
def block (s : State) (w : Nat) : State :=
  let x := windowAt s w
  setWindow s w { x with blocked := min (x.blocked + 1) 0xFFFF }

/-- The data of a BAR2 read. -/
def givesBytes (s : State) (bs : List Byte) (poison : Bool) : State := { s with host := { s.host with rdata := bs, rpoison := poison } }

/-- All ones. -/
def allOnes (s : State) (len : Nat) : State := givesBytes s (List.replicate len 0xFF) false

/-- A read through an open window of plain memory: a poisoned grain gives 0xFF bytes and a Poisoned TLP. -/
def readWindow (s : State) (a len : Nat) (unc : Bool) : State :=
  let s0 := meet s noCtx 0 a len
  let s1 := if unc then uncorrected s0 noCtx a 0 else s0
  let bad := fun (i : Nat) => s1.mem.poison.elem ((a + i) / 64)
  givesBytes s1 ((List.range len).map (fun i => if bad i then 0xFF else memByte s1.mem (a + i))) ((List.range len).any bad)

/-- A read through a BAR2 window. What a read of a slice in CACHE mode gives is not stated: a free value. -/
def execBar2Read (off len : Nat) (uncorrectable : Bool) (s : State) : Out :=
  let w := off / 2 ^ 32
  let x := windowAt s w
  let a := x.base + off % 2 ^ 32
  if barUp s = false ∨ 16 ≤ w then .next s
  else if s.fw.recovering ∨ x.enable = false then .next (allOnes s len)
  else
    let rs := (List.range len).map (fun i => reachOf s (a + i))
    if rs.any (fun r => r == .refused) then .next (allOnes (block s w) len)
    else if rs.any (fun r => r == .cache) then .next (drawn (givesBytes s (leBytes len (freeVal s (8 * len))) false))
    else .next (readWindow s a len uncorrectable)

/-- A write through a BAR2 window; one that reaches a slice in CACHE mode is not carried out. -/
def execBar2Write (off : Nat) (data : List Byte) (s : State) : Out :=
  let w := off / 2 ^ 32
  let x := windowAt s w
  let a := x.base + off % 2 ^ 32
  if barUp s = false ∨ 16 ≤ w ∨ s.fw.recovering ∨ x.enable = false then .next s
  else if x.writeEn = false then .next (block s w)
  else
    let rs := (List.range data.length).map (fun i => reachOf s (a + i))
    if rs.any (fun r => r == .refused) then .next (block s w)
    else if rs.any (fun r => r == .cache) then .next s
    else .next (writeDpa s a data false)

/-! ## Submitting a message (R344 to R347) -/

/-- The bytes of a mailbox's buffer. -/
def boxBytes (b : Mailbox) : List Byte := (List.range 2048).flatMap (fun i => p4 (look b.buf 0 i).toNat)

/-- SUBMIT: the message copied and held until it is answered. -/
def execSubmit (m : Nat) (value : Word32) (s : State) : Out :=
  if barUp s = false ∨ 16 ≤ m ∨ value.getLsbD 0 = false ∨ boxBusy s m then .next s
  else
    let bs := boxBytes (look s.fw.boxes {} m)
    .next (submitTo s m (readMsg m bs) (bs.drop 32))

/-! ## Register writes -/

/-- A write of a window's controls. -/
def writeWindow (s : State) (w i : Nat) (v : Nat) : State :=
  let x := windowAt s w
  match i with
  | 1 => setWindow s w { x with baseHi := v % 256 }
  | 2 => setWindow s w { x with writeEn := v.testBit 1, enable := v.testBit 0 }
  | _ => s

/-- A write of an MSI-X entry's address or data. -/
def writeMsix (s : State) (vec i : Nat) (v : Nat) : State :=
  let x := look s.host.msix {} vec
  let set := fun (y : Msix) => { s with host := { s.host with msix := put s.host.msix vec y } }
  match i with
  | 0 => set { x with addr := x.addr / 2 ^ 32 * 2 ^ 32 + v / 4 * 4 }
  | 1 => set { x with addr := v * 2 ^ 32 + x.addr % 2 ^ 32 }
  | 2 => set { x with data := BitVec.ofNat 32 v }
  | _ => s

/-- A write into a mailbox's buffer, ignored while the mailbox is busy. -/
def writeBox (s : State) (m i : Nat) (v : Word32) : State :=
  let b := look s.fw.boxes {} m
  if 0x800 ≤ i ∨ boxBusy s m then s
  else { s with fw := { s.fw with boxes := put s.fw.boxes m { b with buf := put b.buf i v } } }

/-- A write to a register; one whose field has behaviour of its own has that behaviour, and one to a read-only or
reserved register is ignored. -/
def execRegisterWrite (off : Nat) (value : Word32) (s : State) : Out :=
  let v := value.toNat
  if barUp s = false ∨ off % 4 ≠ 0 then .next s
  else if off = 0x1000 then execErrSummaryClear value s
  else if off = 0x1004 then .next { s with host := { s.host with errMask := value.setWidth 5 } }
  else if off = 0x200C then execCons value s
  else if off = 0x4000 then execSnap value s
  else if 0x3000 ≤ off ∧ off < 0x3100 then
    let w := (off - 0x3000) / 16
    if off % 16 = 0 then execBaseLo w value s else .next (writeWindow s w (off % 16 / 4) v)
  else if 0x8000 ≤ off ∧ off < 0x8400 then
    let vec := (off - 0x8000) / 16
    if off % 16 = 12 then execMask vec value s else .next (writeMsix s vec (off % 16 / 4) v)
  else if 0x10_0000 ≤ off ∧ off < 0x14_0000 then
    let m := (off - 0x10_0000) / 0x4000
    let i := off % 0x4000 / 4
    if i = 0x800 then execSubmit m value s else .next (writeBox s m i value)
  else .next s

end Sys2Proof.Machine
end

