-- ==== Sys2Proof/Machine/Steps.lean ====
section
/-! DEFINITION. Spans, steps and the end of a program: END (R57, R363), SPAN.BEGIN and SPAN.END
(R63 to R65, R175 to R185), STEP with the commit of a step (R388 to R392, R187, R165, R167), and the
pause of a context (R370). -/

namespace Sys2Proof.Machine

/-! ## Pausing (R370) -/

/-- Whether every core of a launch has paused or ended, and one has paused. -/
def allPaused (s : State) (k : Nat) : Bool :=
  let l := launchCores (ctxOf s k)
  l.any (fun n => (coreOf s k n).paused) && l.all (fun n => (coreOf s k n).paused || (coreOf s k n).ended)

/-- A context all of whose cores have paused becomes PAUSED and leaves its partition. -/
def pauseCtx (s : State) (k : Nat) : State :=
  if allPaused s k then
    let part := (ctxOf s k).part
    let s1 := deschedule s part
    let s2 := raise (changeCtx s1 k .paused 0) 0x070C clsC k 0 (p4 k ++ p4 0)
    let s3 := traceCat s2 2 k 0xFFFF 0 0x31 0 part [3]
    schedule s3 part
  else s

/-- A core pauses here when its context is to pause. -/
def pauseHere (s : State) (k n : Nat) : State :=
  if (ctxOf s k).pauseReq then pauseCtx (setCore s k n { coreOf s k n with paused := true }) k else s

/-! ## END -/

/-- LAUNCH_DONE once every core of the launch has ended (R363). -/
def finishLaunch (s : State) (k : Nat) : State :=
  if (launchCores (ctxOf s k)).all (fun n => (coreOf s k n).ended) then endLaunch s k 0 else s

/-- END: it waits for the five engines and then reports the core's completion; tokens left are
discarded (R57). A core that is to pause stops here first. -/
def execEndProgram (c : Nat) (w : CWord) (s : State) : Out :=
  issueC s c 0x02 w (fun k x =>
    if x.pass ≠ 0 then .error (.unpred .spanRules)
    else if !enginesEmpty x then .ok (hold s k c .drain)
    else if (ctxOf s k).pauseReq then .ok (pauseHere s k c)
    else
      .ok (finishLaunch (setCore s k c { adv x 8 with
        ended := true, tokens := [] }) k))

/-! ## The span record (R175) -/

/-- An output entry: the 64 bytes of each descriptor as read, and STATS_PTR. -/
structure SpanEntry where
  primary : List Byte
  shadow  : List Byte
  shadowD : Desc
  stats   : Nat
  deriving DecidableEq, Repr

/-- A span record as it is read. -/
structure SpanRec where
  rescale : Bool
  margin  : Nat
  replays : Nat
  entries : List SpanEntry
  deriving DecidableEq, Repr

/-- The address of entry `i`. -/
def entryVa (va i : Nat) : Nat := va + 0x40 + 0x100 * i

/-- A descriptor a span record holds: well formed, and not format-indirect. -/
def spanDescOk (bs : List Byte) : Bool :=
  let d := decodeDesc (wordsOf bs)
  descOk 3 d && !d.find

/-- One output entry read as a control read. -/
def readEntry (s : State) (k n va i : Nat) : Except Trap SpanEntry := do
  let bs ← controlRead s k n (entryVa va i) 0x100
  let p := (bs.drop 0x40).take 64
  let h := (bs.drop 0x80).take 64
  need (spanDescOk p && spanDescOk h && (bs.drop 0xC9).all (fun b => b == 0))
  .ok ⟨p, h, decodeDesc (wordsOf h), leNat ((bs.drop 0xC0).take 8)⟩

/-- The span record at an address; a malformed one gives an unpredictable result. -/
def readSpan (s : State) (k n va : Nat) : Except Trap SpanRec := do
  need (decide (va % 64 = 0))
  let h ← controlRead s k n va 64
  let b := fun i => (nth h i 0).toNat
  need (decide (1 ≤ b 0) && decide (b 0 ≤ 16) && decide (b 1 ≤ 1) && decide (b 2 ≤ 3) && b 3 == 0
    && (h.drop 0x10).all (fun x => x == 0))
  let es ← (List.range (b 0)).mapM (readEntry s k n va)
  .ok ⟨b 1 == 1, b 2, leNat ((h.drop 8).take 4), es⟩

/-- The slots and STATUS bytes of every output written. -/
def slotWrs (va status : Nat) (f : SpanEntry → List Byte) (es : List SpanEntry) : List Wr :=
  es.zipIdx.flatMap (fun e => [⟨entryVa va e.2, f e.1, false⟩, ⟨entryVa va e.2 + 0xC8, leBytes 1 status, false⟩])

/-- SPAN.BEGIN (R63, R176, R181); level 3 only. -/
def execSpanBegin (c : Nat) (w : CWord) (s : State) : Out :=
  level3 s c 0x18 (issueC s c 0x18 w (fun k x => do
    if x.pass ≠ 0 then .error (.unpred .spanRules)
    else if !enginesEmpty x then .ok (hold s k c .drain)
    else
      let va := (sreg x w.srca.toNat).toNat
      let r ← readSpan s k c va
      let s1 ← writeVas s k c (slotWrs va 0 (fun e => e.primary) r.entries)
      let y := coreOf s1 k c
      let sn : SpanSnap := ⟨y.sregs, y.preds, y.tokens, y.pc + 8, y.depth⟩
      .ok (setCore s1 k c { adv y 8 with
        snap := sn, pass := 1, spanId := w.imm, spanRec := va, spanRescale := r.rescale, spanCause := 0
        spanIn := [], spanOut := [], latch := false, causes := 0, unspanned := false, obs := [], slotHit := [], slotMiss := false })))

/-! ## SPAN.END -/

/-- The largest finite magnitude of a shadow's format (R168, R182). -/
def shadowQ (f : Nat) : Rat := if f = fINT32 then 2147483647 else scaleQ f

/-- The scale a RESCALE rewind writes for an output, none where its record is not usable (R182). -/
def rescaleWr (s : State) (k n margin : Nat) (e : SpanEntry) : Except Trap (List Wr) := do
  if e.stats = 0 ∨ e.shadowD.scaleKind ≠ 1 then .ok []
  else
    let r ← readVa s k n e.stats 64
    let valid := (nth r.1 0x35 0).getLsbD 0
    match decodeFloat fFP32 (leNat ((r.1.drop 8).take 4)) with
    | .fin a =>
      if r.2 ∨ valid = false ∨ a = 0 then .ok []
      else .ok [⟨e.shadowD.scalePtr, p4 (toD fFP32 (.fin (a * pow2 margin / shadowQ e.shadowD.code))).code, false⟩]
    | _ => .ok []

/-- The rewind (R64, R176, R182): shadows into the slots, the scales of a RESCALE span, the header's
history, the snapshot restored and the latch cleared. -/
def rewind (s : State) (k n : Nat) (x : Core) : Except Trap State := do
  let va := x.spanRec
  let r ← readSpan s k n va
  let sc ← (if r.rescale then r.entries.mapM (rescaleWr s k n r.margin) else .ok [])
  let hd : List Wr := [⟨va + 4, p4 x.causes.toNat ++ p4 (r.replays + 1) ++ p4 x.stepNo.toNat, false⟩]
  let s1 ← writeVas s k n (sc.flatten ++ slotWrs va (if r.rescale then 2 else 1) (fun e => e.shadow) r.entries ++ hd)
  let y := coreOf s1 k n
  let s2 := setCore s1 k n { y with
    sregs := y.snap.sregs, preds := y.snap.preds, tokens := y.snap.tokens, pc := y.snap.pc, depth := y.snap.depth
    pass := 2, spanRescale := r.rescale, spanCause := y.causes, spanOut := [], latch := false, causes := 0
    unspanned := false, obs := []
    slotHit := [], slotMiss := false, held := none, skipBp := false }
  .ok (traceCat s2 1 k n (unitCore n) 0x20 1 y.spanId.toNat (p4 y.causes.toNat ++ leBytes 1 (if r.rescale then 1 else 0)))

/-- SPAN_REPLAY (R185, R190). -/
def spanReplay (s : State) (k n : Nat) (x : Core) (unresolved : Bool) : State :=
  raiseOn s 0x0104 clsC k 0 n
    (p4 x.spanId.toNat ++ p4 x.stepNo.toNat ++ p4 n ++ p4 x.spanCause.toNat
      ++ p4 (if x.spanRescale then 1 else 0) ++ p4 (if unresolved then 1 else 0))

/-- The span left: held observations released, the pass idle, the core past SPAN.END. -/
def leaveSpan (s : State) (k n : Nat) : State :=
  let x := coreOf s k n
  let s1 := setCore s k n { adv x 8 with pass := 0, obs := [] }
  x.obs.foldl (applyObs k n) s1

/-- STATUS 3 for the outputs whose instruction set the latch in the replay pass, or for all (R184). -/
def unresolvedWrs (x : Core) (es : List SpanEntry) : List Wr :=
  es.zipIdx.flatMap (fun e =>
    if x.slotMiss ∨ x.slotHit.elem (entryVa x.spanRec e.2) = true then
      [⟨entryVa x.spanRec e.2 + 0xC8, leBytes 1 3, false⟩] else [])

/-- An overflow that recurred in the replay pass (R181, R184): under JOB_FAULT the core is the first
to fault unless one did before. -/
def unresolvedEnd (s : State) (k n : Nat) (x : Core) : Except Trap State := do
  let mark := decide ((ctxOf s k).policy.unresolved = 1)
  let r ← readSpan s k n x.spanRec
  let s1 ← (if mark then writeVas s k n (unresolvedWrs x r.entries) else .ok s)
  let s2 := spanReplay s1 k n x true
  let s3 := raiseOn s2 0x0105 (if mark then clsC else clsJ) k 0 n
    (p4 x.spanId.toNat ++ p4 x.stepNo.toNat ++ p4 n ++ p4 x.causes.toNat)
  let s4 := leaveSpan s3 k n
  .ok (if mark then s4 else setCore s4 k n { coreOf s4 k n with faulted := true })

/-- SPAN.END (R64, R181 to R185); level 3 only. -/
def execSpanEnd (c : Nat) (w : CWord) (s : State) : Out :=
  level3 s c 0x19 (issueC s c 0x19 w (fun k x => do
    if x.pass = 0 then .error (.unpred .spanRules)
    else if !enginesEmpty x then .ok (hold s k c .drain)
    else if x.latch = false then
      let s1 := if x.pass = 2 then spanReplay s k c x false else s
      .ok (pauseHere (leaveSpan s1 k c) k c)
    else if x.pass = 1 then rewind s k c x
    else do
      let s1 ← unresolvedEnd s k c x
      .ok (pauseHere s1 k c)))

/-! ## STEP -/

/-- One watch slot at a commit (R187): its new state, and whether ZERO_RUN is raised. -/
def watchCommit (p : NumericPolicy) (w : Watch) : Watch × Bool :=
  if w.armed = false ∨ w.seen = false then (w, false)
  else if w.nonzero then ({ w with run := 0, alarm := false, seen := false, nonzero := false }, false)
  else
    let r := min (w.run + 1) 65535
    let th := if w.threshold = 0 then p.zeroRun else w.threshold
    let hit := decide (th ≤ r) && !w.alarm
    ({ w with run := r, alarm := w.alarm || hit, seen := false }, hit)

/-- Every armed slot of a context updated, ZERO_RUN raised in slot order. -/
def watchesCommit (s : State) (k : Nat) : State :=
  let x := ctxOf s k
  let rs := x.watches.map (fun e => (e.1, watchCommit x.policy e.2))
  let s1 := setCtx s k { x with watches := rs.map (fun e => (e.1, e.2.1)) }
  rs.foldl (fun s e => if e.2.2 then raise s 0x0107 clsC k 0 (p4 e.1 ++ p4 e.2.1.run ++ p4 e.2.1.tensor) else s) s1

/-- Whether step `q` of a context is a checkpoint step (R392). -/
def isCkptStep (x : Ctx) (q : Nat) : Bool :=
  x.ckpt.ranges != [] && ((decide (0 < x.ckpt.interval) && decide (q % x.ckpt.interval = 0)) || x.ckpt.marks.elem q)

/-- Whether every core of the launch has executed STEP with COMMIT for step `q`. -/
def allCommitted (s : State) (k q : Nat) : Bool :=
  (launchCores (ctxOf s k)).all (fun n => (coreOf s k n).commits.elem q)

/-- The commit of step `q` (R390): refused by STATE_POISON, and otherwise the committed step number,
the policy, the watches and the start of a checkpoint. -/
def commitStep (s : State) (k q : Nat) : State :=
  let s1 := mapCores s k (fun _ c => { c with commits := delNat c.commits q })
  let x := ctxOf s1 k
  if x.statePoison then raise s1 0x0813 clsJ k 0 (p4 q ++ p8 x.poisonAt)
  else
    let s2 := watchesCommit s1 k
    let y := ctxOf s2 k
    let s3 := setCtx s2 k { y with
      stepNo := q
      policy := match y.policyNext with | some p => p | none => y.policy
      policyNext := none
      ckpt := { y.ckpt with
        copying := if isCkptStep y q then some q else y.ckpt.copying
        marks := delNat y.ckpt.marks q } }
    traceCat s3 4 k 0xFFFF 0 0x50 0 q []

/-- NUMERIC_EVENTS_SUPPRESSED at the end of a core's step (R167). -/
def endEventStep (s : State) (k n : Nat) : State :=
  let x := coreOf s k n
  let s1 := if x.suppressed = 0 then s
    else raiseOn s 0x0108 clsC k 0 n (p4 n ++ p4 x.suppressed ++ p4 x.stepNo.toNat)
  setCore s1 k n { coreOf s1 k n with events := 0, suppressed := 0 }

/-- STEP with COMMIT by core `n`, its step number now `q`: a checkpoint step holds the core until its
snapshot is copied (R392). -/
def stepCommit (s : State) (k n q : Nat) (ckpt : Bool) : State :=
  let s1 := endEventStep s k n
  let x := ctxOf s1 k
  let s2 := setCtx s1 k { x with ckpt := { x.ckpt with
    marks := if ckpt then addNat x.ckpt.marks q else x.ckpt.marks } }
  let hold := isCkptStep (ctxOf s2 k) q
  let c := coreOf s2 k n
  let s3 := setCore s2 k n { c with
    commits := addNat c.commits q
    held := if hold then some .stepHold else none
    heldSince := s.clock.ns }
  if allCommitted s3 k q then commitStep s3 k q else s3

/-- STEP (R388). -/
def execStepProgram (c : Nat) (w : CWord) (s : State) : Out :=
  issueC s c 0x1A w (fun k x =>
    if 4 ≤ w.imm.toNat then .error (.unpred .reservedField)
    else if x.pass ≠ 0 then .error (.unpred .spanRules)
    else if !enginesEmpty x then .ok (hold s k c .drain)
    else
      let s1 := setCore s k c { adv x 8 with stepNo := x.stepNo + 1 }
      let s2 := if w.imm.getLsbD 0 then stepCommit s1 k c (x.stepNo + 1).toNat (w.imm.getLsbD 1) else s1
      .ok (pauseHere s2 k c))

end Sys2Proof.Machine
end

