-- ==== Sys2Proof/Machine/Dispatch.lean ====
section
/-! DEFINITION. One arm per command: what it does to everything but the queue. -/

namespace Sys2Proof.Machine

/-- The effect of a command (R48, R354, R463 to R477 and the steps the spec names). -/
def exec (i : Instr) (s : State) : Host.Outcome State Fault Refusal :=
  match i with
  | .nop c w => Sys2Proof.Machine.execNop c w s
  | .endProgram c w => Sys2Proof.Machine.execEndProgram c w s
  | .alu c w => Sys2Proof.Machine.execAlu c w s
  | .alui c w => Sys2Proof.Machine.execAlui c w s
  | .movhi c w => Sys2Proof.Machine.execMovhi c w s
  | .cmp c w => Sys2Proof.Machine.execCmp c w s
  | .cmpi c w => Sys2Proof.Machine.execCmpi c w s
  | .pred c w => Sys2Proof.Machine.execPred c w s
  | .br c w => Sys2Proof.Machine.execBr c w s
  | .jal c w => Sys2Proof.Machine.execJal c w s
  | .jr c w => Sys2Proof.Machine.execJr c w s
  | .ld c w => Sys2Proof.Machine.execLd c w s
  | .st c w => Sys2Proof.Machine.execSt c w s
  | .sysrd c w => Sys2Proof.Machine.execSysrd c w s
  | .wtok c w => Sys2Proof.Machine.execWtok c w s
  | .illegalOpcode c opc => Sys2Proof.Machine.execIllegalOpcode c opc s
  | .privilegedInstruction c opc => Sys2Proof.Machine.execPrivilegedInstruction c opc s
  | .spanBegin c w => Sys2Proof.Machine.execSpanBegin c w s
  | .spanEnd c w => Sys2Proof.Machine.execSpanEnd c w s
  | .stepProgram c w => Sys2Proof.Machine.execStepProgram c w s
  | .markPush c w => Sys2Proof.Machine.execMarkPush c w s
  | .markPop c w => Sys2Proof.Machine.execMarkPop c w s
  | .ophint c w => Sys2Proof.Machine.execOphint c w s
  | .mma c g => Sys2Proof.Machine.execMma c g s
  | .mmaLd c g => Sys2Proof.Machine.execMmaLd c g s
  | .mda c g => Sys2Proof.Machine.execMda c g s
  | .mvm c g => Sys2Proof.Machine.execMvm c g s
  | .vop c g => Sys2Proof.Machine.execVop c g s
  | .topk c g => Sys2Proof.Machine.execTopk c g s
  | .norm c g => Sys2Proof.Machine.execNorm c g s
  | .softmax c g => Sys2Proof.Machine.execSoftmax c g s
  | .cvt c g => Sys2Proof.Machine.execCvt c g s
  | .stat c g => Sys2Proof.Machine.execStat c g s
  | .upd c g => Sys2Proof.Machine.execUpd c g s
  | .xfer c g => Sys2Proof.Machine.execXfer c g s
  | .fetch c g => Sys2Proof.Machine.execFetch c g s
  | .fetchChunkIssue c id => Sys2Proof.Machine.execFetchChunkIssue c id s
  | .ridge c g => Sys2Proof.Machine.execRidge c g s
  | .spar c g => Sys2Proof.Machine.execSpar c g s
  | .yealm c g => Sys2Proof.Machine.execYealm c g s
  | .cancel c g => Sys2Proof.Machine.execCancel c g s
  | .fence c g => Sys2Proof.Machine.execFence c g s
  | .trussArrive c g => Sys2Proof.Machine.execTrussArrive c g s
  | .trussWait c g => Sys2Proof.Machine.execTrussWait c g s
  | .trussArwt c g => Sys2Proof.Machine.execTrussArwt c g s
  | .collAllreduce c g => Sys2Proof.Machine.execCollAllreduce c g s
  | .collRedscat c g => Sys2Proof.Machine.execCollRedscat c g s
  | .collAllgather c g => Sys2Proof.Machine.execCollAllgather c g s
  | .collAlltoall c g => Sys2Proof.Machine.execCollAlltoall c g s
  | .collBcast c g => Sys2Proof.Machine.execCollBcast c g s
  | .collReduce c g => Sys2Proof.Machine.execCollReduce c g s
  | .engineInstructionStart c e => Sys2Proof.Machine.execEngineInstructionStart c e s
  | .engineInstructionComplete c e id => Sys2Proof.Machine.execEngineInstructionComplete c e id s
  | .burstStart c id rd => Sys2Proof.Machine.execBurstStart c id rd s
  | .regulatorRefill => Sys2Proof.Machine.execRegulatorRefill s
  | .patrolScrub rd => Sys2Proof.Machine.execPatrolScrub rd s
  | .hbmRowSpare chan row => Sys2Proof.Machine.execHbmRowSpare chan row s
  | .hbmPageRetire page => Sys2Proof.Machine.execHbmPageRetire page s
  | .hbmPostPackageRepair chans => Sys2Proof.Machine.execHbmPostPackageRepair chans s
  | .thatchSliceRetire slice => Sys2Proof.Machine.execThatchSliceRetire slice s
  | .shadowQuantumExpiry p => Sys2Proof.Machine.execShadowQuantumExpiry p s
  | .shadowEarlySwitch p => Sys2Proof.Machine.execShadowEarlySwitch p s
  | .coreLogicFault p => Sys2Proof.Machine.execCoreLogicFault p s
  | .patrolTestStart => Sys2Proof.Machine.execPatrolTestStart s
  | .patrolTestDone pass sig margin => Sys2Proof.Machine.execPatrolTestDone pass sig margin s
  | .coreReverify p pass => Sys2Proof.Machine.execCoreReverify p pass s
  | .watchdogTest => Sys2Proof.Machine.execWatchdogTest s
  | .remoteTrussArrival k => Sys2Proof.Machine.execRemoteTrussArrival k s
  | .flitReceive j g up f link => Sys2Proof.Machine.execFlitReceive j g up f link s
  | .nakReceive j g up ack => Sys2Proof.Machine.execNakReceive j g up ack s
  | .replayTimeout j g up => Sys2Proof.Machine.execReplayTimeout j g up s
  | .marginReport j up lanes => Sys2Proof.Machine.execMarginReport j up lanes s
  | .laneDue j up lane => Sys2Proof.Machine.execLaneDue j up lane s
  | .swap j up lane spare => Sys2Proof.Machine.execSwap j up lane spare s
  | .laneSwitch j up => Sys2Proof.Machine.execLaneSwitch j up s
  | .chainGroupRemoved j g => Sys2Proof.Machine.execChainGroupRemoved j g s
  | .portTrained port offer => Sys2Proof.Machine.execPortTrained port offer s
  | .portLinkLoss port cause => Sys2Proof.Machine.execPortLinkLoss port cause s
  | .portAnRetry port rates trained => Sys2Proof.Machine.execPortAnRetry port rates trained s
  | .packetSend peer => Sys2Proof.Machine.execPacketSend peer s
  | .furlongHelloRetry peer => Sys2Proof.Machine.execFurlongHelloRetry peer s
  | .furlongHelloReceive k => Sys2Proof.Machine.execFurlongHelloReceive k s
  | .sessionOpenTimeout peer => Sys2Proof.Machine.execSessionOpenTimeout peer s
  | .furlongWriteReceive k => Sys2Proof.Machine.execFurlongWriteReceive k s
  | .readReqReceive k => Sys2Proof.Machine.execReadReqReceive k s
  | .readRespReceive k => Sys2Proof.Machine.execReadRespReceive k s
  | .sendReceive k => Sys2Proof.Machine.execSendReceive k s
  | .sackReceive h b => Sys2Proof.Machine.execSackReceive h b s
  | .sackTimer peer => Sys2Proof.Machine.execSackTimer peer s
  | .rtoExpiry peer psn => Sys2Proof.Machine.execRtoExpiry peer psn s
  | .pathSuspendExpiry peer path => Sys2Proof.Machine.execPathSuspendExpiry peer path s
  | .congestionInterval peer => Sys2Proof.Machine.execCongestionInterval peer s
  | .peerLoss peer => Sys2Proof.Machine.execPeerLoss peer s
  | .collReady k => Sys2Proof.Machine.execCollReady k s
  | .collData k => Sys2Proof.Machine.execCollData k s
  | .collPartial k => Sys2Proof.Machine.execCollPartial k s
  | .collResult k => Sys2Proof.Machine.execCollResult k s
  | .collCheck k => Sys2Proof.Machine.execCollCheck k s
  | .chunkCheck c id chunk => Sys2Proof.Machine.execChunkCheck c id chunk s
  | .collRepair k => Sys2Proof.Machine.execCollRepair k s
  | .collAbort k => Sys2Proof.Machine.execCollAbort k s
  | .collRevoke k => Sys2Proof.Machine.execCollRevoke k s
  | .collDone k => Sys2Proof.Machine.execCollDone k s
  | .ptpSyncReceive a rate => Sys2Proof.Machine.execPtpSyncReceive a rate s
  | .ptpSyncTimeout => Sys2Proof.Machine.execPtpSyncTimeout s
  | .ppsIn => Sys2Proof.Machine.execPpsIn s
  | .ppsOut => Sys2Proof.Machine.execPpsOut s
  | .frequencyStep b => Sys2Proof.Machine.execFrequencyStep b s
  | .muxSwitch b => Sys2Proof.Machine.execMuxSwitch b s
  | .pllUnlock b pll => Sys2Proof.Machine.execPllUnlock b pll s
  | .marginMonitorRead b margin => Sys2Proof.Machine.execMarginMonitorRead b margin s
  | .droopDetect b => Sys2Proof.Machine.execDroopDetect b s
  | .droopClear b => Sys2Proof.Machine.execDroopClear b s
  | .voltageLowerHoldExpiry b => Sys2Proof.Machine.execVoltageLowerHoldExpiry b s
  | .fastLoop raw uncore => Sys2Proof.Machine.execFastLoop raw uncore s
  | .slowLoop measured => Sys2Proof.Machine.execSlowLoop measured s
  | .energyAttribution cores grains rest => Sys2Proof.Machine.execEnergyAttribution cores grains rest s
  | .lostCycleUpdate delivered => Sys2Proof.Machine.execLostCycleUpdate delivered s
  | .bayClockStop b => Sys2Proof.Machine.execBayClockStop b s
  | .thermalSample dies hbm => Sys2Proof.Machine.execThermalSample dies hbm s
  | .thermalEmergency sensor temp => Sys2Proof.Machine.execThermalEmergency sensor temp s
  | .thermalTrip sensor temp => Sys2Proof.Machine.execThermalTrip sensor temp s
  | .hbmThrottle stack temp => Sys2Proof.Machine.execHbmThrottle stack temp s
  | .fastThrottle => Sys2Proof.Machine.execFastThrottle s
  | .fastThrottleRelease => Sys2Proof.Machine.execFastThrottleRelease s
  | .pmuFallback missed => Sys2Proof.Machine.execPmuFallback missed s
  | .pmuResume => Sys2Proof.Machine.execPmuResume s
  | .pmbusAlert => Sys2Proof.Machine.execPmbusAlert s
  | .railUndervoltage r => Sys2Proof.Machine.execRailUndervoltage r s
  | .ref25Loss => Sys2Proof.Machine.execRef25Loss s
  | .perstNAssert => Sys2Proof.Machine.execPerstNAssert s
  | .perstNRelease bootMode clkMode => Sys2Proof.Machine.execPerstNRelease bootMode clkMode s
  | .bootStageComplete f => Sys2Proof.Machine.execBootStageComplete f s
  | .lockstepMismatch pair => Sys2Proof.Machine.execLockstepMismatch pair s
  | .outboxRecordWrite => Sys2Proof.Machine.execOutboxRecordWrite s
  | .outboxSignalTimer => Sys2Proof.Machine.execOutboxSignalTimer s
  | .hostAbsenceTest => Sys2Proof.Machine.execHostAbsenceTest s
  | .schedSliceExpiry part => Sys2Proof.Machine.execSchedSliceExpiry part s
  | .preemptDrainTimeout part => Sys2Proof.Machine.execPreemptDrainTimeout part s
  | .preemptionComplete part => Sys2Proof.Machine.execPreemptionComplete part s
  | .debugHaltComplete ctx => Sys2Proof.Machine.execDebugHaltComplete ctx s
  | .traceRecordWrite source => Sys2Proof.Machine.execTraceRecordWrite source s
  | .fwActivationBegin target importOk => Sys2Proof.Machine.execFwActivationBegin target importOk s
  | .fwActivateWindowExpiry target => Sys2Proof.Machine.execFwActivateWindowExpiry target s
  | .fwCommitTimeout target => Sys2Proof.Machine.execFwCommitTimeout target s
  | .jobHalt ctx => Sys2Proof.Machine.execJobHalt ctx s
  | .jobHaltReceive job epoch origin cause sender => Sys2Proof.Machine.execJobHaltReceive job epoch origin cause sender s
  | .haltComplete ctx => Sys2Proof.Machine.execHaltComplete ctx s
  | .haltAckReceive job sender committed ready absent => Sys2Proof.Machine.execHaltAckReceive job sender committed ready absent s
  | .haltAckTimeout ctx child => Sys2Proof.Machine.execHaltAckTimeout ctx child s
  | .gatherTimeout ctx => Sys2Proof.Machine.execGatherTimeout ctx s
  | .restore job target => Sys2Proof.Machine.execRestore job target s
  | .restoreCopyDone ctx => Sys2Proof.Machine.execRestoreCopyDone ctx s
  | .restoreDone job sender => Sys2Proof.Machine.execRestoreDone job sender s
  | .resume job => Sys2Proof.Machine.execResume job s
  | .replaceWaitExpiry ctx => Sys2Proof.Machine.execReplaceWaitExpiry ctx s
  | .snapshotCopyDone ctx => Sys2Proof.Machine.execSnapshotCopyDone ctx s
  | .ckptReady job sender epoch => Sys2Proof.Machine.execCkptReady job sender epoch s
  | .ckptCommit job epoch => Sys2Proof.Machine.execCkptCommit job epoch s
  | .mirrorWriteDone ctx epoch => Sys2Proof.Machine.execMirrorWriteDone ctx epoch s
  | .twinHeartbeatSend => Sys2Proof.Machine.execTwinHeartbeatSend s
  | .twinHeartbeatReceive node incarnation attested beats => Sys2Proof.Machine.execTwinHeartbeatReceive node incarnation attested beats s
  | .twinLost ctx => Sys2Proof.Machine.execTwinLost ctx s
  | .deviceRecovery cause => Sys2Proof.Machine.execDeviceRecovery cause s
  | .deviceRecoveryComplete imported => Sys2Proof.Machine.execDeviceRecoveryComplete imported s
  | .flashWrite area counter tag data => Sys2Proof.Machine.execFlashWrite area counter tag data s
  | .debugUnlockToken m => Sys2Proof.Machine.execDebugUnlockToken m s
  | .entdaa addr => Sys2Proof.Machine.execEntdaa addr s
  | .setdasa => Sys2Proof.Machine.execSetdasa s
  | .rstdaa => Sys2Proof.Machine.execRstdaa s
  | .pcieLinkDown => Sys2Proof.Machine.execPcieLinkDown s
  | .hello h outboxAddr threshold rsv => Sys2Proof.Machine.execHello h outboxAddr threshold rsv s
  | .hostAlive h timeoutS rsv => Sys2Proof.Machine.execHostAlive h timeoutS rsv s
  | .status h => Sys2Proof.Machine.execStatus h s
  | .contextList h => Sys2Proof.Machine.execContextList h s
  | .capacity h hostAddr rsv => Sys2Proof.Machine.execCapacity h hostAddr rsv s
  | .contextCreate h part mbx hostLoss route job manager watchdog rsv => Sys2Proof.Machine.execContextCreate h part mbx hostLoss route job manager watchdog rsv s
  | .contextDestroy h => Sys2Proof.Machine.execContextDestroy h s
  | .contextPolicy h hostLoss route manager rsv => Sys2Proof.Machine.execContextPolicy h hostLoss route manager rsv s
  | .contextResume h => Sys2Proof.Machine.execContextResume h s
  | .contextStop h => Sys2Proof.Machine.execContextStop h s
  | .contextEnergy h => Sys2Proof.Machine.execContextEnergy h s
  | .memAlloc h va size kind page perm rsv => Sys2Proof.Machine.execMemAlloc h va size kind page perm rsv s
  | .memFree h va size => Sys2Proof.Machine.execMemFree h va size s
  | .memWrite h va size hostAddr data => Sys2Proof.Machine.execMemWrite h va size hostAddr data s
  | .memRead h va size hostAddr => Sys2Proof.Machine.execMemRead h va size hostAddr s
  | .launch h entries rsv => Sys2Proof.Machine.execLaunch h entries rsv s
  | .numericPolicy h p => Sys2Proof.Machine.execNumericPolicy h p s
  | .numericWatch h slot threshold arm rsv => Sys2Proof.Machine.execNumericWatch h slot threshold arm rsv s
  | .watchdogSet h periodMs rsv => Sys2Proof.Machine.execWatchdogSet h periodMs rsv s
  | .trussCreate h vtid mode home limit participants fwd members rsv => Sys2Proof.Machine.execTrussCreate h vtid mode home limit participants fwd members rsv s
  | .trussDestroy h vtid rsv => Sys2Proof.Machine.execTrussDestroy h vtid rsv s
  | .regionCreate h key perm base length rsv => Sys2Proof.Machine.execRegionCreate h key perm base length rsv s
  | .regionDestroy h key rsv => Sys2Proof.Machine.execRegionDestroy h key rsv s
  | .partitionSet h part quota => Sys2Proof.Machine.execPartitionSet h part quota s
  | .sliceMode h bd slice mode rsv => Sys2Proof.Machine.execSliceMode h bd slice mode rsv s
  | .schedSet h part sliceMs quantumUs rsv => Sys2Proof.Machine.execSchedSet h part sliceMs quantumUs rsv s
  | .fixedFreq h part on rsv => Sys2Proof.Machine.execFixedFreq h part on rsv s
  | .oppointSet h part freq rsv => Sys2Proof.Machine.execOppointSet h part freq rsv s
  | .powerLimit h watts rsv => Sys2Proof.Machine.execPowerLimit h watts rsv s
  | .budgetSet h ctx hbm network rsv => Sys2Proof.Machine.execBudgetSet h ctx hbm network rsv s
  | .timeSource h source profile port rsv => Sys2Proof.Machine.execTimeSource h source profile port rsv s
  | .portConfig h octet mode mtu rsv => Sys2Proof.Machine.execPortConfig h octet mode mtu rsv s
  | .nodeTable h job nodes => Sys2Proof.Machine.execNodeTable h job nodes s
  | .managerSet h entries rsv => Sys2Proof.Machine.execManagerSet h entries rsv s
  | .netIdentity h n => Sys2Proof.Machine.execNetIdentity h n s
  | .gridSet h naxes extent nodes rsv => Sys2Proof.Machine.execGridSet h naxes extent nodes rsv s
  | .groupCreate h gid alg fanin members block statusPtr nodes rsv => Sys2Proof.Machine.execGroupCreate h gid alg fanin members block statusPtr nodes rsv s
  | .groupDestroy h gid rsv => Sys2Proof.Machine.execGroupDestroy h gid rsv s
  | .storageConnect h ctrl family svcid queues depth addr subnqn rsv namespaces => Sys2Proof.Machine.execStorageConnect h ctrl family svcid queues depth addr subnqn rsv namespaces s
  | .storageRead h ctrl nsid slba nlb va truss phase rsv => Sys2Proof.Machine.execStorageRead h ctrl nsid slba nlb va truss phase rsv s
  | .storageWrite h ctrl nsid slba nlb va truss phase rsv => Sys2Proof.Machine.execStorageWrite h ctrl nsid slba nlb va truss phase rsv s
  | .storageDone ctx seq nvmeStatus blocks => Sys2Proof.Machine.execStorageDone ctx seq nvmeStatus blocks s
  | .checkpointSet h interval restartLimit replaceWait ranges rsv => Sys2Proof.Machine.execCheckpointSet h interval restartLimit replaceWait ranges rsv s
  | .twinSet h node flags lost rsv => Sys2Proof.Machine.execTwinSet h node flags lost rsv s
  | .fwStage h target flags offset total data ref rsv => Sys2Proof.Machine.execFwStage h target flags offset total data ref rsv s
  | .fwActivate h target windowS commitS rsv => Sys2Proof.Machine.execFwActivate h target windowS commitS rsv s
  | .fwCommit h target rsv => Sys2Proof.Machine.execFwCommit h target rsv s
  | .fwRollback h target rsv => Sys2Proof.Machine.execFwRollback h target rsv s
  | .counterRead h hostAddr entries rsv => Sys2Proof.Machine.execCounterRead h hostAddr entries rsv s
  | .traceSet h sizeMib mode categories mask rsv => Sys2Proof.Machine.execTraceSet h sizeMib mode categories mask rsv s
  | .traceStatus h => Sys2Proof.Machine.execTraceStatus h s
  | .traceRead h first count hostAddr rsv => Sys2Proof.Machine.execTraceRead h first count hostAddr rsv s
  | .histSet h unit source base filter rsv => Sys2Proof.Machine.execHistSet h unit source base filter rsv s
  | .histSample unit v => Sys2Proof.Machine.execHistSample unit v s
  | .histRead h unit clear hostAddr rsv => Sys2Proof.Machine.execHistRead h unit clear hostAddr rsv s
  | .bpSet h lcore slot enable lenLog2 access addr rsv => Sys2Proof.Machine.execBpSet h lcore slot enable lenLog2 access addr rsv s
  | .debugHalt h => Sys2Proof.Machine.execDebugHalt h s
  | .debugResume h => Sys2Proof.Machine.execDebugResume h s
  | .debugStep h lcore rsv => Sys2Proof.Machine.execDebugStep h lcore rsv s
  | .stateRead h lcore parts hostAddr rsv => Sys2Proof.Machine.execStateRead h lcore parts hostAddr rsv s
  | .regWrite h lcore reg value rsv => Sys2Proof.Machine.execRegWrite h lcore reg value rsv s
  | .getTid => Sys2Proof.Machine.execGetTid s
  | .getPldmVersion type => Sys2Proof.Machine.execGetPldmVersion type s
  | .getPldmTypes => Sys2Proof.Machine.execGetPldmTypes s
  | .getPldmCommands type => Sys2Proof.Machine.execGetPldmCommands type s
  | .getPdrRepositoryInfo => Sys2Proof.Machine.execGetPdrRepositoryInfo s
  | .getPdr record => Sys2Proof.Machine.execGetPdr record s
  | .getSensorReading id => Sys2Proof.Machine.execGetSensorReading id s
  | .getStateSensorReadings id => Sys2Proof.Machine.execGetStateSensorReadings id s
  | .setNumericEffecterValue id value => Sys2Proof.Machine.execSetNumericEffecterValue id value s
  | .getNumericEffecterValue id => Sys2Proof.Machine.execGetNumericEffecterValue id s
  | .getVersion v => Sys2Proof.Machine.execGetVersion v s
  | .getCapabilities v => Sys2Proof.Machine.execGetCapabilities v s
  | .negotiateAlgorithms v agreed => Sys2Proof.Machine.execNegotiateAlgorithms v agreed s
  | .getDigests v => Sys2Proof.Machine.execGetDigests v s
  | .getCertificate v slot offset length => Sys2Proof.Machine.execGetCertificate v slot offset length s
  | .challenge v slot nonce => Sys2Proof.Machine.execChallenge v slot nonce s
  | .getMeasurements v index signed nonce => Sys2Proof.Machine.execGetMeasurements v index signed nonce s
  | .keyExchange v exchange => Sys2Proof.Machine.execKeyExchange v exchange s
  | .finish v verified => Sys2Proof.Machine.execFinish v verified s
  | .heartbeat v => Sys2Proof.Machine.execHeartbeat v s
  | .endSession v => Sys2Proof.Machine.execEndSession v s
  | .cons value => Sys2Proof.Machine.execCons value s
  | .errSummaryClear value => Sys2Proof.Machine.execErrSummaryClear value s
  | .lastSeq => Sys2Proof.Machine.execLastSeq s
  | .lowWordRead off => Sys2Proof.Machine.execLowWordRead off s
  | .devProgPosLo => Sys2Proof.Machine.execDevProgPosLo s
  | .snap value => Sys2Proof.Machine.execSnap value s
  | .baseLo win value => Sys2Proof.Machine.execBaseLo win value s
  | .bar2Read off len uncorrectable => Sys2Proof.Machine.execBar2Read off len uncorrectable s
  | .bar2Write off data => Sys2Proof.Machine.execBar2Write off data s
  | .registerWrite off value => Sys2Proof.Machine.execRegisterWrite off value s
  | .submit m value => Sys2Proof.Machine.execSubmit m value s
  | .arp port a => Sys2Proof.Machine.execArp port a s
  | .rocev2Receive k => Sys2Proof.Machine.execRocev2Receive k s
  | .thermalEmergencyRelease => Sys2Proof.Machine.execThermalEmergencyRelease s
  | .powerUp => Sys2Proof.Machine.execPowerUp s
  | .railInRange r => Sys2Proof.Machine.execRailInRange r s
  | .ref25Return => Sys2Proof.Machine.execRef25Return s
  | .pcieLinkUp => Sys2Proof.Machine.execPcieLinkUp s
  | .managerSessionTimeout k => Sys2Proof.Machine.execManagerSessionTimeout k s
  | .pairRestartComplete pair => Sys2Proof.Machine.execPairRestartComplete pair s
  | .unsupportedRequest v code => Sys2Proof.Machine.execUnsupportedRequest v code s
  | .mask vec value => Sys2Proof.Machine.execMask vec value s

end Sys2Proof.Machine
end

