-- ==== Sys2Proof/Laws/State.lean ====
section
/-! SUPPORT. What each update of the state leaves alone, field by field, so that no proof unfolds a record update,
and what it puts where it writes. -/

namespace Sys2Proof.Machine

@[simp] theorem setCtx_pending (s : State) (k : Nat) (x : Ctx) : (setCtx s k x).pending = s.pending := rfl
@[simp] theorem setCtx_cores (s : State) (k : Nat) (x : Ctx) : (setCtx s k x).cores = s.cores := rfl
@[simp] theorem setCtx_mem (s : State) (k : Nat) (x : Ctx) : (setCtx s k x).mem = s.mem := rfl
@[simp] theorem setCtx_place (s : State) (k : Nat) (x : Ctx) : (setCtx s k x).place = s.place := rfl
@[simp] theorem setCtx_power (s : State) (k : Nat) (x : Ctx) : (setCtx s k x).power = s.power := rfl
@[simp] theorem setCtx_chain (s : State) (k : Nat) (x : Ctx) : (setCtx s k x).chain = s.chain := rfl
@[simp] theorem setCtx_net (s : State) (k : Nat) (x : Ctx) : (setCtx s k x).net = s.net := rfl
@[simp] theorem setCtx_clock (s : State) (k : Nat) (x : Ctx) : (setCtx s k x).clock = s.clock := rfl
@[simp] theorem setCtx_fw (s : State) (k : Nat) (x : Ctx) : (setCtx s k x).fw = s.fw := rfl
@[simp] theorem setCtx_host (s : State) (k : Nat) (x : Ctx) : (setCtx s k x).host = s.host := rfl
@[simp] theorem setCtx_obs (s : State) (k : Nat) (x : Ctx) : (setCtx s k x).obs = s.obs := rfl
@[simp] theorem setCtx_sec (s : State) (k : Nat) (x : Ctx) : (setCtx s k x).sec = s.sec := rfl
@[simp] theorem setCtx_board (s : State) (k : Nat) (x : Ctx) : (setCtx s k x).board = s.board := rfl
@[simp] theorem setCtx_freeCtr (s : State) (k : Nat) (x : Ctx) : (setCtx s k x).freeCtr = s.freeCtr := rfl

@[simp] theorem setCore_pending (s : State) (k n : Nat) (c : Core) : (setCore s k n c).pending = s.pending := rfl
@[simp] theorem setCore_ctxs (s : State) (k n : Nat) (c : Core) : (setCore s k n c).ctxs = s.ctxs := rfl
@[simp] theorem setCore_mem (s : State) (k n : Nat) (c : Core) : (setCore s k n c).mem = s.mem := rfl
@[simp] theorem setCore_place (s : State) (k n : Nat) (c : Core) : (setCore s k n c).place = s.place := rfl
@[simp] theorem setCore_power (s : State) (k n : Nat) (c : Core) : (setCore s k n c).power = s.power := rfl
@[simp] theorem setCore_chain (s : State) (k n : Nat) (c : Core) : (setCore s k n c).chain = s.chain := rfl
@[simp] theorem setCore_net (s : State) (k n : Nat) (c : Core) : (setCore s k n c).net = s.net := rfl
@[simp] theorem setCore_clock (s : State) (k n : Nat) (c : Core) : (setCore s k n c).clock = s.clock := rfl
@[simp] theorem setCore_fw (s : State) (k n : Nat) (c : Core) : (setCore s k n c).fw = s.fw := rfl
@[simp] theorem setCore_host (s : State) (k n : Nat) (c : Core) : (setCore s k n c).host = s.host := rfl
@[simp] theorem setCore_obs (s : State) (k n : Nat) (c : Core) : (setCore s k n c).obs = s.obs := rfl
@[simp] theorem setCore_sec (s : State) (k n : Nat) (c : Core) : (setCore s k n c).sec = s.sec := rfl
@[simp] theorem setCore_board (s : State) (k n : Nat) (c : Core) : (setCore s k n c).board = s.board := rfl
@[simp] theorem setCore_freeCtr (s : State) (k n : Nat) (c : Core) : (setCore s k n c).freeCtr = s.freeCtr := rfl

@[simp] theorem setBay_pending (s : State) (b : Nat) (y : Bay) : (setBay s b y).pending = s.pending := rfl
@[simp] theorem setBay_cores (s : State) (b : Nat) (y : Bay) : (setBay s b y).cores = s.cores := rfl
@[simp] theorem setBay_ctxs (s : State) (b : Nat) (y : Bay) : (setBay s b y).ctxs = s.ctxs := rfl
@[simp] theorem setBay_mem (s : State) (b : Nat) (y : Bay) : (setBay s b y).mem = s.mem := rfl
@[simp] theorem setBay_place (s : State) (b : Nat) (y : Bay) : (setBay s b y).place = s.place := rfl
@[simp] theorem setBay_chain (s : State) (b : Nat) (y : Bay) : (setBay s b y).chain = s.chain := rfl
@[simp] theorem setBay_net (s : State) (b : Nat) (y : Bay) : (setBay s b y).net = s.net := rfl
@[simp] theorem setBay_clock (s : State) (b : Nat) (y : Bay) : (setBay s b y).clock = s.clock := rfl
@[simp] theorem setBay_fw (s : State) (b : Nat) (y : Bay) : (setBay s b y).fw = s.fw := rfl
@[simp] theorem setBay_host (s : State) (b : Nat) (y : Bay) : (setBay s b y).host = s.host := rfl
@[simp] theorem setBay_obs (s : State) (b : Nat) (y : Bay) : (setBay s b y).obs = s.obs := rfl
@[simp] theorem setBay_sec (s : State) (b : Nat) (y : Bay) : (setBay s b y).sec = s.sec := rfl
@[simp] theorem setBay_board (s : State) (b : Nat) (y : Bay) : (setBay s b y).board = s.board := rfl
@[simp] theorem setBay_freeCtr (s : State) (b : Nat) (y : Bay) : (setBay s b y).freeCtr = s.freeCtr := rfl

@[simp] theorem setPart_pending (s : State) (p : Nat) (x : PartSt) : (setPart s p x).pending = s.pending := rfl
@[simp] theorem setPart_cores (s : State) (p : Nat) (x : PartSt) : (setPart s p x).cores = s.cores := rfl
@[simp] theorem setPart_ctxs (s : State) (p : Nat) (x : PartSt) : (setPart s p x).ctxs = s.ctxs := rfl
@[simp] theorem setPart_mem (s : State) (p : Nat) (x : PartSt) : (setPart s p x).mem = s.mem := rfl
@[simp] theorem setPart_power (s : State) (p : Nat) (x : PartSt) : (setPart s p x).power = s.power := rfl
@[simp] theorem setPart_chain (s : State) (p : Nat) (x : PartSt) : (setPart s p x).chain = s.chain := rfl
@[simp] theorem setPart_net (s : State) (p : Nat) (x : PartSt) : (setPart s p x).net = s.net := rfl
@[simp] theorem setPart_clock (s : State) (p : Nat) (x : PartSt) : (setPart s p x).clock = s.clock := rfl
@[simp] theorem setPart_fw (s : State) (p : Nat) (x : PartSt) : (setPart s p x).fw = s.fw := rfl
@[simp] theorem setPart_host (s : State) (p : Nat) (x : PartSt) : (setPart s p x).host = s.host := rfl
@[simp] theorem setPart_obs (s : State) (p : Nat) (x : PartSt) : (setPart s p x).obs = s.obs := rfl
@[simp] theorem setPart_sec (s : State) (p : Nat) (x : PartSt) : (setPart s p x).sec = s.sec := rfl
@[simp] theorem setPart_board (s : State) (p : Nat) (x : PartSt) : (setPart s p x).board = s.board := rfl
@[simp] theorem setPart_freeCtr (s : State) (p : Nat) (x : PartSt) : (setPart s p x).freeCtr = s.freeCtr := rfl

@[simp] theorem setSess_pending (s : State) (n : Nat) (x : Session) : (setSess s n x).pending = s.pending := rfl
@[simp] theorem setSess_cores (s : State) (n : Nat) (x : Session) : (setSess s n x).cores = s.cores := rfl
@[simp] theorem setSess_ctxs (s : State) (n : Nat) (x : Session) : (setSess s n x).ctxs = s.ctxs := rfl
@[simp] theorem setSess_mem (s : State) (n : Nat) (x : Session) : (setSess s n x).mem = s.mem := rfl
@[simp] theorem setSess_place (s : State) (n : Nat) (x : Session) : (setSess s n x).place = s.place := rfl
@[simp] theorem setSess_power (s : State) (n : Nat) (x : Session) : (setSess s n x).power = s.power := rfl
@[simp] theorem setSess_chain (s : State) (n : Nat) (x : Session) : (setSess s n x).chain = s.chain := rfl
@[simp] theorem setSess_clock (s : State) (n : Nat) (x : Session) : (setSess s n x).clock = s.clock := rfl
@[simp] theorem setSess_fw (s : State) (n : Nat) (x : Session) : (setSess s n x).fw = s.fw := rfl
@[simp] theorem setSess_host (s : State) (n : Nat) (x : Session) : (setSess s n x).host = s.host := rfl
@[simp] theorem setSess_obs (s : State) (n : Nat) (x : Session) : (setSess s n x).obs = s.obs := rfl
@[simp] theorem setSess_sec (s : State) (n : Nat) (x : Session) : (setSess s n x).sec = s.sec := rfl
@[simp] theorem setSess_board (s : State) (n : Nat) (x : Session) : (setSess s n x).board = s.board := rfl
@[simp] theorem setSess_freeCtr (s : State) (n : Nat) (x : Session) : (setSess s n x).freeCtr = s.freeCtr := rfl

@[simp] theorem setDir_pending (s : State) (j g : Nat) (up : Bool) (d : Dir) : (setDir s j g up d).pending = s.pending := rfl
@[simp] theorem setDir_cores (s : State) (j g : Nat) (up : Bool) (d : Dir) : (setDir s j g up d).cores = s.cores := rfl
@[simp] theorem setDir_ctxs (s : State) (j g : Nat) (up : Bool) (d : Dir) : (setDir s j g up d).ctxs = s.ctxs := rfl
@[simp] theorem setDir_mem (s : State) (j g : Nat) (up : Bool) (d : Dir) : (setDir s j g up d).mem = s.mem := rfl
@[simp] theorem setDir_place (s : State) (j g : Nat) (up : Bool) (d : Dir) : (setDir s j g up d).place = s.place := rfl
@[simp] theorem setDir_power (s : State) (j g : Nat) (up : Bool) (d : Dir) : (setDir s j g up d).power = s.power := rfl
@[simp] theorem setDir_net (s : State) (j g : Nat) (up : Bool) (d : Dir) : (setDir s j g up d).net = s.net := rfl
@[simp] theorem setDir_clock (s : State) (j g : Nat) (up : Bool) (d : Dir) : (setDir s j g up d).clock = s.clock := rfl
@[simp] theorem setDir_fw (s : State) (j g : Nat) (up : Bool) (d : Dir) : (setDir s j g up d).fw = s.fw := rfl
@[simp] theorem setDir_host (s : State) (j g : Nat) (up : Bool) (d : Dir) : (setDir s j g up d).host = s.host := rfl
@[simp] theorem setDir_obs (s : State) (j g : Nat) (up : Bool) (d : Dir) : (setDir s j g up d).obs = s.obs := rfl
@[simp] theorem setDir_sec (s : State) (j g : Nat) (up : Bool) (d : Dir) : (setDir s j g up d).sec = s.sec := rfl
@[simp] theorem setDir_board (s : State) (j g : Nat) (up : Bool) (d : Dir) : (setDir s j g up d).board = s.board := rfl
@[simp] theorem setDir_freeCtr (s : State) (j g : Nat) (up : Bool) (d : Dir) : (setDir s j g up d).freeCtr = s.freeCtr := rfl

@[simp] theorem setUpd_pending (s : State) (t : Nat) (u : Update) : (setUpd s t u).pending = s.pending := rfl
@[simp] theorem setUpd_cores (s : State) (t : Nat) (u : Update) : (setUpd s t u).cores = s.cores := rfl
@[simp] theorem setUpd_ctxs (s : State) (t : Nat) (u : Update) : (setUpd s t u).ctxs = s.ctxs := rfl
@[simp] theorem setUpd_mem (s : State) (t : Nat) (u : Update) : (setUpd s t u).mem = s.mem := rfl
@[simp] theorem setUpd_place (s : State) (t : Nat) (u : Update) : (setUpd s t u).place = s.place := rfl
@[simp] theorem setUpd_power (s : State) (t : Nat) (u : Update) : (setUpd s t u).power = s.power := rfl
@[simp] theorem setUpd_chain (s : State) (t : Nat) (u : Update) : (setUpd s t u).chain = s.chain := rfl
@[simp] theorem setUpd_net (s : State) (t : Nat) (u : Update) : (setUpd s t u).net = s.net := rfl
@[simp] theorem setUpd_clock (s : State) (t : Nat) (u : Update) : (setUpd s t u).clock = s.clock := rfl
@[simp] theorem setUpd_host (s : State) (t : Nat) (u : Update) : (setUpd s t u).host = s.host := rfl
@[simp] theorem setUpd_obs (s : State) (t : Nat) (u : Update) : (setUpd s t u).obs = s.obs := rfl
@[simp] theorem setUpd_sec (s : State) (t : Nat) (u : Update) : (setUpd s t u).sec = s.sec := rfl
@[simp] theorem setUpd_board (s : State) (t : Nat) (u : Update) : (setUpd s t u).board = s.board := rfl
@[simp] theorem setUpd_freeCtr (s : State) (t : Nat) (u : Update) : (setUpd s t u).freeCtr = s.freeCtr := rfl

@[simp] theorem setWindow_pending (s : State) (w : Nat) (x : Window) : (setWindow s w x).pending = s.pending := rfl
@[simp] theorem setWindow_cores (s : State) (w : Nat) (x : Window) : (setWindow s w x).cores = s.cores := rfl
@[simp] theorem setWindow_ctxs (s : State) (w : Nat) (x : Window) : (setWindow s w x).ctxs = s.ctxs := rfl
@[simp] theorem setWindow_mem (s : State) (w : Nat) (x : Window) : (setWindow s w x).mem = s.mem := rfl
@[simp] theorem setWindow_place (s : State) (w : Nat) (x : Window) : (setWindow s w x).place = s.place := rfl
@[simp] theorem setWindow_power (s : State) (w : Nat) (x : Window) : (setWindow s w x).power = s.power := rfl
@[simp] theorem setWindow_chain (s : State) (w : Nat) (x : Window) : (setWindow s w x).chain = s.chain := rfl
@[simp] theorem setWindow_net (s : State) (w : Nat) (x : Window) : (setWindow s w x).net = s.net := rfl
@[simp] theorem setWindow_clock (s : State) (w : Nat) (x : Window) : (setWindow s w x).clock = s.clock := rfl
@[simp] theorem setWindow_fw (s : State) (w : Nat) (x : Window) : (setWindow s w x).fw = s.fw := rfl
@[simp] theorem setWindow_obs (s : State) (w : Nat) (x : Window) : (setWindow s w x).obs = s.obs := rfl
@[simp] theorem setWindow_sec (s : State) (w : Nat) (x : Window) : (setWindow s w x).sec = s.sec := rfl
@[simp] theorem setWindow_board (s : State) (w : Nat) (x : Window) : (setWindow s w x).board = s.board := rfl
@[simp] theorem setWindow_freeCtr (s : State) (w : Nat) (x : Window) : (setWindow s w x).freeCtr = s.freeCtr := rfl

@[simp] theorem setHist_pending (s : State) (u : Nat) (x : Hist) : (setHist s u x).pending = s.pending := rfl
@[simp] theorem setHist_cores (s : State) (u : Nat) (x : Hist) : (setHist s u x).cores = s.cores := rfl
@[simp] theorem setHist_ctxs (s : State) (u : Nat) (x : Hist) : (setHist s u x).ctxs = s.ctxs := rfl
@[simp] theorem setHist_mem (s : State) (u : Nat) (x : Hist) : (setHist s u x).mem = s.mem := rfl
@[simp] theorem setHist_place (s : State) (u : Nat) (x : Hist) : (setHist s u x).place = s.place := rfl
@[simp] theorem setHist_power (s : State) (u : Nat) (x : Hist) : (setHist s u x).power = s.power := rfl
@[simp] theorem setHist_chain (s : State) (u : Nat) (x : Hist) : (setHist s u x).chain = s.chain := rfl
@[simp] theorem setHist_net (s : State) (u : Nat) (x : Hist) : (setHist s u x).net = s.net := rfl
@[simp] theorem setHist_clock (s : State) (u : Nat) (x : Hist) : (setHist s u x).clock = s.clock := rfl
@[simp] theorem setHist_fw (s : State) (u : Nat) (x : Hist) : (setHist s u x).fw = s.fw := rfl
@[simp] theorem setHist_host (s : State) (u : Nat) (x : Hist) : (setHist s u x).host = s.host := rfl
@[simp] theorem setHist_sec (s : State) (u : Nat) (x : Hist) : (setHist s u x).sec = s.sec := rfl
@[simp] theorem setHist_board (s : State) (u : Nat) (x : Hist) : (setHist s u x).board = s.board := rfl
@[simp] theorem setHist_freeCtr (s : State) (u : Nat) (x : Hist) : (setHist s u x).freeCtr = s.freeCtr := rfl

@[simp] theorem bump_pending (s : State) (a b c n : Nat) : (bump s a b c n).pending = s.pending := rfl
@[simp] theorem bump_cores (s : State) (a b c n : Nat) : (bump s a b c n).cores = s.cores := rfl
@[simp] theorem bump_ctxs (s : State) (a b c n : Nat) : (bump s a b c n).ctxs = s.ctxs := rfl
@[simp] theorem bump_mem (s : State) (a b c n : Nat) : (bump s a b c n).mem = s.mem := rfl
@[simp] theorem bump_place (s : State) (a b c n : Nat) : (bump s a b c n).place = s.place := rfl
@[simp] theorem bump_power (s : State) (a b c n : Nat) : (bump s a b c n).power = s.power := rfl
@[simp] theorem bump_chain (s : State) (a b c n : Nat) : (bump s a b c n).chain = s.chain := rfl
@[simp] theorem bump_net (s : State) (a b c n : Nat) : (bump s a b c n).net = s.net := rfl
@[simp] theorem bump_clock (s : State) (a b c n : Nat) : (bump s a b c n).clock = s.clock := rfl
@[simp] theorem bump_fw (s : State) (a b c n : Nat) : (bump s a b c n).fw = s.fw := rfl
@[simp] theorem bump_host (s : State) (a b c n : Nat) : (bump s a b c n).host = s.host := rfl
@[simp] theorem bump_sec (s : State) (a b c n : Nat) : (bump s a b c n).sec = s.sec := rfl
@[simp] theorem bump_board (s : State) (a b c n : Nat) : (bump s a b c n).board = s.board := rfl
@[simp] theorem bump_freeCtr (s : State) (a b c n : Nat) : (bump s a b c n).freeCtr = s.freeCtr := rfl

@[simp] theorem drawn_pending (s : State) : (drawn s).pending = s.pending := rfl
@[simp] theorem drawn_cores (s : State) : (drawn s).cores = s.cores := rfl
@[simp] theorem drawn_ctxs (s : State) : (drawn s).ctxs = s.ctxs := rfl
@[simp] theorem drawn_mem (s : State) : (drawn s).mem = s.mem := rfl
@[simp] theorem drawn_place (s : State) : (drawn s).place = s.place := rfl
@[simp] theorem drawn_power (s : State) : (drawn s).power = s.power := rfl
@[simp] theorem drawn_chain (s : State) : (drawn s).chain = s.chain := rfl
@[simp] theorem drawn_net (s : State) : (drawn s).net = s.net := rfl
@[simp] theorem drawn_clock (s : State) : (drawn s).clock = s.clock := rfl
@[simp] theorem drawn_fw (s : State) : (drawn s).fw = s.fw := rfl
@[simp] theorem drawn_host (s : State) : (drawn s).host = s.host := rfl
@[simp] theorem drawn_obs (s : State) : (drawn s).obs = s.obs := rfl
@[simp] theorem drawn_sec (s : State) : (drawn s).sec = s.sec := rfl
@[simp] theorem drawn_board (s : State) : (drawn s).board = s.board := rfl

@[simp] theorem fire2_pending (s : State) : (fire2 s).pending = s.pending := rfl
@[simp] theorem fire2_cores (s : State) : (fire2 s).cores = s.cores := rfl
@[simp] theorem fire2_ctxs (s : State) : (fire2 s).ctxs = s.ctxs := rfl
@[simp] theorem fire2_mem (s : State) : (fire2 s).mem = s.mem := rfl
@[simp] theorem fire2_place (s : State) : (fire2 s).place = s.place := rfl
@[simp] theorem fire2_power (s : State) : (fire2 s).power = s.power := rfl
@[simp] theorem fire2_chain (s : State) : (fire2 s).chain = s.chain := rfl
@[simp] theorem fire2_net (s : State) : (fire2 s).net = s.net := rfl
@[simp] theorem fire2_clock (s : State) : (fire2 s).clock = s.clock := rfl
@[simp] theorem fire2_fw (s : State) : (fire2 s).fw = s.fw := rfl
@[simp] theorem fire2_obs (s : State) : (fire2 s).obs = s.obs := rfl
@[simp] theorem fire2_sec (s : State) : (fire2 s).sec = s.sec := rfl
@[simp] theorem fire2_board (s : State) : (fire2 s).board = s.board := rfl
@[simp] theorem fire2_freeCtr (s : State) : (fire2 s).freeCtr = s.freeCtr := rfl

@[simp] theorem hostWrite_pending (s : State) (a : Nat) (bs : List Byte) : (hostWrite s a bs).pending = s.pending := rfl
@[simp] theorem hostWrite_cores (s : State) (a : Nat) (bs : List Byte) : (hostWrite s a bs).cores = s.cores := rfl
@[simp] theorem hostWrite_ctxs (s : State) (a : Nat) (bs : List Byte) : (hostWrite s a bs).ctxs = s.ctxs := rfl
@[simp] theorem hostWrite_mem (s : State) (a : Nat) (bs : List Byte) : (hostWrite s a bs).mem = s.mem := rfl
@[simp] theorem hostWrite_place (s : State) (a : Nat) (bs : List Byte) : (hostWrite s a bs).place = s.place := rfl
@[simp] theorem hostWrite_power (s : State) (a : Nat) (bs : List Byte) : (hostWrite s a bs).power = s.power := rfl
@[simp] theorem hostWrite_chain (s : State) (a : Nat) (bs : List Byte) : (hostWrite s a bs).chain = s.chain := rfl
@[simp] theorem hostWrite_net (s : State) (a : Nat) (bs : List Byte) : (hostWrite s a bs).net = s.net := rfl
@[simp] theorem hostWrite_clock (s : State) (a : Nat) (bs : List Byte) : (hostWrite s a bs).clock = s.clock := rfl
@[simp] theorem hostWrite_fw (s : State) (a : Nat) (bs : List Byte) : (hostWrite s a bs).fw = s.fw := rfl
@[simp] theorem hostWrite_obs (s : State) (a : Nat) (bs : List Byte) : (hostWrite s a bs).obs = s.obs := rfl
@[simp] theorem hostWrite_sec (s : State) (a : Nat) (bs : List Byte) : (hostWrite s a bs).sec = s.sec := rfl
@[simp] theorem hostWrite_board (s : State) (a : Nat) (bs : List Byte) : (hostWrite s a bs).board = s.board := rfl
@[simp] theorem hostWrite_freeCtr (s : State) (a : Nat) (bs : List Byte) : (hostWrite s a bs).freeCtr = s.freeCtr := rfl

@[simp] theorem spdmSend_pending (s : State) (v : SpdmVia) (c : Nat) (p : List Byte) : (spdmSend s v c p).pending = s.pending := rfl
@[simp] theorem spdmSend_cores (s : State) (v : SpdmVia) (c : Nat) (p : List Byte) : (spdmSend s v c p).cores = s.cores := rfl
@[simp] theorem spdmSend_ctxs (s : State) (v : SpdmVia) (c : Nat) (p : List Byte) : (spdmSend s v c p).ctxs = s.ctxs := rfl
@[simp] theorem spdmSend_mem (s : State) (v : SpdmVia) (c : Nat) (p : List Byte) : (spdmSend s v c p).mem = s.mem := rfl
@[simp] theorem spdmSend_place (s : State) (v : SpdmVia) (c : Nat) (p : List Byte) : (spdmSend s v c p).place = s.place := rfl
@[simp] theorem spdmSend_power (s : State) (v : SpdmVia) (c : Nat) (p : List Byte) : (spdmSend s v c p).power = s.power := rfl
@[simp] theorem spdmSend_chain (s : State) (v : SpdmVia) (c : Nat) (p : List Byte) : (spdmSend s v c p).chain = s.chain := rfl
@[simp] theorem spdmSend_net (s : State) (v : SpdmVia) (c : Nat) (p : List Byte) : (spdmSend s v c p).net = s.net := rfl
@[simp] theorem spdmSend_clock (s : State) (v : SpdmVia) (c : Nat) (p : List Byte) : (spdmSend s v c p).clock = s.clock := rfl
@[simp] theorem spdmSend_fw (s : State) (v : SpdmVia) (c : Nat) (p : List Byte) : (spdmSend s v c p).fw = s.fw := rfl
@[simp] theorem spdmSend_host (s : State) (v : SpdmVia) (c : Nat) (p : List Byte) : (spdmSend s v c p).host = s.host := rfl
@[simp] theorem spdmSend_obs (s : State) (v : SpdmVia) (c : Nat) (p : List Byte) : (spdmSend s v c p).obs = s.obs := rfl
@[simp] theorem spdmSend_board (s : State) (v : SpdmVia) (c : Nat) (p : List Byte) : (spdmSend s v c p).board = s.board := rfl
@[simp] theorem spdmSend_freeCtr (s : State) (v : SpdmVia) (c : Nat) (p : List Byte) : (spdmSend s v c p).freeCtr = s.freeCtr := rfl

@[simp] theorem traceCat_pending (s : State) (a b c d e f g : Nat) (p : List Byte) : (traceCat s a b c d e f g p).pending = s.pending := rfl
@[simp] theorem traceCat_cores (s : State) (a b c d e f g : Nat) (p : List Byte) : (traceCat s a b c d e f g p).cores = s.cores := rfl
@[simp] theorem traceCat_ctxs (s : State) (a b c d e f g : Nat) (p : List Byte) : (traceCat s a b c d e f g p).ctxs = s.ctxs := rfl
@[simp] theorem traceCat_mem (s : State) (a b c d e f g : Nat) (p : List Byte) : (traceCat s a b c d e f g p).mem = s.mem := rfl
@[simp] theorem traceCat_place (s : State) (a b c d e f g : Nat) (p : List Byte) : (traceCat s a b c d e f g p).place = s.place := rfl
@[simp] theorem traceCat_power (s : State) (a b c d e f g : Nat) (p : List Byte) : (traceCat s a b c d e f g p).power = s.power := rfl
@[simp] theorem traceCat_chain (s : State) (a b c d e f g : Nat) (p : List Byte) : (traceCat s a b c d e f g p).chain = s.chain := rfl
@[simp] theorem traceCat_net (s : State) (a b c d e f g : Nat) (p : List Byte) : (traceCat s a b c d e f g p).net = s.net := rfl
@[simp] theorem traceCat_clock (s : State) (a b c d e f g : Nat) (p : List Byte) : (traceCat s a b c d e f g p).clock = s.clock := rfl
@[simp] theorem traceCat_fw (s : State) (a b c d e f g : Nat) (p : List Byte) : (traceCat s a b c d e f g p).fw = s.fw := rfl
@[simp] theorem traceCat_host (s : State) (a b c d e f g : Nat) (p : List Byte) : (traceCat s a b c d e f g p).host = s.host := rfl
@[simp] theorem traceCat_sec (s : State) (a b c d e f g : Nat) (p : List Byte) : (traceCat s a b c d e f g p).sec = s.sec := rfl
@[simp] theorem traceCat_board (s : State) (a b c d e f g : Nat) (p : List Byte) : (traceCat s a b c d e f g p).board = s.board := rfl
@[simp] theorem traceCat_freeCtr (s : State) (a b c d e f g : Nat) (p : List Byte) : (traceCat s a b c d e f g p).freeCtr = s.freeCtr := rfl

@[simp] theorem raise_pending (s : State) (a b c d : Nat) (p : List Byte) : (raise s a b c d p).pending = s.pending := rfl
@[simp] theorem raise_cores (s : State) (a b c d : Nat) (p : List Byte) : (raise s a b c d p).cores = s.cores := rfl
@[simp] theorem raise_mem (s : State) (a b c d : Nat) (p : List Byte) : (raise s a b c d p).mem = s.mem := rfl
@[simp] theorem raise_place (s : State) (a b c d : Nat) (p : List Byte) : (raise s a b c d p).place = s.place := rfl
@[simp] theorem raise_power (s : State) (a b c d : Nat) (p : List Byte) : (raise s a b c d p).power = s.power := rfl
@[simp] theorem raise_chain (s : State) (a b c d : Nat) (p : List Byte) : (raise s a b c d p).chain = s.chain := rfl
@[simp] theorem raise_clock (s : State) (a b c d : Nat) (p : List Byte) : (raise s a b c d p).clock = s.clock := rfl
@[simp] theorem raise_sec (s : State) (a b c d : Nat) (p : List Byte) : (raise s a b c d p).sec = s.sec := rfl
@[simp] theorem raise_freeCtr (s : State) (a b c d : Nat) (p : List Byte) : (raise s a b c d p).freeCtr = s.freeCtr := rfl

@[simp] theorem asyncRec_pending (s : State) (a b c : Nat) (p : List Byte) : (asyncRec s a b c p).pending = s.pending := rfl
@[simp] theorem asyncRec_cores (s : State) (a b c : Nat) (p : List Byte) : (asyncRec s a b c p).cores = s.cores := rfl
@[simp] theorem asyncRec_ctxs (s : State) (a b c : Nat) (p : List Byte) : (asyncRec s a b c p).ctxs = s.ctxs := rfl
@[simp] theorem asyncRec_mem (s : State) (a b c : Nat) (p : List Byte) : (asyncRec s a b c p).mem = s.mem := rfl
@[simp] theorem asyncRec_place (s : State) (a b c : Nat) (p : List Byte) : (asyncRec s a b c p).place = s.place := rfl
@[simp] theorem asyncRec_power (s : State) (a b c : Nat) (p : List Byte) : (asyncRec s a b c p).power = s.power := rfl
@[simp] theorem asyncRec_chain (s : State) (a b c : Nat) (p : List Byte) : (asyncRec s a b c p).chain = s.chain := rfl
@[simp] theorem asyncRec_clock (s : State) (a b c : Nat) (p : List Byte) : (asyncRec s a b c p).clock = s.clock := rfl
@[simp] theorem asyncRec_sec (s : State) (a b c : Nat) (p : List Byte) : (asyncRec s a b c p).sec = s.sec := rfl
@[simp] theorem asyncRec_board (s : State) (a b c : Nat) (p : List Byte) : (asyncRec s a b c p).board = s.board := rfl
@[simp] theorem asyncRec_freeCtr (s : State) (a b c : Nat) (p : List Byte) : (asyncRec s a b c p).freeCtr = s.freeCtr := rfl

@[simp] theorem changeCtx_pending (s : State) (k : Nat) (st : CtxSt) (c : Nat) : (changeCtx s k st c).pending = s.pending := rfl
@[simp] theorem changeCtx_cores (s : State) (k : Nat) (st : CtxSt) (c : Nat) : (changeCtx s k st c).cores = s.cores := rfl
@[simp] theorem changeCtx_mem (s : State) (k : Nat) (st : CtxSt) (c : Nat) : (changeCtx s k st c).mem = s.mem := rfl
@[simp] theorem changeCtx_place (s : State) (k : Nat) (st : CtxSt) (c : Nat) : (changeCtx s k st c).place = s.place := rfl
@[simp] theorem changeCtx_power (s : State) (k : Nat) (st : CtxSt) (c : Nat) : (changeCtx s k st c).power = s.power := rfl
@[simp] theorem changeCtx_chain (s : State) (k : Nat) (st : CtxSt) (c : Nat) : (changeCtx s k st c).chain = s.chain := rfl
@[simp] theorem changeCtx_clock (s : State) (k : Nat) (st : CtxSt) (c : Nat) : (changeCtx s k st c).clock = s.clock := rfl
@[simp] theorem changeCtx_sec (s : State) (k : Nat) (st : CtxSt) (c : Nat) : (changeCtx s k st c).sec = s.sec := rfl
@[simp] theorem changeCtx_board (s : State) (k : Nat) (st : CtxSt) (c : Nat) : (changeCtx s k st c).board = s.board := rfl
@[simp] theorem changeCtx_freeCtr (s : State) (k : Nat) (st : CtxSt) (c : Nat) : (changeCtx s k st c).freeCtr = s.freeCtr := rfl

@[simp] theorem progress_pending (s : State) (k : Nat) : (progress s k).pending = s.pending := rfl
@[simp] theorem progress_cores (s : State) (k : Nat) : (progress s k).cores = s.cores := rfl
@[simp] theorem progress_mem (s : State) (k : Nat) : (progress s k).mem = s.mem := rfl
@[simp] theorem progress_place (s : State) (k : Nat) : (progress s k).place = s.place := rfl
@[simp] theorem progress_power (s : State) (k : Nat) : (progress s k).power = s.power := rfl
@[simp] theorem progress_chain (s : State) (k : Nat) : (progress s k).chain = s.chain := rfl
@[simp] theorem progress_net (s : State) (k : Nat) : (progress s k).net = s.net := rfl
@[simp] theorem progress_clock (s : State) (k : Nat) : (progress s k).clock = s.clock := rfl
@[simp] theorem progress_fw (s : State) (k : Nat) : (progress s k).fw = s.fw := rfl
@[simp] theorem progress_host (s : State) (k : Nat) : (progress s k).host = s.host := rfl
@[simp] theorem progress_obs (s : State) (k : Nat) : (progress s k).obs = s.obs := rfl
@[simp] theorem progress_sec (s : State) (k : Nat) : (progress s k).sec = s.sec := rfl
@[simp] theorem progress_board (s : State) (k : Nat) : (progress s k).board = s.board := rfl
@[simp] theorem progress_freeCtr (s : State) (k : Nat) : (progress s k).freeCtr = s.freeCtr := rfl

@[simp] theorem endHandling_pending (s : State) (f : Handling → Bool) : (endHandling s f).pending = s.pending := rfl
@[simp] theorem endHandling_cores (s : State) (f : Handling → Bool) : (endHandling s f).cores = s.cores := rfl
@[simp] theorem endHandling_ctxs (s : State) (f : Handling → Bool) : (endHandling s f).ctxs = s.ctxs := rfl
@[simp] theorem endHandling_mem (s : State) (f : Handling → Bool) : (endHandling s f).mem = s.mem := rfl
@[simp] theorem endHandling_place (s : State) (f : Handling → Bool) : (endHandling s f).place = s.place := rfl
@[simp] theorem endHandling_power (s : State) (f : Handling → Bool) : (endHandling s f).power = s.power := rfl
@[simp] theorem endHandling_chain (s : State) (f : Handling → Bool) : (endHandling s f).chain = s.chain := rfl
@[simp] theorem endHandling_net (s : State) (f : Handling → Bool) : (endHandling s f).net = s.net := rfl
@[simp] theorem endHandling_clock (s : State) (f : Handling → Bool) : (endHandling s f).clock = s.clock := rfl
@[simp] theorem endHandling_fw (s : State) (f : Handling → Bool) : (endHandling s f).fw = s.fw := rfl
@[simp] theorem endHandling_host (s : State) (f : Handling → Bool) : (endHandling s f).host = s.host := rfl
@[simp] theorem endHandling_sec (s : State) (f : Handling → Bool) : (endHandling s f).sec = s.sec := rfl
@[simp] theorem endHandling_board (s : State) (f : Handling → Bool) : (endHandling s f).board = s.board := rfl
@[simp] theorem endHandling_freeCtr (s : State) (f : Handling → Bool) : (endHandling s f).freeCtr = s.freeCtr := rfl

@[simp] theorem setCtx_ctxs (s : State) (k : Nat) (x : Ctx) : (setCtx s k x).ctxs = put s.ctxs k x := rfl
@[simp] theorem setCore_cores (s : State) (k n : Nat) (c : Core) : (setCore s k n c).cores = put s.cores (coreKey k n) c := rfl
@[simp] theorem drawn_freeCtr (s : State) : (drawn s).freeCtr = s.freeCtr + 1 := rfl

end Sys2Proof.Machine
end

