-- ==== Sys2Proof/WellFormed.lean ====
section
/-! DEFINITION. Which commands are well formed: every number that names a unit of the hardware is one it has
(R10 to R15, R69, R240, R256, R328, R338, R381, R440, R447, R465). A meaning accepts ill-formed commands too and leaves
the state as it is, or refuses the message; nothing rests on this check but the statements that name it. -/

namespace Sys2Proof

/-- A logical core number (R15). -/
def coreOk (c : Nat) : Bool := decide (c < 320)

/-- A physical core number (R12). -/
def physOk (p : Nat) : Bool := decide (p < 336)

/-- A bay number. -/
def bayOk (b : Nat) : Bool := decide (b < 16)

/-- A context number (R34). -/
def ctxNumOk (k : Nat) : Bool := decide (k < 64)

/-- The lane groups of a join (R240). -/
def joinGroups (j : Nat) : Nat := if j < 4 then 16 else if j < 12 then 5 else 1

/-- A join and one of its groups. -/
def laneGroup (j g : Nat) : Bool := decide (j < 16) && decide (g < joinGroups j)

/-- A network port (R256). -/
def portOk (p : Nat) : Bool := decide (p < 128)

/-- A node id (R260). -/
def nodeOk (n : Nat) : Bool := decide (n < 0x10_0000)

/-- A message header: of a mailbox or of one of four manager entries, with fields of their widths (R346, R348). -/
def hdrOk (h : MsgHdr) : Bool :=
  decide (h.src < 20) && decide (h.verMajor < 256) && decide (h.verMinor < 256) && decide (h.seq < 0x1_0000_0000) && decide (h.ctx < 256)

/-- An address of 64 bits. -/
def addrOk (a : Nat) : Bool := decide (a < 2 ^ 64)

/-- A packet between nodes that exist (R265). -/
def packetOk (k : Packet) : Bool := nodeOk k.hdr.srcNode && nodeOk k.hdr.dstNode

/-- Whether a command is well formed. -/
def wellFormed (i : Instr) : Bool :=
  match i with
  | .nop c _ | .endProgram c _ | .alu c _ | .alui c _ | .movhi c _ | .cmp c _ | .cmpi c _ | .pred c _ | .br c _ | .jal c _ | .jr c _
  | .ld c _ | .st c _ | .sysrd c _ | .wtok c _ | .illegalOpcode c _ | .privilegedInstruction c _ | .spanBegin c _ | .spanEnd c _
  | .stepProgram c _ | .markPush c _ | .markPop c _ | .ophint c _ => coreOk c
  | .mma c _ | .mmaLd c _ | .mda c _ | .mvm c _ | .vop c _ | .topk c _ | .norm c _ | .softmax c _ | .cvt c _ | .stat c _ | .upd c _
  | .xfer c _ | .fetch c _ | .fetchChunkIssue c _ | .ridge c _ | .spar c _ | .yealm c _ | .cancel c _ | .fence c _ | .trussArrive c _
  | .trussWait c _ | .trussArwt c _ | .collAllreduce c _ | .collRedscat c _ | .collAllgather c _ | .collAlltoall c _ | .collBcast c _
  | .collReduce c _ | .engineInstructionStart c _ | .engineInstructionComplete c _ _ | .burstStart c _ _ | .chunkCheck c _ _ => coreOk c
  | .regulatorRefill | .patrolScrub _ | .patrolTestStart | .patrolTestDone _ _ _ | .watchdogTest => true
  | .hbmRowSpare chan _ => decide (chan < 256)
  | .hbmPageRetire page => decide (page < 8 * 24576)
  | .hbmPostPackageRepair chans => chans.all (fun c => decide (c < 256))
  | .thatchSliceRetire slice => decide (slice < 176)
  | .shadowQuantumExpiry p | .shadowEarlySwitch p | .coreLogicFault p | .coreReverify p _ => physOk p
  | .remoteTrussArrival k | .furlongWriteReceive k | .readReqReceive k | .readRespReceive k | .sendReceive k | .collReady k | .collData k
  | .collPartial k | .collResult k | .collCheck k | .collRepair k | .collAbort k | .collRevoke k | .collDone k
  | .furlongHelloReceive k => packetOk k
  | .sackReceive h b => packetOk (h.carrying b)
  | .flitReceive j g _ _ _ | .nakReceive j g _ _ | .replayTimeout j g _ | .chainGroupRemoved j g => laneGroup j g
  | .marginReport j _ _ | .laneDue j _ _ | .swap j _ _ _ | .laneSwitch j _ => decide (j < 16)
  | .portTrained port _ | .portLinkLoss port _ | .portAnRetry port _ _ | .arp port _ => portOk port
  | .ptpSyncReceive a _ => portOk a.port && (a.net == 0 || a.net == 4 || a.net == 6)
  | .packetSend peer | .furlongHelloRetry peer | .sessionOpenTimeout peer | .sackTimer peer | .rtoExpiry peer _
  | .pathSuspendExpiry peer _ | .congestionInterval peer | .peerLoss peer => nodeOk peer
  | .rocev2Receive _ | .ptpSyncTimeout | .ppsIn | .ppsOut => true
  | .frequencyStep b | .muxSwitch b | .marginMonitorRead b _ | .droopDetect b | .droopClear b | .voltageLowerHoldExpiry b
  | .bayClockStop b => bayOk b
  | .pllUnlock b pll => bayOk b && decide (pll < 2)
  | .fastLoop raw _ => raw.length == 4
  | .slowLoop measured => measured.length == 4
  | .energyAttribution cores _ _ => cores.all (fun e => coreOk e.1)
  | .lostCycleUpdate delivered => delivered.length == 16
  | .thermalSample dies hbm => dies.length == 53 && hbm.length == 8
  | .thermalEmergency sensor _ | .thermalTrip sensor _ => decide (sensor < 61)
  | .hbmThrottle stack _ => decide (stack < 8)
  | .fastThrottle | .fastThrottleRelease | .thermalEmergencyRelease | .pmuFallback _ | .pmuResume | .pmbusAlert | .ref25Loss | .ref25Return => true
  | .railUndervoltage r | .railInRange r => decide (r < 22)
  | .perstNAssert | .perstNRelease _ _ | .powerUp | .bootStageComplete _ => true
  | .lockstepMismatch pair | .pairRestartComplete pair => decide (pair < 4)
  | .outboxRecordWrite | .outboxSignalTimer | .hostAbsenceTest => true
  | .schedSliceExpiry part | .preemptDrainTimeout part | .preemptionComplete part => bayOk part
  | .debugHaltComplete ctx | .jobHalt ctx | .haltComplete ctx | .haltAckTimeout ctx _ | .gatherTimeout ctx | .restoreCopyDone ctx
  | .replaceWaitExpiry ctx | .snapshotCopyDone ctx | .mirrorWriteDone ctx _ | .twinLost ctx | .storageDone ctx _ _ _ => ctxNumOk ctx
  | .traceRecordWrite source => decide (source < 0x1_0000)
  | .fwActivationBegin target _ | .fwActivateWindowExpiry target | .fwCommitTimeout target => decide (target < 3)
  | .jobHaltReceive job _ _ _ _ | .haltAckReceive job _ _ _ _ | .restore job _ | .restoreDone job _ | .resume job | .ckptReady job _ _
  | .ckptCommit job _ => decide (job < 0x1_0000_0000)
  | .twinHeartbeatSend | .deviceRecovery _ | .deviceRecoveryComplete _ => true
  | .twinHeartbeatReceive node _ _ _ => nodeOk node
  | .flashWrite area _ _ _ => decide (area < 7)
  | .debugUnlockToken _ | .setdasa | .rstdaa | .pcieLinkDown | .pcieLinkUp => true
  | .entdaa addr => decide (addr < 128)
  | .hello h a _ _ | .capacity h a _ => hdrOk h && addrOk a
  | .hostAlive h _ _ | .status h | .contextList h | .contextCreate h _ _ _ _ _ _ _ _ | .contextDestroy h | .contextPolicy h _ _ _ _
  | .contextResume h | .contextStop h | .contextEnergy h | .launch h _ _ | .numericPolicy h _ | .numericWatch h _ _ _ _ | .watchdogSet h _ _
  | .trussCreate h _ _ _ _ _ _ _ _ | .trussDestroy h _ _ | .regionDestroy h _ _ | .schedSet h _ _ _ _ | .fixedFreq h _ _ _ | .powerLimit h _ _
  | .budgetSet h _ _ _ _ | .timeSource h _ _ _ _ | .netIdentity h _ | .gridSet h _ _ _ _ | .groupDestroy h _ _ | .checkpointSet h _ _ _ _ _
  | .twinSet h _ _ _ _ | .fwStage h _ _ _ _ _ _ _ | .fwActivate h _ _ _ _ | .fwCommit h _ _ | .fwRollback h _ _ | .traceSet h _ _ _ _ _
  | .traceStatus h | .histSet h _ _ _ _ _ | .debugHalt h | .debugResume h | .debugStep h _ _ | .regWrite h _ _ _ _ | .nodeTable h _ _
  | .sliceMode h _ _ _ _ => hdrOk h
  | .memAlloc h va _ _ _ _ _ | .memFree h va _ | .memRead h va _ _ | .memWrite h va _ _ _ | .regionCreate h _ _ va _ _ | .bpSet h _ _ _ _ _ va _ =>
    hdrOk h && addrOk va
  | .groupCreate h _ _ _ _ block p _ _ => hdrOk h && addrOk p && block.length == 6
  | .partitionSet h part quota => hdrOk h && part.length == 16 && quota.length == 16
  | .oppointSet h _ freq _ => hdrOk h && freq.length == 4
  | .portConfig h _ _ mtu _ => hdrOk h && mtu.length == 8
  | .managerSet h entries _ => hdrOk h && decide (entries.length ≤ 4)
  | .storageConnect h _ _ _ _ _ _ subnqn _ _ => hdrOk h && decide (subnqn.length ≤ 256)
  | .storageRead h _ _ _ _ va _ _ _ | .storageWrite h _ _ _ _ va _ _ _ => hdrOk h && addrOk va
  | .counterRead h a entries _ => hdrOk h && addrOk a && decide (entries.length < 0x1_0000)
  | .traceRead h _ _ a _ | .histRead h _ _ a _ | .stateRead h _ _ a _ => hdrOk h && addrOk a
  | .histSample unit _ => decide (unit < 32)
  | .getTid | .getPldmVersion _ | .getPldmTypes | .getPldmCommands _ | .getPdrRepositoryInfo | .getPdr _ | .getSensorReading _
  | .getStateSensorReadings _ | .setNumericEffecterValue _ _ | .getNumericEffecterValue _ => true
  | .getVersion _ | .getCapabilities _ | .negotiateAlgorithms _ _ | .getDigests _ | .getCertificate _ _ _ _ | .challenge _ _ _
  | .getMeasurements _ _ _ _ | .keyExchange _ _ | .finish _ _ | .heartbeat _ | .endSession _ | .unsupportedRequest _ _ => true
  | .cons _ | .errSummaryClear _ | .lastSeq | .devProgPosLo | .snap _ => true
  | .lowWordRead off | .registerWrite off _ => decide (off < 0x200_0000)
  | .baseLo win _ => decide (win < 16)
  | .bar2Read off _ _ | .bar2Write off _ => decide (off < 0x10_0000_0000)
  | .submit m _ => decide (m < 16)
  | .mask vec _ => decide (vec < 64)
  | .managerSessionTimeout k => decide (k < 4)

end Sys2Proof
end

