-- ==== Sys2Proof/Safety.lean ====
section
/-! DEFINITION. The terms in which claims about the block are made: a command that completes, a step that does not
stop, what a command leaves alone, and the invariants a state keeps. -/

namespace Sys2Proof.Machine

/-- Physical memory in its canonical form: addresses strictly rising, and no listed byte equal to what an unlisted address
reads as (R69; that it reads as 0 is the model's choice, log 6). -/
def Memory.wf (m : Mem) : Bool := cellsWf m.cells

/-- A command completes in a state: it answers a next state, of which `P` holds. -/
def Completes (i : Instr) (s : State) (P : State → Prop) : Prop := ∃ t, exec i s = .next t ∧ P t

/-- A step that is safe: it neither faults nor refuses. -/
def SafeStep (s : State) : Prop := ∃ t, step s = .next t

/-- Core `n` of context `k`, in the state `x`, stands before an instruction of `len` bytes that it may issue: its code is
fetched, no breakpoint stands there, and it is not being stepped for debug (R38, R52, R437). -/
def AtIssue (s : State) (n len k : Nat) (x : Core) : Prop :=
  coreIssues s n = some (k, x) ∧ fetchOk s k n x.pc.toNat len = .ok () ∧ addrBp x = false ∧ x.oneStep = false

/-- Nothing differs but what logical core `n` of context `k` holds: memory, every other core and every other part of the
device are as they were. -/
def OnlyCore (s t : State) (k n : Nat) : Prop :=
  t = { s with cores := t.cores } ∧ ∀ q m, coreKey q m ≠ coreKey k n → coreOf t q m = coreOf s q m

/-- Between two states of a core nothing differs but its scalar registers, its predicates, its PC and that a hold and a
breakpoint just passed are over: tokens, queues, spans, marks, accumulators and the rest are as they were. -/
def SameButRegs (x y : Core) : Prop :=
  y = { x with sregs := y.sregs, preds := y.preds, pc := y.pc, held := none, skipBp := false }

/-- Core state `x` of context `k` makes accesses that meet nothing but memory: no error stands in any memory, no span is
open on it, and no collective of the context is in flight (R65, R74, R83, R283). -/
def Quiet (s : State) (k : Nat) (x : Core) : Prop := s.mem.upsets = [] ∧ x.pass = 0 ∧ (ctxOf s k).colls = []

/-- Memory reads as before, poison and errors included. -/
def SameBytes (s t : State) : Prop :=
  t.mem.cells = s.mem.cells ∧ t.mem.poison = s.mem.poison ∧ t.mem.upsets = s.mem.upsets ∧ t.mem.stale = s.mem.stale

/-- Of memory nothing differs but the scratchpad of physical core `p`. -/
def OnlyScratch (s t : State) (p : Nat) : Prop :=
  ∀ a, a < Config.scratchDpa + p * Config.scratchBytes ∨ Config.scratchDpa + (p + 1) * Config.scratchBytes ≤ a →
    memByte t.mem a = memByte s.mem a

/-- Besides memory's contents nothing differs but core `n` of context `k`, the cache's lines, and what the context has left
of its HBM budget (R80, R99). -/
def OnlyPays (s t : State) (k n : Nat) : Prop :=
  t = { s with cores := t.cores, ctxs := t.ctxs, mem := t.mem, freeCtr := t.freeCtr } ∧
  t.mem = { s.mem with
    cells := t.mem.cells, poison := t.mem.poison, upsets := t.mem.upsets, stale := t.mem.stale, lines := t.mem.lines } ∧
  (∀ q m, coreKey q m ≠ coreKey k n → coreOf t q m = coreOf s q m) ∧ (∀ j, j ≠ k → ctxOf t j = ctxOf s j) ∧
  ctxOf t k = { ctxOf s k with levelHbm := (ctxOf t k).levelHbm, owedHbm := (ctxOf t k).owedHbm }

/-- A result confined to context `k` (R9, R67): every other context is as it was but for poison met in its state ranges, and so
are its cores, every byte of memory that no core of context `k` may write, the watchdog's measure of context `k`, and all that
is no context's. -/
def Confined (s t : State) (k : Nat) : Prop :=
  (∀ j, j ≠ k → ctxOf t j = { ctxOf s j with statePoison := (ctxOf t j).statePoison, poisonAt := (ctxOf t j).poisonAt }) ∧
  (∀ j n, j ≠ k → n < 512 → coreOf t j n = coreOf s j n) ∧
  (∀ a, (∀ n va, inPartition s k n = true → translate s k n va .write ≠ .ok (.mem a)) → memByte t.mem a = memByte s.mem a) ∧
  (ctxOf t k).watchBase = (ctxOf s k).watchBase ∧ (ctxOf t k).part = (ctxOf s k).part ∧ (ctxOf t k).pages = (ctxOf s k).pages ∧
  t.place = s.place ∧ t.power = s.power ∧ t.clock = s.clock ∧ t.chain = s.chain ∧ t.sec = s.sec ∧ t.board = s.board ∧
  t.pending = s.pending

/-- Instruction `id` of operation `op` is in flight in engine `e` of core `c`, the core at work for context `k` with state
`x`: it has started and its work is still to be done (R54). -/
def ToDo (s : State) (c k : Nat) (x : Core) (e : Engine) (op : TOp) (id : Nat) (f : Flight) : Prop :=
  coreAtWork s c = some (k, x) ∧ flightAt x e id = some f ∧ f.q.op = op ∧ f.ran = false ∧ f.trapped = false

/-- No breakpoint slot of a core is enabled (R437). -/
def NoBreakpoint (x : Core) : Prop := ∀ b ∈ x.bps, b.2.enable = false

/-- What a program sees of a core besides its engines: registers, predicates, PC, tokens, span and marks are as before. -/
def SameProgram (x y : Core) : Prop :=
  y.sregs = x.sregs ∧ y.preds = x.preds ∧ y.pc = x.pc ∧ y.tokens = x.tokens ∧ y.pass = x.pass ∧ y.snap = x.snap ∧
  y.marks = x.marks ∧ y.depth = x.depth ∧ y.queues = x.queues ∧ y.stepNo = x.stepNo

/-- The command of an instruction of the five engines, at its issue or at its work (R48). -/
def tensorCmd (op : TOp) (c : Nat) (g : Stage) : Option Instr :=
  match op with
  | .mma => some (.mma c g)
  | .mmaLd => some (.mmaLd c g)
  | .mda => some (.mda c g)
  | .mvm => some (.mvm c g)
  | .vop => some (.vop c g)
  | .topk => some (.topk c g)
  | .norm => some (.norm c g)
  | .softmax => some (.softmax c g)
  | .cvt => some (.cvt c g)
  | .stat => some (.stat c g)
  | .upd => some (.upd c g)
  | .xfer => some (.xfer c g)
  | .fetch => some (.fetch c g)
  | .ridge => some (.ridge c g)
  | .spar => some (.spar c g)
  | .yealm => some (.yealm c g)
  | .cancel => some (.cancel c g)
  | .fence => some (.fence c g)
  | .trussArrive => some (.trussArrive c g)
  | .trussWait => some (.trussWait c g)
  | .trussArwt => some (.trussArwt c g)
  | .coll k =>
    match k with
    | 0 => some (.collAllreduce c g)
    | 1 => some (.collRedscat c g)
    | 2 => some (.collAllgather c g)
    | 3 => some (.collAlltoall c g)
    | 4 => some (.collBcast c g)
    | 5 => some (.collReduce c g)
    | _ => none

/-- A Furlong packet of opcode `opc` that its session takes in: it is for this node, its session is open, its header and
block are sound, and it is neither old nor a duplicate (R262, R266 to R268, R274). -/
def PacketIn (s : State) (p : Packet) (opc : Nat) : Prop :=
  ownNode s = some p.hdr.dstNode ∧ (sessOf s p.hdr.srcNode).isOpen = true ∧ hdrOk p = true ∧ p.hdr.opc = opc ∧
  tooOld s p.hdr = false ∧ bcrcOf p.payload p.poison = p.bcrc ∧ seenPsn (sessOf s p.hdr.srcNode) p.hdr.psn = false

/-- One for context `k`: its job and epoch are those of the context. -/
def PacketFor (s : State) (p : Packet) (opc k : Nat) : Prop :=
  PacketIn s p opc ∧ p.hdr.jobId ≠ 0 ∧ jobCtx s p.hdr.jobId = some k ∧ gen16 p.hdr.epoch (ctxOf s k).epoch = 0

/-- A packet acted on, in the state `u` its action leaves: its bytes counted, and its session's acknowledgement with a
status (R268, R270, R273). -/
def taken (u : State) (p : Packet) (status : Nat) : State :=
  ackPkt (countPort (countPkt u p.hdr 0x68 p.hdr.length) p.hdr.length) p true status

/-- A COLL packet for the collective `x` in flight on this member, from the member of rank `r`: its group is bound with
the generation it carries, and its elements cross no boundary of 4 KiB (R266, R274, R293). -/
def CollFor (s : State) (p : Packet) (k : Nat) (x : Coll) (r : Nat) : Prop :=
  PacketFor s p opColl k ∧
  (let b := look (ctxOf s k).groups {} (p.hdr.key % 0x1_0000)
   judgeGen b.bound b.ever b.ggen p.hdr.keyGen = .ok) ∧
  (ctxOf s k).colls.find? (fun y => y.gid == p.hdr.key % 0x1_0000 && y.seq == p.hdr.opId) = some x ∧
  x.nodes.findIdx (· == p.hdr.srcNode) = r ∧ r < x.n ∧ crosses x p = false

/-- Memory's canonical form: rising addresses, no byte that an unlisted address reads as, and poisoned grains rising. -/
def MemCanonical (s : State) : Prop := cellsWf s.mem.cells = true ∧ risingWf s.mem.poison = true

/-- No anti-rollback counter is lower than before (R419). -/
def CountersKept (s t : State) : Prop := ∀ i, rollCtr s i ≤ rollCtr t i

/-- A message that firmware takes, as one of mailbox `box`, and that passes the checks of its header (R345, R347). -/
def Accepted (s : State) (i : Instr) (h : MsgHdr) (t : MsgType) (box : Nat) : Prop :=
  takes s i h t = some box ∧ refuses s box h t = none

/-- A message that is carried out: when firmware takes it and its header passes the checks, it answers OK with the result
`r` after an effect that leaves `u`, of which `P` holds, and the host is present (R345, R347, R369). -/
def Does (i : Instr) (s : State) (h : MsgHdr) (t : MsgType) (P : State → List Byte → Prop) : Prop :=
  ∀ box, Accepted s i h t box → ∃ u r, exec i s = .next (present (answer u h t.code stOk r) box) ∧ P u r

/-- A message that is refused with a status by the checks of its type: nothing but the response changes, and the host is
present (R347, R369). -/
def Denies (i : Instr) (s : State) (h : MsgHdr) (t : MsgType) (st : Nat) : Prop :=
  ∀ box, Accepted s i h t box → exec i s = .next (present (answer (untake s h t) h t.code st []) box)

/-- Bin `i` of a histogram unit takes the sample `v` (R441). -/
def inBin (base i : Nat) (v : Int) : Prop :=
  (i = 0 ∧ v < 2 ^ base) ∨ (1 ≤ i ∧ i ≤ 30 ∧ 2 ^ (base + i - 1) ≤ v ∧ v < 2 ^ (base + i)) ∨ (i = 31 ∧ 2 ^ (base + 30) ≤ v)

/-- Every context but one is as it was. -/
def OthersKept (s t : State) (k : Nat) : Prop := ∀ j, j ≠ k → ctxOf t j = ctxOf s j

end Sys2Proof.Machine
end

