-- ==== Sys2Proof/Laws/Memory.lean ====
section
/-! SUPPORT. The laws of tables and of memory: a read after a write, writes that leave every other place alone, and
the canonical form that every operation on memory keeps. -/

namespace Sys2Proof.Machine

/-! ## Tables -/

@[simp] theorem look_put_same {α : Type} (t : Tbl α) (d v : α) (k : Nat) : look (put t k v) d k = v := by
  induction t with
  | nil => simp [put, look]
  | cons e r ih =>
    obtain ⟨k', v'⟩ := e
    simp only [put]
    split
    · simp [look]
    · split
      · simp [look]
      · simp [look, *]

theorem look_put_other {α : Type} (t : Tbl α) (d v : α) (k q : Nat) (h : q ≠ k) : look (put t k v) d q = look t d q := by
  induction t with
  | nil => simp [put, look, h.symm]
  | cons e r ih =>
    obtain ⟨k', v'⟩ := e
    simp only [put]
    split
    · subst_vars; simp [look, h.symm]
    · split
      · simp [look, h.symm]
      · simp [look, ih]

@[simp] theorem ctxOf_setCtx (s : State) (k : Nat) (x : Ctx) : ctxOf (setCtx s k x) k = x := by simp [ctxOf]

theorem ctxOf_setCtx_other (s : State) (k q : Nat) (x : Ctx) (h : q ≠ k) : ctxOf (setCtx s k x) q = ctxOf s q := by
  simp [ctxOf, look_put_other _ _ _ _ _ h]

@[simp] theorem coreOf_setCore (s : State) (k n : Nat) (c : Core) : coreOf (setCore s k n c) k n = c := by simp [coreOf]

theorem coreOf_setCore_other (s : State) (k n q m : Nat) (c : Core) (h : coreKey q m ≠ coreKey k n) :
    coreOf (setCore s k n c) q m = coreOf s q m := by
  simp [coreOf, look_put_other _ _ _ _ _ h]

/-! ## Bytes -/

/-- In the canonical form every later address is higher than the first. -/
theorem cellsWf_tail (a : Nat) (v : Byte) (r : List Host.Cell) (h : cellsWf ((a, v) :: r) = true) :
    v ≠ 0 ∧ cellsWf r = true ∧ ∀ e ∈ r, a < e.1 := by
  induction r generalizing a v with
  | nil => simp [cellsWf] at h ⊢; exact h
  | cons f r ih =>
    obtain ⟨b, u⟩ := f
    simp only [cellsWf, Bool.and_eq_true, decide_eq_true_eq] at h
    have h2 : cellsWf ((b, u) :: r) = true := by
      simp only [cellsWf, Bool.and_eq_true, decide_eq_true_eq]; exact h.2
    refine ⟨h.1.1, h2, ?_⟩
    intro e he
    rcases List.mem_cons.mp he with rfl | he
    · exact h.1.2
    · exact lt_trans h.1.2 ((ih b u h2).2.2 e he)

theorem cellsWf_cons (a : Nat) (v : Byte) (r : List Host.Cell) (hv : v ≠ 0) (hr : cellsWf r = true) (hl : ∀ e ∈ r, a < e.1) :
    cellsWf ((a, v) :: r) = true := by
  cases r with
  | nil => simp only [cellsWf, Bool.and_true, decide_eq_true_eq]; exact hv
  | cons f r =>
    obtain ⟨b, u⟩ := f
    have := hl (b, u) (by simp)
    simp only [cellsWf, Bool.and_eq_true, decide_eq_true_eq] at hr ⊢
    exact ⟨⟨hv, this⟩, hr⟩

/-- An address that is not listed reads as 0. -/
theorem byteAt_not_listed (m : List Host.Cell) (a : Nat) (h : ∀ e ∈ m, e.1 ≠ a) : byteAt m a = 0 := by
  induction m with
  | nil => rfl
  | cons e r ih =>
    obtain ⟨b, v⟩ := e
    simp only [byteAt]
    rw [if_neg (h (b, v) (by simp))]
    exact ih (fun e he => h e (by simp [he]))

/-- Every address of a written list was there before or is the one written. -/
theorem mem_setByte (m : List Host.Cell) (a : Nat) (v : Byte) (e : Host.Cell) (h : e ∈ setByte m a v) :
    e ∈ m ∨ (e = (a, v) ∧ v ≠ 0) := by
  induction m with
  | nil =>
    simp only [setByte] at h
    split at h
    · simp at h
    · simp at h; exact .inr ⟨h, ‹_›⟩
  | cons f r ih =>
    obtain ⟨b, u⟩ := f
    simp only [setByte] at h
    split at h
    · rcases List.mem_cons.mp h with rfl | h
      · simp
      · rcases ih h with h | h
        · simp [h]
        · exact .inr h
    · split at h
      · split at h
        · simp [h]
        · rcases List.mem_cons.mp h with rfl | h
          · exact .inr ⟨rfl, ‹_›⟩
          · simp [h]
      · split at h
        · exact .inl h
        · rcases List.mem_cons.mp h with rfl | h
          · exact .inr ⟨rfl, ‹_›⟩
          · exact .inl h

/-- A write of one byte keeps the canonical form. -/
theorem cellsWf_setByte (m : List Host.Cell) (a : Nat) (v : Byte) (h : cellsWf m = true) : cellsWf (setByte m a v) = true := by
  induction m with
  | nil =>
    simp only [setByte]
    split
    · rfl
    · simp only [cellsWf, Bool.and_true, decide_eq_true_eq]; assumption
  | cons f r ih =>
    obtain ⟨b, u⟩ := f
    obtain ⟨hu, hr, hl⟩ := cellsWf_tail b u r h
    simp only [setByte]
    split
    · apply cellsWf_cons b u _ hu (ih hr)
      intro e he
      rcases mem_setByte r a v e he with he | ⟨rfl, -⟩
      · exact hl e he
      · assumption
    · split
      · subst_vars
        split
        · exact hr
        · exact cellsWf_cons _ v r ‹_› hr hl
      · split
        · exact h
        · apply cellsWf_cons a v _ ‹_› h
          intro e he
          have hab : a < b := by omega
          rcases List.mem_cons.mp he with rfl | he
          · exact hab
          · exact lt_trans hab (hl e he)

/-- A byte reads as what was written there last, and every other address as before. -/
theorem byteAt_setByte (m : List Host.Cell) (a x : Nat) (v : Byte) (h : cellsWf m = true) :
    byteAt (setByte m a v) x = if x = a then v else byteAt m x := by
  induction m with
  | nil =>
    simp only [setByte]
    split
    · subst_vars; split <;> rfl
    · simp only [byteAt]
      by_cases hx : x = a
      · simp [hx]
      · rw [if_neg (fun e => hx e.symm), if_neg hx]
  | cons f r ih =>
    obtain ⟨b, u⟩ := f
    obtain ⟨hu, hr, hl⟩ := cellsWf_tail b u r h
    have out : ∀ y, y ≤ b → byteAt r y = 0 := fun y hy =>
      byteAt_not_listed r y (fun e he => by have := hl e he; omega)
    simp only [setByte]
    split
    · simp only [byteAt, ih hr]
      by_cases hb : b = x
      · subst hb; simp; omega
      · simp [hb]
    · split
      · rename_i hba
        subst hba
        split
        · subst_vars
          by_cases hx : x = b
          · subst hx; simp [out x le_rfl]
          · simp [hx, byteAt, Ne.symm hx]
        · by_cases hx : x = b
          · subst hx; simp [byteAt]
          · simp [hx, byteAt, Ne.symm hx]
      · have hab : a < b := by omega
        split
        · subst_vars
          by_cases hx : x = a
          · subst hx
            simp only [byteAt]
            rw [if_neg (by omega), out x (by omega)]; simp
          · simp [hx]
        · by_cases hx : x = a
          · subst hx; simp [byteAt]
          · simp [byteAt, hx, Ne.symm hx]

/-- Writes of bytes keep the canonical form. -/
theorem cellsWf_setBytes (bs : List Byte) (m : List Host.Cell) (a : Nat) (h : cellsWf m = true) : cellsWf (setBytes m a bs) = true := by
  induction bs generalizing m a with
  | nil => exact h
  | cons b r ih => exact ih _ _ (cellsWf_setByte m a b h)

/-- The bytes written read back, and every other address as before. -/
theorem byteAt_setBytes (bs : List Byte) (m : List Host.Cell) (a x : Nat) (h : cellsWf m = true) :
    byteAt (setBytes m a bs) x = if a ≤ x ∧ x < a + bs.length then nth bs (x - a) 0 else byteAt m x := by
  induction bs generalizing m a with
  | nil =>
    have : ¬(a ≤ x ∧ x < a + 0) := by omega
    simp only [setBytes, List.length_nil, if_neg this]
  | cons b r ih =>
    rw [setBytes, ih _ _ (cellsWf_setByte m a b h), byteAt_setByte m a x b h]
    by_cases hx : x = a
    · subst hx
      rw [if_neg (by omega), if_pos rfl, if_pos (by simp)]
      simp [nth]
    · by_cases h2 : a + 1 ≤ x ∧ x < a + 1 + r.length
      · rw [if_pos h2, if_pos (by simp; omega)]
        have : x - a = x - (a + 1) + 1 := by omega
        rw [this]; simp [nth]
      · rw [if_neg h2, if_neg hx, if_neg (by simp; omega)]

/-- Filtering keeps the canonical form. -/
theorem cellsWf_filter (p : Host.Cell → Bool) (m : List Host.Cell) (h : cellsWf m = true) : cellsWf (m.filter p) = true := by
  induction m with
  | nil => rfl
  | cons f r ih =>
    obtain ⟨b, u⟩ := f
    obtain ⟨hu, hr, hl⟩ := cellsWf_tail b u r h
    simp only [List.filter_cons]
    split
    · exact cellsWf_cons b u _ hu (ih hr) (fun e he => hl e (List.mem_filter.mp he).1)
    · exact ih hr

theorem cellsWf_clearRange (m : List Host.Cell) (a n : Nat) (h : cellsWf m = true) : cellsWf (clearRange m a n) = true :=
  cellsWf_filter _ m h

theorem cellsWf_paste (cs m : List Host.Cell) (a : Nat) (h : cellsWf m = true) : cellsWf (paste m a cs) = true := by
  induction cs generalizing m with
  | nil => exact h
  | cons e r ih => exact ih _ (cellsWf_setByte m _ _ h)

theorem cellsWf_copyRange (m : List Host.Cell) (src dst n : Nat) (h : cellsWf m = true) : cellsWf (copyRange m src dst n) = true :=
  cellsWf_paste _ _ _ (cellsWf_clearRange m dst n h)

/-- A cleared range reads as 0 and the rest as before. -/
theorem byteAt_clearRange (m : List Host.Cell) (a n x : Nat) :
    byteAt (clearRange m a n) x = if a ≤ x ∧ x < a + n then 0 else byteAt m x := by
  induction m with
  | nil => simp [clearRange, byteAt]
  | cons f r ih =>
    obtain ⟨b, u⟩ := f
    simp only [clearRange] at ih ⊢
    simp only [List.filter_cons]
    by_cases hb : a ≤ b ∧ b < a + n
    · simp only [hb, decide_true, Bool.and_self, Bool.not_true, Bool.false_eq_true, if_false, ih, byteAt]
      by_cases hx : b = x
      · subst hx; simp [hb]
      · simp [hx]
    · have : (!(decide (a ≤ b) && decide (b < a + n))) = true := by
        simp only [Bool.not_eq_true', Bool.and_eq_false_iff, decide_eq_false_iff_not]; omega
      simp only [this, if_true, byteAt, ih]
      by_cases hx : b = x
      · subst hx; simp [hb]
      · simp [hx]

/-! ## Memory of the device -/

theorem cellsWf_writeMem (m : Mem) (a : Nat) (bs : List Byte) (p : Bool) (h : cellsWf m.cells = true) :
    cellsWf (writeMem m a bs p).cells = true := cellsWf_setBytes bs m.cells a h

theorem cellsWf_clearMem (m : Mem) (a n : Nat) (h : cellsWf m.cells = true) : cellsWf (clearMem m a n).cells = true :=
  cellsWf_clearRange m.cells a n h

theorem cellsWf_copyMem (m : Mem) (src dst n : Nat) (h : cellsWf m.cells = true) : cellsWf (copyMem m src dst n).cells = true := by
  unfold copyMem
  simp only
  split
  · exact cellsWf_setBytes _ _ _ (cellsWf_clearMem m dst n h)
  · exact cellsWf_copyRange m.cells src dst n h

/-- A write of physical memory changes the bytes it covers and no other (R69). -/
theorem byteAt_writeMem (m : Mem) (a x : Nat) (bs : List Byte) (p : Bool) (h : cellsWf m.cells = true) :
    byteAt (writeMem m a bs p).cells x = if a ≤ x ∧ x < a + bs.length then nth bs (x - a) 0 else byteAt m.cells x :=
  byteAt_setBytes bs m.cells a x h

theorem memory_wf_writeMem (m : Mem) (a : Nat) (bs : List Byte) (p : Bool) (h : Memory.wf m = true) :
    Memory.wf (writeMem m a bs p) = true := cellsWf_writeMem m a bs p h

theorem memory_wf_clearMem (m : Mem) (a n : Nat) (h : Memory.wf m = true) : Memory.wf (clearMem m a n) = true :=
  cellsWf_clearMem m a n h

theorem memory_wf_copyMem (m : Mem) (src dst n : Nat) (h : Memory.wf m = true) : Memory.wf (copyMem m src dst n) = true :=
  cellsWf_copyMem m src dst n h

theorem reset_memory_wf : Memory.wf State.reset.mem = true := by decide

end Sys2Proof.Machine
end

