-- ==== Sys2Proof/Laws/Exec.lean ====
section
/-! SUPPORT. What `exec` is for each command, one lemma each, so that no proof unfolds the whole match. -/

namespace Sys2Proof.Machine

@[simp] theorem exec_nop (c : Nat) (w : CWord) (s : State) : exec (.nop c w) s = execNop c w s := rfl
@[simp] theorem exec_endProgram (c : Nat) (w : CWord) (s : State) :
    exec (.endProgram c w) s = execEndProgram c w s := rfl
@[simp] theorem exec_alu (c : Nat) (w : CWord) (s : State) : exec (.alu c w) s = execAlu c w s := rfl
@[simp] theorem exec_alui (c : Nat) (w : CWord) (s : State) : exec (.alui c w) s = execAlui c w s := rfl
@[simp] theorem exec_movhi (c : Nat) (w : CWord) (s : State) : exec (.movhi c w) s = execMovhi c w s := rfl
@[simp] theorem exec_cmp (c : Nat) (w : CWord) (s : State) : exec (.cmp c w) s = execCmp c w s := rfl
@[simp] theorem exec_cmpi (c : Nat) (w : CWord) (s : State) : exec (.cmpi c w) s = execCmpi c w s := rfl
@[simp] theorem exec_pred (c : Nat) (w : CWord) (s : State) : exec (.pred c w) s = execPred c w s := rfl
@[simp] theorem exec_br (c : Nat) (w : CWord) (s : State) : exec (.br c w) s = execBr c w s := rfl
@[simp] theorem exec_jal (c : Nat) (w : CWord) (s : State) : exec (.jal c w) s = execJal c w s := rfl
@[simp] theorem exec_jr (c : Nat) (w : CWord) (s : State) : exec (.jr c w) s = execJr c w s := rfl
@[simp] theorem exec_ld (c : Nat) (w : CWord) (s : State) : exec (.ld c w) s = execLd c w s := rfl
@[simp] theorem exec_st (c : Nat) (w : CWord) (s : State) : exec (.st c w) s = execSt c w s := rfl
@[simp] theorem exec_sysrd (c : Nat) (w : CWord) (s : State) : exec (.sysrd c w) s = execSysrd c w s := rfl
@[simp] theorem exec_wtok (c : Nat) (w : CWord) (s : State) : exec (.wtok c w) s = execWtok c w s := rfl
@[simp] theorem exec_illegalOpcode (c : Nat) (opc : BitVec 8) (s : State) :
    exec (.illegalOpcode c opc) s = execIllegalOpcode c opc s := rfl
@[simp] theorem exec_privilegedInstruction (c : Nat) (opc : BitVec 8) (s : State) :
    exec (.privilegedInstruction c opc) s = execPrivilegedInstruction c opc s := rfl
@[simp] theorem exec_spanBegin (c : Nat) (w : CWord) (s : State) :
    exec (.spanBegin c w) s = execSpanBegin c w s := rfl
@[simp] theorem exec_spanEnd (c : Nat) (w : CWord) (s : State) : exec (.spanEnd c w) s = execSpanEnd c w s := rfl
@[simp] theorem exec_stepProgram (c : Nat) (w : CWord) (s : State) :
    exec (.stepProgram c w) s = execStepProgram c w s := rfl
@[simp] theorem exec_markPush (c : Nat) (w : CWord) (s : State) : exec (.markPush c w) s = execMarkPush c w s := rfl
@[simp] theorem exec_markPop (c : Nat) (w : CWord) (s : State) : exec (.markPop c w) s = execMarkPop c w s := rfl
@[simp] theorem exec_ophint (c : Nat) (w : CWord) (s : State) : exec (.ophint c w) s = execOphint c w s := rfl
@[simp] theorem exec_mma (c : Nat) (g : Stage) (s : State) : exec (.mma c g) s = execMma c g s := rfl
@[simp] theorem exec_mmaLd (c : Nat) (g : Stage) (s : State) : exec (.mmaLd c g) s = execMmaLd c g s := rfl
@[simp] theorem exec_mda (c : Nat) (g : Stage) (s : State) : exec (.mda c g) s = execMda c g s := rfl
@[simp] theorem exec_mvm (c : Nat) (g : Stage) (s : State) : exec (.mvm c g) s = execMvm c g s := rfl
@[simp] theorem exec_vop (c : Nat) (g : Stage) (s : State) : exec (.vop c g) s = execVop c g s := rfl
@[simp] theorem exec_topk (c : Nat) (g : Stage) (s : State) : exec (.topk c g) s = execTopk c g s := rfl
@[simp] theorem exec_norm (c : Nat) (g : Stage) (s : State) : exec (.norm c g) s = execNorm c g s := rfl
@[simp] theorem exec_softmax (c : Nat) (g : Stage) (s : State) : exec (.softmax c g) s = execSoftmax c g s := rfl
@[simp] theorem exec_cvt (c : Nat) (g : Stage) (s : State) : exec (.cvt c g) s = execCvt c g s := rfl
@[simp] theorem exec_stat (c : Nat) (g : Stage) (s : State) : exec (.stat c g) s = execStat c g s := rfl
@[simp] theorem exec_upd (c : Nat) (g : Stage) (s : State) : exec (.upd c g) s = execUpd c g s := rfl
@[simp] theorem exec_xfer (c : Nat) (g : Stage) (s : State) : exec (.xfer c g) s = execXfer c g s := rfl
@[simp] theorem exec_fetch (c : Nat) (g : Stage) (s : State) : exec (.fetch c g) s = execFetch c g s := rfl
@[simp] theorem exec_fetchChunkIssue (c : Nat) (id : Nat) (s : State) :
    exec (.fetchChunkIssue c id) s = execFetchChunkIssue c id s := rfl
@[simp] theorem exec_ridge (c : Nat) (g : Stage) (s : State) : exec (.ridge c g) s = execRidge c g s := rfl
@[simp] theorem exec_spar (c : Nat) (g : Stage) (s : State) : exec (.spar c g) s = execSpar c g s := rfl
@[simp] theorem exec_yealm (c : Nat) (g : Stage) (s : State) : exec (.yealm c g) s = execYealm c g s := rfl
@[simp] theorem exec_cancel (c : Nat) (g : Stage) (s : State) : exec (.cancel c g) s = execCancel c g s := rfl
@[simp] theorem exec_fence (c : Nat) (g : Stage) (s : State) : exec (.fence c g) s = execFence c g s := rfl
@[simp] theorem exec_trussArrive (c : Nat) (g : Stage) (s : State) :
    exec (.trussArrive c g) s = execTrussArrive c g s := rfl
@[simp] theorem exec_trussWait (c : Nat) (g : Stage) (s : State) :
    exec (.trussWait c g) s = execTrussWait c g s := rfl
@[simp] theorem exec_trussArwt (c : Nat) (g : Stage) (s : State) :
    exec (.trussArwt c g) s = execTrussArwt c g s := rfl
@[simp] theorem exec_collAllreduce (c : Nat) (g : Stage) (s : State) :
    exec (.collAllreduce c g) s = execCollAllreduce c g s := rfl
@[simp] theorem exec_collRedscat (c : Nat) (g : Stage) (s : State) :
    exec (.collRedscat c g) s = execCollRedscat c g s := rfl
@[simp] theorem exec_collAllgather (c : Nat) (g : Stage) (s : State) :
    exec (.collAllgather c g) s = execCollAllgather c g s := rfl
@[simp] theorem exec_collAlltoall (c : Nat) (g : Stage) (s : State) :
    exec (.collAlltoall c g) s = execCollAlltoall c g s := rfl
@[simp] theorem exec_collBcast (c : Nat) (g : Stage) (s : State) :
    exec (.collBcast c g) s = execCollBcast c g s := rfl
@[simp] theorem exec_collReduce (c : Nat) (g : Stage) (s : State) :
    exec (.collReduce c g) s = execCollReduce c g s := rfl
@[simp] theorem exec_engineInstructionStart (c : Nat) (e : Engine) (s : State) :
    exec (.engineInstructionStart c e) s = execEngineInstructionStart c e s := rfl
@[simp] theorem exec_engineInstructionComplete (c : Nat) (e : Engine) (id : Nat) (s : State) :
    exec (.engineInstructionComplete c e id) s = execEngineInstructionComplete c e id s := rfl
@[simp] theorem exec_burstStart (c : Nat) (id : Nat) (rd : ReadErr) (s : State) :
    exec (.burstStart c id rd) s = execBurstStart c id rd s := rfl
@[simp] theorem exec_regulatorRefill (s : State) : exec .regulatorRefill s = execRegulatorRefill s := rfl
@[simp] theorem exec_patrolScrub (rd : ReadErr) (s : State) : exec (.patrolScrub rd) s = execPatrolScrub rd s := rfl
@[simp] theorem exec_hbmRowSpare (chan row : Nat) (s : State) :
    exec (.hbmRowSpare chan row) s = execHbmRowSpare chan row s := rfl
@[simp] theorem exec_hbmPageRetire (page : Nat) (s : State) :
    exec (.hbmPageRetire page) s = execHbmPageRetire page s := rfl
@[simp] theorem exec_hbmPostPackageRepair (chans : List Nat) (s : State) :
    exec (.hbmPostPackageRepair chans) s = execHbmPostPackageRepair chans s := rfl
@[simp] theorem exec_thatchSliceRetire (slice : Nat) (s : State) :
    exec (.thatchSliceRetire slice) s = execThatchSliceRetire slice s := rfl
@[simp] theorem exec_shadowQuantumExpiry (p : Nat) (s : State) :
    exec (.shadowQuantumExpiry p) s = execShadowQuantumExpiry p s := rfl
@[simp] theorem exec_shadowEarlySwitch (p : Nat) (s : State) :
    exec (.shadowEarlySwitch p) s = execShadowEarlySwitch p s := rfl
@[simp] theorem exec_coreLogicFault (p : Nat) (s : State) : exec (.coreLogicFault p) s = execCoreLogicFault p s := rfl
@[simp] theorem exec_patrolTestStart (s : State) : exec .patrolTestStart s = execPatrolTestStart s := rfl
@[simp] theorem exec_patrolTestDone (pass : Bool) (sig : Word) (margin : Nat) (s : State) :
    exec (.patrolTestDone pass sig margin) s = execPatrolTestDone pass sig margin s := rfl
@[simp] theorem exec_coreReverify (p : Nat) (pass : Bool) (s : State) :
    exec (.coreReverify p pass) s = execCoreReverify p pass s := rfl
@[simp] theorem exec_watchdogTest (s : State) : exec .watchdogTest s = execWatchdogTest s := rfl
@[simp] theorem exec_remoteTrussArrival (k : Packet) (s : State) :
    exec (.remoteTrussArrival k) s = execRemoteTrussArrival k s := rfl
@[simp] theorem exec_flitReceive (j g : Nat) (up : Bool) (f : FlitData) (l : FlitLink) (s : State) :
    exec (.flitReceive j g up f l) s = execFlitReceive j g up f l s := rfl
@[simp] theorem exec_nakReceive (j g : Nat) (up : Bool) (ack : Nat) (s : State) :
    exec (.nakReceive j g up ack) s = execNakReceive j g up ack s := rfl
@[simp] theorem exec_replayTimeout (j g : Nat) (up : Bool) (s : State) :
    exec (.replayTimeout j g up) s = execReplayTimeout j g up s := rfl
@[simp] theorem exec_marginReport (j : Nat) (up : Bool) (lanes : List (Nat × Nat × Bool)) (s : State) :
    exec (.marginReport j up lanes) s = execMarginReport j up lanes s := rfl
@[simp] theorem exec_laneDue (j : Nat) (up : Bool) (lane : Nat) (s : State) :
    exec (.laneDue j up lane) s = execLaneDue j up lane s := rfl
@[simp] theorem exec_swap (j : Nat) (up : Bool) (lane spare : Nat) (s : State) :
    exec (.swap j up lane spare) s = execSwap j up lane spare s := rfl
@[simp] theorem exec_laneSwitch (j : Nat) (up : Bool) (s : State) :
    exec (.laneSwitch j up) s = execLaneSwitch j up s := rfl
@[simp] theorem exec_chainGroupRemoved (j g : Nat) (s : State) :
    exec (.chainGroupRemoved j g) s = execChainGroupRemoved j g s := rfl
@[simp] theorem exec_portTrained (port : Nat) (offer : List Nat × Bool) (s : State) :
    exec (.portTrained port offer) s = execPortTrained port offer s := rfl
@[simp] theorem exec_portLinkLoss (port : Nat) (cause : Nat) (s : State) :
    exec (.portLinkLoss port cause) s = execPortLinkLoss port cause s := rfl
@[simp] theorem exec_portAnRetry (port : Nat) (rates : List Nat) (trained : Bool) (s : State) :
    exec (.portAnRetry port rates trained) s = execPortAnRetry port rates trained s := rfl
@[simp] theorem exec_packetSend (peer : Nat) (s : State) : exec (.packetSend peer) s = execPacketSend peer s := rfl
@[simp] theorem exec_furlongHelloRetry (peer : Nat) (s : State) :
    exec (.furlongHelloRetry peer) s = execFurlongHelloRetry peer s := rfl
@[simp] theorem exec_furlongHelloReceive (k : Packet) (s : State) :
    exec (.furlongHelloReceive k) s = execFurlongHelloReceive k s := rfl
@[simp] theorem exec_sessionOpenTimeout (peer : Nat) (s : State) :
    exec (.sessionOpenTimeout peer) s = execSessionOpenTimeout peer s := rfl
@[simp] theorem exec_furlongWriteReceive (k : Packet) (s : State) :
    exec (.furlongWriteReceive k) s = execFurlongWriteReceive k s := rfl
@[simp] theorem exec_readReqReceive (k : Packet) (s : State) :
    exec (.readReqReceive k) s = execReadReqReceive k s := rfl
@[simp] theorem exec_readRespReceive (k : Packet) (s : State) :
    exec (.readRespReceive k) s = execReadRespReceive k s := rfl
@[simp] theorem exec_sendReceive (k : Packet) (s : State) : exec (.sendReceive k) s = execSendReceive k s := rfl
@[simp] theorem exec_sackReceive (h : FHdr) (b : PacketBody) (s : State) :
    exec (.sackReceive h b) s = execSackReceive h b s := rfl
@[simp] theorem exec_sackTimer (peer : Nat) (s : State) : exec (.sackTimer peer) s = execSackTimer peer s := rfl
@[simp] theorem exec_rtoExpiry (peer psn : Nat) (s : State) :
    exec (.rtoExpiry peer psn) s = execRtoExpiry peer psn s := rfl
@[simp] theorem exec_pathSuspendExpiry (peer path : Nat) (s : State) :
    exec (.pathSuspendExpiry peer path) s = execPathSuspendExpiry peer path s := rfl
@[simp] theorem exec_congestionInterval (peer : Nat) (s : State) :
    exec (.congestionInterval peer) s = execCongestionInterval peer s := rfl
@[simp] theorem exec_peerLoss (peer : Nat) (s : State) : exec (.peerLoss peer) s = execPeerLoss peer s := rfl
@[simp] theorem exec_collReady (k : Packet) (s : State) : exec (.collReady k) s = execCollReady k s := rfl
@[simp] theorem exec_collData (k : Packet) (s : State) : exec (.collData k) s = execCollData k s := rfl
@[simp] theorem exec_collPartial (k : Packet) (s : State) : exec (.collPartial k) s = execCollPartial k s := rfl
@[simp] theorem exec_collResult (k : Packet) (s : State) : exec (.collResult k) s = execCollResult k s := rfl
@[simp] theorem exec_collCheck (k : Packet) (s : State) : exec (.collCheck k) s = execCollCheck k s := rfl
@[simp] theorem exec_chunkCheck (c id chunk : Nat) (s : State) :
    exec (.chunkCheck c id chunk) s = execChunkCheck c id chunk s := rfl
@[simp] theorem exec_collRepair (k : Packet) (s : State) : exec (.collRepair k) s = execCollRepair k s := rfl
@[simp] theorem exec_collAbort (k : Packet) (s : State) : exec (.collAbort k) s = execCollAbort k s := rfl
@[simp] theorem exec_collRevoke (k : Packet) (s : State) : exec (.collRevoke k) s = execCollRevoke k s := rfl
@[simp] theorem exec_collDone (k : Packet) (s : State) : exec (.collDone k) s = execCollDone k s := rfl
@[simp] theorem exec_ptpSyncReceive (a : PtpArrival) (rate : Int) (s : State) :
    exec (.ptpSyncReceive a rate) s = execPtpSyncReceive a rate s := rfl
@[simp] theorem exec_ptpSyncTimeout (s : State) : exec .ptpSyncTimeout s = execPtpSyncTimeout s := rfl
@[simp] theorem exec_ppsIn (s : State) : exec .ppsIn s = execPpsIn s := rfl
@[simp] theorem exec_ppsOut (s : State) : exec .ppsOut s = execPpsOut s := rfl
@[simp] theorem exec_frequencyStep (b : Nat) (s : State) : exec (.frequencyStep b) s = execFrequencyStep b s := rfl
@[simp] theorem exec_muxSwitch (b : Nat) (s : State) : exec (.muxSwitch b) s = execMuxSwitch b s := rfl
@[simp] theorem exec_pllUnlock (b pll : Nat) (s : State) : exec (.pllUnlock b pll) s = execPllUnlock b pll s := rfl
@[simp] theorem exec_marginMonitorRead (b margin : Nat) (s : State) :
    exec (.marginMonitorRead b margin) s = execMarginMonitorRead b margin s := rfl
@[simp] theorem exec_droopDetect (b : Nat) (s : State) : exec (.droopDetect b) s = execDroopDetect b s := rfl
@[simp] theorem exec_droopClear (b : Nat) (s : State) : exec (.droopClear b) s = execDroopClear b s := rfl
@[simp] theorem exec_voltageLowerHoldExpiry (b : Nat) (s : State) :
    exec (.voltageLowerHoldExpiry b) s = execVoltageLowerHoldExpiry b s := rfl
@[simp] theorem exec_fastLoop (raw : List Nat) (uncore : Nat) (s : State) :
    exec (.fastLoop raw uncore) s = execFastLoop raw uncore s := rfl
@[simp] theorem exec_slowLoop (measured : List (Option Nat)) (s : State) :
    exec (.slowLoop measured) s = execSlowLoop measured s := rfl
@[simp] theorem exec_energyAttribution (cores : List (Nat × Nat)) (grains : List (Nat × Nat)) (rest : Nat) (s : State) :
    exec (.energyAttribution cores grains rest) s = execEnergyAttribution cores grains rest s := rfl
@[simp] theorem exec_lostCycleUpdate (delivered : List Nat) (s : State) :
    exec (.lostCycleUpdate delivered) s = execLostCycleUpdate delivered s := rfl
@[simp] theorem exec_bayClockStop (b : Nat) (s : State) : exec (.bayClockStop b) s = execBayClockStop b s := rfl
@[simp] theorem exec_thermalSample (dies : List Int) (hbm : List Int) (s : State) :
    exec (.thermalSample dies hbm) s = execThermalSample dies hbm s := rfl
@[simp] theorem exec_thermalEmergency (sensor : Nat) (temp : Int) (s : State) :
    exec (.thermalEmergency sensor temp) s = execThermalEmergency sensor temp s := rfl
@[simp] theorem exec_thermalTrip (sensor : Nat) (temp : Int) (s : State) :
    exec (.thermalTrip sensor temp) s = execThermalTrip sensor temp s := rfl
@[simp] theorem exec_hbmThrottle (stack : Nat) (temp : Int) (s : State) :
    exec (.hbmThrottle stack temp) s = execHbmThrottle stack temp s := rfl
@[simp] theorem exec_fastThrottle (s : State) : exec .fastThrottle s = execFastThrottle s := rfl
@[simp] theorem exec_fastThrottleRelease (s : State) : exec .fastThrottleRelease s = execFastThrottleRelease s := rfl
@[simp] theorem exec_pmuFallback (missed : Nat) (s : State) :
    exec (.pmuFallback missed) s = execPmuFallback missed s := rfl
@[simp] theorem exec_pmuResume (s : State) : exec .pmuResume s = execPmuResume s := rfl
@[simp] theorem exec_pmbusAlert (s : State) : exec .pmbusAlert s = execPmbusAlert s := rfl
@[simp] theorem exec_railUndervoltage (r : Nat) (s : State) :
    exec (.railUndervoltage r) s = execRailUndervoltage r s := rfl
@[simp] theorem exec_ref25Loss (s : State) : exec .ref25Loss s = execRef25Loss s := rfl
@[simp] theorem exec_perstNAssert (s : State) : exec .perstNAssert s = execPerstNAssert s := rfl
@[simp] theorem exec_perstNRelease (bootMode : BitVec 2) (clkMode : Bool) (s : State) :
    exec (.perstNRelease bootMode clkMode) s = execPerstNRelease bootMode clkMode s := rfl
@[simp] theorem exec_bootStageComplete (f : BootFinding) (s : State) :
    exec (.bootStageComplete f) s = execBootStageComplete f s := rfl
@[simp] theorem exec_lockstepMismatch (pair : Nat) (s : State) :
    exec (.lockstepMismatch pair) s = execLockstepMismatch pair s := rfl
@[simp] theorem exec_outboxRecordWrite (s : State) : exec .outboxRecordWrite s = execOutboxRecordWrite s := rfl
@[simp] theorem exec_outboxSignalTimer (s : State) : exec .outboxSignalTimer s = execOutboxSignalTimer s := rfl
@[simp] theorem exec_hostAbsenceTest (s : State) : exec .hostAbsenceTest s = execHostAbsenceTest s := rfl
@[simp] theorem exec_schedSliceExpiry (part : Nat) (s : State) :
    exec (.schedSliceExpiry part) s = execSchedSliceExpiry part s := rfl
@[simp] theorem exec_preemptDrainTimeout (part : Nat) (s : State) :
    exec (.preemptDrainTimeout part) s = execPreemptDrainTimeout part s := rfl
@[simp] theorem exec_preemptionComplete (part : Nat) (s : State) :
    exec (.preemptionComplete part) s = execPreemptionComplete part s := rfl
@[simp] theorem exec_debugHaltComplete (ctx : Nat) (s : State) :
    exec (.debugHaltComplete ctx) s = execDebugHaltComplete ctx s := rfl
@[simp] theorem exec_traceRecordWrite (source : Nat) (s : State) :
    exec (.traceRecordWrite source) s = execTraceRecordWrite source s := rfl
@[simp] theorem exec_fwActivationBegin (target : Nat) (importOk : Bool) (s : State) :
    exec (.fwActivationBegin target importOk) s = execFwActivationBegin target importOk s := rfl
@[simp] theorem exec_fwActivateWindowExpiry (target : Nat) (s : State) :
    exec (.fwActivateWindowExpiry target) s = execFwActivateWindowExpiry target s := rfl
@[simp] theorem exec_fwCommitTimeout (target : Nat) (s : State) :
    exec (.fwCommitTimeout target) s = execFwCommitTimeout target s := rfl
@[simp] theorem exec_jobHalt (ctx : Nat) (s : State) : exec (.jobHalt ctx) s = execJobHalt ctx s := rfl
@[simp] theorem exec_jobHaltReceive (job epoch origin cause : Nat) (sender : Nat) (s : State) :
    exec (.jobHaltReceive job epoch origin cause sender) s = execJobHaltReceive job epoch origin cause sender s := rfl
@[simp] theorem exec_haltComplete (ctx : Nat) (s : State) : exec (.haltComplete ctx) s = execHaltComplete ctx s := rfl
@[simp] theorem exec_haltAckReceive (job sender committed : Nat) (ready : Option Nat) (absent : List Nat) (s : State) :
    exec (.haltAckReceive job sender committed ready absent) s = execHaltAckReceive job sender committed ready absent s := rfl
@[simp] theorem exec_haltAckTimeout (ctx child : Nat) (s : State) :
    exec (.haltAckTimeout ctx child) s = execHaltAckTimeout ctx child s := rfl
@[simp] theorem exec_gatherTimeout (ctx : Nat) (s : State) :
    exec (.gatherTimeout ctx) s = execGatherTimeout ctx s := rfl
@[simp] theorem exec_restore (job target : Nat) (s : State) :
    exec (.restore job target) s = execRestore job target s := rfl
@[simp] theorem exec_restoreCopyDone (ctx : Nat) (s : State) :
    exec (.restoreCopyDone ctx) s = execRestoreCopyDone ctx s := rfl
@[simp] theorem exec_restoreDone (job sender : Nat) (s : State) :
    exec (.restoreDone job sender) s = execRestoreDone job sender s := rfl
@[simp] theorem exec_resume (job : Nat) (s : State) : exec (.resume job) s = execResume job s := rfl
@[simp] theorem exec_replaceWaitExpiry (ctx : Nat) (s : State) :
    exec (.replaceWaitExpiry ctx) s = execReplaceWaitExpiry ctx s := rfl
@[simp] theorem exec_snapshotCopyDone (ctx : Nat) (s : State) :
    exec (.snapshotCopyDone ctx) s = execSnapshotCopyDone ctx s := rfl
@[simp] theorem exec_ckptReady (job sender epoch : Nat) (s : State) :
    exec (.ckptReady job sender epoch) s = execCkptReady job sender epoch s := rfl
@[simp] theorem exec_ckptCommit (job epoch : Nat) (s : State) :
    exec (.ckptCommit job epoch) s = execCkptCommit job epoch s := rfl
@[simp] theorem exec_mirrorWriteDone (ctx epoch : Nat) (s : State) :
    exec (.mirrorWriteDone ctx epoch) s = execMirrorWriteDone ctx epoch s := rfl
@[simp] theorem exec_twinHeartbeatSend (s : State) : exec .twinHeartbeatSend s = execTwinHeartbeatSend s := rfl
@[simp] theorem exec_twinHeartbeatReceive (node incarnation : Nat) (attested : Option Nat) (beats : List BeatCtx) (s : State) :
    exec (.twinHeartbeatReceive node incarnation attested beats) s = execTwinHeartbeatReceive node incarnation attested beats s := rfl
@[simp] theorem exec_twinLost (ctx : Nat) (s : State) : exec (.twinLost ctx) s = execTwinLost ctx s := rfl
@[simp] theorem exec_deviceRecovery (cause : Nat) (s : State) :
    exec (.deviceRecovery cause) s = execDeviceRecovery cause s := rfl
@[simp] theorem exec_deviceRecoveryComplete (imported : Bool) (s : State) :
    exec (.deviceRecoveryComplete imported) s = execDeviceRecoveryComplete imported s := rfl
@[simp] theorem exec_flashWrite (area : Nat) (counter : Nat) (tag : List Byte) (data : List Byte) (s : State) :
    exec (.flashWrite area counter tag data) s = execFlashWrite area counter tag data s := rfl
@[simp] theorem exec_debugUnlockToken (m : Manifest) (s : State) :
    exec (.debugUnlockToken m) s = execDebugUnlockToken m s := rfl
@[simp] theorem exec_entdaa (addr : Nat) (s : State) : exec (.entdaa addr) s = execEntdaa addr s := rfl
@[simp] theorem exec_setdasa (s : State) : exec .setdasa s = execSetdasa s := rfl
@[simp] theorem exec_rstdaa (s : State) : exec .rstdaa s = execRstdaa s := rfl
@[simp] theorem exec_pcieLinkDown (s : State) : exec .pcieLinkDown s = execPcieLinkDown s := rfl
@[simp] theorem exec_hello (h : MsgHdr) (outboxAddr threshold : Nat) (rsv : Bool) (s : State) :
    exec (.hello h outboxAddr threshold rsv) s = execHello h outboxAddr threshold rsv s := rfl
@[simp] theorem exec_hostAlive (h : MsgHdr) (timeoutS : Nat) (rsv : Bool) (s : State) :
    exec (.hostAlive h timeoutS rsv) s = execHostAlive h timeoutS rsv s := rfl
@[simp] theorem exec_status (h : MsgHdr) (s : State) : exec (.status h) s = execStatus h s := rfl
@[simp] theorem exec_contextList (h : MsgHdr) (s : State) : exec (.contextList h) s = execContextList h s := rfl
@[simp] theorem exec_capacity (h : MsgHdr) (hostAddr : Nat) (rsv : Bool) (s : State) :
    exec (.capacity h hostAddr rsv) s = execCapacity h hostAddr rsv s := rfl
@[simp] theorem exec_contextCreate (h : MsgHdr) (part mbx hostLoss route job manager watchdog : Nat) (rsv : Bool) (s : State) :
    exec (.contextCreate h part mbx hostLoss route job manager watchdog rsv) s = execContextCreate h part mbx hostLoss route job manager watchdog rsv s := rfl
@[simp] theorem exec_contextDestroy (h : MsgHdr) (s : State) :
    exec (.contextDestroy h) s = execContextDestroy h s := rfl
@[simp] theorem exec_contextPolicy (h : MsgHdr) (hostLoss route manager : Nat) (rsv : Bool) (s : State) :
    exec (.contextPolicy h hostLoss route manager rsv) s = execContextPolicy h hostLoss route manager rsv s := rfl
@[simp] theorem exec_contextResume (h : MsgHdr) (s : State) : exec (.contextResume h) s = execContextResume h s := rfl
@[simp] theorem exec_contextStop (h : MsgHdr) (s : State) : exec (.contextStop h) s = execContextStop h s := rfl
@[simp] theorem exec_contextEnergy (h : MsgHdr) (s : State) : exec (.contextEnergy h) s = execContextEnergy h s := rfl
@[simp] theorem exec_memAlloc (h : MsgHdr) (va size kind page : Nat) (perm : BitVec 8) (rsv : Bool) (s : State) :
    exec (.memAlloc h va size kind page perm rsv) s = execMemAlloc h va size kind page perm rsv s := rfl
@[simp] theorem exec_memFree (h : MsgHdr) (va size : Nat) (s : State) :
    exec (.memFree h va size) s = execMemFree h va size s := rfl
@[simp] theorem exec_memWrite (h : MsgHdr) (va size hostAddr : Nat) (data : List Byte) (s : State) :
    exec (.memWrite h va size hostAddr data) s = execMemWrite h va size hostAddr data s := rfl
@[simp] theorem exec_memRead (h : MsgHdr) (va size hostAddr : Nat) (s : State) :
    exec (.memRead h va size hostAddr) s = execMemRead h va size hostAddr s := rfl
@[simp] theorem exec_launch (h : MsgHdr) (entries : List LaunchEntry) (rsv : Bool) (s : State) :
    exec (.launch h entries rsv) s = execLaunch h entries rsv s := rfl
@[simp] theorem exec_numericPolicy (h : MsgHdr) (p : NumericPolicy) (s : State) :
    exec (.numericPolicy h p) s = execNumericPolicy h p s := rfl
@[simp] theorem exec_numericWatch (h : MsgHdr) (slot threshold arm : Nat) (rsv : Bool) (s : State) :
    exec (.numericWatch h slot threshold arm rsv) s = execNumericWatch h slot threshold arm rsv s := rfl
@[simp] theorem exec_watchdogSet (h : MsgHdr) (periodMs : Nat) (rsv : Bool) (s : State) :
    exec (.watchdogSet h periodMs rsv) s = execWatchdogSet h periodMs rsv s := rfl
@[simp] theorem exec_trussCreate (h : MsgHdr) (vtid mode home limit participants : Nat) (fwd : List FwdEntry) (members : List Member) (rsv : Bool) (s : State) :
    exec (.trussCreate h vtid mode home limit participants fwd members rsv) s = execTrussCreate h vtid mode home limit participants fwd members rsv s := rfl
@[simp] theorem exec_trussDestroy (h : MsgHdr) (vtid : Nat) (rsv : Bool) (s : State) :
    exec (.trussDestroy h vtid rsv) s = execTrussDestroy h vtid rsv s := rfl
@[simp] theorem exec_regionCreate (h : MsgHdr) (key : Nat) (perm : BitVec 8) (base length : Nat) (rsv : Bool) (s : State) :
    exec (.regionCreate h key perm base length rsv) s = execRegionCreate h key perm base length rsv s := rfl
@[simp] theorem exec_regionDestroy (h : MsgHdr) (key : Nat) (rsv : Bool) (s : State) :
    exec (.regionDestroy h key rsv) s = execRegionDestroy h key rsv s := rfl
@[simp] theorem exec_partitionSet (h : MsgHdr) (part : List Nat) (quota : List Nat) (s : State) :
    exec (.partitionSet h part quota) s = execPartitionSet h part quota s := rfl
@[simp] theorem exec_sliceMode (h : MsgHdr) (bd slice mode : Nat) (rsv : Bool) (s : State) :
    exec (.sliceMode h bd slice mode rsv) s = execSliceMode h bd slice mode rsv s := rfl
@[simp] theorem exec_schedSet (h : MsgHdr) (part sliceMs quantumUs : Nat) (rsv : Bool) (s : State) :
    exec (.schedSet h part sliceMs quantumUs rsv) s = execSchedSet h part sliceMs quantumUs rsv s := rfl
@[simp] theorem exec_fixedFreq (h : MsgHdr) (part on : Nat) (rsv : Bool) (s : State) :
    exec (.fixedFreq h part on rsv) s = execFixedFreq h part on rsv s := rfl
@[simp] theorem exec_oppointSet (h : MsgHdr) (part : Nat) (freq : List Nat) (rsv : Bool) (s : State) :
    exec (.oppointSet h part freq rsv) s = execOppointSet h part freq rsv s := rfl
@[simp] theorem exec_powerLimit (h : MsgHdr) (watts : Nat) (rsv : Bool) (s : State) :
    exec (.powerLimit h watts rsv) s = execPowerLimit h watts rsv s := rfl
@[simp] theorem exec_budgetSet (h : MsgHdr) (ctx hbm network : Nat) (rsv : Bool) (s : State) :
    exec (.budgetSet h ctx hbm network rsv) s = execBudgetSet h ctx hbm network rsv s := rfl
@[simp] theorem exec_timeSource (h : MsgHdr) (source profile port : Nat) (rsv : Bool) (s : State) :
    exec (.timeSource h source profile port rsv) s = execTimeSource h source profile port rsv s := rfl
@[simp] theorem exec_portConfig (h : MsgHdr) (octet mode : Nat) (mtu : List Nat) (rsv : Bool) (s : State) :
    exec (.portConfig h octet mode mtu rsv) s = execPortConfig h octet mode mtu rsv s := rfl
@[simp] theorem exec_nodeTable (h : MsgHdr) (job : Nat) (nodes : List (Nat × Nat)) (s : State) :
    exec (.nodeTable h job nodes) s = execNodeTable h job nodes s := rfl
@[simp] theorem exec_managerSet (h : MsgHdr) (entries : List (Nat × Nat)) (rsv : Bool) (s : State) :
    exec (.managerSet h entries rsv) s = execManagerSet h entries rsv s := rfl
@[simp] theorem exec_netIdentity (h : MsgHdr) (n : NetIdentity) (s : State) :
    exec (.netIdentity h n) s = execNetIdentity h n s := rfl
@[simp] theorem exec_gridSet (h : MsgHdr) (naxes : Nat) (extent : List Nat) (nodes : List Nat) (rsv : Bool) (s : State) :
    exec (.gridSet h naxes extent nodes rsv) s = execGridSet h naxes extent nodes rsv s := rfl
@[simp] theorem exec_groupCreate (h : MsgHdr) (gid alg fanin members : Nat) (block : List Nat) (statusPtr : Nat) (nodes : List Nat) (rsv : Bool) (s : State) :
    exec (.groupCreate h gid alg fanin members block statusPtr nodes rsv) s = execGroupCreate h gid alg fanin members block statusPtr nodes rsv s := rfl
@[simp] theorem exec_groupDestroy (h : MsgHdr) (gid : Nat) (rsv : Bool) (s : State) :
    exec (.groupDestroy h gid rsv) s = execGroupDestroy h gid rsv s := rfl
@[simp] theorem exec_storageConnect (h : MsgHdr) (ctrl family svcid queues depth addr : Nat) (subnqn : List Byte) (rsv : Bool) (namespaces : Option (List Nat)) (s : State) :
    exec (.storageConnect h ctrl family svcid queues depth addr subnqn rsv namespaces) s = execStorageConnect h ctrl family svcid queues depth addr subnqn rsv namespaces s := rfl
@[simp] theorem exec_storageRead (h : MsgHdr) (ctrl nsid slba nlb va : Nat) (truss phase : Word) (rsv : Bool) (s : State) :
    exec (.storageRead h ctrl nsid slba nlb va truss phase rsv) s = execStorageRead h ctrl nsid slba nlb va truss phase rsv s := rfl
@[simp] theorem exec_storageWrite (h : MsgHdr) (ctrl nsid slba nlb va : Nat) (truss phase : Word) (rsv : Bool) (s : State) :
    exec (.storageWrite h ctrl nsid slba nlb va truss phase rsv) s = execStorageWrite h ctrl nsid slba nlb va truss phase rsv s := rfl
@[simp] theorem exec_storageDone (ctx seq nvmeStatus blocks : Nat) (s : State) :
    exec (.storageDone ctx seq nvmeStatus blocks) s = execStorageDone ctx seq nvmeStatus blocks s := rfl
@[simp] theorem exec_checkpointSet (h : MsgHdr) (interval restartLimit replaceWait : Nat) (ranges : List (Nat × Nat)) (rsv : Bool) (s : State) :
    exec (.checkpointSet h interval restartLimit replaceWait ranges rsv) s = execCheckpointSet h interval restartLimit replaceWait ranges rsv s := rfl
@[simp] theorem exec_twinSet (h : MsgHdr) (node : Nat) (flags : BitVec 8) (lost : Nat) (rsv : Bool) (s : State) :
    exec (.twinSet h node flags lost rsv) s = execTwinSet h node flags lost rsv s := rfl
@[simp] theorem exec_fwStage (h : MsgHdr) (target : Nat) (flags : BitVec 8) (offset total : Nat) (data : List Byte)
    (ref : Option (Nat × Nat)) (rsv : Bool) (s : State) :
    exec (.fwStage h target flags offset total data ref rsv) s = execFwStage h target flags offset total data ref rsv s := rfl
@[simp] theorem exec_fwActivate (h : MsgHdr) (target windowS commitS : Nat) (rsv : Bool) (s : State) :
    exec (.fwActivate h target windowS commitS rsv) s = execFwActivate h target windowS commitS rsv s := rfl
@[simp] theorem exec_fwCommit (h : MsgHdr) (target : Nat) (rsv : Bool) (s : State) :
    exec (.fwCommit h target rsv) s = execFwCommit h target rsv s := rfl
@[simp] theorem exec_fwRollback (h : MsgHdr) (target : Nat) (rsv : Bool) (s : State) :
    exec (.fwRollback h target rsv) s = execFwRollback h target rsv s := rfl
@[simp] theorem exec_counterRead (h : MsgHdr) (hostAddr : Nat) (entries : List CounterAddr) (rsv : Bool) (s : State) :
    exec (.counterRead h hostAddr entries rsv) s = execCounterRead h hostAddr entries rsv s := rfl
@[simp] theorem exec_traceSet (h : MsgHdr) (sizeMib mode : Nat) (categories : BitVec 8) (mask : Word) (rsv : Bool) (s : State) :
    exec (.traceSet h sizeMib mode categories mask rsv) s = execTraceSet h sizeMib mode categories mask rsv s := rfl
@[simp] theorem exec_traceStatus (h : MsgHdr) (s : State) : exec (.traceStatus h) s = execTraceStatus h s := rfl
@[simp] theorem exec_traceRead (h : MsgHdr) (first count hostAddr : Nat) (rsv : Bool) (s : State) :
    exec (.traceRead h first count hostAddr rsv) s = execTraceRead h first count hostAddr rsv s := rfl
@[simp] theorem exec_histSet (h : MsgHdr) (unit source base filter : Nat) (rsv : Bool) (s : State) :
    exec (.histSet h unit source base filter rsv) s = execHistSet h unit source base filter rsv s := rfl
@[simp] theorem exec_histSample (unit : Nat) (v : Int) (s : State) :
    exec (.histSample unit v) s = execHistSample unit v s := rfl
@[simp] theorem exec_histRead (h : MsgHdr) (unit clear hostAddr : Nat) (rsv : Bool) (s : State) :
    exec (.histRead h unit clear hostAddr rsv) s = execHistRead h unit clear hostAddr rsv s := rfl
@[simp] theorem exec_bpSet (h : MsgHdr) (lcore slot enable lenLog2 access addr : Nat) (rsv : Bool) (s : State) :
    exec (.bpSet h lcore slot enable lenLog2 access addr rsv) s = execBpSet h lcore slot enable lenLog2 access addr rsv s := rfl
@[simp] theorem exec_debugHalt (h : MsgHdr) (s : State) : exec (.debugHalt h) s = execDebugHalt h s := rfl
@[simp] theorem exec_debugResume (h : MsgHdr) (s : State) : exec (.debugResume h) s = execDebugResume h s := rfl
@[simp] theorem exec_debugStep (h : MsgHdr) (lcore : Nat) (rsv : Bool) (s : State) :
    exec (.debugStep h lcore rsv) s = execDebugStep h lcore rsv s := rfl
@[simp] theorem exec_stateRead (h : MsgHdr) (lcore : Nat) (parts : BitVec 8) (hostAddr : Nat) (rsv : Bool) (s : State) :
    exec (.stateRead h lcore parts hostAddr rsv) s = execStateRead h lcore parts hostAddr rsv s := rfl
@[simp] theorem exec_regWrite (h : MsgHdr) (lcore reg : Nat) (value : Word) (rsv : Bool) (s : State) :
    exec (.regWrite h lcore reg value rsv) s = execRegWrite h lcore reg value rsv s := rfl
@[simp] theorem exec_getTid (s : State) : exec .getTid s = execGetTid s := rfl
@[simp] theorem exec_getPldmVersion (type : Nat) (s : State) :
    exec (.getPldmVersion type) s = execGetPldmVersion type s := rfl
@[simp] theorem exec_getPldmTypes (s : State) : exec .getPldmTypes s = execGetPldmTypes s := rfl
@[simp] theorem exec_getPldmCommands (type : Nat) (s : State) :
    exec (.getPldmCommands type) s = execGetPldmCommands type s := rfl
@[simp] theorem exec_getPdrRepositoryInfo (s : State) :
    exec .getPdrRepositoryInfo s = execGetPdrRepositoryInfo s := rfl
@[simp] theorem exec_getPdr (record : Nat) (s : State) : exec (.getPdr record) s = execGetPdr record s := rfl
@[simp] theorem exec_getSensorReading (id : Nat) (s : State) :
    exec (.getSensorReading id) s = execGetSensorReading id s := rfl
@[simp] theorem exec_getStateSensorReadings (id : Nat) (s : State) :
    exec (.getStateSensorReadings id) s = execGetStateSensorReadings id s := rfl
@[simp] theorem exec_setNumericEffecterValue (id value : Nat) (s : State) :
    exec (.setNumericEffecterValue id value) s = execSetNumericEffecterValue id value s := rfl
@[simp] theorem exec_getNumericEffecterValue (id : Nat) (s : State) :
    exec (.getNumericEffecterValue id) s = execGetNumericEffecterValue id s := rfl
@[simp] theorem exec_getVersion (v : SpdmVia) (s : State) : exec (.getVersion v) s = execGetVersion v s := rfl
@[simp] theorem exec_getCapabilities (v : SpdmVia) (s : State) :
    exec (.getCapabilities v) s = execGetCapabilities v s := rfl
@[simp] theorem exec_negotiateAlgorithms (v : SpdmVia) (agreed : Bool) (s : State) :
    exec (.negotiateAlgorithms v agreed) s = execNegotiateAlgorithms v agreed s := rfl
@[simp] theorem exec_getDigests (v : SpdmVia) (s : State) : exec (.getDigests v) s = execGetDigests v s := rfl
@[simp] theorem exec_getCertificate (v : SpdmVia) (slot offset length : Nat) (s : State) :
    exec (.getCertificate v slot offset length) s = execGetCertificate v slot offset length s := rfl
@[simp] theorem exec_challenge (v : SpdmVia) (slot : Nat) (nonce : List Byte) (s : State) :
    exec (.challenge v slot nonce) s = execChallenge v slot nonce s := rfl
@[simp] theorem exec_getMeasurements (v : SpdmVia) (index : Nat) (signed : Bool) (nonce : List Byte) (s : State) :
    exec (.getMeasurements v index signed nonce) s = execGetMeasurements v index signed nonce s := rfl
@[simp] theorem exec_keyExchange (v : SpdmVia) (exchange : List Byte) (s : State) :
    exec (.keyExchange v exchange) s = execKeyExchange v exchange s := rfl
@[simp] theorem exec_finish (v : SpdmVia) (verified : Bool) (s : State) :
    exec (.finish v verified) s = execFinish v verified s := rfl
@[simp] theorem exec_heartbeat (v : SpdmVia) (s : State) : exec (.heartbeat v) s = execHeartbeat v s := rfl
@[simp] theorem exec_endSession (v : SpdmVia) (s : State) : exec (.endSession v) s = execEndSession v s := rfl
@[simp] theorem exec_cons (value : Word32) (s : State) : exec (.cons value) s = execCons value s := rfl
@[simp] theorem exec_errSummaryClear (value : Word32) (s : State) :
    exec (.errSummaryClear value) s = execErrSummaryClear value s := rfl
@[simp] theorem exec_lastSeq (s : State) : exec .lastSeq s = execLastSeq s := rfl
@[simp] theorem exec_lowWordRead (off : Nat) (s : State) : exec (.lowWordRead off) s = execLowWordRead off s := rfl
@[simp] theorem exec_devProgPosLo (s : State) : exec .devProgPosLo s = execDevProgPosLo s := rfl
@[simp] theorem exec_snap (value : Word32) (s : State) : exec (.snap value) s = execSnap value s := rfl
@[simp] theorem exec_baseLo (win : Nat) (value : Word32) (s : State) :
    exec (.baseLo win value) s = execBaseLo win value s := rfl
@[simp] theorem exec_bar2Read (off len : Nat) (uncorrectable : Bool) (s : State) :
    exec (.bar2Read off len uncorrectable) s = execBar2Read off len uncorrectable s := rfl
@[simp] theorem exec_bar2Write (off : Nat) (data : List Byte) (s : State) :
    exec (.bar2Write off data) s = execBar2Write off data s := rfl
@[simp] theorem exec_registerWrite (off : Nat) (value : Word32) (s : State) :
    exec (.registerWrite off value) s = execRegisterWrite off value s := rfl
@[simp] theorem exec_submit (m : Nat) (value : Word32) (s : State) :
    exec (.submit m value) s = execSubmit m value s := rfl
@[simp] theorem exec_arp (port : Nat) (a : ArpMsg) (s : State) : exec (.arp port a) s = execArp port a s := rfl
@[simp] theorem exec_rocev2Receive (k : RocePkt) (s : State) :
    exec (.rocev2Receive k) s = execRocev2Receive k s := rfl
@[simp] theorem exec_thermalEmergencyRelease (s : State) :
    exec .thermalEmergencyRelease s = execThermalEmergencyRelease s := rfl
@[simp] theorem exec_powerUp (s : State) : exec .powerUp s = execPowerUp s := rfl
@[simp] theorem exec_railInRange (r : Nat) (s : State) : exec (.railInRange r) s = execRailInRange r s := rfl
@[simp] theorem exec_ref25Return (s : State) : exec .ref25Return s = execRef25Return s := rfl
@[simp] theorem exec_pcieLinkUp (s : State) : exec .pcieLinkUp s = execPcieLinkUp s := rfl
@[simp] theorem exec_managerSessionTimeout (k : Nat) (s : State) :
    exec (.managerSessionTimeout k) s = execManagerSessionTimeout k s := rfl
@[simp] theorem exec_pairRestartComplete (pair : Nat) (s : State) :
    exec (.pairRestartComplete pair) s = execPairRestartComplete pair s := rfl
@[simp] theorem exec_unsupportedRequest (v : SpdmVia) (code : Nat) (s : State) :
    exec (.unsupportedRequest v code) s = execUnsupportedRequest v code s := rfl
@[simp] theorem exec_mask (vec : Nat) (value : Word32) (s : State) :
    exec (.mask vec value) s = execMask vec value s := rfl

end Sys2Proof.Machine
end

