-- ==== Sys2Proof/Laws/Ops.lean ====
section
/-! SUPPORT. What each shared operation can do, said once: the issue of an instruction, its trap, and the handling of a
message. -/

namespace Sys2Proof.Machine

/-- An instruction that stands at issue with a true predicate does what its body does. -/
theorem issue_runs {s : State} {n len opc k : Nat} {x : Core} {p : BitVec 4} {neg : Bool}
    {body : Nat → Core → Except Trap State} {t : State} (h : AtIssue s n len k x) (hp : predTrue x p neg = true)
    (hb : body k x = .ok t) : issue s n len opc p neg body = .next (stepped t k n) := by
  obtain ⟨h1, h2, h3, -⟩ := h
  simp [issue, h1, h2, h3, hp, hb]

/-- A core that is not being stepped for debug goes on after an instruction. -/
theorem stepped_free {s : State} {k n : Nat} (h : (coreOf s k n).oneStep = false) : stepped s k n = s := by
  simp [stepped, h]

/-- A format C instruction that changes its core only. -/
theorem issueCore_runs {s : State} {n opc k : Nat} {x y : Core} {w : CWord} {f : Nat → Core → Option Core}
    (h : AtIssue s n 8 k x) (hp : predTrue x w.pred w.pneg = true) (hf : f k x = some y) (hy : y.oneStep = false) :
    issueCore s n opc w f = .next (setCore s k n (adv y 8)) := by
  have h2 := h
  obtain ⟨h1, -, -, -⟩ := h
  unfold issueCore issueC
  rw [issue_runs (k := k) (x := x) (t := setCore s k n (adv y 8)) h2 hp (by simp [hf])]
  rw [stepped_free]
  simp [adv, hy]

/-- A core that may not issue leaves the state as it is. -/
theorem issue_idle {s : State} {n len opc : Nat} {p : BitVec 4} {neg : Bool} {body : Nat → Core → Except Trap State}
    (h : coreIssues s n = none) : issue s n len opc p neg body = .next s := by
  simp [issue, h]

/-- What the handling of a message can do: nothing where firmware does not take it, one refusal that its header decides,
or what its type does, its response and the presence of the host. -/
theorem message_cases (i : Instr) (t : MsgType) (h : MsgHdr) (s : State) (body : State → State × Nat × List Byte) :
    (takes s i h t = none ∧ message i t h s body = .next s) ∨
    (∃ box st, takes s i h t = some box ∧ refuses s box h t = some st ∧
      message i t h s body = .next (answer (untake s h t) h t.code st [])) ∨
    (∃ box, Accepted s i h t box ∧
      message i t h s body = .next (present (answer (body (untake s h t)).1 h t.code (body (untake s h t)).2.1
        (if (body (untake s h t)).2.1 = stOk then (body (untake s h t)).2.2 else [])) box)) := by
  unfold message
  cases h1 : takes s i h t with
  | none => simp
  | some box =>
    cases h2 : refuses s box h t with
    | none => exact .inr (.inr ⟨box, ⟨h1, h2⟩, by simp [h2]⟩)
    | some st => exact .inr (.inl ⟨box, st, rfl, h2, by simp [h2]⟩)

/-- An accepted message that its type completes. -/
theorem message_completes {i : Instr} {t : MsgType} {h : MsgHdr} {s : State} {box : Nat} {body : State → State × Nat × List Byte} {u : State}
    {r : List Byte} (ha : Accepted s i h t box) (hb : body (untake s h t) = (u, stOk, r)) :
    message i t h s body = .next (present (answer u h t.code stOk r) box) := by
  obtain ⟨h1, h2⟩ := ha
  simp [message, h1, h2, hb]

/-- A message always completes. -/
theorem message_next (i : Instr) (t : MsgType) (h : MsgHdr) (s : State) (body : State → State × Nat × List Byte) :
    ∃ u, message i t h s body = .next u := by
  rcases message_cases i t h s body with ⟨-, e⟩ | ⟨box, st, -, -, e⟩ | ⟨box, -, e⟩ <;> exact ⟨_, e⟩

/-- The core at issue is the one the state holds. -/
theorem atIssue_core {s : State} {n len k : Nat} {x : Core} (h : AtIssue s n len k x) : coreOf s k n = x := by
  obtain ⟨h, -⟩ := h
  unfold coreIssues coreAtWork at h
  split at h
  · cases h
  · rename_i k' c' h2
    split at h2
    · cases h2
    · rename_i k'' h3
      simp only at h2
      split at h2
      · obtain ⟨rfl, rfl⟩ : k'' = k' ∧ coreOf s k'' n = c' := by simpa using h2
        split at h
        · cases h
        · simp at h; obtain ⟨rfl, rfl⟩ := h; rfl
      · cases h2

/-- A scalar register reads what was written there last; S0 reads 0 whatever is written (R36). -/
theorem sreg_setReg (x : Core) (d r : Nat) (v : Word) : sreg (setReg x d v) r = if r = d ∧ r ≠ 0 then v else sreg x r := by
  unfold sreg setReg
  by_cases hr : r = 0
  · simp [hr]
  · by_cases hd : d = 0
    · subst hd; simp [hr]
    · by_cases h : r = d
      · subst h; simp [hr]
      · simp [hr, hd, h, look_put_other]

/-- A predicate bit reads what was written there last; PB0 reads 1 whatever is written (R36). -/
theorem predBit_setPred (x : Core) (d j : Nat) (v : Bool) (hj : j < 16) :
    predBit (setPred x d v) j = if j = d ∧ j ≠ 0 then v else predBit x j := by
  unfold predBit setPred
  by_cases h0 : j = 0
  · simp [h0]
  · by_cases hd : d = 0
    · subst hd; simp [h0]
    · by_cases h : j = d
      · subst h; cases v <;> simp [h0, hj]
      · cases v <;> simp [h0, hd, h, hj] <;> intro _ <;> omega

@[simp] theorem setReg_oneStep (x : Core) (d : Nat) (v : Word) : (setReg x d v).oneStep = x.oneStep := by
  unfold setReg; split <;> rfl
@[simp] theorem setReg_preds (x : Core) (d : Nat) (v : Word) : (setReg x d v).preds = x.preds := by
  unfold setReg; split <;> rfl
@[simp] theorem setReg_pc (x : Core) (d : Nat) (v : Word) : (setReg x d v).pc = x.pc := by
  unfold setReg; split <;> rfl
@[simp] theorem setPred_oneStep (x : Core) (d : Nat) (v : Bool) : (setPred x d v).oneStep = x.oneStep := by
  unfold setPred; split <;> rfl
@[simp] theorem setPred_sregs (x : Core) (d : Nat) (v : Bool) : (setPred x d v).sregs = x.sregs := by
  unfold setPred; split <;> rfl
@[simp] theorem setPred_pc (x : Core) (d : Nat) (v : Bool) : (setPred x d v).pc = x.pc := by
  unfold setPred; split <;> rfl
@[simp] theorem adv_pc (x : Core) (l : Nat) : (adv x l).pc = x.pc + BitVec.ofNat 64 l := rfl
@[simp] theorem adv_sregs (x : Core) (l : Nat) : (adv x l).sregs = x.sregs := rfl
@[simp] theorem adv_preds (x : Core) (l : Nat) : (adv x l).preds = x.preds := rfl
@[simp] theorem adv_oneStep (x : Core) (l : Nat) : (adv x l).oneStep = x.oneStep := rfl
@[simp] theorem sreg_adv (x : Core) (l r : Nat) : sreg (adv x l) r = sreg x r := rfl
@[simp] theorem predBit_adv (x : Core) (l j : Nat) : predBit (adv x l) j = predBit x j := rfl

/-- A write of a core touches nothing but that core. -/
theorem onlyCore_setCore (s : State) (k n : Nat) (y : Core) : OnlyCore s (setCore s k n y) k n :=
  ⟨rfl, fun q m h => coreOf_setCore_other s k n q m y h⟩

/-- A register written and the PC moved are the only changes of a core. -/
theorem sameButRegs_setReg (x : Core) (d l : Nat) (v : Word) : SameButRegs x (adv (setReg x d v) l) := by
  unfold SameButRegs adv setReg; split <;> rfl

theorem sameButRegs_setPred (x : Core) (d l : Nat) (v : Bool) : SameButRegs x (adv (setPred x d v) l) := by
  unfold SameButRegs adv setPred; split <;> rfl

/-- An event raised changes the log, the trace, the counters, the host's registers, what firmware and the network send,
the board's alert and the books of contexts, and nothing else (R379 to R387). -/
theorem raise_frame (s : State) (code cls k u : Nat) (p : List Byte) :
    (raise s code cls k u p).cores = s.cores ∧ (raise s code cls k u p).mem = s.mem ∧
    (raise s code cls k u p).place = s.place ∧ (raise s code cls k u p).power = s.power ∧
    (raise s code cls k u p).chain = s.chain ∧ (raise s code cls k u p).clock = s.clock ∧
    (raise s code cls k u p).sec = s.sec ∧ (raise s code cls k u p).pending = s.pending ∧
    (raise s code cls k u p).freeCtr = s.freeCtr := ⟨rfl, rfl, rfl, rfl, rfl, rfl, rfl, rfl, rfl⟩

/-- A core held before its instruction changes in nothing but its hold. -/
theorem hold_core {s : State} {k n : Nat} {x : Core} (h : Held) (hx : coreOf s k n = x) :
    OnlyCore s (hold s k n h) k n ∧
    coreOf (hold s k n h) k n = { x with held := some h, heldSince := (coreOf (hold s k n h) k n).heldSince } := by
  unfold hold
  simp only [hx]
  split
  · rename_i e
    refine ⟨⟨rfl, fun _ _ _ => rfl⟩, ?_⟩
    simp [hx, ← e]
  · exact ⟨onlyCore_setCore _ _ _ _, by simp⟩

/-- A level-3 program executes the instructions that level 2 lacks (R41). -/
theorem level3_runs {s : State} {n len k opc : Nat} {x : Core} {o : Out} (h : AtIssue s n len k x) (hl : x.level = 3) :
    level3 s n opc o = o := by
  simp [level3, h.1, hl]

/-- An event has at most nine records. -/
theorem pieces_length (f : Nat) (p : List Byte) : (pieces f p).length ≤ f + 1 := by
  induction f generalizing p with
  | zero => simp [pieces]
  | succ f ih =>
    simp only [pieces]
    split
    · simp
    · simp only [List.length_cons]; have := ih (p.drop 12); omega

/-- The log ends with the event added last (R382). -/
theorem logAdd_last (l : List Event) (e : Event) : (logAdd l e).getLast? = some e := by
  induction l with
  | nil => rfl
  | cons x r ih => unfold logAdd; split; exact ih; exact List.getLast?_concat (l := x :: r)

theorem traceO_log (o : Observe) (t : TraceRec) : (traceO o t).log = o.log := by
  unfold traceO; simp only; split <;> rfl

theorem enterHandling_log (o : Observe) (h : Handling) : (enterHandling o h).log = o.log := by
  unfold enterHandling
  repeat' split
  all_goals rfl

/-- An event raised is the last of the log, with the class R387 gives it (R380, R382). -/
theorem raise_last (s : State) (code cls k u : Nat) (p : List Byte) :
    (raise s code cls k u p).obs.log.getLast? = some (mkEvent s code cls k u p) := by
  unfold raise raiseOn
  simp only
  split
  · rw [enterHandling_log]; exact logAdd_last _ _
  · exact logAdd_last _ _

/-- Every event raised is recorded: the log holds what it held with the event after it (R382). -/
theorem raise_log (s : State) (code cls k u : Nat) (p : List Byte) :
    (raise s code cls k u p).obs.log = logAdd s.obs.log (mkEvent s code cls k u p) := by
  unfold raise raiseOn
  simp only
  split
  · rw [enterHandling_log]
  · rfl

end Sys2Proof.Machine
end

