-- ==== Sys2Proof/Certificates/Slice0/Obligations.lean ====
section
/-! DEFINITION. The statements about the block, for the provers. -/

open Sys2Proof Sys2Proof.Machine


/-! ## The sequencer's control instructions (R36, R48, R51, R52, R56) -/

/-- What an instruction that writes a scalar register writes there: the result of ALU and ALUI, MOVHI's two halves, the
system value of SYSRD, and the address after JAL (R48, R51). -/
def scalarResult (s : State) (k c : Nat) (x : Core) (w : CWord) (i : Instr) (v : Word) : Prop :=
  (i = .alu c w ∧ aluFn w.func.toNat (sreg x w.srca.toNat) (sreg x w.srcb.toNat) = some v) ∨
  (i = .alui c w ∧ aluFn w.func.toNat (sreg x w.srca.toNat) (w.imm.signExtend 64) = some v) ∨
  (i = .movhi c w ∧ v = w.imm ++ (sreg x w.dst.toNat).extractLsb' 0 32) ∨
  (i = .sysrd c w ∧ (sysValue s k c x w.func.toNat w.imm.toNat).map (BitVec.ofNat 64) = some v) ∨
  (i = .jal c w ∧ v = x.pc + 8)

/-- ALU, ALUI, MOVHI, SYSRD and JAL complete: the destination register reads the result, register 0 reads 0, every other
register reads as before, the PC moves on (to A + 8 × IMM for JAL), and nothing else changes: no predicate, no token, no
byte of memory, no other core (R36, R48, R51, R52). -/
def Obligations.ScalarResults : Prop :=
  ∀ (s : State) (c k : Nat) (x : Core) (w : CWord) (i : Instr) (v : Word),
    AtIssue s c 8 k x → predTrue x w.pred w.pneg = true → scalarResult s k c x w i v →
    Completes i s (fun t => OnlyCore s t k c ∧ SameButRegs x (coreOf t k c) ∧ (coreOf t k c).preds = x.preds ∧
      (∀ r, sreg (coreOf t k c) r = if r = w.dst.toNat ∧ r ≠ 0 then v else sreg x r) ∧
      (coreOf t k c).pc = if i = .jal c w then x.pc + 8 * w.imm.signExtend 64 else x.pc + 8)

/-- What an instruction that writes a predicate writes there (R51). -/
def predicateResult (c : Nat) (x : Core) (w : CWord) (i : Instr) (v : Bool) : Prop :=
  (i = .cmp c w ∧ compare w.func.toNat (sreg x w.srca.toNat) (sreg x w.srcb.toNat) = some v) ∨
  (i = .cmpi c w ∧ compare w.func.toNat (sreg x w.srca.toNat) (w.imm.signExtend 64) = some v) ∨
  (i = .pred c w ∧ predFn w.func.toNat (predBit x (w.srca.toNat % 16)) (predBit x (w.srcb.toNat % 16)) = some v)

/-- CMP, CMPI and PRED complete: the predicate bit they name reads the result, PB0 reads 1, every other predicate bit
reads as before, and nothing but the PC changes besides (R36, R51, R52). -/
def Obligations.PredicateResults : Prop :=
  ∀ (s : State) (c k : Nat) (x : Core) (w : CWord) (i : Instr) (v : Bool),
    AtIssue s c 8 k x → predTrue x w.pred w.pneg = true → w.dst.getLsbD 4 = false → predicateResult c x w i v →
    Completes i s (fun t => OnlyCore s t k c ∧ SameButRegs x (coreOf t k c) ∧ (coreOf t k c).sregs = x.sregs ∧
      (∀ j, j < 16 → predBit (coreOf t k c) j = if j = w.dst.toNat ∧ j ≠ 0 then v else predBit x j) ∧
      (coreOf t k c).pc = x.pc + 8)

/-- An instruction that writes no register and no predicate, where it goes, the operating point it asks for and the token it
takes from: NOP, BR to A + 8 × IMM (A its own address), JR to its register, OPHINT of a level-3 program, and WTOK with a count
of at least 1 (R48, R56, R314). -/
def flowResult (c : Nat) (x : Core) (w : CWord) (i : Instr) (to' : Word) (hint : Nat) (tok : Option Nat) : Prop :=
  (i = .nop c w ∧ to' = x.pc + 8 ∧ hint = x.hint ∧ tok = none) ∨
  (i = .br c w ∧ to' = x.pc + 8 * w.imm.signExtend 64 ∧ hint = x.hint ∧ tok = none) ∨
  (i = .jr c w ∧ to' = sreg x w.srca.toNat ∧ to'.toNat % 8 = 0 ∧ hint = x.hint ∧ tok = none) ∨
  (i = .ophint c w ∧ x.level = 3 ∧ to' = x.pc + 8 ∧ hint = w.imm.toNat % 4 ∧ tok = none) ∨
  (i = .wtok c w ∧ w.imm.toNat % 64 < 40 ∧ 1 ≤ token x (w.imm.toNat % 64) ∧ to' = x.pc + 8 ∧ hint = x.hint ∧
    tok = some (w.imm.toNat % 64))

/-- The format C instructions. -/
def formatC (c : Nat) (w : CWord) : List Instr :=
  [.nop c w, .endProgram c w, .alu c w, .alui c w, .movhi c w, .cmp c w, .cmpi c w, .pred c w, .br c w, .jal c w, .jr c w, .ld c w,
   .st c w, .sysrd c w, .wtok c w, .spanBegin c w, .spanEnd c w, .stepProgram c w, .markPush c w, .markPop c w, .ophint c w]

/-- NOP, BR, JR, OPHINT and WTOK complete: the PC goes where each sends it, OPHINT notes the operating point asked for, WTOK
takes one from its token, and no register, predicate, other token, byte of memory or other core changes (R48, R51, R56, R314;
that the IMM of BR is sign-extended is the model's reading, log 11). Under a false predicate every format C instruction,
of a level-3 program, moves on by 8 bytes and does nothing else (R52). -/
def Obligations.ControlFlow : Prop :=
  (∀ (s : State) (c k : Nat) (x : Core) (w : CWord) (i : Instr) (to' : Word) (hint : Nat) (tok : Option Nat),
    AtIssue s c 8 k x → predTrue x w.pred w.pneg = true → flowResult c x w i to' hint tok →
    Completes i s (fun t => OnlyCore s t k c ∧
      SameButRegs { x with tokens := (coreOf t k c).tokens, hint := (coreOf t k c).hint } (coreOf t k c) ∧
      (∀ r, sreg (coreOf t k c) r = sreg x r) ∧ (∀ j, predBit (coreOf t k c) j = predBit x j) ∧ (coreOf t k c).pc = to' ∧
      (coreOf t k c).hint = hint ∧ ∀ u, token (coreOf t k c) u = if tok = some u then token x u - 1 else token x u)) ∧
  (∀ (s : State) (c k : Nat) (x : Core) (w : CWord) (i : Instr), i ∈ formatC c w → x.level = 3 →
    AtIssue s c 8 k x → predTrue x w.pred w.pneg = false →
    Completes i s (fun t => OnlyCore s t k c ∧ SameButRegs x (coreOf t k c) ∧ (coreOf t k c).sregs = x.sregs ∧
      (coreOf t k c).preds = x.preds ∧ (coreOf t k c).pc = x.pc + 8))

/-- A core whose WTOK finds a count of 0, and one whose END, STEP, SPAN.BEGIN or SPAN.END finds an engine with work, waits:
its PC, registers, tokens and everything outside the core stay, and the same instruction is met again (R56, R57, R63,
R64). -/
def Obligations.SequencerWaits : Prop :=
  ∀ (s : State) (c k : Nat) (x : Core) (w : CWord) (i : Instr), AtIssue s c 8 k x → predTrue x w.pred w.pneg = true →
    ((i = .wtok c w ∧ w.imm.toNat % 64 < 40 ∧ token x (w.imm.toNat % 64) = 0) ∨
     (enginesEmpty x = false ∧ ((i = .endProgram c w ∧ x.pass = 0) ∨ (i = .stepProgram c w ∧ x.pass = 0 ∧ w.imm.toNat < 4) ∨
       (i = .spanBegin c w ∧ x.pass = 0 ∧ x.level = 3) ∨ (i = .spanEnd c w ∧ x.pass ≠ 0 ∧ x.level = 3)))) →
    Completes i s (fun t => OnlyCore s t k c ∧
      coreOf t k c = { x with held := (coreOf t k c).held, heldSince := (coreOf t k c).heldSince } ∧ (coreOf t k c).held ≠ none)

/-- LD of a clean, readable place completes: the destination register reads the bytes there, zero-extended; ST to a
writable place completes: the low bytes of SRCB stand there, and every byte of memory outside the bytes stored reads as
before. The address is SRCA plus the sign-extended IMM, translated for the context. Besides, only the cache's lines and
the HBM budget of the context change. No data breakpoint watches the access, no memory error stands, no span is open
and no collective is in flight in the context (R51, R68, R71, R80, R99, R437); that IMM is sign-extended is the model's
reading (log 11). -/
def Obligations.ScalarMemory : Prop :=
  ∀ (s : State) (c k : Nat) (x : Core) (w : CWord) (n d : Nat), AtIssue s c 8 k x → predTrue x w.pred w.pneg = true → Quiet s k x →
    widthOf w.func.toNat = some n → (sreg x w.srca.toNat + w.imm.signExtend 64).toNat % n = 0 →
    (translate s k c (sreg x w.srca.toNat + w.imm.signExtend 64).toNat .read = .ok (.mem d) → poisonedDpa s.mem d n = false →
      dataBp x (sreg x w.srca.toNat + w.imm.signExtend 64).toNat n false = false →
      Completes (.ld c w) s (fun t => SameBytes s t ∧ OnlyPays s t k c ∧ SameButRegs x (coreOf t k c) ∧ (coreOf t k c).preds = x.preds ∧
        (∀ r, sreg (coreOf t k c) r = if r = w.dst.toNat ∧ r ≠ 0 then BitVec.ofNat 64 (leNat (readDpa s.mem d n)) else sreg x r) ∧
        (coreOf t k c).pc = x.pc + 8)) ∧
    (MemCanonical s → translate s k c (sreg x w.srca.toNat + w.imm.signExtend 64).toNat .write = .ok (.mem d) →
      dataBp x (sreg x w.srca.toNat + w.imm.signExtend 64).toNat n true = false →
      Completes (.st c w) s (fun t => OnlyPays s t k c ∧ t.mem.poison = s.mem.poison ∧
        coreOf t k c = { x with pc := x.pc + 8, held := none, skipBp := false } ∧
        ∀ a, memByte t.mem a =
          if d ≤ a ∧ a < d + n then nth (leBytes n (sreg x w.srcb.toNat).toNat) (a - d) 0 else memByte s.mem a))

/-- The instructions whose fields the spec calls a program's own mistake: a reserved FUNC of ALU, ALUI, CMP, CMPI, PRED,
SYSRD, LD and ST, a predicate destination with its reserved bit set, a token code that names no engine, a jump to an address
that is no multiple of 8 and a scalar access that is no multiple of its width (R43, R45, R51, R67). -/
def ownMistake (c : Nat) (x : Core) (w : CWord) (i : Instr) : Prop :=
  (i = .alu c w ∧ 14 ≤ w.func.toNat) ∨ (i = .alui c w ∧ 14 ≤ w.func.toNat) ∨
  (i = .cmp c w ∧ (6 ≤ w.func.toNat ∨ w.dst.getLsbD 4 = true)) ∨ (i = .cmpi c w ∧ (6 ≤ w.func.toNat ∨ w.dst.getLsbD 4 = true)) ∨
  (i = .pred c w ∧ (7 ≤ w.func.toNat ∨ w.dst.getLsbD 4 = true)) ∨
  (i = .sysrd c w ∧ (10 ≤ w.func.toNat ∨ (w.func.toNat = 9 ∧ 40 ≤ w.imm.toNat % 64))) ∨
  (i = .wtok c w ∧ 40 ≤ w.imm.toNat % 64) ∨ (i = .jr c w ∧ (sreg x w.srca.toNat).toNat % 8 ≠ 0) ∨
  ((i = .ld c w ∨ i = .st c w) ∧ (4 ≤ w.func.toNat ∨
    ∃ n, widthOf w.func.toNat = some n ∧ (sreg x w.srca.toNat + w.imm.signExtend 64).toNat % n ≠ 0))

/-- A program's own mistakes of `ownMistake` give an unpredictable result of its context and of nothing else: the command
answers what that free result leaves, with every other context, its cores and its readable memory, the placement, power, clocks,
Chain, keys and counters of the part as they were (R9, R67; what the result does within the context is a free value, log 118).
A reserved opcode raises ILLEGAL_OPCODE and a privileged opcode PRIVILEGED_INSTRUCTION, both of class J unless another
event in handling changes that, before the instruction issues: the latest record of the log has that code, the core issues
no further, and its PC and memory stay (R50). -/
def Obligations.ControlStops : Prop :=
  (∀ (s : State) (c k : Nat) (x : Core) (w : CWord) (i : Instr), AtIssue s c 8 k x → predTrue x w.pred w.pneg = true → k < 64 →
      MemCanonical s → ownMistake c x w i → Completes i s (fun t => t = wild s k ∧ Confined s t k)) ∧
  (∀ (s : State) (c k : Nat) (x : Core) (opc : BitVec 8), AtIssue s c 8 k x →
      (isReserved opc = true → Completes (.illegalOpcode c opc) s (fun t =>
        (t.obs.log.getLast?.map (fun e => (e.code, e.ctx, e.unit))) = some (0x0208, k, 0xB000 + c) ∧
        coreOf t k c = { x with faulted := true } ∧ t.mem = s.mem)) ∧
      (isPrivileged opc = true → Completes (.privilegedInstruction c opc) s (fun t =>
        (t.obs.log.getLast?.map (fun e => (e.code, e.ctx, e.unit))) = some (0x0209, k, 0xB000 + c) ∧
        coreOf t k c = { x with faulted := true } ∧ t.mem = s.mem)))

/-- MARK.PUSH below depth 16 puts its id on top of the marker stack, and at depth 16 changes nothing of it; MARK.POP takes
the top off, and at depth 0 changes nothing of it; each one not applied is counted in counter 0x0018, and neither is an
error. Memory, registers and every other core stay (R436). 
END of a core whose engines are empty, outside a span and with no pause asked for, ends the core when another core of
the launch has not ended; its tokens are discarded (R57). STEP without COMMIT adds 1 to the step number (R388). SPAN.BEGIN
of a level-3 program with a well-formed record opens pass 1 with a snapshot of the registers, predicates, tokens and marker
depth (R63, R176). SPAN.END with the latch clear leaves the span (R64). -/
def Obligations.MarkersAndEnds : Prop :=
  (∀ (s : State) (c k : Nat) (x : Core) (w : CWord), AtIssue s c 8 k x → predTrue x w.pred w.pneg = true →
      Completes (.markPush c w) s (fun t => t.mem = s.mem ∧ t.ctxs = s.ctxs ∧
        t.cores = (setCore s k c { x with
          marks := if x.depth < 16 then put x.marks x.depth w.imm else x.marks
          depth := if x.depth < 16 then x.depth + 1 else x.depth
          pc := x.pc + 8, held := none, skipBp := false }).cores ∧
        counter t 2 c 0x18 = counter s 2 c 0x18 + (if x.depth < 16 then 0 else 1)) ∧
      Completes (.markPop c w) s (fun t => t.mem = s.mem ∧ t.ctxs = s.ctxs ∧
        t.cores = (setCore s k c { x with depth := x.depth - 1, pc := x.pc + 8, held := none, skipBp := false }).cores ∧
        counter t 2 c 0x18 = counter s 2 c 0x18 + (if 0 < x.depth then 0 else 1))) ∧
  (∀ (s : State) (c k : Nat) (x : Core) (w : CWord), AtIssue s c 8 k x → predTrue x w.pred w.pneg = true → enginesEmpty x = true →
      (ctxOf s k).pauseReq = false →
      (x.pass = 0 → (∃ n ∈ launchCores (ctxOf s k), n ≠ c ∧ n < 320 ∧ (coreOf s k n).ended = false) → c < 320 →
        Completes (.endProgram c w) s (fun t => OnlyCore s t k c ∧ (coreOf t k c).ended = true ∧ (∀ u, token (coreOf t k c) u = 0) ∧
          (coreOf t k c).sregs = x.sregs ∧ (coreOf t k c).preds = x.preds ∧ (coreOf t k c).pc = x.pc + 8)) ∧
      (x.pass = 0 → w.imm.toNat = 0 ∨ w.imm.toNat = 2 →
        Completes (.stepProgram c w) s (fun t => OnlyCore s t k c ∧
          SameButRegs { x with stepNo := x.stepNo + 1 } (coreOf t k c) ∧ (coreOf t k c).sregs = x.sregs ∧
          (coreOf t k c).preds = x.preds ∧ (coreOf t k c).pc = x.pc + 8)) ∧
      (∀ r s1, x.pass = 0 → x.level = 3 → readSpan s k c (sreg x w.srca.toNat).toNat = .ok r →
        writeVas s k c (slotWrs (sreg x w.srca.toNat).toNat 0 (fun e => e.primary) r.entries) = .ok s1 → coreOf s1 k c = x →
        Completes (.spanBegin c w) s (fun t => t.mem = s1.mem ∧ (coreOf t k c).pass = 1 ∧ (coreOf t k c).spanId = w.imm ∧
          (coreOf t k c).snap = ⟨x.sregs, x.preds, x.tokens, x.pc + 8, x.depth⟩ ∧ (coreOf t k c).latch = false ∧
          (coreOf t k c).pc = x.pc + 8)) ∧
      (x.pass = 1 → x.level = 3 → x.latch = false → x.obs = [] →
        Completes (.spanEnd c w) s (fun t => OnlyCore s t k c ∧ SameButRegs { x with pass := 0 } (coreOf t k c) ∧
          (coreOf t k c).sregs = x.sregs ∧ (coreOf t k c).preds = x.preds ∧ (coreOf t k c).pc = x.pc + 8)))

/-! ## Engine queues (R45 to R47, R53 to R56) -/

/-- A tensor, stream, sync or collective instruction whose engine has room joins its queue, last, with its word, its
operands as its registers read now, and the pass of its span; the other queues stay, the PC moves 16 bytes on and nothing
else changes. With 32 waiting, the sequencer is held before it (R46, R52, R53).
A tensor instruction with a reserved field, SUB bit, operand kind or wait, and one that a span does not allow, give an
unpredictable result of their context; one of level 3 in a level-2 program raises ILLEGAL_OPCODE; a collective whose group
word names no binding of the context raises COLL_GROUP_INVALID at decode and stops its core (R41, R47, R65, R67, R284;
what an unpredictable result does within the context is a free value, log 118). -/
def Obligations.TensorIssues : Prop :=
  (∀ (s : State) (c k : Nat) (x : Core) (op : TOp) (w : TWord) (q : QInstr) (i : Instr),
      tensorCmd op c (.issue w) = some i → AtIssue s c 16 k x → predTrue x w.pred w.pneg = true → mkEntry x op w = some q →
      (x.pass = 0 ∨ replayOk op = true) → (x.level = 3 ∨ atLevel2 op = true) → (∀ n, op = .coll n → groupOk s k q.ob.val = true) →
      ((queueOf x (engOf op)).length < 32 →
        Completes i s (fun t => OnlyCore s t k c ∧
          (q.op = op ∧ q.w = w ∧ operand x w.opd = some q.od ∧ operand x w.opa = some q.oa ∧ operand x w.opb = some q.ob ∧
            operand x w.opx = some q.ox ∧ q.pass = x.pass) ∧
          queueOf (coreOf t k c) (engOf op) = queueOf x (engOf op) ++ [q] ∧
          (∀ e, e ≠ engOf op → queueOf (coreOf t k c) e = queueOf x e) ∧
          coreOf t k c = { x with
            queues := (coreOf t k c).queues, headSince := (coreOf t k c).headSince
            pc := x.pc + 16, held := none, skipBp := false })) ∧
      (32 ≤ (queueOf x (engOf op)).length →
        Completes i s (fun t => OnlyCore s t k c ∧
          coreOf t k c = { x with held := some (.queueFull (engOf op)), heldSince := (coreOf t k c).heldSince }))) ∧
  (∀ (s : State) (c k : Nat) (x : Core) (op : TOp) (w : TWord) (i : Instr),
      tensorCmd op c (.issue w) = some i → AtIssue s c 16 k x → predTrue x w.pred w.pneg = true →
      (x.level = 2 → atLevel2 op = false → Completes i s (fun t =>
        (t.obs.log.getLast?.map (fun e => (e.code, e.ctx))) = some (0x0208, k) ∧ coreOf t k c = { x with faulted := true })) ∧
      ((x.level = 3 ∨ atLevel2 op = true) →
        (mkEntry x op w = none → Completes i s (fun t => t = wild s k)) ∧
        (∀ q, mkEntry x op w = some q →
          (x.pass ≠ 0 → replayOk op = false → Completes i s (fun t => t = wild s k)) ∧
          (∀ n, x.pass = 0 → op = .coll n → groupOk s k q.ob.val = false → Completes i s (fun t =>
            (t.obs.log.getLast?.map (fun e => (e.code, e.ctx))) = some (0x0505, k) ∧ coreOf t k c = { x with faulted := true })))))

/-- An instruction at the head of its queue starts when a place in flight is free and its waits are met: it leaves the
queue, its waits take what they wait for, and it is in flight with the descriptors it reads now; the registers, predicates
and PC of the core and the bytes of memory stay. While its waits are not met it stays where it is, and nothing is taken
(R54, R56, R60, R61; a FETCH, which goes on the fetch list, is in `TransfersPlanned`).
An instruction whose work is done, with no burst of it left in a replay buffer, completes: it is in flight no more, and with
SIGV its token gains one and no other token changes; a stream instruction writes its status entry, entry SIGT with SIGV and
entry 8 without, with its opcode, status and tag. The bytes of memory, registers and the PC stay. A token at 255 cannot be
signalled: the instruction completes, and the result is unpredictable (R54 to R56, R94, R250). -/
def Obligations.EngineStartsAndEnds : Prop :=
  (∀ (s : State) (c k : Nat) (x : Core) (e : Engine) (q : QInstr) (r : List QInstr),
      coreAtWork s c = some (k, x) → queueOf x e = q :: r → q.op ≠ .fetch → (partSt s.place (partOf s.place c)).preempting = false →
      inFlight x e < inFlightMax e → NoBreakpoint x → Quiet s k x →
      (∀ x2 f, waitsMet x q.w = true →
        x2 = setFlights { consume (setQueue x e r) q.w with
          nextId := x.nextId + 1
          headSince := if r = [] then drop x.headSince (engCode e) else put x.headSince (engCode e) s.clock.ns } e
          (flightsOf x e ++ [{ id := x.nextId, q := q, started := s.clock.ns }]) →
        capture (setCore s k c x2) k c x2 { id := x.nextId, q := q, started := s.clock.ns } = .ok f →
        (∀ g ∈ flightsOf x e, g.id < x.nextId) →
        Completes (.engineInstructionStart c e) s (fun t => SameBytes s t ∧ OnlyPays s t k c ∧ queueOf (coreOf t k c) e = r ∧
          flightAt (coreOf t k c) e x.nextId = some f ∧ f.q = q ∧ (coreOf t k c).sregs = x.sregs ∧
          (coreOf t k c).preds = x.preds ∧ (coreOf t k c).pc = x.pc ∧ (coreOf t k c).tokens = (consume x q.w).tokens)) ∧
      (waitsMet x q.w = false → Completes (.engineInstructionStart c e) s (fun t => t = s))) ∧
  (∀ (s : State) (c k id : Nat) (x : Core) (e : Engine) (f : Flight),
      coreInFlight s c e = some (k, x) → flightAt x e id = some f → f.ready = true → onChain s k c id = false →
      ((f.q.w.sigv = true → token x (8 * engCode e + f.q.w.sigt.toNat) < 255) →
        Completes (.engineInstructionComplete c e id) s (fun t => SameBytes s t ∧ (coreOf t k c).sregs = x.sregs ∧
          (coreOf t k c).preds = x.preds ∧ (coreOf t k c).pc = x.pc ∧ flightAt (coreOf t k c) e id = none ∧
          (∀ u, token (coreOf t k c) u = if f.q.w.sigv = true ∧ u = 8 * engCode e + f.q.w.sigt.toNat then token x u + 1 else token x u) ∧
          (e = .stream → ∃ v, v = look (coreOf t k c).stat {} (if f.q.w.sigv then f.q.w.sigt.toNat else 8) ∧
            v.opc = opcOf f.q.op ∧ v.status = f.status ∧ v.tag = f.q.w.imm ∧ v.orphaned = f.orphaned ∧ v.poisonSeen = f.poisonSeen))) ∧
      (f.q.w.sigv = true → 255 ≤ token x (8 * engCode e + f.q.w.sigt.toNat) →
        Completes (.engineInstructionComplete c e id) s (fun t => ∃ u, t = wild u k ∧ SameBytes s u ∧
          flightAt (coreOf u k c) e id = none ∧ (coreOf u k c).tokens = x.tokens)))

/-! ## The array, the matrix-vector unit and the vector engine -/

/-- What an instruction of these engines does with what it captured (R105 to R215). -/
def computeWork (s : State) (k c : Nat) (x : Core) (f : Flight) (op : TOp) : Option (Except Trap Eff) :=
  match op with
  | .mma => some (mmaEff s k c x f)
  | .mmaLd => some (mmaLdEff s k c f)
  | .mda => some (mdaEff s k c x f)
  | .mvm => some (mvmEff s k c f)
  | .vop => some (vopEff s k c x f)
  | .topk => some (topkEff s k c f)
  | .norm => some (normEff s k c f)
  | .softmax => some (softmaxEff s k c f)
  | .cvt => some (cvtEff s k c x f)
  | .stat => some (statEff s k c x f)
  | .upd => some (updEff s k c f)
  | _ => none

/-- Whether an instruction of these engines must wait: its accesses read HBM and the context's level is not positive, or a
buffer on its way to memory beyond its own scratchpad has no credit (R90, R100, R202). -/
def workWaits (s : State) (k c : Nat) (f : Flight) (e : Eff) : Bool :=
  hbmWaits s k c (workAccesses f e) ||
    !hasCredits s.chain (accessBufs s c (touches s k c (workAccesses f e)) s.chain.nextTag) crDemand

/-- An instruction of the array, the matrix-vector unit or the vector engine whose operands are well formed and readable and
do not overlap, and whose outputs are writable, does its work whole: its stores are made and memory's bytes and poison change
by nothing else, and it is ready to complete; what the program sees of the core stays. MMA and MDA with CHUNK wait until the
frames of their weights are ready, and every one waits for a positive HBM level and for credits (R54, R66, R90, R100, R128, R202).
An instruction of these engines that meets a poisoned control read, an address that is not mapped or a permission it
lacks has no effect on memory: its event is raised, and it never completes. One whose operands are malformed, or overlap one it
writes, gives an unpredictable result of its context (R61, R66, R67, R104). -/
def Obligations.ComputeWork : Prop :=
  (∀ (s s1 : State) (c k id : Nat) (x : Core) (op : TOp) (f : Flight) (e : Eff) (i : Instr),
      tensorCmd op c (.run id) = some i → ToDo s c k x (engOf op) op id f →
      ((op = .mma ∨ op = .mda) → chunkGo x f = true) → computeWork s k c x f op = some (.ok e) → operandsMeet s k c f = false →
      writeVas s k c e.ws = .ok s1 → NoBreakpoint x → Quiet s k x →
      (workWaits s k c f e = false → Completes i s (fun t => SameBytes s1 t ∧ SameProgram x (coreOf t k c) ∧
        flightAt (coreOf t k c) (engOf op) id = some { f with ran := true, ready := true })) ∧
      (workWaits s k c f e = true → Completes i s (fun t => t = s))) ∧
  (∀ (s : State) (c k id : Nat) (x : Core) (op : TOp) (f : Flight) (i : Instr),
      tensorCmd op c (.run id) = some i → ToDo s c k x (engOf op) op id f →
      ((op = .mma ∨ op = .mda) → chunkGo x f = true) →
      (∀ va, s.mem.upsets = [] → computeWork s k c x f op = some (.error (.trans va)) ∨ computeWork s k c x f op = some (.error (.perm va)) ∨
          computeWork s k c x f op = some (.error (.consumed va)) →
        Completes i s (fun t => t.mem = s.mem ∧ SameProgram x (coreOf t k c) ∧
          flightAt (coreOf t k c) (engOf op) id = some { f with trapped := true } ∧
          (t.obs.log.getLast?.map (fun e => (e.code, e.ctx, e.unit))) =
            some (if computeWork s k c x f op = some (.error (.trans va)) then 0x0204
              else if computeWork s k c x f op = some (.error (.perm va)) then 0x0205 else 0x0206, k, unitCore c))) ∧
      (computeWork s k c x f op = some (.error (.unpred .malformed)) ∨
          (∃ e, computeWork s k c x f op = some (.ok e) ∧ operandsMeet s k c f = true) →
        Completes i s (fun t => ∃ u, t = wild u k ∧ u.mem = s.mem ∧ OnlyCore s u k c ∧ SameProgram x (coreOf u k c) ∧
          flightAt (coreOf u k c) (engOf op) id = some { f with trapped := true })) ∧
      ((op = .mma ∨ op = .mda) → chunkGo x f = false → Completes i s (fun t => t = s)))

/-! ## The stream engine -/

/-- XFER, FETCH and RIDGE that break none of the conditions on their tensors, and whose operands do not overlap, are planned:
the whole destination is due, in at most 64 parts that make it up, none of it moved yet. An XFER and a RIDGE are issued at
once; a FETCH joins the fetch list, which beyond 256 entries needs HBM of the partition, and without it raises
FETCH_SPILL_EXHAUSTED; a RIDGE's destination is the same offset of another core's scratchpad. No byte of memory and nothing
else of the program changes (R67, R87 to R91, R95, R101). -/
def Obligations.TransfersPlanned : Prop :=
  ∀ (s : State) (c k id : Nat) (x : Core) (f : Flight) (a d : Desc) (bl : List Nat), f.a = some a → f.d = some d →
    (ToDo s c k x .stream .xfer id f → transferBlocks s k c f a d = .ok bl → operandsMeet s k c f = false →
      Completes (.xfer c (.run id)) s (fun t => OnlyCore s t k c ∧ SameProgram x (coreOf t k c) ∧
        ∃ g, flightAt (coreOf t k c) .stream id = some g ∧ g.blocks = bl ∧ g.total = count d ∧ g.issued = count d ∧
          g.parts.length ≤ 64 ∧ (g.parts.map (fun p => p.count)).sum = count d ∧
          g.pos = f.pos ∧ g.d = some d ∧ g.ran = true ∧ g.listed = f.listed)) ∧
    (ToDo s c k x .stream .fetch id f → f.listed = false → transferBlocks s k c f a d = .ok bl → operandsMeet s k c f = false →
      (f.q.w.sub.getLsbD 9 = false ∨ x.level = 2 ∨ (f.q.ob.isReg = true ∧ f.q.ob.val % 8 = 0)) →
      (∀ s1, growSpill s k c = some s1 → Completes (.fetch c (.run id)) s (fun t => SameBytes s t ∧ t.ctxs = s.ctxs ∧
        ((listed x).length < 256 → OnlyCore s t k c) ∧ SameProgram x (coreOf t k c) ∧
        ∃ g, flightAt (coreOf t k c) .stream id = some g ∧ g.blocks = bl ∧ g.total = count d ∧ g.issued = f.issued ∧
          g.parts.length ≤ 64 ∧ (g.parts.map (fun p => p.count)).sum = count d ∧
          g.pos = f.pos ∧ g.listed = true ∧ g.ran = true)) ∧
      (growSpill s k c = none → Completes (.fetch c (.run id)) s (fun t => t.mem = s.mem ∧ SameProgram x (coreOf t k c) ∧
        (t.obs.log.getLast?.map (fun e => (e.code, e.ctx, e.unit))) = some (0x0207, k, unitCore c) ∧
        flightAt (coreOf t k c) .stream id = some { f with trapped := true }))) ∧
    (ToDo s c k x .stream .ridge id f → f.q.ob.isReg = true → f.q.ox.isDesc = false →
      (f.q.ox.isReg = true → nmRsv (BitVec.ofNat 64 f.q.ox.val) = false) → ownBase a = true → ownBase d = true →
      phRsv (f.q.w.imm.setWidth 64) = false → inPartition s k f.q.ob.val = true →
      transferBlocks s k c f a (ridgeDest d f.q.ob.val) = .ok bl →
      operandsMeet s k c { f with d := some (ridgeDest d f.q.ob.val) } = false →
      Completes (.ridge c (.run id)) s (fun t => OnlyCore s t k c ∧ SameProgram x (coreOf t k c) ∧
        ∃ g, flightAt (coreOf t k c) .stream id = some g ∧ g.total = count d ∧ g.issued = count d ∧
          g.d.map (fun e => e.base) = some (0xF_1000_0000_0000 + f.q.ob.val * Config.scratchBytes + (d.base - 0xF_0000_0000_0000)) ∧
          g.ran = true))

/-- One chunk of a listed fetch is issued: of an unconditional fetch the next 64 KiB of destination (of a 6-bit tensor
the whole groups of three grains within them, log 122), of a fetch with COND
the same where its predicate word, read now, is not zero; a zero word stops the fetch, which issues no more and reports
CONDITION, where none of it faulted. Only the first 16 of the list issue; the bytes of memory stay (R95, R96). 
SPAR to a core of the partition, once its path has credits, stores its registers, the first at the offset of its word, in
that core's scratchpad, and without credits waits; CANCEL stops every earlier fetch its tag names that has not landed;
FENCE is ready once no earlier stream instruction is left, and until then changes nothing. Each is then ready to complete
(R55, R90, R97, R102). -/
def Obligations.FetchAndStream : Prop :=
  (∀ (s : State) (c k id : Nat) (x : Core) (f : Flight) (d : Desc),
      coreAtWork s c = some (k, x) → ((listed x).take 16).find? (fun g => g.id == id) = some f → flightAt x .stream id = some f →
      f.stop = 0 → f.trapped = false → f.issued < f.total → f.d = some d → NoBreakpoint x → Quiet s k x →
      (condOf x f = none → Completes (.fetchChunkIssue c id) s (fun t => OnlyCore s t k c ∧ SameProgram x (coreOf t k c) ∧
        flightAt (coreOf t k c) .stream id = some { f with issued := min f.total (f.issued + max (chunkEls d) 1) })) ∧
      (∀ va bs, condOf x f = some va → controlRead s k c va 8 = .ok bs →
        Completes (.fetchChunkIssue c id) s (fun t => SameBytes s t ∧ OnlyPays s t k c ∧ SameProgram x (coreOf t k c) ∧
          (leNat bs ≠ 0 → flightAt (coreOf t k c) .stream id = some { f with issued := min f.total (f.issued + max (chunkEls d) 1) }) ∧
          (leNat bs = 0 → ∃ g, flightAt (coreOf t k c) .stream id = some g ∧ g.stop = 1 ∧
            g.status = (if f.faulted then 5 else 4) ∧ g.issued = f.issued ∧ g.ready = (f.ran && f.pos == f.issued))))) ∧
  (∀ (s : State) (c k id : Nat) (x : Core) (f : Flight),
      (∀ v ra s1, ToDo s c k x .stream .spar id f → f.q.od = .reg v → f.q.oa = .reg ra → v.toNat % 4096 = 0 → spRemote v = false →
        spOff v + (sparBytes f.q.regs).length ≤ Config.scratchBytes → inPartition s k (spCore v) = true →
        writeVa s k c (0xF_1000_0000_0000 + spCore v * Config.scratchBytes + spOff v) (sparBytes f.q.regs) false = .ok s1 →
        let free := hasCredits s.chain (accessBufs s c (touches s k c
          [(0xF_1000_0000_0000 + spCore v * Config.scratchBytes + spOff v, (sparBytes f.q.regs).length, true)]) s.chain.nextTag) crSpar
        (free = true → NoBreakpoint x → Quiet s k x → Completes (.spar c (.run id)) s (fun t => SameBytes s1 t ∧ SameProgram x (coreOf t k c) ∧
          ∃ g, flightAt (coreOf t k c) .stream id = some g ∧ g.ready = true ∧ g.status = f.status)) ∧
        (free = false → Completes (.spar c (.run id)) s (fun t => t = s))) ∧
      (ToDo s c k x .stream .cancel id f → Completes (.cancel c (.run id)) s (fun t =>
        OnlyCore s t k c ∧ SameProgram x (coreOf t k c) ∧ t.mem = s.mem ∧
        (∃ g, flightAt (coreOf t k c) .stream id = some g ∧ g.ready = true) ∧
        ∀ h ∈ flightsOf (coreOf t k c) .stream, h.id < id → h.q.op = .fetch → h.listed = true →
          (f.q.w.imm = 0xFFFF_FFFF ∨ h.q.w.imm = f.q.w.imm) → h.ready = true ∨ h.stop ≠ 0)) ∧
      (ToDo s c k x .stream .fence id f →
        ((∃ h ∈ flightsOf x .stream, h.id < id) → Completes (.fence c (.run id)) s (fun t => t = s)) ∧
        ((∀ h ∈ flightsOf x .stream, id ≤ h.id) → Completes (.fence c (.run id)) s (fun t => OnlyCore s t k c ∧
          SameProgram x (coreOf t k c) ∧ flightAt (coreOf t k c) .stream id = some { f with ran := true, ready := true }))))

/-- YEALM with well-formed operands that do not overlap, once the HBM level is positive where it reads HBM and its path has
credits, does its work whole: what it stores is what its routing places, its record and its counts, memory's bytes and
poison change by nothing else, and it is ready to complete, what the program sees of the core as before. With operands
that are malformed its result is unpredictable (R67, R90, R99, R204, R205). -/
def Obligations.YealmRuns : Prop :=
  ∀ (s : State) (c k id : Nat) (x : Core) (f : Flight), ToDo s c k x .stream .yealm id f →
    (∀ y s1, yealmEff s k c f = .ok y → operandsMeet s k c f = false → writeVas s k c y.ws = .ok s1 → NoBreakpoint x → Quiet s k x →
      let acc := y.reads.map (fun r => (r.1, r.2, false)) ++ y.ws.map (fun q => (q.va, q.bs.length, true))
      (hbmWaits s k c acc = false → hasCredits s.chain (accessBufs s c (touches s k c acc) s.chain.nextTag) crDemand = true →
        Completes (.yealm c (.run id)) s (fun t => SameBytes s1 t ∧ SameProgram x (coreOf t k c) ∧
          (∃ g, flightAt (coreOf t k c) .stream id = some g ∧ g.ready = true) ∧
          t.place = s.place ∧ t.power = s.power ∧ t.sec = s.sec)) ∧
      (hbmWaits s k c acc = true → Completes (.yealm c (.run id)) s (fun t => t.mem = s.mem ∧ SameProgram x (coreOf t k c) ∧
        flightAt (coreOf t k c) .stream id = some f))) ∧
    (yealmEff s k c f = .error (.unpred .malformed) → Completes (.yealm c (.run id)) s (fun t =>
      ∃ u, t = wild u k ∧ OnlyCore s u k c ∧ SameProgram x (coreOf u k c) ∧
        flightAt (coreOf u k c) .stream id = some { f with trapped := true }))

/-- A burst of an XFER that has all its credits, and whose context has HBM budget where it reads HBM, moves on to the next
piece of its destination: pieces whose source and destination the context may reach are stored, memory's bytes and poison
change by nothing else, and when the transfer has moved everything it is ready to complete. The program of the core stays.
While a buffer on its path has no credit left, or the budget is used up and HBM is read, it waits and nothing changes (R90,
R93, R100). -/
def Obligations.BurstsMove : Prop :=
  ∀ (s : State) (c k id : Nat) (x : Core) (f : Flight) (a d : Desc),
    coreInFlight s c .stream = some (k, x) → flightAt x .stream id = some f → f.q.op = .xfer → f.a = some a → f.d = some d →
    burstDue f = true → f.stop = 0 →
    let b := nextBurst s k c f a d
    let u := b.2.1.foldl (burstPiece k c 0x40 f a d) { s := { s with chain := takeCredits s.chain (burstBufs s.chain b.1) crDemand } }
    (hbmWaits s k c (burstAccess f a d b.2.1) = false → hasCredits s.chain (burstBufs s.chain b.1) crDemand = true → Quiet s k x →
      NoBreakpoint x → Completes (.burstStart c id .none) s (fun t => SameProgram x (coreOf t k c) ∧
        (u.bad = [] → SameBytes u.s t) ∧
        ∃ g, flightAt (coreOf t k c) .stream id = some g ∧ g.pos = b.2.2 ∧ g.total = f.total ∧ g.ready = !decide (b.2.2 < f.total) ∧
          (u.bad ≠ [] → g.faulted = true ∧ g.status = 5))) ∧
    (∀ rd, hasCredits s.chain (burstBufs s.chain b.1) crDemand = false → Completes (.burstStart c id rd) s (fun t => t = s)) ∧
    (∀ rd, hbmWaits s k c (burstAccess f a d b.2.1) = true → Completes (.burstStart c id rd) s (fun t => t = s))

/-! ## Trusses -/

/-- An arrival at a counted truss of this device that does not complete its generation adds one to the generation it names,
the current or the next, and the instruction is ready; the arrival that completes the generation, with no limit, moves the
truss to the next generation, makes the pending arrivals the current ones, and releases the waiters of the generation that
ended. Registers, memory and the truss's binding stay (R216 to R225). 
TRUSS.WAIT and TRUSS.ARWT on a counted truss without a limit: a wait for a generation that has completed is released at
once, a wait for the current one registers the instruction as a waiter with that generation; TRUSS.ARWT registers its wait
before its arrival counts, so that the arrival that completes the generation releases it too. With REMOTE either gives an
unpredictable result of its context (R67, R216, R223, R224, R227). -/
def Obligations.Trusses : Prop :=
  (∀ (s : State) (c k id : Nat) (x : Core) (f : Flight) (nm ph : Word),
      ToDo s c k x .sync .trussArrive id f → f.q.oa = .reg nm → f.q.ob = .reg ph → nmRsv nm = false → phRsv ph = false →
      nmRemote nm = false → nameOk s k nm = true → (ctxOf s k).forwards = [] →
      let b := trussOf s k (nmVtid nm)
      b.enrolled = false → b.limit = 0 → b.fwd = [] → (phNo ph = true ∨ gen16 (phVal ph) b.gen = 0) →
      Completes (.trussArrive c (.run id)) s (fun t => t.mem = s.mem ∧ SameProgram x (coreOf t k c) ∧
        (∃ g, flightAt (coreOf t k c) .sync id = some g ∧ g.ready = true) ∧
        (b.arrived + 1 < b.n → trussOf t k (nmVtid nm) = { b with arrived := b.arrived + 1 }) ∧
        (b.n ≤ b.arrived + 1 → b.pending < b.n → trussOf t k (nmVtid nm) = { b with
          gen := (b.gen + 1) % 0x1_0000, arrived := b.pending, pending := 0, arrivedM := b.pendingM, pendingM := []
          waiters := b.waiters.filter (fun w => w.gen != b.gen) }))) ∧
  (∀ (s : State) (c k id : Nat) (x : Core) (f : Flight) (nm ph : Word), f.q.oa = .reg nm → f.q.ob = .reg ph →
      nmRsv nm = false → phRsv ph = false → (ctxOf s k).forwards = [] →
      (ToDo s c k x .sync .trussWait id f → nmRemote nm = true → Completes (.trussWait c (.run id)) s (fun t =>
        ∃ u, t = wild u k ∧ OnlyCore s u k c ∧ SameProgram x (coreOf u k c))) ∧
      (ToDo s c k x .sync .trussArwt id f → nmRemote nm = true → Completes (.trussArwt c (.run id)) s (fun t =>
        ∃ u, t = wild u k ∧ OnlyCore s u k c ∧ SameProgram x (coreOf u k c))) ∧
      (nmRemote nm = false → nameOk s k nm = true →
        let b := trussOf s k (nmVtid nm)
        b.limit = 0 → b.enrolled = false → b.fwd = [] →
        (ToDo s c k x .sync .trussWait id f → phNo ph = false → gen16 (phVal ph) b.gen = -1 →
          Completes (.trussWait c (.run id)) s (fun t => t.mem = s.mem ∧ SameProgram x (coreOf t k c) ∧
            trussOf t k (nmVtid nm) = b ∧ ∃ g, flightAt (coreOf t k c) .sync id = some g ∧ g.ready = true)) ∧
        (ToDo s c k x .sync .trussWait id f → (phNo ph = true ∨ gen16 (phVal ph) b.gen = 0) →
          Completes (.trussWait c (.run id)) s (fun t => t.mem = s.mem ∧ SameProgram x (coreOf t k c) ∧
            trussOf t k (nmVtid nm) = { b with waiters := b.waiters ++ [⟨c, id, b.gen % 0x1_0000, s.clock.ns⟩] } ∧
            flightAt (coreOf t k c) .sync id = some { f with ran := true })) ∧
        (ToDo s c k x .sync .trussArwt id f → (phNo ph = true ∨ gen16 (phVal ph) b.gen = 0) → b.arrived + 1 < b.n →
          Completes (.trussArwt c (.run id)) s (fun t => t.mem = s.mem ∧ SameProgram x (coreOf t k c) ∧
            trussOf t k (nmVtid nm) = { b with
              arrived := b.arrived + 1
              waiters := b.waiters ++ [⟨c, id, b.gen % 0x1_0000, s.clock.ns⟩] } ∧
            flightAt (coreOf t k c) .sync id = some { f with ran := true }))))

/-! ## Collectives (R280 to R303) -/

/-- A collective instruction whose group word names a binding of the context, with no earlier collective of its core waiting,
HBM budget where it reads HBM, and well-formed tensors the context may reach, starts: it takes the group's sequence number
and the group goes on to the next. One whose group is gone raises COLL_GROUP_INVALID and never completes; with 256
collectives in flight on the device it waits at the head of its core's collectives, and those behind it wait too (R284, R287,
R295, R100). -/
def Obligations.CollectivesStart : Prop :=
  ∀ (s t : State) (c k id n : Nat) (x : Core) (f : Flight) (i : Instr), tensorCmd (.coll n) c (.run id) = some i →
    ToDo s c k x .stream (.coll n) id f →
    (groupOk s k f.q.ob.val = true → collBehind x id = false → collsInFlight s < 256 → hbmWaits s k c (wholeOf f.a false) = false →
      collStart n s k c f = .ok t →
      Completes i s (fun u => u = t ∧ SameProgram x (coreOf u k c) ∧
      (look (ctxOf u k).groups {} (f.q.ob.val % 0x1_0000)).seqNo =
        ((look (ctxOf s k).groups {} (f.q.ob.val % 0x1_0000)).seqNo + 1) % 0x1_0000_0000)) ∧
    (groupOk s k f.q.ob.val = true → collBehind x id = false → 256 ≤ collsInFlight s → Completes i s (fun u => OnlyCore s u k c ∧
      SameProgram x (coreOf u k c) ∧ flightAt (coreOf u k c) .stream id = some { f with issued := 1 })) ∧
    (groupOk s k f.q.ob.val = true → collBehind x id = true → Completes i s (fun u => u = s)) ∧
    (groupOk s k f.q.ob.val = false → Completes i s (fun u => u.mem = s.mem ∧ SameProgram x (coreOf u k c) ∧
      (u.obs.log.getLast?.map (fun e => (e.code, e.ctx, e.unit))) = some (0x0505, k, unitCore c) ∧
      flightAt (coreOf u k c) .stream id = some { f with trapped := true }))

/-- A chunk of D that is written, whose record has come, and which passes its check — or whose check is skipped, for a
poisoned or saturated element — is passed: its peers hear DONE, and where the collective has more to do, no byte of memory
and no core changes; a chunk that fails for the third time ends the collective with COLLECTIVE_CHECK_FAILED, which every
member hears (R298, R300 to R302). No memory error stands. -/
def Obligations.ChunksChecked : Prop :=
  ∀ (s : State) (c id m k i : Nat) (x : Coll) (ch : Chunk) (d : Desc) (r : CheckRec) (cs : List (Option Nat)),
    collOf s c id = some (k, x) → dPlace x m = some (i, ch) → x.d = some d → ch.record = some r → ch.written = true →
    ch.passed = false → ch.lost = false → s.mem.upsets = [] → codesOf s k x.core d (dFirst x ch) ch.count = .ok cs →
    ((r.skip = true ∨ ch.sat = true ∨ (checkPasses x d s.freeCtr (dFirst x ch) cs r).1 = true) →
      collComplete (setChunk x i { ch with passed := true }) = false →
      Completes (.chunkCheck c id m) s (fun t => SameBytes s t ∧ t.cores = s.cores ∧
        setChunk x i { ch with passed := true } ∈ (ctxOf t k).colls)) ∧
    (r.skip = false → ch.sat = false → (checkPasses x d s.freeCtr (dFirst x ch) cs r).1 = false → 2 ≤ ch.failures →
      Completes (.chunkCheck c id m) s (fun t => (∀ z ∈ (ctxOf t k).colls, ¬(z.gid = x.gid ∧ z.seq = x.seq)) ∧
        ∃ e ∈ t.obs.log, e.code = 0x0504 ∧ e.ctx = k ∧ e.seq = s.obs.seqNext ∧
          e.payload = p4 (groupWord x) ++ p4 x.seq ++ p8 ch.first ++ p8 (checkPasses x d s.freeCtr (dFirst x ch) cs r).2))

/-- A COLL packet whose session takes it in, for a collective in flight here, is counted, acts by its KIND and is
acknowledged: READY lets data go to its sender, and answers what that sender has asked for; DATA and PARTIAL bring a
contribution, DATA and RESULT elements of D; CHECK brings a record; REPAIR asks for a chunk again, and is answered once its
sender is READY; DONE is one rank fewer to wait for; REVOKE and ABORT end the collective here. All but ABORT carry the
fingerprint of this member (R293 to R302); another fingerprint is COLLECTIVE_MISMATCH (R298). -/
def Obligations.CollPackets : Prop :=
  ∀ (s : State) (p : Packet) (k r : Nat) (x : Coll), CollFor s p k x r →
    let s1 := collBytes s k p
    let v := leNat (p.payload.take 8)
    (p.hdr.opInfo = x.fp →
      (p.hdr.opAux / 0x1000_0000 = 0 → Completes (.collReady p) s (fun t =>
        t = taken (askedNow (pump s1 k { x with
          readyFrom := addNat x.readyFrom r, asked := x.asked.filter (fun q => q.1 != r) }) k x.gid x.seq r x.asked) p 0)) ∧
      (p.hdr.opAux / 0x1000_0000 = 1 → (∀ a, collRed x.op = true → x.a = some a →
        Completes (.collData p) s (fun t => t = taken (takePartials s1 k x r p.hdr.offset ((payEls p (elemBits a.code)).map (fun e =>
          toPartial { a with scaleKind := 0 } 0 0 (if e.poi then none else some e.code)))) p 0)) ∧
        (collRed x.op = false → Completes (.collData p) s (fun t =>
          t = taken (takeResult s1 k x r p.hdr.offset (payEls p (elemBits (resFmt x)))) p 0))) ∧
      (p.hdr.opAux / 0x1000_0000 = 2 → Completes (.collPartial p) s (fun t =>
        t = taken (takePartials s1 k x r p.hdr.offset (payPartials p (intColl x))) p 0)) ∧
      (p.hdr.opAux / 0x1000_0000 = 3 → Completes (.collResult p) s (fun t =>
        t = taken (takeResult s1 k x r p.hdr.offset (payEls p (elemBits (resFmt x)))) p 0)) ∧
      (p.hdr.opAux / 0x1000_0000 = 4 → Completes (.collCheck p) s (fun t =>
        t = taken (takeRecord s1 k x r p.hdr.offset (readRecord p.payload)) p 0)) ∧
      (p.hdr.opAux / 0x1000_0000 = 5 →
        (x.readyFrom.elem r = true ∨ redWanted x v r = true → Completes (.collRepair p) s (fun t => t = taken (repairFor s1 k x r v) p 0)) ∧
        (x.readyFrom.elem r = false → redWanted x v r = false → Completes (.collRepair p) s (fun t =>
          t = taken (setColl s1 k { x with asked := x.asked ++ [(r, v)] }) p 0))) ∧
      (p.hdr.opAux / 0x1000_0000 = 7 → Completes (.collRevoke p) s (fun t =>
        t = taken (revoked s1 k x v p.hdr.srcNode false) p 0)) ∧
      (p.hdr.opAux / 0x1000_0000 = 8 → Completes (.collDone p) s (fun t => ∃ y, y = { x with chunks := x.chunks.map (fun (ch : Chunk) =>
          if ch.first = v ∧ ch.needDone.elem r = true then { ch with needDone := delNat ch.needDone r } else ch) } ∧
        t = taken (finishColl (setColl s1 k y) k y) p 0))) ∧
    (p.hdr.opAux / 0x1000_0000 = 6 → Completes (.collAbort p) s (fun t => t = taken (mismatch s1 k x v p.hdr.srcNode false) p 0)) ∧
    (p.hdr.opInfo ≠ x.fp → p.hdr.opAux / 0x1000_0000 = 4 → Completes (.collCheck p) s (fun t =>
      t = taken (mismatch s1 k x p.hdr.opInfo p.hdr.srcNode true) p 0))

/-! ## Furlong (R256 to R276) -/

/-- A command that delivers a Furlong packet of an opcode, and of a KIND where the opcode is COLL. -/
def packetCmd (p : Packet) : List Instr :=
  [.furlongWriteReceive p, .readReqReceive p, .readRespReceive p, .sendReceive p, .remoteTrussArrival p, .collReady p, .collData p,
   .collPartial p, .collResult p, .collCheck p, .collRepair p, .collAbort p, .collRevoke p, .collDone p]

/-- A packet whose header CRC or fields are bad, whose age is outside the lifetime rule, whose block fails its CRC, that is
a duplicate, or whose epoch is not its job's, has no effect on memory, on any core, on any context, or on the contexts'
placement: it is only counted, and where R268 and R270 say so acknowledged, so that nothing leaves but a SACK (R265 to R268,
R270, R274). -/
def Obligations.PacketsDropped : Prop :=
  ∀ (s : State) (p : Packet) (i : Instr), i ∈ packetCmd p →
    (hdrOk p = false ∨ tooOld s p.hdr = true ∨ bcrcOf p.payload p.poison ≠ p.bcrc ∨
      seenPsn (sessOf s p.hdr.srcNode) p.hdr.psn = true ∨
      (p.hdr.jobId ≠ 0 ∧ ∃ k, jobCtx s p.hdr.jobId = some k ∧ gen16 p.hdr.epoch (ctxOf s k).epoch ≠ 0)) →
    Completes i s (fun t => t.mem = s.mem ∧ t.cores = s.cores ∧ t.ctxs = s.ctxs ∧ t.place = s.place ∧ t.obs.log = s.obs.log ∧
      t.sec = s.sec ∧ ∀ f ∈ t.net.tx, f ∈ s.net.tx ∨ ∃ q, f.body = .furlong q ∧ q.hdr.opc = opSack)

/-- A WRITE inside a region of the context that allows it stores its block there; a READ_REQ puts the answer in line on the
sender's session; a READ_RESP of a firmware session stores its block where the service that asked wants it; a SEND stores its
words in the scratchpad of a core of the context's partition. Each is acknowledged without a status. Outside the region,
without its permission, or with a generation not yet bound, REMOTE_ACCESS_FAULT is raised in the context and the
acknowledgement says ACCESS_FAULT (R267, R272, R273). No memory error stands.
An arrival from another node at a truss bound in the context with the generation it carries is one arrival there, by
the identity of its sender; one at a truss never bound raises TRUSS_INVALID_ID; either is acknowledged, and memory stays
(R218, R226, R231, R274). -/
def Obligations.RemoteAccess : Prop :=
  (∀ (s : State) (p : Packet) (k : Nat), s.mem.upsets = [] →
      (∀ r, r = look (ctxOf s k).regions {} p.hdr.key →
        (PacketFor s p opWrite k → judgeGen r.bound r.ever r.keyGen p.hdr.keyGen = .ok → p.hdr.offset + p.payload.length ≤ r.length → r.rwrite = true →
          ∀ s1, writeVas s k 320 (blockWrs (r.base + p.hdr.offset) p.hdr.offset p.payload p.poison) = .ok s1 →
          Completes (.furlongWriteReceive p) s (fun t => ∃ u, t = taken u p 0 ∧ SameBytes s1 u ∧ u.cores = s.cores ∧ OthersKept s1 u k)) ∧
        (PacketFor s p opReadReq k → judgeGen r.bound r.ever r.keyGen p.hdr.keyGen = .ok → p.hdr.offset + (p.hdr.opInfo % 0x100_0000 + 1) ≤ r.length → r.rread = true →
          ∀ bs poi, readVa s k 320 (r.base + p.hdr.offset) (p.hdr.opInfo % 0x100_0000 + 1) = .ok (bs, poi) →
          Completes (.readReqReceive p) s (fun t => ∃ u, t = taken u p 0 ∧ SameBytes s u ∧ u.cores = s.cores ∧ OthersKept s u k ∧
            (sessOf u p.hdr.srcNode).queue.map (fun q => q.payload) = (sessOf s p.hdr.srcNode).queue.map (fun q => q.payload) ++
              (respBlocks (r.base + p.hdr.offset) bs (fun _ => false)).map (fun b => b.payload))) ∧
        (PacketFor s p opWrite k → (judgeGen r.bound r.ever r.keyGen p.hdr.keyGen = .invalid ∨
            (judgeGen r.bound r.ever r.keyGen p.hdr.keyGen = .ok ∧ (r.length < p.hdr.offset + p.payload.length ∨ r.rwrite = false))) →
          Completes (.furlongWriteReceive p) s (fun t => ∃ u, t = taken u p 2 ∧ u.mem = s.mem ∧ u.cores = s.cores ∧
            (u.obs.log.getLast?.map (fun e => (e.code, e.ctx, e.payload))) = some (0x0406, k,
              p4 p.hdr.srcNode ++ p4 p.hdr.key ++ p4 p.hdr.keyGen ++ p8 p.hdr.offset ++ p4 p.hdr.opc)))) ∧
      (PacketIn s p opReadResp → p.hdr.jobId = 0 → ∀ r, s.net.reads.find? (fun r => r.opId == p.hdr.opId && r.peer == p.hdr.srcNode) = some r →
        (r.off + p.hdr.offset) % 4096 + p.payload.length ≤ 4096 → p.hdr.offset + p.payload.length ≤ r.len →
        Completes (.readRespReceive p) s (fun t => ∃ u, t = taken u p 0 ∧ t.cores = s.cores ∧ t.place = s.place ∧
          u.mem = ((blockWrs (r.base + p.hdr.offset) (r.off + p.hdr.offset) p.payload p.poison).foldl
            (fun u w => writeDpa u w.va w.bs w.poi) s).mem)) ∧
      (PacketFor s p opSend k → inPartition s k p.hdr.dstCore = true → p.hdr.offset + p.payload.length ≤ Config.scratchBytes →
        ∀ s1, writeVas s k 320 (blockWrs (0xF_1000_0000_0000 + p.hdr.dstCore * Config.scratchBytes + p.hdr.offset) p.hdr.offset
          p.payload p.poison) = .ok s1 → Completes (.sendReceive p) s (fun t => t = taken s1 p 0 ∧ t.mem = s1.mem ∧ t.cores = s.cores))) ∧
  (∀ (s : State) (p : Packet) (k : Nat) (nm ph : Word), PacketFor s p opAtomic k →
      nm = BitVec.ofNat 64 (leNat (p.payload.take 8)) → ph = BitVec.ofNat 64 (leNat ((p.payload.drop 8).take 8)) →
      let b := trussOf s k (nmVtid nm)
      (judgeGen b.bound b.ever b.bgen (nmBgen nm) = .ok → Completes (.remoteTrussArrival p) s (fun t => t.mem = s.mem ∧
        t = taken (arriveAt s k (nmVtid nm)
          (if bit p.hdr.opInfo 63 then .truss p.hdr.srcNode (p.hdr.opInfo % 0x10_0000) else .remote p.hdr.srcNode p.hdr.srcCore)
          (phNo ph) (phVal ph)).1 p 0)) ∧
      (b.ever = false → Completes (.remoteTrussArrival p) s (fun t => t.mem = s.mem ∧ t.cores = s.cores ∧
        (t.obs.log.getLast?.map (fun e => (e.code, e.ctx))) = some (0x0301, k))))

/-- A frame carries a Furlong packet. -/
def carries (f : Frame) (q : Packet) : Prop := f.body = .furlong q ∧ hcrcOf q.hdr = q.hdr.hcrc

/-- The opening of a session: an unanswered HELLO is sent again after 500 µs where the peer has a way; a HELLO request of major
version 1 with every feature needed opens the session, both sides starting at PSN 0, and is answered; another version is
refused with HELLO_INCOMPATIBLE; a session that has no reply within 4 ms, and a peer that leaves a block unacknowledged for
4 ms, fail with PEER_UNREACHABLE, and the session is closed. No collective and no restart waits for the peer in these last
two (R263, R275). That a HELLO goes by path 0 is the model's choice (log 146). -/
def Obligations.SessionsOpen : Prop :=
  ∀ (s : State) (peer : Nat) (x : Session), x = sessOf s peer →
    (x.opening = true → x.isOpen = false → x.helloAt + 500000 ≤ s.clock.ns →
      ∀ i p a mac, s.net.identity = some i → wayTo s peer 0 = .go p a mac →
      Completes (.furlongHelloRetry peer) s (fun t => t.mem = s.mem ∧ t.ctxs = s.ctxs ∧ sessOf t peer = { x with helloAt := s.clock.ns } ∧
        ∃ f q, t.net.tx = s.net.tx ++ [f] ∧ carries f q ∧ q.hdr.opc = opHello ∧ q.hdr.dstNode = peer ∧
          q.payload = helloBytes (ownHello s false))) ∧
    (∀ k h n, Machine.hdrOk k = true → k.hdr.opc = opHello → ownNode s = some n → k.hdr.dstNode = n → bcrcOf k.payload k.poison = k.bcrc →
      h = readHello k.payload → n ≠ h.node → h.node = peer →
      (h.verMajor = 1 → h.features.getLsbD 1 = true → (x.known = false ∨ x.incarnation = h.incarnation) → h.reply = false →
        Completes (.furlongHelloReceive k) s (fun t => t.mem = s.mem ∧ t.ctxs = s.ctxs ∧
          (sessOf t peer).isOpen = true ∧ (sessOf t peer).recvCum = 0 ∧ (sessOf t peer).incarnation = h.incarnation ∧
          (sessOf t peer).features = 31 &&& h.features ∧ (sessOf t peer).sendPsn = (sessOf t peer).queue.length ∧
          (∀ i p a mac, s.net.identity = some i → wayTo s peer 0 = .go p a mac →
            ∃ f q, t.net.tx = s.net.tx ++ [f] ∧ carries f q ∧ q.payload = helloBytes (ownHello s true)))) ∧
      (h.verMajor ≠ 1 → Completes (.furlongHelloReceive k) s (fun t => t.mem = s.mem ∧ t.net.sessions = s.net.sessions ∧
        (t.obs.log.getLast?.map (fun e => e.code)) = some 0x0403))) ∧
    ((∀ k, (ctxOf s k).colls = [] ∧ (ctxOf s k).restart.phase = 0) →
      (x.opening = true → x.isOpen = false → x.firstAt + 4000000 ≤ s.clock.ns →
        Completes (.sessionOpenTimeout peer) s (fun t => (t.obs.log.getLast?.map (fun e => e.code)) = some 0x0404 ∧
          (sessOf t peer).isOpen = false ∧ (sessOf t peer).ops = [])) ∧
      ((∃ e ∈ x.unacked, e.pkt.hdr.origin + 4000000 ≤ s.clock.ns) →
        Completes (.peerLoss peer) s (fun t => (t.obs.log.getLast?.map (fun e => e.code)) = some 0x0404 ∧
          (sessOf t peer).isOpen = false ∧ (sessOf t peer).ops = [] ∧ (sessOf t peer).unacked = [])))

/-- Sending under the window, the pace and the regulator: the next packet of an open session whose way and budget are free
leaves with its origin time and header CRC and waits for its acknowledgement; a lost packet goes again before it, marked as
sent again. A SACK takes what it acknowledges out of the unacknowledged packets and nothing more; the SACK timer sends the
SACK owed; a packet past its RTO is lost and will be resent; a suspended path comes back after its time. Memory stays
(R262, R268 to R271, R274).
The congestion window once per smoothed round trip: with no packet marked it grows by an eighth of itself and at least
4 KiB, to at most 32 MiB; with marks it shrinks by half the marked share, to no less than 4 KiB; the counts begin again
(R271). That a SACK goes by path 0 is the model's choice (log 146). -/
def Obligations.SessionsSendAndPace : Prop :=
  (∀ (s : State) (peer : Nat) (x : Session), x = sessOf s peer →
      (∀ i port a mac, s.net.identity = some i → wayTo s peer (pickPath x s.clock.ns) = .go port a mac → x.isOpen = true → alive s = true →
        (∀ r ∈ s.net.records, r.1 ≠ peer) → x.paceAt ≤ s.clock.ns →
        (nextLost x = none → ∀ p r s1, x.queue = p :: r → x.unacked.length < 8192 →
          inFlightBytes x + p.payload.length ≤ x.cwnd → netCharge s p = some s1 →
          Completes (.packetSend peer) s (fun t => t.mem = s.mem ∧ ∃ f q, t.net.tx = s.net.tx ++ [f] ∧ carries f q ∧
            f.port = port ∧ q.payload = p.payload ∧ q.hdr.psn = p.hdr.psn ∧ q.hdr.origin = s.clock.ns ∧ q.hdr.retrans = false ∧
            (sessOf t peer).queue = r ∧ (sessOf t peer).unacked = x.unacked ++ [⟨q, some port, q.hdr.path, s.clock.ns, 0, false⟩])) ∧
        (∀ e, nextLost x = some e → s.clock.ns < e.pkt.hdr.origin + 4000000 →
          Completes (.packetSend peer) s (fun t => t.mem = s.mem ∧ ∃ f q, t.net.tx = s.net.tx ++ [f] ∧ carries f q ∧ q.payload = e.pkt.payload ∧
            q.hdr.psn = e.pkt.hdr.psn ∧ q.hdr.origin = e.pkt.hdr.origin ∧ q.hdr.retrans = true ∧ (sessOf t peer).queue = x.queue))) ∧
      (∀ k a, Machine.hdrOk k = true → k.hdr.opc = opSack → ownNode s = some k.hdr.dstNode → k.hdr.srcNode = peer → x.isOpen = true →
        bcrcOf k.payload k.poison = k.bcrc → a = readSack k.hdr.psn k.payload → a.status = 0 →
        Completes (.sackReceive k.hdr k.body) s (fun t => t.mem = s.mem ∧ t.net.tx = s.net.tx ∧
        (sessOf t peer).unacked.map (fun e => e.pkt) =
          (x.unacked.filter (fun e => !sackHas a e.pkt.hdr.psn)).map (fun e => e.pkt) ∧ (sessOf t peer).queue = x.queue)) ∧
      (∀ t0 i p a mac, x.firstUnacked = some t0 → t0 + 2000 ≤ s.clock.ns → s.net.identity = some i → wayTo s peer 0 = .go p a mac →
        Completes (.sackTimer peer) s (fun t => t.mem = s.mem ∧
        (∃ f q, t.net.tx = s.net.tx ++ [f] ∧ carries f q ∧ q.hdr.opc = opSack ∧ q.hdr.psn = (sackOf x).cumPsn ∧ q.payload = sackBytes (sackOf x)) ∧
        (sessOf t peer).sinceSack = 0 ∧ (sessOf t peer).firstUnacked = none)) ∧
      (∀ psn, Completes (.rtoExpiry peer psn) s (fun t => t.mem = s.mem ∧ (sessOf t peer).unacked = x.unacked.map (fun e =>
        if e.pkt.hdr.psn = psn ∧ e.sentAt + rtoOf x e.tries ≤ s.clock.ns then { e with lost := true } else e))) ∧
      (∀ path, has x.suspended path = true → look x.suspended 0 path ≤ s.clock.ns →
        Completes (.pathSuspendExpiry peer path) s (fun t => t.mem = s.mem ∧ has (sessOf t peer).suspended path = false ∧
          (sessOf t peer).unacked = x.unacked))) ∧
  (∀ (s : State) (peer : Nat) (x : Session), x = sessOf s peer → x.isOpen = true → x.intervalAt + x.srtt ≤ s.clock.ns →
      Completes (.congestionInterval peer) s (fun t => t.mem = s.mem ∧ (sessOf t peer).acked = 0 ∧ (sessOf t peer).marked = 0 ∧
        (sessOf t peer).intervalAt = s.clock.ns ∧
        (0 < x.acked → x.marked = 0 → (sessOf t peer).cwnd = min 33554432 (x.cwnd + max 4096 (x.cwnd / 8))) ∧
        (0 < x.marked → x.marked ≤ x.acked →
          (sessOf t peer).cwnd = max 4096 (x.cwnd * (2 * x.acked - x.marked) / (2 * x.acked)))))

/-- A port of the octet modes that trains comes up at the highest lane rate its partner also offers, with PORT_UP, and one that
fails to train or has no rate in common goes down with PORT_DOWN and negotiates again after 1 s; one that loses its link goes
down, with PORT_DOWN and the cause. A request for the device's own address is answered, and an answer is kept; a RoCEv2 packet
in order is acknowledged and the next one expected, one after a gap is answered with a NAK. Memory stays but for a RoCEv2
write (R256 to R258, R261, R276; that what the queue pair sends goes by the first port that is up is the model's choice, log 151). -/
def Obligations.PortsAndAddresses : Prop :=
  ∀ (s : State) (p : Nat),
    (∀ rates rate, p ∈ portList s → (portOf s p).up = false → (rate = 200 ∧ 200 ∈ rates ∨ rate = 100 ∧ 100 ∈ rates ∧ 200 ∉ rates) →
      ((portOf s p).failed = false → Completes (.portTrained p (rates, true)) s (fun t =>
        t.mem = s.mem ∧ portOf t p = { portOf s p with up := true, rate := rate, failed := false } ∧
        (t.obs.log.getLast?.map (fun e => (e.code, e.unit))) = some (0x0401, unitPort p))) ∧
      ((portOf s p).downAt + 1000000000 ≤ s.clock.ns → Completes (.portAnRetry p rates true) s (fun t =>
        portOf t p = { portOf s p with up := true, rate := rate, failed := false }))) ∧
    (∀ rates b, p ∈ portList s → (portOf s p).up = false → (portOf s p).failed = false → 200 ∉ rates → 100 ∉ rates →
      Completes (.portTrained p (rates, b)) s (fun t => (portOf t p).up = false ∧ (portOf t p).failed = true ∧
        (portOf t p).downAt = s.clock.ns ∧ (t.obs.log.getLast?.map (fun e => (e.code, e.payload))) = some (0x0402, p4 p ++ p4 1))) ∧
    (∀ cause, (portOf s p).up = true → Completes (.portLinkLoss p cause) s (fun t => t.mem = s.mem ∧ (portOf t p).up = false ∧
      (t.obs.log.getLast?.map (fun e => (e.code, e.unit, e.payload))) = some (0x0402, unitPort p, p4 p ++ p4 cause))) ∧
    (∀ i, s.net.identity = some i →
      (∀ src mac, i.flags.getLsbD 0 = true → Completes (.arp p (.request false i.v4Addr src mac)) s (fun t =>
        t.net.arpTx = s.net.arpTx ++ [(p, .reply false i.v4Addr (portMac i p))] ∧ t.mem = s.mem)) ∧
      (∀ v6 sender mac, Completes (.arp p (.reply v6 sender mac)) s (fun t => (arpKey p sender, mac) ∈ t.net.arpTable ∧
        t.mem = s.mem))) ∧
    (∀ k : RocePkt, has s.net.qps k.qp = true → k.kind = .send → icrcOf { k with icrc := 0 } = k.icrc → k.ce = false →
      ∀ i pt p2 a mac, s.net.identity = some i → pathPort s 0 = some pt → wayToAddr s i pt (qpAt s k.qp).peer = .go p2 a mac →
      (qpAt s k.qp).rate = 0 →
      (k.psn = (qpAt s k.qp).expect → Completes (.rocev2Receive k) s (fun t => t.mem = s.mem ∧
        (qpAt t k.qp).expect = (k.psn + 1) % 0x100_0000 ∧
        ∃ f g, t.net.tx = s.net.tx ++ [f] ∧ f.body = .roce g ∧ g.kind = .ack ∧ g.qp = k.qp ∧ g.psn = k.psn)) ∧
      (k.psn ≠ (qpAt s k.qp).expect → psn24 k.psn (qpAt s k.qp).expect = false → Completes (.rocev2Receive k) s (fun t =>
        t.mem = s.mem ∧ qpAt t k.qp = qpAt s k.qp ∧
        ∃ f g, t.net.tx = s.net.tx ++ [f] ∧ f.body = .roce g ∧ g.kind = .nak ∧ g.qp = k.qp ∧ g.psn = (qpAt s k.qp).expect)))

/-! ## The memories (R80 to R86, R99, R100, R411, R412) -/

/-- A refill 1 µs after the last raises the levels of every context by its budgets, to at most four times them, and the mirror
service's too; what a context owes of reads already made is paid from its HBM level while that is above 0, in bursts of 64, and
nothing else of a context changes (R99, R100; that reads made at once are owed is the model's reading, log 133).
The patrol scrub reads the grains of HBM in turn, and after the last the first; where no error stands it changes no
byte and no poison; where it meets an uncorrected one in a grain not yet poisoned, the grain is poisoned, its bytes
stay, and MEM_POISONED is raised; a corrected one leaves bytes and poison, and the error is gone either way (R83, R84). -/
def Obligations.RegulatorAndPatrol : Prop :=
  (∀ (s : State), s.mem.refillAt + 1000 ≤ s.clock.ns → Completes .regulatorRefill s (fun t =>
      t.mem = { s.mem with refillAt := s.mem.refillAt + 1000 } ∧ t.cores = s.cores ∧
      (∀ k, has s.ctxs k = true →
        ctxOf t k = { ctxOf s k with
          levelHbm := (ctxOf t k).levelHbm, owedHbm := (ctxOf t k).owedHbm
          levelNet := min ((ctxOf s k).levelNet + (ctxOf s k).budgetNet) (4 * (ctxOf s k).budgetNet) } ∧
        (ctxOf t k).levelHbm - (ctxOf t k).owedHbm =
          min ((ctxOf s k).levelHbm + (ctxOf s k).budgetHbm) (4 * (ctxOf s k).budgetHbm) - (ctxOf s k).owedHbm ∧
        (ctxOf t k).owedHbm ≤ (ctxOf s k).owedHbm ∧ ((ctxOf t k).owedHbm = 0 ∨ (ctxOf t k).levelHbm ≤ 0) ∧
        ((ctxOf t k).owedHbm < (ctxOf s k).owedHbm → -64 < (ctxOf t k).levelHbm)) ∧
      t.fw.mirrorLevel = min (s.fw.mirrorLevel + s.fw.mirrorBudget) (4 * s.fw.mirrorBudget))) ∧
  (∀ (s : State), s.mem.upsets = [] →
      Completes (.patrolScrub .none) s (fun t => t.mem = { s.mem with
        scrubPos := if s.mem.scrubPos + 1 < 6442450944 then s.mem.scrubPos + 1 else 0 }) ∧
      (∀ a, a / 64 = s.mem.scrubPos →
        (s.mem.poison.elem (a / 64) = false → Completes (.patrolScrub (.uncorrected a)) s (fun t =>
          t.mem.cells = s.mem.cells ∧ t.mem.poison = addNat s.mem.poison (a / 64) ∧ t.mem.upsets = [] ∧
          (t.obs.log.getLast?.map (fun e => (e.code, e.payload))) = some (0x0201, p8 a ++ p4 1))) ∧
        Completes (.patrolScrub (.corrected a)) s (fun t =>
          t.mem.cells = s.mem.cells ∧ t.mem.poison = s.mem.poison ∧ t.mem.upsets = [])))

/-- A row due for sparing is copied to a spare of its pseudo-channel: one spare fewer is left, the row's errors are
forgotten, its bytes and poison keep their addresses, and HBM_ROW_SPARED is raised. A page that holds a due row without a
spare is copied to a page of the pool, and every byte outside the copy
stays. Post-package repair in a restart makes spared rows permanent and frees their entries. A Thatch slice due for
retirement ends RETIRED, whatever it held (R82, R85, R86, R411, R412). -/
def Obligations.MemoryRepairs : Prop :=
  ∀ (s : State),
    (∀ chan row, rowDue s chan row = true → (look s.mem.spares [] chan).length < 16 → Completes (.hbmRowSpare chan row) s (fun t =>
      t.mem.cells = s.mem.cells ∧ t.mem.poison = s.mem.poison ∧ look t.mem.spares [] chan = look s.mem.spares [] chan ++ [row] ∧
      rowDue t chan row = false ∧ (t.obs.log.getLast?.map (fun e => (e.code, e.unit))) = some (0x0806, unitChan chan))) ∧
    (∀ page d, MemCanonical s → s.mem.upsets = [] → s.mem.stale = [] → pageDue s page = true → s.mem.retired.elem page = false →
      look s.mem.pool 0 (page / Config.stackPages) < poolPages →
      d = (page / Config.stackPages * Config.stackPages + Config.stackPages - poolPages +
        look s.mem.pool 0 (page / Config.stackPages)) * Config.page2 →
      Completes (.hbmPageRetire page) s (fun t => page ∈ t.mem.retired ∧
        (∀ o, o < Config.page2 → byteAt t.mem.cells (d + o) = byteAt s.mem.cells (page * Config.page2 + o)) ∧
        (∀ a, a < d ∨ d + Config.page2 ≤ a → byteAt t.mem.cells a = byteAt s.mem.cells a) ∧
        (t.obs.log.getLast?.map (fun e => e.code)) = some 0x0807)) ∧
    (∀ chan k, repairer s chan = some k → look s.mem.spares [] chan ≠ [] → chan < 256 →
      Completes (.hbmPostPackageRepair [chan]) s (fun t => t.mem.cells = s.mem.cells ∧ look t.mem.spares [] chan = [] ∧
        look t.mem.repaired [] chan = look s.mem.repaired [] chan ++ look s.mem.spares [] chan ∧
        (ctxOf t k).restart.ppr = (ctxOf s k).restart.ppr + 1)) ∧
    (∀ slice, slice < 176 → sliceMode s.mem slice ≠ .retired → sliceDue s slice = true →
      Completes (.thatchSliceRetire slice) s (fun t => sliceMode t.mem slice = .retired))

/-! ## Placement (R17 to R26, R237 to R239, R409, R410) -/

/-- A healthy core with an uncorrected logic fault is declared failed with cause 0, and its failure is on record; one
already failed changes nothing. A core failed for one logic fault that passes re-verification at least an hour after its
last test counts the pass, the third pass makes it healthy again, and a failed run keeps it out for good; the run leaves test
data in that core's scratchpad, and no other byte of memory changes (R19, R135, R410). -/
def Obligations.CoresFail : Prop :=
  ∀ (s : State) (p : Nat),
    (healthy s p = true → Completes (.coreLogicFault p) s (fun t => healthy t p = false ∧ (physAt t p).cause = 0 ∧
      s.clock.ns ∈ (physAt t p).failures)) ∧
    (healthy s p = false → exec (.coreLogicFault p) s = .next s) ∧
    (p < 336 → (physAt s p).failed = true → (physAt s p).cause = 0 → (physAt s p).never = false →
      (physAt s p).lastTest + 3600000000000 ≤ s.clock.ns →
      ((physAt s p).passes < 2 → Completes (.coreReverify p true) s (fun t => healthy t p = false ∧
        (physAt t p).passes = (physAt s p).passes + 1 ∧ OnlyScratch s t p)) ∧
      (2 ≤ (physAt s p).passes → Completes (.coreReverify p true) s (fun t => healthy t p = true)) ∧
      Completes (.coreReverify p false) s (fun t => healthy t p = false ∧ (physAt t p).never = true ∧ OnlyScratch s t p))

/-- A shadowed pair switches when its quantum is over, and early when its resident core has waited 2 µs in TRUSS.WAIT or
FENCE and the other is not known to wait: the other core is resident from now on, the map of the cores stays, and, where no
memory error stands, no context and no core changes. A core under test does not switch (R22, R23, R409). -/
def Obligations.PairsSwitch : Prop :=
  ∀ (s : State) (p a b : Nat), pairOn s p = some (a, b) → s.mem.upsets = [] →
    (s.place.patrol ≠ some p →
      ((physAt s p).switchAt + (partSt s.place (partOf s.place a)).quantumUs * 1000 ≤ s.clock.ns →
        Completes (.shadowQuantumExpiry p) s (fun t => (physAt t p).resident = some b ∧ (physAt t p).switchAt = s.clock.ns ∧
          t.place.map = s.place.map ∧ t.cores = s.cores ∧ t.ctxs = s.ctxs)) ∧
      (∀ k, runningOn s a = some k → waitsFor s k a 2000 = true → waitsFor s k b 0 = false →
        Completes (.shadowEarlySwitch p) s (fun t => (physAt t p).resident = some b ∧ (physAt t p).switchAt = s.clock.ns ∧
          t.place.map = s.place.map ∧ t.cores = s.cores ∧ t.ctxs = s.ctxs))) ∧
    (s.place.patrol = some p → Completes (.shadowQuantumExpiry p) s (fun t => t = s) ∧ Completes (.shadowEarlySwitch p) s (fun t => t = s))

/-- The patrol test begins every 60 s on the next healthy core: a free core is tested directly, and of memory only that core's
scratchpad, which then holds test data, changes. It ends after 40 ms: a core
that passes serves again, and one that fails is declared failed by the patrol test, never to return. The watchdog test
changes nothing where no context is launched, leaves the measure of a suspended context where it stood, and raises
DEADLOCK_SUSPECT for a launched context that runs, waits, and has
made no progress for its period (R135, R237 to R239, R409, R410). -/
def Obligations.TestsOfCores : Prop :=
  ∀ (s : State),
    (∀ p, s.place.patrol = none → s.place.patrolAt + 60000000000 ≤ s.clock.ns → alive s = true → 10 ≤ s.fw.stage →
      patrolTarget s = some p → placedOn s.place p = [] →
      Completes .patrolTestStart s (fun t => t.place = { s.place with patrol := some p, patrolNext := (p + 1) % 336, patrolAt := s.clock.ns } ∧
        OnlyScratch s t p ∧ t.cores = s.cores ∧ t.ctxs = s.ctxs)) ∧
    (∀ p sig margin, s.place.patrol = some p → s.place.patrolAt + 40000000 ≤ s.clock.ns → p < 336 →
      Config.minMargin (p / 21) ≤ margin → (bayAt s (p / 21)).minMargin = none →
      (healthy s p = true → Completes (.patrolTestDone true sig margin) s (fun t => t.place.patrol = none ∧ healthy t p = true ∧
        (physAt t p).lastTest = s.clock.ns)) ∧
      Completes (.patrolTestDone false sig margin) s (fun t => t.place.patrol = none ∧ healthy t p = false ∧
        (physAt t p).never = true)) ∧
    ((∀ k, (ctxOf s k).launched = false) → Completes .watchdogTest s (fun t => t = s)) ∧
    (∀ k, k < 64 → (∀ q, q ≠ k → (ctxOf s q).launched = false) → (ctxOf s k).launched = true →
      (watchSuspended s k = true → Completes .watchdogTest s (fun t => t.mem = s.mem ∧ t.cores = s.cores ∧ OthersKept s t k ∧
        t.obs = s.obs ∧ (ctxOf t k).watchBase = (ctxOf s k).watchBase + (s.clock.ns - (ctxOf s k).watchAt))) ∧
      (watchSuspended s k = false → ctxWaiting s k = true → (ctxOf s k).watchBase + (ctxOf s k).watchdogMs * 1000000 ≤ s.clock.ns →
        (ctxOf s k).restart.phase = 0 → (ctxOf s k).faultSeq = 0 →
        Completes .watchdogTest s (fun t => t.mem = s.mem ∧ t.cores = s.cores ∧
          (t.obs.log.getLast?.map (fun e => (e.code, e.ctx))) = some (0x0305, k))))

/-! ## Chain (R242 to R254) -/

/-- A sound flit with the SEQ its direction expects is accepted: the next SEQ is expected, what its LINK word acknowledges leaves
the other direction's buffer, behind whose rest only new flits stand, and the bytes of a SINGLE flit for the die that receives
it, of a burst not made here, stand at the address its request word names. Any other flit is discarded: the expected SEQ stays, and
the first of a row is answered with a NAK of the last flit accepted. A NAK takes what it acknowledges out of the buffer and begins
a replay of the rest; so does 256 ns without an acknowledgement of the oldest flit, and not before (R243 to R245; the places of
the request word's fields are the model's choice, log 132).
Sparing: margins are taken each 1 ms and kept; a lane that is due, with no lower due lane of its group before it, gets the lowest
free spare; the sender of the SWAP sends 64 IDLE flits; after them the lane is switched to its spare and CHAIN_LANE_SPARED
raised. A group that cannot be made whole is removed, with CHAIN_GROUP_REMOVED while its join has another (R247 to R251). -/
def Obligations.ChainLinks : Prop :=
  (∀ (s : State) (j g : Nat) (up : Bool), laneGroupOk s j g = true → alive s = true →
      (∀ f, flitCrcOk f = true → f.kind < 7 → f.cls < 6 → f.seq = (dirOf s j g up).expect →
        Completes (.flitReceive j g up f.data f.link) s (fun t => (f.kind < 2 ∨ f.kind = 6 → t.mem = s.mem) ∧ t.place = s.place ∧
          (dirOf t j g up).expect = ((dirOf s j g up).expect + 1) % 4096 ∧ (dirOf t j g up).nakSent = false ∧
          (∃ l, (dirOf t j g (!up)).buffer.map (fun e => e.2) =
            ((if f.ackValid then ackBuffer (dirOf s j g (!up)).buffer f.ack else (dirOf s j g (!up)).buffer).map (fun e => e.2)) ++ l) ∧
          (MemCanonical s → f.kind = 5 → f.destDie = (if up then (joinEnds j).2 else (joinEnds j).1) →
            s.chain.bursts.any (fun b => b.tag == f.tag && b.group == 16 * j + g) = false →
            leNat (f.payload.take 5) + (flitData f).length ≤ Config.scratchDpa →
            ∀ i, i < ((flitData f).take (leNat ((f.payload.drop 8).take 4))).length →
              byteAt t.mem.cells (leNat (f.payload.take 5) + i) = nth (flitData f) i 0))) ∧
      (∀ f, flitCrcOk f = false ∨ f.seq ≠ (dirOf s j g up).expect →
        Completes (.flitReceive j g up f.data f.link) s (fun t => t.mem = s.mem ∧ t.place = s.place ∧ (dirOf t j g up).nakSent = true ∧
          (dirOf t j g up).expect = (dirOf s j g up).expect ∧
          ((dirOf s j g up).nakSent = true → dirOf t j g (!up) = dirOf s j g (!up)) ∧
          ((dirOf s j g up).nakSent = false → (dirOf s j g (!up)).buffer.length < 512 →
            ∃ e ∈ (dirOf t j g (!up)).buffer, e.2.nak = true ∧ e.2.ackValid = true ∧
              e.2.ack = ((dirOf s j g up).expect + 4095) % 4096))) ∧
      (∀ a, Completes (.nakReceive j g up a) s (fun t => t.mem = s.mem ∧ t.place = s.place ∧
        (∃ l, (dirOf t j g up).buffer.map (fun e => e.2) = (ackBuffer (dirOf s j g up).buffer a).map (fun e => e.2) ++ l) ∧
        (dirOf t j g (!up)).expect = (dirOf s j g (!up)).expect ∧
        (∀ f r, ackBuffer (dirOf s j g up).buffer a = f :: r → (dirOf t j g up).replaySeq = f.2.seq))) ∧
      (∀ f r, (dirOf s j g up).buffer = f :: r →
        (f.1 + 256 ≤ s.clock.ns → Completes (.replayTimeout j g up) s (fun t => t.mem = s.mem ∧ t.place = s.place ∧
          (dirOf t j g up).buffer = (f :: r).map (fun e => (s.clock.ns, e.2)) ∧ (dirOf t j g up).replaySeq = f.2.seq ∧
          (dirOf t j g up).replays =
            if (dirOf s j g up).replays ≠ 0 ∧ (dirOf s j g up).replaySeq = f.2.seq then (dirOf s j g up).replays + 1 else 1)) ∧
        (s.clock.ns < f.1 + 256 → Completes (.replayTimeout j g up) s (fun t => t = s)))) ∧
  (∀ (s : State) (j : Nat) (up : Bool), alive s = true →
      (∀ p m, j < 16 → p < lanesAll j →
        (has s.chain.marginAt (2 * j + b1 up) = false ∨ look s.chain.marginAt 0 (2 * j + b1 up) + 1000000 ≤ s.clock.ns) →
        Completes (.marginReport j up [(p, m, true)]) s (fun t => t.mem = s.mem ∧
          look t.chain.margins 0 (256 * j + p) = m ∧ t.chain.unlocked = delNat s.chain.unlocked (256 * j + p) ∧
          look t.chain.marginAt 0 (2 * j + b1 up) = s.clock.ns)) ∧
      (∀ lane cause sp r, laneCause s j lane = some cause → freeSpares s.chain j = sp :: r → laneGroupOk s j (lane / 8) = true →
        swapping s.chain j lane = false →
        (∀ l, 8 * (lane / 8) ≤ l → l < lane → laneCause s j l = none) →
        Completes (.laneDue j up lane) s (fun t => t.mem = s.mem ∧
          look t.chain.swaps ⟨0, 0, 0, 0⟩ (swapKey j lane up) = ⟨lane, sp, cause, 0⟩ ∧ t.chain.laneMap = s.chain.laneMap)) ∧
      (∀ lane sp cause, swapHeld s j up lane sp = false → has s.chain.swaps (swapKey j lane up) = true →
        look s.chain.swaps ⟨0, 0, 0, 0⟩ (swapKey j lane up) = ⟨lane, sp, cause, 0⟩ → laneGroupOk s j (lane / 8) = true →
        Completes (.swap j up lane sp) s (fun t => t.mem = s.mem ∧
          look t.chain.swaps ⟨0, 0, 0, 0⟩ (swapKey j lane up) = ⟨lane, sp, cause, (dirOf s j (lane / 8) up).sent + 64⟩ ∧
          64 ≤ (((dirOf t j (lane / 8) up).waiting ++ (dirOf t j (lane / 8) up).buffer.map (fun e => e.2)).filter
            (fun f => f.kind == 0)).length)) ∧
      (∀ lane sp cause n, s.chain.swaps = [(swapKey j lane up, ⟨lane, sp, cause, n⟩)] → lane < 256 → 0 < n →
        n ≤ (dirOf s j (lane / 8) up).sent →
        Completes (.laneSwitch j up) s (fun t => t.mem = s.mem ∧ physLane t.chain j lane = sp ∧ t.chain.swaps = [] ∧
          (t.obs.log.getLast?.map (fun e => (e.code, e.unit))) = some (0x0821, 0x4000 + j))) ∧
      (∀ g cause, groupCause s j g = some cause → laneGroupOk s j g = true →
        Completes (.chainGroupRemoved j g) s (fun t => laneGroupOk t j g = false ∧ t.place = s.place ∧
          (s.chain.bursts = [] → t.mem = s.mem) ∧
          (2 ≤ (liveGroups s.chain j).length → (t.obs.log.getLast?.map (fun e => (e.code, e.unit))) = some (0x0822, 0x4000 + j)))))

/-! ## Time (R278, R333, R334, R459) -/

/-- With its queue empty the device counts one cycle of its 25 MHz reference: device time advances by 40 ns, corrected by the rate,
held within ±200 ppm, and by what the cycle takes of the offset still to be slewed, at most 100 ppm of it; without the reference
time stands still; memory, cores and contexts stay (R278, R333, R459). That a step with nothing to do is one reference
cycle is the model's choice (log 1). -/
def Obligations.IdleTick : Prop :=
  ∀ (s : State), s.pending = [] →
    (∃ t, step s = .next t ∧ t.mem = s.mem ∧ t.cores = s.cores ∧ t.ctxs = s.ctxs ∧ t.pending = [] ∧
      (s.clock.ref25 = true →
        (t.clock.ns : Int) * 2 ^ 32 + t.clock.frac = (s.clock.ns : Int) * 2 ^ 32 + s.clock.frac + 40 * 2 ^ 32 +
          max (-34359738) (min 34359738 s.clock.rate) + (s.clock.slew - t.clock.slew) ∧
        t.clock.frac < 2 ^ 32 ∧ (s.clock.slew - t.clock.slew).natAbs ≤ 17179869 ∧
        (s.clock.slew.natAbs ≤ 17179869 → t.clock.slew = 0))) ∧
    (s.clock.ref25 = false → step s = .next s)

/-- The offset a PTP message measures: a one-step Sync as it arrives, and the Follow_Up of a Sync that arrived before, less the
path delay. -/
def syncOffset (s : State) (m : PtpMsg) (off : Int) : Prop :=
  (∃ q t1, m = .sync q false t1 ∧ off = (s.clock.ns : Int) - t1 - s.clock.delay) ∨
  (∃ q t1 t2, m = .followUp q t1 ∧ s.clock.syncWait = some (q, t2) ∧ off = (t2 : Int) - t1 - s.clock.delay)

/-- The discipline of device time: the first Sync of a power-up steps it by the offset while no context exists; every later
one leaves the time itself as it is and slews the offset away, at a rate correction within ±200 ppm; an offset above 1 µs,
and 3 s without a Sync, raise PTP_UNSYNCED; an end-to-end exchange measures the path delay as half of the two ways' sum; a message
at another port is not taken; PPS_IN slews to the nearest whole second; PPS_OUT rises at each whole second
(R278, R334). -/
def Obligations.TimeDisciplined : Prop :=
  ∀ (s : State), s.clock.ref25 = true →
    (∀ net m off rate, (net = 0 ∨ net = 4 ∨ net = 6) → s.clock.source = 0 → syncOffset s m off →
      (∀ port, port ≠ s.clock.port → Completes (.ptpSyncReceive ⟨port, net, m⟩ rate) s (fun t => t = s)) ∧
      (s.clock.profile.testBit 1 = false → s.clock.stepped = false → anyCtx s = false →
        Completes (.ptpSyncReceive ⟨s.clock.port, net, m⟩ rate) s (fun t => t.clock.ns = ((s.clock.ns : Int) - off).toNat ∧
          t.clock.stepped = true ∧ t.clock.rate = max (-34359738) (min 34359738 rate) ∧ t.mem = s.mem)) ∧
      (s.clock.profile.testBit 1 = false → (s.clock.stepped = true ∨ anyCtx s = true) →
        Completes (.ptpSyncReceive ⟨s.clock.port, net, m⟩ rate) s (fun t => t.clock.ns = s.clock.ns ∧ t.clock.slew = -off * 4294967296 ∧
          t.clock.rate = max (-34359738) (min 34359738 rate) ∧ t.clock.lastSync = s.clock.ns ∧
          t.clock.unsynced = decide (1000 < off.natAbs) ∧ t.mem = s.mem ∧
          (1000 < off.natAbs → s.clock.unsynced = false → (t.obs.log.getLast?.map (fun e => e.code)) = some 0x0407)))) ∧
    (∀ net q t1 t2 t3 t4 rate, (net = 0 ∨ net = 4 ∨ net = 6) → s.clock.source = 0 → s.clock.delayReq = some (q, t1, t2, t3) →
      Completes (.ptpSyncReceive ⟨s.clock.port, net, .delayResp (clockId (macOn s s.clock.port)) q t4⟩ rate) s (fun t =>
        t.clock.delay = (((t2 : Int) - t1) + ((t4 : Int) - t3)) / 2 ∧ t.clock.ns = s.clock.ns ∧ t.mem = s.mem)) ∧
    (s.clock.source = 0 → s.clock.lastSync + 3000000000 ≤ s.clock.ns → Completes .ptpSyncTimeout s (fun t =>
      t.clock.unsynced = true ∧ t.clock.ns = s.clock.ns ∧ t.mem = s.mem)) ∧
    (s.clock.source = 1 → Completes .ppsIn s (fun t => t.clock.ns = s.clock.ns ∧ t.mem = s.mem ∧
      -34359738 ≤ t.clock.rate ∧ t.clock.rate ≤ 34359738 ∧ (∃ m : Int, (t.clock.ns : Int) - t.clock.offset = m * 1000000000) ∧
      -500000000 ≤ t.clock.offset ∧ t.clock.offset < 500000000 ∧ t.clock.slew = -t.clock.offset * 4294967296)) ∧
    (s.clock.ns / 1000000000 ≠ s.clock.lastSec → Completes .ppsOut s (fun t =>
      t.clock.ppsOutAt = some (s.clock.ns / 1000000000 * 1000000000) ∧ t.clock.lastSec = s.clock.ns / 1000000000 ∧ t.mem = s.mem))

/-! ## Clocks and voltages (R307 to R319, R335, R336) -/

/-- A frequency step: the PMU has a PLL lock at the wanted set point, with the voltage of that point already applied on the
way up; the set point itself changes only when the mux switches, to the locked value, and not while the bay droops (R307,
R308, R319). -/
def Obligations.FrequencySteps : Prop :=
  ∀ (s : State) (b : Nat), alive s = true → s.power.fallback = false →
    (b < 16 → ((bayAt s b).stopped = false ∨ bayIdle s b = false) → wanted s b ≠ (bayAt s b).setPoint →
      (bayAt s b).stepTo ≠ some (wanted s b) →
      ((bayAt s b).setPoint < wanted s b → afterDroop s (bayAt s b) 20000 = false ∧ avsFails s b = false) →
      Completes (.frequencyStep b) s (fun t => (bayAt t b).stepTo = some (wanted s b) ∧
        (bayAt t b).setPoint = (bayAt s b).setPoint ∧ t.mem = s.mem ∧
        ((bayAt s b).setPoint < wanted s b → tableMv b (bayAt s b) (wanted s b) ≤ (bayAt t b).volt))) ∧
    (∀ f, (bayAt s b).stepTo = some f → (bayAt s b).droop = false → Completes (.muxSwitch b) s (fun t =>
      (bayAt t b).setPoint = f ∧ (bayAt t b).stepTo = none ∧ t.mem = s.mem ∧ t.cores = s.cores)) ∧
    (∀ f, (bayAt s b).stepTo = some f → (bayAt s b).droop = true → Completes (.muxSwitch b) s (fun t => t = s))

/-- The driving PLL that loses lock notes the loss and raises PLL_UNLOCK; a droop is counted and stretches the bay's cycles
until it clears; a lowering held since takes place where nothing holds it; a bay with no core for 100 µs has its clock
stopped; each microsecond adds the cycles a bay delivered to its counter (R309, R318, R319, R335, R336).
A margin at or above the bay's bound changes no table; below it the two points that bracket the set point are raised,
and no point of the table ever falls (R312, R313). -/
def Obligations.BayClocksAndMargins : Prop :=
  (∀ (s : State) (b : Nat), b < 16 →
      (∀ pll, pll < 2 → (bayAt s b).sel = (pll == 1) → alive s = true → Completes (.pllUnlock b pll) s (fun t => t.mem = s.mem ∧
        (if pll = 0 then (bayAt t b).lossAt0 else (bayAt t b).lossAt1) = some s.clock.ns ∧
        (t.obs.log.getLast?.map (fun e => (e.code, e.unit))) = some (0x060E, unitBay b))) ∧
      ((bayAt s b).droop = false → Completes (.droopDetect b) s (fun t => bayAt t b = { bayAt s b with droop := true } ∧
        counter t 3 b 0x80 = counter s 3 b 0x80 + 1 ∧ t.mem = s.mem)) ∧
      ((bayAt s b).droop = true → Completes (.droopClear b) s (fun t =>
        bayAt t b = { bayAt s b with droop := false, droopAt := some s.clock.ns } ∧ t.mem = s.mem)) ∧
      (∀ v, (bayAt s b).lowerTo = some v → v < (bayAt s b).volt → (bayAt s b).droop = false → afterDroop s (bayAt s b) 100000 = false →
        s.power.fallback = false → avsFails s b = false → Completes (.voltageLowerHoldExpiry b) s (fun t =>
          (bayAt t b).volt = v ∧ (bayAt t b).lowerTo = none ∧ t.mem = s.mem)) ∧
      ((bayAt s b).stopped = false → bayIdle s b = true → (bayAt s b).idleSince + 100000 ≤ s.clock.ns →
        Completes (.bayClockStop b) s (fun t => (bayAt t b).stopped = true ∧ t.mem = s.mem)) ∧
      (∀ l, Completes (.lostCycleUpdate l) s (fun t => (bayAt t b).cycles = (bayAt s b).cycles + nth l b 0 ∧
        (bayAt t b).setPoint = (bayAt s b).setPoint ∧ t.mem = s.mem))) ∧
  (∀ (s : State) (b m : Nat), b < 16 → s.power.fallback = false → alive s = true → (bayAt s b).minMargin = none →
      (Config.minMargin b ≤ m → Completes (.marginMonitorRead b m) s (fun t => t = { s with power := t.power } ∧
        bayAt t b = { bayAt s b with minMargin := some (m, s.clock.ns) } ∧ ∀ c, c ≠ b → bayAt t c = bayAt s c)) ∧
      (m < Config.minMargin b → Completes (.marginMonitorRead b m) s (fun t => t.mem.cells = s.mem.cells ∧
        ∀ i, look (bayAt s b).offsets 0 i ≤ look (bayAt t b).offsets 0 i)))

/-! ## Power, energy and heat (R320 to R332, R452) -/

/-- The fast loop against the package limit: above the limit lever 1 rises a step, by at most 1 and never beyond 12; below
95 % of it the levers fall back a step; the half rate of HBM ends. Memory, cores and contexts stay (R320, R322).
The slow loop begins its sums anew, and a die whose measured power is less than half its estimate is SUSPECT, with its
basis 1.1 times the estimate; energy is charged to the context resident on a core, scaled by the die's calibration, the
grains' energy to their context, and the rest to the overhead; PMBUS_ALERT_N reads the status of the regulators and changes
nothing else (R323, R324, R326, R452). -/
def Obligations.PowerLoops : Prop :=
  (∀ (s : State) (raw : List Nat) (uncore : Nat), Completes (.fastLoop raw uncore) s (fun t => t.mem = s.mem ∧ t.cores = s.cores ∧
      ((limitMw s : Rat) < packageMw s raw uncore → s.power.throttle < 12 → t.power.throttle = s.power.throttle + 1 ∧
        t.power.throttleFixed = s.power.throttleFixed) ∧
      (packageMw s raw uncore < (limitMw s : Rat) * (95 / 100) → t.power.hbmHalf = false ∧
        t.power.throttleFixed = s.power.throttleFixed - 1 ∧
        t.power.throttle = if 0 < s.power.throttleFixed then s.power.throttle else s.power.throttle - 1) ∧
      ((limitMw s : Rat) * (95 / 100) ≤ packageMw s raw uncore → packageMw s raw uncore ≤ (limitMw s : Rat) →
        t.power.throttle = s.power.throttle ∧ t.power.throttleFixed = s.power.throttleFixed ∧ t.power.lowSince = none))) ∧
  (∀ (s : State),
      (∀ l, s.power.fallback = false → alive s = true → Completes (.slowLoop l) s (fun t => t.mem = s.mem ∧
        t.power.estCount = 0 ∧ t.power.estSum = [0, 0, 0, 0] ∧ t.power.tSum = 0 ∧
        ∀ d m, d < 4 → s.power.k.length = 4 → s.power.suspect.length = 4 → nth l d none = some m → 0 < s.power.estCount →
          0 < nth s.power.estSum d 0 → (m : Rat) < nth s.power.estSum d 0 / (s.power.estCount : Rat) / 2 →
          nth t.power.suspect d false = true ∧ nth t.power.k d 1 = 11 / 10)) ∧
      (∀ k e rest, k < 64 → (ctxOf s k).st ≠ .free → Completes (.energyAttribution [] [(k, e)] rest) s (fun t =>
        (ctxOf t k).energy = (ctxOf s k).energy + e ∧ t.power.overhead = s.power.overhead + rest ∧ t.mem = s.mem)) ∧
      (∀ k p e rest, ctxOnCore s p = k → k < 64 → (ctxOf s k).st ≠ .free → Completes (.energyAttribution [(p, e)] [] rest) s (fun t =>
        (ctxOf t k).energy = (ctxOf s k).energy + (kOf s (p / 84) * nth s.power.gains (p / 84) 1 * (e : Rat)).floor.toNat ∧
        t.power.overhead = s.power.overhead + rest)) ∧
      Completes .pmbusAlert s (fun t => t.mem = s.mem ∧ t.cores = s.cores ∧ t.ctxs = s.ctxs ∧ t.power.regStatus.length = 4 ∧
        t.power = { s.power with regStatus := t.power.regStatus }))

/-- Every sample is kept, and the throttle level is entered with THERMAL_THROTTLE when the hottest die reads 100 °C or
more; a stack at 95 °C halves its command rate and raises its event; a logic die at 120 °C trips THERMTRIP_N, stops every bay
clock and is fatal (R328, R329). 
The emergency state: a temperature at its trip point, FAST_THROTTLE_N low, or an unplanned fallback of the PMU holds
every bay to 550 MHz or its set points, with ALERT_N low; each is left when its cause is gone, and when none is left ALERT_N
rises (R329 to R332). -/
def Obligations.HeatAndEmergency : Prop :=
  (∀ (s : State),
      (∀ dies hbm, s.power.fallback = false → alive s = true → Completes (.thermalSample dies hbm) s (fun t =>
        t.power.temps = dies ∧ t.power.tj = hottest dies ∧ t.mem.cells = s.mem.cells ∧
        (10000 ≤ hottest dies → t.power.throttled = true))) ∧
      (∀ n temp, n < 8 → 9500 ≤ temp → s.power.hbmHot.elem n = false → Completes (.hbmThrottle n temp) s (fun t =>
        t.mem.halfRate = addNat s.mem.halfRate n ∧ t.mem.cells = s.mem.cells ∧
        (t.obs.log.getLast?.map (fun e => (e.code, e.unit))) = some (0x0608, unitChan (32 * n)))) ∧
      (∀ n temp, n < 53 → 12000 ≤ temp → s.board.tripLatch = false → Completes (.thermalTrip n temp) s (fun t =>
        t.board.tripLatch = true ∧ t.board.thermN = false ∧ t.board.alertN = false ∧ t.board.bayStop = List.range 16 ∧
        t.obs.fatal = true ∧ t.mem = s.mem))) ∧
  (∀ (s : State),
      (∀ n temp, n < 61 → (if n < 53 then 11000 else 10500) ≤ temp → s.power.emergency = false → s.power.emActive = false → Completes (.thermalEmergency n temp) s (fun t =>
        t.power.emergency = true ∧ t.power.emActive = true ∧ t.board.alertN = false ∧ held550 t = true ∧ t.mem = s.mem)) ∧
      (∀ t0, s.power.emCoolSince = some t0 → s.power.emergency = true → t0 + 100000000 ≤ s.clock.ns → s.power.fastLow = false →
        s.power.fallback = false → s.power.emActive = true → s.obs.fatal = false → Completes .thermalEmergencyRelease s (fun t =>
          t.power.emergency = false ∧ t.power.emActive = false ∧ t.mem = s.mem)) ∧
      (s.power.fastLow = false → Completes .fastThrottle s (fun t => t.power.fastLow = true ∧ held550 t = true ∧ t.mem = s.mem)) ∧
      (s.power.fastLow = true → Completes .fastThrottleRelease s (fun t => t.power.fastLow = false ∧ t.mem = s.mem ∧
        held550 t = s.power.emergency)) ∧
      (∀ n, 3 ≤ n → s.power.fallback = false → Completes (.pmuFallback n) s (fun t => t.power.fallback = true ∧
        t.power.planned = false ∧ t.mem = s.mem ∧ ∀ b, (bayAt t b).setPoint = (bayAt s b).setPoint)) ∧
      (s.power.fallback = true → Completes .pmuResume s (fun t => t.power.fallback = false ∧ t.mem = s.mem ∧
        ∀ b, (bayAt t b).setPoint = (bayAt s b).setPoint)))

/-! ## Reset, power and boot (R341 to R343, R406, R407, R418, R453 to R459) -/

/-- PERST_N low resets every domain but the always-on one: no context, no core, no byte of memory, no session and no state
of firmware is left, while the flash's counters and banks, the placement and lane maps and device time stay; its release
samples the straps and increments INCARNATION. Power-up starts device time, the log and the always-on counters anew, with
PERST_N low and every rail but VDD_AON out of range. VDD_CTL or VDD_AON out of range resets the device, any other rail at
stage 6 or later raises device recovery, and so does the loss of REF25, which stops device time; VDD_CTL back clears FATAL and the trip latch, which
is the model's reading (log 90). -/
def Obligations.ResetsAndRails : Prop :=
  ∀ (s : State),
    (s.board.perstLow = false → Completes .perstNAssert s (fun t => t.board.perstLow = true ∧ t.fw = {} ∧ t.ctxs = [] ∧
      t.cores = [] ∧ t.mem.cells = [] ∧ t.net.sessions = [] ∧ t.sec.counters = s.sec.counters ∧ t.sec.banks = s.sec.banks ∧
      t.place.map = s.place.map ∧ t.chain.laneMap = s.chain.laneMap ∧ t.clock.ns = s.clock.ns)) ∧
    (∀ m c, s.board.perstLow = true → Completes (.perstNRelease m c) s (fun t => t.board.perstLow = false ∧ t.fw.bootMode = m ∧
      t.fw.clkMode = c ∧ t.board.waiting = groupsLow s.board ∧ t.board.i3c = none ∧ t.mem = s.mem ∧
      t.net.incarnation = s.net.incarnation + 1 ∧ t.sec.debug = (s.sec.debug || s.sec.debugNext))) ∧
    Completes .powerUp s (fun t => t.clock = {} ∧ t.obs = {} ∧ t.ctxs = [] ∧ t.cores = [] ∧ t.mem.cells = [] ∧ t.sec.debug = false ∧
      t.board.perstLow = true ∧ t.sec.counters = s.sec.counters ∧ ∀ r, r < 22 → (t.board.low.elem r = true ↔ r ≠ 13)) ∧
    (∀ r, r < 22 → s.board.low.elem r = false →
      (r = 12 ∨ r = 13 → Completes (.railUndervoltage r) s (fun t => t.fw = {} ∧ t.ctxs = [] ∧ t.mem.cells = [] ∧
        t.board.low.elem r = true ∧ t.sec.counters = s.sec.counters)) ∧
      (r ≠ 12 → r ≠ 13 → s.board.perstLow = false → 6 ≤ s.fw.stage → s.obs.fatal = false →
        Completes (.railUndervoltage r) s (fun t => t.fw.recovering = true))) ∧
    (∀ r, s.board.low.elem r = true → Completes (.railInRange r) s (fun t => t.board.low.elem r = false ∧ t.mem = s.mem ∧
      t.fw = s.fw ∧ (r = 12 → t.obs.fatal = false ∧ t.board.tripLatch = false))) ∧
    (s.clock.ref25 = true → Completes .ref25Loss s (fun t =>
      (s.board.perstLow = false → 4 ≤ s.fw.stage → s.obs.fatal = false → t.fw.recovering = true) ∧
      (s.fw.stage < 4 ∨ (∀ j, j < 64 → ctxExists s j = false) → t.clock.ref25 = false ∧ t.clock.ns = s.clock.ns))) ∧
    Completes .ref25Return s (fun t => t = { s with clock := { s.clock with ref25 := true } })

/-- A boot stage that ends well is followed by the next, at the boot position the end of the stage has; CLOCKS starts every
bay clock, and the last stage starts the count of the host's silence. A stage that ends in an error of R418 stops boot with it, and
recovery over PCIe follows where the straps allow it and the configuration record is sound; with the straps at recovery,
stage ROM ends in it (R341, R343, R418). -/
def Obligations.BootRuns : Prop :=
  ∀ (s : State) (f : BootFinding), s.board.perstLow = false → s.board.waiting = false → s.board.tripLatch = false → alive s = true →
    s.fw.recovering = false → 1 ≤ s.fw.stage → s.fw.stage < 10 → s.fw.bootError = 0 → s.fw.recoveryBoot = false →
    (stageError f s.fw.stage = none → ¬(s.fw.stage = 1 ∧ s.fw.bootMode = 2) → Completes (.bootStageComplete f) s (fun t =>
      t.fw.stage = s.fw.stage + 1 ∧ t.fw.progPos = bootPos s.fw.stage ∧ (s.fw.stage = 5 → t.board.bayStop = []) ∧
      (s.fw.stage = 9 → t.fw.lastHost = s.clock.ns))) ∧
    (∀ e, stageError f s.fw.stage = some e → Completes (.bootStageComplete f) s (fun t => t.fw.bootError = e ∧
      t.fw.stage = s.fw.stage ∧ t.sec = s.sec ∧ t.mem = s.mem ∧ (t.fw.recoveryBoot = true ↔ e ≠ 4 ∧ s.fw.bootMode = 0))) ∧
    (stageError f s.fw.stage = none → s.fw.stage = 1 → s.fw.bootMode = 2 → Completes (.bootStageComplete f) s (fun t =>
      t.fw.recoveryBoot = true ∧ t.fw.stage = 1 ∧ t.mem = s.mem))

/-- Device recovery: causes 1 to 5 start it at stage 3 with every session reset, and when its stages have run it ends with
INCARNATION incremented. A firmware pair's first lockstep mismatch restarts its services, a second within 24 hours takes it out of
service. The sideband changes its mode, the PCIe link its state, and a manager's attestation ends 24 hours after it
began (R339, R406, R407, R423, R449, R464; the address after SETDASA is the model's choice, log 177). -/
def Obligations.RecoveryAndPairs : Prop :=
  ∀ (s : State),
    (∀ c, alive s = true → 4 ≤ s.fw.stage → 1 ≤ c → c ≤ 5 → Completes (.deviceRecovery c) s (fun t => t.fw.recovering = true ∧
      (s.fw.recovering = false → t.fw.recoverStage = 3 ∧ t.net.sessions = []))) ∧
    (s.fw.recovering = true → 10 ≤ s.fw.recoverStage → s.fw.recoverBlocked = false → alive s = true →
      Completes (.deviceRecoveryComplete true) s (fun t => t.fw.recovering = false ∧ t.net.incarnation = s.net.incarnation + 1 ∧
        t.net.attested = [] ∧ t.mem = s.mem ∧ t.ctxs = s.ctxs)) ∧
    (∀ p, p < 4 → (pairAt s p).out = false → alive s = true → 3 ≤ s.fw.stage →
      ((∀ t0, (pairAt s p).lastMiss = some t0 → t0 + day ≤ s.clock.ns) → Completes (.lockstepMismatch p) s (fun t =>
        (pairAt t p).restarting = true ∧ (pairAt t p).out = false ∧ t.mem = s.mem ∧
        (t.obs.log.getLast?.map (fun e => (e.code, e.unit))) = some (0x070A, unitPair p))) ∧
      (∀ t0, (pairAt s p).lastMiss = some t0 → s.clock.ns < t0 + day → Completes (.lockstepMismatch p) s (fun t =>
        (pairAt t p).out = true ∧ t.mem = s.mem))) ∧
    (∀ p, (pairAt s p).restarting = true → Completes (.pairRestartComplete p) s (fun t =>
      pairAt t p = { pairAt s p with restarting := false } ∧ t.mem = s.mem ∧ t.ctxs = s.ctxs)) ∧
    (s.board.low.elem 14 = false →
      (∀ a, a < 128 → Completes (.entdaa a) s (fun t => t = { s with board := { s.board with i3c := some a } })) ∧
      Completes .setdasa s (fun t => t = { s with board := { s.board with i3c := some 0x3A } }) ∧
      Completes .rstdaa s (fun t => t = { s with board := { s.board with i3c := none } })) ∧
    (s.board.low.elem 14 = true → (∀ a, Completes (.entdaa a) s (fun t => t = s)) ∧ Completes .setdasa s (fun t => t = s) ∧
      Completes .rstdaa s (fun t => t = s)) ∧
    Completes .pcieLinkDown s (fun t => t = { s with fw := { s.fw with linkUp := false } }) ∧
    Completes .pcieLinkUp s (fun t => t.fw.linkUp = true ∧ t.mem = s.mem ∧ ∀ v, v < 3 → (look s.host.msix {} v).mask = false →
      (look t.host.msix {} v).pend = false) ∧
    (∀ k node b t0, s.net.managers[k]? = some (node, b) → (node, t0) ∈ s.net.attested → t0 + day ≤ s.clock.ns →
      Completes (.managerSessionTimeout k) s (fun t => (∀ a ∈ t.net.attested, a.1 ≠ node) ∧ t.mem = s.mem ∧ t.fw = s.fw))

/-! ## The outbox and the trace (R349 to R351, R369, R434, R435, R472) -/

/-- The next record is written at OUTBOX + 64 × (PROD mod 4,096) and PROD rises by 1 modulo 8,192; a record unsignalled for
10 µs fires vector 0; a write of CONS releases the records before it and a write that would pass PROD is ignored. A host
silent for TIMEOUT_S is absent, and every launched context with the policy PAUSE is asked to pause. A source's oldest trace
record goes to the region, counted, but in mode STOP a full region drops it, counted (R350, R351, R369, R370, R435,
R472). -/
def Obligations.OutboxAndTrace : Prop :=
  ∀ (s : State),
    (∀ r rest, s.fw.outbox.waiting = r :: rest → outboxBlocked s.fw = false → s.clock.ref25 = true → serves s 0 = true →
      Completes .outboxRecordWrite s (fun t => t.fw.outbox.prod = (s.fw.outbox.prod + 1) % 8192 ∧ t.mem = s.mem ∧
        t.host.hostWr = s.host.hostWr ++ [(s.fw.outbox.addr + 64 * (s.fw.outbox.prod % 4096), outboxBytes r s.fw.outbox.prod)] ∧
        (unconsumed t.fw.outbox < 4096 → t.fw.outbox.waiting = rest))) ∧
    (∀ t0, s.fw.outbox.oldest = some t0 → t0 + 10000 ≤ s.clock.ns → Completes .outboxSignalTimer s (fun t =>
      t.fw.outbox.oldest = none ∧ t.host = fire s.host s.fw.linkUp 0 ∧ t.mem = s.mem)) ∧
    (∀ v : Word32, (s.fw.outbox.prod + 8192 - v.toNat % 8192) % 8192 ≤ 4096 → Completes (.cons v) s (fun t =>
      t.fw.outbox.cons = v.toNat % 8192 ∧ t.fw.outbox.prod = s.fw.outbox.prod ∧ t.mem = s.mem ∧
      t.fw.outbox.ring = s.fw.outbox.ring.drop ((v.toNat % 8192 + 8192 - s.fw.outbox.cons) % 8192))) ∧
    (∀ v : Word32, 4096 < (s.fw.outbox.prod + 8192 - v.toNat % 8192) % 8192 → Completes (.cons v) s (fun t => t = s)) ∧
    (alive s = true → serves s 0 = true → s.fw.absent = false → 10 ≤ s.fw.stage → s.fw.lastHost + s.fw.timeoutS * second ≤ s.clock.ns →
      (∀ k, k < 64 → (ctxOf s k).launched = true → (ctxOf s k).hostLoss ≠ 2) →
      Completes .hostAbsenceTest s (fun t => t.fw.absent = true ∧ t.fw.absentAt = s.clock.ns ∧ t.mem = s.mem ∧ t.cores = s.cores ∧
        ∀ k, k < 64 → (ctxOf s k).launched = true → (ctxOf s k).hostLoss = 1 → (ctxOf t k).pauseReq = true)) ∧
    (∀ src r rest, look s.obs.buffers [] src = r :: rest →
      (s.obs.mode = 0 ∨ s.obs.next < s.obs.capacity → Completes (.traceRecordWrite src) s (fun t => t.obs.next = s.obs.next + 1 ∧
        look t.obs.buffers [] src = rest ∧ counter t 0 0 0xC0 = counter s 0 0 0xC0 + 1 ∧ t.mem = s.mem ∧
        (s.obs.region.length < s.obs.capacity → t.obs.region = s.obs.region ++ [r]))) ∧
      (s.obs.mode = 1 → s.obs.capacity ≤ s.obs.next → Completes (.traceRecordWrite src) s (fun t => t.obs.next = s.obs.next ∧
        t.obs.region = s.obs.region ∧ counter t 0 0 0xC1 = counter s 0 0 0xC1 + 1 ∧ t.mem = s.mem)))

/-- A sample of a histogram unit that is on: count, minimum, maximum and sum are updated, the sum saturating at 2^64 − 1, and
1 is added to the one bin of R441's table that takes the sample; nothing else of the device changes (R441). -/
def Obligations.HistogramSamples : Prop :=
  ∀ (s : State) (u : Nat) (v : Int), u < 32 → (histAt s u).source ≠ 0 →
    Completes (.histSample u v) s (fun t => t = { s with obs := { s.obs with hists := t.obs.hists } } ∧
      (∀ w, w ≠ u → histAt t w = histAt s w) ∧
      (histAt t u).count = (histAt s u).count + 1 ∧
      (histAt t u).min = (if (histAt s u).count = 0 then v else min (histAt s u).min v) ∧
      (histAt t u).max = (if (histAt s u).count = 0 then v else max (histAt s u).max v) ∧
      (histAt t u).sum = min ((histAt s u).sum + v) (2 ^ 64 - 1) ∧
      (∀ i, i < 32 → (inBin (histAt s u).base i v → look (histAt t u).bins 0 i = look (histAt s u).bins 0 i + 1) ∧
        (¬ inBin (histAt s u).base i v → look (histAt t u).bins 0 i = look (histAt s u).bins 0 i)))

/-! ## Slices and halts (R365 to R368, R438) -/

/-- The end of a slice with another context runnable stops issue on the partition; a small configuration that has not drained
after 100 µs goes on for one more slice, with PREEMPT_TIMEOUT; a preemption complete, no stream or sync work under way, makes the
runnable context next in turn resident; a debug halt complete leaves its context HALTED (R365 to R368, R438). -/
def Obligations.SlicesAndHalts : Prop :=
  ∀ (s : State) (p k : Nat), alive s = true →
    ((partSt s.place p).running = some k →
      (serves s 0 = true → (partSt s.place p).preempting = false → (ctxOf s k).haltReq = 0 →
        (partSt s.place p).sliceAt + (partSt s.place p).sliceMs * 1000000 ≤ s.clock.ns →
        nextRunnable s p (partSt s.place p).lastRun ≠ none → Completes (.schedSliceExpiry p) s (fun t =>
          partSt t.place p = { partSt s.place p with preempting := true, preemptAt := s.clock.ns } ∧ t.mem = s.mem ∧
          t.cores = s.cores ∧ t.ctxs = s.ctxs)) ∧
      ((partSt s.place p).preempting = true → isLarge s.place p = false → (partSt s.place p).preemptAt + 100000 ≤ s.clock.ns →
        undrained s k ≠ [] → Completes (.preemptDrainTimeout p) s (fun t =>
          partSt t.place p = { partSt s.place p with preempting := false, sliceAt := s.clock.ns } ∧ t.mem = s.mem ∧
          t.cores = s.cores ∧ (t.obs.log.getLast?.map (fun e => (e.code, e.ctx))) = some (0x0709, k))) ∧
      (∀ j, (partSt s.place p).preempting = true → (isLarge s.place p = true ∨ undrained s k = []) →
        (∀ n ∈ launchCores (ctxOf s k), flightsOf (coreOf s k n) .stream = [] ∧ flightsOf (coreOf s k n) .sync = []) →
        (partSt s.place p).unavailable = false →
        nextRunnable s p k = some j → j ≠ k → Completes (.preemptionComplete p) s (fun t =>
          (partSt t.place p).running = some j ∧ (partSt t.place p).preempting = false ∧ (ctxOf t j).st = .running ∧
          (ctxOf t k).st = .runnable ∧ t.cores = s.cores))) ∧
    (ctxExists s k = true → (ctxOf s k).haltReq ≠ 0 → ((ctxOf s k).st = .running ∨ (ctxOf s k).st = .runnable) → undrained s k = [] →
      (∀ n ∈ launchCores (ctxOf s k), flightsOf (coreOf s k n) .stream = []) → Completes (.debugHaltComplete k) s (fun t =>
        (ctxOf t k).st = .halted ∧ t.cores = s.cores))

/-! ## Live update and the flash (R373 to R377, R413, R419, R420, R424) -/

/-- Live update: an activation runs the staged image, with its event, and keeps the old one; firmware's own image that cannot import
comes back; a window that passes defers the activation, and a commit period that passes rolls back. A write of an
authenticated area needs its tag and the next write counter; no counter falls. A valid debug token takes effect at the next boot
only (R374 to R377, R413, R419, R424). -/
def Obligations.FirmwareUpdates : Prop :=
  ∀ (s : State) (g : Nat),
    (∀ v ok, (updAt s g).staged = some v → (updAt s g).phase = 3 → s.power.emActive = false → anyRestart s = false → alive s = true →
      serves s 3 = true →
      (g ≠ 0 ∨ ok = true → Completes (.fwActivationBegin g ok) s (fun t => (updAt t g).phase = 4 ∧
        (updAt t g).old = some (runningOf s g) ∧ (updAt t g).actAt = s.clock.ns ∧ runningOf t g = v ∧ t.mem = s.mem ∧
        t.sec.counters = s.sec.counters ∧ t.sec.bootPtr = s.sec.bootPtr ∧ (g = 1 → t.power.fallback = true) ∧
        (t.obs.log.getLast?.map (fun e => e.code)) = some 0x0705)) ∧
      (g = 0 → ok = false → Completes (.fwActivationBegin g ok) s (fun t => updAt t g = {} ∧ runningOf t g = runningOf s g ∧
        t.mem = s.mem ∧ (t.obs.log.getLast?.map (fun e => e.code)) = some 0x0707))) ∧
    ((updAt s g).phase = 3 → (updAt s g).reqAt + (updAt s g).window * second ≤ s.clock.ns → Completes (.fwActivateWindowExpiry g) s (fun t =>
      (updAt t g).phase = 2 ∧ (updAt t g).staged = (updAt s g).staged ∧ t.sec = s.sec ∧ t.mem = s.mem ∧
      (t.obs.log.getLast?.map (fun e => e.code)) = some 0x0708)) ∧
    (∀ v, (updAt s g).phase = 4 → (updAt s g).old = some v → (updAt s g).actAt + (updAt s g).commit * second ≤ s.clock.ns →
      Completes (.fwCommitTimeout g) s (fun t => updAt t g = {} ∧ runningOf t g = v ∧ t.sec.counters = s.sec.counters ∧
        t.mem = s.mem ∧ (t.obs.log.getLast?.map (fun e => e.code)) = some 0x0707)) ∧
    (∀ a n d, a ∈ [2, 3, 4, 6] → n = look s.sec.writeCtr 0 a + 1 →
      Completes (.flashWrite a n (kmac256 Config.flashKey (Config.flashTagged a n d)) d) s (fun t => look t.sec.areas [] a = d ∧
        look t.sec.writeCtr 0 a = n ∧ CountersKept s t ∧ t.mem = s.mem)) ∧
    (∀ a n tag d, a ∈ [2, 3, 4, 6] → (tag ≠ kmac256 Config.flashKey (Config.flashTagged a n d) ∨ n ≠ look s.sec.writeCtr 0 a + 1) →
      Completes (.flashWrite a n tag d) s (fun t => t.sec = s.sec ∧ t.mem = s.mem ∧
        (t.obs.log.getLast?.map (fun e => e.code)) = some 0x0906)) ∧
    (∀ m, Completes (.debugUnlockToken m) s (fun t => t.sec.debug = s.sec.debug ∧ t.mem = s.mem ∧
      (failedCheck s 4 m (p8 Config.serial ++ Config.identityDigest) false = 0 → t.sec = { s.sec with debugNext := true }) ∧
      (failedCheck s 4 m (p8 Config.serial ++ Config.identityDigest) false ≠ 0 → t.sec = s.sec ∧
        (t.obs.log.getLast?.map (fun e => e.code)) = some 0x0901)))

/-! ## Job restart (R400 to R404) -/

/-- The halt of a job: a class J event in handling starts it with the next epoch, and JOB_HALT of another node with its own, each
leaving the context RESTARTING; a device that is its whole job goes from the halt to the restore of its newest committed
epoch; more than RESTART_LIMIT restarts in an hour end the job. Answers are gathered, and the end of the gather begins the
restore (R400, R401). -/
def Obligations.JobHaltsAndGathers : Prop :=
  ∀ (s : State) (k : Nat),
    (∀ h, s.obs.handling.find? (fun h => h.cls == clsJ && h.ctx == k && h.code != 0x0811) = some h → ctxExists s k = true →
      (ctxOf s k).restart.phase = 0 → Completes (.jobHalt k) s (fun t => (ctxOf t k).epoch = ((ctxOf s k).epoch + 1) % 0x1_0000 ∧
        (ctxOf t k).restart.phase = 1 ∧ (ctxOf t k).restart.began = s.clock.ns ∧ (ctxOf t k).st = .restarting)) ∧
    (∀ job e o c n, jobCtx s job = some k → 0 < gen16 e (ctxOf s k).epoch → Completes (.jobHaltReceive job e o c n) s (fun t =>
      (ctxOf t k).epoch = e % 0x1_0000 ∧ (ctxOf t k).restart.phase = 1 ∧ (ctxOf t k).st = .restarting)) ∧
    ((ctxOf s k).restart.phase = 1 → (ctxOf s k).ckpt.limit < (ctxOf s k).restart.history.length → s.mem.upsets = [] → Completes (.haltComplete k) s (fun t =>
      (ctxOf t k).restart.phase = 0 ∧ (t.obs.log.getLast?.map (fun e => (e.code, e.ctx))) = some (0x0818, k))) ∧
    (∀ e, (ctxOf s k).restart.phase = 1 → (ctxOf s k).restart.history.length ≤ (ctxOf s k).ckpt.limit → (ctxOf s k).grid = none →
      (ctxOf s k).restart.absent = [] → (ctxOf s k).restart.acks = [] → (ctxOf s k).restart.ackSent = false →
      (ctxOf s k).ckpt.committed = some e → e ≠ 0 → Completes (.haltComplete k) s (fun t => (ctxOf t k).restart.phase = 3 ∧
        (ctxOf t k).restart.target = e ∧ (ctxOf t k).restart.restoreAt = some s.clock.ns ∧ t.mem = s.mem ∧ t.cores = s.cores)) ∧
    (∀ job n e rd ab, jobCtx s job = some k → (ctxOf s k).restart.phase = 1 → Completes (.haltAckReceive job n e rd ab) s (fun t =>
      (ctxOf t k).restart.acks = (ctxOf s k).restart.acks.filter (fun a => a.node != n) ++ [⟨n, e, rd⟩] ∧
      (∀ a ∈ ab, a ∈ (ctxOf t k).restart.absent) ∧ OthersKept s t k ∧ t.mem = s.mem)) ∧
    (∀ n, (ctxOf s k).restart.phase = 1 → (myKids s k).elem n = true → answered (ctxOf s k) n = false →
      (ctxOf s k).restart.began + 50000000 ≤ s.clock.ns → Completes (.haltAckTimeout k n) s (fun t =>
        n ∈ (ctxOf t k).restart.absent ∧ OthersKept s t k ∧ t.mem = s.mem)) ∧
    ((ctxOf s k).restart.phase = 2 → isRoot s k = true → (ctxOf s k).restart.began + 200000000 ≤ s.clock.ns →
      gatherEpoch (ctxOf s k) ≠ 0 → Completes (.gatherTimeout k) s (fun t => (ctxOf t k).restart.phase = 3 ∧
        (ctxOf t k).restart.target = gatherEpoch (ctxOf s k) ∧ OthersKept s t k ∧ t.mem = s.mem))

/-- The restore of a job: RESTORE of an epoch begins it; the copy done, once no READ of the twin's mirror is under way, commits that epoch and clears STATE_POISON, and state lost in
both copies ends the job; RESUME resets trusses and accumulators, puts the step number to the epoch and raises JOB_RESUMED;
REPLACE_WAIT_S without RESUME ends the job (R402 to R404). -/
def Obligations.JobRestores : Prop :=
  ∀ (s : State) (k : Nat),
    (∀ job e, jobCtx s job = some k → (ctxOf s k).restart.phase = 2 → e ≠ 0 → Completes (.restore job e) s (fun t =>
      (ctxOf t k).restart.phase = 3 ∧ (ctxOf t k).restart.target = e ∧ (ctxOf t k).restart.restoreAt = some s.clock.ns ∧
      OthersKept s t k ∧ t.mem = s.mem)) ∧
    (∀ s1, (ctxOf s k).restart.phase = 3 → s.net.reads.any (fun r => r.ctx == k) = false → restoreData s k = some s1 → s1.mem.upsets = [] →
      Completes (.restoreCopyDone k) s (fun t =>
      (ctxOf t k).ckpt.committed = some (ctxOf s k).restart.target ∧ (ctxOf t k).statePoison = false ∧
      (ctxOf t k).restart.phase ≠ 3)) ∧
    ((ctxOf s k).restart.phase = 3 → s.net.reads.any (fun r => r.ctx == k) = true → Completes (.restoreCopyDone k) s (fun t => t = s)) ∧
    ((ctxOf s k).restart.phase = 3 → s.net.reads.any (fun r => r.ctx == k) = false → restoreData s k = none → s.mem.upsets = [] → Completes (.restoreCopyDone k) s (fun t =>
      (ctxOf t k).restart.phase = 0 ∧ (t.obs.log.getLast?.map (fun e => (e.code, e.ctx))) = some (0x0818, k))) ∧
    (∀ job n, jobCtx s job = some k → (ctxOf s k).restart.phase = 3 → (ctxOf s k).restart.restored.elem n = false →
      Completes (.restoreDone job n) s (fun t => n ∈ (ctxOf t k).restart.restored ∧ OthersKept s t k ∧ t.mem = s.mem)) ∧
    (∀ job, jobCtx s job = some k → (ctxOf s k).restart.phase = 4 → s.mem.upsets = [] → Completes (.resume job) s (fun t =>
      (ctxOf t k).restart.phase = 0 ∧ (ctxOf t k).stepNo = (ctxOf s k).restart.target ∧ (∀ v, (trussOf t k v).gen = 0) ∧
      (t.obs.log.getLast?.map (fun e => (e.code, e.ctx))) = some (0x0812, k))) ∧
    (∀ t0, (ctxOf s k).restart.restoreAt = some t0 → 3 ≤ (ctxOf s k).restart.phase →
      t0 + (ctxOf s k).ckpt.replaceWait * second ≤ s.clock.ns → s.mem.upsets = [] → Completes (.replaceWaitExpiry k) s (fun t =>
        (ctxOf t k).restart.phase = 0 ∧ (t.obs.log.getLast?.map (fun e => (e.code, e.ctx))) = some (0x0818, k)))

/-! ## Checkpoints and twins (R391 to R398) -/

/-- A snapshot copied while every older one is committed is held with its epoch; CKPT_READY of a child is kept, and CKPT_COMMIT of
an epoch READY here commits it and frees the older snapshots. Heartbeats go to every twin; a twin's heartbeat keeps the pair and
confirms the epochs it mirrors, the first one accepted pairs, and its absence for 10 ms is TWIN_LOST. A snapshot whose every block
is acknowledged is announced to the twin, a finished mirror write of the partner is recorded in its slot, and a finished storage request leaves the list (R372, R391 to R397). -/
def Obligations.CheckpointsAndTwins : Prop :=
  ∀ (s : State) (k : Nat),
    (∀ q, (ctxOf s k).ckpt.copying = some q → (ctxOf s k).restart.phase = 0 →
      (ctxOf s k).ckpt.slots.any (fun v => (ctxOf s k).ckpt.committed != some v.epoch) = false →
      Completes (.snapshotCopyDone k) s (fun t => (ctxOf t k).ckpt.copying = none ∧ ∃ v ∈ (ctxOf t k).ckpt.slots, v.epoch = q)) ∧
    (∀ job n e, jobCtx s job = some k → (ctxOf s k).ckpt.readyKids.elem (n, e) = false → (kidsOf s k (ownNode0 s)).elem n = true →
      (ctxOf s k).ckpt.slots = [] → Completes (.ckptReady job n e) s (fun t => OthersKept s t k ∧ t.mem = s.mem ∧ t.net = s.net ∧
        ctxOf t k = { ctxOf s k with ckpt := { (ctxOf s k).ckpt with readyKids := (ctxOf s k).ckpt.readyKids ++ [(n, e)] } })) ∧
    (∀ job e, jobCtx s job = some k → (ctxOf s k).ckpt.committed ≠ some e →
      (ctxOf s k).ckpt.slots.any (fun v => v.epoch == e && v.ready) = true → Completes (.ckptCommit job e) s (fun t =>
        (ctxOf t k).ckpt.committed = some e ∧ (∀ v ∈ (ctxOf t k).ckpt.slots, e ≤ v.epoch) ∧ t.mem = s.mem ∧
        (t.obs.log.getLast?.map (fun v => (v.code, v.ctx))) = some (0x0814, k))) ∧
    (∀ x e, (ctxOf s k).twin = some x → x.paired = true → x.filling = some (e, false) →
      (mirrorSent s k x.node = true → Completes (.mirrorWriteDone k e) s (fun t =>
        (ctxOf t k).twin = some { x with filling := some (e, true) } ∧ OthersKept s t k ∧ t.mem = s.mem ∧
        t.net.fwTx = s.net.fwTx ++ [(x.node, fwMirror, [(ctxOf s k).jobId, e, stateBytes (ctxOf s k).ckpt.ranges / 64])])) ∧
      (mirrorSent s k x.node = false → x.landing = none → Completes (.mirrorWriteDone k e) s (fun t => t = s))) ∧
    (∀ x e i, (ctxOf s k).twin = some x → x.paired = true → x.filling ≠ some (e, false) → x.landing = some i →
      Completes (.mirrorWriteDone k e) s (fun t =>
        (ctxOf t k).twin = some { x with mirrors := x.mirrors.set i e, landing := none } ∧ OthersKept s t k ∧ t.mem = s.mem)) ∧
    (alive s = true → serves s 1 = true → Completes .twinHeartbeatSend s (fun t => t.mem = s.mem ∧ t.ctxs = s.ctxs ∧
      ∀ j x, j < 64 → (ctxOf s j).twin = some x → ∃ f, (x.node, fwHeartbeat, f) ∈ t.net.fwTx)) ∧
    (∀ x inc att bs b, k < 64 → (∀ j, j ≠ k → (ctxOf s j).twin = none) → (ctxOf s k).twin = some x → alive s = true →
      serves s 1 = true → bs.find? (fun y => y.jobId == (ctxOf s k).jobId) = some b → (ctxOf s k).ckpt.slots = [] →
      (x.paired = true → x.incarnation = inc → Completes (.twinHeartbeatReceive x.node inc att bs) s (fun t =>
        (ctxOf t k).twin = some { x with
          lastBeat := s.clock.ns, confirmed := b.mirrors, filling := x.filling.filter (fun f => !b.mirrors.elem f.1) } ∧ t.mem = s.mem)) ∧
      (x.paired = false → att = none → s.sec.attestOk = true → (reserveMirror s k x).isSome = true → Completes (.twinHeartbeatReceive x.node inc att bs) s (fun t =>
        (∃ y, (ctxOf t k).twin = some y ∧ y.paired = true ∧ y.incarnation = inc ∧ y.confirmed = b.mirrors) ∧
        t.mem.cells = s.mem.cells ∧
        (t.obs.log.getLast?.map (fun e => (e.code, e.ctx))) = some (0x0815, k)))) ∧
    (∀ x, (ctxOf s k).twin = some x → x.paired = true → x.lastBeat + 10000000 ≤ s.clock.ns → Completes (.twinLost k) s (fun t =>
      (ctxOf t k).twin = some { x with paired := false } ∧ t.mem = s.mem ∧
      (t.obs.log.getLast?.map (fun e => (e.code, e.ctx))) = some (0x0816, k))) ∧
    (∀ r seq st n, (ctxOf s k).storage.find? (fun r => r.seq == seq) = some r → r.truss = 0 → (r.read = false ∨ st = 0) →
      Completes (.storageDone k seq st n) s (fun t => (ctxOf t k).storage = (ctxOf s k).storage.erase r ∧ t.mem = s.mem ∧
        t.cores = s.cores))

/-! ## Messages (R345 to R348, R352 to R364, R430) -/

/-- Firmware answers a message it takes with exactly one response record, in line for the outbox of a mailbox's message or
sent to the manager that sent it, and with none where QUIET is set and the status is OK; the record carries the SEQ, the type, the
context, the status and the TAG of the message. The responses to messages of its mailbox that were refused when submitted and
waited for it follow it. A message that fails a check of its header is answered with that check's status, and
nothing else of the device changes. A type that names a context is refused with NO_CONTEXT on a mailbox other than 0 and 15 when the context is
not bound to it, and a nonzero reserved byte of MEM_ALLOC, CAPACITY, POWER_LIMIT or SCHED_SET with INVALID_POLICY (R345, R347, R348). -/
def Obligations.OneResponse : Prop :=
  ∀ (s : State) (h : MsgHdr) (t : MsgType) (st : Nat) (r : List Byte),
    (h.quiet = true → st = stOk → respond s h t.code st r = s) ∧
    ((h.quiet = false ∨ st ≠ stOk) →
      (response h t.code st r).seq = h.seq ∧ (response h t.code st r).type = t.code ∧ (response h t.code st r).ctx = h.ctx ∧
      (response h t.code st r).status = st ∧ (response h t.code st r).tag = h.tag ∧
      (h.src < 16 → respond s h t.code st r = { s with fw := { s.fw with outbox := { s.fw.outbox with
        waiting := s.fw.outbox.waiting ++ [response h t.code st r] } } }) ∧
      (16 ≤ h.src → ∀ node b, s.net.managers[h.src - 16]? = some (node, b) →
        (respond s h t.code st r).net.records = s.net.records ++ [(node, response h t.code st r)] ∧ (respond s h t.code st r).fw = s.fw)) ∧
    (lateDue s h.src = [] → answer s h t.code st r = respond s h t.code st r) ∧
    (answer s h t.code st r).fw.outbox.waiting = (respond s h t.code st r).fw.outbox.waiting ++
      ((lateDue s h.src).filter (fun e => e.2.1.src < 16 && !(e.2.1.quiet && e.2.2.2 == stOk))).map
        (fun e => response e.2.1 e.2.2.1 e.2.2.2 []) ∧
    (∀ i box body, takes s i h t = some box → refuses s box h t = some st →
      message i t h s body = .next (answer (untake s h t) h t.code st []) ∧ (untake s h t).ctxs = s.ctxs ∧
      (untake s h t).mem = s.mem ∧ (untake s h t).cores = s.cores ∧ (untake s h t).place = s.place) ∧
    (∀ i body, takes s i h t = none → message i t h s body = .next s) ∧
    (∀ box, kindOk t.kind box = true → box ≠ 0 → box ≠ 15 → t.ctx = true →
      ((ctxOf s h.ctx).st = .free ∨ (ctxOf s h.ctx).mailbox ≠ box) → refuses s box h t = some stNoContext) ∧
    (∀ va size kind page perm, Denies (.memAlloc h va size kind page perm true) s h { code := 0x0018, kind := .own, ctx := true } stInvalidPolicy) ∧
    (∀ a, Denies (.capacity h a true) s h { code := 0x0005, kind := .any, early := true } stInvalidPolicy) ∧
    (∀ w, Denies (.powerLimit h w true) s h { code := 0x0045, kind := .priv } stInvalidPolicy) ∧
    (∀ p a b, Denies (.schedSet h p a b true) s h { code := 0x0042, kind := .priv } stInvalidPolicy)

/-- HELLO, HOST_ALIVE, STATUS, CONTEXT_LIST, CAPACITY and the messages about contexts and launches, each carried out where its
fields are in range: what it answers, what it writes to its context, and that no other context and no byte of memory changes where
it only sets policy. CONTEXT_CREATE takes the lowest free number; CONTEXT_DESTROY leaves the context FREE with no core; LAUNCH
starts every core at its entry point or is held while a replacement is awaited (R37, R39, R352, R355, R358, R359, R363, R369). -/
def Obligations.ContextMessages : Prop :=
  ∀ (s : State) (h : MsgHdr),
    (∀ a n box, n ≤ 4096 → a % 4096 = 0 → Accepted s (.hello h a n false) h tHello box →
      (a = 0 ∨ box ≠ 0 ∨ 16 ≤ h.src → ∃ u, exec (.hello h a n false) s =
          .next (present (answer u h 1 stOk (helloResult s s.fw.absent)) box) ∧
        u.fw.outbox = { s.fw.outbox with threshold := if n = 0 then s.fw.outbox.threshold else n } ∧ u.mem = s.mem ∧ u.ctxs = s.ctxs) ∧
      (a ≠ 0 → box = 0 → h.src < 16 → Completes (.hello h a n false) s (fun t => t.fw.outbox.addr = a ∧ t.fw.outbox.prod = 0 ∧
        t.fw.outbox.cons = 0 ∧ t.fw.outbox.ring = [] ∧ t.mem = s.mem ∧ t.ctxs = s.ctxs))) ∧
    (∀ n, (n = 0 ∨ (2 ≤ n ∧ n ≤ 60)) → Does (.hostAlive h n false) s h { code := 0x0002, kind := .priv } (fun u r =>
      u.fw.timeoutS = (if n = 0 then s.fw.timeoutS else n) ∧ r = p8 s.clock.ns ∧ u.mem = s.mem ∧ u.ctxs = s.ctxs)) ∧
    Does (.status h) s h { code := 0x0003, kind := .any, early := true, recov := true } (fun u r =>
      r = statusResult s ∧ u.mem = s.mem ∧ u.ctxs = s.ctxs) ∧
    Does (.contextList h) s h { code := 0x0004, kind := .own } (fun u r =>
      r = ctxListResult s ((boxOf s h).getD 0) ∧ u.mem = s.mem ∧ u.ctxs = s.ctxs) ∧
    (∀ a, Does (.capacity h a false) s h { code := 0x0005, kind := .any, early := true } (fun u r => u.mem = s.mem ∧ u.ctxs = s.ctxs ∧
      (a = 0 → r = capHead s ++ p4 0 ∧ u.host = s.host) ∧
      (a ≠ 0 → r = capHead s ++ p4 (capReport s).length ∧ u.host.hostWr = s.host.hostWr ++ [(a, capReport s)]))) ∧
    (∀ p m l ro j g w k s1, freeCtx s = some k → (partNums s.place).elem p = true → (partSt s.place p).unavailable = false →
      1 ≤ m → m ≤ 14 → l ≤ 2 → j ≠ 0 → j ≤ 0xFFFF_FFFF → w ≤ 60000 → routeOk s ro g = true →
      reserveHomes (setCtx { untake s h { code := 0x0010, kind := .priv } with
          cores := s.cores.filter (fun e => e.1 / 512 != k), obs := clearCtxCounters s.obs k } k {
        part := p, mailbox := m, hostLoss := l, route := ro, jobId := j, manager := g
        watchdogMs := if w = 0 then 100 else w, st := .idle }) k p = some s1 →
      Does (.contextCreate h p m l ro j g w false) s h { code := 0x0010, kind := .priv } (fun u r =>
        (ctxOf u k).st = .idle ∧ (ctxOf u k).part = p ∧ (ctxOf u k).jobId = j ∧ OthersKept s u k ∧ r = leBytes 1 k)) ∧
    Does (.contextDestroy h) s h { code := 0x0011, kind := .priv, ctx := true } (fun u _ =>
      ctxOf u h.ctx = {} ∧ ∀ n, n < 512 → coreOf u h.ctx n = {}) ∧
    (∀ l ro g, l ≤ 2 → routeOk s ro g = true → Does (.contextPolicy h l ro g false) s h { code := 0x0012, kind := .priv, ctx := true }
      (fun u _ => ctxOf u h.ctx = { ctxOf s h.ctx with hostLoss := l, route := ro, manager := g } ∧ OthersKept s u h.ctx ∧ u.mem = s.mem)) ∧
    ((ctxOf s h.ctx).launched = true → Does (.contextStop h) s h { code := 0x0014, kind := .own, ctx := true } (fun u _ =>
      (ctxOf u h.ctx).launched = false ∧ (ctxOf u h.ctx).st = .idle)) ∧
    ((ctxOf s h.ctx).launched = false → Does (.contextStop h) s h { code := 0x0014, kind := .own, ctx := true } (fun u _ =>
      u.ctxs = s.ctxs ∧ u.mem = s.mem ∧ u.cores = s.cores)) ∧
    ((ctxOf s h.ctx).st = .paused →
      ((partSt s.place (ctxOf s h.ctx).part).unavailable = false → Does (.contextResume h) s h { code := 0x0013, kind := .own, ctx := true }
        (fun u _ => (ctxOf u h.ctx).pauseReq = false ∧ ((ctxOf u h.ctx).st = .runnable ∨ (ctxOf u h.ctx).st = .running))) ∧
      ((partSt s.place (ctxOf s h.ctx).part).unavailable = true →
        Denies (.contextResume h) s h { code := 0x0013, kind := .own, ctx := true } stPartitionUnavailable)) ∧
    Does (.contextEnergy h) s h { code := 0x0015, kind := .own, ctx := true } (fun u r =>
      r = p8 ((ctxOf s h.ctx).energy / 1000) ++ p8 s.clock.ns ∧ u.ctxs = s.ctxs ∧ u.mem = s.mem) ∧
    (∀ es, launchStatus s h.ctx es false = stOk → headerRsv s h.ctx es = false →
      (replacePending (ctxOf s h.ctx) = false → Does (.launch h es false) s h tLaunch (fun u _ => (ctxOf u h.ctx).launched = true ∧
        (ctxOf u h.ctx).launch = es ∧ ((ctxOf u h.ctx).st = .runnable ∨ (ctxOf u h.ctx).st = .running) ∧
        ∀ e i, (e, i) ∈ es.zipIdx → coreOf u h.ctx e.lcore = entryCore s h.ctx e i es.length)) ∧
      (replacePending (ctxOf s h.ctx) = true → Does (.launch h es false) s h tLaunch (fun u _ =>
        ctxOf u h.ctx = { ctxOf s h.ctx with launch := es, heldLaunch := true } ∧ u.cores = s.cores ∧ u.mem = s.mem))) ∧
    (∀ p, policyOk p = true → Does (.numericPolicy h p) s h { code := 0x0028, kind := .own, ctx := true } (fun u _ =>
      ctxOf u h.ctx = { ctxOf s h.ctx with policyNext := some p } ∧ OthersKept s u h.ctx ∧ u.mem = s.mem)) ∧
    (∀ sl th a, 1 ≤ sl → sl ≤ 4095 → a ≤ 1 → Does (.numericWatch h sl th a false) s h { code := 0x0029, kind := .own, ctx := true }
      (fun u _ => OthersKept s u h.ctx ∧ u.mem = s.mem ∧
        look (ctxOf u h.ctx).watches {} sl = if a = 1 then { armed := true, threshold := th } else {})) ∧
    (∀ n, 1 ≤ n → n ≤ 60000 → Does (.watchdogSet h n false) s h { code := 0x002A, kind := .own, ctx := true } (fun u _ =>
      ctxOf u h.ctx = { ctxOf s h.ctx with watchdogMs := n } ∧ OthersKept s u h.ctx ∧ u.mem = s.mem))

/-- The messages about memory, trusses, regions, the layout, schedules, power and budgets, each carried out where its fields are in range.
A page allocated reads as zeros; MEM_FREE unmaps its range; MEM_WRITE changes no byte outside the pages of its range and puts the
data into the page of a range of one; MEM_READ changes no byte and writes the pages to host memory. A truss and a region are
bound with the next generation of their name, which stays when they are destroyed; firmware holds a message that would bind a name
with a generation used within the last 4 ms, and one that names a reserved core is refused. The rest set what they name, and the response of
POWER_LIMIT gives the limit in force (R15, R219, R222, R272, R360, R361, R364, R81, R99, R314, R317, R320, R334). -/
def Obligations.MemoryMessages : Prop :=
  ∀ (s : State) (h : MsgHdr),
    (∀ va size kind page perm s1, kind ≤ 1 → page ≤ 1 → BitVec.toNat perm < 16 → (kind = 1 → page = 0) →
      rangeOk va size (if page = 1 then Config.page1g else Config.page2) = true → someMapped (ctxOf s h.ctx).pages va size = false →
      (kind = 0 → quotaOk s (ctxOf s h.ctx).part size = true) →
      ((List.range (size / (if page = 1 then Config.page1g else Config.page2))).map
        (fun i => va + i * (if page = 1 then Config.page1g else Config.page2))).foldlM
        (if kind = 0 then allocHbm (ctxOf s h.ctx).part h.ctx (if page = 1 then Config.page1g else Config.page2) perm
          else allocThatch (ctxOf s h.ctx).part h.ctx perm) (untake s h { code := 0x0018, kind := .own, ctx := true }) = some s1 →
      Does (.memAlloc h va size kind page perm false) s h { code := 0x0018, kind := .own, ctx := true } (fun u _ =>
        u.mem = s1.mem ∧ u.ctxs = s1.ctxs)) ∧
    (∀ va perm a, BitVec.toNat perm < 16 → rangeOk va Config.page2 Config.page2 = true →
      someMapped (ctxOf s h.ctx).pages va Config.page2 = false → quotaOk s (ctxOf s h.ctx).part Config.page2 = true →
      takeHbm s (stacksOf s.place (ctxOf s h.ctx).part) (ctxOf s h.ctx).turn Config.page2 (Config.pageStart s.mem.allocs) = some a →
      Does (.memAlloc h va Config.page2 0 0 perm false) s h { code := 0x0018, kind := .own, ctx := true } (fun u _ =>
        pageOf (ctxOf u h.ctx).pages va = some ({
          big := false, dpa := a, r := perm.getLsbD 0, w := perm.getLsbD 1, x := perm.getLsbD 2, nocache := perm.getLsbD 3, valid := true }, a) ∧
        OthersKept s u h.ctx ∧ ∀ b, byteAt u.mem.cells b = if a ≤ b ∧ b < a + Config.page2 then 0 else byteAt s.mem.cells b)) ∧
    (∀ va size, rangeOk va size Config.page2 = true → allMapped (ctxOf s h.ctx).pages va size = true →
      pinned (ctxOf s h.ctx) va size = false → (∀ n ∈ launchCores (ctxOf s h.ctx), flightsOf (coreOf s h.ctx n) .stream = []) →
      Does (.memFree h va size) s h { code := 0x0019, kind := .own, ctx := true } (fun u _ =>
        ctxOf u h.ctx = { ctxOf s h.ctx with pages := unmapRange (ctxOf s h.ctx).pages va size } ∧ OthersKept s u h.ctx ∧ u.mem = s.mem)) ∧
    (∀ va size ha data, MemCanonical s → copyOk (ctxOf s h.ctx) va size = true → ((ctxOf s h.ctx).launched = false ∨
        (pageVas va size).all (fun v => match pageOf (ctxOf s h.ctx).pages v with | some (p, _) => !p.x | none => true) = true) →
      Does (.memWrite h va size ha data) s h { code := 0x001A, kind := .own, ctx := true } (fun u _ => u.ctxs = s.ctxs ∧
        (∀ b, (∀ v ∈ pageVas va size, b < dpaOf (ctxOf s h.ctx) v ∨ dpaOf (ctxOf s h.ctx) v + Config.page2 ≤ b) →
          byteAt u.mem.cells b = byteAt s.mem.cells b) ∧
        (size = Config.page2 → ∀ i, i < Config.page2 → byteAt u.mem.cells (dpaOf (ctxOf s h.ctx) va + i) = nth data i 0))) ∧
    (∀ va size ha, copyOk (ctxOf s h.ctx) va size = true → s.mem.upsets = [] →
      Does (.memRead h va size ha) s h { code := 0x001B, kind := .own, ctx := true } (fun u r => SameBytes s u ∧
        u.host.hostWr = s.host.hostWr ++ [(ha, (pageVas va size).flatMap (fun v => pageBytes s.mem (dpaOf (ctxOf s h.ctx) v)))] ∧
        r = p8 (((pageVas va size).map (fun v => (pagePoison s.mem (dpaOf (ctxOf s h.ctx) v)).length)).sum))) ∧
    (∀ v mode home lim n fwd ms, boundLately s h.ctx 0 v (trussOf s h.ctx v).bound (trussOf s h.ctx v).ever (trussOf s h.ctx v).bgen = true →
      Completes (.trussCreate h v mode home lim n fwd ms false) s (fun t => t = s)) ∧
    (∀ v home lim n fwd ms, boundLately s h.ctx 0 v (trussOf s h.ctx v).bound (trussOf s h.ctx v).ever (trussOf s h.ctx v).bgen = false →
      ms.any badCore = true →
      Denies (.trussCreate h v 1 home lim n fwd ms false) s h { code := 0x0030, kind := .own, ctx := true } stInvalidCore) ∧
    (∀ v mode home lim n fwd ms d, boundLately s h.ctx 0 v false (trussOf s h.ctx v).ever (trussOf s h.ctx v).bgen = false →
      trussValid s (ctxOf s h.ctx).part v mode home lim n fwd ms false = true →
      (trussOf s h.ctx v).bound = false → trussHome s (ctxOf s h.ctx).part home ms = some d →
      Does (.trussCreate h v mode home lim n fwd ms false) s h { code := 0x0030, kind := .own, ctx := true } (fun u r =>
        (trussOf u h.ctx v).bound = true ∧ (trussOf u h.ctx v).home = d ∧ (trussOf u h.ctx v).gen = 0 ∧
        (trussOf u h.ctx v).bgen = (if (trussOf s h.ctx v).ever then ((trussOf s h.ctx v).bgen + 1) % 0x1_0000 else 0) ∧
        r = leBytes 2 (trussOf u h.ctx v).bgen ∧ (∀ w, w ≠ v → trussOf u h.ctx w = trussOf s h.ctx w) ∧
        OthersKept s u h.ctx ∧ u.mem = s.mem)) ∧
    (∀ v, v < 0x10_0000 → (trussOf s h.ctx v).bound = true → (trussOf s h.ctx v).waiters = [] →
      Does (.trussDestroy h v false) s h { code := 0x0031, kind := .own, ctx := true } (fun u _ =>
        trussOf u h.ctx v = { ever := true, bgen := (trussOf s h.ctx v).bgen } ∧ OthersKept s u h.ctx ∧ u.mem = s.mem)) ∧
    (∀ key perm base len, key ≠ 0 → key ≤ 0xFFFF_FFFF → BitVec.toNat perm < 4 → base % 64 = 0 → len % 64 = 0 → len ≠ 0 →
      regionMapped s (ctxOf s h.ctx) base len = true → (look (ctxOf s h.ctx).regions {} key).bound = false →
      ((ctxOf s h.ctx).regions.filter (fun e => e.2.bound)).length < 4096 →
      boundLately s h.ctx 1 key false (look (ctxOf s h.ctx).regions {} key).ever (look (ctxOf s h.ctx).regions {} key).keyGen = false →
      Does (.regionCreate h key perm base len false) s h { code := 0x0038, kind := .own, ctx := true } (fun u r =>
        (look (ctxOf u h.ctx).regions {} key).bound = true ∧ (look (ctxOf u h.ctx).regions {} key).base = base ∧
        (look (ctxOf u h.ctx).regions {} key).length = len ∧ r = leBytes 2 (look (ctxOf u h.ctx).regions {} key).keyGen ∧
        OthersKept s u h.ctx ∧ u.mem = s.mem)) ∧
    (∀ key, (look (ctxOf s h.ctx).regions {} key).bound = true → Does (.regionDestroy h key false) s h { code := 0x0039, kind := .own, ctx := true }
      (fun u _ => (look (ctxOf u h.ctx).regions {} key).bound = false ∧
        (look (ctxOf u h.ctx).regions {} key).keyGen = (look (ctxOf s h.ctx).regions {} key).keyGen ∧ OthersKept s u h.ctx ∧ u.mem = s.mem)) ∧
    (∀ part quota, part.length = 16 → quota.length = 16 → part.all (unitOk part) = true →
      (List.range 16).any (fun b => unitMoves s.place part b && ctxNums.any (fun k => ctxExists s k && partOfBay s.place b == (ctxOf s k).part)) = false →
      (List.range 16).any (fun b => !((unitBays part (nth part b 16)).length == 1) && nth quota b 0 != 0) = false →
      (List.range 4).any (fun d => decide (dieGb s d < ((List.range 4).map (fun i => nth quota (4 * d + i) 0)).sum)) = false →
      Does (.partitionSet h part quota) s h { code := 0x0040, kind := .priv } (fun u _ => u.place.layout = part ∧ u.place.quota = quota)) ∧
    (∀ bd sl m, bd < 4 → sl < 44 → m ≤ 1 → sliceMode s.mem (44 * bd + sl) ≠ .retired →
      (m = 1 → sliceMode s.mem (44 * bd + sl) = .cache ∨
        sliceUnmapped (giveBack (untake s h { code := 0x0041, kind := .priv }) (44 * bd + sl)) (44 * bd + sl) = true) →
      Does (.sliceMode h bd sl m false) s h { code := 0x0041, kind := .priv } (fun u _ =>
        sliceMode u.mem (44 * bd + sl) = if m = 1 then .cache else .software)) ∧
    (∀ p a b, (partNums s.place).elem p = true → 1 ≤ a → a ≤ 1000 → 250 ≤ b → b ≤ 10000 →
      Does (.schedSet h p a b false) s h { code := 0x0042, kind := .priv } (fun u _ =>
        partSt u.place p = { partSt s.place p with sliceMs := a, quantumUs := b } ∧ u.ctxs = s.ctxs ∧ u.mem = s.mem)) ∧
    (∀ p o, (partNums s.place).elem p = true → o ≤ 1 → Does (.fixedFreq h p o false) s h { code := 0x0043, kind := .priv } (fun u _ =>
      partSt u.place p = { partSt s.place p with fixed := o == 1 } ∧ u.mem = s.mem)) ∧
    (∀ p f, (partNums s.place).elem p = true → f.length = 4 → f.all (fun f => f % 5 == 0 && decide (550 ≤ f) && decide (f ≤ 1320)) = true →
      Does (.oppointSet h p f false) s h { code := 0x0044, kind := .priv } (fun u _ =>
        partSt u.place p = { partSt s.place p with freq := f } ∧ u.ctxs = s.ctxs ∧ u.mem = s.mem)) ∧
    (∀ w, 1200 ≤ w → w ≤ 2700 → Does (.powerLimit h w false) s h { code := 0x0045, kind := .priv } (fun u r =>
      u.power = { s.power with hostLimit := w } ∧ r = leBytes 2 (min w s.power.boardLimit) ∧ u.mem = s.mem ∧ u.ctxs = s.ctxs)) ∧
    (∀ c a b, 64 ≤ b → b ≤ 50000 → c ≠ 0xFF → 64 ≤ a → a ≤ 160000 → ctxExists s c = true →
      Does (.budgetSet h c a b false) s h { code := 0x0046, kind := .priv } (fun u _ =>
        ctxOf u c = { ctxOf s c with budgetHbm := a, budgetNet := b } ∧ OthersKept s u c ∧ u.mem = s.mem)) ∧
    (∀ a b, 64 ≤ b → b ≤ 50000 → Does (.budgetSet h 0xFF a b false) s h { code := 0x0046, kind := .priv } (fun u _ =>
      u.fw.mirrorBudget = b ∧ u.ctxs = s.ctxs ∧ u.mem = s.mem)) ∧
    (∀ a b c, a ≤ 2 → b ≤ 3 → c < 128 → Does (.timeSource h a b c false) s h { code := 0x0047, kind := .priv } (fun u _ =>
      u.clock = { s.clock with source := a, profile := b, port := c } ∧ u.ctxs = s.ctxs ∧ u.mem = s.mem))

/-- The messages about the network, collectives, storage, checkpoints, twins and firmware images, each carried out where its fields
are in range (R256, R260, R261, R277, R284 to R289, R348, R372 to R376, R391, R394). -/
def Obligations.NetworkMessages : Prop :=
  ∀ (s : State) (h : MsgHdr),
    (∀ o m mtu, o < 16 → m < 4 → (octetPorts o m).any (fun p => decide (nth mtu (p % 8) 0 < 4220) || decide (9194 < nth mtu (p % 8) 0)) = false →
      Does (.portConfig h o m mtu false) s h { code := 0x0050, kind := .priv } (fun u _ => look u.net.octets 0 o = m ∧
        (∀ p ∈ octetPorts o m, (portOf u p).mtu = nth mtu (p % 8) 0) ∧
        (m ≠ look s.net.octets 0 o → ∀ p ∈ octetPorts o (look s.net.octets 0 o), (portOf u p).up = false) ∧
        u.ctxs = s.ctxs ∧ u.mem = s.mem)) ∧
    (∀ j l, 1 ≤ j → j ≤ 0xFFFF_FFFF → l.length ≤ 65536 → l.any (fun e => decide (0x10_0000 ≤ e.1)) = false →
      distinct (l.map (fun e => e.1)) = true → Does (.nodeTable h j l) s h { code := 0x0051, kind := .priv } (fun u _ =>
        look u.net.tables [] j = l ∧ u.ctxs = s.ctxs ∧ u.mem = s.mem)) ∧
    (∀ l, l.length = 4 → l.any (fun e => decide (0x10_0000 ≤ e.1) || decide (1 < e.2)) = false →
      Does (.managerSet h l false) s h { code := 0x0052, kind := .priv } (fun u _ => u.net.managers = l ∧
        (∀ a ∈ u.net.attested, ∃ e ∈ l, e.1 = a.1) ∧ u.ctxs = s.ctxs ∧ u.mem = s.mem)) ∧
    (∀ n, anyCtx s = false → identityOk n = true → Does (.netIdentity h n) s h { code := 0x0053, kind := .priv } (fun u _ =>
      u.net = { s.net with identity := some n } ∧ u.ctxs = s.ctxs ∧ u.mem = s.mem)) ∧
    (∀ n ext nodes, gridOk s h.ctx n ext nodes = true → anyGroup (ctxOf s h.ctx) = false →
      Does (.gridSet h n ext nodes false) s h { code := 0x0058, kind := .priv, ctx := true } (fun u _ =>
        ctxOf u h.ctx = { ctxOf s h.ctx with grid := some ⟨n, ext.map size16, nodes⟩ } ∧ OthersKept s u h.ctx ∧ u.mem = s.mem)) ∧
    (∀ g alg f m bl ptr nodes ms r, alg ≤ 1 → (alg = 0 → f = 0) → (alg = 1 → 2 ≤ f ∧ f ≤ 16) → ptr % 64 = 0 →
      groupMembers s h.ctx g m bl nodes = some (ms, some r) → writable (ctxOf s h.ctx) ptr ms.length = true →
      (look (ctxOf s h.ctx).groups {} g).bound = false →
      boundLately s h.ctx 2 g false (look (ctxOf s h.ctx).groups {} g).ever (look (ctxOf s h.ctx).groups {} g).ggen = false →
      (g / 4096 = 1 → ((ctxOf s h.ctx).groups.filter (fun e => e.2.bound && e.1 / 4096 == 1)).length < 16) →
      Does (.groupCreate h g alg f m bl ptr nodes false) s h { code := 0x0059, kind := .priv, ctx := true } (fun u a =>
        (look (ctxOf u h.ctx).groups {} g).bound = true ∧ (look (ctxOf u h.ctx).groups {} g).members = ms ∧
        (look (ctxOf u h.ctx).groups {} g).rank = r ∧ (look (ctxOf u h.ctx).groups {} g).seqNo = 0 ∧
        a = leBytes 4 (look (ctxOf u h.ctx).groups {} g).ggen ++ p4 r ++ p4 ms.length ∧ OthersKept s u h.ctx ∧ u.mem = s.mem)) ∧
    (∀ g, (look (ctxOf s h.ctx).groups {} g).bound = true → (ctxOf s h.ctx).colls.any (fun c => c.gid == g) = false →
      Does (.groupDestroy h g false) s h { code := 0x005A, kind := .priv, ctx := true } (fun u _ =>
        (look (ctxOf u h.ctx).groups {} g).bound = false ∧
        (look (ctxOf u h.ctx).groups {} g).ggen = (look (ctxOf s h.ctx).groups {} g).ggen ∧ OthersKept s u h.ctx ∧ u.mem = s.mem)) ∧
    (∀ c fam svc q d ad nqn l, c < 32 → (fam = 4 ∨ fam = 6) → svc ≤ 65535 → 1 ≤ q → q ≤ 64 → 2 ≤ d → d ≤ 1024 → nqn.length ≤ 255 →
      (dropQps s.net.qps c).length + q + 1 ≤ 1024 →
      Does (.storageConnect h c fam svc q d ad nqn false (some l)) s h { code := 0x0060, kind := .priv, svc := 1 } (fun u r =>
        look u.net.ctrls ⟨0, 0, 0, 0, 0, [], []⟩ c = ⟨fam, if svc = 0 then 4420 else svc, q, d, ad, nqn, l⟩ ∧ r = p4 l.length ∧
        u.ctxs = s.ctxs ∧ u.mem = s.mem)) ∧
    (∀ (rd : Bool) c ns lba n va x sg, s.net.ctrls.find? (fun e => e.1 == c) = some (c, x) → 1 ≤ ns → ns ≤ x.spaces.length → 1 ≤ n →
      n * nth x.spaces (ns - 1) 0 ≤ 0x100_0000 → (ctxOf s h.ctx).storage.length < 1024 →
      storSegs (ctxOf s h.ctx) va (n * nth x.spaces (ns - 1) 0) (if rd then .write else .read) = some sg →
      Does (if rd then .storageRead h c ns lba n va 0 0 false else .storageWrite h c ns lba n va 0 0 false) s h
        { code := if rd then 0x0061 else 0x0062, kind := .own, ctx := true, svc := 1 } (fun u _ =>
          (ctxOf u h.ctx).storage.length = (ctxOf s h.ctx).storage.length + 1 ∧ OthersKept s u h.ctx ∧ u.mem = s.mem)) ∧
    (∀ i lim w rs s2 l, (ctxOf s h.ctx).launched = false → (ctxOf s h.ctx).grid ≠ none → ckptOk s (ctxOf s h.ctx) i lim w rs = true →
      (List.range (2 * ((stateBytes rs + Config.page2 - 1) / Config.page2))).foldlM (reserveSlotPage (ctxOf s h.ctx).part)
        (freePages (untake s h { code := 0x0068, kind := .priv, ctx := true, svc := 1 }) (ctxOf s h.ctx).ckpt.pages.flatten, []) = some (s2, l) →
      Does (.checkpointSet h i lim w rs false) s h { code := 0x0068, kind := .priv, ctx := true, svc := 1 } (fun u r =>
        (ctxOf u h.ctx).ckpt.ranges = rs ∧ (ctxOf u h.ctx).ckpt.interval = i ∧ (ctxOf u h.ctx).ckpt.committed = none ∧
        r = p8 (2 * stateBytes rs) ∧ u.mem.cells = s.mem.cells)) ∧
    (∀ n fl lost, twinOk s (ctxOf s h.ctx) n fl lost false = true → fl.getLsbD 0 = false →
      mirrorReserved s + 2 * stateBytes (ctxOf s h.ctx).ckpt.ranges ≤ 96 * Config.page1g →
      Does (.twinSet h n fl lost false) s h { code := 0x0069, kind := .priv, ctx := true, svc := 1 } (fun u _ =>
        ctxOf u h.ctx = { ctxOf s h.ctx with twin := some { node := n, replace := fl.getLsbD 1, lost := lost, lastBeat := s.clock.ns } } ∧
        OthersKept s u h.ctx ∧ u.mem = s.mem)) ∧
    (∀ n fl lost, twinOk s (ctxOf s h.ctx) n fl lost false = true → fl.getLsbD 0 = true →
      Does (.twinSet h n fl lost false) s h { code := 0x0069, kind := .priv, ctx := true, svc := 1 } (fun u _ =>
        (ctxOf u h.ctx).twin = none ∧ OthersKept s u h.ctx ∧ u.mem.cells = s.mem.cells)) ∧
    (∀ g fl o tot d ref, g ≤ 2 → BitVec.toNat fl < 8 → ref.isSome = fl.getLsbD 2 → o + (stagedPiece d ref).length ≤ tot →
      (fl.getLsbD 2 = false → d.length ≤ 8128) → (updAt s g).phase < 3 →
      (fl.getLsbD 0 = false → (updAt s g).phase = 1 ∧ tot = (updAt s g).total) → fl.getLsbD 1 = false →
      Does (.fwStage h g fl o tot d ref false) s h { code := 0x0070, kind := .priv, recov := true, svc := 3 } (fun u r =>
        (updAt u g).phase = 1 ∧ (updAt u g).total = tot ∧ (updAt u g).got = (if fl.getLsbD 0 then 0 else (updAt s g).got) + (stagedPiece d ref).length ∧
        r = p8 (updAt u g).got ∧ u.sec = s.sec ∧ u.mem = s.mem)) ∧
    (∀ g w c, g ≤ 2 → w ≤ 600 → (c = 0 ∨ (10 ≤ c ∧ c ≤ 3600)) → (updAt s g).phase = 2 → s.fw.recoveryBoot = false →
      Does (.fwActivate h g w c false) s h { code := 0x0071, kind := .priv, recov := true, svc := 3 } (fun u _ =>
        updAt u g = { updAt s g with phase := 3, reqAt := s.clock.ns, window := if w = 0 then 30 else w, commit := if c = 0 then 60 else c } ∧
        u.sec = s.sec ∧ u.mem = s.mem)) ∧
    (∀ g, g ≤ 2 → (updAt s g).phase = 4 → s.clock.ns ≤ (updAt s g).actAt + (updAt s g).commit * second →
      Does (.fwCommit h g false) s h { code := 0x0072, kind := .priv, svc := 3 } (fun u _ => updAt u g = {} ∧ bootBank u g = 1 - bootBank s g ∧
        CountersKept s u ∧ (runningOf s g).svn ≤ rollCtr u (guardOf g) ∧ u.mem = s.mem)) ∧
    (∀ g v, g ≤ 2 → (updAt s g).phase = 4 → (updAt s g).old = some v →
      Does (.fwRollback h g false) s h { code := 0x0073, kind := .priv, svc := 3 } (fun u _ => updAt u g = {} ∧ runningOf u g = v ∧
        u.sec.counters = s.sec.counters ∧ u.mem = s.mem))

/-- The debug types: counters, the trace and histograms are read without changing them, and cleared where asked; a breakpoint is set on its
core alone; DEBUG_HALT marks every core of a launch, DEBUG_RESUME lets a halted context run again, DEBUG_STEP one core of it for one
instruction; REG_WRITE writes one register of a halted core (R429 to R431, R437 to R440, R442). -/
def Obligations.DebugMessages : Prop :=
  ∀ (s : State) (h : MsgHdr),
    (∀ a es, es ≠ [] → es.length ≤ 512 → Does (.counterRead h a es false) s h { code := 0x0080, kind := .debug } (fun u r =>
      u.host.hostWr = s.host.hostWr ++ [(a, es.zipIdx.flatMap (fun e => p8 (counterValue s e.2 e.1.kind e.1.index e.1.number)))] ∧
      r = p8 s.clock.ns ∧ u.obs = s.obs ∧ u.mem = s.mem ∧ u.ctxs = s.ctxs)) ∧
    (∀ n m c k s2, 256 ≤ n → n ≤ 16384 → n % 256 = 0 → m ≤ 1 → BitVec.toNat c < 32 →
      tracePages (freePages { untake s h { code := 0x0081, kind := .priv } with obs := { s.obs with pages := [] } } s.obs.pages) (16 * (n / 256 - 1)) = some s2 →
      Does (.traceSet h n m c k false) s h { code := 0x0081, kind := .priv } (fun u r => u.obs.region = [] ∧ u.obs.next = 0 ∧
        u.obs.capacity = 32768 * n ∧ u.obs.mode = m ∧ u.obs.cats = c ∧ u.obs.mask = k ∧ r = p8 (32768 * n) ∧ u.mem.cells = s.mem.cells)) ∧
    Does (.traceStatus h) s h { code := 0x0082, kind := .debug } (fun u r =>
      r = p8 s.obs.next ++ p8 (traceOldest s.obs) ++ p8 (counter s 0 0 0xC1) ++ leBytes 1 s.obs.mode ∧ u.obs = s.obs ∧ u.mem = s.mem) ∧
    (∀ f n a, 1 ≤ n → n ≤ 0x100_0000 → Does (.traceRead h f n a false) s h { code := 0x0083, kind := .debug } (fun u r =>
      u.host.hostWr = s.host.hostWr ++ [(a, (traceFrom s.obs f n).flatMap traceBytes)] ∧ u.obs = s.obs ∧
      r = p4 (traceFrom s.obs f n).length ++ p4 0 ++ p8 (traceOldest s.obs))) ∧
    (∀ un src base fil, un < 32 → src ≤ 7 → base ≤ 33 → filterOk src fil = true →
      Does (.histSet h un src base fil false) s h { code := 0x0084, kind := .debug } (fun u _ =>
        histAt u un = { source := src, base := base, filter := fil } ∧ (∀ w, w ≠ un → histAt u w = histAt s w) ∧ u.mem = s.mem)) ∧
    (∀ un c a, un < 32 → c ≤ 1 → Does (.histRead h un c a false) s h { code := 0x0085, kind := .debug } (fun u r =>
      u.host.hostWr = s.host.hostWr ++ [(a, histBlock (histAt s un))] ∧ r = p8 s.clock.ns ∧
      (∀ w, w ≠ un → histAt u w = histAt s w) ∧ histAt u un = (if c = 1 then
        { source := (histAt s un).source, base := (histAt s un).base, filter := (histAt s un).filter } else histAt s un))) ∧
    (∀ n sl e len acc a, debugCore s h.ctx n = true → bpOk sl e len acc false = true →
      Does (.bpSet h n sl e len acc a false) s h { code := 0x0088, kind := .debug, ctx := true } (fun u _ => OnlyCore s { u with fw := s.fw } h.ctx n ∧
        (coreOf u h.ctx n).bps = put (coreOf s h.ctx n).bps sl ⟨e == 1, len, acc, a⟩)) ∧
    (((ctxOf s h.ctx).st = .running ∨ (ctxOf s h.ctx).st = .runnable) → (ctxOf s h.ctx).haltReq = 0 →
      Does (.debugHalt h) s h { code := 0x0089, kind := .debug, ctx := true } (fun u _ =>
        ctxOf u h.ctx = { ctxOf s h.ctx with haltReq := 3, watchBase := (ctxOf u h.ctx).watchBase, watchAt := (ctxOf u h.ctx).watchAt } ∧ OthersKept s u h.ctx ∧ u.mem = s.mem ∧
        ∀ n ∈ coresOf s.place (ctxOf s h.ctx).part, has s.cores (coreKey h.ctx n) = true → (coreOf u h.ctx n).halted = true)) ∧
    ((ctxOf s h.ctx).st = .halted → (partSt s.place (ctxOf s h.ctx).part).unavailable = false →
      Does (.debugResume h) s h { code := 0x008A, kind := .debug, ctx := true } (fun u _ =>
        (ctxOf u h.ctx).haltReq = 0 ∧ ((ctxOf u h.ctx).st = .runnable ∨ (ctxOf u h.ctx).st = .running) ∧
        ∀ n ∈ coresOf s.place (ctxOf s h.ctx).part, has s.cores (coreKey h.ctx n) = true → (coreOf u h.ctx n).halted = false) ∧
      (∀ n, debugCore s h.ctx n = true → (coreOf s h.ctx n).active = true → (coreOf s h.ctx n).ended = false →
        Does (.debugStep h n false) s h { code := 0x008B, kind := .debug, ctx := true } (fun u _ =>
          (coreOf u h.ctx n).oneStep = true ∧ (coreOf u h.ctx n).halted = false ∧
          ((ctxOf u h.ctx).st = .runnable ∨ (ctxOf u h.ctx).st = .running) ∧
          ∀ q m, coreKey q m ≠ coreKey h.ctx n → coreOf u q m = coreOf s q m)) ∧
      (∀ n r v, debugCore s h.ctx n = true → 1 ≤ r → r ≤ 31 →
        Does (.regWrite h n r v false) s h { code := 0x008D, kind := .debug, ctx := true } (fun u _ =>
          OnlyCore s { u with fw := s.fw } h.ctx n ∧
          ∀ q, sreg (coreOf u h.ctx n) q = if q = r then v else sreg (coreOf s h.ctx n) q)) ∧
      (∀ n p a, debugCore s h.ctx n = true → BitVec.toNat p < 8 →
        Does (.stateRead h n p a false) s h { code := 0x008C, kind := .debug, ctx := true } (fun u _ => u.mem = s.mem ∧ u.ctxs = s.ctxs ∧
          u.cores = s.cores ∧ (p = 4 → u.host.hostWr = s.host.hostWr ++ [(a, imageBlock s h.ctx n)]))))

/-! ## The sideband and the responder (R321, R416, R421 to R423) -/

/-- Each PLDM command is answered with one response of its code while the endpoint is up, and changes nothing else but the board
power limit, which SetNumericEffecterValue sets within 1,200 to 2,700 W; with the endpoint down nothing is answered. Sensor 1
reads the junction temperature, 10 the package power in W, 11 the effective limit, and the sensors of the rails are unavailable
before stage CLOCKS ends. The numeric codes are the family's and the model's own choice (log 96). -/
def Obligations.SidebandAnswers : Prop :=
  ∀ (s : State) (i : Instr) (c : Nat),
    ((i = .getTid ∧ c = 0x02) ∨ (∃ y, i = .getPldmVersion y ∧ c = 0x03) ∨ (i = .getPldmTypes ∧ c = 0x04) ∨
      (∃ y, i = .getPldmCommands y ∧ c = 0x05) ∨ (i = .getPdrRepositoryInfo ∧ c = 0x50) ∨ (∃ y, i = .getPdr y ∧ c = 0x51) ∨
      (∃ y, i = .getSensorReading y ∧ c = 0x11) ∨ (∃ y, i = .getStateSensorReadings y ∧ c = 0x21) ∨
      (∃ y z, i = .setNumericEffecterValue y z ∧ c = 0x31) ∨ (∃ y, i = .getNumericEffecterValue y ∧ c = 0x32)) →
    (sidebandUp s = false → Completes i s (fun t => t = s)) ∧
    (sidebandUp s = true → Completes i s (fun t => t.mem = s.mem ∧ t.ctxs = s.ctxs ∧ t.cores = s.cores ∧
      (∃ f, f ≠ [] ∧ t.host.pldm = s.host.pldm ++ [c :: f]) ∧
      ((∀ w, i = .setNumericEffecterValue 1 w → w < 1200 ∨ 2700 < w) → t = { s with host := { s.host with pldm := t.host.pldm } }) ∧
      (∀ w, i = .setNumericEffecterValue 1 w → 1200 ≤ w → w ≤ 2700 →
        t.power = { s.power with boardLimit := w } ∧ t.host.pldm = s.host.pldm ++ [[0x31, 0]]) ∧
      (i = .getSensorReading 1 → t.host.pldm = s.host.pldm ++ [[0x11, 0, 0, (BitVec.ofInt 32 s.power.tj).toNat]]) ∧
      (i = .getSensorReading 10 → t.host.pldm = s.host.pldm ++ [[0x11, 0, 0, (s.power.package / 1000).floor.toNat]]) ∧
      (i = .getSensorReading 11 → t.host.pldm = s.host.pldm ++ [[0x11, 0, 0, min s.power.hostLimit s.power.boardLimit]]) ∧
      (∀ n, 12 ≤ n → n ≤ 19 → s.fw.stage < 5 → i = .getSensorReading n → t.host.pldm = s.host.pldm ++ [[0x11, 0, 2]])))

/-- A request of a responder answered over its transport: one response with a code and a payload of which `P` holds, and nothing
else changes but the counter of free values. -/
def SaysOnly (i : Instr) (s : State) (v : SpdmVia) (code : Nat) (P : List Byte → Prop) : Prop :=
  Completes i s (fun t => ∃ p, P p ∧ t = { s with sec := { s.sec with spdmOut := s.sec.spdmOut ++ [(v, code, p)] }, freeCtr := t.freeCtr })

/-- The SPDM responder answers every request over a transport that is up with one response, and none over one that is down: the
connection goes from version to
capabilities to algorithms, a request before its phase gets ERROR UnexpectedRequest, sessions are opened, finished and ended, a
manager is attested by FINISH over its node's session, and nothing but the responder's own state and the attestation changes (R416,
R421 to R423). -/
def Obligations.ResponderAnswers : Prop :=
  ∀ (s : State) (v : SpdmVia),
    (∀ i o l n x w c, i ∈ ([.getVersion v, .getCapabilities v, .negotiateAlgorithms v w, .getDigests v, .getCertificate v c o l,
        .challenge v c n, .getMeasurements v c w n, .keyExchange v x, .finish v w, .heartbeat v, .endSession v,
        .unsupportedRequest v c] : List Instr) →
      (spdmUp s v = false → Completes i s (fun t => t = s)) ∧
      (spdmUp s v = true → phaseOf s v = 0 → i ≠ .getVersion v → i ≠ .unsupportedRequest v c →
        SaysOnly i s v 0x7F (fun p => p = [4, 0]))) ∧
    (spdmUp s v = true →
      Completes (.getVersion v) s (fun t => phaseOf t v = 1 ∧ t.sec.spdmOut = s.sec.spdmOut ++ [(v, 0x04, [0, 1, 0, 0x13])] ∧
        t = { s with sec := t.sec }) ∧
      (1 ≤ phaseOf s v → Completes (.getCapabilities v) s (fun t => phaseOf t v = 2 ∧
        t.sec.spdmOut = s.sec.spdmOut ++ [(v, 0x61, p4 capFlags)] ∧ t = { s with sec := t.sec })) ∧
      (2 ≤ phaseOf s v → Completes (.negotiateAlgorithms v true) s (fun t => phaseOf t v = 3 ∧
        t.sec.spdmOut = s.sec.spdmOut ++ [(v, 0x63, [])] ∧ t = { s with sec := t.sec })) ∧
      (phaseOf s v < 3 → SaysOnly (.getDigests v) s v 0x7F (fun p => p = [4, 0]) ∧ SaysOnly (.heartbeat v) s v 0x7F (fun p => p = [4, 0])) ∧
      (3 ≤ phaseOf s v →
        SaysOnly (.getDigests v) s v 0x01 (fun p => p = 1 :: sha3_512 (chainBytes s)) ∧
        (∀ i sg n, sg = false ∨ s.sec.attestOk = true → i ≤ 8 ∨ i = 0xFF → SaysOnly (.getMeasurements v i sg n) s v 0x60 (fun p => ∃ m,
          p = m ++ if sg then n ++ attestSign s (n ++ m) else [])) ∧
        (s.sec.attestOk = true →
          (∀ o l, o < (chainBytes s).length → SaysOnly (.getCertificate v 0 o l) s v 0x02 (fun p =>
            p.drop 4 = ((chainBytes s).drop o).take l ∧ p.take 2 = leBytes 2 (((chainBytes s).drop o).take l).length)) ∧
          (∀ o l, (chainBytes s).length ≤ o → SaysOnly (.getCertificate v 0 o l) s v 0x7F (fun p => p = [1, 0])) ∧
          (∀ n, SaysOnly (.challenge v 0 n) s v 0x03 (fun p => ∃ m, p = m ++ attestSign s m)) ∧
          (∀ x, (sessionsOf s v).length < 4 → Completes (.keyExchange v x) s (fun t =>
            (sessionsOf t v).length = (sessionsOf s v).length + 1 ∧ t = { s with sec := t.sec, freeCtr := s.freeCtr + 1 })) ∧
          (∀ x, 4 ≤ (sessionsOf s v).length → SaysOnly (.keyExchange v x) s v 0x7F (fun p => p = [0x0A, 0]))) ∧
        (s.sec.attestOk = false → (∀ a o l, SaysOnly (.getCertificate v a o l) s v 0x7F (fun p => p = [4, 0])) ∧
          (∀ a n, SaysOnly (.challenge v a n) s v 0x7F (fun p => p = [4, 0])) ∧
          (∀ i n, SaysOnly (.getMeasurements v i true n) s v 0x7F (fun p => p = [4, 0])) ∧
          (∀ x, SaysOnly (.keyExchange v x) s v 0x7F (fun p => p = [4, 0]))) ∧
        (s.sec.spdm.any (awaitsFinish v) = true →
          Completes (.finish v true) s (fun t => t.sec.spdm.any (awaitsFinish v) = false ∧ t.sec.spdm.any (established v) = true ∧
            (∀ n, v = .furlong n → s.net.managers.any (fun m => m.1 == n) = true → (n, s.clock.ns) ∈ t.net.attested) ∧ t.mem = s.mem) ∧
          Completes (.finish v false) s (fun t => t.sec.spdm.any (awaitsFinish v) = false ∧ t.net.attested = s.net.attested ∧ t.mem = s.mem)) ∧
        (s.sec.spdm.any (established v) = true → SaysOnly (.heartbeat v) s v 0x68 (fun p => p = []) ∧
          Completes (.endSession v) s (fun t => t.sec.spdm.length + 1 = s.sec.spdm.length ∧ t.mem = s.mem ∧
            t.sec.spdmOut = s.sec.spdmOut ++ [(v, 0x6C, [])] ∧ ∀ n, v = .furlong n → ∀ a ∈ t.net.attested, a.1 ≠ n))) ∧
      (∀ c, SaysOnly (.unsupportedRequest v c) s v 0x7F (fun p => p = [7, BitVec.ofNat 8 c])))

/-! ## The host's registers (R6, R7, R464 to R477) -/

/-- BAR0 while it answers: a read of a low word latches the high word that the next read of the high word gives; LAST_SEQ latches its
event and DEV_PROG_POS_LO the progress triple; writing 1 clears a bit of ERR_SUMMARY and writing 0 leaves it; SNAP fills the nine
slots; an unmasked vector held pending goes; BASE_LO commits a window's base and clears BLOCKED; a write to a register that nothing
writes is ignored. A message submitted to a mailbox that is not busy is held; one that checks 1 to 4 refuse is answered at once, or
held behind the messages submitted before it; and a write to the buffer of a busy mailbox is ignored (R6, R7, R345, R469, R470, R473 to R476).
BAR2 while it answers: a read through an open window of plain memory gives the bytes there, 0xFF with a Poisoned TLP for a
poisoned grain; a closed window reads all ones; a write through a window open to writes puts its bytes there and changes no other
byte; an access to what no window reaches is refused and counted, BLOCKED saturating (R476, R477). -/
def Obligations.HostAccess : Prop :=
  (∀ (s : State), barUp s = true →
      (∀ off x, pairValue s off = some x → off ≠ 0x028 → off ≠ 0x1008 → Completes (.lowWordRead off) s (fun t =>
        t.host.rdata = p4 x ∧ look t.host.hold 0 (off + 4) = BitVec.ofNat 32 (x / 2 ^ 32) ∧ t.mem = s.mem ∧ t.fw = s.fw ∧ t.ctxs = s.ctxs)) ∧
      (∀ off, off ≠ 0x028 → off ≠ 0x1008 → pairValue s off = none → 4 ≤ off → (pairValue s (off - 4)).isSome = true →
        Completes (.lowWordRead off) s (fun t => t.host.rdata = p4 (look s.host.hold 0 off).toNat ∧ t.mem = s.mem ∧ t.fw = s.fw)) ∧
      Completes .lastSeq s (fun t => t.host.rdata = p4 s.host.lastSeq ∧ t.host.latchInfo = s.host.lastInfo ∧
        t.host.latchTime = s.host.lastTime ∧ t.mem = s.mem ∧ t.fw = s.fw) ∧
      Completes .devProgPosLo s (fun t => t.host.rdata = p4 s.fw.progPos ∧
        look t.host.hold 0 0x02C = BitVec.ofNat 32 (s.fw.progPos / 2 ^ 32) ∧
        look t.host.hold 0 0x034 = BitVec.ofNat 32 (s.fw.progTotal / 2 ^ 32) ∧
        t.host.progLatch = some (BitVec.ofNat 32 (devProgress s)) ∧ t.mem = s.mem ∧ t.fw = s.fw) ∧
      (∀ x, Completes (.errSummaryClear x) s (fun t => t = { s with host := t.host } ∧ ∀ b, b < 5 →
        t.host.errSummary.getLsbD b = (s.host.errSummary.getLsbD b && !x.getLsbD b))) ∧
      (∀ x k, x.getLsbD 0 = true → x.toNat / 256 % 256 = k → (k < 64 ∨ k = 0xFF) → Completes (.snap x) s (fun t =>
        t.host.cntCtx = k ∧ t.host.cntSlots = snapSlots s k ∧ t.host.cntValid = (k == 0xFF || ctxExists s k) ∧
        t = { s with host := t.host })) ∧
      (∀ n x, n < 64 → Completes (.mask n x) s (fun t => (look t.host.msix {} n).mask = x.getLsbD 0 ∧
        (x.getLsbD 0 = false → (look t.host.msix {} n).pend = false ∧
          ((look s.host.msix {} n).pend = true → t.host.msi = s.host.msi ++ [n])) ∧ t = { s with host := t.host })) ∧
      (∀ n x, n < 16 → Completes (.baseLo n x) s (fun t => (windowAt t n).base = (windowAt s n).baseHi * 2 ^ 32 + x.toNat / 2 ^ 21 * 2 ^ 21 ∧
        (windowAt t n).blocked = 0 ∧ (∀ w, w ≠ n → windowAt t w = windowAt s w) ∧ t = { s with host := t.host })) ∧
      (∀ off x, off % 4 = 0 → off < 0x1000 → Completes (.registerWrite off x) s (fun t => t = s)) ∧
      (∀ x, Completes (.registerWrite 0x1004 x) s (fun t => t.host.errMask = x.setWidth 5 ∧ t = { s with host := t.host })) ∧
      (∀ m i x, m < 16 → i < 0x800 → (boxBusy s m = true → Completes (.registerWrite (0x10_0000 + 0x4000 * m + 4 * i) x) s (fun t => t = s)) ∧
        (boxBusy s m = false → Completes (.registerWrite (0x10_0000 + 0x4000 * m + 4 * i) x) s (fun t =>
          look (look t.fw.boxes {} m).buf 0 i = x ∧ t.mem = s.mem ∧ t.ctxs = s.ctxs))) ∧
      (∀ m x, m < 16 → x.getLsbD 0 = true → boxBusy s m = false →
        (submitRefusal s.fw.msgMinor m (readMsg m (boxBytes (look s.fw.boxes {} m))).1 (readMsg m (boxBytes (look s.fw.boxes {} m))).2.1
            (readMsg m (boxBytes (look s.fw.boxes {} m))).2.2 ((boxBytes (look s.fw.boxes {} m)).drop 32) = none →
          Completes (.submit m x) s (fun t => (look t.fw.boxes {} m).taken = (look s.fw.boxes {} m).taken ++
              [((readMsg m (boxBytes (look s.fw.boxes {} m))).1, (readMsg m (boxBytes (look s.fw.boxes {} m))).2.1,
                ((boxBytes (look s.fw.boxes {} m)).drop 32).take (readMsg m (boxBytes (look s.fw.boxes {} m))).2.2)] ∧
            t.mem = s.mem ∧ t.ctxs = s.ctxs)) ∧
        (∀ st, submitRefusal s.fw.msgMinor m (readMsg m (boxBytes (look s.fw.boxes {} m))).1 (readMsg m (boxBytes (look s.fw.boxes {} m))).2.1
            (readMsg m (boxBytes (look s.fw.boxes {} m))).2.2 ((boxBytes (look s.fw.boxes {} m)).drop 32) = some st →
          (look s.fw.boxes {} m).taken = [] → Completes (.submit m x) s (fun t =>
            t = answer s (readMsg m (boxBytes (look s.fw.boxes {} m))).1 (readMsg m (boxBytes (look s.fw.boxes {} m))).2.1 st [])) ∧
        (∀ st, submitRefusal s.fw.msgMinor m (readMsg m (boxBytes (look s.fw.boxes {} m))).1 (readMsg m (boxBytes (look s.fw.boxes {} m))).2.1
            (readMsg m (boxBytes (look s.fw.boxes {} m))).2.2 ((boxBytes (look s.fw.boxes {} m)).drop 32) = some st →
          (look s.fw.boxes {} m).taken ≠ [] → Completes (.submit m x) s (fun t => t.fw.outbox = s.fw.outbox ∧
            (look t.fw.boxes {} m).taken = (look s.fw.boxes {} m).taken ∧ (look t.fw.boxes {} m).late =
              (look s.fw.boxes {} m).late ++ [((look s.fw.boxes {} m).taken.length, (readMsg m (boxBytes (look s.fw.boxes {} m))).1,
                (readMsg m (boxBytes (look s.fw.boxes {} m))).2.1, st)])))) ∧
  (∀ (s : State) (w o : Nat), barUp s = true → w < 16 → o < 2 ^ 32 →
      (∀ n, (windowAt s w).enable = false → Completes (.bar2Read (w * 2 ^ 32 + o) n false) s (fun t =>
        t.host.rdata = List.replicate n 0xFF ∧ t = { s with host := t.host })) ∧
      (s.fw.recovering = false → (windowAt s w).enable = true →
        (∀ n, s.mem.upsets = [] → (∀ i, i < n → reachOf s ((windowAt s w).base + o + i) = .plain) → Completes (.bar2Read (w * 2 ^ 32 + o) n false) s (fun t =>
          t.host.rdata = (List.range n).map (fun i => if s.mem.poison.elem (((windowAt s w).base + o + i) / 64) then 0xFF
            else memByte s.mem ((windowAt s w).base + o + i)) ∧
          t.host.rpoison = (List.range n).any (fun i => s.mem.poison.elem (((windowAt s w).base + o + i) / 64)) ∧
          t = { s with host := t.host })) ∧
        (∀ n i, i < n → reachOf s ((windowAt s w).base + o + i) = .refused → Completes (.bar2Read (w * 2 ^ 32 + o) n false) s (fun t =>
          t.host.rdata = List.replicate n 0xFF ∧ (windowAt t w).blocked = min ((windowAt s w).blocked + 1) 0xFFFF ∧
          t = { s with host := t.host })) ∧
        (∀ d, (windowAt s w).writeEn = false → Completes (.bar2Write (w * 2 ^ 32 + o) d) s (fun t =>
          (windowAt t w).blocked = min ((windowAt s w).blocked + 1) 0xFFFF ∧ t = { s with host := t.host })) ∧
        (∀ d : List Byte, MemCanonical s → (windowAt s w).writeEn = true →
          (∀ i, i < d.length → reachOf s ((windowAt s w).base + o + i) = .plain) → Completes (.bar2Write (w * 2 ^ 32 + o) d) s (fun t =>
            (∀ a, memByte t.mem a = if (windowAt s w).base + o ≤ a ∧ a < (windowAt s w).base + o + d.length
              then nth d (a - ((windowAt s w).base + o)) 0 else memByte s.mem a) ∧ t.ctxs = s.ctxs ∧ t.host = s.host))))

/-! ## The block as a whole -/

/-- A step with a command at the front of the queue is that command's effect on the state with the queue's rest. -/
def Obligations.StepRunsFront : Prop :=
  ∀ (s : State) (c : Instr), step { s with pending := c :: s.pending } = exec c s

/-- Every command completes in every state: none is refused, and none stops the block. Where the spec calls a result
unpredictable, the block goes on with a free one (R9, R40, R67). -/
def Obligations.EveryCommandCompletes : Prop :=
  ∀ (s : State) (c : Instr), Completes c s (fun _ => True)

/-- The words of a program instruction spell it: whatever its fields, decoding the words that encode it gives the command of the
same core with the same word (R43, R44, R48, R50). -/
def Obligations.WordsRoundTrip : Prop :=
  ∀ (i : Instr) (c : Nat) (b : BitVec 64 × BitVec 64), encodeProgram i = some (c, b) → decodeProgram c b.1 b.2 = i

/-- No command, and no passing of time, lowers an anti-rollback counter (R419). -/
def Obligations.CountersNeverFall : Prop :=
  ∀ (s t : State), step s = .next t → CountersKept s t

/-- Every step keeps the canonical form of memory's bytes: rising addresses, and no listed byte that an unlisted address would read as. -/
def Obligations.MemoryStaysCanonical : Prop :=
  ∀ (s t : State), Memory.wf s.mem = true → step s = .next t → Memory.wf t.mem = true

/-- At reset memory lists nothing and is canonical, no context exists, boot stands before stage ROM, every counter is 0, ERR_SUMMARY
is 0, every vector is masked, no command waits and no rail is out of range (R341, R419, R473, R475). -/
def Obligations.StateAtReset : Prop :=
  MemCanonical State.reset ∧ State.reset.mem.cells = [] ∧ (∀ k, (ctxOf State.reset k).st = .free) ∧ State.reset.fw.stage = 1 ∧
  (∀ i, rollCtr State.reset i = 0) ∧ State.reset.host.errSummary = 0 ∧ State.reset.host.errMask = 0 ∧
  (∀ v, (look State.reset.host.msix {} v).mask = true) ∧ State.reset.pending = [] ∧ State.reset.board.low = [] ∧
  State.reset.clock.ns = 0

/-- A scale byte e of E8M0 has the value 2^(e − 127) for e from 0 to 254 and is NaN for 0xFF; no byte is negative or zero (R145). -/
def Obligations.ScaleValues : Prop :=
  (∀ e, e < 255 → e8m0 e = .fin ((2 : Rat) ^ ((e : Int) - 127)) ∧ (0 : Rat) < (2 : Rat) ^ ((e : Int) - 127)) ∧ e8m0 255 = .nan
end

