-- ==== Sys2Proof/Laws/PerInstr.lean ====
section
/-! SUPPORT. A statement about each command as syntax: a well-formed command that issues a program instruction names a
logical core of the device (R15, R43, R44). One lemma per constructor of Instr. -/

namespace Sys2Proof.Laws.Wf

/-- A well-formed command whose words a core issues names one of the 320 logical cores. -/
def Statement (i : Instr) : Prop :=
  wellFormed i = true → ∀ (c : Nat) (b : BitVec 64 × BitVec 64), encodeProgram i = some (c, b) → c < 320

/-- A command that issues no program instruction meets the statement. -/
theorem of_none {i : Instr} (h : encodeProgram i = none) : Statement i := by
  intro _ c b e; rw [h] at e; cases e

/-- A command that issues one at a core that is in range meets it. -/
theorem of_some {i : Instr} {n : Nat} {p : BitVec 64 × BitVec 64} (h : encodeProgram i = some (n, p))
    (w : wellFormed i = coreOk n) : Statement i := by
  intro k c b e
  rw [h] at e
  rw [w] at k
  cases e
  simpa [coreOk] using k

theorem nop (c : Nat) (w : CWord) : Statement (.nop c w) := of_some rfl rfl
theorem endProgram (c : Nat) (w : CWord) : Statement (.endProgram c w) := of_some rfl rfl
theorem alu (c : Nat) (w : CWord) : Statement (.alu c w) := of_some rfl rfl
theorem alui (c : Nat) (w : CWord) : Statement (.alui c w) := of_some rfl rfl
theorem movhi (c : Nat) (w : CWord) : Statement (.movhi c w) := of_some rfl rfl
theorem cmp (c : Nat) (w : CWord) : Statement (.cmp c w) := of_some rfl rfl
theorem cmpi (c : Nat) (w : CWord) : Statement (.cmpi c w) := of_some rfl rfl
theorem pred (c : Nat) (w : CWord) : Statement (.pred c w) := of_some rfl rfl
theorem br (c : Nat) (w : CWord) : Statement (.br c w) := of_some rfl rfl
theorem jal (c : Nat) (w : CWord) : Statement (.jal c w) := of_some rfl rfl
theorem jr (c : Nat) (w : CWord) : Statement (.jr c w) := of_some rfl rfl
theorem ld (c : Nat) (w : CWord) : Statement (.ld c w) := of_some rfl rfl
theorem st (c : Nat) (w : CWord) : Statement (.st c w) := of_some rfl rfl
theorem sysrd (c : Nat) (w : CWord) : Statement (.sysrd c w) := of_some rfl rfl
theorem wtok (c : Nat) (w : CWord) : Statement (.wtok c w) := of_some rfl rfl
theorem illegalOpcode (c : Nat) (opc : BitVec 8) : Statement (.illegalOpcode c opc) := of_none rfl
theorem privilegedInstruction (c : Nat) (opc : BitVec 8) : Statement (.privilegedInstruction c opc) := of_none rfl
theorem spanBegin (c : Nat) (w : CWord) : Statement (.spanBegin c w) := of_some rfl rfl
theorem spanEnd (c : Nat) (w : CWord) : Statement (.spanEnd c w) := of_some rfl rfl
theorem stepProgram (c : Nat) (w : CWord) : Statement (.stepProgram c w) := of_some rfl rfl
theorem markPush (c : Nat) (w : CWord) : Statement (.markPush c w) := of_some rfl rfl
theorem markPop (c : Nat) (w : CWord) : Statement (.markPop c w) := of_some rfl rfl
theorem ophint (c : Nat) (w : CWord) : Statement (.ophint c w) := of_some rfl rfl
theorem mma (c : Nat) (g : Stage) : Statement (.mma c g) := by
  cases g
  · exact of_some rfl rfl
  · exact of_none rfl
theorem mmaLd (c : Nat) (g : Stage) : Statement (.mmaLd c g) := by
  cases g
  · exact of_some rfl rfl
  · exact of_none rfl
theorem mda (c : Nat) (g : Stage) : Statement (.mda c g) := by
  cases g
  · exact of_some rfl rfl
  · exact of_none rfl
theorem mvm (c : Nat) (g : Stage) : Statement (.mvm c g) := by
  cases g
  · exact of_some rfl rfl
  · exact of_none rfl
theorem vop (c : Nat) (g : Stage) : Statement (.vop c g) := by
  cases g
  · exact of_some rfl rfl
  · exact of_none rfl
theorem topk (c : Nat) (g : Stage) : Statement (.topk c g) := by
  cases g
  · exact of_some rfl rfl
  · exact of_none rfl
theorem norm (c : Nat) (g : Stage) : Statement (.norm c g) := by
  cases g
  · exact of_some rfl rfl
  · exact of_none rfl
theorem softmax (c : Nat) (g : Stage) : Statement (.softmax c g) := by
  cases g
  · exact of_some rfl rfl
  · exact of_none rfl
theorem cvt (c : Nat) (g : Stage) : Statement (.cvt c g) := by
  cases g
  · exact of_some rfl rfl
  · exact of_none rfl
theorem stat (c : Nat) (g : Stage) : Statement (.stat c g) := by
  cases g
  · exact of_some rfl rfl
  · exact of_none rfl
theorem upd (c : Nat) (g : Stage) : Statement (.upd c g) := by
  cases g
  · exact of_some rfl rfl
  · exact of_none rfl
theorem xfer (c : Nat) (g : Stage) : Statement (.xfer c g) := by
  cases g
  · exact of_some rfl rfl
  · exact of_none rfl
theorem fetch (c : Nat) (g : Stage) : Statement (.fetch c g) := by
  cases g
  · exact of_some rfl rfl
  · exact of_none rfl
theorem fetchChunkIssue (c : Nat) (id : Nat) : Statement (.fetchChunkIssue c id) := of_none rfl
theorem ridge (c : Nat) (g : Stage) : Statement (.ridge c g) := by
  cases g
  · exact of_some rfl rfl
  · exact of_none rfl
theorem spar (c : Nat) (g : Stage) : Statement (.spar c g) := by
  cases g
  · exact of_some rfl rfl
  · exact of_none rfl
theorem yealm (c : Nat) (g : Stage) : Statement (.yealm c g) := by
  cases g
  · exact of_some rfl rfl
  · exact of_none rfl
theorem cancel (c : Nat) (g : Stage) : Statement (.cancel c g) := by
  cases g
  · exact of_some rfl rfl
  · exact of_none rfl
theorem fence (c : Nat) (g : Stage) : Statement (.fence c g) := by
  cases g
  · exact of_some rfl rfl
  · exact of_none rfl
theorem trussArrive (c : Nat) (g : Stage) : Statement (.trussArrive c g) := by
  cases g
  · exact of_some rfl rfl
  · exact of_none rfl
theorem trussWait (c : Nat) (g : Stage) : Statement (.trussWait c g) := by
  cases g
  · exact of_some rfl rfl
  · exact of_none rfl
theorem trussArwt (c : Nat) (g : Stage) : Statement (.trussArwt c g) := by
  cases g
  · exact of_some rfl rfl
  · exact of_none rfl
theorem collAllreduce (c : Nat) (g : Stage) : Statement (.collAllreduce c g) := by
  cases g
  · exact of_some rfl rfl
  · exact of_none rfl
theorem collRedscat (c : Nat) (g : Stage) : Statement (.collRedscat c g) := by
  cases g
  · exact of_some rfl rfl
  · exact of_none rfl
theorem collAllgather (c : Nat) (g : Stage) : Statement (.collAllgather c g) := by
  cases g
  · exact of_some rfl rfl
  · exact of_none rfl
theorem collAlltoall (c : Nat) (g : Stage) : Statement (.collAlltoall c g) := by
  cases g
  · exact of_some rfl rfl
  · exact of_none rfl
theorem collBcast (c : Nat) (g : Stage) : Statement (.collBcast c g) := by
  cases g
  · exact of_some rfl rfl
  · exact of_none rfl
theorem collReduce (c : Nat) (g : Stage) : Statement (.collReduce c g) := by
  cases g
  · exact of_some rfl rfl
  · exact of_none rfl
theorem engineInstructionStart (c : Nat) (e : Engine) : Statement (.engineInstructionStart c e) := of_none rfl
theorem engineInstructionComplete (c : Nat) (e : Engine) (id : Nat) : Statement (.engineInstructionComplete c e id) := of_none rfl
theorem burstStart (c : Nat) (id : Nat) (rd : ReadErr) : Statement (.burstStart c id rd) := of_none rfl
theorem regulatorRefill : Statement .regulatorRefill := of_none rfl
theorem patrolScrub (rd : ReadErr) : Statement (.patrolScrub rd) := of_none rfl
theorem hbmRowSpare (chan row : Nat) : Statement (.hbmRowSpare chan row) := of_none rfl
theorem hbmPageRetire (page : Nat) : Statement (.hbmPageRetire page) := of_none rfl
theorem hbmPostPackageRepair (chans : List Nat) : Statement (.hbmPostPackageRepair chans) := of_none rfl
theorem thatchSliceRetire (slice : Nat) : Statement (.thatchSliceRetire slice) := of_none rfl
theorem shadowQuantumExpiry (p : Nat) : Statement (.shadowQuantumExpiry p) := of_none rfl
theorem shadowEarlySwitch (p : Nat) : Statement (.shadowEarlySwitch p) := of_none rfl
theorem coreLogicFault (p : Nat) : Statement (.coreLogicFault p) := of_none rfl
theorem patrolTestStart : Statement .patrolTestStart := of_none rfl
theorem patrolTestDone (pass : Bool) (sig : Word) (margin : Nat) : Statement (.patrolTestDone pass sig margin) := of_none rfl
theorem coreReverify (p : Nat) (pass : Bool) : Statement (.coreReverify p pass) := of_none rfl
theorem watchdogTest : Statement .watchdogTest := of_none rfl
theorem remoteTrussArrival (k : Packet) : Statement (.remoteTrussArrival k) := of_none rfl
theorem flitReceive (j g : Nat) (up : Bool) (f : FlitData) (l : FlitLink) : Statement (.flitReceive j g up f l) := of_none rfl
theorem nakReceive (j g : Nat) (up : Bool) (ack : Nat) : Statement (.nakReceive j g up ack) := of_none rfl
theorem replayTimeout (j g : Nat) (up : Bool) : Statement (.replayTimeout j g up) := of_none rfl
theorem marginReport (j : Nat) (up : Bool) (lanes : List (Nat × Nat × Bool)) : Statement (.marginReport j up lanes) := of_none rfl
theorem laneDue (j : Nat) (up : Bool) (lane : Nat) : Statement (.laneDue j up lane) := of_none rfl
theorem swap (j : Nat) (up : Bool) (lane spare : Nat) : Statement (.swap j up lane spare) := of_none rfl
theorem laneSwitch (j : Nat) (up : Bool) : Statement (.laneSwitch j up) := of_none rfl
theorem chainGroupRemoved (j g : Nat) : Statement (.chainGroupRemoved j g) := of_none rfl
theorem portTrained (port : Nat) (offer : List Nat × Bool) : Statement (.portTrained port offer) := of_none rfl
theorem portLinkLoss (port : Nat) (cause : Nat) : Statement (.portLinkLoss port cause) := of_none rfl
theorem portAnRetry (port : Nat) (rates : List Nat) (trained : Bool) : Statement (.portAnRetry port rates trained) := of_none rfl
theorem packetSend (peer : Nat) : Statement (.packetSend peer) := of_none rfl
theorem furlongHelloRetry (peer : Nat) : Statement (.furlongHelloRetry peer) := of_none rfl
theorem furlongHelloReceive (k : Packet) : Statement (.furlongHelloReceive k) := of_none rfl
theorem sessionOpenTimeout (peer : Nat) : Statement (.sessionOpenTimeout peer) := of_none rfl
theorem furlongWriteReceive (k : Packet) : Statement (.furlongWriteReceive k) := of_none rfl
theorem readReqReceive (k : Packet) : Statement (.readReqReceive k) := of_none rfl
theorem readRespReceive (k : Packet) : Statement (.readRespReceive k) := of_none rfl
theorem sendReceive (k : Packet) : Statement (.sendReceive k) := of_none rfl
theorem sackReceive (h : FHdr) (b : PacketBody) : Statement (.sackReceive h b) := of_none rfl
theorem sackTimer (peer : Nat) : Statement (.sackTimer peer) := of_none rfl
theorem rtoExpiry (peer psn : Nat) : Statement (.rtoExpiry peer psn) := of_none rfl
theorem pathSuspendExpiry (peer path : Nat) : Statement (.pathSuspendExpiry peer path) := of_none rfl
theorem congestionInterval (peer : Nat) : Statement (.congestionInterval peer) := of_none rfl
theorem peerLoss (peer : Nat) : Statement (.peerLoss peer) := of_none rfl
theorem collReady (k : Packet) : Statement (.collReady k) := of_none rfl
theorem collData (k : Packet) : Statement (.collData k) := of_none rfl
theorem collPartial (k : Packet) : Statement (.collPartial k) := of_none rfl
theorem collResult (k : Packet) : Statement (.collResult k) := of_none rfl
theorem collCheck (k : Packet) : Statement (.collCheck k) := of_none rfl
theorem chunkCheck (c id chunk : Nat) : Statement (.chunkCheck c id chunk) := of_none rfl
theorem collRepair (k : Packet) : Statement (.collRepair k) := of_none rfl
theorem collAbort (k : Packet) : Statement (.collAbort k) := of_none rfl
theorem collRevoke (k : Packet) : Statement (.collRevoke k) := of_none rfl
theorem collDone (k : Packet) : Statement (.collDone k) := of_none rfl
theorem ptpSyncReceive (a : PtpArrival) (rate : Int) : Statement (.ptpSyncReceive a rate) := of_none rfl
theorem ptpSyncTimeout : Statement .ptpSyncTimeout := of_none rfl
theorem ppsIn : Statement .ppsIn := of_none rfl
theorem ppsOut : Statement .ppsOut := of_none rfl
theorem frequencyStep (b : Nat) : Statement (.frequencyStep b) := of_none rfl
theorem muxSwitch (b : Nat) : Statement (.muxSwitch b) := of_none rfl
theorem pllUnlock (b pll : Nat) : Statement (.pllUnlock b pll) := of_none rfl
theorem marginMonitorRead (b margin : Nat) : Statement (.marginMonitorRead b margin) := of_none rfl
theorem droopDetect (b : Nat) : Statement (.droopDetect b) := of_none rfl
theorem droopClear (b : Nat) : Statement (.droopClear b) := of_none rfl
theorem voltageLowerHoldExpiry (b : Nat) : Statement (.voltageLowerHoldExpiry b) := of_none rfl
theorem fastLoop (raw : List Nat) (uncore : Nat) : Statement (.fastLoop raw uncore) := of_none rfl
theorem slowLoop (measured : List (Option Nat)) : Statement (.slowLoop measured) := of_none rfl
theorem energyAttribution (cores : List (Nat × Nat)) (grains : List (Nat × Nat)) (rest : Nat) : Statement (.energyAttribution cores grains rest) := of_none rfl
theorem lostCycleUpdate (delivered : List Nat) : Statement (.lostCycleUpdate delivered) := of_none rfl
theorem bayClockStop (b : Nat) : Statement (.bayClockStop b) := of_none rfl
theorem thermalSample (dies : List Int) (hbm : List Int) : Statement (.thermalSample dies hbm) := of_none rfl
theorem thermalEmergency (sensor : Nat) (temp : Int) : Statement (.thermalEmergency sensor temp) := of_none rfl
theorem thermalTrip (sensor : Nat) (temp : Int) : Statement (.thermalTrip sensor temp) := of_none rfl
theorem hbmThrottle (stack : Nat) (temp : Int) : Statement (.hbmThrottle stack temp) := of_none rfl
theorem fastThrottle : Statement .fastThrottle := of_none rfl
theorem fastThrottleRelease : Statement .fastThrottleRelease := of_none rfl
theorem pmuFallback (missed : Nat) : Statement (.pmuFallback missed) := of_none rfl
theorem pmuResume : Statement .pmuResume := of_none rfl
theorem pmbusAlert : Statement .pmbusAlert := of_none rfl
theorem railUndervoltage (r : Nat) : Statement (.railUndervoltage r) := of_none rfl
theorem ref25Loss : Statement .ref25Loss := of_none rfl
theorem perstNAssert : Statement .perstNAssert := of_none rfl
theorem perstNRelease (bootMode : BitVec 2) (clkMode : Bool) : Statement (.perstNRelease bootMode clkMode) := of_none rfl
theorem bootStageComplete (f : BootFinding) : Statement (.bootStageComplete f) := of_none rfl
theorem lockstepMismatch (pair : Nat) : Statement (.lockstepMismatch pair) := of_none rfl
theorem outboxRecordWrite : Statement .outboxRecordWrite := of_none rfl
theorem outboxSignalTimer : Statement .outboxSignalTimer := of_none rfl
theorem hostAbsenceTest : Statement .hostAbsenceTest := of_none rfl
theorem schedSliceExpiry (part : Nat) : Statement (.schedSliceExpiry part) := of_none rfl
theorem preemptDrainTimeout (part : Nat) : Statement (.preemptDrainTimeout part) := of_none rfl
theorem preemptionComplete (part : Nat) : Statement (.preemptionComplete part) := of_none rfl
theorem debugHaltComplete (ctx : Nat) : Statement (.debugHaltComplete ctx) := of_none rfl
theorem traceRecordWrite (source : Nat) : Statement (.traceRecordWrite source) := of_none rfl
theorem fwActivationBegin (target : Nat) (importOk : Bool) : Statement (.fwActivationBegin target importOk) := of_none rfl
theorem fwActivateWindowExpiry (target : Nat) : Statement (.fwActivateWindowExpiry target) := of_none rfl
theorem fwCommitTimeout (target : Nat) : Statement (.fwCommitTimeout target) := of_none rfl
theorem jobHalt (ctx : Nat) : Statement (.jobHalt ctx) := of_none rfl
theorem jobHaltReceive (job epoch origin cause : Nat) (sender : Nat) : Statement (.jobHaltReceive job epoch origin cause sender) := of_none rfl
theorem haltComplete (ctx : Nat) : Statement (.haltComplete ctx) := of_none rfl
theorem haltAckReceive (job sender committed : Nat) (ready : Option Nat) (absent : List Nat) : Statement (.haltAckReceive job sender committed ready absent) := of_none rfl
theorem haltAckTimeout (ctx child : Nat) : Statement (.haltAckTimeout ctx child) := of_none rfl
theorem gatherTimeout (ctx : Nat) : Statement (.gatherTimeout ctx) := of_none rfl
theorem restore (job target : Nat) : Statement (.restore job target) := of_none rfl
theorem restoreCopyDone (ctx : Nat) : Statement (.restoreCopyDone ctx) := of_none rfl
theorem restoreDone (job sender : Nat) : Statement (.restoreDone job sender) := of_none rfl
theorem resume (job : Nat) : Statement (.resume job) := of_none rfl
theorem replaceWaitExpiry (ctx : Nat) : Statement (.replaceWaitExpiry ctx) := of_none rfl
theorem snapshotCopyDone (ctx : Nat) : Statement (.snapshotCopyDone ctx) := of_none rfl
theorem ckptReady (job sender epoch : Nat) : Statement (.ckptReady job sender epoch) := of_none rfl
theorem ckptCommit (job epoch : Nat) : Statement (.ckptCommit job epoch) := of_none rfl
theorem mirrorWriteDone (ctx epoch : Nat) : Statement (.mirrorWriteDone ctx epoch) := of_none rfl
theorem twinHeartbeatSend : Statement .twinHeartbeatSend := of_none rfl
theorem twinHeartbeatReceive (node incarnation : Nat) (attested : Option Nat) (beats : List BeatCtx) : Statement (.twinHeartbeatReceive node incarnation attested beats) := of_none rfl
theorem twinLost (ctx : Nat) : Statement (.twinLost ctx) := of_none rfl
theorem deviceRecovery (cause : Nat) : Statement (.deviceRecovery cause) := of_none rfl
theorem deviceRecoveryComplete (imported : Bool) : Statement (.deviceRecoveryComplete imported) := of_none rfl
theorem flashWrite (area : Nat) (counter : Nat) (tag : List Byte) (data : List Byte) : Statement (.flashWrite area counter tag data) := of_none rfl
theorem debugUnlockToken (m : Manifest) : Statement (.debugUnlockToken m) := of_none rfl
theorem entdaa (addr : Nat) : Statement (.entdaa addr) := of_none rfl
theorem setdasa : Statement .setdasa := of_none rfl
theorem rstdaa : Statement .rstdaa := of_none rfl
theorem pcieLinkDown : Statement .pcieLinkDown := of_none rfl
theorem hello (h : MsgHdr) (outboxAddr threshold : Nat) (rsv : Bool) : Statement (.hello h outboxAddr threshold rsv) := of_none rfl
theorem hostAlive (h : MsgHdr) (timeoutS : Nat) (rsv : Bool) : Statement (.hostAlive h timeoutS rsv) := of_none rfl
theorem status (h : MsgHdr) : Statement (.status h) := of_none rfl
theorem contextList (h : MsgHdr) : Statement (.contextList h) := of_none rfl
theorem capacity (h : MsgHdr) (hostAddr : Nat) (rsv : Bool) : Statement (.capacity h hostAddr rsv) := of_none rfl
theorem contextCreate (h : MsgHdr) (part mbx hostLoss route job manager watchdog : Nat) (rsv : Bool) : Statement (.contextCreate h part mbx hostLoss route job manager watchdog rsv) := of_none rfl
theorem contextDestroy (h : MsgHdr) : Statement (.contextDestroy h) := of_none rfl
theorem contextPolicy (h : MsgHdr) (hostLoss route manager : Nat) (rsv : Bool) : Statement (.contextPolicy h hostLoss route manager rsv) := of_none rfl
theorem contextResume (h : MsgHdr) : Statement (.contextResume h) := of_none rfl
theorem contextStop (h : MsgHdr) : Statement (.contextStop h) := of_none rfl
theorem contextEnergy (h : MsgHdr) : Statement (.contextEnergy h) := of_none rfl
theorem memAlloc (h : MsgHdr) (va size kind page : Nat) (perm : BitVec 8) (rsv : Bool) : Statement (.memAlloc h va size kind page perm rsv) := of_none rfl
theorem memFree (h : MsgHdr) (va size : Nat) : Statement (.memFree h va size) := of_none rfl
theorem memWrite (h : MsgHdr) (va size hostAddr : Nat) (data : List Byte) : Statement (.memWrite h va size hostAddr data) := of_none rfl
theorem memRead (h : MsgHdr) (va size hostAddr : Nat) : Statement (.memRead h va size hostAddr) := of_none rfl
theorem launch (h : MsgHdr) (entries : List LaunchEntry) (rsv : Bool) : Statement (.launch h entries rsv) := of_none rfl
theorem numericPolicy (h : MsgHdr) (p : NumericPolicy) : Statement (.numericPolicy h p) := of_none rfl
theorem numericWatch (h : MsgHdr) (slot threshold arm : Nat) (rsv : Bool) : Statement (.numericWatch h slot threshold arm rsv) := of_none rfl
theorem watchdogSet (h : MsgHdr) (periodMs : Nat) (rsv : Bool) : Statement (.watchdogSet h periodMs rsv) := of_none rfl
theorem trussCreate (h : MsgHdr) (vtid mode home limit participants : Nat) (fwd : List FwdEntry) (members : List Member) (rsv : Bool) : Statement (.trussCreate h vtid mode home limit participants fwd members rsv) := of_none rfl
theorem trussDestroy (h : MsgHdr) (vtid : Nat) (rsv : Bool) : Statement (.trussDestroy h vtid rsv) := of_none rfl
theorem regionCreate (h : MsgHdr) (key : Nat) (perm : BitVec 8) (base length : Nat) (rsv : Bool) : Statement (.regionCreate h key perm base length rsv) := of_none rfl
theorem regionDestroy (h : MsgHdr) (key : Nat) (rsv : Bool) : Statement (.regionDestroy h key rsv) := of_none rfl
theorem partitionSet (h : MsgHdr) (part : List Nat) (quota : List Nat) : Statement (.partitionSet h part quota) := of_none rfl
theorem sliceMode (h : MsgHdr) (bd slice mode : Nat) (rsv : Bool) : Statement (.sliceMode h bd slice mode rsv) := of_none rfl
theorem schedSet (h : MsgHdr) (part sliceMs quantumUs : Nat) (rsv : Bool) : Statement (.schedSet h part sliceMs quantumUs rsv) := of_none rfl
theorem fixedFreq (h : MsgHdr) (part on : Nat) (rsv : Bool) : Statement (.fixedFreq h part on rsv) := of_none rfl
theorem oppointSet (h : MsgHdr) (part : Nat) (freq : List Nat) (rsv : Bool) : Statement (.oppointSet h part freq rsv) := of_none rfl
theorem powerLimit (h : MsgHdr) (watts : Nat) (rsv : Bool) : Statement (.powerLimit h watts rsv) := of_none rfl
theorem budgetSet (h : MsgHdr) (ctx hbm network : Nat) (rsv : Bool) : Statement (.budgetSet h ctx hbm network rsv) := of_none rfl
theorem timeSource (h : MsgHdr) (source profile port : Nat) (rsv : Bool) : Statement (.timeSource h source profile port rsv) := of_none rfl
theorem portConfig (h : MsgHdr) (octet mode : Nat) (mtu : List Nat) (rsv : Bool) : Statement (.portConfig h octet mode mtu rsv) := of_none rfl
theorem nodeTable (h : MsgHdr) (job : Nat) (nodes : List (Nat × Nat)) : Statement (.nodeTable h job nodes) := of_none rfl
theorem managerSet (h : MsgHdr) (entries : List (Nat × Nat)) (rsv : Bool) : Statement (.managerSet h entries rsv) := of_none rfl
theorem netIdentity (h : MsgHdr) (n : NetIdentity) : Statement (.netIdentity h n) := of_none rfl
theorem gridSet (h : MsgHdr) (naxes : Nat) (extent : List Nat) (nodes : List Nat) (rsv : Bool) : Statement (.gridSet h naxes extent nodes rsv) := of_none rfl
theorem groupCreate (h : MsgHdr) (gid alg fanin members : Nat) (block : List Nat) (statusPtr : Nat) (nodes : List Nat) (rsv : Bool) : Statement (.groupCreate h gid alg fanin members block statusPtr nodes rsv) := of_none rfl
theorem groupDestroy (h : MsgHdr) (gid : Nat) (rsv : Bool) : Statement (.groupDestroy h gid rsv) := of_none rfl
theorem storageConnect (h : MsgHdr) (ctrl family svcid queues depth addr : Nat) (subnqn : List Byte) (rsv : Bool) (namespaces : Option (List Nat)) : Statement (.storageConnect h ctrl family svcid queues depth addr subnqn rsv namespaces) := of_none rfl
theorem storageRead (h : MsgHdr) (ctrl nsid slba nlb va : Nat) (truss phase : Word) (rsv : Bool) : Statement (.storageRead h ctrl nsid slba nlb va truss phase rsv) := of_none rfl
theorem storageWrite (h : MsgHdr) (ctrl nsid slba nlb va : Nat) (truss phase : Word) (rsv : Bool) : Statement (.storageWrite h ctrl nsid slba nlb va truss phase rsv) := of_none rfl
theorem storageDone (ctx seq nvmeStatus blocks : Nat) : Statement (.storageDone ctx seq nvmeStatus blocks) := of_none rfl
theorem checkpointSet (h : MsgHdr) (interval restartLimit replaceWait : Nat) (ranges : List (Nat × Nat)) (rsv : Bool) : Statement (.checkpointSet h interval restartLimit replaceWait ranges rsv) := of_none rfl
theorem twinSet (h : MsgHdr) (node : Nat) (flags : BitVec 8) (lost : Nat) (rsv : Bool) : Statement (.twinSet h node flags lost rsv) := of_none rfl
theorem fwStage (h : MsgHdr) (target : Nat) (flags : BitVec 8) (offset total : Nat) (data : List Byte) (ref : Option (Nat × Nat)) (rsv : Bool) :
    Statement (.fwStage h target flags offset total data ref rsv) := of_none rfl
theorem fwActivate (h : MsgHdr) (target windowS commitS : Nat) (rsv : Bool) : Statement (.fwActivate h target windowS commitS rsv) := of_none rfl
theorem fwCommit (h : MsgHdr) (target : Nat) (rsv : Bool) : Statement (.fwCommit h target rsv) := of_none rfl
theorem fwRollback (h : MsgHdr) (target : Nat) (rsv : Bool) : Statement (.fwRollback h target rsv) := of_none rfl
theorem counterRead (h : MsgHdr) (hostAddr : Nat) (entries : List CounterAddr) (rsv : Bool) : Statement (.counterRead h hostAddr entries rsv) := of_none rfl
theorem traceSet (h : MsgHdr) (sizeMib mode : Nat) (categories : BitVec 8) (mask : Word) (rsv : Bool) : Statement (.traceSet h sizeMib mode categories mask rsv) := of_none rfl
theorem traceStatus (h : MsgHdr) : Statement (.traceStatus h) := of_none rfl
theorem traceRead (h : MsgHdr) (first count hostAddr : Nat) (rsv : Bool) : Statement (.traceRead h first count hostAddr rsv) := of_none rfl
theorem histSet (h : MsgHdr) (unit source base filter : Nat) (rsv : Bool) : Statement (.histSet h unit source base filter rsv) := of_none rfl
theorem histSample (unit : Nat) (v : Int) : Statement (.histSample unit v) := of_none rfl
theorem histRead (h : MsgHdr) (unit clear hostAddr : Nat) (rsv : Bool) : Statement (.histRead h unit clear hostAddr rsv) := of_none rfl
theorem bpSet (h : MsgHdr) (lcore slot enable lenLog2 access addr : Nat) (rsv : Bool) : Statement (.bpSet h lcore slot enable lenLog2 access addr rsv) := of_none rfl
theorem debugHalt (h : MsgHdr) : Statement (.debugHalt h) := of_none rfl
theorem debugResume (h : MsgHdr) : Statement (.debugResume h) := of_none rfl
theorem debugStep (h : MsgHdr) (lcore : Nat) (rsv : Bool) : Statement (.debugStep h lcore rsv) := of_none rfl
theorem stateRead (h : MsgHdr) (lcore : Nat) (parts : BitVec 8) (hostAddr : Nat) (rsv : Bool) : Statement (.stateRead h lcore parts hostAddr rsv) := of_none rfl
theorem regWrite (h : MsgHdr) (lcore reg : Nat) (value : Word) (rsv : Bool) : Statement (.regWrite h lcore reg value rsv) := of_none rfl
theorem getTid : Statement .getTid := of_none rfl
theorem getPldmVersion (type : Nat) : Statement (.getPldmVersion type) := of_none rfl
theorem getPldmTypes : Statement .getPldmTypes := of_none rfl
theorem getPldmCommands (type : Nat) : Statement (.getPldmCommands type) := of_none rfl
theorem getPdrRepositoryInfo : Statement .getPdrRepositoryInfo := of_none rfl
theorem getPdr (record : Nat) : Statement (.getPdr record) := of_none rfl
theorem getSensorReading (id : Nat) : Statement (.getSensorReading id) := of_none rfl
theorem getStateSensorReadings (id : Nat) : Statement (.getStateSensorReadings id) := of_none rfl
theorem setNumericEffecterValue (id value : Nat) : Statement (.setNumericEffecterValue id value) := of_none rfl
theorem getNumericEffecterValue (id : Nat) : Statement (.getNumericEffecterValue id) := of_none rfl
theorem getVersion (v : SpdmVia) : Statement (.getVersion v) := of_none rfl
theorem getCapabilities (v : SpdmVia) : Statement (.getCapabilities v) := of_none rfl
theorem negotiateAlgorithms (v : SpdmVia) (agreed : Bool) : Statement (.negotiateAlgorithms v agreed) := of_none rfl
theorem getDigests (v : SpdmVia) : Statement (.getDigests v) := of_none rfl
theorem getCertificate (v : SpdmVia) (slot offset length : Nat) : Statement (.getCertificate v slot offset length) := of_none rfl
theorem challenge (v : SpdmVia) (slot : Nat) (nonce : List Byte) : Statement (.challenge v slot nonce) := of_none rfl
theorem getMeasurements (v : SpdmVia) (index : Nat) (signed : Bool) (nonce : List Byte) : Statement (.getMeasurements v index signed nonce) := of_none rfl
theorem keyExchange (v : SpdmVia) (exchange : List Byte) : Statement (.keyExchange v exchange) := of_none rfl
theorem finish (v : SpdmVia) (verified : Bool) : Statement (.finish v verified) := of_none rfl
theorem heartbeat (v : SpdmVia) : Statement (.heartbeat v) := of_none rfl
theorem endSession (v : SpdmVia) : Statement (.endSession v) := of_none rfl
theorem cons (value : Word32) : Statement (.cons value) := of_none rfl
theorem errSummaryClear (value : Word32) : Statement (.errSummaryClear value) := of_none rfl
theorem lastSeq : Statement .lastSeq := of_none rfl
theorem lowWordRead (off : Nat) : Statement (.lowWordRead off) := of_none rfl
theorem devProgPosLo : Statement .devProgPosLo := of_none rfl
theorem snap (value : Word32) : Statement (.snap value) := of_none rfl
theorem baseLo (win : Nat) (value : Word32) : Statement (.baseLo win value) := of_none rfl
theorem bar2Read (off len : Nat) (uncorrectable : Bool) : Statement (.bar2Read off len uncorrectable) := of_none rfl
theorem bar2Write (off : Nat) (data : List Byte) : Statement (.bar2Write off data) := of_none rfl
theorem registerWrite (off : Nat) (value : Word32) : Statement (.registerWrite off value) := of_none rfl
theorem submit (m : Nat) (value : Word32) : Statement (.submit m value) := of_none rfl
theorem arp (port : Nat) (a : ArpMsg) : Statement (.arp port a) := of_none rfl
theorem rocev2Receive (k : RocePkt) : Statement (.rocev2Receive k) := of_none rfl
theorem thermalEmergencyRelease : Statement .thermalEmergencyRelease := of_none rfl
theorem powerUp : Statement .powerUp := of_none rfl
theorem railInRange (r : Nat) : Statement (.railInRange r) := of_none rfl
theorem ref25Return : Statement .ref25Return := of_none rfl
theorem pcieLinkUp : Statement .pcieLinkUp := of_none rfl
theorem managerSessionTimeout (k : Nat) : Statement (.managerSessionTimeout k) := of_none rfl
theorem pairRestartComplete (pair : Nat) : Statement (.pairRestartComplete pair) := of_none rfl
theorem unsupportedRequest (v : SpdmVia) (code : Nat) : Statement (.unsupportedRequest v code) := of_none rfl
theorem mask (vec : Nat) (value : Word32) : Statement (.mask vec value) := of_none rfl

end Sys2Proof.Laws.Wf
end

