-- ==== Sys2Proof/Machine/Lands.lean ====
section
/-! DEFINITION. The package from outside (R444 to R447, R450, R459, R463): its lands and what they carry, the ranges of
its rails, and the capabilities of its function. All of it is fixed; no command changes it. -/

namespace Sys2Proof.Machine

/-! ## Lands (R444 to R447) -/

/-- The quadrants of the land grid. -/
inductive Quadrant where
  | nw | ne | sw | se
  deriving DecidableEq, Repr

/-- A land by quadrant and number. -/
structure Land where
  quadrant : Quadrant
  number   : Nat
  deriving DecidableEq, Repr

/-- Whether a position of a quadrant holds a land. -/
def populated (row col : Nat) : Bool :=
  decide (row < 58) && decide (col < 58) && !(decide (row < 8) && decide (col < 8)) && !(decide (48 ≤ row) && decide (48 ≤ col))

/-- The number of the land at a populated position: the lands before it, row by row. -/
def landNumber (row col : Nat) : Nat :=
  if row < 8 then 50 * row + col - 8
  else if row < 48 then 400 + 58 * (row - 8) + col
  else 2720 + 48 * (row - 48) + col

/-- The quadrant whose lands carry an Ethernet lane (R446). -/
def laneQuadrant (l : Nat) : Quadrant := if l < 32 then .nw else if l < 64 then .ne else if l < 96 then .sw else .se

/-- The lands of an Ethernet lane: RX_P, RX_N, TX_P and TX_N (R446). -/
def laneLands (l : Nat) : List Land :=
  let j := l % 32
  let c := 9 + 3 * (j % 16)
  let r := 1 + 4 * (j / 16)
  [landNumber r c, landNumber r (c + 1), landNumber (r + 1) c, landNumber (r + 1) (c + 1)].map (Land.mk (laneQuadrant l))

/-- The lands of a PCI Express lane: PETP, PETN, PERP and PERN. -/
def pcieLands (k : Nat) : List Land := [518 + 8 * k, 519 + 8 * k, 522 + 8 * k, 523 + 8 * k].map (Land.mk .sw)

/-- The kinds of a signal: input, push-pull output, open-drain output and bidirectional. -/
inductive PinKind where
  | input | output | openDrain | both
  deriving DecidableEq, Repr

/-- A sideband or clock signal: its lands, its kind, and whether it works from VDD_AON on alone; the others need
VIO_1V8. -/
structure Pin where
  name  : String
  lands : List Land
  kind  : PinKind
  aon   : Bool
  deriving DecidableEq, Repr

/-- The sideband and clock signals (R447). -/
def pins : List Pin :=
  let sw := fun (l : List Nat) => l.map (Land.mk .sw)
  [⟨"PERST_N", sw [400], .input, true⟩, ⟨"PPS_IN", sw [402], .input, false⟩, ⟨"PPS_OUT", sw [404], .output, false⟩,
   ⟨"I3C_SCL", sw [406], .both, false⟩, ⟨"I3C_SDA", sw [408], .both, false⟩,
   ⟨"FAST_THROTTLE_N", sw [410], .input, false⟩, ⟨"THERMTRIP_N", sw [412], .openDrain, true⟩,
   ⟨"ALERT_N", sw [414], .openDrain, true⟩, ⟨"PMBUS_ALERT_N", sw [416], .input, false⟩,
   ⟨"BOOT_MODE0", sw [418], .input, true⟩, ⟨"BOOT_MODE1", sw [420], .input, true⟩, ⟨"PCIE_CLKMODE", sw [464], .input, true⟩,
   ⟨"TCK", sw [422], .input, false⟩, ⟨"TMS", sw [424], .input, false⟩, ⟨"TDI", sw [426], .input, false⟩,
   ⟨"TDO", sw [428], .output, false⟩, ⟨"TRST_N", sw [430], .input, false⟩]
  ++ (List.range 4).flatMap (fun n =>
    [⟨"AVS_CLK", sw [432 + 6 * n], .output, false⟩, ⟨"AVS_MDATA", sw [434 + 6 * n], .output, false⟩,
     ⟨"AVS_SDATA", sw [436 + 6 * n], .input, false⟩])
  ++ [⟨"REF25", sw [554, 555], .input, true⟩, ⟨"REFCLK_PCIE", sw [550, 551], .input, false⟩,
   ⟨"SDREF0", [⟨.nw, 554⟩, ⟨.nw, 555⟩], .input, false⟩, ⟨"SDREF1", sw [558, 559], .input, false⟩]

/-- The lands that sense a rail remotely: those of VDD_CDn and VDD_BDn in quadrant n, of VDD_ND0 and VDD_ND1 in NW and
SW. -/
def senseLands (rail : Nat) : List Land :=
  let at' := fun (q n : Nat) => [n, n + 1].map (Land.mk (nth [Quadrant.nw, .ne, .sw, .se] q .nw))
  if rail < 4 then at' rail 456 else if rail < 8 then at' (rail - 4) 458
  else if rail = 8 then at' 0 460 else if rail = 9 then at' 2 460 else []

/-- The lands of each group in NW, NE, SW and SE (R445). -/
def landGroups : List (String × List Nat) :=
  [("VDD_CD", [720, 720, 720, 720]), ("VDD_BD", [160, 160, 160, 160]), ("VDD_ND0", [55, 55, 0, 0]),
   ("VDD_ND1", [0, 0, 55, 55]), ("VDDA_SD", [15, 15, 15, 15]), ("VDDH_SD", [6, 6, 6, 6]),
   ("VDD_CTL", [0, 0, 16, 0]), ("VDD_AON", [0, 0, 4, 0]), ("VIO_1V8", [0, 0, 8, 0]), ("VDD_FLASH", [0, 0, 4, 0])]
  ++ [("VPP_HBM", [4, 4, 4, 4]), ("VDD_HBM", [40, 40, 40, 40]), ("VDDQ_HBM", [50, 50, 50, 50]),
   ("Ethernet lanes", [128, 128, 128, 128]), ("PCI Express lanes", [0, 0, 16, 0]), ("Reference clocks", [2, 0, 6, 0]),
   ("Sideband", [0, 0, 29, 0]), ("Voltage sense", [6, 4, 6, 4]), ("Reserved, no connect", [16, 16, 16, 16]),
   ("VSS", [1998, 2002, 1917, 2002])]

/-! ## Rails (R450) -/

/-- The operating range of a rail in µV; that of a VDD_CD rail lies about its set point in mV. The ranges of the HBM
rails are JEDEC's. -/
def railRange (rail setMv : Nat) : Option (Nat × Nat) :=
  let about := fun (mv permille : Nat) => some (mv * (1000 - permille), mv * (1000 + permille))
  if rail < 4 then some (1000 * (setMv - 15), 1000 * (setMv + 15))
  else if rail < 10 then about 750 30
  else match rail with
    | 10 => about 900 20
    | 11 => about 1200 30
    | 12 | 13 => about 750 30
    | 14 | 15 => about 1800 50
    | _ => none

/-! ## The function (R459, R463) -/

/-- What the function presents in configuration space beside its header. -/
inductive Capability where
  | express (width minRate maxRate maxPayload tagBits : Nat) (flit : Bool)
  | power (d0 d3hot : Bool)
  | msix (vectors tableBir table pbaBir pba : Nat)
  | aer
  | deviceSerial (serial : Nat)
  | doe (discovery cma secured : Bool)
  | dataLinkFeature
  | physicalLayer (rate : Nat)
  | laneMargining
  deriving DecidableEq, Repr

/-- The capabilities of the function, and no others; rates are in tenths of GT/s. -/
def capabilities : List Capability :=
  [.express 4 25 640 512 10 true, .power true true, .msix 64 0 0x8000 0 0x9000, .aer, .deviceSerial Config.serial,
   .doe true true true, .dataLinkFeature, .physicalLayer 160, .physicalLayer 320, .physicalLayer 640, .laneMargining]

/-- The sizes of the BARs that are implemented, BAR0 and BAR2. -/
def barBytes (bar : Nat) : Nat := if bar = 0 then 32 * 2 ^ 20 else if bar = 2 then 64 * 2 ^ 30 else 0

/-- Slot Clock Configuration of the Link Status register: set with a common reference clock, clear with SRIS (R459). -/
def slotClock (s : State) : Bool := !s.fw.clkMode

end Sys2Proof.Machine
end

