-- ==== Sys2Proof/Tests/Slice0.lean ====
section
/-! SUPPORT. Tests: the well-formedness check refuses what it should, words decode as the spec's encodings say, small results of single
steps, and for every statement states and operands that meet its hypotheses. -/

namespace Sys2Proof.Tests

open Sys2Proof Sys2Proof.Machine

set_option Elab.async false

/-! ## Small states -/

/-- The device READY, with an outbox and no context. -/
def ready0 : State := { State.reset with fw := { stage := 10, outbox := { addr := 0x1_0000 } } }

/-- A page of 2 MiB. -/
def pg (dpa : Nat) (r w x : Bool) : Page := { dpa := dpa, r := r, w := w, x := x, valid := true }

/-- A context that runs a launch of cores 0 and 1 on the whole device, with a page of code at 2 MiB and one of data at 4 MiB. -/
def ctxA : Ctx := {
  st := .running, part := 0, mailbox := 1, jobId := 7, launched := true
  launch := [⟨0, 0x20_0000, 0, false⟩, ⟨1, 0x20_0000, 0, false⟩]
  pages := [(1, pg 0x20_0000 true false true), (2, pg 0x40_0000 true true false)] }

/-- Context 0 runs with `x` on its core 0. -/
def run (x : Core) : State :=
  { ready0 with
    ctxs := [(0, ctxA)], cores := [(0, x)]
    place := { ready0.place with parts := [(0, { running := some 0 })] } }

/-- A core of a level-3 program at the start of its code, S1 8 and S2 the data page. -/
def coreA : Core := { pc := 0x20_0000, active := true, level := 3, sregs := [(1, 8), (2, 0x40_0000)] }

theorem atIssue_run : AtIssue (run coreA) 0 8 0 coreA := ⟨rfl, rfl, rfl, rfl⟩
theorem atIssue_run16 : AtIssue (run coreA) 0 16 0 coreA := ⟨rfl, rfl, rfl, rfl⟩

/-- The same with bytes in memory. -/
def runM (x : Core) (m : List Host.Cell) : State := { run x with mem := { cells := m } }

/-- Waits on nothing, signals nothing, and its operands are S1 (a register), then as given. -/
def tw (sub : BitVec 12) (opd opa opb opx : BitVec 8) (imm : BitVec 32) : TWord :=
  ⟨0, false, false, 0, 0, 0, 0, sub, 0, opd, opa, opb, opx, imm⟩

/-- A tensor of one or two dimensions in the own scratchpad. -/
def ten (code off n m rowBytes : Nat) : Desc :=
  { rank := if m = 0 then 1 else 2, code := code, base := 0xF_0000_0000_0000 + off, sizes := [n, max m 1, 1, 1, 1], strides := [rowBytes, 0, 0, 0] }

/-- A started instruction that has not run. -/
def fly (op : TOp) (sub : BitVec 12) (d a b x : Option Desc) : Flight :=
  { id := 0, q := { op := op, w := tw sub 0 0 0 0 0 }, d := d, a := a, b := b, x := x }

/-- A core with one instruction in flight. -/
def coreF (f : Flight) : Core := { coreA with flights := [(engCode (engOf f.q.op), [f])], nextId := 1 }

/-- The name of truss 3 with generation 1. -/
def nm3 : Word := 0x10_0003

/-! ## Sequencer -/

/-- A control word under the true predicate. -/
def cw (dst a b f : Nat) (imm : BitVec 32) : CWord :=
  ⟨0, false, BitVec.ofNat 5 dst, BitVec.ofNat 5 a, BitVec.ofNat 5 b, BitVec.ofNat 4 f, imm⟩

/-- The hypotheses of ScalarResults, for each of its five instructions; register 0 as destination among them. -/
theorem witness_ScalarResults :
    AtIssue (run coreA) 0 8 0 coreA ∧ predTrue coreA 0 false = true ∧
    scalarResult (run coreA) 0 0 coreA (cw 3 1 1 0 0) (.alu 0 (cw 3 1 1 0 0)) 16 ∧
    scalarResult (run coreA) 0 0 coreA (cw 0 1 0 0 0xFFFF_FFFF) (.alui 0 (cw 0 1 0 0 0xFFFF_FFFF)) 7 ∧
    scalarResult (run coreA) 0 0 coreA (cw 1 0 0 0 2) (.movhi 0 (cw 1 0 0 0 2)) 0x2_0000_0008 ∧
    scalarResult (run coreA) 0 0 coreA (cw 4 0 0 8 0) (.sysrd 0 (cw 4 0 0 8 0)) 3 ∧
    scalarResult (run coreA) 0 0 coreA (cw 5 0 0 0 4) (.jal 0 (cw 5 0 0 0 4)) 0x20_0008 :=
  ⟨atIssue_run, rfl, .inl ⟨rfl, by decide⟩, .inr (.inl ⟨rfl, by decide⟩), .inr (.inr (.inl ⟨rfl, by decide⟩)),
    .inr (.inr (.inr (.inl ⟨rfl, by decide⟩))), .inr (.inr (.inr (.inr ⟨rfl, by decide⟩)))⟩

/-- The hypotheses of PredicateResults, for each of its instructions. -/
theorem witness_PredicateResults :
    AtIssue (run coreA) 0 8 0 coreA ∧ predTrue coreA 0 false = true ∧
    (cw 15 1 2 2 0).dst.getLsbD 4 = false ∧ predicateResult 0 coreA (cw 15 1 2 2 0) (.cmp 0 (cw 15 1 2 2 0)) true ∧
    predicateResult 0 coreA (cw 0 1 0 1 8) (.cmpi 0 (cw 0 1 0 1 8)) false ∧
    predicateResult 0 coreA (cw 1 0 2 0 0) (.pred 0 (cw 1 0 2 0 0)) false :=
  ⟨atIssue_run, rfl, by decide, .inl ⟨rfl, by decide⟩, .inr (.inl ⟨rfl, by decide⟩), .inr (.inr ⟨rfl, by decide⟩)⟩

/-- A core that holds 1 on token code 39, and works on an MVM. -/
def coreB : Core := { coreA with tokens := [(39, 1)], sregs := [(1, 0x20_0010)] }

/-- The hypotheses of ControlFlow, the last token code among them. -/
theorem witness_ControlFlow :
    AtIssue (run coreB) 0 8 0 coreB ∧ predTrue coreB 0 false = true ∧ (sreg coreB (cw 0 1 0 0 0).srca.toNat).toNat % 8 = 0 ∧
    coreB.level = 3 ∧ (cw 0 0 0 0 39).imm.toNat % 64 < 40 ∧ 1 ≤ token coreB ((cw 0 0 0 0 39).imm.toNat % 64) :=
  ⟨⟨rfl, rfl, rfl, rfl⟩, rfl, by decide, rfl, by decide, by decide⟩

/-- A core with an MVM waiting in its queue. -/
def coreBusy : Core := { coreA with queues := [(1, [{ op := .mvm, w := ⟨0, false, false, 0, 0x7F, 0x7F, 0x7F, 0, 0, 0, 0, 0, 0, 0⟩ }])] }

/-- The hypotheses of SequencerWaits, for WTOK and for the four that wait for their engines. -/
theorem witness_SequencerWaits :
    AtIssue (run coreBusy) 0 8 0 coreBusy ∧ predTrue coreBusy 0 false = true ∧ token coreBusy ((cw 0 0 0 0 0).imm.toNat % 64) = 0 ∧
    enginesEmpty coreBusy = false ∧ coreBusy.pass = 0 ∧ coreBusy.level = 3 ∧ (cw 0 0 0 0 3).imm.toNat < 4 ∧
    AtIssue (run { coreBusy with pass := 2 }) 0 8 0 { coreBusy with pass := 2 } :=
  ⟨⟨rfl, rfl, rfl, rfl⟩, rfl, by decide, rfl, rfl, rfl, by decide, ⟨rfl, rfl, rfl, rfl⟩⟩

/-- The hypotheses of ScalarMemory, for LD and ST of 8 bytes at the last place of a page. -/
theorem witness_ScalarMemory :
    let w := cw 4 2 1 0 0x1F_FFF8
    AtIssue (run coreA) 0 8 0 coreA ∧ predTrue coreA 0 false = true ∧ widthOf w.func.toNat = some 8 ∧
    (sreg coreA w.srca.toNat + w.imm.signExtend 64).toNat % 8 = 0 ∧
    translate (run coreA) 0 0 (sreg coreA w.srca.toNat + w.imm.signExtend 64).toNat .read = .ok (.mem 0x5F_FFF8) ∧
    poisonedDpa (run coreA).mem 0x5F_FFF8 8 = false ∧
    dataBp coreA (sreg coreA w.srca.toNat + w.imm.signExtend 64).toNat 8 false = false ∧ MemCanonical (run coreA) ∧
    translate (run coreA) 0 0 (sreg coreA w.srca.toNat + w.imm.signExtend 64).toNat .write = .ok (.mem 0x5F_FFF8) ∧
    dataBp coreA (sreg coreA w.srca.toNat + w.imm.signExtend 64).toNat 8 true = false ∧ Quiet (run coreA) 0 coreA :=
  ⟨atIssue_run, rfl, rfl, by decide, rfl, by decide, by decide, ⟨rfl, rfl⟩, rfl, by decide, rfl, rfl, rfl⟩

/-- The hypotheses of ControlStops: the first reserved value of each field, a jump to an address that is no multiple of 8, an
access at an address that is no multiple of its width, and a reserved and a privileged opcode. -/
theorem witness_ControlStops :
    AtIssue (run coreA) 0 8 0 { coreA with sregs := [(1, 8), (2, 0x40_0000)] } ∧ predTrue coreA 0 false = true ∧
    14 ≤ (cw 0 0 0 14 0).func.toNat ∧ 6 ≤ (cw 0 0 0 6 0).func.toNat ∧ (cw 16 0 0 0 0).dst.getLsbD 4 = true ∧ 7 ≤ (cw 0 0 0 7 0).func.toNat ∧
    10 ≤ (cw 0 0 0 10 0).func.toNat ∧ ((cw 0 0 0 9 40).func.toNat = 9 ∧ 40 ≤ (cw 0 0 0 9 40).imm.toNat % 64) ∧
    4 ≤ (cw 0 0 0 4 0).func.toNat ∧ 40 ≤ (cw 0 0 0 0 40).imm.toNat % 64 ∧
    AtIssue (run { coreA with sregs := [(1, 9)] }) 0 8 0 { coreA with sregs := [(1, 9)] } ∧
    (sreg { coreA with sregs := [(1, 9)] } (cw 0 1 0 0 0).srca.toNat).toNat % 8 ≠ 0 ∧
    widthOf (cw 4 2 1 0 1).func.toNat = some 8 ∧ (sreg coreA (cw 4 2 1 0 1).srca.toNat + (cw 4 2 1 0 1).imm.signExtend 64).toNat % 8 ≠ 0 ∧
    isReserved 0x03 = true ∧ isPrivileged 0xF3 = true ∧ MemCanonical (run coreA) :=
  ⟨atIssue_run, rfl, by decide, by decide, by decide, by decide, by decide, by decide, by decide, by decide, ⟨rfl, rfl, rfl, rfl⟩,
    by decide, by decide, by decide, by decide, by decide, rfl, rfl⟩

/-- A core whose S1 holds the address of a span record of one entry on the data page, and that record: both descriptors name one
element of FP32. -/
def coreS : Core := { coreA with sregs := [(1, 0x40_0000)] }
def spanCells : List Host.Cell :=
  [(0x40_0000, 1), (0x40_0086, 0x70), (0x40_0087, 0x08), (0x40_00C6, 0x70), (0x40_00C7, 0x08)]
def stateS : State := runM coreS spanCells

/-- The hypotheses of MarkersAndEnds: a marker at the last depth, an END while core 1 has not ended, a STEP, a SPAN.BEGIN of a
record of one entry and a SPAN.END with the latch clear. -/
theorem witness_MarkersAndEnds :
    (AtIssue (run { coreA with depth := 15 }) 0 8 0 { coreA with depth := 15 } ∧ predTrue { coreA with depth := 15 } 0 false = true) ∧
    enginesEmpty coreA = true ∧ (ctxOf (run coreA) 0).pauseReq = false ∧ coreA.pass = 0 ∧
    (∃ n ∈ launchCores (ctxOf (run coreA) 0), n ≠ 0 ∧ n < 320 ∧ (coreOf (run coreA) 0 n).ended = false) ∧
    ((cw 0 0 0 0 2).imm.toNat = 0 ∨ (cw 0 0 0 0 2).imm.toNat = 2) ∧
    (AtIssue stateS 0 8 0 coreS ∧ ∃ r s1, readSpan stateS 0 0 (sreg coreS (cw 0 1 0 0 9).srca.toNat).toNat = .ok r ∧
      writeVas stateS 0 0 (slotWrs (sreg coreS (cw 0 1 0 0 9).srca.toNat).toNat 0 (fun e => e.primary) r.entries) = .ok s1 ∧
      coreOf s1 0 0 = coreS) ∧
    (AtIssue (run { coreA with pass := 1 }) 0 8 0 { coreA with pass := 1 } ∧ ({ coreA with pass := 1 } : Core).latch = false ∧
      ({ coreA with pass := 1 } : Core).obs = []) :=
  ⟨⟨⟨rfl, rfl, rfl, rfl⟩, rfl⟩, rfl, rfl, rfl, ⟨1, by decide, by decide, by decide, rfl⟩, by decide,
    ⟨⟨rfl, rfl, rfl, rfl⟩, _, _, rfl, rfl, by rfl⟩,
    ⟨⟨rfl, rfl, rfl, rfl⟩, rfl, rfl⟩⟩

/-! ## Engines -/

/-- A device whose context 0 has group 5 bound with generation 1, and runs `x`. -/
def runG (x : Core) : State :=
  { run x with ctxs := [(0, { ctxA with groups := [(5, { bound := true, ever := true, ggen := 1, members := [1, 2] })] })] }

/-- A core whose S3 names group 5, and the word of a collective with that group. -/
def coreG : Core := { coreA with sregs := [(1, 8), (2, 0x40_0000), (3, 0x1_0005)] }
def wordG : TWord := tw 0 0x82 0x82 0x43 0 0

/-- The hypotheses of TensorIssues: a collective with room in the queue, one with 32 waiting, one of a group not bound, a
level-3 instruction of a level-2 program, a reserved field, and an instruction a span does not allow. -/
theorem witness_TensorIssues :
    (tensorCmd (.coll 5) 0 (.issue wordG) = some (.collReduce 0 (.issue wordG)) ∧ AtIssue (runG coreG) 0 16 0 coreG ∧
      predTrue coreG wordG.pred wordG.pneg = true ∧ (∃ q, mkEntry coreG (.coll 5) wordG = some q ∧ groupOk (runG coreG) 0 q.ob.val = true) ∧
      (coreG.pass = 0 ∨ replayOk (.coll 5) = true) ∧ coreG.level = 3 ∧ (queueOf coreG (engOf (.coll 5))).length < 32) ∧
    (let x := { coreG with queues := [(3, List.replicate 32 { op := .fence, w := wordG })] }
     AtIssue (runG x) 0 16 0 x ∧ 32 ≤ (queueOf x (engOf (.coll 5))).length) ∧
    (AtIssue (run coreG) 0 16 0 coreG ∧ (∃ q, mkEntry coreG (.coll 5) wordG = some q ∧ groupOk (run coreG) 0 q.ob.val = false)) ∧
    (AtIssue (run { coreA with level := 2 }) 0 16 0 { coreA with level := 2 } ∧ atLevel2 .mda = false) ∧
    mkEntry coreA .cancel (tw 1 0 0 0 0 0) = none ∧
    (AtIssue (run { coreA with pass := 1 }) 0 16 0 { coreA with pass := 1 } ∧ replayOk .cancel = false ∧
      (mkEntry { coreA with pass := 1 } .cancel (tw 0 0 0 0 0 0)).isSome = true) :=
  ⟨⟨rfl, ⟨rfl, rfl, rfl, rfl⟩, rfl, ⟨_, rfl, rfl⟩, .inl rfl, rfl, by decide⟩, ⟨⟨rfl, rfl, rfl, rfl⟩, by decide⟩,
    ⟨⟨rfl, rfl, rfl, rfl⟩, _, rfl, rfl⟩, ⟨⟨rfl, rfl, rfl, rfl⟩, rfl⟩, rfl, ⟨⟨rfl, rfl, rfl, rfl⟩, rfl, rfl⟩⟩

/-- A FENCE that waits on token 24 and signals token 24, and a core with it at the head of its queue. -/
def fenceQ : QInstr := { op := .fence, w := { tw 0 0 0 0 0 9 with waita := 0x58, sigv := true } }
def coreQ (n : Nat) : Core := { coreA with queues := [(3, [fenceQ])], tokens := [(24, n)] }

/-- The core once that FENCE has started. -/
def coreStarted : Core :=
  setFlights { consume (setQueue (coreQ 1) .stream []) fenceQ.w with
    nextId := 1
    headSince := drop (coreQ 1).headSince (engCode .stream) } .stream [{ id := 0, q := fenceQ }]

/-- The hypotheses of EngineStartsAndEnds for a start: its wait met, and not met. -/
theorem witness_EngineStartsAndEnds_start :
    coreAtWork (run (coreQ 1)) 0 = some (0, coreQ 1) ∧ queueOf (coreQ 1) .stream = fenceQ :: [] ∧
    (partSt (run (coreQ 1)).place (partOf (run (coreQ 1)).place 0)).preempting = false ∧
    inFlight (coreQ 1) .stream < inFlightMax .stream ∧ NoBreakpoint (coreQ 1) ∧ waitsMet (coreQ 1) fenceQ.w = true ∧
    coreStarted = setFlights { consume (setQueue (coreQ 1) .stream []) fenceQ.w with
      nextId := (coreQ 1).nextId + 1
      headSince := drop (coreQ 1).headSince (engCode .stream) } .stream
        (flightsOf (coreQ 1) .stream ++ [{ id := (coreQ 1).nextId, q := fenceQ, started := (run (coreQ 1)).clock.ns }]) ∧
    capture (setCore (run (coreQ 1)) 0 0 coreStarted) 0 0 coreStarted { id := 0, q := fenceQ } = .ok { id := 0, q := fenceQ } ∧
    (∀ g ∈ flightsOf (coreQ 1) .stream, g.id < (coreQ 1).nextId) ∧ waitsMet (coreQ 0) fenceQ.w = false ∧ fenceQ.op ≠ .fetch ∧
    Quiet (run (coreQ 1)) 0 (coreQ 1) :=
  ⟨rfl, rfl, rfl, by decide, nofun, rfl, rfl, rfl, by simp [flightsOf, coreQ, coreA, look], rfl, nofun, rfl, rfl, rfl⟩

/-- A core whose FENCE is ready to complete, its token at `n`. -/
def fenceF : Flight := { id := 0, q := fenceQ, ran := true, ready := true }
def coreR (n : Nat) : Core := { coreF fenceF with tokens := [(24, n)] }

/-- The hypotheses of EngineStartsAndEnds for a completion: the last count a token can still gain from, and the count it cannot. -/
theorem witness_EngineStartsAndEnds_end :
    coreInFlight (run (coreR 254)) 0 .stream = some (0, coreR 254) ∧ onChain (run (coreR 254)) 0 0 0 = false ∧ flightAt (coreR 254) .stream 0 = some fenceF ∧ fenceF.ready = true ∧
    fenceF.q.w.sigv = true ∧ token (coreR 254) (8 * engCode .stream + fenceF.q.w.sigt.toNat) < 255 ∧
    coreInFlight (run (coreR 255)) 0 .stream = some (0, coreR 255) ∧ 255 ≤ token (coreR 255) (8 * engCode .stream + fenceF.q.w.sigt.toNat) :=
  ⟨rfl, rfl, rfl, rfl, rfl, by decide, rfl, by decide⟩

/-- One instruction of each operation of the array, the matrix-vector unit and the vector engine, with tensors of few elements in
the scratchpad. -/
def works : List Flight :=
  let r (f : Flight) (v : Word) : Flight := { f with q := { f.q with ox := .reg v } }
  [fly .mmaLd 0x500 none (some (ten fBF16 0 8 2 16)) none none,
   fly .mma 0x500 (some (ten fFP32 0x1000 4 2 16)) (some (ten fBF16 0x100 8 4 16)) none none,
   fly .mda 0x500 none (some (ten fBF16 0x100 8 4 16)) none none,
   fly .mvm 0x300 (some (ten fFP32 0x1000 4 1 16)) (some (ten fE4M3 0x100 16 4 16)) (some (ten fE4M3 0x200 16 1 16)) none,
   fly .vop 0x000 (some (ten fFP32 0x1000 4 0 0)) (some (ten fFP32 0x100 4 0 0)) (some (ten fFP32 0x200 4 0 0)) none,
   fly .topk 0x100 (some { ten fFP32 0x1000 2 2 16 with rank := 3, strides := [16, 32, 0, 0] }) (some (ten fFP32 0x100 4 0 0)) none none,
   fly .norm 0x000 (some (ten fFP32 0x1000 4 0 0)) (some (ten fFP32 0x300 4 0 0)) (some (ten fFP32 0x200 4 0 0)) none,
   fly .softmax 0x800 (some (ten fFP32 0x1000 4 0 0)) (some (ten fFP32 0x100 4 0 0)) (some (ten fUINT8 0x400 4 0 0)) none,
   fly .cvt 0x000 (some (ten fE4M3 0x1000 16 0 0)) (some (ten fFP32 0x100 16 0 0)) none none,
   r (fly .stat 0x000 none (some (ten fFP32 0x100 4 0 0)) none none) 0xF_0000_0000_2000,
   fly .upd 0x000 (some (ten fFP32 0x1000 4 0 0)) (some (ten fFP32 0x100 4 0 0)) none none]

/-- The array holds the tile that MMA and MDA multiply. -/
def coreW (f : Flight) : Core :=
  { coreF f with tile := { live := true, cfmt := 5, desc := ten fBF16 0 8 2 16, codes := List.replicate 16 (some 0) } }

/-- The scratchpad holds a NaN for NORM and a mask of every element for SOFTMAX: results that the spec fixes. -/
def stateW (f : Flight) : State :=
  runM (coreW f) [(0xC0_0000_0302, 0xC0), (0xC0_0000_0303, 0x7F), (0xC0_0000_0400, 1), (0xC0_0000_0401, 1), (0xC0_0000_0402, 1), (0xC0_0000_0403, 1)]

/-- Whether the work of an instruction is done whole in that state. -/
def worksWhole (f : Flight) : Bool :=
  match computeWork (stateW f) 0 0 (coreW f) f f.q.op with
  | some (.ok e) => (match writeVas (stateW f) 0 0 e.ws with | .ok _ => true | .error _ => false) &&
      !operandsMeet (stateW f) 0 0 f && !workWaits (stateW f) 0 0 f e
  | _ => false

theorem works_whole : works.map worksWhole = List.replicate 11 true := by decide +kernel

/-- The context has no HBM budget left. -/
def spent (x : Core) : State := { run x with ctxs := [(0, { ctxA with levelHbm := 0 })] }

/-- A GATHER of one row of a table in HBM. -/
def gatherHbm : Flight :=
  fly .vop 0x400 (some (ten fFP32 0x1000 4 1 16)) (some { ten fFP32 0 4 1 16 with base := 0x40_0000 }) (some (ten fINT32 0x200 1 0 0)) none

/-- The hypotheses of ComputeWork: each of the eleven operations with its work whole, the instruction to be run, the frames of
weights ready; one that waits for the HBM level and one that waits for its frames; operands that overlap, of which one lies on a
page that is not mapped, and of which one is missing. -/
theorem witness_ComputeWork :
    (∀ f ∈ works, worksWhole f = true ∧ tensorCmd f.q.op 0 (.run 0) ≠ none ∧ ToDo (stateW f) 0 0 (coreW f) (engOf f.q.op) f.q.op 0 f ∧
      chunkGo (coreW f) f = true ∧ NoBreakpoint (coreW f) ∧ Quiet (stateW f) 0 (coreW f)) ∧
    (let f := gatherHbm
     ToDo (spent (coreF f)) 0 0 (coreF f) .vector .vop 0 f ∧ operandsMeet (spent (coreF f)) 0 0 f = false ∧
      Quiet (spent (coreF f)) 0 (coreF f) ∧
      (match computeWork (spent (coreF f)) 0 0 (coreF f) f .vop with
        | some (.ok e) => workWaits (spent (coreF f)) 0 0 f e | _ => false) = true) ∧
    (let f := fly .cvt 0 (some (ten fFP32 0x104 4 0 0)) (some (ten fFP32 0x100 4 0 0)) none none
     ToDo (run (coreF f)) 0 0 (coreF f) .vector .cvt 0 f ∧ operandsMeet (run (coreF f)) 0 0 f = true ∧
      (match computeWork (run (coreF f)) 0 0 (coreF f) f .cvt with | some (.ok _) => true | _ => false) = true) ∧
    (let f := fly .mma 0x501 (some (ten fFP32 0x1000 4 2 16)) (some (ten fBF16 0x100 8 4 16)) none none
     ToDo (run { coreF f with readyMap := 0 }) 0 0 { coreF f with readyMap := 0 } .array .mma 0 f ∧
      chunkGo { coreF f with readyMap := 0 } f = false) ∧
    (let f := fly .mvm 0x310 (some (ten fFP32 0x1000 4 1 16)) (some { ten fE4M3 0x100 16 4 16 with base := 0x8000_0000 })
      (some (ten fE4M3 0x200 16 1 16)) none
     ToDo (run (coreF f)) 0 0 (coreF f) .mv .mvm 0 f ∧
      computeWork (run (coreF f)) 0 0 (coreF f) f .mvm = some (.error (.trans 0x8000_0000))) ∧
    (let f := fly .cvt 0 none none none none
     ToDo (run (coreF f)) 0 0 (coreF f) .vector .cvt 0 f ∧
      computeWork (run (coreF f)) 0 0 (coreF f) f .cvt = some (.error (.unpred .malformed))) := by
  refine ⟨?_, ⟨⟨rfl, rfl, rfl, rfl, rfl⟩, by decide +kernel, ⟨rfl, rfl, rfl⟩, by decide +kernel⟩,
    ⟨⟨rfl, rfl, rfl, rfl, rfl⟩, by decide +kernel, by decide +kernel⟩, ⟨⟨rfl, rfl, rfl, rfl, rfl⟩, by decide +kernel⟩,
    ⟨⟨rfl, rfl, rfl, rfl, rfl⟩, by decide +kernel⟩, ⟨⟨rfl, rfl, rfl, rfl, rfl⟩, by decide +kernel⟩⟩
  intro f hf
  simp only [works, List.mem_cons, List.not_mem_nil, or_false] at hf
  rcases hf with rfl | rfl | rfl | rfl | rfl | rfl | rfl | rfl | rfl | rfl | rfl <;>
    exact ⟨by decide +kernel, nofun, ⟨rfl, rfl, rfl, rfl, rfl⟩, rfl, nofun, rfl, rfl, rfl⟩

/-! ## The stream engine and the sync engine -/

/-- A transfer of 16 bytes within the scratchpad. -/
def xferF (op : TOp) : Flight := fly op 0 (some (ten fUINT8 0x1000 16 0 0)) (some (ten fUINT8 0x100 16 0 0)) none none

/-- A RIDGE of it to core 1, without an arrival. -/
def ridgeF : Flight := { xferF .ridge with q := { (xferF .ridge).q with ob := .reg 1 } }

/-- One bay in partition 0. -/
def oneBay : List Nat := 0 :: List.replicate 15 0xFF

/-- A fetch to be listed behind 256, on a device whose quota of HBM allows no page more. -/
def fetchL : Flight := { xferF .fetch with id := 300 }
def coreL : Core :=
  { coreA with flights := [(3, (List.range 256).map (fun i => { xferF .fetch with id := i, ran := true, listed := true }) ++ [fetchL])] }
def fullList : State := { run coreL with place := { (run coreL).place with layout := oneBay, quota := [] } }

/-- The hypotheses of TransfersPlanned, for XFER, FETCH, FETCH with its list full, and RIDGE. -/
theorem witness_TransfersPlanned :
    (ToDo (run (coreF (xferF .xfer))) 0 0 (coreF (xferF .xfer)) .stream .xfer 0 (xferF .xfer) ∧
      transferBlocks (run (coreF (xferF .xfer))) 0 0 (xferF .xfer) (ten fUINT8 0x100 16 0 0) (ten fUINT8 0x1000 16 0 0) = .ok [] ∧
      operandsMeet (run (coreF (xferF .xfer))) 0 0 (xferF .xfer) = false) ∧
    (ToDo (run (coreF (xferF .fetch))) 0 0 (coreF (xferF .fetch)) .stream .fetch 0 (xferF .fetch) ∧
      transferBlocks (run (coreF (xferF .fetch))) 0 0 (xferF .fetch) (ten fUINT8 0x100 16 0 0) (ten fUINT8 0x1000 16 0 0) = .ok [] ∧
      operandsMeet (run (coreF (xferF .fetch))) 0 0 (xferF .fetch) = false ∧ (xferF .fetch).listed = false ∧
      (listed (coreF (xferF .fetch))).length < 256 ∧ (xferF .fetch).q.w.sub.getLsbD 9 = false ∧
      growSpill (run (coreF (xferF .fetch))) 0 0 = some (run (coreF (xferF .fetch)))) ∧
    (ToDo fullList 0 0 coreL .stream .fetch 300 fetchL ∧ flightAt coreL .stream 300 = some fetchL ∧ (growSpill fullList 0 0).isNone = true) ∧
    (ToDo (run (coreF ridgeF)) 0 0 (coreF ridgeF) .stream .ridge 0 ridgeF ∧ ridgeF.q.ob.isReg = true ∧ ridgeF.q.ox.isDesc = false ∧
      ridgeF.q.ox.isReg = false ∧ ownBase (ten fUINT8 0x100 16 0 0) = true ∧ ownBase (ten fUINT8 0x1000 16 0 0) = true ∧
      phRsv (ridgeF.q.w.imm.setWidth 64) = false ∧ inPartition (run (coreF ridgeF)) 0 ridgeF.q.ob.val = true ∧
      transferBlocks (run (coreF ridgeF)) 0 0 ridgeF (ten fUINT8 0x100 16 0 0) (ridgeDest (ten fUINT8 0x1000 16 0 0) ridgeF.q.ob.val) = .ok [] ∧
      operandsMeet (run (coreF ridgeF)) 0 0 { ridgeF with d := some (ridgeDest (ten fUINT8 0x1000 16 0 0) ridgeF.q.ob.val) } = false) :=
  ⟨⟨⟨rfl, rfl, rfl, rfl, rfl⟩, rfl, by decide +kernel⟩,
    ⟨⟨rfl, rfl, rfl, rfl, rfl⟩, rfl, by decide +kernel, rfl, by decide, by decide, by decide +kernel⟩,
    ⟨⟨rfl, by decide +kernel, rfl, rfl, rfl⟩, by decide +kernel, by decide +kernel⟩,
    ⟨⟨rfl, rfl, rfl, rfl, rfl⟩, rfl, rfl, rfl, by decide, by decide, by decide, by decide, rfl, by decide +kernel⟩⟩

/-- A listed fetch of 16 bytes, and one with COND whose predicate word lies at the data page. -/
def listedF : Flight := { xferF .fetch with listed := true, ran := true, total := 16 }
def condF : Flight := { listedF with q := { listedF.q with w := { listedF.q.w with sub := 0x200 }, ob := .reg 0x40_0000 } }

/-- A SPAR of two registers to the scratchpad of core 1. -/
def sparF : Flight :=
  { fly .spar 0x080 none none none none with q := { (fly .spar 0x080 none none none none).q with od := .reg 0x8000_0000, oa := .reg 8, regs := [8, 0x40_0000] } }

/-- A CANCEL with a listed fetch before it, and a FENCE before and after that fetch has gone. -/
def cancelF : Flight := { fly .cancel 0 none none none none with id := 1 }
def fenceG : Flight := { fly .fence 0 none none none none with id := 1 }
def coreC (l : List Flight) : Core := { coreA with flights := [(3, l)], nextId := 2 }

/-- The read port of the scratchpad of core 0 has no credit left of a class. -/
def noCredit (x : Core) (cls : Nat) : State :=
  { run x with chain := { credits := [(creditKey (.readPort 0x1000) cls, Config.credits 0 cls + 1)] } }

/-- A path out of the scratchpad of core 0 then has none. -/
theorem noCredit_out (x : Core) (cls dst tag : Nat) (l : List Buf) (h : l = pathBufs (noCredit x cls).chain 0x1000 dst tag) :
    hasCredits (noCredit x cls).chain l cls = false := by
  have h2 : look (noCredit x cls).chain.credits 0 (creditKey (.readPort 0x1000) cls) = Config.credits 0 cls + 1 := by
    simp [noCredit, look]
  rw [h, pathBufs]
  simp [hasCredits, h2, Buf.kind]

/-- The hypotheses of FetchAndStream: a chunk of each kind of fetch, with its predicate word not zero and zero; SPAR; CANCEL; FENCE. -/
theorem witness_FetchAndStream :
    (let x := coreF listedF
     coreAtWork (run x) 0 = some (0, x) ∧ ((listed x).take 16).find? (fun g => g.id == 0) = some listedF ∧ flightAt x .stream 0 = some listedF ∧
      listedF.stop = 0 ∧ listedF.trapped = false ∧ listedF.issued < listedF.total ∧ listedF.d = some (ten fUINT8 0x1000 16 0 0) ∧ NoBreakpoint x ∧
      condOf x listedF = none ∧ Quiet (run x) 0 x) ∧
    (let x := coreF condF
     coreAtWork (run x) 0 = some (0, x) ∧ ((listed x).take 16).find? (fun g => g.id == 0) = some condF ∧ condOf x condF = some 0x40_0000 ∧
      controlRead (run x) 0 0 0x40_0000 8 = .ok [0, 0, 0, 0, 0, 0, 0, 0] ∧
      controlRead (runM x [(0x40_0007, 1)]) 0 0 0x40_0000 8 = .ok [0, 0, 0, 0, 0, 0, 0, 1] ∧ Quiet (runM x [(0x40_0007, 1)]) 0 x) ∧
    (let x := coreF sparF
     ToDo (run x) 0 0 x .stream .spar 0 sparF ∧ spRemote 0x8000_0000 = false ∧ (0x8000_0000 : Word).toNat % 4096 = 0 ∧
      spOff 0x8000_0000 + (sparBytes sparF.q.regs).length ≤ Config.scratchBytes ∧ inPartition (run x) 0 (spCore 0x8000_0000) = true ∧
      NoBreakpoint x ∧ Quiet (run x) 0 x ∧
      hasCredits (run x).chain (accessBufs (run x) 0 (touches (run x) 0 0 [(0xF_1000_0040_0000, 129, true)]) (run x).chain.nextTag) crSpar = true ∧
      (let s := noCredit x crSpar
       hasCredits s.chain (accessBufs s 0 (touches s 0 0 [(0xF_1000_0000_0000 + spCore 0x8000_0000 * Config.scratchBytes + spOff 0x8000_0000,
        (sparBytes sparF.q.regs).length, true)]) s.chain.nextTag) crSpar = false) ∧
      ∃ s1, writeVa (run x) 0 0 (0xF_1000_0000_0000 + spCore 0x8000_0000 * Config.scratchBytes + spOff 0x8000_0000) (sparBytes sparF.q.regs) false = .ok s1) ∧
    (let x := coreC [listedF, cancelF]
     ToDo (run x) 0 0 x .stream .cancel 1 cancelF) ∧
    (let x := coreC [listedF, fenceG]
     ToDo (run x) 0 0 x .stream .fence 1 fenceG ∧ ∃ h ∈ flightsOf x .stream, h.id < 1) ∧
    (let x := coreC [fenceG]
     ToDo (run x) 0 0 x .stream .fence 1 fenceG ∧ ∀ h ∈ flightsOf x .stream, 1 ≤ h.id) :=
  ⟨⟨rfl, rfl, rfl, rfl, rfl, by decide, rfl, nofun, rfl, rfl, rfl, rfl⟩, ⟨rfl, rfl, by decide, rfl, rfl, rfl, rfl, rfl⟩,
    ⟨⟨rfl, rfl, rfl, rfl, rfl⟩, by decide, by decide, by decide, by decide, nofun, ⟨rfl, rfl, rfl⟩, by decide +kernel,
      noCredit_out _ _ 0x1001 0 _ (by decide +kernel), _, rfl⟩, ⟨rfl, rfl, rfl, rfl, rfl⟩,
    ⟨⟨rfl, rfl, rfl, rfl, rfl⟩, listedF, .head _, by decide⟩, ⟨⟨rfl, rfl, rfl, rfl, rfl⟩, by simp [flightsOf, coreC, look, engCode, fenceG]⟩⟩

/-- A YEALM of one token of 16 bytes with one choice, of one expert with room for one; and one without its operands. -/
def yealmF : Flight :=
  fly .yealm 0 (some { ten fUINT8 0x1000 16 1 16 with rank := 3, strides := [16, 16, 0, 0] }) (some (ten fUINT8 0x100 16 1 16))
    (some { ten fFP32 0x200 2 1 16 with rank := 3, strides := [16, 16, 0, 0] }) (some (ten fINT32 0x2000 5 0 0))
def yealmBad : Flight := fly .yealm 0 none none none none


/-- The same with its tokens in HBM. -/
def yealmHbm : Flight := { yealmF with a := some { ten fUINT8 0x100 16 1 16 with base := 0x40_0100 } }

/-- Whether a YEALM's stores can be made, with operands apart, and whether its path has credits and it waits for the level. -/
def yealmOk (s : State) (f : Flight) : Option (Bool × Bool) :=
  match yealmEff s 0 0 f with
  | .ok y =>
    match writeVas s 0 0 y.ws with
    | .ok _ =>
      let acc := y.reads.map (fun r => (r.1, r.2, false)) ++ y.ws.map (fun q => (q.va, q.bs.length, true))
      if operandsMeet s 0 0 f then none
      else some (hasCredits s.chain (accessBufs s 0 (touches s 0 0 acc) s.chain.nextTag) crDemand, hbmWaits s 0 0 acc)
    | .error _ => none
  | .error _ => none

/-- The hypotheses of YealmRuns: one that runs, one that waits for the HBM level, and one without its operands. -/
theorem witness_YealmRuns :
    (ToDo (run (coreF yealmF)) 0 0 (coreF yealmF) .stream .yealm 0 yealmF ∧ NoBreakpoint (coreF yealmF) ∧
      Quiet (run (coreF yealmF)) 0 (coreF yealmF) ∧ yealmOk (run (coreF yealmF)) yealmF = some (true, false)) ∧
    (ToDo (spent (coreF yealmHbm)) 0 0 (coreF yealmHbm) .stream .yealm 0 yealmHbm ∧
      (yealmOk (spent (coreF yealmHbm)) yealmHbm).map (fun p => p.2) = some true) ∧
    (ToDo (run (coreF yealmBad)) 0 0 (coreF yealmBad) .stream .yealm 0 yealmBad ∧
      yealmEff (run (coreF yealmBad)) 0 0 yealmBad = .error (.unpred .malformed)) :=
  ⟨⟨⟨rfl, rfl, rfl, rfl, rfl⟩, nofun, ⟨rfl, rfl, rfl⟩, by decide +kernel⟩, ⟨⟨rfl, rfl, rfl, rfl, rfl⟩, by decide +kernel⟩,
    ⟨⟨rfl, rfl, rfl, rfl, rfl⟩, rfl⟩⟩

/-- An issued transfer of 16 bytes: within the scratchpad; from HBM; and from the scratchpad of core 0 to that of core 100, on the
die beside it. -/
def burstF (a d : Desc) (u v : Nat) : Flight :=
  { fly .xfer 0 (some d) (some a) none none with ran := true, total := 16, issued := 16, parts := [⟨u, v, 0, 16, 0⟩] }
def burst0 : Flight := burstF (ten fUINT8 0x100 16 0 0) (ten fUINT8 0x1000 16 0 0) 0x1000 0x1000
def hbmD : Desc := { ten fUINT8 0 16 0 0 with base := 0x40_0000 }
def burst1 : Flight := burstF hbmD (ten fUINT8 0x1000 16 0 0) 0 0x1000
def burst2 : Flight := burstF (ten fUINT8 0x100 16 0 0) { ten fUINT8 0 16 0 0 with base := 0xF_1000_0000_0000 + 100 * 0x40_0000 } 0x1000 (0x1000 + 105)

/-- Where the next burst of a transfer on core 0 goes. -/
def nextOf (s : State) (f : Flight) : (Nat × Nat) × List (Nat × Nat) × Nat := nextBurst s 0 0 f (f.a.getD {}) (f.d.getD {})

/-- The hypotheses of BurstsMove: a burst free to move, one without credits, and one without budget. -/
theorem witness_BurstsMove :
    (let s := run (coreF burst0)
     coreInFlight s 0 .stream = some (0, coreF burst0) ∧ flightAt (coreF burst0) .stream 0 = some burst0 ∧ burst0.q.op = .xfer ∧
      burstDue burst0 = true ∧ burst0.stop = 0 ∧ hbmWaits s 0 0 (burstAccess burst0 (ten fUINT8 0x100 16 0 0) (ten fUINT8 0x1000 16 0 0)
        (nextOf s burst0).2.1) = false ∧ hasCredits s.chain (burstBufs s.chain (nextOf s burst0).1) crDemand = true ∧
      Quiet s 0 (coreF burst0) ∧ NoBreakpoint (coreF burst0)) ∧
    (let s := noCredit (coreF burst2) crDemand
     coreInFlight s 0 .stream = some (0, coreF burst2) ∧ burstDue burst2 = true ∧
      hasCredits s.chain (burstBufs s.chain (nextOf s burst2).1) crDemand = false) ∧
    (let s := spent (coreF burst1)
     coreInFlight s 0 .stream = some (0, coreF burst1) ∧ burstDue burst1 = true ∧
      hbmWaits s 0 0 (burstAccess burst1 hbmD (ten fUINT8 0x1000 16 0 0) (nextOf s burst1).2.1) = true) := by
  refine ⟨⟨rfl, rfl, rfl, rfl, rfl, by decide +kernel, by decide +kernel, ⟨rfl, rfl, rfl⟩, nofun⟩, ⟨rfl, rfl, ?_⟩, ⟨rfl, rfl, by decide +kernel⟩⟩
  refine noCredit_out _ _ (0x1000 + 105) 0 _ ?_
  have h : (nextOf (noCredit (coreF burst2) crDemand) burst2).1 = (0x1000, 0x1000 + 105) := by decide +kernel
  rw [burstBufs, h]; rfl

/-- A device whose context 0 has truss 3 bound with generation 1 for two arrivals, of which `a` have come, and runs `x`. -/
def runT (x : Core) (a : Nat) : State :=
  { run x with ctxs := [(0, { ctxA with trusses := [(3, { bound := true, ever := true, bgen := 1, n := 2, arrived := a })] })] }

/-- An instruction of the sync engine on truss 3, generation 1, with a phase word; and one with REMOTE set. -/
def trussF (op : TOp) (nm ph : Word) : Flight := { fly op 0 none none none none with q := { (fly op 0 none none none none).q with oa := .reg nm, ob := .reg ph } }

/-- The hypotheses of Trusses: an arrival that does not complete the generation and one that does, without a phase and with the
current one; a wait for a generation completed and one for the current; TRUSS.ARWT; and both waits with REMOTE. -/
theorem witness_Trusses :
    (let f := trussF .trussArrive nm3 0x1_0000
     ToDo (runT (coreF f) 0) 0 0 (coreF f) .sync .trussArrive 0 f ∧ nmRsv nm3 = false ∧ phRsv 0x1_0000 = false ∧ nmRemote nm3 = false ∧
      nameOk (runT (coreF f) 0) 0 nm3 = true ∧
      (let b := trussOf (runT (coreF f) 0) 0 (nmVtid nm3)
       b.enrolled = false ∧ b.limit = 0 ∧ b.fwd = [] ∧ phNo 0x1_0000 = true ∧ b.arrived + 1 < b.n ∧ (ctxOf (runT (coreF f) 0) 0).forwards = []) ∧
      (let b := trussOf (runT (coreF f) 1) 0 (nmVtid nm3)
       gen16 (phVal 0) b.gen = 0 ∧ b.n ≤ b.arrived + 1 ∧ b.pending < b.n)) ∧
    (let f := trussF .trussWait nm3 0xFFFF
     ToDo (runT (coreF f) 0) 0 0 (coreF f) .sync .trussWait 0 f ∧ phNo 0xFFFF = false ∧ phRsv 0xFFFF = false ∧
      gen16 (phVal 0xFFFF) (trussOf (runT (coreF f) 0) 0 (nmVtid nm3)).gen = -1) ∧
    (let f := trussF .trussWait nm3 0
     ToDo (runT (coreF f) 0) 0 0 (coreF f) .sync .trussWait 0 f ∧ gen16 (phVal 0) (trussOf (runT (coreF f) 0) 0 (nmVtid nm3)).gen = 0) ∧
    (let f := trussF .trussArwt nm3 0
     ToDo (runT (coreF f) 0) 0 0 (coreF f) .sync .trussArwt 0 f ∧ nameOk (runT (coreF f) 0) 0 nm3 = true ∧
      (trussOf (runT (coreF f) 0) 0 (nmVtid nm3)).arrived + 1 < (trussOf (runT (coreF f) 0) 0 (nmVtid nm3)).n) ∧
    (let f := trussF .trussWait (nm3 ||| 0x8000_0000_0000_0000) 0
     ToDo (runT (coreF f) 0) 0 0 (coreF f) .sync .trussWait 0 f ∧ nmRemote (nm3 ||| 0x8000_0000_0000_0000) = true ∧
      nmRsv (nm3 ||| 0x8000_0000_0000_0000) = false) ∧
    (let f := trussF .trussArwt (nm3 ||| 0x8000_0000_0000_0000) 0
     ToDo (runT (coreF f) 0) 0 0 (coreF f) .sync .trussArwt 0 f) :=
  ⟨⟨⟨rfl, rfl, rfl, rfl, rfl⟩, by decide, by decide, by decide, by decide, ⟨rfl, rfl, rfl, by decide, by decide, rfl⟩, by decide, by decide, by decide⟩,
    ⟨⟨rfl, rfl, rfl, rfl, rfl⟩, by decide, by decide, by decide⟩, ⟨⟨rfl, rfl, rfl, rfl, rfl⟩, by decide⟩,
    ⟨⟨rfl, rfl, rfl, rfl, rfl⟩, by decide, by decide⟩, ⟨⟨rfl, rfl, rfl, rfl, rfl⟩, by decide, by decide⟩, ⟨rfl, rfl, rfl, rfl, rfl⟩⟩

/-! ## Collectives and Furlong -/

/-- Node 1, with one path and addresses of its own. -/
def ident : NetIdentity :=
  { node := 1, nodeRsv := false, udpPort := 4791, sportBase := 49152, paths := 1, flags := 1, vlan := 0, macBase := 0x2_0000_0000, v4Prefix := 24
    v6Prefix := 64, v4Addr := 0x0A00_0001, v4Gateway := 0x0A00_00FE, v6Addr := 1, v6Gateway := 2, dscp := [], rsv := false }

/-- A tensor of 8 FP32 elements. -/
def t8 (off : Nat) : Desc := ten fFP32 off 8 0 0

/-- A collective in flight on core 0 for group 5: a COLL.ALLREDUCE of 8 elements by two members, of which this is rank 0. -/
def coll0 : Coll :=
  { core := 0, flight := 0, op := 0, gid := 5, ggen := 1, seq := 9, rop := 0, ordered := false, chunkFlag := false, root := 0, count := 8, n := 2
    rank := 0, alg := 0, fanin := 2, fp := 77, nodes := [1, 2], a := some (t8 0x100), d := some (t8 0x1000)
    chunks := [{ shard := 0, owner := 0, first := 0, count := 4, needDone := [1] }, { shard := 1, owner := 1, first := 4, count := 4, needDone := [1] }] }

/-- Context 0 of a node: job 7, group 5 and truss 3 bound with generation 1, region 4 bound, `l` in flight. -/
def ctxN (l : List Coll) : Ctx :=
  { ctxA with
    groups := [(5, { bound := true, ever := true, ggen := 1, members := [1, 2], seqNo := 10 })]
    trusses := [(3, { bound := true, ever := true, bgen := 1, n := 2 })]
    regions := [(4, { bound := true, ever := true, keyGen := 2, base := 0x40_0000, length := 0xFF8, rwrite := true, rread := true })]
    colls := l }

/-- Node 1 with an open session with node 2, port 0 up, and the collectives `l` in flight. -/
def node (l : List Coll) : State :=
  { run coreA with
    ctxs := [(0, ctxN l)]
    net := { (run coreA).net with
      identity := some ident, ports := [(0, { up := true, rate := 200 })], tables := [(7, [(1, 1), (2, 2)])]
      sessions := [(2, { isOpen := true, known := true })], reads := [⟨33, 2, 0x40_0000, 0, 8, [], 0⟩] } }

/-- A packet with its length and CRCs as they must be. -/
def sealP (h : FHdr) (pay : List Byte) : Packet :=
  let g := { h with length := pay.length }
  ⟨{ g with hcrc := hcrcOf g }, pay, 0, bcrcOf pay 0⟩

/-- A header of node 2 for job 7 of node 1. -/
def hdr2 (opc key keyGen off opId info aux : Nat) : FHdr :=
  ⟨1, opc, false, true, true, 0, 2, 0, 1, 0, 7, 0, 0, 0, 0, 0, key, keyGen, off, opId, info, aux, 0, false⟩

/-- A COLL packet of a KIND for that collective. -/
def collP (kind fp : Nat) (pay : List Byte) : Packet := sealP (hdr2 opColl 5 1 0 9 fp (kind * 0x1000_0000)) pay

/-- A core whose collective instruction is to run. -/
def collF (n : Nat) (a d : Option Desc) : Flight := { fly (.coll n) 0 d a none none with q := { (fly (.coll n) 0 none none none none).q with ob := .reg 0x1_0005 } }

/-- Whether a collective starts in a state. -/
def starts (n : Nat) (s : State) (f : Flight) : Bool := match collStart n s 0 0 f with | .ok _ => true | .error _ => false

/-- The six collective instructions with tensors as R280 wants them. -/
def collFs : List (Nat × Flight) :=
  [(0, collF 0 (some (t8 0x100)) (some (t8 0x1000))), (1, collF 1 (some (t8 0x100)) (some (ten fFP32 0x1000 4 0 0))),
   (2, collF 2 (some (ten fFP32 0x100 4 0 0)) (some (t8 0x1000))), (3, collF 3 (some (t8 0x100)) (some (t8 0x1000))),
   (4, collF 4 (some (t8 0x100)) (some (t8 0x1000))), (5, collF 5 (some (t8 0x100)) (some (t8 0x1000)))]

/-- The state in which one of them is to run. -/
def nodeF (f : Flight) (l : List Coll) : State := { node l with cores := [(0, coreF f)] }

/-- The hypotheses of CollectivesStart: each of the six starts; one with 256 in flight; one whose group is gone. -/
theorem witness_CollectivesStart :
    (∀ p ∈ collFs, tensorCmd (.coll p.1) 0 (.run 0) ≠ none ∧ ToDo (nodeF p.2 []) 0 0 (coreF p.2) .stream (.coll p.1) 0 p.2 ∧
      groupOk (nodeF p.2 []) 0 p.2.q.ob.val = true ∧ collsInFlight (nodeF p.2 []) < 256 ∧ starts p.1 (nodeF p.2 []) p.2 = true ∧
      collBehind (coreF p.2) 0 = false ∧ hbmWaits (nodeF p.2 []) 0 0 (wholeOf p.2.a false) = false) ∧
    (let f := collF 0 (some (t8 0x100)) (some (t8 0x1000))
     256 ≤ collsInFlight (nodeF f (List.replicate 256 coll0)) ∧ groupOk (nodeF f (List.replicate 256 coll0)) 0 f.q.ob.val = true ∧
      groupOk (run (coreF f)) 0 f.q.ob.val = false ∧ ToDo (run (coreF f)) 0 0 (coreF f) .stream (.coll 0) 0 f ∧
      collBehind { coreA with flights := [(3, [{ f with issued := 1 }, { f with id := 1 }])] } 1 = true) := by
  refine ⟨?_, ⟨by decide +kernel, by decide +kernel, by decide +kernel, ⟨rfl, rfl, rfl, rfl, rfl⟩, by decide +kernel⟩⟩
  intro p hp
  simp only [collFs, List.mem_cons, List.not_mem_nil, or_false] at hp
  rcases hp with rfl | rfl | rfl | rfl | rfl | rfl <;>
    exact ⟨nofun, ⟨rfl, rfl, rfl, rfl, rfl⟩, by decide +kernel, by decide +kernel, by decide +kernel, by decide +kernel, by decide +kernel⟩

/-- A chunk of D written with its record; the values are zeros. -/
def chunkW (skip : Bool) (sum failures : Nat) : Chunk :=
  { shard := 0, owner := 0, first := 0, count := 4, needDone := [1], written := true, record := some { sum := sum, skip := skip }, failures := failures }
def collW (skip : Bool) (sum failures : Nat) : Coll := { coll0 with chunks := [chunkW skip sum failures, { shard := 1, owner := 1, first := 4, count := 4, needDone := [1] }] }

/-- The hypotheses of ChunksChecked: a check skipped, one passed, and a third one failed. -/
theorem witness_ChunksChecked :
    (∀ b n q, (b, n, q) ∈ [(true, 0, 0), (false, 0, 0), (false, 0x50_0000_0000, 2)] →
      collOf (node [collW b n q]) 0 0 = some (0, collW b n q) ∧ dPlace (collW b n q) 0 = some (0, chunkW b n q) ∧
      (node [collW b n q]).mem.upsets = [] ∧
      codesOf (node [collW b n q]) 0 0 (t8 0x1000) (dFirst (collW b n q) (chunkW b n q)) (chunkW b n q).count =
        .ok [some 0, some 0, some 0, some 0] ∧
      collComplete (setChunk (collW b n q) 0 { chunkW b n q with passed := true }) = false) ∧
    (checkPasses (collW false 0 0) (t8 0x1000) 0 0 [some 0, some 0, some 0, some 0] { sum := 0, skip := false }).1 = true ∧
    (checkPasses (collW false 0x50_0000_0000 2) (t8 0x1000) 0 0 [some 0, some 0, some 0, some 0] { sum := 0x50_0000_0000, skip := false }).1 = false := by
  refine ⟨?_, by decide +kernel, by decide +kernel⟩
  intro b n q h
  simp only [List.mem_cons, Prod.mk.injEq, List.not_mem_nil, or_false] at h
  rcases h with ⟨rfl, rfl, rfl⟩ | ⟨rfl, rfl, rfl⟩ | ⟨rfl, rfl, rfl⟩ <;> exact ⟨by decide +kernel, by decide +kernel, rfl, by decide +kernel, by decide +kernel⟩

/-- The hypotheses of CollPackets: a packet of every KIND for a collective in flight, CHECK and ABORT with another fingerprint, DATA
of a collective that does not reduce, and a REPAIR answered at once and one that waits for READY. -/
theorem witness_CollPackets :
    (∀ kind < 9, CollFor (node [coll0]) (collP kind 77 [0, 0, 0, 0, 0, 0, 0, 0]) 0 coll0 1) ∧
    CollFor (node [coll0]) (collP 6 5 [0, 0, 0, 0, 0, 0, 0, 0]) 0 coll0 1 ∧ CollFor (node [coll0]) (collP 4 5 [0, 0, 0, 0, 0, 0, 0, 0]) 0 coll0 1 ∧
    (collP 8 77 [0, 0, 0, 0, 0, 0, 0, 0]).hdr.opInfo = coll0.fp ∧ (collP 4 5 []).hdr.opInfo ≠ coll0.fp ∧
    (collP 8 77 [0, 0, 0, 0, 0, 0, 0, 0]).hdr.opAux / 0x1000_0000 = 8 ∧
    collRed coll0.op = true ∧ collRed ({ coll0 with op := 2 } : Coll).op = false ∧
    CollFor (node [{ coll0 with op := 2 }]) (collP 1 77 [0, 0, 0, 0, 0, 0, 0, 0]) 0 { coll0 with op := 2 } 1 ∧
    redWanted coll0 4 1 = true ∧ (coll0.readyFrom.elem 1 = false ∧ redWanted coll0 0 1 = false) := by
  simp only [CollFor, PacketFor, PacketIn]
  refine ⟨?_, ?_, ?_, ?_, ?_, ?_, ?_, ?_, ?_, ?_, ?_⟩ <;> decide +kernel

/-- The hypotheses of PacketsDropped: a packet of a bad header CRC, one too old, one of a bad block CRC, a duplicate, and one of
another epoch. -/
theorem witness_PacketsDropped :
    let p := sealP (hdr2 opWrite 4 2 0 1 0 0) [1]
    .furlongWriteReceive p ∈ packetCmd p ∧ Machine.hdrOk { p with hdr := { p.hdr with hcrc := p.hdr.hcrc + 1 } } = false ∧
    tooOld { node [] with clock := { ns := 4000001 } } p.hdr = true ∧ bcrcOf [2] p.poison ≠ p.bcrc ∧
    seenPsn { isOpen := true, recvCum := 1 } p.hdr.psn = true ∧ jobCtx (node []) p.hdr.jobId = some 0 ∧
    gen16 (hdr2 opWrite 4 2 0 1 0 0).epoch 1 ≠ 0 := by
  refine ⟨.head _, ?_⟩
  decide +kernel

/-- Packets of node 2 for each clause of RemoteAccess. -/
def writeP (off : Nat) : Packet := sealP (hdr2 opWrite 4 2 off 1 0 0) [1, 2, 3, 4, 5, 6, 7, 8]
def readP : Packet := sealP (hdr2 opReadReq 4 2 0xFF0 1 7 0) []
def respP : Packet := sealP { hdr2 opReadResp 0 0 0 33 0 0 with jobId := 0 } [1]
def sendP : Packet := sealP { hdr2 opSend 0 0 (Config.scratchBytes - 8) 1 0 0 with dstCore := 319 } [1, 2, 3, 4, 5, 6, 7, 8]
def atomP (vtid : Nat) : Packet := sealP (hdr2 opAtomic 0 0 0 1 0 0) (p8 (0x10_0000 + vtid) ++ p8 0x1_0000)

/-- Whether stores can be made. -/
def stores (s : State) (k n : Nat) (ws : List Wr) : Bool := match writeVas s k n ws with | .ok _ => true | .error _ => false

/-- Region 4 of context 0. -/
def reg4 : Region := look (ctxOf (node []) 0).regions {} 4

/-- The hypotheses of RemoteAccess: a WRITE of the last bytes of the region and one that ends a byte beyond, a READ_REQ of its last
bytes, a READ_RESP of a read under way, a SEND to the last word of the last core, and arrivals at a bound truss and at one never bound. -/
theorem witness_RemoteAccess :
    (PacketFor (node []) (writeP 0xFF0) opWrite 0 ∧ judgeGen reg4.bound reg4.ever reg4.keyGen 2 = .ok ∧ (0xFF0 : Nat) + 8 ≤ reg4.length ∧ reg4.rwrite = true ∧
      stores (node []) 0 320 (blockWrs (reg4.base + 0xFF0) 0xFF0 (writeP 0xFF0).payload (writeP 0xFF0).poison) = true) ∧
    (PacketFor (node []) readP opReadReq 0 ∧ readP.hdr.offset + (readP.hdr.opInfo % 0x100_0000 + 1) ≤ reg4.length ∧ reg4.rread = true ∧
      readVa (node []) 0 320 (reg4.base + 0xFF0) 8 = .ok (List.replicate 8 0, false)) ∧
    (PacketFor (node []) (writeP 0xFF1) opWrite 0 ∧ reg4.length < (writeP 0xFF1).hdr.offset + (writeP 0xFF1).payload.length) ∧
    (PacketIn (node []) respP opReadResp ∧ respP.hdr.jobId = 0 ∧
      (node []).net.reads.find? (fun r => r.opId == respP.hdr.opId && r.peer == respP.hdr.srcNode) = some ⟨33, 2, 0x40_0000, 0, 8, [], 0⟩ ∧
      respP.hdr.offset + respP.payload.length ≤ 8) ∧
    (PacketFor (node []) sendP opSend 0 ∧ inPartition (node []) 0 sendP.hdr.dstCore = true ∧
      sendP.hdr.offset + sendP.payload.length ≤ Config.scratchBytes ∧
      stores (node []) 0 320 (blockWrs (0xF_1000_0000_0000 + sendP.hdr.dstCore * Config.scratchBytes + sendP.hdr.offset) sendP.hdr.offset
        sendP.payload sendP.poison) = true) ∧
    (PacketFor (node []) (atomP 3) opAtomic 0 ∧
      judgeGen (trussOf (node []) 0 3).bound (trussOf (node []) 0 3).ever (trussOf (node []) 0 3).bgen (nmBgen nm3) = .ok ∧
      BitVec.ofNat 64 (leNat ((atomP 3).payload.take 8)) = nm3) ∧
    (PacketFor (node []) (atomP 9) opAtomic 0 ∧ (trussOf (node []) 0 9).ever = false) ∧ (node []).mem.upsets = [] := by
  simp only [PacketFor, PacketIn]
  refine ⟨?_, ?_, ?_, ?_, ?_, ?_, ?_, ?_⟩ <;> decide +kernel

/-- Node 1 at 5 ms with the session `x` with node 2, whose gateway is known. -/
def peer2 (x : Session) : State :=
  { node [] with
    clock := { ns := 5000000 }
    net := { (node []).net with sessions := [(2, x)], arpTable := [(arpKey 0 0x0A00_00FE, 3)] } }

theorem idle_ctxs (x : Session) (k : Nat) : (ctxOf (peer2 x) k).colls = [] ∧ (ctxOf (peer2 x) k).restart.phase = 0 := by
  by_cases h : k = 0
  · subst h; exact ⟨rfl, rfl⟩
  · have : ctxOf (peer2 x) k = {} := by simp [ctxOf, peer2, node, look, Ne.symm h]
    rw [this]; exact ⟨rfl, rfl⟩

/-- A HELLO packet of node 2, of a major version. -/
def helloP (v : Nat) : Packet := sealP { hdr2 opHello 0 0 0 0 0 0 with jobId := 0 } (helloBytes ⟨v, 0, false, 1, 31, 4, 2, 9000⟩)

/-- A SACK packet of node 2 that acknowledges nothing new. -/
def sackP : Packet := sealP { hdr2 opSack 0 0 0 0 0 0 with jobId := 0 } (sackBytes ⟨0, 0, 0, 0, 0, 0, 0, 0, 0⟩)

/-- The hypotheses of SessionsOpen: a HELLO unanswered, one received, one of another version, no reply within 4 ms, and a block
unacknowledged for 4 ms, each at the last moment; the way to the peer is known. -/
theorem witness_SessionsOpen :
    (let x : Session := { opening := true, helloAt := 4500000, firstAt := 1000000 }
     sessOf (peer2 x) 2 = x ∧ x.opening = true ∧ x.isOpen = false ∧ x.helloAt + 500000 ≤ (peer2 x).clock.ns ∧
      (peer2 x).net.identity = some ident ∧ wayTo (peer2 x) 2 0 = .go 0 2 3 ∧ x.firstAt + 4000000 ≤ (peer2 x).clock.ns) ∧
    (∀ v ∈ [1, 2], Machine.hdrOk (helloP v) = true ∧ (helloP v).hdr.opc = opHello ∧ ownNode (peer2 {}) = some 1 ∧ (helloP v).hdr.dstNode = 1 ∧
      bcrcOf (helloP v).payload (helloP v).poison = (helloP v).bcrc ∧ (readHello (helloP v).payload).node = 2 ∧
      (readHello (helloP v).payload).verMajor = v ∧ (readHello (helloP v).payload).features.getLsbD 1 = true ∧
      (sessOf (peer2 {}) 2).known = false ∧ (readHello (helloP v).payload).reply = false) := by
  refine ⟨?_, ?_⟩ <;> decide +kernel

theorem witness_SessionsOpen_loss :
    (∀ k, (ctxOf (peer2 {}) k).colls = [] ∧ (ctxOf (peer2 {}) k).restart.phase = 0) ∧
    (let e : Sent := ⟨{ writeP 0 with hdr := { (writeP 0).hdr with origin := 1000000 } }, none, 0, 0, 0, false⟩
     ∃ f ∈ (sessOf (peer2 { unacked := [e] }) 2).unacked, f.pkt.hdr.origin + 4000000 ≤ (peer2 { unacked := [e] }).clock.ns) :=
  ⟨idle_ctxs _, ⟨_, .head _, by decide⟩⟩

/-- Whether the regulator lets a packet go. -/
def charged (s : State) (p : Packet) : Bool := (netCharge s p).isSome

/-- The hypotheses of SessionsSendAndPace: a packet that fits the window and the pace, a lost one, a SACK received, a SACK owed for 2 µs, a
path whose suspension ends, and the end of a smoothed round trip with and without marks. -/
theorem witness_SessionsSendAndPace :
    (let x : Session := { isOpen := true, queue := [writeP 0], cwnd := 8, paceAt := 5000000, suspended := [(1, 5000000)], firstUnacked := some 4998000 }
     sessOf (peer2 x) 2 = x ∧ alive (peer2 x) = true ∧ nextLost x = none ∧ x.unacked.length < 8192 ∧ (peer2 x).net.identity = some ident ∧
      (∀ r ∈ (peer2 x).net.records, r.1 ≠ 2) ∧ x.paceAt ≤ (peer2 x).clock.ns ∧
      inFlightBytes x + (writeP 0).payload.length ≤ x.cwnd ∧ wayTo (peer2 x) 2 (pickPath x (peer2 x).clock.ns) = .go 0 2 3 ∧
      wayTo (peer2 x) 2 0 = .go 0 2 3 ∧
      charged (peer2 x) (writeP 0) = true ∧ has x.suspended 1 = true ∧ look x.suspended 0 1 ≤ (peer2 x).clock.ns ∧
      x.firstUnacked = some 4998000 ∧ 4998000 + 2000 ≤ (peer2 x).clock.ns) ∧
    (let e : Sent := ⟨{ writeP 0 with hdr := { (writeP 0).hdr with origin := 1000001 } }, none, 0, 0, 0, true⟩
     let x : Session := { isOpen := true, unacked := [e] }
     nextLost x = some e ∧ (peer2 x).clock.ns < e.pkt.hdr.origin + 4000000 ∧ wayTo (peer2 x) 2 (pickPath x (peer2 x).clock.ns) = .go 0 2 3) ∧
    (Machine.hdrOk sackP = true ∧ sackP.hdr.opc = opSack ∧ ownNode (peer2 { isOpen := true }) = some sackP.hdr.dstNode ∧ sackP.hdr.srcNode = 2 ∧
      (readSack sackP.hdr.psn sackP.payload).status = 0) ∧
    bcrcOf sackP.payload sackP.poison = sackP.bcrc ∧
    (let x : Session := { isOpen := true, intervalAt := 4990000, srtt := 10000, acked := 5 }
     x.intervalAt + x.srtt ≤ (peer2 x).clock.ns ∧ 0 < x.acked ∧ x.marked = 0) ∧
    (let x : Session := { isOpen := true, intervalAt := 4990000, srtt := 10000, acked := 5, marked := 5 }
     0 < x.marked ∧ x.marked ≤ x.acked) := by
  refine ⟨?_, ?_, ?_, rfl, ?_, ?_⟩ <;> decide +kernel

/-- A queue pair is open with a peer at address 2. -/
def roceS : State := { peer2 {} with net := { (peer2 {}).net with qps := [(6, { expect := 10, peer := 2 })] } }

/-- A SEND on it with its ICRC as it must be. -/
def sendR (psn : Nat) : RocePkt := let k : RocePkt := { kind := .send, qp := 6, psn := psn, data := [1, 2, 3] }; { k with icrc := icrcOf k }

/-- The hypotheses of PortsAndAddresses: the last port of a device in mode 1×8, a port up, one down for 1 s, one that has failed to train,
the own address asked for, and RoCEv2 packets in order and after a gap. -/
theorem witness_PortsAndAddresses :
    (120 ∈ portList (peer2 {}) ∧ (portOf (peer2 {}) 120).up = false ∧ (portOf (peer2 {}) 120).failed = false ∧ (portOf (peer2 {}) 0).up = true ∧
      (portOf { peer2 {} with clock := { ns := 1000000000 } } 120).downAt + 1000000000 ≤ ({ peer2 {} with clock := { ns := 1000000000 } } : State).clock.ns) ∧
    (200 ∈ [100, 200] ∧ 200 ∉ [400] ∧ 100 ∉ [400]) ∧
    ((peer2 {}).net.identity = some ident ∧ ident.flags.getLsbD 0 = true) ∧
    (has roceS.net.qps 6 = true ∧ pathPort roceS 0 = some 0 ∧ wayToAddr roceS ident 0 (qpAt roceS 6).peer = .go 0 2 3 ∧ (qpAt roceS 6).rate = 0 ∧
      (∀ n ∈ [10, 12], icrcOf { sendR n with icrc := 0 } = (sendR n).icrc ∧ (sendR n).ce = false) ∧
      (sendR 10).psn = (qpAt roceS 6).expect ∧ (sendR 12).psn ≠ (qpAt roceS 6).expect ∧ psn24 (sendR 12).psn (qpAt roceS 6).expect = false) := by
  refine ⟨?_, ?_, ?_, ?_⟩ <;> decide +kernel

/-! ## Memories, placement and Chain -/

/-- READY with eight errors in one row of channel 0, whose table of spares holds `n` rows. -/
def rowS (r n : Nat) : State := { ready0 with mem := { rowErrs := List.replicate 8 (0, r, 0), spares := [(0, List.range n)] } }

theorem rowDue_rowS (r n : Nat) : rowDue (rowS r n) 0 r = true := by
  simp [rowDue, rowS, rowWeight, ready0, State.reset, List.filter, List.replicate, day]

/-- The hypotheses of RegulatorAndPatrol: a refill due, and the last byte of the grain the scrub reads, not poisoned. -/
theorem witness_RegulatorAndPatrol :
    (let s : State := { run coreA with clock := { ns := 1000 } }
     s.mem.refillAt + 1000 ≤ s.clock.ns ∧ has s.ctxs 0 = true) ∧
    State.reset.mem.upsets = [] ∧ 63 / 64 = State.reset.mem.scrubPos ∧ State.reset.mem.poison.elem (63 / 64) = false := by decide

/-- Context 0 restarts its job, is halted, and channel 0 has a spared row. -/
def pprS : State := { rowS 5 1 with ctxs := [(0, { ctxA with st := .restarting, restart := { phase := 2, ppr := 3 } })] }

/-- A slice with two uncorrected errors. -/
def sliceS : State := { ready0 with mem := { sliceErrs := [(175, 1, 0), (175, 2, 0)] } }

/-- The hypotheses of MemoryRepairs: a due row with one spare left, the page that holds a due row without a spare, a channel with a
spared row in a restart, and a slice due. -/
theorem witness_MemoryRepairs :
    (rowDue (rowS 5 15) 0 5 = true ∧ (look (rowS 5 15).mem.spares [] 0).length < 16) ∧
    (MemCanonical (rowS (Config.hbmRow 0) 16) ∧ (rowS (Config.hbmRow 0) 16).mem.upsets = [] ∧ (rowS (Config.hbmRow 0) 16).mem.stale = [] ∧ pageDue (rowS (Config.hbmRow 0) 16) 0 = true ∧
      (rowS (Config.hbmRow 0) 16).mem.retired.elem 0 = false ∧ look (rowS (Config.hbmRow 0) 16).mem.pool 0 (0 / Config.stackPages) < poolPages) ∧
    (repairer pprS 0 = some 0 ∧ look pprS.mem.spares [] 0 ≠ []) ∧
    (sliceMode sliceS.mem 175 ≠ .retired ∧ sliceDue sliceS 175 = true) := by
  refine ⟨⟨rowDue_rowS _ _, by decide⟩, ⟨⟨rfl, rfl⟩, rfl, rfl, ?_, rfl, by decide⟩, ⟨by decide +kernel, by decide⟩, ⟨by decide, by decide +kernel⟩⟩
  have h : (rowS (Config.hbmRow 0) 16).mem.rowErrs = List.replicate 8 (0, Config.hbmRow 0, 0) := rfl
  rw [pageDue, h, List.any_eq_true]
  refine ⟨(0, Config.hbmRow 0, 0), by simp, ?_⟩
  rw [rowDue_rowS]
  have h2 : pageHolds 0 0 (Config.hbmRow 0) = true := by
    simp only [pageHolds, Bool.and_eq_true, List.any_eq_true]
    exact ⟨by decide, 0, by decide, by simp⟩
  simp only [h2, Bool.and_true, Bool.true_and]
  decide

/-- READY after an hour with the physical cores given. -/
def physS (l : Tbl Phys) : State := { ready0 with place := { phys := l }, clock := { ns := 3600000000000 } }

/-- The hypotheses of CoresFail: a healthy core, one failed, and re-verification at the end of the hour with one and with two passes. -/
theorem witness_CoresFail :
    (healthy (physS []) 335 = true ∧ healthy (physS [(335, { failed := true })]) 335 = false) ∧
    (let s := physS [(335, { failed := true, passes := 1 }), (334, { failed := true, passes := 2 })]
     (physAt s 335).failed = true ∧ (physAt s 335).cause = 0 ∧ (physAt s 335).never = false ∧
      (physAt s 335).lastTest + 3600000000000 ≤ s.clock.ns ∧ (physAt s 335).passes < 2 ∧ (physAt s 334).failed = true ∧ 2 ≤ (physAt s 334).passes) := by
  decide +kernel

/-- Logical cores 0 and 1 share physical core 0; 0 is resident and waits in FENCE for 2 µs. -/
def shadowS : State :=
  let s := run { coreA with flights := [(3, [{ fly .fence 0 none none none none with started := 0 }])] }
  { s with
    place := { s.place with map := [(1, 0)], phys := [(0, { resident := some 0 })] }
    clock := { ns := 1000000 } }

/-- The hypotheses of PairsSwitch, for the quantum and for the early switch. -/
theorem witness_PairsSwitch :
    pairOn shadowS 0 = some (0, 1) ∧ shadowS.mem.upsets = [] ∧ shadowS.place.patrol ≠ some 0 ∧
    (physAt shadowS 0).switchAt + (partSt shadowS.place (partOf shadowS.place 0)).quantumUs * 1000 ≤ shadowS.clock.ns ∧
    runningOn shadowS 0 = some 0 ∧ waitsFor shadowS 0 0 2000 = true ∧ waitsFor shadowS 0 1 0 = false := by
  decide +kernel

/-- A minute after power-up, with the patrol test at the first spare slot; and 40 ms into it. -/
def patrolS : State := { ready0 with place := { patrolNext := 20 }, clock := { ns := 60000000000 } }
def testingS : State := { patrolS with place := { patrolS.place with patrol := some 20, patrolAt := 59960000000 } }

/-- A launched context whose core has waited for a token during its watchdog period. -/
def watchS : State := { run { coreA with held := some (.wtok 3), heldSince := 5 } with clock := { ns := 100000000 } }

theorem others_idle (k : Nat) (h : k ≠ 0) : (ctxOf watchS k).launched = false := by
  have : ctxOf watchS k = {} := by simp [ctxOf, watchS, run, look, Ne.symm h]
  rw [this]

/-- The hypotheses of TestsOfCores: the patrol test of a free core, its end, and the watchdog of a launched context. -/
theorem witness_TestsOfCores :
    (patrolS.place.patrol = none ∧ patrolS.place.patrolAt + 60000000000 ≤ patrolS.clock.ns ∧ alive patrolS = true ∧ 10 ≤ patrolS.fw.stage ∧
      patrolTarget patrolS = some 20 ∧ placedOn patrolS.place 20 = []) ∧
    (testingS.place.patrol = some 20 ∧ testingS.place.patrolAt + 40000000 ≤ testingS.clock.ns ∧ (bayAt testingS (20 / 21)).minMargin = none ∧
      healthy testingS 20 = true) ∧
    Config.minMargin (20 / 21) ≤ Config.minMargin 0 ∧
    (∀ k, (ctxOf ready0 k).launched = false) ∧
    ((∀ q, q ≠ 0 → (ctxOf watchS q).launched = false) ∧ (ctxOf watchS 0).launched = true ∧ watchSuspended watchS 0 = false ∧
      ctxWaiting watchS 0 = true ∧ (ctxOf watchS 0).watchBase + (ctxOf watchS 0).watchdogMs * 1000000 ≤ watchS.clock.ns ∧
      (ctxOf watchS 0).restart.phase = 0 ∧ (ctxOf watchS 0).faultSeq = 0) :=
  ⟨by decide +kernel, by decide +kernel, Nat.le_refl _, fun _ => rfl, others_idle, by decide +kernel⟩

/-- A sound IDLE flit, and a SINGLE flit with a store of four bytes for base die 1. -/
def flit0 : Flit := sealFlit {} {} (linkFlit 0 [] false)
def flit5 : Flit := sealFlit {} {} { linkFlit 5 (requestWord 0x40_0000 4 ++ [1, 2, 3, 4]) false with cls := crDemand, destDie := 1 }

/-- A flit as sent is sound. -/
theorem flit_sound (d r : Dir) (f : Flit) : flitCrcOk (sealFlit d r f) = true := by
  rw [flitCrcOk]
  exact beq_self_eq_true _

/-- A join with flits unacknowledged on group 0, an error-laden lane 3, and group 2 replayed sixteen times. -/
def chainS : State :=
  { ready0 with
    chain := {
      dirs := [(dirKey 0 0 true, { buffer := [(0, { flit0 with seq := 7 }), (0, { flit0 with seq := 8 })] }), (dirKey 0 2 true, { replays := 16 })]
      errAt := [(3, List.replicate 8 0)] }
    clock := { ns := 1000256 } }
def swapS (n : Nat) : State := { ready0 with chain := { swaps := [(swapKey 0 9 true, ⟨9, 128, 0, n⟩)] } }

theorem crc_ne (c : BitVec 32) : (c == c + 1) = false := by
  rw [beq_eq_false_iff_ne]
  bv_omega

/-- A sound flit with another CRC is not. -/
theorem wrong_crc (f : Flit) (h : flitCrcOk f = true) : flitCrcOk { f with crc := f.crc + 1 } = false := by
  rw [flitCrcOk] at h
  have e : flitBody { f with crc := f.crc + 1 } = flitBody f := rfl
  rw [flitCrcOk, e, eq_of_beq h, crc_ne]

/-- The hypotheses of ChainLinks. -/
theorem witness_ChainLinks :
    (laneGroupOk chainS 0 0 = true ∧ alive chainS = true ∧ flit0.kind < 7 ∧ flit0.cls < 6 ∧
      flit0.seq = (dirOf chainS 0 0 true).expect ∧ flit0.ackValid = true ∧ flit5.kind = 5 ∧ flit5.cls < 6 ∧
      flit5.seq = (dirOf chainS 0 0 true).expect ∧ flit5.destDie = (joinEnds 0).2 ∧ chainS.chain.bursts = [] ∧ MemCanonical chainS) ∧
    (flitCrcOk flit0 = true ∧ flitCrcOk flit5 = true ∧ leNat (flit5.payload.take 5) + (flitData flit5).length ≤ Config.scratchDpa ∧
      ((flitData flit5).take (leNat ((flit5.payload.drop 8).take 4))).length = 4) ∧
    (flitCrcOk { flit0 with crc := flit0.crc + 1 } = false ∧ ({ flit0 with seq := 1 } : Flit).seq ≠ (dirOf chainS 0 0 true).expect ∧
      (dirOf chainS 0 0 true).nakSent = false ∧ (dirOf chainS 0 0 (!true)).buffer.length < 512) ∧
    ((ackBuffer (dirOf chainS 0 0 true).buffer 7).length = 1 ∧
      (dirOf chainS 0 0 true).buffer = [(0, { flit0 with seq := 7 }), (0, { flit0 with seq := 8 })] ∧ 0 + 256 ≤ chainS.clock.ns ∧
      ({ chainS with clock := { ns := 255 } } : State).clock.ns < 0 + 256) ∧
    (0 < 16 ∧ 135 < lanesAll 0 ∧ has chainS.chain.marginAt 0 = false ∧ laneCause chainS 0 3 = some 0 ∧
      freeSpares chainS.chain 0 = 128 :: [129, 130, 131, 132, 133, 134, 135] ∧
      laneGroupOk chainS 0 (3 / 8) = true ∧ swapping chainS.chain 0 3 = false ∧ laneCause chainS 0 0 = none ∧
      laneCause chainS 0 1 = none ∧ laneCause chainS 0 2 = none) ∧
    (swapHeld (swapS 0) 0 true 9 128 = false ∧ has (swapS 0).chain.swaps (swapKey 0 9 true) = true ∧
      look (swapS 0).chain.swaps ⟨0, 0, 0, 0⟩ (swapKey 0 9 true) = ⟨9, 128, 0, 0⟩ ∧
      laneGroupOk (swapS 0) 0 (9 / 8) = true ∧
      (let s : State := { swapS 64 with chain := { (swapS 64).chain with dirs := [(dirKey 0 1 true, { sent := 64 })] } }
       s.chain.swaps = [(swapKey 0 9 true, ⟨9, 128, 0, 64⟩)] ∧ 64 ≤ (dirOf s 0 (9 / 8) true).sent)) ∧
    (groupCause chainS 0 2 = some 1 ∧ laneGroupOk chainS 0 2 = true ∧ 2 ≤ (liveGroups chainS.chain 0).length) := by
  refine ⟨⟨by decide, rfl, by decide, by decide, rfl, rfl, rfl, by decide, rfl, rfl, rfl, rfl, rfl⟩,
    ⟨flit_sound _ _ _, flit_sound _ _ _, by decide, by decide⟩, ⟨?_, by decide, rfl, by decide⟩,
    ⟨by decide, rfl, by decide, by decide⟩, by decide +kernel, by decide, by decide⟩
  exact wrong_crc flit0 (flit_sound _ _ _)

/-! ## Time, clocks, power and heat -/

/-- The hypotheses of IdleTick: nothing pending, without the reference, and with no correction under way and the largest fraction. -/
theorem witness_IdleTick :
    ready0.pending = [] ∧ ({ ready0 with clock := { ref25 := false } } : State).clock.ref25 = false ∧
    (let s : State := { ready0 with clock := { frac := 4294967295 } }
     s.pending = [] ∧ s.clock.ref25 = true ∧ s.clock.rate = 0 ∧ s.clock.slew = 0 ∧ s.clock.frac < 4294967296) := by decide

/-- READY three seconds after power-up with a source of time. -/
def timeS (source : Nat) (stepped : Bool) : State := { ready0 with clock := { ns := 3000000000, source := source, stepped := stepped } }

/-- The hypotheses of TimeDisciplined: each source, a one-step Sync and a Follow_Up that measure 1,001 ns, and an exchange of delays. -/
theorem witness_TimeDisciplined :
    ((timeS 0 false).clock.ref25 = true ∧ (timeS 0 false).clock.source = 0 ∧ (timeS 0 false).clock.stepped = false ∧ anyCtx (timeS 0 false) = false ∧
      (timeS 0 false).clock.profile.testBit 1 = false ∧ (1 : Nat) ≠ (timeS 0 false).clock.port) ∧
    ((timeS 0 true).clock.stepped = true ∧ 1000 < (1001 : Int).natAbs ∧ (timeS 0 true).clock.unsynced = false) ∧
    (syncOffset (timeS 0 true) (.sync 5 false 2999998999) 1001 ∧
      syncOffset { timeS 0 true with clock := { (timeS 0 true).clock with syncWait := some (5, 2000001001) } } (.followUp 5 2000000000) 1001) ∧
    (let s : State := { timeS 0 true with clock := { (timeS 0 true).clock with delayReq := some (6, 10, 30, 40) } }
     s.clock.delayReq = some (6, 10, 30, 40) ∧ s.clock.ref25 = true) ∧
    ((timeS 0 true).clock.lastSync + 3000000000 ≤ (timeS 0 true).clock.ns) ∧ (timeS 1 true).clock.source = 1 ∧
    (timeS 0 true).clock.ns / 1000000000 ≠ (timeS 0 true).clock.lastSec :=
  ⟨by decide +kernel, by decide, ⟨.inl ⟨_, _, rfl, by decide⟩, .inr ⟨_, _, _, rfl, rfl, by decide⟩⟩, ⟨rfl, rfl⟩, by decide, rfl, by decide⟩

/-- Bay 15 as given, with the device held to 550 MHz. -/
def bayS (y : Bay) : State := { ready0 with power := { bays := [(15, y)], emergency := true }, clock := { ns := 100000 } }

/-- The hypotheses of FrequencySteps: a step down and up, and a mux switch with and without a droop. -/
theorem witness_FrequencySteps :
    (alive (bayS {}) = true ∧ (bayS {}).power.fallback = false) ∧
    (let s := bayS { setPoint := 1100, stopped := false }
     (bayAt s 15).stopped = false ∧ wanted s 15 ≠ (bayAt s 15).setPoint ∧ (bayAt s 15).stepTo ≠ some (wanted s 15) ∧ ¬ (bayAt s 15).setPoint < wanted s 15) ∧
    (let s := bayS { setPoint := 495, stopped := false }
     (bayAt s 15).stopped = false ∧ (bayAt s 15).setPoint < wanted s 15 ∧ (bayAt s 15).stepTo ≠ some (wanted s 15) ∧
      afterDroop s (bayAt s 15) 20000 = false ∧ avsFails s 15 = false) ∧
    ((bayAt (bayS { stepTo := some 660 }) 15).stepTo = some 660 ∧ (bayAt (bayS { stepTo := some 660 }) 15).droop = false ∧
      (bayAt (bayS { stepTo := some 660, droop := true }) 15).droop = true) := by
  decide +kernel

/-- The hypotheses of BayClocksAndMargins: both PLLs, a droop and its end, a lowering whose hold is over, a bay idle for 100 µs, and a
margin at the bound of the bay, and one below it where the configuration record gives a bound above 0. -/
theorem witness_BayClocksAndMargins :
    ((bayAt (bayS {}) 15).sel = ((0 : Nat) == 1) ∧ (bayAt (bayS { sel := true }) 15).sel = ((1 : Nat) == 1) ∧ alive (bayS {}) = true) ∧
    ((bayAt (bayS {}) 15).droop = false ∧ (bayAt (bayS { droop := true }) 15).droop = true) ∧
    (let s := bayS { volt := 800, lowerTo := some 700, droopAt := some 0 }
     (bayAt s 15).lowerTo = some 700 ∧ 700 < (bayAt s 15).volt ∧ (bayAt s 15).droop = false ∧ afterDroop s (bayAt s 15) 100000 = false ∧
      s.power.fallback = false ∧ avsFails s 15 = false) ∧
    ((bayAt (bayS { stopped := false }) 15).stopped = false ∧ bayIdle (bayS { stopped := false }) 15 = true ∧
      (bayAt (bayS { stopped := false }) 15).idleSince + 100000 ≤ (bayS { stopped := false }).clock.ns) ∧
    ((bayS {}).power.fallback = false ∧ (bayAt (bayS {}) 15).minMargin = none ∧ Config.minMargin 15 ≤ Config.minMargin 15) ∧
    (0 < Config.minMargin 15 → ∃ m, m < Config.minMargin 15) :=
  ⟨by decide, by decide, by decide +kernel, by decide +kernel, ⟨rfl, rfl, Nat.le_refl _⟩, fun h => ⟨0, h⟩⟩

/-- The hypotheses of PowerLoops: package power above the limit, below 95 % of it and between; a die that measures less than half its
estimate; and energy of a core where context 0 is resident. -/
theorem witness_PowerLoops :
    ((limitMw ready0 : Rat) < packageMw ready0 [] 2700001 ∧ ready0.power.throttle < 12) ∧
    (packageMw ready0 [] 2564999 < (limitMw ready0 : Rat) * (95 / 100)) ∧
    ((limitMw ready0 : Rat) * (95 / 100) ≤ packageMw ready0 [] 2700000 ∧ packageMw ready0 [] 2700000 ≤ (limitMw ready0 : Rat)) ∧
    (let s : State := { ready0 with power := { estSum := [0, 0, 0, 1000], estCount := 10 } }
     s.power.fallback = false ∧ alive s = true ∧ s.power.k.length = 4 ∧ s.power.suspect.length = 4 ∧ nth [none, none, none, some 49] 3 none = some 49 ∧
      0 < s.power.estCount ∧ 0 < nth s.power.estSum 3 0 ∧ (49 : Rat) < nth s.power.estSum 3 0 / (s.power.estCount : Rat) / 2) ∧
    (ctxOnCore (run coreA) 0 = 0 ∧ (ctxOf (run coreA) 0).st ≠ .free) := by
  decide +kernel

/-- The hypotheses of HeatAndEmergency at their bounds. -/
theorem witness_HeatAndEmergency :
    (ready0.power.fallback = false ∧ alive ready0 = true ∧ 10000 ≤ hottest [10000, 9000]) ∧
    (9500 ≤ (9500 : Int) ∧ ready0.power.hbmHot.elem 7 = false) ∧ (12000 ≤ (12000 : Int) ∧ ready0.board.tripLatch = false) ∧
    ((if 52 < 53 then (11000 : Int) else 10500) ≤ 11000 ∧ (if 53 < 53 then (11000 : Int) else 10500) ≤ 10500 ∧ ready0.power.emergency = false ∧
      ready0.power.emActive = false) ∧
    (let s : State := { ready0 with power := { emCoolSince := some 0, emergency := true, emActive := true }, clock := { ns := 100000000 } }
     s.power.emCoolSince = some 0 ∧ s.power.emergency = true ∧ 0 + 100000000 ≤ s.clock.ns ∧ s.power.fastLow = false ∧ s.power.fallback = false ∧
      s.power.emActive = true ∧ s.obs.fatal = false) ∧
    ready0.power.fastLow = false ∧ ({ ready0 with power := { fastLow := true, emActive := true } } : State).power.fastLow = true ∧
    ready0.power.fallback = false ∧ ({ ready0 with power := { fallback := true } } : State).power.fallback = true := by
  decide +kernel

/-! ## Reset, power, boot, the outbox, slices -/

/-- The hypotheses of ResetsAndRails: PERST_N high and low, a rail of each kind in and out of range, and both halves of a loss of REF25. -/
theorem witness_ResetsAndRails :
    ready0.board.perstLow = false ∧ ({ ready0 with board := { perstLow := true } } : State).board.perstLow = true ∧
    (∀ r ∈ [0, 12, 13, 21], r < 22 ∧ ready0.board.low.elem r = false) ∧ ((21 : Nat) ≠ 12 ∧ (21 : Nat) ≠ 13 ∧ 6 ≤ ready0.fw.stage ∧ ready0.obs.fatal = false) ∧
    (∀ r ∈ [12, 21], ({ ready0 with board := { low := [12, 21] } } : State).board.low.elem r = true) ∧
    (ready0.clock.ref25 = true ∧ 4 ≤ ready0.fw.stage ∧ ∀ j, j < 64 → ctxExists ready0 j = false) := by
  decide +kernel

/-- A finding of a boot stage. -/
def found (both : Option Nat) (bad : Bool) : BootFinding := ⟨[], both, bad, none, false, [], [], []⟩

/-- A device at a stage of its boot, with the straps as given. -/
def bootS (stage : Nat) (m : BitVec 2) : State := { State.reset with fw := { stage := stage, bootMode := m } }

/-- The hypotheses of BootRuns at the first and last stage, and with each end of stage ROM. -/
theorem witness_BootRuns :
    (∀ n ∈ [1, 9], let s := bootS n 0
      s.board.perstLow = false ∧ s.board.waiting = false ∧ s.board.tripLatch = false ∧ alive s = true ∧ s.fw.recovering = false ∧ 1 ≤ s.fw.stage ∧
      s.fw.stage < 10 ∧ s.fw.bootError = 0 ∧ s.fw.recoveryBoot = false ∧ stageError (found none false) s.fw.stage = none ∧
      ¬(s.fw.stage = 1 ∧ s.fw.bootMode = 2)) ∧
    stageError (found none true) 1 = some 4 ∧ stageError (found (some 3) false) 2 = some 4 ∧ stageError (found (some 0) false) 1 = some 1 ∧
    (stageError (found none false) 1 = none ∧ (bootS 1 2).fw.stage = 1 ∧ (bootS 1 2).fw.bootMode = 2 ∧ alive (bootS 1 2) = true) := by
  decide

/-- READY with pair 3 as given. -/
def pairS (y : Pair) (ns : Nat) : State := { ready0 with fw := { ready0.fw with pairs := [(3, y)] }, clock := { ns := ns } }

/-- The hypotheses of RecoveryAndPairs: recovery in its last stage, a first, a second and a late mismatch, and a manager at its time. -/
theorem witness_RecoveryAndPairs :
    (alive ready0 = true ∧ 4 ≤ ready0.fw.stage ∧ ready0.fw.recovering = false) ∧
    (let s : State := { ready0 with fw := { ready0.fw with recovering := true, recoverStage := 10 } }
     s.fw.recovering = true ∧ 10 ≤ s.fw.recoverStage ∧ s.fw.recoverBlocked = false ∧ alive s = true) ∧
    ((pairAt ready0 3).out = false ∧ (pairAt ready0 3).lastMiss = none) ∧
    ((pairAt (pairS { lastMiss := some 7 } day) 3).lastMiss = some 7 ∧ (pairS { lastMiss := some 7 } day).clock.ns < 7 + day) ∧
    ((pairAt (pairS { lastMiss := some 0 } day) 3).lastMiss = some 0 ∧ 0 + day ≤ (pairS { lastMiss := some 0 } day).clock.ns) ∧
    (pairAt (pairS { restarting := true } 0) 3).restarting = true ∧ ready0.board.low.elem 14 = false ∧
    (let s : State := { ready0 with net := { ready0.net with managers := [(9, 0)], attested := [(9, 0)] }, clock := { ns := day } }
     (s.net.managers[0]?.map (fun m => m.1)) = some 9 ∧ (9, 0) ∈ s.net.attested ∧ 0 + day ≤ s.clock.ns) := by
  decide

/-- A record of the outbox. -/
def rec0 : Rec := ⟨1, 0x8005, 0, 0xFFFF, 0, true, 0, []⟩

/-- A trace record. -/
def trc0 : TraceRec := ⟨0, 5, 1, 0, 0, 0, 0, []⟩

/-- READY with a record in line and an unsignalled one, `p` records written and `c` consumed. -/
def boxS (p c : Nat) : State :=
  { ready0 with fw := { ready0.fw with outbox := { addr := 0x1_0000, prod := p, cons := c, waiting := [rec0], oldest := some 0 } }, clock := { ns := 5000000000 } }

/-- A trace with a record buffered, the region of one record holding `n`. -/
def traceS (mode n : Nat) : State :=
  { ready0 with obs := { mode := mode, capacity := 1, next := n, region := List.replicate n trc0, buffers := [(5, [trc0])] } }

/-- The hypotheses of OutboxAndTrace, at PROD's wrap, with a write of CONS that PROD bounds and one beyond it, and a region with room and
full in both modes. -/
theorem witness_OutboxAndTrace :
    (let s := boxS 8191 8190
     s.fw.outbox.waiting = [rec0] ∧ outboxBlocked s.fw = false ∧ s.clock.ref25 = true ∧ serves s 0 = true ∧ s.fw.outbox.oldest = some 0 ∧
      0 + 10000 ≤ s.clock.ns ∧ (s.fw.outbox.prod + 8192 - (8191#32).toNat % 8192) % 8192 ≤ 4096 ∧
      4096 < (s.fw.outbox.prod + 8192 - (0#32).toNat % 8192) % 8192) ∧
    (let s : State := { boxS 0 0 with ctxs := [(1, { ctxA with hostLoss := 1 })] }
     alive s = true ∧ serves s 0 = true ∧ s.fw.absent = false ∧ 10 ≤ s.fw.stage ∧ s.fw.lastHost + s.fw.timeoutS * second ≤ s.clock.ns ∧
      (∀ k, k < 64 → (ctxOf s k).launched = true → (ctxOf s k).hostLoss ≠ 2) ∧ (ctxOf s 1).launched = true ∧ (ctxOf s 1).hostLoss = 1) ∧
    (look (traceS 1 0).obs.buffers [] 5 = [trc0] ∧ (traceS 1 0).obs.next < (traceS 1 0).obs.capacity ∧
      (traceS 0 1).obs.mode = 0 ∧ (traceS 1 1).obs.mode = 1 ∧ (traceS 1 1).obs.capacity ≤ (traceS 1 1).obs.next) := by
  refine ⟨?_, ?_, ?_⟩ <;> decide +kernel

/-- A histogram unit that is on. -/
def histS : State := { ready0 with obs := { hists := [(31, { source := 1, base := 3 })] } }

/-- The hypotheses of HistogramSamples, with a sample in bin 0, in the last bin and below every bin but 0. -/
theorem witness_HistogramSamples :
    (31 < 32 ∧ (histAt histS 31).source ≠ 0) ∧ inBin 3 0 0 ∧ inBin 3 31 (2 ^ 40) ∧ ¬ inBin 3 1 0 := by
  refine ⟨by decide, ?_, ?_, ?_⟩ <;> simp [inBin]

/-- Context 0 runs on partition 0 and context 1 is runnable there; its slice is over, and the device has `l` bays in partition 0. -/
def slS (x : PartSt) (h : Nat) (c : Core) (map : List Nat) : State :=
  { ready0 with
    ctxs := [(0, { ctxA with haltReq := h }), (1, { ctxA with st := .runnable, mailbox := 2, jobId := 8 })], cores := [(0, c)]
    place := { ready0.place with parts := [(0, x)], layout := map }, clock := { ns := 10100000 } }

/-- The hypotheses of SlicesAndHalts: a slice that is over, a small configuration that has not drained after 100 µs, a preemption
complete, and a debug halt. -/
theorem witness_SlicesAndHalts :
    (let s := slS { running := some 0 } 0 coreA ready0.place.layout
     alive s = true ∧ (partSt s.place 0).running = some 0 ∧ serves s 0 = true ∧ (partSt s.place 0).preempting = false ∧ (ctxOf s 0).haltReq = 0 ∧
      (partSt s.place 0).sliceAt + (partSt s.place 0).sliceMs * 1000000 ≤ s.clock.ns ∧ nextRunnable s 0 (partSt s.place 0).lastRun ≠ none) ∧
    (let s := slS { running := some 0, preempting := true, preemptAt := 10000000 } 0 (coreF (fly .mma 0 none none none none)) oneBay
     (partSt s.place 0).preempting = true ∧ isLarge s.place 0 = false ∧ (partSt s.place 0).preemptAt + 100000 ≤ s.clock.ns ∧ undrained s 0 ≠ []) ∧
    (let s := slS { running := some 0, preempting := true } 0 coreA oneBay
     undrained s 0 = [] ∧ (∀ n ∈ launchCores (ctxOf s 0), flightsOf (coreOf s 0 n) .stream = [] ∧ flightsOf (coreOf s 0 n) .sync = []) ∧ (partSt s.place 0).unavailable = false ∧
      nextRunnable s 0 0 = some 1) ∧
    (let s := slS { running := some 0, preempting := true } 1 coreA ready0.place.layout
     isLarge s.place 0 = true ∧ ctxExists s 0 = true ∧ (ctxOf s 0).haltReq ≠ 0 ∧ (ctxOf s 0).st = .running ∧ undrained s 0 = [] ∧
      (∀ n ∈ launchCores (ctxOf s 0), flightsOf (coreOf s 0 n) .stream = [])) := by
  refine ⟨?_, ?_, ?_, ?_⟩ <;> decide +kernel

/-! ## Live update, job restart and checkpoints -/

/-- READY with a live update of target `g`. -/
def updS (g : Nat) (u : Update) : State := { ready0 with fw := { ready0.fw with updates := [(g, u)] }, clock := { ns := 60000000000 } }

/-- A manifest of target 4 that carries a key of slot 3 and the hash of `img`. -/
def man4 (magic : Bool) (img : List Byte) : Manifest :=
  { magicOk := magic, target := 4, svn := 0, counter := 0, version := 1, compatId := 0, length := img.length, hash := shake256 64 img, keySlot := 3
    loaderSvn := 0, revoke := 0, signer := [], signed := [], signature := [] }

/-- The hypotheses of FirmwareUpdates: an activation of both kinds of target, a window and a commit period over, the areas with tags
good and bad, and the two ends of a debug token's checks. -/
theorem witness_FirmwareUpdates :
    (∀ g ∈ [0, 1], let s := updS g { phase := 3, staged := some {}, window := 30 }
      (updAt s g).staged = some {} ∧ (updAt s g).phase = 3 ∧ s.power.emActive = false ∧ anyRestart s = false ∧ alive s = true ∧ serves s 3 = true ∧
      (updAt s g).reqAt + (updAt s g).window * second ≤ s.clock.ns) ∧
    (let s := updS 1 { phase := 4, old := some {}, commit := 60 }
     (updAt s 1).phase = 4 ∧ (updAt s 1).old = some {} ∧ (updAt s 1).actAt + (updAt s 1).commit * second ≤ s.clock.ns) ∧
    (∀ a ∈ [2, 3, 4, 6], a ∈ [2, 3, 4, 6] ∧ 1 = look ready0.sec.writeCtr 0 a + 1 ∧ 2 ≠ look ready0.sec.writeCtr 0 a + 1) := by
  refine ⟨?_, ?_, ?_⟩ <;> decide +kernel

/-- The checks of a debug token: one without the magic fails, and one passes where the root digests and the signature fit. -/
theorem witness_FirmwareUpdates_token (img : List Byte) :
    failedCheck ready0 4 (man4 false img) img false ≠ 0 ∧
    (shake256 64 [] = Config.rootDigest 3 → Config.ed448Verify [] (shake256 64 []) [] = true → failedCheck ready0 4 (man4 true img) img false = 0) := by
  refine ⟨by simp [failedCheck, man4], fun h1 h2 => ?_⟩
  have h3 : rollCtr ready0 0 = 0 := rfl
  rw [h1] at h2; simp [failedCheck, man4, h1, h2, h3]

/-- Context 0 of job 7 with the restart and checkpoint as given, alone or with nodes 2 and 3 of its job. -/
def jobS (r : Restart) (c : Ckpt) (g : Option Grid) (tw : Option Twin) : State :=
  { node [] with
    ctxs := [(0, { ctxN [] with restart := r, ckpt := c, grid := g, twin := tw })], clock := { ns := 60000000000 }
    net := { (node []).net with reads := [] } }

/-- Nodes 1 to 3 on one axis. -/
def grid3 : Grid := ⟨1, [3, 1, 1, 1], [1, 2, 3]⟩

/-- The hypotheses of JobHaltsAndGathers. -/
theorem witness_JobHaltsAndGathers :
    (let s : State := { jobS {} {} none none with obs := { handling := [⟨1, clsJ, 0, 0, 7, 0x0301⟩] } }
     s.obs.handling.find? (fun h => h.cls == clsJ && h.ctx == 0 && h.code != 0x0811) = some ⟨1, clsJ, 0, 0, 7, 0x0301⟩ ∧ ctxExists s 0 = true ∧
      (ctxOf s 0).restart.phase = 0 ∧ jobCtx s 7 = some 0 ∧ 0 < gen16 1 (ctxOf s 0).epoch) ∧
    (let s := jobS { phase := 1, history := List.replicate 9 0 } {} none none
     (ctxOf s 0).restart.phase = 1 ∧ (ctxOf s 0).ckpt.limit < (ctxOf s 0).restart.history.length ∧ s.mem.upsets = []) ∧
    (let s := jobS { phase := 1, history := List.replicate 8 0 } { committed := some 5 } none none
     (ctxOf s 0).restart.phase = 1 ∧ (ctxOf s 0).restart.history.length ≤ (ctxOf s 0).ckpt.limit ∧ (ctxOf s 0).grid = none ∧
      (ctxOf s 0).restart.absent = [] ∧ (ctxOf s 0).restart.acks = [] ∧ (ctxOf s 0).restart.ackSent = false ∧ (ctxOf s 0).ckpt.committed = some 5) ∧
    (let s := jobS { phase := 1 } {} (some grid3) none
     jobCtx s 7 = some 0 ∧ (myKids s 0).elem 3 = true ∧ answered (ctxOf s 0) 3 = false ∧ (ctxOf s 0).restart.began + 50000000 ≤ s.clock.ns) ∧
    (let s := jobS { phase := 2 } { committed := some 5 } (some grid3) none
     (ctxOf s 0).restart.phase = 2 ∧ isRoot s 0 = true ∧ (ctxOf s 0).restart.began + 200000000 ≤ s.clock.ns ∧ gatherEpoch (ctxOf s 0) ≠ 0) := by
  refine ⟨?_, ?_, ?_, ?_, ?_⟩ <;> decide +kernel

/-- The hypotheses of JobRestores: a snapshot of the target, one under way from the mirror, and neither. -/
theorem witness_JobRestores :
    (jobCtx (jobS { phase := 2 } {} none none) 7 = some 0 ∧ (ctxOf (jobS { phase := 2 } {} none none) 0).restart.phase = 2) ∧
    (let s := jobS { phase := 3, target := 5 } { slots := [⟨5, 0, [], true⟩] } none none
     (ctxOf s 0).restart.phase = 3 ∧ s.net.reads.any (fun r => r.ctx == 0) = false ∧
      (match restoreData s 0 with | some u => decide (u.mem.upsets = []) | none => false) = true) ∧
    (let s : State := { jobS { phase := 3, target := 5 } {} none none with net := (node []).net }
     (ctxOf s 0).restart.phase = 3 ∧ s.net.reads.any (fun r => r.ctx == 0) = true) ∧
    (restoreData (jobS { phase := 3, target := 5 } {} none none) 0 = none ∧ (jobS { phase := 3, target := 5 } {} none none).mem.upsets = []) ∧
    (let s := jobS { phase := 3, target := 5, restoreAt := some 0 } {} none none
     jobCtx s 7 = some 0 ∧ (ctxOf s 0).restart.phase = 3 ∧ (ctxOf s 0).restart.restored.elem 2 = false ∧ (ctxOf s 0).restart.restoreAt = some 0 ∧
      0 + (ctxOf s 0).ckpt.replaceWait * second ≤ s.clock.ns) ∧
    (let s := jobS { phase := 4, target := 5 } {} none none
     jobCtx s 7 = some 0 ∧ (ctxOf s 0).restart.phase = 4) := by
  refine ⟨?_, ?_, ?_, ?_, ?_, ?_⟩ <;> decide +kernel

/-- A twin on node 2. -/
def twin2 (paired : Bool) (filling : Option (Nat × Bool)) : Twin := { node := 2, paired := paired, incarnation := 4, filling := filling }

/-- A storage request. -/
def stor0 : StorReq := ⟨5, 0, 0, true, 0x40_0000, 64, 0, 0, []⟩

/-- The hypotheses of CheckpointsAndTwins. -/
theorem witness_CheckpointsAndTwins :
    (let s := jobS {} { copying := some 5, slots := [⟨4, 0, [], true⟩], committed := some 4 } none none
     (ctxOf s 0).ckpt.copying = some 5 ∧ (ctxOf s 0).restart.phase = 0 ∧
      (ctxOf s 0).ckpt.slots.any (fun v => (ctxOf s 0).ckpt.committed != some v.epoch) = false) ∧
    (let s := jobS {} {} (some grid3) none
     jobCtx s 7 = some 0 ∧ (ctxOf s 0).ckpt.readyKids.elem (3, 5) = false ∧ (kidsOf s 0 (ownNode0 s)).elem 3 = true ∧ (ctxOf s 0).ckpt.slots = []) ∧
    (let s := jobS {} { slots := [⟨4, 0, [], true⟩, ⟨5, 1, [], true⟩], committed := some 4 } none none
     jobCtx s 7 = some 0 ∧ (ctxOf s 0).ckpt.committed ≠ some 5 ∧ (ctxOf s 0).ckpt.slots.any (fun v => v.epoch == 5 && v.ready) = true) ∧
    (let s := jobS {} {} none (some (twin2 true (some (5, false))))
     (ctxOf s 0).twin = some (twin2 true (some (5, false))) ∧ (twin2 true (some (5, false))).paired = true ∧
      (twin2 true (some (5, false))).landing = none ∧ mirrorSent s 0 2 = true ∧
      (let o : NetOp := { opId := 1, ctx := 64, core := 0, flight := mirrorFlight, opc := opWrite, left := [8] }
       mirrorSent { s with net := { s.net with sessions := [(2, { isOpen := true, ops := [o] })] } } 0 2 = false) ∧
      (twin2 true none).filling ≠ some (5, false) ∧ { twin2 true none with landing := some 1 }.landing = some 1 ∧
      alive s = true ∧ serves s 1 = true ∧ (twin2 true none).lastBeat + 10000000 ≤ s.clock.ns) ∧
    (let s := jobS {} {} none (some (twin2 false none))
     s.sec.attestOk = true ∧ (reserveMirror s 0 (twin2 false none)).isSome = true ∧ (ctxOf s 0).ckpt.slots = [] ∧ [(⟨7, 0, none, []⟩ : BeatCtx)].find? (fun y => y.jobId == (ctxOf s 0).jobId) = some ⟨7, 0, none, []⟩ ∧
      (twin2 false none).paired = false ∧ (twin2 true none).incarnation = 4) ∧
    (let s : State := { node [] with ctxs := [(0, { ctxN [] with storage := [stor0] })] }
     (ctxOf s 0).storage.find? (fun r => r.seq == 5) = some stor0 ∧ stor0.truss = 0) := by
  refine ⟨?_, ?_, ?_, ?_, ?_, ?_⟩ <;> decide +kernel

/-- No other context has a twin. -/
theorem witness_CheckpointsAndTwins_alone : ∀ j, j ≠ 0 → (ctxOf (jobS {} {} none (some (twin2 true none))) j).twin = none := by
  intro j hj
  simp [ctxOf, jobS, node, look, Ne.symm hj]

/-! ## Messages -/

/-- A message of a mailbox about context 0. -/
def hdrM (box : Nat) : MsgHdr := ⟨box, 3, 0, 1, 0, false, 9⟩

/-- The mailbox as which firmware takes a message that no mailbox holds, whatever command of its header brings it. -/
def taker (s : State) (h : MsgHdr) (t : MsgType) : Option Nat := takes s (.status h) h t

/-- The types of the host's messages (R354, R430). -/
def allTypes : List MsgType :=
  [tHello, { code := 0x0002, kind := .priv }, { code := 0x0003, kind := .any, early := true, recov := true }, { code := 0x0004, kind := .own },
   { code := 0x0005, kind := .any, early := true }, { code := 0x0010, kind := .priv }, { code := 0x0011, kind := .priv, ctx := true },
   { code := 0x0014, kind := .own, ctx := true }, tLaunch, { code := 0x0040, kind := .priv }, { code := 0x0060, kind := .priv, svc := 1 },
   { code := 0x0061, kind := .own, ctx := true, svc := 1 }, { code := 0x0070, kind := .priv, recov := true, svc := 3 },
   { code := 0x0080, kind := .debug }, { code := 0x0088, kind := .debug, ctx := true }]

/-- The hypotheses of OneResponse and `Accepted`: each kind of type is taken from mailbox 0 of a device with context 0; an own type on mailbox 15
is refused; during a device recovery nothing but the early types is answered; and with a full outbox nothing is taken. -/
theorem witness_OneResponse :
    (∀ t ∈ allTypes, taker (node []) (hdrM 0) t = some 0 ∧ refuses (node []) 0 (hdrM 0) t = none) ∧
    (taker (node []) (hdrM 15) tLaunch = some 15 ∧ refuses (node []) 15 (hdrM 15) tLaunch = some stNotPrivileged) ∧
    taker { node [] with fw := { (node []).fw with linkUp := false } } (hdrM 0) tLaunch = none ∧
    ((hdrM 0).quiet = false ∧ (hdrM 0).src < 16 ∧ 16 ≤ (hdrM 16).src ∧ { hdrM 0 with quiet := true }.quiet = true) ∧
    (kindOk tLaunch.kind 5 = true ∧ tLaunch.ctx = true ∧ (ctxOf (node []) 0).mailbox ≠ 5) := by
  refine ⟨?_, ?_, ?_, ?_, ?_⟩ <;> decide +kernel

/-- A page of firmware in HBM. -/
def FwPage (r : Nat × Nat) : Prop := r.2 = 2097152 ∧ r.1 % 2097152 = 0

/-- The start of the aligned unit of `S` bytes of its stack that a page lies in. -/
def unitStart (S : Nat) (r : Nat × Nat) : Nat := r.1 / Config.stackBytes * Config.stackBytes + r.1 % Config.stackBytes / S * S

/-- A search for a page of HBM ends well where the stack has more aligned units that nothing maps than firmware has pages. -/
theorem findHbm_some (s : State) (st S start lo n : Nat) (hS : S = 2097152 ∨ S = 6291456) (hn : (lo + n) * S ≤ 20000 * 2097152)
    (hret : s.mem.retired = []) (hmap : ∀ p, lo ≤ p → p < lo + n → mappedDpa s (st * Config.stackBytes + p * S) S = false)
    (hal : ∀ r ∈ s.mem.fwRanges, FwPage r)
    (hlen : s.mem.fwRanges.length < n) :
    ∃ q, findHbm s st S start = some (st * Config.stackBytes + q * S) ∧ (q + 1) * S ≤ Config.stackBytes := by
  have hcnt : 0 < Config.stackBytes / S ∧ Config.stackBytes / S * S = Config.stackBytes := by rcases hS with rfl | rfl <;> decide
  have hsome : (findHbm s st S start).isSome = true := by
    by_contra hno
    rw [findHbm, Option.not_isSome_iff_eq_none, List.findSome?_eq_none_iff] at hno
    have hbusy : ∀ p, lo ≤ p → p < lo + n → (st * Config.stackBytes + p * S) ∈ s.mem.fwRanges.map (unitStart S) := by
      intro p hp hpn
      have hpc : p < Config.stackBytes / S := by
        rcases hS with rfl | rfl <;> simp only [Config.stackBytes] at * <;> omega
      have hx := hno ((p + Config.stackBytes / S - start % (Config.stackBytes / S)) % (Config.stackBytes / S))
        (List.mem_range.2 (Nat.mod_lt _ hcnt.1))
      have hm : (start + (p + Config.stackBytes / S - start % (Config.stackBytes / S)) % (Config.stackBytes / S)) % (Config.stackBytes / S) = p := by
        have h1 := Nat.mod_lt start hcnt.1
        have h2 := Nat.div_add_mod start (Config.stackBytes / S)
        rw [Nat.add_mod, Nat.mod_mod, ← Nat.add_mod]
        have h3 : start + (p + Config.stackBytes / S - start % (Config.stackBytes / S)) = p + Config.stackBytes / S * (start / (Config.stackBytes / S) + 1) := by
          rw [Nat.mul_add, Nat.mul_one]; omega
        rw [h3, Nat.add_mul_mod_self_left, Nat.mod_eq_of_lt hpc]
      simp only [hm] at hx
      have hf : freeHbm s (st * Config.stackBytes + p * S) S = false := by
        cases hb : freeHbm s (st * Config.stackBytes + p * S) S with
        | false => rfl
        | true => simp [hb] at hx
      have hfl : (st * Config.stackBytes + p * S) % Config.stackBytes + S ≤ fwFloor ((st * Config.stackBytes + p * S) / Config.stackBytes) * Config.page2 := by
        have hw := Nat.mod_lt (Config.fwPages ((st * Config.stackBytes + p * S) / Config.stackBytes)) (show 0 < 1024 by decide)
        simp only [fwFloor, Config.stackPages, poolPages, Config.page2, Config.stackBytes] at *
        rcases hS with rfl | rfl <;> omega
      simp only [freeHbm, hret, List.any_nil, Bool.not_false, Bool.and_true, hmap p hp hpn, decide_eq_true hfl, Bool.true_and, Bool.not_eq_false',
        List.any_eq_true] at hf
      obtain ⟨r, hr, ho⟩ := hf
      obtain ⟨hr2, hr1⟩ := hal r hr
      simp only [overlaps, Bool.and_eq_true, decide_eq_true_eq, hr2] at ho
      refine List.mem_map.2 ⟨r, hr, ?_⟩
      rw [unitStart]
      simp only [Config.stackBytes] at *
      rcases hS with rfl | rfl <;> omega
    have hinj : ((List.range n).map (fun i => st * Config.stackBytes + (lo + i) * S)).Nodup := by
      refine List.Nodup.map (fun a b h => ?_) List.nodup_range
      simp only [Config.stackBytes] at h
      rcases hS with rfl | rfl <;> omega
    have hsub : ((List.range n).map (fun i => st * Config.stackBytes + (lo + i) * S)) ⊆ s.mem.fwRanges.map (unitStart S) := by
      intro a ha
      obtain ⟨i, hi, rfl⟩ := List.mem_map.1 ha
      exact hbusy _ (Nat.le_add_right _ _) (Nat.add_lt_add_left (List.mem_range.1 hi) _)
    have := (List.subperm_of_subset hinj hsub).length_le
    simp at this
    omega
  obtain ⟨a, ha⟩ := Option.isSome_iff_exists.1 hsome
  obtain ⟨i, hi, hia⟩ := List.exists_of_findSome?_eq_some ha
  refine ⟨(start + i) % (Config.stackBytes / S), ?_, ?_⟩
  · rw [ha]
    dsimp only at hia
    split at hia
    · exact hia.symm
    · exact absurd hia (by simp)
  · have := Nat.mod_lt (start + i) hcnt.1
    have h2 := Nat.mul_le_mul_right S this
    rw [hcnt.2] at h2
    exact h2

/-- The same over the stacks of a partition, from the one the rotation reaches. -/
theorem takeHbm_some (s : State) (l : List Nat) (turn S start lo n : Nat) (hl : l ≠ []) (h8 : ∀ x ∈ l, x < 8) (hS : S = 2097152 ∨ S = 6291456)
    (hn : (lo + n) * S ≤ 20000 * 2097152) (hret : s.mem.retired = [])
    (hmap : ∀ st p, st < 8 → lo ≤ p → p < lo + n → mappedDpa s (st * Config.stackBytes + p * S) S = false)
    (hal : ∀ r ∈ s.mem.fwRanges, FwPage r)
    (hlen : s.mem.fwRanges.length < n) :
    ∃ t q, takeHbm s l turn S start = some (t * Config.stackBytes + q * S) ∧ (q + 1) * S ≤ Config.stackBytes := by
  have hp : 0 < l.length := List.length_pos_iff.2 hl
  have hx : ∀ i, nth l ((turn + i) % l.length) 0 < 8 := by
    intro i
    have hlt := Nat.mod_lt (turn + i) hp
    have : nth l ((turn + i) % l.length) 0 = l[(turn + i) % l.length] := by simp [nth, hlt]
    rw [this]
    exact h8 _ (List.getElem_mem hlt)
  have hone := fun i => findHbm_some s (nth l ((turn + i) % l.length) 0) S start lo n hS hn hret (fun p => hmap _ p (hx i)) hal hlen
  have hsome : (takeHbm s l turn S start).isSome = true := by
    obtain ⟨q, hq, -⟩ := hone 0
    rw [takeHbm, List.findSome?_isSome_iff]
    exact ⟨0, List.mem_range.2 hp, by rw [hq]; rfl⟩
  obtain ⟨a, ha⟩ := Option.isSome_iff_exists.1 hsome
  obtain ⟨i, hi, hia⟩ := List.exists_of_findSome?_eq_some ha
  obtain ⟨q, hq, hb⟩ := hone i
  exact ⟨_, q, by rw [ha, ← hia, hq], hb⟩

/-- What holds of every value of a table holds of the value at a key, and of a table with one more value of which it holds. -/
theorem look_all {α : Type} (P : α → Prop) (t : Tbl α) (d : α) (k : Nat) (h : ∀ e ∈ t, P e.2) (hd : P d) : P (look t d k) := by
  induction t with
  | nil => exact hd
  | cons e r ih =>
    rw [look]
    split
    · exact h _ List.mem_cons_self
    · exact ih (fun x hx => h x (List.mem_cons_of_mem _ hx))

theorem put_all {α : Type} (P : α → Prop) (t : Tbl α) (k : Nat) (v : α) (h : ∀ e ∈ t, P e.2) (hv : P v) : ∀ e ∈ put t k v, P e.2 := by
  induction t with
  | nil => intro e he; simp [put] at he; rw [he]; exact hv
  | cons x r ih =>
    have hr := ih (fun x hx => h x (List.mem_cons_of_mem _ hx))
    have hx := h x List.mem_cons_self
    intro e he
    rw [put] at he
    split at he
    · rcases List.mem_cons.1 he with rfl | he
      · exact hv
      · exact h _ (List.mem_cons_of_mem _ he)
    · split at he
      · rcases List.mem_cons.1 he with rfl | he
        · exact hv
        · exact h _ he
      · rcases List.mem_cons.1 he with rfl | he
        · exact hx
        · exact hr _ he

/-- The pages of a unit of 6 MiB. -/
theorem page_of_unit (t q i : Nat) : FwPage (t * Config.stackBytes + q * 6291456 + i * 2097152, 2097152) := by
  refine ⟨rfl, ?_⟩
  have h : t * Config.stackBytes + q * 6291456 + i * 2097152 = (24576 * t + 3 * q + i) * 2097152 := by
    simp only [Config.stackBytes]
    omega
  simp only [h, Nat.mul_mod_left]

/-- A page of a stack. -/
theorem page_fw (t q : Nat) : FwPage (t * Config.stackBytes + q * 2097152, 2097152) := by
  refine ⟨rfl, ?_⟩
  have h : t * Config.stackBytes + q * 2097152 = (24576 * t + q) * 2097152 := by
    simp only [Config.stackBytes]
    omega
  simp only [h, Nat.mul_mod_left]

/-- Homes found for at most 320 cores of a context on a device where no page is mapped. -/
theorem reserveHomes_some (k part : Nat) (hl : stacksOf ready0.place part ≠ [] ∧ ∀ x ∈ stacksOf ready0.place part, x < 8) (l : List Nat) :
    ∀ s : State, s.place = ready0.place → s.mem.retired = [] → (∀ e ∈ s.ctxs, e.2.pages = []) →
      (∀ r ∈ s.mem.fwRanges, FwPage r) → s.mem.fwRanges.length + 3 * l.length < 1200 → ∃ t, l.foldlM (fun s n => reserveHome s k part n) s = some t := by
  induction l with
  | nil => exact fun s _ _ _ _ _ => ⟨s, rfl⟩
  | cons n l ih =>
    intro s hpl hret hpg hal hlen
    simp only [List.length_cons] at hlen
    rw [← hpl] at hl
    obtain ⟨t, q, ht, hq⟩ := takeHbm_some s (stacksOf s.place part) s.mem.allocs 6291456 (Config.pageStart s.mem.allocs) 0 1200 hl.1 hl.2
      (.inr rfl) (by decide) hret (fun st p _ _ _ => by
        simp only [mappedDpa, List.any_eq_false]
        intro e he
        simp [hpg e he]) hal (by omega)
    have hpx : (ctxOf s k).pages = [] := look_all (fun x : Ctx => x.pages = []) s.ctxs {} k hpg rfl
    rw [List.foldlM_cons]
    simp only [reserveHome, homeBytes, Config.page2, show 3 * 0x20_0000 = 6291456 from rfl, ht]
    refine ih _ hpl hret ?_ ?_ ?_
    · exact put_all (fun x : Ctx => x.pages = []) s.ctxs k _ hpg hpx
    · intro r hr
      simp only [setCtx, clearMem, List.mem_append, List.mem_map, List.mem_range] at hr
      rcases hr with hr | ⟨_, ⟨i, hi, rfl⟩, rfl⟩
      · exact hal r hr
      · exact page_of_unit t q i
    · simp only [setCtx, clearMem, List.length_append, List.length_map, List.length_range]
      omega

/-- The device ready with context 0 as given, on the whole device, named by a message of mailbox 0. -/
def msgS (x : Ctx) : State := { node [] with ctxs := [(0, x)] }

/-- A context idle, with a program header of level 3 at its code page. -/
def idleS (tw : Option Twin) : State :=
  { node [] with
    ctxs := [(0, { ctxA with st := .idle, launched := false, launch := [], twin := tw })]
    mem := { cells := [(0x20_0000, 0x54), (0x20_0001, 0x42), (0x20_0002, 0x58), (0x20_0003, 0x4A), (0x20_0004, 3), (0x20_0005, 1),
      (0x20_0008, 8), (0x20_000C, 64)] } }

/-- The hypotheses of ContextMessages: HELLO with a ring and without, of another mailbox, CONTEXT_STOP with and without a launch,
CONTEXT_RESUME, and a launch of cores 0 and 319, held and not. -/
theorem witness_ContextMessages :
    (taker (node []) (hdrM 0) tHello = some 0 ∧ taker (node []) (hdrM 1) tHello = some 1 ∧ (hdrM 0).src < 16 ∧ 0x1_0000 % 4096 = 0) ∧
    (ctxOf (node []) 0).launched = true ∧ (ctxOf (idleS none) 0).launched = false ∧
    (∀ tw ∈ [none, some { node := 2, replace := true }], let s := idleS tw
      let es := [⟨0, 0x20_0000, 1, false⟩, ⟨319, 0x20_0000, 2, false⟩]
      launchStatus s 0 es false = stOk ∧ headerRsv s 0 es = false ∧ replacePending (ctxOf s 0) = tw.isSome ∧
        (taker s (hdrM 0) tLaunch = some 0 ∧ refuses s 0 (hdrM 0) tLaunch = none)) ∧
    (let s := msgS { ctxA with st := .paused }
     (ctxOf s 0).st = .paused ∧ (partSt s.place (ctxOf s 0).part).unavailable = false ∧
      (partSt ({ s with place := { s.place with parts := [(0, { unavailable := true })] } } : State).place (ctxOf s 0).part).unavailable = true ∧ taker s (hdrM 0) { code := 0x0013, kind := .own, ctx := true } = some 0 ∧
      refuses s 0 (hdrM 0) { code := 0x0013, kind := .own, ctx := true } = none) ∧
    policyOk ⟨1, 24, 30, 1, 65535, 255, 1, false⟩ = true ∧ routeOk (node []) 0 0 = true ∧
    (freeCtx ready0 = some 0 ∧ (partNums ready0.place).elem 0 = true ∧ (partSt ready0.place 0).unavailable = false ∧
      taker ready0 (hdrM 0) { code := 0x0010, kind := .priv } = some 0 ∧ refuses ready0 0 (hdrM 0) { code := 0x0010, kind := .priv } = none) := by
  refine ⟨?_, ?_, ?_, ?_, ?_, ?_, ?_, ?_⟩ <;> decide +kernel

/-- A device with no context has homes for the images of a context of the whole device. -/
theorem witness_ContextMessages_homes : ∃ s1, reserveHomes (setCtx { untake ready0 (hdrM 0) { code := 0x0010, kind := .priv } with
    cores := ready0.cores.filter (fun e => e.1 / 512 != 0), obs := clearCtxCounters ready0.obs 0 } 0 {
      part := 0, mailbox := 1, hostLoss := 0, route := 0, jobId := 7, manager := 0, watchdogMs := 100, st := .idle }) 0 0 = some s1 := by
  have h : (coresOf ready0.place 0).length < 399 :=
    Nat.lt_of_le_of_lt (List.length_filter_le _ _) (by rw [List.length_range]; omega)
  refine reserveHomes_some 0 0 (by decide) (coresOf ready0.place 0) _ rfl rfl ?_ ?_ ?_
  · exact put_all (fun x : Ctx => x.pages = []) [] 0 _ (fun e he => absurd he List.not_mem_nil) rfl
  · exact fun r hr => absurd hr List.not_mem_nil
  · generalize (coresOf ready0.place 0).length = m at h
    exact Nat.lt_of_le_of_lt (Nat.le_of_eq (Nat.zero_add (3 * m))) (by omega)

/-- Context 0 without a page. -/
def bareS : State := msgS { ctxA with pages := [] }

/-- A free page of HBM is found for a context on a device where nothing is mapped. -/
theorem witness_MemoryMessages_page : ∃ a, takeHbm bareS (stacksOf bareS.place (ctxOf bareS 0).part) (ctxOf bareS 0).turn Config.page2
    (Config.pageStart bareS.mem.allocs) = some a := by
  obtain ⟨t, q, h, -⟩ := takeHbm_some bareS (stacksOf bareS.place (ctxOf bareS 0).part) (ctxOf bareS 0).turn 2097152 (Config.pageStart bareS.mem.allocs)
    0 1 (by decide) (by decide) (.inl rfl) (by decide) rfl (fun _ _ _ _ _ => rfl) (fun r hr => absurd hr List.not_mem_nil) (by decide)
  exact ⟨_, h⟩

/-- The hypotheses of MEM_ALLOC of a page of HBM and of a page of Thatch. -/
theorem witness_MemoryMessages_alloc :
    (rangeOk 0x60_0000 Config.page2 Config.page2 = true ∧ someMapped (ctxOf bareS 0).pages 0x60_0000 Config.page2 = false ∧
      quotaOk bareS (ctxOf bareS 0).part Config.page2 = true ∧ taker bareS (hdrM 0) { code := 0x0018, kind := .own, ctx := true } = some 0 ∧
      refuses bareS 0 (hdrM 0) { code := 0x0018, kind := .own, ctx := true } = none) ∧
    ((List.range (Config.page2 / Config.page2)).map (fun i => 0x60_0000 + i * Config.page2) = [0x60_0000]) ∧
    (([0x60_0000].foldlM (allocThatch (ctxOf bareS 0).part 0 3) (untake bareS (hdrM 0) { code := 0x0018, kind := .own, ctx := true })).isSome = true) ∧
    (3#8 : BitVec 8).toNat < 16 := by
  refine ⟨?_, ?_, ?_, ?_⟩ <;> decide +kernel

/-- The hypotheses of MemoryMessages on ranges: the data page of context 0. -/
theorem witness_MemoryMessages_range :
    (rangeOk 0x40_0000 0x20_0000 Config.page2 = true ∧ allMapped (ctxOf (msgS ctxA) 0).pages 0x40_0000 0x20_0000 = true ∧
      pinned (ctxOf (msgS ctxA) 0) 0x40_0000 0x20_0000 = false ∧
      (∀ n ∈ launchCores (ctxOf (msgS ctxA) 0), flightsOf (coreOf (msgS ctxA) 0 n) .stream = [])) ∧
    (MemCanonical (msgS ctxA) ∧ (msgS ctxA).mem.upsets = [] ∧ copyOk (ctxOf (msgS ctxA) 0) 0x40_0000 0x20_0000 = true ∧ (0x20_0000 = Config.page2) ∧
      (pageVas 0x40_0000 0x20_0000).all (fun v => match pageOf (ctxOf (msgS ctxA) 0).pages v with | some (p, _) => !p.x | none => true) = true) := by
  refine ⟨?_, ⟨rfl, rfl⟩, rfl, ?_, ?_, ?_⟩ <;> decide +kernel

/-- Node 1 at 4 ms, a binding of truss 7 of job 7 with generation 0 ended at `t`, one of region 8 and one of group 9 too. -/
def endedS (t : Nat) : State :=
  { node [] with
    clock := { ns := 4000000 }
    net := { (node []).net with unbound := [⟨7, 0, 7, 0, t⟩, ⟨7, 1, 8, 0, t⟩, ⟨7, 2, 9, 0, t⟩] } }

/-- The hypotheses of MemoryMessages on trusses and regions: the highest VTID, both modes, both kinds of end, a binding 4 ms old and one not,
and a reserved core. -/
theorem witness_MemoryMessages_names :
    (trussValid (node []) 0 0xF_FFFF 0 0xFF 255 65535 [] [] false = true ∧ trussValid (node []) 0 1 1 3 0 1 [] [.core 319] false = true ∧
      (trussOf (node []) 0 0xF_FFFF).bound = false ∧ (trussHome (node []) 0 0xFF []).isSome = true ∧ (trussHome (node []) 0 3 [.core 319]).isSome = true) ∧
    ((3 : Nat) < 0x10_0000 ∧ (trussOf (node []) 0 3).bound = true ∧ (trussOf (node []) 0 3).waiters = []) ∧
    (regionMapped (node []) (ctxOf (node []) 0) 0x40_0000 64 = true ∧ (look (ctxOf (node []) 0).regions {} 0xFFFF_FFFF).bound = false ∧
      ((ctxOf (node []) 0).regions.filter (fun e => e.2.bound)).length < 4096) ∧
    (look (ctxOf (node []) 0).regions {} 4).bound = true ∧
    (∀ t : Nat, (t = 0 → boundLately (endedS t) 0 0 7 false false 0 = false ∧ boundLately (endedS t) 0 1 8 false false 0 = false ∧
        boundLately (endedS t) 0 2 9 false false 0 = false) ∧
      (t = 1 → boundLately (endedS t) 0 0 7 false false 0 = true ∧ boundLately (endedS t) 0 1 8 false false 0 = true ∧
        boundLately (endedS t) 0 2 9 false false 0 = true)) ∧
    [Member.core 319, .core 320].any badCore = true := by
  refine ⟨?_, ?_, ?_, ?_, fun t => ⟨?_, ?_⟩, by decide⟩
  all_goals first
    | decide +kernel
    | (rintro rfl; decide +kernel)

/-- The hypotheses of MemoryMessages on the device: a layout that keeps context 0's unit, a slice of each mode, and a partition. -/
theorem witness_MemoryMessages_device :
    (let p := List.replicate 16 0
     p.length = 16 ∧ p.all (unitOk p) = true ∧
      (List.range 16).any (fun b => unitMoves (node []).place p b && ctxNums.any (fun k => ctxExists (node []) k && partOfBay (node []).place b == (ctxOf (node []) k).part)) = false ∧
      (List.range 16).any (fun b => !((unitBays p (nth p b 16)).length == 1) && nth p b 0 != 0) = false) ∧
    (sliceMode (node []).mem (44 * 3 + 43) ≠ .retired ∧
      sliceUnmapped (giveBack (untake (node []) (hdrM 0) { code := 0x0041, kind := .priv }) (44 * 3 + 43)) (44 * 3 + 43) = true) ∧
    ((partNums (node []).place).elem 0 = true ∧ [1320, 990, 825, 550].length = 4 ∧
      [1320, 990, 825, 550].all (fun f => f % 5 == 0 && decide (550 ≤ f) && decide (f ≤ 1320)) = true ∧ ctxExists (node []) 0 = true ∧ 0 ≠ 0xFF) := by
  refine ⟨?_, ?_, ?_⟩ <;> decide +kernel

/-- A layout whose quotas are 0 asks no HBM of a base die. -/
theorem witness_MemoryMessages_quota :
    (List.range 4).any (fun d => decide (dieGb (node []) d < ((List.range 4).map (fun i => nth (List.replicate 16 0) (4 * d + i) 0)).sum)) = false := by
  rw [List.any_eq_false]
  intro d hd
  have h : ((List.range 4).map (fun i => nth (List.replicate 16 0) (4 * d + i) 0)).sum = 0 := by
    have := List.mem_range.1 hd
    interval_cases d <;> rfl
  rw [h]
  simp

/-- Node 1 with a grid of nodes 1 and 2 and a state range, launched or not. -/
def gridS (launched : Bool) (tw : Option Twin) : State :=
  { node [] with
    ctxs := [(0, { ctxA with launched := launched, grid := some ⟨1, [2, 1, 1, 1, 1, 1], [1, 2]⟩, ckpt := { ranges := [(0x40_0000, 4096)] }, twin := tw })]
    net := { (node []).net with ctrls := [(31, ⟨4, 4420, 64, 1024, 0, [], [4096]⟩)] } }

/-- The hypotheses of NetworkMessages on ports, tables, the identity and the grid. -/
theorem witness_NetworkMessages_net :
    (octetPorts 15 3).any (fun p => decide (nth (List.replicate 8 9194) (p % 8) 0 < 4220) || decide (9194 < nth (List.replicate 8 9194) (p % 8) 0)) = false ∧
    ([(0xF_FFFF, 1), (1, 2)].any (fun e : Nat × Nat => decide (0x10_0000 ≤ e.1)) = false ∧ distinct ([(0xF_FFFF, 1), (1, 2)].map (fun e : Nat × Nat => e.1)) = true) ∧
    ([(1, 1), (2, 0), (0, 0), (0, 0)].length = 4 ∧ [(1, 1), (2, 0), (0, 0), (0, 0)].any (fun e : Nat × Nat => decide (0x10_0000 ≤ e.1) || decide (1 < e.2)) = false) ∧
    (anyCtx ready0 = false ∧ identityOk { ident with dscp := List.replicate 8 63 } = true) ∧
    (gridOk (node []) 0 1 [2, 1, 1, 1, 1, 1] [1, 2] = true ∧ anyGroup (ctxOf (gridS true none) 0) = false ∧ gridOk (gridS true none) 0 1 [2, 1, 1, 1, 1, 1] [1, 2] = true) := by
  refine ⟨?_, ?_, ?_, ?_, ?_⟩ <;> decide +kernel

/-- The hypotheses of NetworkMessages on groups, storage, checkpoints and twins. -/
theorem witness_NetworkMessages_jobs :
    (groupMembers (gridS true none) 0 255 0 [2, 1, 1, 1, 1, 1] [] = some ([1, 2], some 0) ∧ groupMembers (gridS true none) 0 4111 2 (List.replicate 6 0) [2, 1] = some ([2, 1], some 1) ∧
      writable (ctxOf (gridS true none) 0) 0x40_0000 2 = true ∧ (look (ctxOf (gridS true none) 0).groups {} 255).bound = false ∧
      ((ctxOf (gridS true none) 0).groups.filter (fun e => e.2.bound && e.1 / 4096 == 1)).length < 16) ∧
    ((look (ctxOf (node []) 0).groups {} 5).bound = true ∧ (ctxOf (node []) 0).colls.any (fun c => c.gid == 5) = false) ∧
    ((dropQps (gridS true none).net.qps 31).length + 64 + 1 ≤ 1024 ∧
      (gridS true none).net.ctrls.find? (fun e => e.1 == 31) = some (31, ⟨4, 4420, 64, 1024, 0, [], [4096]⟩) ∧
      (storSegs (ctxOf (gridS true none) 0) 0x40_0000 4096 .write).isSome = true ∧ (storSegs (ctxOf (gridS true none) 0) 0x40_0000 4096 .read).isSome = true ∧
      (ctxOf (gridS true none) 0).storage.length < 1024) ∧
    ((ctxOf (gridS false none) 0).launched = false ∧ (ctxOf (gridS false none) 0).grid ≠ none ∧
      ckptOk (gridS false none) (ctxOf (gridS false none) 0) (2 ^ 31) 255 3600 [(0x40_0000, 4096)] = true) ∧
    (twinOk (gridS true none) (ctxOf (gridS true none) 0) 2 0 0 false = true ∧ (0#8).getLsbD 0 = false ∧
      mirrorReserved (gridS true none) + 2 * stateBytes (ctxOf (gridS true none) 0).ckpt.ranges ≤ 96 * Config.page1g) ∧
    (twinOk (gridS true (some (twin2 true none))) (ctxOf (gridS true (some (twin2 true none))) 0) 2 1 0 false = true ∧ (1#8).getLsbD 0 = true) := by
  refine ⟨?_, ?_, ?_, ?_, ?_, ?_⟩ <;> decide +kernel

/-- The two pages of a checkpoint's slots are found: of the pages from the fourth on, nothing maps one. -/
theorem witness_NetworkMessages_slots : ∃ s2 l, (List.range (2 * ((stateBytes [(0x40_0000, 4096)] + Config.page2 - 1) / Config.page2))).foldlM
    (reserveSlotPage (ctxOf (gridS false none) 0).part)
    (freePages (untake (gridS false none) (hdrM 0) { code := 0x0068, kind := .priv, ctx := true, svc := 1 }) (ctxOf (gridS false none) 0).ckpt.pages.flatten, [])
      = some (s2, l) := by
  have hm : ∀ (s : State), s.ctxs = (gridS false none).ctxs → ∀ st p, st < 8 → 4 ≤ p → p < 4 + 5 → mappedDpa s (st * Config.stackBytes + p * 2097152) 2097152 = false := by
    intro s hs st p h8 hp _
    simp only [mappedDpa, hs, gridS, ctxA, pg, List.any_cons, List.any_nil, Bool.or_false, Bool.true_and, Bool.false_eq_true, if_false, overlaps, Config.stackBytes, Config.page2,
      Bool.or_eq_false_iff, Bool.and_eq_false_iff, decide_eq_false_iff_not, Nat.not_lt]
    omega
  have hs : ∀ s : State, s.place = (gridS false none).place → stacksOf s.place (ctxOf (gridS false none) 0).part = [0, 1, 2, 3, 4, 5, 6, 7] := by
    intro s h; rw [h]; rfl
  have hn : List.range (2 * ((stateBytes [(0x40_0000, 4096)] + Config.page2 - 1) / Config.page2)) = [0, 1] := by decide
  have hone : ∀ (l : List Nat) (e : State × List Nat), e.1.place = (gridS false none).place → e.1.ctxs = (gridS false none).ctxs → e.1.mem.retired = [] →
      (∀ r ∈ e.1.mem.fwRanges, FwPage r) →
      e.1.mem.fwRanges.length + l.length < 5 → ∃ x, l.foldlM (reserveSlotPage (ctxOf (gridS false none) 0).part) e = some x := by
    intro l
    induction l with
    | nil => exact fun e _ _ _ _ _ => ⟨e, rfl⟩
    | cons n l ih =>
      intro e hp hc hr hal hlen
      simp only [List.length_cons] at hlen
      obtain ⟨t, q, ht, hq⟩ := takeHbm_some e.1 [0, 1, 2, 3, 4, 5, 6, 7] e.1.mem.allocs 2097152 (Config.pageStart e.1.mem.allocs) 4 5 (by decide) (by decide)
        (.inl rfl) (by decide) hr (hm e.1 hc) hal (by omega)
      rw [← hs e.1 hp] at ht
      rw [List.foldlM_cons]
      simp only [reserveSlotPage, Config.page2, ht]
      refine ih _ hp hc hr ?_ ?_
      · intro r hr'
        simp only [List.mem_append, List.mem_singleton] at hr'
        rcases hr' with hr' | rfl
        · exact hal r hr'
        · exact page_fw t q
      · simp only [List.length_append, List.length_singleton]
        omega
  rw [hn]
  obtain ⟨x, hx⟩ := hone [0, 1]
    (freePages (untake (gridS false none) (hdrM 0) { code := 0x0068, kind := .priv, ctx := true, svc := 1 }) (ctxOf (gridS false none) 0).ckpt.pages.flatten, [])
    rfl rfl rfl (fun r hr => absurd hr List.not_mem_nil) (by decide)
  exact ⟨x.1, x.2, hx⟩

/-- The hypotheses of NetworkMessages on images: a stage that begins and one that goes on, an activation, a commit and a rollback. -/
theorem witness_NetworkMessages_images :
    ((updAt ready0 2).phase < 3 ∧ (1#8).getLsbD 0 = true ∧ (1#8).getLsbD 1 = false ∧ (1#8 : BitVec 8).toNat < 8 ∧
      (none : Option (Nat × Nat)).isSome = (1#8).getLsbD 2 ∧ (some (0x1000, 4) : Option (Nat × Nat)).isSome = (4#8).getLsbD 2 ∧
      0 + (stagedPiece [1] (some (0x1000, 4))).length ≤ 4) ∧
    ((updAt (updS 2 { phase := 1, total := 10 }) 2).phase = 1 ∧ 10 = (updAt (updS 2 { phase := 1, total := 10 }) 2).total ∧ (0#8).getLsbD 0 = false) ∧
    ((updAt (updS 2 { phase := 2 }) 2).phase = 2 ∧ (updS 2 { phase := 2 }).fw.recoveryBoot = false) ∧
    ((updAt (updS 2 { phase := 4, old := some {} }) 2).phase = 4 ∧ (updAt (updS 2 { phase := 4, old := some {} }) 2).old = some {} ∧
      (updS 2 { phase := 4, old := some {} }).clock.ns ≤ (updAt (updS 2 { phase := 4, old := some {} }) 2).actAt + (updAt (updS 2 { phase := 4, old := some {} }) 2).commit * second) := by
  decide +kernel

/-! ## Debug, the sideband, the responder and the host's registers -/

/-- The hypotheses of DebugMessages. -/
theorem witness_DebugMessages :
    ((256 % 256 = 0 ∧ (31#8 : BitVec 8).toNat < 32) ∧
      (tracePages (freePages { untake ready0 (hdrM 0) { code := 0x0081, kind := .priv } with obs := { ready0.obs with pages := [] } } ready0.obs.pages)
        (16 * (256 / 256 - 1))).isSome = true) ∧
    (filterOk 3 63 = true ∧ debugCore (node []) 0 319 = true ∧ bpOk 7 1 0 0 false = true ∧ bpOk 11 1 30 3 false = true) ∧
    ((ctxOf (node []) 0).st = .running ∧ (ctxOf (node []) 0).haltReq = 0 ∧ has (node []).cores (coreKey 0 0) = true) ∧
    (let s := msgS { ctxA with st := .halted, haltReq := 3 }
     (ctxOf s 0).st = .halted ∧ (partSt s.place (ctxOf s 0).part).unavailable = false ∧ debugCore s 0 0 = true ∧ (coreOf s 0 0).active = true ∧ (coreOf s 0 0).ended = false ∧
      taker s (hdrM 15) { code := 0x008A, kind := .debug, ctx := true } = some 15 ∧ refuses s 15 (hdrM 15) { code := 0x008A, kind := .debug, ctx := true } = none) := by
  refine ⟨?_, ?_, ?_, ?_⟩ <;> decide +kernel

/-- The hypotheses of SidebandAnswers. -/
theorem witness_SidebandAnswers : sidebandUp ready0 = true ∧ sidebandUp { ready0 with board := { low := [14] } } = false ∧
    (sidebandUp (bootS 4 0) = true ∧ (bootS 4 0).fw.stage < 5) := by decide

/-- READY with the responder's connections and sessions as given, over a session of Furlong with node 2. -/
def spdmS (l : List Spdm) (ok : Bool) : State := { node [] with sec := { spdm := l, attestOk := ok }, net := { (node []).net with managers := [(2, 0)] } }

/-- The hypotheses of ResponderAnswers: each transport, each phase, a session that awaits FINISH and one established. -/
theorem witness_ResponderAnswers :
    (∀ v ∈ [SpdmVia.doe, .mctp, .furlong 2], spdmUp (spdmS [] true) v = true ∧ phaseOf (spdmS [] true) v < 3) ∧
    (spdmUp { ready0 with board := { low := [14] } } .mctp = false ∧ phaseOf (spdmS [] true) .doe = 0 ∧
      spdmUp { spdmS [] true with fw := { (spdmS [] true).fw with linkUp := false } } .doe = false ∧ spdmUp (spdmS [] true) (.furlong 3) = false) ∧
    (∀ n ∈ [1, 2, 3], phaseOf (spdmS [{ via := .furlong 2, phase := n }] true) (.furlong 2) = n) ∧
    ((spdmS [] true).sec.attestOk = true ∧ (sessionsOf (spdmS [] true) .doe).length < 4 ∧ (spdmS [] false).sec.attestOk = false) ∧
    (let s := spdmS [{ via := .furlong 2, phase := 3 }, { via := .furlong 2, session := true }, { via := .furlong 2, phase := 1, session := true }] true
     3 ≤ phaseOf s (.furlong 2) ∧ s.sec.spdm.any (awaitsFinish (.furlong 2)) = true ∧ s.sec.spdm.any (established (.furlong 2)) = true ∧
      s.net.managers.any (fun m => m.1 == 2) = true) := by
  decide +kernel

/-- A mailbox whose buffer holds the header of a message of a type, with the major version given. -/
def mailS (type ver : Nat) : State :=
  { node [] with fw := { (node []).fw with boxes := [(0, { buf := [(0, BitVec.ofNat 32 (type * 0x1_0000 + ver)), (1, 1)] })] } }

/-- Whether a message in mailbox 0 is held. -/
def heldBy (s : State) : Option Nat :=
  let r := readMsg 0 (boxBytes (look s.fw.boxes {} 0))
  submitRefusal s.fw.msgMinor 0 r.1 r.2.1 r.2.2 ((boxBytes (look s.fw.boxes {} 0)).drop 32)

/-- The hypotheses of HostAccess on BAR0. -/
theorem witness_HostAccess_bar0 :
    barUp (node []) = true ∧ pairValue (node []) 0x4050 ≠ none ∧ (pairValue (node []) 0x4054 = none ∧ (pairValue (node []) (0x4054 - 4)).isSome = true) ∧
    ((0x0000_FF01#32).getLsbD 0 = true ∧ (0x0000_FF01#32).toNat / 256 % 256 = 0xFF) ∧ ((0xFFC : Nat) % 4 = 0 ∧ 0xFFC < 0x1000) ∧
    (boxBusy (node []) 15 = false ∧ boxBusy { node [] with fw := { (node []).fw with linkUp := false } } 15 = true) ∧
    (boxBusy (mailS 3 3) 0 = false ∧ heldBy (mailS 3 3) = none ∧ heldBy (mailS 3 2) = some 2) := by
  refine ⟨?_, ?_, ?_, ?_, ?_, ?_, ?_⟩ <;> decide +kernel

/-- A mailbox that holds a STATUS and whose buffer holds a message of another major version. -/
def mailHeld : State :=
  { mailS 3 2 with fw := { (mailS 3 2).fw with boxes := put (mailS 3 2).fw.boxes 0 { look (mailS 3 2).fw.boxes {} 0 with taken := [(hdrM 0, 3, [])] } } }

/-- A message refused when submitted is answered after the one before it (R345). -/
theorem test_refused_in_order :
    heldBy mailHeld = some 2 ∧ boxBusy mailHeld 0 = false ∧ (look mailHeld.fw.boxes {} 0).taken ≠ [] ∧
    (match exec (.submit 0 1) mailHeld with
      | .next t => decide (t.fw.outbox.waiting = [] ∧ (look t.fw.boxes {} 0).late.length = 1) &&
        (match exec (.status (hdrM 0)) t with
          | .next u => decide (u.fw.outbox.waiting.map (fun r => r.status) = [0, 2] ∧ (look u.fw.boxes {} 0).late = [])
          | _ => false)
      | _ => false) = true := by
  decide +kernel

/-- Window 15 open on the page at 4 MiB or on what no window reaches. -/
def winS (base : Nat) (en : Bool) : State := { node [] with host := { windows := [(15, { base := base, writeEn := true, enable := en })] } }

/-- The hypotheses of HostAccess on BAR2: a closed window, one on memory and one beyond it, open to writes and not. -/
theorem witness_HostAccess_bar2 :
    (barUp (winS 0 false) = true ∧ (windowAt (winS 0 false) 15).enable = false) ∧
    ((winS Config.scratchDpa true).fw.recovering = false ∧ (windowAt (winS Config.scratchDpa true) 15).enable = true ∧
      (∀ i, i < 8 → reachOf (winS Config.scratchDpa true) ((windowAt (winS Config.scratchDpa true) 15).base + 56 + i) = .plain) ∧
      (windowAt (winS Config.scratchDpa true) 15).writeEn = true ∧ Memory.wf (winS Config.scratchDpa true).mem = true ∧
      risingWf (winS Config.scratchDpa true).mem.poison = true ∧ (winS Config.scratchDpa true).mem.upsets = []) ∧
    reachOf (winS (2 ^ 60) true) ((windowAt (winS (2 ^ 60) true) 15).base + 0 + 0) = .refused ∧
    (windowAt { winS 0 true with host := { windows := [(15, { enable := true })] } } 15).writeEn = false := by
  refine ⟨?_, ?_, ?_, ?_⟩ <;> decide +kernel

/-! ## The block as a whole -/

/-- A WTOK of core 0. -/
def wtokW (code : BitVec 32) : Instr := .wtok 0 ⟨0, false, 0, 0, 0, 0, code⟩

/-- The hypotheses of the statements about the block: a step that answers next, on an empty queue and with a command in front, words that
spell a command, memory in its canonical form, and scale bytes. -/
theorem witness_block :
    (∃ t, step (run coreA) = .next t) ∧ (∃ t, step { run coreA with pending := [.hostAlive (hdrM 0) 5 false] } = .next t) ∧
    (∃ c b, encodeProgram (wtokW 0) = some (c, b)) ∧ Memory.wf (run coreA).mem = true ∧ (0 < 255 ∧ 254 < 255) :=
  ⟨⟨_, rfl⟩, ⟨_, rfl⟩, ⟨_, _, rfl⟩, rfl, by decide⟩

/-! ## Well-formedness: an ill-formed term for each check is refused, and its neighbour in range is not -/

theorem test_wf_core : wellFormed (.mma 320 (.run 0)) = false ∧ wellFormed (.mma 319 (.run 0)) = true := by decide
theorem test_wf_phys : wellFormed (.coreLogicFault 336) = false ∧ wellFormed (.coreLogicFault 335) = true := by decide
theorem test_wf_chan : wellFormed (.hbmPostPackageRepair [0, 256]) = false ∧ wellFormed (.hbmPostPackageRepair [0, 255]) = true := by decide
theorem test_wf_page : wellFormed (.hbmPageRetire 196608) = false ∧ wellFormed (.hbmPageRetire 196607) = true := by decide
theorem test_wf_slice : wellFormed (.thatchSliceRetire 176) = false ∧ wellFormed (.thatchSliceRetire 175) = true := by decide
theorem test_wf_lanes : wellFormed (.chainGroupRemoved 4 5) = false ∧ wellFormed (.chainGroupRemoved 3 15) = true ∧ wellFormed (.laneDue 16 true 0) = false := by decide
theorem test_wf_port : wellFormed (.portTrained 128 ([200], true)) = false ∧ wellFormed (.portTrained 127 ([200], true)) = true := by decide
theorem test_wf_node : wellFormed (.packetSend 0x10_0000) = false ∧ wellFormed (.packetSend 0xF_FFFF) = true := by decide
theorem test_wf_packet : wellFormed (.collAbort (sealP { hdr2 opColl 5 1 0 9 0 0 with srcNode := 0x10_0000 } [])) = false := by decide +kernel
theorem test_wf_bay : wellFormed (.pllUnlock 16 0) = false ∧ wellFormed (.pllUnlock 15 2) = false ∧ wellFormed (.pllUnlock 15 1) = true := by decide
theorem test_wf_dies : wellFormed (.fastLoop [1, 2, 3] 0) = false ∧ wellFormed (.thermalSample (List.replicate 53 0) [0]) = false := by decide
theorem test_wf_sensor : wellFormed (.thermalTrip 61 0) = false ∧ wellFormed (.thermalTrip 60 0) = true := by decide
theorem test_wf_rail : wellFormed (.railUndervoltage 22) = false ∧ wellFormed (.railUndervoltage 21) = true := by decide
theorem test_wf_pair : wellFormed (.lockstepMismatch 4) = false ∧ wellFormed (.lockstepMismatch 3) = true := by decide
theorem test_wf_ctx : wellFormed (.jobHalt 64) = false ∧ wellFormed (.jobHalt 63) = true := by decide
theorem test_wf_target : wellFormed (.fwCommitTimeout 3) = false ∧ wellFormed (.fwCommitTimeout 2) = true := by decide
theorem test_wf_job : wellFormed (.resume 0x1_0000_0000) = false ∧ wellFormed (.resume 0xFFFF_FFFF) = true := by decide
theorem test_wf_area : wellFormed (.flashWrite 7 0 [] []) = false ∧ wellFormed (.flashWrite 6 0 [] []) = true := by decide
theorem test_wf_sideband : wellFormed (.entdaa 128) = false ∧ wellFormed (.entdaa 127) = true := by decide
theorem test_wf_header : wellFormed (.status (hdrM 20)) = false ∧ wellFormed (.status (hdrM 19)) = true := by decide
theorem test_wf_address : wellFormed (.memFree (hdrM 0) (2 ^ 64) 0) = false ∧ wellFormed (.memFree (hdrM 0) (2 ^ 64 - 1) 0) = true := by decide
theorem test_wf_lists : wellFormed (.oppointSet (hdrM 0) 0 [1] false) = false ∧ wellFormed (.partitionSet (hdrM 0) [0] []) = false := by decide
theorem test_wf_ptp : wellFormed (.ptpSyncReceive ⟨0, 5, .sync 0 false 0⟩ 0) = false ∧ wellFormed (.ptpSyncReceive ⟨0, 4, .sync 0 false 0⟩ 0) = true := by decide
theorem test_wf_hist : wellFormed (.histSample 32 0) = false ∧ wellFormed (.histSample 31 0) = true := by decide
theorem test_wf_registers : wellFormed (.submit 16 0) = false ∧ wellFormed (.mask 64 0) = false ∧ wellFormed (.baseLo 16 0) = false ∧
    wellFormed (.registerWrite 0x200_0000 0) = false ∧ wellFormed (.bar2Read 0x10_0000_0000 1 false) = false := by decide

/-! ## Words written out from the layouts of R43 and R44 and the opcodes of R48 -/

theorem test_decode_alu : decodeProgram 5 0x0400_C229_0000_0000 0 = .alu 5 ⟨0, false, 3, 1, 2, 9, 0x0⟩ := by decide
theorem test_decode_movhi : decodeProgram 5 0x0607_C000_8000_0001 0 = .movhi 5 ⟨0, false, 31, 0, 0, 0, 0x80000001⟩ := by decide
theorem test_decode_cmpi : decodeProgram 5 0x0803_FC05_FFFF_FFFF 0 = .cmpi 5 ⟨0, false, 15, 30, 0, 5, 0xFFFFFFFF⟩ := by decide
theorem test_decode_br : decodeProgram 5 0x0A98_0000_FFFF_FFFE 0 = .br 5 ⟨9, true, 0, 0, 0, 0, 0xFFFFFFFE⟩ := by decide
theorem test_decode_st : decodeProgram 5 0x0E00_22A3_0000_0008 0 = .st 5 ⟨0, false, 0, 17, 10, 3, 0x8⟩ := by decide
theorem test_decode_step : decodeProgram 5 0x1A00_0000_0000_0001 0 = .stepProgram 5 ⟨0, false, 0, 0, 0, 0, 0x1⟩ := by decide
theorem test_decode_end : decodeProgram 5 0x0200_0000_0000_0000 0 = .endProgram 5 ⟨0, false, 0, 0, 0, 0, 0x0⟩ := by decide
theorem test_decode_mma : decodeProgram 5 0x2007_D555_5790_4000 0x8142_2314_1234_5678 = .mma 5 (.issue ⟨0, false, true, 7, 85, 42, 65, 2748, 0, 129, 66, 35, 20, 0x12345678⟩) := by decide
theorem test_decode_mvm : decodeProgram 5 0x28F8_0000_0000_0000 0x0102_0300_0000_0000 = .mvm 5 (.issue ⟨15, true, false, 0, 0, 0, 0, 0, 0, 1, 2, 3, 0, 0x0⟩) := by decide
theorem test_decode_vop : decodeProgram 5 0x3000_0001_0020_0000 0x00FF_0000_0000_0000 = .vop 5 (.issue ⟨0, false, false, 0, 0, 0, 0, 2049, 0, 0, 255, 0, 0, 0x0⟩) := by decide
theorem test_decode_fetch : decodeProgram 5 0x4100_0000_001F_C000 0x0000_8000_FFFF_FFFF = .fetch 5 (.issue ⟨0, false, false, 0, 0, 0, 127, 0, 0, 0, 0, 128, 0, 0xFFFFFFFF⟩) := by decide
theorem test_decode_trussWait : decodeProgram 5 0x5100_0000_0000_0000 0x0021_2200_0000_0000 = .trussWait 5 (.issue ⟨0, false, false, 0, 0, 0, 0, 0, 0, 0, 33, 34, 0, 0x0⟩) := by decide
theorem test_decode_collReduce : decodeProgram 5 0x5D00_0000_0000_0000 0x0900_0000_0000_0003 = .collReduce 5 (.issue ⟨0, false, false, 0, 0, 0, 0, 0, 0, 9, 0, 0, 0, 0x3⟩) := by decide
theorem test_decode_privileged : decodeProgram 5 0xF300_0000_0000_0000 0 = .privilegedInstruction 5 0xF3 := by decide
theorem test_decode_reserved : ∀ o ∈ [0x00, 0x03, 0x11, 0x1E, 0x23, 0x47, 0x5E, 0xEF, 0xF4, 0xFF], decodeProgram 5 (BitVec.ofNat 64 (o * 2 ^ 56)) 0 = .illegalOpcode 5 (BitVec.ofNat 8 o) := by decide

/-! ## Results: single steps, expected values by hand from the rules named -/

/-- A core register after a command on the small state. -/
def regAfter (i : Instr) (x : Core) (r : Nat) : Option Word :=
  match exec i (run x) with
  | .next t => some (sreg (coreOf t 0 0) r)
  | _ => none

/-- Core 0's PC after a command. -/
def pcAfter (i : Instr) (x : Core) : Option Word :=
  match exec i (run x) with
  | .next t => some (coreOf t 0 0).pc
  | _ => none

/-- A core with S1 and S2 given, at the start of the code page. -/
def core2 (a b : Word) : Core := { coreA with sregs := [(1, a), (2, b)] }

-- R51: arithmetic wraps modulo 2^64; MULHU gives the high half, unsigned; shift counts use bits [5:0].
theorem test_alu_add_wraps : regAfter (.alu 0 (cw 3 1 2 0 0)) (core2 0xFFFF_FFFF_FFFF_FFFF 2) 3 = some 1 := by decide +kernel
theorem test_alu_mulhu : regAfter (.alu 0 (cw 1 1 2 9 0)) (core2 0xFFFF_FFFF_FFFF_FFFF 0xFFFF_FFFF_FFFF_FFFF) 1 = some 0xFFFF_FFFF_FFFF_FFFE := by decide +kernel
theorem test_alui_shift_count : regAfter (.alui 0 (cw 3 1 0 7 65)) (core2 0x8000_0000_0000_0000 0) 3 = some 0xC000_0000_0000_0000 := by decide +kernel
theorem test_alui_sign_extends : regAfter (.alui 0 (cw 3 1 0 0 0xFFFF_FFFF)) (core2 5 0) 3 = some 4 := by decide +kernel
-- R48: MOVHI keeps the low half; register 0 reads as zero (R42 and the table of registers) and keeps no write.
theorem test_movhi : regAfter (.movhi 0 (cw 1 0 0 0 0x8000_0001)) (core2 0x1234_5678_9ABC_DEF0 0) 1 = some 0x8000_0001_9ABC_DEF0 := by decide +kernel
theorem test_register0 : regAfter (.alui 0 (cw 0 1 0 0 1)) (core2 5 0) 0 = some 0 := by decide +kernel
-- R48: BR and JAL are relative to their own address, in units of 8 bytes, signed.
theorem test_br_back : pcAfter (.br 0 (cw 0 0 0 0 0xFFFF_FFFE)) coreA = some 0x1F_FFF0 := by decide +kernel
theorem test_jal : regAfter (.jal 0 (cw 5 0 0 0 4)) coreA 5 = some 0x20_0008 ∧ pcAfter (.jal 0 (cw 5 0 0 0 4)) coreA = some 0x20_0020 := by decide +kernel
-- R52: an instruction whose predicate is false changes nothing but the PC.
theorem test_predicated_away : regAfter (.alui 0 ⟨3, false, 1, 1, 0, 0, 1⟩) (core2 5 0) 1 = some 5 ∧
    pcAfter (.alui 0 ⟨3, false, 1, 1, 0, 0, 1⟩) (core2 5 0) = some 0x20_0008 := by decide +kernel
-- R51: LD zero-extends; the byte order is little-endian.
theorem test_ld_bytes :
    (match exec (.ld 0 (cw 3 2 0 2 2)) (runM coreA [(0x40_0002, 0x80), (0x40_0003, 0xFF)]) with
     | .next t => sreg (coreOf t 0 0) 3 | _ => 0) = 0xFF80 := by decide +kernel
theorem test_st_bytes :
    (match exec (.st 0 (cw 0 2 1 1 4)) (runM (core2 0x1122_3344_5566_7788 0x40_0000) [(0x40_0003, 9), (0x40_0008, 7)]) with
     | .next t => t.mem.cells | _ => []) =
      [(0x40_0003, 9), (0x40_0004, 0x88), (0x40_0005, 0x77), (0x40_0006, 0x66), (0x40_0007, 0x55), (0x40_0008, 7)] := by decide +kernel
-- R50: a reserved opcode raises ILLEGAL_OPCODE, class J, and the core goes no further.
theorem test_illegal_opcode :
    (match exec (.illegalOpcode 0 0x03) (run coreA) with
     | .next t => (t.obs.log.map (fun e => (e.code, e.cls)), (coreOf t 0 0).faulted) | _ => ([], false)) = ([(0x0208, clsJ)], true) := by decide +kernel

/-! ## Numbers and checks -/

-- R145: the ends of E8M0.
theorem test_e8m0 : e8m0 0 = .fin (mkRat 1 (2 ^ 127)) ∧ e8m0 127 = .fin 1 ∧ e8m0 255 = .nan := by decide +kernel
-- R146: the largest element magnitudes of its table.
theorem test_mx_largest : maxQ fE4M3 = 448 ∧ maxQ fE5M2 = 57344 ∧ maxQ fE2M3 = mkRat 15 2 ∧ maxQ fE3M2 = 28 ∧ maxQ fFP4 = 6 := by decide +kernel
-- The check values that the catalogue of CRCs gives for "123456789".
theorem test_crc :
    crc32 [0x31, 0x32, 0x33, 0x34, 0x35, 0x36, 0x37, 0x38, 0x39] = 0xCBF4_3926 ∧ crc32c [0x31, 0x32, 0x33, 0x34, 0x35, 0x36, 0x37, 0x38, 0x39] = 0xE306_9283 := by
  decide +kernel
-- FIPS 202: the first bytes of SHAKE256 and of SHA3-512 of the empty string.
theorem test_shake256 : (shake256 64 []).take 4 = [0x46, 0xB9, 0xDD, 0x2B] := by decide +kernel
theorem test_sha3_512 : (sha3_512 []).take 4 = [0xA6, 0x9F, 0x73, 0xCC] := by decide +kernel
-- R444, R446: NE-0412 lies at row 8, column 12; lane 70 takes SW-0069, SW-0070, SW-0119 and SW-0120.
theorem test_lands : landNumber 8 12 = 412 ∧ laneLands 70 = [⟨.sw, 69⟩, ⟨.sw, 70⟩, ⟨.sw, 119⟩, ⟨.sw, 120⟩] := by decide +kernel
-- R445: each quadrant has 3,200 lands.
theorem test_land_groups : (List.range 4).map (fun q => (landGroups.map (fun g => nth g.2 q 0)).sum) = [3200, 3200, 3200, 3200] := by decide +kernel
-- R428: the half of a pair that is away is counted from the time its context became resident.
theorem test_core_away_counted :
    (let s : State := { ready0 with
        place := { map := [(1, 0)], parts := [(0, { running := some 0, residentAt := 100 })], phys := [(0, { resident := some 0, switchAt := 50 })] }
        clock := { ns := 300 } }
     counter (countAway s (awayCores s 0)) 2 1 0x17) = 200 := by decide +kernel

end Sys2Proof.Tests
end

/-! ## Every command completes (R9, R40, R67)

A command's outcome can only be a next state: a trap of an instruction becomes an event or an unpredictable result, a
message is answered, and a step whose conditions do not hold leaves the state. -/

namespace Sys2Proof.Machine

/-- An outcome that is a next state. -/
def Answers (o : Out) : Prop := ∃ t, o = .next t

@[simp] theorem answers_next (s : State) : Answers (.next s) := ⟨s, rfl⟩

/-! ### The shared operations of the sequencer and the engines -/

@[simp] theorem trapOut_answers (s : State) (k n opc : Nat) (t : Trap) : Answers (trapOut s k n opc t) := by
  cases t <;> exact answers_next _

@[simp] theorem trapNow_answers (s : State) (k n opc : Nat) (t : Trap) : Answers (trapNow s k n opc t) := by
  unfold trapNow
  split <;> exact trapOut_answers ..

@[simp] theorem seqTrap_answers (s : State) (k n opc : Nat) (t : Trap) : Answers (seqTrap s k n opc t) := by
  obtain ⟨u, hu⟩ := trapNow_answers s k n opc t
  unfold seqTrap
  rw [hu]
  cases t <;> exact answers_next _

theorem issue_answers (s : State) (n len opc : Nat) (p : BitVec 4) (neg : Bool) (body : Nat → Core → Except Trap State) :
    Answers (issue s n len opc p neg body) := by
  fun_cases issue <;> simp

theorem issueC_answers (s : State) (n opc : Nat) (w : CWord) (body : Nat → Core → Except Trap State) :
    Answers (issueC s n opc w body) := issue_answers ..

theorem issueCore_answers (s : State) (n opc : Nat) (w : CWord) (f : Nat → Core → Option Core) :
    Answers (issueCore s n opc w f) := issue_answers ..

theorem issueFault_answers (s : State) (n code : Nat) (opc : BitVec 8) : Answers (issueFault s n code opc) := by
  fun_cases issueFault <;> simp

theorem level3_answers {s : State} {n opc : Nat} {o : Out} (ho : Answers o) : Answers (level3 s n opc o) := by
  fun_cases level3
  · exact issueFault_answers ..
  · exact ho
  · exact ho

theorem issueTL_answers (op : TOp) (n : Nat) (w : TWord) (s : State) : Answers (issueTL op n w s) := by
  unfold issueTL issueT
  split
  · exact issue_answers ..
  · exact level3_answers (issue_answers ..)

theorem runWork_answers (op : TOp) (n id : Nat) (s : State) (go : Core → Flight → Bool)
    (eff : Nat → Core → Flight → Except Trap Eff) : Answers (runWork op n id s go eff) := by
  simp only [runWork]
  repeat' split
  all_goals simp only [answers_next, trapNow_answers]

theorem runStream_answers (op : TOp) (n id : Nat) (s : State) (eff : Nat → Core → Flight → Except Trap State) :
    Answers (runStream op n id s eff) := by
  fun_cases runStream <;> simp

theorem wildOut_answers {k : Nat} {b : Bool} {o : Out} (ho : Answers o) : Answers (wildOut k b o) := by
  obtain ⟨t, rfl⟩ := ho
  cases b <;> exact answers_next _

theorem request_answers (s : State) (v : SpdmVia) (phase : Nat) (body : State) : Answers (request s v phase body) := by
  fun_cases request <;> exact answers_next _

theorem message_answers (i : Instr) (t : MsgType) (h : MsgHdr) (s : State) (body : State → State × Nat × List Byte) :
    Answers (message i t h s body) := message_next ..

theorem storageIo_answers (i : Instr) (code : Nat) (read : Bool) (h : MsgHdr) (ctrl nsid slba nlb va : Nat) (truss phase : Word)
    (rsv : Bool) (s : State) : Answers (storageIo i code read h ctrl nsid slba nlb va truss phase rsv s) := message_next ..

theorem execCheckpointSet_answers (h : MsgHdr) (interval restartLimit replaceWait : Nat) (ranges : List (Nat × Nat)) (rsv : Bool)
    (s : State) : Answers (execCheckpointSet h interval restartLimit replaceWait ranges rsv s) := by
  unfold execCheckpointSet
  exact message_answers ..

/-! ### The registers that have a behaviour of their own -/

@[simp] theorem execCons_answers (v : Word32) (s : State) : Answers (execCons v s) := by
  fun_cases execCons <;> exact answers_next _

@[simp] theorem execErrSummaryClear_answers (v : Word32) (s : State) : Answers (execErrSummaryClear v s) := by
  fun_cases execErrSummaryClear <;> exact answers_next _

@[simp] theorem execSnap_answers (v : Word32) (s : State) : Answers (execSnap v s) := by
  fun_cases execSnap <;> exact answers_next _

@[simp] theorem execBaseLo_answers (w : Nat) (v : Word32) (s : State) : Answers (execBaseLo w v s) := by
  fun_cases execBaseLo <;> exact answers_next _

@[simp] theorem execMask_answers (n : Nat) (v : Word32) (s : State) : Answers (execMask n v s) := by
  fun_cases execMask <;> exact answers_next _

@[simp] theorem execSubmit_answers (m : Nat) (v : Word32) (s : State) : Answers (execSubmit m v s) := by
  fun_cases execSubmit <;> exact answers_next _

theorem execRegisterWrite_answers (off : Nat) (v : Word32) (s : State) : Answers (execRegisterWrite off v s) := by
  fun_cases execRegisterWrite <;> simp

/-! ### Every command -/

theorem exec_answers (i : Instr) (s : State) : Answers (exec i s) := by
  cases i with
  -- the sequencer
  | nop | alu | alui | movhi | cmp | cmpi | pred | sysrd =>
    simp only [exec, execNop, execAlu, execAlui, execMovhi, execCmp, execCmpi, execPred, execSysrd, issueCore_answers]
  | endProgram | br | jal | jr | ld | st | wtok | stepProgram | markPush | markPop =>
    simp only [exec, execEndProgram, execBr, execJal, execJr, execLd, execSt, execWtok, execStepProgram, execMarkPush,
      execMarkPop, issueC_answers]
  | spanBegin | spanEnd => exact level3_answers (issueC_answers ..)
  | ophint => exact level3_answers (issueCore_answers ..)
  | illegalOpcode | privilegedInstruction =>
    simp only [exec, execIllegalOpcode, execPrivilegedInstruction]
    split
    · exact issueFault_answers ..
    · exact answers_next _
  -- the engines: the issue of an instruction, its start and its work
  | mma _ g | mmaLd _ g | mda _ g | mvm _ g | vop _ g | topk _ g | norm _ g | softmax _ g | cvt _ g | stat _ g | upd _ g =>
    cases g <;>
      simp only [exec, execMma, execMmaLd, execMda, execMvm, execVop, execTopk, execNorm, execSoftmax, execCvt, execStat,
      execUpd, issueTL_answers, runWork_answers]
  | xfer _ g | fetch _ g | ridge _ g | spar _ g | yealm _ g | cancel _ g | fence _ g | trussArrive _ g | trussWait _ g
  | trussArwt _ g | collAllreduce _ g | collRedscat _ g | collAllgather _ g | collAlltoall _ g | collBcast _ g
  | collReduce _ g =>
    cases g <;>
      simp only [exec, execXfer, execFetch, execRidge, execSpar, execYealm, execCancel, execFence, execTrussArrive,
      execTrussWait, execTrussArwt, execCollAllreduce, execCollRedscat, execCollAllgather, execCollAlltoall, execCollBcast,
      execCollReduce, issueTL_answers, runStream_answers]
  | fetchChunkIssue | engineInstructionStart =>
    simp only [exec, execFetchChunkIssue, execEngineInstructionStart]
    repeat' split
    all_goals simp only [answers_next, trapNow_answers]
  -- bursts, completion and the check of chunks
  | engineInstructionComplete | burstStart | chunkCheck =>
    simp only [exec, execEngineInstructionComplete, execBurstStart, execChunkCheck]
    repeat' split
    all_goals exact answers_next _
  -- memory and placement
  | regulatorRefill | patrolScrub | hbmRowSpare | hbmPageRetire | thatchSliceRetire | shadowQuantumExpiry | shadowEarlySwitch
  | patrolTestStart | patrolTestDone | coreReverify =>
    simp only [exec, execRegulatorRefill, execPatrolScrub, execHbmRowSpare, execHbmPageRetire, execThatchSliceRetire,
      execShadowQuantumExpiry, execShadowEarlySwitch, execPatrolTestStart, execPatrolTestDone, execCoreReverify]
    repeat' split
    all_goals exact answers_next _
  -- the Chain
  | flitReceive | nakReceive | replayTimeout | marginReport | laneDue | swap | laneSwitch | chainGroupRemoved =>
    simp only [exec, execFlitReceive, execNakReceive, execReplayTimeout, execMarginReport, execLaneDue, execSwap,
      execLaneSwitch, execChainGroupRemoved]
    repeat' split
    all_goals exact answers_next _
  -- ports, sessions and packets
  | portTrained | portLinkLoss | portAnRetry | packetSend | furlongHelloRetry | furlongHelloReceive | sessionOpenTimeout
  | sackReceive | sackTimer | pathSuspendExpiry | congestionInterval | peerLoss | arp | rocev2Receive | managerSessionTimeout =>
    simp only [exec, execPortTrained, execPortLinkLoss, execPortAnRetry, execPacketSend, execFurlongHelloRetry,
      execFurlongHelloReceive, execSessionOpenTimeout, execSackReceive, execSackTimer, execPathSuspendExpiry,
      execCongestionInterval, execPeerLoss, execArp, execRocev2Receive, execManagerSessionTimeout]
    repeat' split
    all_goals exact answers_next _
  -- power, clocks and time
  | frequencyStep | muxSwitch | pllUnlock | marginMonitorRead | droopDetect | droopClear | voltageLowerHoldExpiry | slowLoop
  | bayClockStop | thermalEmergency | thermalEmergencyRelease | thermalTrip | hbmThrottle | fastThrottle
  | fastThrottleRelease | pmuFallback | pmuResume | ptpSyncReceive | ptpSyncTimeout | ppsIn | ppsOut =>
    simp only [exec, execFrequencyStep, execMuxSwitch, execPllUnlock, execMarginMonitorRead, execDroopDetect, execDroopClear,
      execVoltageLowerHoldExpiry, execSlowLoop, execBayClockStop, execThermalEmergency, execThermalEmergencyRelease,
      execThermalTrip, execHbmThrottle, execFastThrottle, execFastThrottleRelease, execPmuFallback, execPmuResume,
      execPtpSyncReceive, execPtpSyncTimeout, execPpsIn, execPpsOut]
    repeat' split
    all_goals exact answers_next _
  -- resets, boot and firmware
  | railUndervoltage | railInRange | ref25Loss | perstNAssert | perstNRelease | bootStageComplete | lockstepMismatch
  | pairRestartComplete | fwActivationBegin | fwActivateWindowExpiry | fwCommitTimeout | deviceRecovery
  | deviceRecoveryComplete | flashWrite | debugUnlockToken | entdaa =>
    simp only [exec, execRailUndervoltage, execRailInRange, execRef25Loss, execPerstNAssert, execPerstNRelease,
      execBootStageComplete, execLockstepMismatch, execPairRestartComplete, execFwActivationBegin, execFwActivateWindowExpiry,
      execFwCommitTimeout, execDeviceRecovery, execDeviceRecoveryComplete, execFlashWrite, execDebugUnlockToken, execEntdaa]
    repeat' split
    all_goals exact answers_next _
  -- records, schedules and debug halts
  | outboxRecordWrite | outboxSignalTimer | hostAbsenceTest | schedSliceExpiry | preemptDrainTimeout | preemptionComplete
  | debugHaltComplete | traceRecordWrite | histSample =>
    simp only [exec, execOutboxRecordWrite, execOutboxSignalTimer, execHostAbsenceTest, execSchedSliceExpiry,
      execPreemptDrainTimeout, execPreemptionComplete, execDebugHaltComplete, execTraceRecordWrite, execHistSample]
    repeat' split
    all_goals exact answers_next _
  -- restarts, checkpoints and twins
  | jobHalt | jobHaltReceive | haltComplete | haltAckReceive | haltAckTimeout | gatherTimeout | restore | restoreCopyDone
  | restoreDone | resume | replaceWaitExpiry | snapshotCopyDone | ckptReady | ckptCommit | mirrorWriteDone
  | twinHeartbeatSend | twinHeartbeatReceive | twinLost | storageDone =>
    simp only [exec, execJobHalt, execJobHaltReceive, execHaltComplete, execHaltAckReceive, execHaltAckTimeout,
      execGatherTimeout, execRestore, execRestoreCopyDone, execRestoreDone, execResume, execReplaceWaitExpiry,
      execSnapshotCopyDone, execCkptReady, execCkptCommit, execMirrorWriteDone, execTwinHeartbeatSend,
      execTwinHeartbeatReceive, execTwinLost, execStorageDone]
    repeat' split
    all_goals exact answers_next _
  -- the host
  | hello | lastSeq | lowWordRead | devProgPosLo | bar2Read | bar2Write =>
    simp only [exec, execHello, execLastSeq, execLowWordRead, execDevProgPosLo, execBar2Read, execBar2Write]
    repeat' split
    all_goals exact answers_next _
  | cons | errSummaryClear | snap | baseLo | submit | mask | registerWrite =>
    simp only [exec, execCons_answers, execErrSummaryClear_answers, execSnap_answers, execBaseLo_answers, execSubmit_answers,
      execMask_answers, execRegisterWrite_answers]
  -- PLDM and SPDM
  | getPdr | getPldmVersion | getPldmCommands | getSensorReading | getStateSensorReadings | getTid | getPldmTypes
  | getPdrRepositoryInfo | setNumericEffecterValue | getNumericEffecterValue | unsupportedRequest =>
    simp only [exec, pldm, execGetPdr, execGetPldmVersion, execGetPldmCommands, execGetSensorReading,
      execGetStateSensorReadings, execGetTid, execGetPldmTypes, execGetPdrRepositoryInfo, execSetNumericEffecterValue,
      execGetNumericEffecterValue, execUnsupportedRequest]
    repeat' split
    all_goals exact answers_next _
  | getVersion | getCapabilities | negotiateAlgorithms | getDigests | getCertificate | challenge | getMeasurements
  | keyExchange | finish | heartbeat | endSession => exact request_answers ..
  -- messages
  | hostAlive | status | contextList | capacity | contextCreate | contextDestroy | contextPolicy | contextResume
  | contextStop | contextEnergy | memAlloc | memFree | memWrite | memRead | numericPolicy | numericWatch | watchdogSet
  | trussDestroy | regionDestroy | partitionSet | sliceMode | schedSet | fixedFreq | oppointSet | powerLimit | budgetSet
  | timeSource | portConfig | nodeTable | managerSet | netIdentity | gridSet | groupDestroy | storageConnect | checkpointSet
  | twinSet | fwStage | fwActivate | fwCommit | fwRollback | counterRead | traceSet | traceStatus | traceRead | histSet
  | histRead | bpSet | debugHalt | debugResume | debugStep | stateRead | regWrite | storageRead | storageWrite =>
    simp only [exec, execHostAlive, execStatus, execContextList, execCapacity, execContextCreate, execContextDestroy,
      execContextPolicy, execContextResume, execContextStop, execContextEnergy, execMemAlloc, execMemFree, execMemWrite,
      execMemRead, execNumericPolicy, execNumericWatch, execWatchdogSet, execTrussDestroy, execRegionDestroy, execPartitionSet,
      execSliceMode, execSchedSet, execFixedFreq, execOppointSet, execPowerLimit, execBudgetSet, execTimeSource,
      execPortConfig, execNodeTable, execManagerSet, execNetIdentity, execGridSet, execGroupDestroy, execStorageConnect,
      execCheckpointSet_answers, execTwinSet, execFwStage, execFwActivate, execFwCommit, execFwRollback, execCounterRead,
      execTraceSet, execTraceStatus, execTraceRead, execHistSet, execHistRead, execBpSet, execDebugHalt, execDebugResume,
      execDebugStep, execStateRead, execRegWrite, execStorageRead, execStorageWrite, message_answers, storageIo_answers]
  | launch => exact wildOut_answers (message_answers ..)
  | trussCreate | regionCreate | groupCreate =>
    simp only [exec, execTrussCreate, execRegionCreate, execGroupCreate]
    split
    · exact answers_next _
    · exact message_answers ..
  -- commands without a condition of their own
  | remoteTrussArrival | furlongWriteReceive | readReqReceive | readRespReceive | sendReceive | rtoExpiry | fastLoop
  | energyAttribution | thermalSample | pmbusAlert | powerUp | hbmPostPackageRepair | coreLogicFault | watchdogTest
  | collReady | collData | collPartial | collResult | collCheck | collRepair | collAbort | collRevoke | collDone
  | lostCycleUpdate | setdasa | rstdaa | pcieLinkDown | ref25Return | pcieLinkUp => exact answers_next _

/-- Settles O55: no arm of `exec` refuses, and there is no fault to stop with. -/
theorem everyCommandCompletes : Obligations.EveryCommandCompletes := by
  intro s i
  obtain ⟨t, ht⟩ := exec_answers i s
  exact ⟨t, ht, trivial⟩

end Sys2Proof.Machine

/-! ## Memory, after a write of physical bytes (R69, R81) -/

namespace Sys2Proof.Machine

/-- A range list after a cut holds what it held outside the cut, and nothing inside. -/
theorem inRange_cutOut (l : List (Nat × Nat)) (a n x : Nat) :
    inRange (cutOut l a n) x = (inRange l x && !(decide (a ≤ x) && decide (x < a + n))) := by
  induction l with
  | nil => rfl
  | cons r l ih =>
    unfold cutOut inRange at *
    rw [List.flatMap_cons, List.any_append, ih, List.any_cons, Bool.and_or_distrib_right]
    congr 1
    rw [Bool.eq_iff_iff]
    by_cases h1 : r.1 < a <;> by_cases h2 : a + n < r.1 + r.2 <;> simp [h1, h2] <;> omega

/-- A byte of memory reads as what was written there last, and every other byte as before. -/
theorem memByte_writeMem (m : Mem) (a x : Nat) (bs : List Byte) (p : Bool) (h : cellsWf m.cells = true) :
    memByte (writeMem m a bs p) x = if a ≤ x ∧ x < a + bs.length then nth bs (x - a) 0 else memByte m x := by
  have hr : inRange (writeMem m a bs p).stale x = (inRange m.stale x && !(decide (a ≤ x) && decide (x < a + bs.length))) :=
    inRange_cutOut ..
  unfold memByte
  rw [hr, byteAt_writeMem m a x bs p h]
  by_cases hx : a ≤ x ∧ x < a + bs.length
  · simp [hx]
  · have hx' : x < a ∨ a + bs.length ≤ x := by omega
    simp [hx, hx']

theorem foldl_notePoison_mem (l : List Nat) (s : State) :
    (l.foldl (fun s g => notePoison s (g * 64)) s).mem = s.mem := by
  induction l generalizing s with
  | nil => rfl
  | cons g l ih => exact ih _

theorem writeDpa_mem (s : State) (a : Nat) (bs : List Byte) (p : Bool) : (writeDpa s a bs p).mem = writeMem s.mem a bs p := by
  unfold writeDpa
  cases p
  · rfl
  · exact foldl_notePoison_mem ..

/-! ## What an unpredictable result of a context leaves alone (R9, R67) -/

/-- Two states of a context between which nothing differs but the poison met in its state ranges. -/
def PoisonOnly (x y : Ctx) : Prop := y = { x with statePoison := y.statePoison, poisonAt := y.poisonAt }

theorem PoisonOnly.refl (x : Ctx) : PoisonOnly x x := rfl

theorem PoisonOnly.trans {x y z : Ctx} (h : PoisonOnly x y) (h' : PoisonOnly y z) : PoisonOnly x z := by
  have h2 : z = { y with statePoison := z.statePoison, poisonAt := z.poisonAt } := h'
  exact h2.trans (congrArg (fun c : Ctx => { c with statePoison := z.statePoison, poisonAt := z.poisonAt }) h)

/-- What of a context its address translation and its watchdog go by. -/
structure SamePaths (x y : Ctx) : Prop where
  watchBase : y.watchBase = x.watchBase
  part : y.part = x.part
  pages : y.pages = x.pages
  imgThatch : y.imgThatch = x.imgThatch
  imgHome : y.imgHome = x.imgHome

theorem SamePaths.refl (x : Ctx) : SamePaths x x := ⟨rfl, rfl, rfl, rfl, rfl⟩

theorem SamePaths.trans {x y z : Ctx} (h : SamePaths x y) (h' : SamePaths y z) : SamePaths x z :=
  ⟨h'.watchBase.trans h.watchBase, h'.part.trans h.part, h'.pages.trans h.pages, h'.imgThatch.trans h.imgThatch,
    h'.imgHome.trans h.imgHome⟩

theorem PoisonOnly.samePaths {x y : Ctx} (h : PoisonOnly x y) : SamePaths x y := by
  rw [h]; exact ⟨rfl, rfl, rfl, rfl, rfl⟩

theorem inPartition_congr {s t : State} {k : Nat} (hp : t.place = s.place) (hx : SamePaths (ctxOf s k) (ctxOf t k)) (n : Nat) :
    inPartition t k n = inPartition s k n := by
  simp only [inPartition, hp, hx.part]

/-- Translation goes by the placement and by what `SamePaths` lists. -/
theorem translate_congr {s t : State} {k : Nat} (hp : t.place = s.place) (hx : SamePaths (ctxOf s k) (ctxOf t k))
    (n va : Nat) (a : Acc) : translate t k n va a = translate s k n va a := by
  have hr : ∀ m, residentPhys t m = residentPhys s m := fun m => by unfold residentPhys; rw [hp]
  have hi : ∀ m off, imgAt (ctxOf t k) m off = imgAt (ctxOf s k) m off := fun m off => by
    unfold imgAt; rw [hx.imgThatch, hx.imgHome]
  have hs : ∀ m off, scratchAt t k m off = scratchAt s k m off := fun m off => by
    unfold scratchAt isResident runningOn; rw [hr, hi, hp]
  simp only [translate, inPartition_congr hp hx, hs, hx.pages]

/-- A byte of memory that no core of context `k` may write. -/
def Unwritable (s : State) (k a : Nat) : Prop :=
  ∀ n va, inPartition s k n = true → translate s k n va .write ≠ .ok (.mem a)

/-- Nothing differs of what is no context's: placement, power, clocks, Chain, keys, counters of the part, board and queue. -/
def SameDevice (s t : State) : Prop :=
  t.place = s.place ∧ t.power = s.power ∧ t.clock = s.clock ∧ t.chain = s.chain ∧ t.sec = s.sec ∧ t.board = s.board ∧
  t.pending = s.pending

theorem SameDevice.refl (s : State) : SameDevice s s := ⟨rfl, rfl, rfl, rfl, rfl, rfl, rfl⟩

theorem SameDevice.trans {s t u : State} (h : SameDevice s t) (h' : SameDevice t u) : SameDevice s u := by
  obtain ⟨h1, h2, h3, h4, h5, h6, h7⟩ := h
  obtain ⟨g1, g2, g3, g4, g5, g6, g7⟩ := h'
  exact ⟨g1.trans h1, g2.trans h2, g3.trans h3, g4.trans h4, g5.trans h5, g6.trans h6, g7.trans h7⟩

theorem SameDevice.place {s t : State} (h : SameDevice s t) : t.place = s.place := h.1

/-- What every act of an unpredictable result of context `k` keeps: `Confined`, made transitive by what translation
goes by and by the canonical form of memory. -/
structure Kept (s t : State) (k : Nat) : Prop where
  others : ∀ j, j ≠ k → PoisonOnly (ctxOf s j) (ctxOf t j)
  own : SamePaths (ctxOf s k) (ctxOf t k)
  cores : ∀ j n, j ≠ k → n < 512 → coreOf t j n = coreOf s j n
  bytes : ∀ a, Unwritable s k a → memByte t.mem a = memByte s.mem a
  cells : cellsWf s.mem.cells = true → cellsWf t.mem.cells = true
  rest : SameDevice s t

theorem Kept.refl (s : State) (k : Nat) : Kept s s k :=
  ⟨fun _ _ => .refl _, .refl _, fun _ _ _ _ => rfl, fun _ _ => rfl, id, .refl s⟩

theorem Kept.unwritable {s t : State} {k a : Nat} (h : Kept s t k) (ha : Unwritable s k a) : Unwritable t k a := by
  intro n va
  rw [inPartition_congr h.rest.place h.own, translate_congr h.rest.place h.own]
  exact ha n va

theorem Kept.trans {s t u : State} {k : Nat} (h : Kept s t k) (h' : Kept t u k) : Kept s u k where
  others j hj := (h.others j hj).trans (h'.others j hj)
  own := h.own.trans h'.own
  cores j n hj hn := (h'.cores j n hj hn).trans (h.cores j n hj hn)
  bytes a ha := (h'.bytes a (h.unwritable ha)).trans (h.bytes a ha)
  cells hc := h'.cells (h.cells hc)
  rest := h.rest.trans h'.rest

theorem Kept.confined {s t : State} {k : Nat} (h : Kept s t k) : Confined s t k :=
  ⟨h.others, h.cores, h.bytes, h.own.watchBase, h.own.part, h.own.pages, h.rest⟩

/-- An update outside contexts, cores and memory keeps what `Kept` asks of those. -/
theorem kept_of_same {s t : State} {k : Nat} (hx : t.ctxs = s.ctxs) (hc : t.cores = s.cores) (hm : t.mem = s.mem)
    (hr : SameDevice s t) : Kept s t k := by
  refine ⟨fun j _ => ?_, ?_, fun j n _ _ => ?_, fun a _ => by rw [hm], fun h => by rw [hm]; exact h, hr⟩
  · simp only [ctxOf, hx]; exact .refl _
  · simp only [ctxOf, hx]; exact .refl _
  · simp only [coreOf, hc]

theorem kept_setCore (s : State) (k n : Nat) (c : Core) (hn : n < 512) : Kept s (setCore s k n c) k where
  others _ _ := .refl _
  own := .refl _
  cores j m hj hm := coreOf_setCore_other s k n j m c (by unfold coreKey; omega)
  bytes _ _ := rfl
  cells := id
  rest := .refl s

theorem kept_setCtx {s : State} {k : Nat} {x : Ctx} (hx : SamePaths (ctxOf s k) x) : Kept s (setCtx s k x) k where
  others j hj := by rw [ctxOf_setCtx_other s k j x hj]; exact .refl _
  own := by rw [ctxOf_setCtx]; exact hx
  cores _ _ _ _ := rfl
  bytes _ _ := rfl
  cells := id
  rest := .refl s

/-- A table changed by a function that leaves the default alone. -/
theorem look_mapTbl {α : Type} (t : Tbl α) (f : Nat → α → α) (d : α) (k : Nat) (hd : f k d = d) :
    look (mapTbl t f) d k = f k (look t d k) := by
  induction t with
  | nil => exact hd.symm
  | cons e r ih =>
    by_cases h : e.1 = k
    · subst h; simp [mapTbl, look]
    · simpa [mapTbl, look, h] using ih

theorem poisonOnly_notePoison (s : State) (d j : Nat) : PoisonOnly (ctxOf s j) (ctxOf (notePoison s d) j) := by
  unfold ctxOf notePoison
  rw [look_mapTbl _ _ _ _ (by simp)]
  split
  · rfl
  · exact .refl _

theorem kept_notePoison (s : State) (d k : Nat) : Kept s (notePoison s d) k where
  others j _ := poisonOnly_notePoison s d j
  own := (poisonOnly_notePoison s d k).samePaths
  cores _ _ _ _ := rfl
  bytes _ _ := rfl
  cells := id
  rest := .refl s

theorem kept_foldl_notePoison (l : List Nat) (s : State) (k : Nat) :
    Kept s (l.foldl (fun s g => notePoison s (g * 64)) s) k := by
  induction l generalizing s with
  | nil => exact .refl s k
  | cons g l ih => exact (kept_notePoison s (g * 64) k).trans (ih _)

/-- A byte stored where a core of the context may write. -/
theorem kept_writeDpa {s : State} {k n va d : Nat} {b : Byte} {p : Bool} (hw : cellsWf s.mem.cells = true)
    (hn : inPartition s k n = true) (ht : translate s k n va .write = .ok (.mem d)) : Kept s (writeDpa s d [b] p) k := by
  have hmem : Kept s { s with mem := writeMem s.mem d [b] p } k := by
    refine ⟨fun _ _ => .refl _, .refl _, fun _ _ _ _ => rfl, fun a ha => ?_, cellsWf_writeMem s.mem d [b] p, .refl s⟩
    have hne : a ≠ d := fun e => ha n va hn (e ▸ ht)
    rw [memByte_writeMem s.mem d a [b] p hw, if_neg (by simp only [List.length_singleton]; omega)]
  unfold writeDpa
  cases p
  · exact hmem
  · exact hmem.trans (kept_foldl_notePoison _ _ k)

/-- One byte lies in one segment. -/
theorem segs_one (va : Nat) : segs va 1 = [(va, 1)] := by
  have hr : 1 ≤ room va := by
    unfold room
    split
    · omega
    · have := Nat.mod_lt va (show 0 < Config.page2 by decide); omega
  simp [segs, segments, hr]

/-- The store of one byte goes where its address leads. -/
theorem writeVa_one (s : State) (k n va : Nat) (b : Byte) (p : Bool) :
    writeVa s k n va [b] p = (translate s k n va .write).map (fun l => storeAt k n s (l, [b], p)) := by
  cases h : translate s k n va .write <;> simp [writeVa, writeVas, placeWr, segs_one, h] <;> rfl

theorem kept_storeByte {s : State} {k n va : Nat} {b : Byte} {p : Bool} {t : State} (hw : cellsWf s.mem.cells = true)
    (hn : inPartition s k n = true) (ht : writeVa s k n va [b] p = .ok t) : Kept s t k := by
  have hn' : n < 320 := by
    unfold inPartition at hn
    simp only [Bool.and_eq_true, decide_eq_true_eq] at hn
    exact hn.1
  rw [writeVa_one] at ht
  cases hl : translate s k n va .write with
  | error e => rw [hl] at ht; cases ht
  | ok l =>
    rw [hl] at ht
    cases ht
    cases l with
    | mem d => exact kept_writeDpa hw hn hl
    | stat off => exact kept_setCore s k n _ (by omega)

/-! ### Events of a program of the context -/

/-- No unit that serves a restart has number 0. -/
theorem servesRestart_zero (s : State) : servesRestart s 0 = false := by
  simp [servesRestart, unitPair]

/-- An event that names no unit keeps its class up to J (R387). -/
theorem mkEvent_cls (s : State) (code cls k : Nat) (pay : List Byte) (hc : cls ≤ clsJ) :
    (mkEvent s code cls k 0 pay).cls = cls := by
  have hr : (ruling s code cls k 0).cls = cls := by
    have hv : cls ≠ clsV := (hc.trans_lt (by decide)).ne
    unfold ruling
    rw [servesRestart_zero]
    split
    · rfl
    · simp only [hv, false_and, Bool.false_eq_true, and_false, if_false, ne_eq, not_true_eq_false]
      split_ifs <;> rfl
  exact hr

theorem raise_board_of_cls {s : State} {code cls k : Nat} {pay : List Byte} (hc : cls ≤ clsJ) :
    (raise s code cls k 0 pay).board = s.board := by
  have h : (mkEvent s code cls k 0 pay).cls ≠ clsX := by
    rw [mkEvent_cls s code cls k pay hc]; exact (hc.trans_lt (by decide)).ne
  simp [raise, raiseOn, h]

theorem ctxOf_raise_other (s : State) (code cls k unit j : Nat) (pay : List Byte) (hj : j ≠ k) :
    ctxOf (raise s code cls k unit pay) j = ctxOf s j := by
  unfold raise raiseOn ctxOf
  simp only
  split
  · exact look_put_other _ _ _ _ _ hj
  · split
    · exact look_put_other _ _ _ _ _ hj
    · rfl

theorem samePaths_raise (s : State) (code cls k unit : Nat) (pay : List Byte) :
    SamePaths (ctxOf s k) (ctxOf (raise s code cls k unit pay) k) := by
  unfold raise raiseOn ctxOf
  simp only
  split
  · rw [look_put_same]; exact ⟨rfl, rfl, rfl, rfl, rfl⟩
  · split
    · rw [look_put_same]; exact ⟨rfl, rfl, rfl, rfl, rfl⟩
    · exact .refl _

theorem kept_raise (s : State) (code cls k : Nat) (pay : List Byte) (hc : cls ≤ clsJ) : Kept s (raise s code cls k 0 pay) k where
  others j hj := by rw [ctxOf_raise_other s code cls k 0 j pay hj]; exact .refl _
  own := samePaths_raise s code cls k 0 pay
  cores _ _ _ _ := rfl
  bytes _ _ := rfl
  cells := id
  rest := ⟨rfl, rfl, rfl, rfl, rfl, raise_board_of_cls hc, rfl⟩

theorem ctxEvents_cls : ∀ e ∈ ctxEvents, e.2 ≤ clsJ := by decide

/-! ### Every act -/

theorem kept_wildCore (s : State) (k n : Nat) (f : Core → Core) : Kept s (wildCore s k n f) k := by
  unfold wildCore
  split
  · rename_i hn
    simp only [inPartition, Bool.and_eq_true, decide_eq_true_eq] at hn
    exact kept_setCore s k n _ (by omega)
  · exact .refl s k

theorem kept_wildAct (k : Nat) (s : State) (w : Config.WildAct) (hw : cellsWf s.mem.cells = true) : Kept s (wildAct k s w) k := by
  cases w with
  | store n va b p =>
    simp only [wildAct]
    split
    · rename_i hn
      split
      · exact kept_storeByte hw hn ‹_›
      · exact .refl s k
    · exact .refl s k
  | sreg | pred | token | pc | acc | finish | stop =>
    simp only [wildAct]
    exact kept_wildCore ..
  | truss v g a p =>
    simp only [wildAct]
    split
    · exact kept_setCtx ⟨rfl, rfl, rfl, rfl, rfl⟩
    · exact .refl s k
  | group g q =>
    simp only [wildAct]
    split
    · exact kept_setCtx ⟨rfl, rfl, rfl, rfl, rfl⟩
    · exact .refl s k
  | chunk i j l => exact kept_setCtx ⟨rfl, rfl, rfl, rfl, rfl⟩
  | counter i n => exact kept_of_same rfl rfl rfl (.refl s)
  | event code pay =>
    simp only [wildAct]
    split
    · exact kept_raise s code _ k pay (ctxEvents_cls _ (List.mem_of_find?_eq_some ‹_›))
    · exact .refl s k

theorem kept_wildActs (k : Nat) (l : List Config.WildAct) (s : State) (hw : cellsWf s.mem.cells = true) :
    Kept s (l.foldl (wildAct k) s) k := by
  induction l generalizing s with
  | nil => exact .refl s k
  | cons w l ih =>
    have h := kept_wildAct k s w hw
    exact h.trans (ih _ (h.cells hw))

/-- An unpredictable result of context `k` stays within it. -/
theorem wild_confined (s : State) (k : Nat) (hw : cellsWf s.mem.cells = true) : Confined s (wild s k) k :=
  ((kept_wildActs k _ s hw).trans (kept_of_same rfl rfl rfl (.refl _))).confined

/-! ## What an instruction with a mistake answers (R50, R67) -/

/-- An instruction whose body finds its result unpredictable answers what that result leaves. -/
theorem issue_unpredictable {s : State} {n len opc k : Nat} {x : Core} {p : BitVec 4} {neg : Bool}
    {body : Nat → Core → Except Trap State} {u : Unpred} (h : AtIssue s n len k x) (hp : predTrue x p neg = true)
    (hb : body k x = .error (.unpred u)) : issue s n len opc p neg body = .next (wild s k) := by
  obtain ⟨h1, h2, h3, -⟩ := h
  simp [issue, h1, h2, h3, hp, hb, seqTrap, trapNow, trapOut]

theorem issueCore_reserved {s : State} {n opc k : Nat} {x : Core} {w : CWord} {f : Nat → Core → Option Core}
    (h : AtIssue s n 8 k x) (hp : predTrue x w.pred w.pneg = true) (hf : f k x = none) :
    issueCore s n opc w f = .next (wild s k) :=
  issue_unpredictable h hp (u := .reservedField) (by simp [hf])

theorem aluFn_reserved {f : Nat} (a b : Word) (h : 14 ≤ f) : aluFn f a b = none := by
  obtain ⟨n, rfl⟩ := Nat.exists_eq_add_of_le' h; rfl

theorem compare_reserved {f : Nat} (a b : Word) (h : 6 ≤ f) : compare f a b = none := by
  obtain ⟨n, rfl⟩ := Nat.exists_eq_add_of_le' h; rfl

theorem predFn_reserved {f : Nat} (a b : Bool) (h : 7 ≤ f) : predFn f a b = none := by
  obtain ⟨n, rfl⟩ := Nat.exists_eq_add_of_le' h; rfl

theorem predDst_reserved {w : CWord} {x : Core} {v : Option Bool} (h : v = none ∨ w.dst.getLsbD 4 = true) :
    predDst w x v = none := by
  rcases h with rfl | h <;> simp [predDst, *]

theorem sysValue_reserved {s : State} {k n : Nat} {x : Core} {f imm : Nat} (h : 10 ≤ f ∨ (f = 9 ∧ 40 ≤ imm % 64)) :
    sysValue s k n x f imm = none := by
  rcases h with h | ⟨rfl, h⟩
  · obtain ⟨m, rfl⟩ := Nat.exists_eq_add_of_le' h; rfl
  · exact if_neg (by omega)

theorem scalarAccess_mistake {w : CWord} {x : Core}
    (h : 4 ≤ w.func.toNat ∨ ∃ n, widthOf w.func.toNat = some n ∧ (sreg x w.srca.toNat + w.imm.signExtend 64).toNat % n ≠ 0) :
    ∃ u, scalarAccess w x = .error (.unpred u) := by
  unfold scalarAccess
  rcases h with h | ⟨n, hn, ha⟩
  · have hw : widthOf w.func.toNat = none := by
      obtain ⟨n, hn⟩ := Nat.exists_eq_add_of_le' h; rw [hn]; rfl
    exact ⟨.reservedField, by rw [hw]⟩
  · exact ⟨.misaligned, by rw [hn]; exact if_neg ha⟩

/-- Every mistake of `ownMistake` is an unpredictable result. -/
theorem ownMistake_wild {s : State} {c k : Nat} {x : Core} {w : CWord} {i : Instr} (h : AtIssue s c 8 k x)
    (hp : predTrue x w.pred w.pneg = true) (hi : ownMistake c x w i) : exec i s = .next (wild s k) := by
  rcases hi with ⟨rfl, hf⟩ | ⟨rfl, hf⟩ | ⟨rfl, hf⟩ | ⟨rfl, hf⟩ | ⟨rfl, hf⟩ | ⟨rfl, hf⟩ | ⟨rfl, hf⟩ | ⟨rfl, hf⟩ | ⟨hi, hf⟩
  · exact issueCore_reserved h hp (by rw [aluFn_reserved _ _ hf]; rfl)
  · exact issueCore_reserved h hp (by rw [aluFn_reserved _ _ hf]; rfl)
  · exact issueCore_reserved h hp (predDst_reserved (hf.imp_left (compare_reserved _ _)))
  · exact issueCore_reserved h hp (predDst_reserved (hf.imp_left (compare_reserved _ _)))
  · exact issueCore_reserved h hp (predDst_reserved (hf.imp_left (predFn_reserved _ _)))
  · exact issueCore_reserved h hp (by rw [sysValue_reserved hf]; rfl)
  · exact issue_unpredictable h hp (if_pos hf)
  · exact issue_unpredictable h hp (if_neg hf)
  · obtain ⟨u, hu⟩ := scalarAccess_mistake hf
    rcases hi with rfl | rfl
    · exact issue_unpredictable h hp (u := u) (by rw [hu]; rfl)
    · exact issue_unpredictable h hp (u := u) (by rw [hu]; rfl)

/-- A decode fault raises its event and stops the core, which stands where it stood (R50). -/
theorem issueFault_stops {s : State} {n k code : Nat} {x : Core} (opc : BitVec 8) (h : AtIssue s n 8 k x) :
    ∃ t, issueFault s n code opc = .next t ∧
      (t.obs.log.getLast?.map (fun e => (e.code, e.ctx, e.unit))) = some (code, k, 0xB000 + n) ∧
      coreOf t k n = { x with faulted := true } ∧ t.mem = s.mem := by
  have hx := atIssue_core h
  obtain ⟨h1, h2, h3, -⟩ := h
  refine ⟨decodeFault s k n code opc, by simp [issueFault, h1, h2, h3], ?_, ?_, rfl⟩
  · simp only [decodeFault, setCore_obs, raise_last]
    rfl
  · have hc : ∀ p, coreOf (raise s code clsJ k (unitCore n) p) k n = x := fun p => by rw [← hx]; rfl
    simp only [decodeFault, coreOf_setCore, hc]

/-- Settles O6: the mistakes are unpredictable results, whose acts stay in the context; a reserved or privileged opcode is
a decode fault. -/
theorem controlStops : Obligations.ControlStops := by
  refine ⟨fun s c k x w i h hp _ hm hi => ⟨_, ownMistake_wild h hp hi, rfl, wild_confined s k hm.1⟩, fun s c k x opc h => ⟨?_, ?_⟩⟩
  · intro ho
    obtain ⟨t, ht, hl⟩ := issueFault_stops (code := 0x0208) opc h
    exact ⟨t, by simpa [execIllegalOpcode, ho] using ht, hl⟩
  · intro ho
    obtain ⟨t, ht, hl⟩ := issueFault_stops (code := 0x0209) opc h
    exact ⟨t, by simpa [execPrivilegedInstruction, ho] using ht, hl⟩

end Sys2Proof.Machine

/-! ## The host's registers and windows (R6, R7, R345, R465 to R477) -/

namespace Sys2Proof.Machine

/-! ### BAR0: reads and the registers with a behaviour of their own -/

theorem readReg_low {s : State} {off v : Nat} (hv : pairValue s off = some v) (h1 : off ≠ 0x028) (h2 : off ≠ 0x1008) :
    readReg s off = readLow s off v := by
  simp [readReg, h1, h2, hv]

theorem readReg_high {s : State} {off : Nat} (hv : pairValue s off = none) (h1 : off ≠ 0x028) (h2 : off ≠ 0x1008)
    (h4 : 4 ≤ off) (hl : (pairValue s (off - 4)).isSome = true) : readReg s off = gives s (look s.host.hold 0 off).toNat := by
  simp [readReg, h1, h2, hv, h4, hl]

@[simp] theorem windowAt_setWindow (s : State) (w : Nat) (x : Window) : windowAt (setWindow s w x) w = x := by
  simp [windowAt, setWindow]

theorem windowAt_setWindow_other (s : State) (w v : Nat) (x : Window) (h : v ≠ w) :
    windowAt (setWindow s w x) v = windowAt s v := by
  simp [windowAt, setWindow, look_put_other _ _ _ _ _ h]

/-- A delivery leaves a vector's mask, and nothing pending unless it is masked. -/
theorem deliver_msix (h : HostIf) (v : Nat) : (look (deliver h v).msix {} v).mask = (look h.msix {} v).mask ∧
    (look (deliver h v).msix {} v).pend = ((look h.msix {} v).pend && (look h.msix {} v).mask) := by
  unfold deliver
  simp only
  split
  · rename_i hd
    simp only [Bool.and_eq_true, Bool.not_eq_true'] at hd
    simp only [look_put_same, hd.2, Bool.and_false, and_self]
  · rename_i hd
    simp only [Bool.and_eq_true, Bool.not_eq_true', not_and, Bool.not_eq_false] at hd
    cases hp : (look h.msix {} v).pend
    · exact ⟨rfl, rfl⟩
    · exact ⟨rfl, (hd hp).symm⟩

theorem deliver_msi (h : HostIf) (v : Nat) : (deliver h v).msi =
    if (look h.msix {} v).pend && !(look h.msix {} v).mask then h.msi ++ [v] else h.msi := by
  unfold deliver
  simp only
  split <;> rfl

section Bar0
variable {s : State} (hb : barUp s = true)
include hb

theorem lowWordRead_gives (off : Nat) : exec (.lowWordRead off) s = .next (readReg s off) := by
  simp [execLowWordRead, hb]

theorem lastSeq_completes : Completes .lastSeq s (fun t => t.host.rdata = p4 s.host.lastSeq ∧
    t.host.latchInfo = s.host.lastInfo ∧ t.host.latchTime = s.host.lastTime ∧ t.mem = s.mem ∧ t.fw = s.fw) :=
  ⟨readLastSeq s, by simp [execLastSeq, hb], rfl, rfl, rfl, rfl, rfl⟩

theorem devProgPosLo_completes : Completes .devProgPosLo s (fun t => t.host.rdata = p4 s.fw.progPos ∧
    look t.host.hold 0 0x02C = BitVec.ofNat 32 (s.fw.progPos / 2 ^ 32) ∧
    look t.host.hold 0 0x034 = BitVec.ofNat 32 (s.fw.progTotal / 2 ^ 32) ∧
    t.host.progLatch = some (BitVec.ofNat 32 (devProgress s)) ∧ t.mem = s.mem ∧ t.fw = s.fw) := by
  refine ⟨readProgPos s, by simp [execDevProgPosLo, hb], rfl, ?_, ?_, rfl, rfl, rfl⟩
  · simp [readProgPos, gives, look_put_other]
  · simp [readProgPos, gives]

theorem errSummaryClear_completes (x : Word32) : Completes (.errSummaryClear x) s (fun t => t = { s with host := t.host } ∧
    ∀ b, b < 5 → t.host.errSummary.getLsbD b = (s.host.errSummary.getLsbD b && !x.getLsbD b)) := by
  refine ⟨{ s with host := { s.host with errSummary := s.host.errSummary &&& ~~~(x.setWidth 5) } },
    by simp [execErrSummaryClear, hb], rfl, fun b h5 => ?_⟩
  simp [h5]

theorem snap_completes (x : Word32) (k : Nat) (hx : x.getLsbD 0 = true) (hk : x.toNat / 256 % 256 = k) (hr : k < 64 ∨ k = 0xFF) :
    Completes (.snap x) s (fun t => t.host.cntCtx = k ∧ t.host.cntSlots = snapSlots s k ∧
      t.host.cntValid = (k == 0xFF || ctxExists s k) ∧ t = { s with host := t.host }) := by
  refine ⟨{ s with host := { s.host with cntCtx := k, cntSlots := snapSlots s k, cntValid := k == 0xFF || ctxExists s k } },
    ?_, rfl, rfl, rfl, rfl⟩
  simp only [exec_snap, execSnap, hb, hk, hr, hx, if_true, Bool.true_eq_false, if_false]

theorem mask_completes (n : Nat) (x : Word32) (hn : n < 64) : Completes (.mask n x) s (fun t =>
    (look t.host.msix {} n).mask = x.getLsbD 0 ∧
    (x.getLsbD 0 = false → (look t.host.msix {} n).pend = false ∧
      ((look s.host.msix {} n).pend = true → t.host.msi = s.host.msi ++ [n])) ∧ t = { s with host := t.host }) := by
  have hc : ¬(barUp s = false ∨ 64 ≤ n) := by simp only [hb, Bool.true_eq_false, false_or]; omega
  refine ⟨_, if_neg hc, ?_, fun hx => ⟨?_, fun hp => ?_⟩, rfl⟩
  · rw [(deliver_msix _ n).1, look_put_same]
  · rw [(deliver_msix _ n).2, look_put_same]; simp only [hx, Bool.and_false]
  · rw [deliver_msi, look_put_same]; simp only [hx, hp, Bool.not_false, Bool.and_self, if_true]

theorem baseLo_completes (n : Nat) (x : Word32) (hn : n < 16) : Completes (.baseLo n x) s (fun t =>
    (windowAt t n).base = (windowAt s n).baseHi * 2 ^ 32 + x.toNat / 2 ^ 21 * 2 ^ 21 ∧ (windowAt t n).blocked = 0 ∧
    (∀ w, w ≠ n → windowAt t w = windowAt s w) ∧ t = { s with host := t.host }) := by
  have hc : ¬(barUp s = false ∨ 16 ≤ n) := by simp only [hb, Bool.true_eq_false, false_or]; omega
  refine ⟨_, if_neg hc, ?_, ?_, fun w hw => windowAt_setWindow_other _ _ _ _ hw, rfl⟩
  · rw [windowAt_setWindow]
  · rw [windowAt_setWindow]

/-- The registers below the error block are read-only (R465, R466). -/
theorem registerWrite_readOnly (off : Nat) (x : Word32) (h4 : off % 4 = 0) (ho : off < 0x1000) :
    exec (.registerWrite off x) s = .next s := by
  have h : off ≠ 0x1000 ∧ off ≠ 0x1004 ∧ off ≠ 0x200C ∧ off ≠ 0x4000 ∧ ¬(0x3000 ≤ off ∧ off < 0x3100) ∧
      ¬(0x8000 ≤ off ∧ off < 0x8400) ∧ ¬(0x10_0000 ≤ off ∧ off < 0x14_0000) := by omega
  obtain ⟨h1, h2, h3, h5, h6, h7, h8⟩ := h
  simp only [exec_registerWrite, execRegisterWrite, hb, h4, h1, h2, h3, h5, h6, h7, h8, Bool.true_eq_false, ne_eq, not_true_eq_false,
    or_self, if_false]

theorem registerWrite_errMask (x : Word32) : exec (.registerWrite 0x1004 x) s =
    .next { s with host := { s.host with errMask := x.setWidth 5 } } := by
  simp [execRegisterWrite, hb]

/-- A write into the buffer of a mailbox. -/
theorem registerWrite_box (m i : Nat) (x : Word32) (hm : m < 16) (hi : i < 0x800) :
    exec (.registerWrite (0x10_0000 + 0x4000 * m + 4 * i) x) s = .next (writeBox s m i x) := by
  obtain ⟨off, hoff⟩ : ∃ off, off = 0x10_0000 + 0x4000 * m + 4 * i := ⟨_, rfl⟩
  have h : off % 4 = 0 ∧ off ≠ 0x1000 ∧ off ≠ 0x1004 ∧ off ≠ 0x200C ∧ off ≠ 0x4000 ∧ ¬(0x3000 ≤ off ∧ off < 0x3100) ∧
      ¬(0x8000 ≤ off ∧ off < 0x8400) ∧ (0x10_0000 ≤ off ∧ off < 0x14_0000) ∧ (off - 0x10_0000) / 0x4000 = m ∧
      off % 0x4000 / 4 = i ∧ i ≠ 0x800 := by omega
  obtain ⟨h4, h1, h2, h3, h5, h6, h7, h8, h9, h10, h11⟩ := h
  rw [← hoff]
  simp only [exec_registerWrite, execRegisterWrite, hb, h4, h1, h2, h3, h5, h6, h7, h8, h9, h10, h11, Bool.true_eq_false, ne_eq,
    not_true_eq_false, or_self, and_self, if_false, if_true]

theorem registerWrite_box_completes (m i : Nat) (x : Word32) (hm : m < 16) (hi : i < 0x800) :
    (boxBusy s m = true → Completes (.registerWrite (0x10_0000 + 0x4000 * m + 4 * i) x) s (fun t => t = s)) ∧
    (boxBusy s m = false → Completes (.registerWrite (0x10_0000 + 0x4000 * m + 4 * i) x) s (fun t =>
      look (look t.fw.boxes {} m).buf 0 i = x ∧ t.mem = s.mem ∧ t.ctxs = s.ctxs)) := by
  have he := registerWrite_box hb m i x hm hi
  have hi' : ¬(0x800 ≤ i) := by omega
  constructor
  · intro hy
    exact ⟨_, he, by simp [writeBox, hy]⟩
  · intro hy
    exact ⟨_, he, by simp [writeBox, hy, hi'], by simp [writeBox, hy, hi'], by simp [writeBox, hy, hi']⟩

/-- A SUBMIT that a mailbox takes. -/
theorem submit_takes (m : Nat) (x : Word32) (hm : m < 16) (hx : x.getLsbD 0 = true) (hy : boxBusy s m = false) :
    exec (.submit m x) s = .next (submitTo s m (readMsg m (boxBytes (look s.fw.boxes {} m)))
      ((boxBytes (look s.fw.boxes {} m)).drop 32)) := by
  have hm' : ¬(16 ≤ m) := by omega
  simp only [exec_submit, execSubmit, hb, hx, hy, hm', Bool.true_eq_false, Bool.false_eq_true, or_self, if_false]

end Bar0

/-- The message of a mailbox counts as that mailbox's. -/
theorem boxOf_readMsg (s : State) (m : Nat) (bs : List Byte) (hm : m < 16) : boxOf s (readMsg m bs).1 = some m := by
  simp [boxOf, readMsg, hm]

/-- A message that passes checks 1 to 4 is held (R345, R347). -/
theorem submitTo_held {s : State} {m : Nat} {bs p : List Byte} (hm : m < 16)
    (h : submitRefusal s.fw.msgMinor m (readMsg m bs).1 (readMsg m bs).2.1 (readMsg m bs).2.2 p = none) :
    (look (submitTo s m (readMsg m bs) p).fw.boxes {} m).taken =
      (look s.fw.boxes {} m).taken ++ [((readMsg m bs).1, (readMsg m bs).2.1, p.take (readMsg m bs).2.2)] ∧
    (submitTo s m (readMsg m bs) p).mem = s.mem ∧ (submitTo s m (readMsg m bs) p).ctxs = s.ctxs := by
  unfold submitTo
  rw [boxOf_readMsg s m bs hm, Option.getD_some, h]
  exact ⟨by rw [look_put_same], rfl, rfl⟩

/-- A refused message with none held before it is answered at once (R345). -/
theorem submitTo_refused {s : State} {m st : Nat} {bs p : List Byte} (hm : m < 16)
    (h : submitRefusal s.fw.msgMinor m (readMsg m bs).1 (readMsg m bs).2.1 (readMsg m bs).2.2 p = some st)
    (he : (look s.fw.boxes {} m).taken = []) :
    submitTo s m (readMsg m bs) p = answer s (readMsg m bs).1 (readMsg m bs).2.1 st [] := by
  unfold submitTo
  rw [boxOf_readMsg s m bs hm, Option.getD_some, h]
  exact if_pos he

/-- A refused message waits for those held before it (R345). -/
theorem submitTo_late {s : State} {m st : Nat} {bs p : List Byte} (hm : m < 16)
    (h : submitRefusal s.fw.msgMinor m (readMsg m bs).1 (readMsg m bs).2.1 (readMsg m bs).2.2 p = some st)
    (he : (look s.fw.boxes {} m).taken ≠ []) :
    submitTo s m (readMsg m bs) p = { s with fw := { s.fw with boxes := put s.fw.boxes m { look s.fw.boxes {} m with
      late := (look s.fw.boxes {} m).late ++
        [((look s.fw.boxes {} m).taken.length, (readMsg m bs).1, (readMsg m bs).2.1, st)] } } } := by
  unfold submitTo
  rw [boxOf_readMsg s m bs hm, Option.getD_some, h]
  exact if_neg he

/-! ### BAR2 -/

theorem bar2_window (w o : Nat) (ho : o < 2 ^ 32) : (w * 2 ^ 32 + o) / 2 ^ 32 = w ∧ (w * 2 ^ 32 + o) % 2 ^ 32 = o := by
  omega

/-- In a range that is plain memory nothing is refused and nothing lies in a cache slice. -/
theorem reach_plain {s : State} {a n : Nat} {r : Reach} (hr : r ≠ .plain) (h : ∀ i, i < n → reachOf s (a + i) = .plain) :
    ((List.range n).map (fun i => reachOf s (a + i))).any (fun q => q == r) = false := by
  simp only [List.any_map, List.any_eq_false, List.mem_range, Function.comp_apply, beq_iff_eq]
  intro i hi e
  exact hr (by rw [← e, h i hi])

/-- One byte refused refuses the access. -/
theorem reach_refused {s : State} {a n i : Nat} (hi : i < n) (h : reachOf s (a + i) = .refused) :
    ((List.range n).map (fun i => reachOf s (a + i))).any (fun q => q == .refused) = true := by
  simp only [List.any_map, List.any_eq_true, List.mem_range, Function.comp_apply, beq_iff_eq]
  exact ⟨i, hi, h⟩

@[simp] theorem windowAt_block (s : State) (w : Nat) :
    windowAt (block s w) w = { windowAt s w with blocked := min ((windowAt s w).blocked + 1) 0xFFFF } := by
  simp [block]

/-- Where no error stands in memory a read meets none. -/
theorem meet_clean {s : State} (h : s.mem.upsets = []) (k src a n : Nat) : meet s k src a n = s := by
  simp [meet, h]

section Bar2
variable {s : State} {w o : Nat} (hb : barUp s = true) (hw : w < 16) (ho : o < 2 ^ 32)
include hb hw ho

theorem bar2Read_closed (n : Nat) (he : (windowAt s w).enable = false) :
    exec (.bar2Read (w * 2 ^ 32 + o) n false) s = .next (allOnes s n) := by
  obtain ⟨hq, -⟩ := bar2_window w o ho
  have hw' : ¬(16 ≤ w) := by omega
  simp only [exec_bar2Read, execBar2Read, hq, hb, hw', he, Bool.true_eq_false, or_self, or_true, if_false, if_true]

section Open
variable (hr : s.fw.recovering = false) (he : (windowAt s w).enable = true)
include hr he

theorem bar2Read_plain (n : Nat)
    (hp : ∀ i, i < n → reachOf s ((windowAt s w).base + o + i) = .plain) :
    exec (.bar2Read (w * 2 ^ 32 + o) n false) s = .next (readWindow s ((windowAt s w).base + o) n false) := by
  obtain ⟨hq, hm⟩ := bar2_window w o ho
  have hw' : ¬(16 ≤ w) := by omega
  simp only [exec_bar2Read, execBar2Read, hq, hm, hb, hw', hr, he, reach_plain (r := .refused) (by decide) hp,
    reach_plain (r := .cache) (by decide) hp, Bool.true_eq_false, Bool.false_eq_true, or_self, if_false]

theorem bar2Read_refused (n i : Nat) (hi : i < n) (hp : reachOf s ((windowAt s w).base + o + i) = .refused) :
    exec (.bar2Read (w * 2 ^ 32 + o) n false) s = .next (allOnes (block s w) n) := by
  obtain ⟨hq, hm⟩ := bar2_window w o ho
  have hw' : ¬(16 ≤ w) := by omega
  simp only [exec_bar2Read, execBar2Read, hq, hm, hb, hw', hr, he, reach_refused hi hp, Bool.true_eq_false, Bool.false_eq_true,
    or_self, if_false, if_true]

theorem bar2Write_locked (d : List Byte) (hwe : (windowAt s w).writeEn = false) :
    exec (.bar2Write (w * 2 ^ 32 + o) d) s = .next (block s w) := by
  obtain ⟨hq, -⟩ := bar2_window w o ho
  have hw' : ¬(16 ≤ w) := by omega
  simp only [exec_bar2Write, execBar2Write, hq, hb, hw', hr, he, hwe, Bool.true_eq_false, Bool.false_eq_true, or_self, if_false,
    if_true]

theorem bar2Write_plain (d : List Byte) (hwe : (windowAt s w).writeEn = true)
    (hp : ∀ i, i < d.length → reachOf s ((windowAt s w).base + o + i) = .plain) :
    exec (.bar2Write (w * 2 ^ 32 + o) d) s = .next (writeDpa s ((windowAt s w).base + o) d false) := by
  obtain ⟨hq, hm⟩ := bar2_window w o ho
  have hw' : ¬(16 ≤ w) := by omega
  simp only [exec_bar2Write, execBar2Write, hq, hm, hb, hw', hr, he, hwe, reach_plain (r := .refused) (by decide) hp,
    reach_plain (r := .cache) (by decide) hp, Bool.true_eq_false, Bool.false_eq_true, or_self, if_false]

end Open
end Bar2

/-! ### The statement -/

/-- Settles O53, register by register and window by window. -/
theorem hostAccess : Obligations.HostAccess := by
  refine ⟨fun s hb => ⟨?_, ?_, lastSeq_completes hb, devProgPosLo_completes hb, errSummaryClear_completes hb, snap_completes hb,
    mask_completes hb, baseLo_completes hb, ?_, ?_, registerWrite_box_completes hb, ?_⟩, fun s w o hb hw ho => ⟨?_, fun hr he => ?_⟩⟩
  · intro off x hx h1 h2
    refine ⟨_, lowWordRead_gives hb off, ?_⟩
    rw [readReg_low hx h1 h2]
    exact ⟨rfl, look_put_same .., rfl, rfl, rfl⟩
  · intro off h1 h2 hv h4 hl
    refine ⟨_, lowWordRead_gives hb off, ?_⟩
    rw [readReg_high hv h1 h2 h4 hl]
    exact ⟨rfl, rfl, rfl⟩
  · exact fun off x h4 ho => ⟨s, registerWrite_readOnly hb off x h4 ho, rfl⟩
  · exact fun x => ⟨_, registerWrite_errMask hb x, rfl, rfl⟩
  · intro m x hm hx hy
    have ht := submit_takes hb m x hm hx hy
    refine ⟨fun h => ⟨_, ht, submitTo_held hm h⟩, fun st h he => ⟨_, ht, submitTo_refused hm h he⟩, fun st h he => ⟨_, ht, ?_⟩⟩
    rw [submitTo_late hm h he]
    exact ⟨rfl, by rw [look_put_same], by rw [look_put_same]⟩
  · exact fun n he => ⟨_, bar2Read_closed hb hw ho n he, rfl, rfl⟩
  · refine ⟨?_, fun n i hi hp => ?_, fun d hwe => ?_, fun d hm hwe hp => ?_⟩
    · intro n hu hp
      refine ⟨_, bar2Read_plain hb hw ho hr he n hp, ?_⟩
      simp only [readWindow, meet_clean hu]
      exact ⟨rfl, rfl, rfl⟩
    · exact ⟨_, bar2Read_refused hb hw ho hr he n i hi hp, rfl, congrArg Window.blocked (windowAt_block s w), rfl⟩
    · exact ⟨_, bar2Write_locked hb hw ho hr he d hwe, congrArg Window.blocked (windowAt_block s w), rfl⟩
    · refine ⟨_, bar2Write_plain hb hw ho hr he d hwe hp, fun a => ?_, rfl, rfl⟩
      rw [writeDpa_mem, memByte_writeMem s.mem _ a d false hm.1]

end Sys2Proof.Machine

/-! ## Physical cores that fail and pairs that switch (R19, R22, R23, R135, R410) -/

namespace Sys2Proof.Machine

/-! ### Copies of physical memory -/

theorem meetOne_place_clock (k src : Nat) (s : State) (u : Nat × Bool) :
    (meetOne k src s u).place = s.place ∧ (meetOne k src s u).clock = s.clock := by
  have hkeep : ∀ t : State, (keepHandling t).place = t.place ∧ (keepHandling t).clock = t.clock := by
    intro t
    unfold keepHandling
    repeat' split
    all_goals exact ⟨rfl, rfl⟩
  unfold meetOne uncorrected correctedErr
  dsimp only
  split_ifs
  · exact ⟨rfl, rfl⟩
  · exact hkeep _
  · exact ⟨rfl, rfl⟩
  · exact ⟨rfl, rfl⟩
  · exact ⟨rfl, rfl⟩

/-- Errors met and bytes copied change neither the placement nor the time. -/
theorem copyDpa_place_clock (s : State) (k src dst n : Nat) :
    (copyDpa s k src dst n).place = s.place ∧ (copyDpa s k src dst n).clock = s.clock := by
  have h : (meet s k 0 src n).place = s.place ∧ (meet s k 0 src n).clock = s.clock :=
    List.foldlRecOn (motive := fun t : State => t.place = s.place ∧ t.clock = s.clock) _ _ ⟨rfl, rfl⟩ fun t ht u _ =>
      ⟨(meetOne_place_clock k 0 t u).1.trans ht.1, (meetOne_place_clock k 0 t u).2.trans ht.2⟩
  exact h

theorem foldl_copyDpa_place_clock (s : State) (k n : Nat) (src dst : State → Nat → Nat) (l : List Nat) :
    (l.foldl (fun s o => copyDpa s k (src s o) (dst s o) n) s).place = s.place ∧
      (l.foldl (fun s o => copyDpa s k (src s o) (dst s o) n) s).clock = s.clock :=
  List.foldlRecOn (motive := fun t : State => t.place = s.place ∧ t.clock = s.clock) _ _ ⟨rfl, rfl⟩ fun t ht o _ =>
    ⟨(copyDpa_place_clock t k (src t o) (dst t o) n).1.trans ht.1, (copyDpa_place_clock t k (src t o) (dst t o) n).2.trans ht.2⟩

theorem loadScratch_place_clock (s : State) (k n p : Nat) :
    (loadScratch s k n p).place = s.place ∧ (loadScratch s k n p).clock = s.clock :=
  foldl_copyDpa_place_clock ..

/-- Where no error stands, a copy changes memory only, and none stands after it. -/
theorem copyDpa_clean {s : State} (hu : s.mem.upsets = []) (k src dst n : Nat) :
    ∃ m : Mem, copyDpa s k src dst n = { s with mem := m } ∧ m.upsets = [] :=
  ⟨copyMem s.mem src dst n, by simp only [copyDpa, meet_clean hu], by simp [copyMem, clearMem, upsetsAfter, hu]⟩

theorem foldl_copyDpa_clean {s : State} (hu : s.mem.upsets = []) (k n : Nat) (src dst : State → Nat → Nat) (l : List Nat) :
    ∃ m : Mem, l.foldl (fun s o => copyDpa s k (src s o) (dst s o) n) s = { s with mem := m } ∧ m.upsets = [] := by
  refine List.foldlRecOn (motive := fun t : State => ∃ m : Mem, t = { s with mem := m } ∧ m.upsets = []) _ _ ⟨s.mem, rfl, hu⟩ ?_
  rintro _ ⟨m, rfl, hm⟩ o -
  exact copyDpa_clean (s := { s with mem := m }) hm k _ _ n

theorem saveScratch_clean {s : State} (hu : s.mem.upsets = []) (k n p : Nat) :
    ∃ m : Mem, saveScratch s k n p = { s with mem := m } ∧ m.upsets = [] := foldl_copyDpa_clean hu ..

theorem loadScratch_clean {s : State} (hu : s.mem.upsets = []) (k n p : Nat) :
    ∃ m : Mem, loadScratch s k n p = { s with mem := m } ∧ m.upsets = [] := foldl_copyDpa_clean hu ..

/-- Time away is counted, and nothing else changes. -/
theorem countAway_obs (s : State) (ns : List Nat) : ∃ o : Observe, countAway s ns = { s with obs := o } := by
  refine List.foldlRecOn (motive := fun t : State => ∃ o : Observe, t = { s with obs := o }) _ _ ⟨s.obs, rfl⟩ ?_
  rintro _ ⟨o, rfl⟩ n -
  dsimp only
  split
  · exact ⟨o, rfl⟩
  · exact ⟨_, rfl⟩

/-! ### A change of who holds which physical core -/

theorem physAt_setPhys (s : State) (p q : Nat) (x : Phys) : physAt (setPhys s p x) q = if q = p then x else physAt s q := by
  by_cases h : q = p
  · subst h; simp [physAt, setPhys]
  · simp [physAt, setPhys, look_put_other, h]

/-- Two states of one moment that differ in their placement by which logical core holds which physical one, and not in the
layout nor in what physical cores keep of failures and tests. -/
structure Replaced (s t : State) : Prop where
  clock : t.clock = s.clock
  layout : t.place.layout = s.place.layout
  quota : t.place.quota = s.place.quota
  phys : ∀ q, physAt t q = { physAt s q with resident := (physAt t q).resident, switchAt := (physAt t q).switchAt }

namespace Replaced

theorem of_same {s t : State} (hc : t.clock = s.clock) (hl : t.place.layout = s.place.layout)
    (hq : t.place.quota = s.place.quota) (hp : t.place.phys = s.place.phys) : Replaced s t :=
  ⟨hc, hl, hq, fun q => by simp only [physAt, hp]⟩

theorem of_place {s t : State} (h : t.place = s.place ∧ t.clock = s.clock) : Replaced s t :=
  of_same h.2 (by rw [h.1]) (by rw [h.1]) (by rw [h.1])

theorem refl (s : State) : Replaced s s := of_place ⟨rfl, rfl⟩

theorem trans {s t u : State} (h : Replaced s t) (h' : Replaced t u) : Replaced s u where
  clock := h'.clock.trans h.clock
  layout := h'.layout.trans h.layout
  quota := h'.quota.trans h.quota
  phys q := by rw [h'.phys q, h.phys q]

theorem foldl {α : Type} {f : State → α → State} (hf : ∀ s a, Replaced s (f s a)) (l : List α) (s : State) :
    Replaced s (l.foldl f s) :=
  List.foldlRecOn l f (refl s) fun t ht a _ => ht.trans (hf t a)

theorem healthy {s t : State} (h : Replaced s t) (p : Nat) : healthy t p = healthy s p := by
  have hf : (physAt t p).failed = (physAt s p).failed := by rw [h.phys p]
  simp only [Machine.healthy, hf]

/-- A physical core given to a resident. -/
theorem hold (s : State) (p : Nat) (r : Option Nat) (w : Nat) :
    Replaced s (setPhys s p { physAt s p with resident := r, switchAt := w }) where
  clock := rfl
  layout := rfl
  quota := rfl
  phys q := by
    rw [physAt_setPhys]
    split
    · subst_vars; rfl
    · rfl

theorem raise (s : State) (code cls k u : Nat) (p : List Byte) : Replaced s (raise s code cls k u p) := of_place ⟨rfl, rfl⟩

theorem mapCore (s : State) (n p : Nat) : Replaced s (mapCore s n p) := by
  unfold Machine.mapCore
  split
  · exact refl s
  · exact of_same rfl rfl rfl rfl

theorem placeCore (s : State) (n : Nat) : Replaced s (placeCore s n).1 := by
  unfold Machine.placeCore
  split
  · exact mapCore ..
  · split
    · exact (mapCore ..).trans (hold ..)
    · exact refl s

theorem markUnavailable (s : State) (part : Nat) : Replaced s (markUnavailable s part) := by
  unfold Machine.markUnavailable
  split
  · exact refl s
  · exact of_same rfl rfl rfl rfl

theorem placeAll' (s : State) (ns : List Nat) : Replaced s (placeAll' s ns) := by
  refine foldl (fun s n => ?_) ns s
  dsimp only
  split
  · exact placeCore s n
  · exact (placeCore s n).trans (markUnavailable ..)

theorem keepStandIn (s : State) : Replaced s (keepStandIn s) :=
  (foldl (fun s (e : Nat × Nat) => mapCore s e.1 e.2) s.place.patrolMoves s).trans (of_same rfl rfl rfl rfl)

theorem moveStandIns (s : State) (p : Nat) : Replaced s (moveStandIns s p) := by
  unfold Machine.moveStandIns
  split
  · exact refl s
  · refine .trans ?_ (hold ..)
    exact of_same rfl rfl rfl rfl

theorem countAway (s : State) (ns : List Nat) : Replaced s (countAway s ns) := by
  obtain ⟨o, ho⟩ := countAway_obs s ns
  rw [ho]
  exact of_place ⟨rfl, rfl⟩

theorem loadScratch (s : State) (k n p : Nat) : Replaced s (loadScratch s k n p) := of_place (loadScratch_place_clock s k n p)

theorem loadAway (s : State) (ns : List Nat) : Replaced s (loadAway s ns) := by
  refine foldl (fun s n => ?_) ns s
  split
  · exact loadScratch ..
  · exact refl s

theorem coreFailedEvent (s : State) (p moved cause : Nat) (ks : List Nat) : Replaced s (coreFailedEvent s p moved cause ks) := by
  unfold Machine.coreFailedEvent
  dsimp only
  split
  · exact raise ..
  · exact foldl (fun s k => raise ..) ks s

theorem capacityEvent (s : State) (old : Capacity × Tbl Nat × List Nat) : Replaced s (capacityEvent s old) := by
  unfold Machine.capacityEvent
  dsimp only
  split
  · exact refl s
  · exact raise ..

theorem watchTick (s : State) (k : Nat) : Replaced s (watchTick s k) := by
  unfold Machine.watchTick
  dsimp only
  split
  · exact refl s
  · exact of_place ⟨rfl, rfl⟩

theorem setPart (s : State) (part : Nat) (x : PartSt) : Replaced s (setPart s part x) := of_same rfl rfl rfl rfl

theorem makeResident (s : State) (part k : Nat) : Replaced s (makeResident s part k) :=
  (((watchTick s k).trans (setPart ..)).trans (foldl (fun s (np : Nat × Nat) => loadScratch s k np.1 np.2) _ _)).trans
    (of_place ⟨rfl, rfl⟩)

theorem schedule (s : State) (part : Nat) : Replaced s (schedule s part) := by
  unfold Machine.schedule
  dsimp only
  split
  · split
    · exact makeResident ..
    · exact refl s
  · exact refl s

theorem replaceUnplaced (s : State) : Replaced s (replaceUnplaced s) := by
  refine foldl (fun s part => ?_) (partNums s.place) s
  have hp : Replaced s ((unplaced s part).foldl (fun s n => (Machine.placeCore s n).1) s) := foldl placeCore _ s
  dsimp only
  split
  · exact hp.trans (markUnavailable ..)
  · split
    · exact hp.trans ((setPart ..).trans (schedule ..))
    · exact hp

end Replaced

/-! ### The failure of a physical core -/

theorem healthy_of_failed {s : State} {p : Nat} (h : (physAt s p).failed = true) : healthy s p = false := by
  simp [healthy, h]

theorem healthy_of_not_failed {s : State} {p : Nat} (hp : p < 336) (h : (physAt s p).failed = false) : healthy s p = true := by
  simp [healthy, h, hp]

/-- A healthy core that fails is marked failed; all else a failure does to the placement is to place logical cores anew. -/
theorem failCore_marks {s : State} {p : Nat} (cause : Nat) (h : healthy s p = true) :
    ∃ s0, Replaced s s0 ∧ Replaced (markFailed s0 p cause) (failCore s p cause) := by
  have hrest : ∀ (t : State) (ns away ks : List Nat) (moved : Nat) (old : Capacity × Tbl Nat × List Nat), Replaced t
      (capacityEvent (coreFailedEvent (loadAway (moveStandIns (placeAll' t ns) p) away) p moved cause ks) old) :=
    fun t ns away ks moved old => ((((Replaced.placeAll' t ns).trans (.moveStandIns ..)).trans (.loadAway ..)).trans
      (.coreFailedEvent ..)).trans (.capacityEvent ..)
  have haway := Replaced.countAway s ((mappedOn s.place p).filter (fun n => (residentPhys s n).isNone))
  unfold failCore
  rw [if_neg (by simp [h])]
  refine ⟨_, ?_, hrest ..⟩
  split
  · refine (haway.trans ?_).trans (.keepStandIn _)
    exact .of_same rfl rfl rfl rfl
  · exact haway

theorem physAt_failCore {s : State} {p : Nat} (cause : Nat) (h : healthy s p = true) :
    (physAt (failCore s p cause) p).failed = true ∧ (physAt (failCore s p cause) p).cause = cause ∧
      s.clock.ns ∈ (physAt (failCore s p cause) p).failures := by
  obtain ⟨s0, h0, h1⟩ := failCore_marks cause h
  rw [h1.phys p]
  simp [markFailed, physAt_setPhys, h0.clock]

/-! ### Re-verification -/

/-- A cleared range reads as zeros, and every other byte as before. -/
theorem memByte_clearMem (m : Mem) (a n x : Nat) :
    memByte (clearMem m a n) x = if a ≤ x ∧ x < a + n then 0 else memByte m x := by
  have hr : inRange (clearMem m a n).stale x = (inRange m.stale x && !(decide (a ≤ x) && decide (x < a + n))) := inRange_cutOut ..
  have hc : byteAt (clearMem m a n).cells x = if a ≤ x ∧ x < a + n then 0 else byteAt m.cells x := byteAt_clearRange ..
  unfold memByte
  rw [hr, hc]
  by_cases hx : a ≤ x ∧ x < a + n
  · simp [hx]
  · have hx' : x < a ∨ a + n ≤ x := by omega
    simp [hx, hx']

/-- Test data in a scratchpad leaves every other byte. -/
theorem onlyScratch_testData (s : State) (p : Nat) : OnlyScratch s (testData s p 1) p := by
  intro a ha
  rw [Nat.add_one_mul] at ha
  have hx : ¬(Config.scratchDpa + p * Config.scratchBytes ≤ a ∧ a < Config.scratchDpa + p * Config.scratchBytes + 1 * Config.scratchBytes) := by
    omega
  have hout : inRange [(Config.scratchDpa + p * Config.scratchBytes, 1 * Config.scratchBytes)] a = false := by
    simpa [inRange] using hx
  rw [← if_neg (t := (0 : Byte)) (e := memByte s.mem a) hx, ← memByte_clearMem]
  simp only [memByte, testData, inRange, List.any_append] at hout ⊢
  rw [hout, Bool.or_false]
  rfl

theorem OnlyScratch.of_mem {s t u : State} {p : Nat} (h : OnlyScratch s t p) (hm : u.mem = t.mem) : OnlyScratch s u p := by
  unfold OnlyScratch
  rw [hm]
  exact h

section Reverify
variable {s : State} {p : Nat} (hp : p < 336) (hf : (physAt s p).failed = true) (hc : (physAt s p).cause = 0)
  (hn : (physAt s p).never = false) (ht : (physAt s p).lastTest + 3600000000000 ≤ s.clock.ns)
include hf hc hn ht

theorem coreReverify_due : ¬((physAt s p).failed = false ∨ (physAt s p).cause ≠ 0 ∨ (physAt s p).never = true ∨
    s.clock.ns < (physAt s p).lastTest + hour) := by
  simp [hf, hc, hn, ht]

theorem coreReverify_counts (h2 : (physAt s p).passes < 2) : Completes (.coreReverify p true) s (fun t =>
    healthy t p = false ∧ (physAt t p).passes = (physAt s p).passes + 1 ∧ OnlyScratch s t p) := by
  refine ⟨setPhys (testData s p 1) p { physAt s p with passes := (physAt s p).passes + 1, lastTest := s.clock.ns }, ?_,
    healthy_of_failed ?_, ?_, (onlyScratch_testData s p).of_mem rfl⟩
  · rw [exec_coreReverify, execCoreReverify, if_neg (coreReverify_due hf hc hn ht)]
    exact if_pos (show (physAt s p).passes + 1 < 3 by omega)
  · simpa [physAt_setPhys] using hf
  · simp [physAt_setPhys]

include hp in
theorem coreReverify_heals (h2 : 2 ≤ (physAt s p).passes) :
    Completes (.coreReverify p true) s (fun t => healthy t p = true) := by
  refine ⟨capacityEvent (replaceUnplaced (raise (setPhys (testData s p 1) p { physAt s p with
    failed := false, passes := 0, lastTest := s.clock.ns }) 0x0804 clsC noCtx (unitPhys p) (p4 p)))
    (reportOf (testData s p 1)), ?_, ?_⟩
  · rw [exec_coreReverify, execCoreReverify, if_neg (coreReverify_due hf hc hn ht)]
    exact if_neg (show ¬(physAt s p).passes + 1 < 3 by omega)
  · refine (((Replaced.raise ..).trans (.replaceUnplaced _)).trans (.capacityEvent ..)).healthy p |>.trans ?_
    exact healthy_of_not_failed hp (by simp [physAt_setPhys])

theorem coreReverify_fails : Completes (.coreReverify p false) s (fun t =>
    healthy t p = false ∧ (physAt t p).never = true ∧ OnlyScratch s t p) := by
  refine ⟨coreFailedEvent (setPhys (testData s p 1) p
    { physAt s p with lastTest := s.clock.ns, never := true, cause := 2, passes := 0 }) p 0 2 [], ?_, healthy_of_failed ?_, ?_,
    (onlyScratch_testData s p).of_mem rfl⟩
  · rw [exec_coreReverify, execCoreReverify, if_neg (coreReverify_due hf hc hn ht)]
    rfl
  all_goals rw [(Replaced.coreFailedEvent ..).phys p, physAt_setPhys, if_pos rfl]
  exact hf

end Reverify

/-- Settles O26: the failure marks the core, and whatever it moves keeps the mark; each outcome of a re-verification. -/
theorem coresFail : Obligations.CoresFail := by
  refine fun s p => ⟨fun h => ?_, fun h => ?_, fun hp hf hc hn ht =>
    ⟨coreReverify_counts hf hc hn ht, coreReverify_heals hp hf hc hn ht, coreReverify_fails hf hc hn ht⟩⟩
  · obtain ⟨hfail, hcause, hrec⟩ := physAt_failCore 0 h
    exact ⟨_, rfl, healthy_of_failed hfail, hcause, hrec⟩
  · rw [exec_coreLogicFault, execCoreLogicFault, failCore, if_pos h]

/-! ### The switch of a pair -/

/-- Where no error stands in memory, a switch puts the other core in charge and leaves map, cores and contexts. -/
theorem switchPair_moves {s : State} (hu : s.mem.upsets = []) (p a b : Nat) :
    (physAt (switchPair s p a b) p).resident = some b ∧ (physAt (switchPair s p a b) p).switchAt = s.clock.ns ∧
    (switchPair s p a b).place.map = s.place.map ∧ (switchPair s p a b).cores = s.cores ∧
    (switchPair s p a b).ctxs = s.ctxs := by
  unfold switchPair
  dsimp only
  split
  case isTrue hk =>
    obtain ⟨o, ho⟩ := countAway_obs s [b]
    obtain ⟨m, hm, hmu⟩ := saveScratch_clean (s := { s with obs := o }) hu ((runningOn s a).getD 64) a p
    rw [ho, hm]
    obtain ⟨m', hm', -⟩ := loadScratch_clean (s := setPhys { s with obs := o, mem := m } p
      { physAt { s with obs := o, mem := m } p with resident := some b, switchAt := s.clock.ns }) hmu ((runningOn s a).getD 64) b p
    rw [hm']
    simp [physAt, traceCat, setPhys]
  case isFalse => simp [physAt, setPhys]

section Switch
variable {s : State} {p a b : Nat} (hab : pairOn s p = some (a, b))
include hab

theorem quantumExpiry_switches (hp : s.place.patrol ≠ some p)
    (ht : (physAt s p).switchAt + (partSt s.place (partOf s.place a)).quantumUs * 1000 ≤ s.clock.ns) :
    exec (.shadowQuantumExpiry p) s = .next (switchPair s p a b) := by
  simp only [exec_shadowQuantumExpiry, execShadowQuantumExpiry, hab, if_pos (And.intro ht hp)]

theorem earlySwitch_switches {k : Nat} (hp : s.place.patrol ≠ some p) (hk : runningOn s a = some k)
    (ha : waitsFor s k a 2000 = true) (hb : waitsFor s k b 0 = false) :
    exec (.shadowEarlySwitch p) s = .next (switchPair s p a b) := by
  simp [execShadowEarlySwitch, hab, hk, ha, hb, hp]

theorem quantumExpiry_under_test (hp : s.place.patrol = some p) : exec (.shadowQuantumExpiry p) s = .next s := by
  simp [execShadowQuantumExpiry, hab, hp]

theorem earlySwitch_under_test (hp : s.place.patrol = some p) : exec (.shadowEarlySwitch p) s = .next s := by
  cases hk : runningOn s a <;> simp [execShadowEarlySwitch, hab, hp, hk]

end Switch

/-- Settles O27: both switches carry out `switchPair`, which a core under test does not reach. -/
theorem pairsSwitch : Obligations.PairsSwitch :=
  fun s p a b hab hu =>
    ⟨fun hp => ⟨fun ht => ⟨_, quantumExpiry_switches hab hp ht, switchPair_moves hu p a b⟩,
      fun _ hk ha hb => ⟨_, earlySwitch_switches hab hp hk ha hb, switchPair_moves hu p a b⟩⟩,
     fun hp => ⟨⟨s, quantumExpiry_under_test hab hp, rfl⟩, ⟨s, earlySwitch_under_test hab hp, rfl⟩⟩⟩

end Sys2Proof.Machine

/-! ## The messages about memory, trusses, regions, the layout, power and budgets (R219, R222, R272, R360, R361, R364) -/

namespace Sys2Proof.Machine

/-! ### A message that its type carries out -/

/-- What the handling of a type answers: OK, with an effect and a result of which `P` holds. -/
def Gives (o : State × Nat × List Byte) (P : State → List Byte → Prop) : Prop := o.2.1 = stOk ∧ P o.1 o.2.2

/-- The message taken out of its mailbox changes firmware's books only. -/
theorem untake_fw (s : State) (h : MsgHdr) (t : MsgType) : ∃ f : Firmware, untake s h t = { s with fw := f } := by
  unfold untake
  dsimp only
  split
  · exact ⟨_, rfl⟩
  · exact ⟨s.fw, rfl⟩

section Handled
variable {i : Instr} {t : MsgType} {h : MsgHdr} {s : State} {body : State → State × Nat × List Byte}

/-- A message is carried out when its type's body answers OK, whatever firmware's books hold once it is taken. -/
theorem does_of {P : State → List Byte → Prop} (he : exec i s = message i t h s body)
    (hb : ∀ f, untake s h t = { s with fw := f } → Gives (body { s with fw := f }) P) : Does i s h t P := by
  intro box ha
  obtain ⟨f, hf⟩ := untake_fw s h t
  obtain ⟨hok, hP⟩ := hb f hf
  refine ⟨_, _, ?_, hP⟩
  rw [he, message_completes ha (u := (body { s with fw := f }).1) (r := (body { s with fw := f }).2.2)]
  rw [hf, ← hok]

/-- A message is refused by its type when the body denies it. -/
theorem denies_of {st : Nat} (hst : st ≠ stOk) (he : exec i s = message i t h s body)
    (hb : ∀ f, body { s with fw := f } = deny { s with fw := f } st) : Denies i s h t st := by
  intro box ⟨h1, h2⟩
  obtain ⟨f, hf⟩ := untake_fw s h t
  rw [he, hf]
  simp only [message, h1, h2, hf, hb, deny, if_neg hst]

end Handled

theorem Does.mono {i : Instr} {t : MsgType} {h : MsgHdr} {s : State} {P Q : State → List Byte → Prop} (hd : Does i s h t P)
    (hPQ : ∀ u r, P u r → Q u r) : Does i s h t Q := by
  intro box ha
  obtain ⟨u, r, he, hP⟩ := hd box ha
  exact ⟨u, r, he, hPQ u r hP⟩

/-! ### Reads that firmware's books do not decide -/

section Books
variable (s : State) (f : Firmware)

@[simp] theorem ctxOf_fw (k : Nat) : ctxOf { s with fw := f } k = ctxOf s k := rfl
@[simp] theorem trussOf_fw (k v : Nat) : trussOf { s with fw := f } k v = trussOf s k v := rfl
@[simp] theorem ctxExists_fw (k : Nat) : ctxExists { s with fw := f } k = ctxExists s k := rfl
@[simp] theorem quotaOk_fw (part n : Nat) : quotaOk { s with fw := f } part n = quotaOk s part n := rfl

end Books

theorem othersKept_setCtx (s : State) (k : Nat) (x : Ctx) : OthersKept s (setCtx s k x) k :=
  fun j hj => ctxOf_setCtx_other s k j x hj

/-! ### Pages allocated and freed -/

section Alloc
variable {s : State} {h : MsgHdr} {va : Nat} {perm : BitVec 8}

theorem memAlloc_does {size kind page : Nat} {s1 : State} (hk : kind ≤ 1) (hp : page ≤ 1) (hperm : perm.toNat < 16)
    (hkp : kind = 1 → page = 0) (hr : rangeOk va size (if page = 1 then Config.page1g else Config.page2) = true)
    (hm : someMapped (ctxOf s h.ctx).pages va size = false) (hq : kind = 0 → quotaOk s (ctxOf s h.ctx).part size = true)
    (hs : ((List.range (size / (if page = 1 then Config.page1g else Config.page2))).map
        (fun i => va + i * (if page = 1 then Config.page1g else Config.page2))).foldlM
        (if kind = 0 then allocHbm (ctxOf s h.ctx).part h.ctx (if page = 1 then Config.page1g else Config.page2) perm
          else allocThatch (ctxOf s h.ctx).part h.ctx perm) (untake s h { code := 0x0018, kind := .own, ctx := true }) = some s1) :
    Does (.memAlloc h va size kind page perm false) s h { code := 0x0018, kind := .own, ctx := true }
      (fun u _ => u = s1) := by
  refine does_of (exec_memAlloc ..) fun f hf => ?_
  rw [hf] at hs
  have hc : ¬(1 < kind ∨ 1 < page ∨ 16 ≤ perm.toNat ∨ (kind = 1 ∧ page = 1)) := by omega
  by_cases h0 : kind = 0
  · rw [if_pos h0] at hs
    simp only [ctxOf_fw, quotaOk_fw, if_neg hc, hr, hm, hq h0, if_pos h0, hs, Bool.false_eq_true, Bool.true_eq_false, or_self, if_false]
    exact ⟨rfl, rfl⟩
  · rw [if_neg h0] at hs
    simp only [ctxOf_fw, if_neg hc, hr, hm, if_neg h0, hs, Bool.false_eq_true, Bool.true_eq_false, or_self, if_false]
    exact ⟨rfl, rfl⟩

/-- A page of the table put at the start of its 2 MiB is what maps that address. -/
theorem pageOf_put_small (t : Tbl Page) (va : Nat) (p : Page) (hva : va % Config.page2 = 0) (hv : p.valid = true)
    (hb : p.big = false) : pageOf (put t (va / Config.page2) p) va = some (p, p.dpa) := by
  simp only [pageOf, look_put_same, hv, hb, hva, and_self, if_true, Nat.add_zero]

/-- One HBM page allocated: its entry in the table, zeros where it lies, and no other context touched. -/
theorem allocHbm_page {t : State} {part k a : Nat} (hva : va % Config.page2 = 0)
    (ht : takeHbm t (stacksOf t.place part) (ctxOf t k).turn Config.page2 (Config.pageStart t.mem.allocs) = some a) :
    ∃ u, allocHbm part k Config.page2 perm t va = some u ∧
      pageOf (ctxOf u k).pages va = some ({
        big := false, dpa := a, r := perm.getLsbD 0, w := perm.getLsbD 1, x := perm.getLsbD 2, nocache := perm.getLsbD 3,
        valid := true }, a) ∧
      OthersKept t u k ∧ ∀ b, byteAt u.mem.cells b = if a ≤ b ∧ b < a + Config.page2 then 0 else byteAt t.mem.cells b := by
  refine ⟨_, by simp only [allocHbm, ht]; rfl, ?_, fun j hj => ?_, fun b => byteAt_clearRange t.mem.cells a Config.page2 b⟩
  · rw [mapPage, ctxOf_setCtx]
    exact pageOf_put_small _ va _ hva rfl rfl
  · exact (othersKept_setCtx _ k _ j hj).trans (othersKept_setCtx _ k _ j hj)

theorem memAllocPage_does {a : Nat} (hperm : perm.toNat < 16) (hr : rangeOk va Config.page2 Config.page2 = true)
    (hm : someMapped (ctxOf s h.ctx).pages va Config.page2 = false) (hq : quotaOk s (ctxOf s h.ctx).part Config.page2 = true)
    (ht : takeHbm s (stacksOf s.place (ctxOf s h.ctx).part) (ctxOf s h.ctx).turn Config.page2
      (Config.pageStart s.mem.allocs) = some a) :
    Does (.memAlloc h va Config.page2 0 0 perm false) s h { code := 0x0018, kind := .own, ctx := true } (fun u _ =>
      pageOf (ctxOf u h.ctx).pages va = some ({
        big := false, dpa := a, r := perm.getLsbD 0, w := perm.getLsbD 1, x := perm.getLsbD 2, nocache := perm.getLsbD 3,
        valid := true }, a) ∧
      OthersKept s u h.ctx ∧ ∀ b, byteAt u.mem.cells b = if a ≤ b ∧ b < a + Config.page2 then 0 else byteAt s.mem.cells b) := by
  have hva : va % Config.page2 = 0 := by
    simp only [rangeOk, Bool.and_eq_true, beq_iff_eq] at hr
    exact hr.1.1
  obtain ⟨f, hf⟩ := untake_fw s h { code := 0x0018, kind := .own, ctx := true }
  obtain ⟨u, hu, hP⟩ := allocHbm_page (perm := perm) (t := { s with fw := f }) (k := h.ctx) hva ht
  have hs : ((List.range (Config.page2 / Config.page2)).map (fun i => va + i * Config.page2)).foldlM
      (allocHbm (ctxOf s h.ctx).part h.ctx Config.page2 perm) { s with fw := f } = some u := by
    simpa [List.range_succ] using hu
  refine (memAlloc_does (by decide) (by decide) hperm (by decide) hr hm (fun _ => hq) (hf ▸ hs)).mono ?_
  rintro _ - rfl
  exact hP

end Alloc

/-- Where no core of a launch has stream work, no orphan is left to land. -/
theorem landOrphans_idle {s : State} {k : Nat} (hn : ∀ n ∈ launchCores (ctxOf s k), flightsOf (coreOf s k n) .stream = []) :
    landOrphans s k = s := by
  refine List.foldlRecOn (motive := fun t : State => t = s) _ _ rfl ?_
  rintro _ rfl n hmem
  simp only [landCore, hn n hmem, List.filter_nil, List.foldl_nil]

theorem memFree_does {s : State} {h : MsgHdr} {va size : Nat} (hr : rangeOk va size Config.page2 = true)
    (ha : allMapped (ctxOf s h.ctx).pages va size = true) (hp : pinned (ctxOf s h.ctx) va size = false)
    (hn : ∀ n ∈ launchCores (ctxOf s h.ctx), flightsOf (coreOf s h.ctx n) .stream = []) :
    Does (.memFree h va size) s h { code := 0x0019, kind := .own, ctx := true } (fun u _ =>
      ctxOf u h.ctx = { ctxOf s h.ctx with pages := unmapRange (ctxOf s h.ctx).pages va size } ∧ OthersKept s u h.ctx ∧
        u.mem = s.mem) := by
  refine does_of (exec_memFree ..) fun f _ => ?_
  simp only [landOrphans_idle (s := { s with fw := f }) hn, ctxOf_fw, hr, ha, hp, Bool.true_eq_false, Bool.false_eq_true, or_self,
    if_false]
  exact ⟨rfl, ctxOf_setCtx .., othersKept_setCtx _ h.ctx _, rfl⟩

/-! ### Pages written and read -/

/-- Between two states nothing differs but the lines of the cache and the counter of free values. -/
def OnlyLines (s t : State) : Prop :=
  ∃ (ls : List Line) (c : Nat), t = { s with mem := { s.mem with lines := ls }, freeCtr := c }

theorem OnlyLines.refl (s : State) : OnlyLines s s := ⟨s.mem.lines, s.freeCtr, rfl⟩

theorem OnlyLines.trans {s t u : State} (h : OnlyLines s t) (h' : OnlyLines t u) : OnlyLines s u := by
  obtain ⟨_, _, rfl⟩ := h
  obtain ⟨ls, c, rfl⟩ := h'
  exact ⟨ls, c, rfl⟩

theorem onlyLines_hbmLine (s : State) (part line g : Nat) (wr alloc : Bool) : OnlyLines s (hbmLine s part line g wr alloc).1 := by
  unfold hbmLine
  dsimp only
  split
  · exact ⟨_, _, rfl⟩
  · exact ⟨_, _, rfl⟩

theorem onlyLines_hbmRange (part : Nat) (alloc : Bool) (st : State × Nat) (a n : Nat) (wr : Bool) :
    OnlyLines st.1 (hbmRange part alloc st a n wr).1 := by
  unfold hbmRange
  split
  · exact .refl _
  · exact List.foldlRecOn (motive := fun r : State × Nat => OnlyLines st.1 r.1) _ _ (.refl _) fun r hr i _ =>
      hr.trans (onlyLines_hbmLine r.1 part (a / 256 + i) (lineGrains a n (a / 256 + i)) wr alloc)

theorem onlyLines_hbmTraffic (s : State) (k : Nat) (ts : List Touch) : OnlyLines s (hbmTraffic s k ts).1 :=
  List.foldlRecOn (motive := fun r : State × Nat => OnlyLines s r.1) _ _ (.refl s) fun r hr t _ =>
    hr.trans (onlyLines_hbmRange (ctxOf r.1 k).part t.cache r t.dpa t.len t.wr)

/-- Ranges that are written, or read where no error stands, meet nothing. -/
theorem onlyLines_reach {s : State} {k : Nat} {ts : List Touch} (h : s.mem.upsets = [] ∨ ∀ t ∈ ts, t.wr = true) :
    OnlyLines s (reach s k ts).1 := by
  have hm : (ts.filter (fun t => !t.wr)).foldl (fun s t => meet s k 0 t.dpa t.len) s = s := by
    refine List.foldlRecOn (motive := fun t : State => t = s) _ _ rfl ?_
    rintro _ rfl t ht
    obtain ⟨hmem, hread⟩ := List.mem_filter.1 ht
    rcases h with hu | hw
    · exact meet_clean hu ..
    · simp [hw t hmem] at hread
  unfold reach
  rw [hm]
  exact onlyLines_hbmTraffic s k ts

theorem onlyLines_touchPages {s : State} {k va size : Nat} {wr : Bool} (h : s.mem.upsets = [] ∨ wr = true) :
    OnlyLines s (touchPages s k va size wr) := by
  refine onlyLines_reach (h.imp_right fun hw t ht => ?_)
  obtain ⟨v, -, rfl⟩ := List.mem_map.1 ht
  exact hw

/-- What a list reads as within a piece of it. -/
theorem nth_take_drop {α : Type} (l : List α) (o n i : Nat) (d : α) (hi : i < n) :
    nth ((l.drop o).take n) i d = nth l (o + i) d := by
  simp [nth, List.getD_eq_getElem?_getD, List.getElem?_drop, hi]

theorem nth_past {α : Type} (l : List α) (i : Nat) (d : α) (hi : l.length ≤ i) : nth l i d = d :=
  List.getD_eq_default _ _ hi

/-- A page of a MEM_WRITE holds the data at its place in the range, zeros past the data's end, and no other byte changes. -/
theorem byteAt_writePage {s : State} {k va v : Nat} {data : List Byte} (hw : cellsWf s.mem.cells = true) (b : Nat) :
    byteAt (writePage k va data s v).mem.cells b =
      if dpaOf (ctxOf s k) v ≤ b ∧ b < dpaOf (ctxOf s k) v + Config.page2 then nth data (v - va + (b - dpaOf (ctxOf s k) v)) 0
      else byteAt s.mem.cells b := by
  have hlen : ((data.drop (v - va)).take Config.page2).length ≤ Config.page2 := List.length_take_le ..
  have hclear : byteAt (clearMem s.mem (dpaOf (ctxOf s k) v) Config.page2).cells b =
      if dpaOf (ctxOf s k) v ≤ b ∧ b < dpaOf (ctxOf s k) v + Config.page2 then 0 else byteAt s.mem.cells b := byteAt_clearRange ..
  simp only [writePage]
  rw [byteAt_setBytes _ _ _ _ (cellsWf_clearMem s.mem _ _ hw), hclear]
  by_cases hin : dpaOf (ctxOf s k) v ≤ b ∧ b < dpaOf (ctxOf s k) v + Config.page2
  · rw [if_pos hin, if_pos hin, ← nth_take_drop data (v - va) Config.page2 _ 0 (by omega)]
    by_cases hd : b < dpaOf (ctxOf s k) v + ((data.drop (v - va)).take Config.page2).length
    · rw [if_pos ⟨hin.1, hd⟩]
    · rw [if_neg (fun h => hd h.2), nth_past _ _ _ (by omega)]
  · rw [if_neg (by omega), if_neg hin, if_neg hin]

theorem cellsWf_writePage {s : State} {k va v : Nat} {data : List Byte} (hw : cellsWf s.mem.cells = true) :
    cellsWf (writePage k va data s v).mem.cells = true := cellsWf_setBytes _ _ _ (cellsWf_clearMem s.mem _ _ hw)

/-- The pages of a MEM_WRITE leave contexts, and every byte that lies on none of them. -/
theorem foldl_writePage_frame {s : State} {k va : Nat} {data : List Byte} (l : List Nat) (hw : cellsWf s.mem.cells = true) :
    (l.foldl (writePage k va data) s).ctxs = s.ctxs ∧
    ∀ b, (∀ v ∈ l, b < dpaOf (ctxOf s k) v ∨ dpaOf (ctxOf s k) v + Config.page2 ≤ b) →
      byteAt (l.foldl (writePage k va data) s).mem.cells b = byteAt s.mem.cells b := by
  induction l generalizing s with
  | nil => exact ⟨rfl, fun _ _ => rfl⟩
  | cons v l ih =>
    obtain ⟨hctx, hbytes⟩ := ih (s := writePage k va data s v) (cellsWf_writePage hw)
    refine ⟨hctx, fun b hb => (hbytes b fun w hwl => hb w (List.mem_cons_of_mem v hwl)).trans ?_⟩
    have hv := hb v List.mem_cons_self
    rw [byteAt_writePage hw, if_neg (by omega)]

theorem pageVas_one (va : Nat) : pageVas va Config.page2 = [va] := by
  simp [pageVas, List.range_succ]

theorem memWrite_does {s : State} {h : MsgHdr} {va size ha : Nat} {data : List Byte} (hw : cellsWf s.mem.cells = true)
    (hc : copyOk (ctxOf s h.ctx) va size = true) (hx : (ctxOf s h.ctx).launched = false ∨
      (pageVas va size).all (fun v => match pageOf (ctxOf s h.ctx).pages v with | some (p, _) => !p.x | none => true) = true) :
    Does (.memWrite h va size ha data) s h { code := 0x001A, kind := .own, ctx := true } (fun u _ => u.ctxs = s.ctxs ∧
      (∀ b, (∀ v ∈ pageVas va size, b < dpaOf (ctxOf s h.ctx) v ∨ dpaOf (ctxOf s h.ctx) v + Config.page2 ≤ b) →
        byteAt u.mem.cells b = byteAt s.mem.cells b) ∧
      (size = Config.page2 → ∀ i, i < Config.page2 → byteAt u.mem.cells (dpaOf (ctxOf s h.ctx) va + i) = nth data i 0)) := by
  refine does_of (exec_memWrite ..) fun f _ => ?_
  obtain ⟨ls, c, hl⟩ := onlyLines_touchPages (s := { s with fw := f }) (k := h.ctx) (va := va) (size := size) (wr := true) (.inr rfl)
  simp only [ctxOf_fw, hc, hl, Bool.true_eq_false, if_false]
  rw [if_neg]
  · obtain ⟨hctx, hbytes⟩ := foldl_writePage_frame (k := h.ctx) (va := va) (data := data)
      (s := { s with fw := f, mem := { s.mem with lines := ls }, freeCtr := c }) (pageVas va size) hw
    refine ⟨rfl, hctx, hbytes, ?_⟩
    rintro rfl i hi
    rw [pageVas_one]
    refine (byteAt_writePage hw _).trans ?_
    rw [if_pos ⟨Nat.le_add_right .., Nat.add_lt_add_left hi _⟩, Nat.sub_self, Nat.zero_add]
    exact congrArg (nth data · 0) (Nat.add_sub_cancel_left ..)
  · rw [Bool.and_eq_true]
    rintro ⟨hlaunch, hexec⟩
    obtain ⟨v, hv, hvx⟩ := List.any_eq_true.1 hexec
    rcases hx with hl | hall
    · rw [hl] at hlaunch
      cases hlaunch
    · have := List.all_eq_true.1 hall v hv
      cases hp : pageOf (ctxOf s h.ctx).pages v <;> simp_all

/-- Poison noted in the state ranges of contexts changes the contexts only. -/
theorem foldl_notePoison_ctxs (s : State) (l : List Nat) (a : Nat → Nat) :
    ∃ xs, l.foldl (fun s g => notePoison s (a g)) s = { s with ctxs := xs } := by
  refine List.foldlRecOn (motive := fun t : State => ∃ xs, t = { s with ctxs := xs }) _ _ ⟨s.ctxs, rfl⟩ ?_
  rintro _ ⟨xs, rfl⟩ g -
  exact ⟨_, rfl⟩

theorem memRead_does {s : State} {h : MsgHdr} {va size ha : Nat} (hc : copyOk (ctxOf s h.ctx) va size = true)
    (hu : s.mem.upsets = []) :
    Does (.memRead h va size ha) s h { code := 0x001B, kind := .own, ctx := true } (fun u r => SameBytes s u ∧
      u.host.hostWr = s.host.hostWr ++ [(ha, (pageVas va size).flatMap (fun v => pageBytes s.mem (dpaOf (ctxOf s h.ctx) v)))] ∧
      r = p8 (((pageVas va size).map (fun v => (pagePoison s.mem (dpaOf (ctxOf s h.ctx) v)).length)).sum)) := by
  refine does_of (exec_memRead ..) fun f _ => ?_
  obtain ⟨ls, c, hl⟩ := onlyLines_touchPages (s := { s with fw := f }) (k := h.ctx) (va := va) (size := size) (wr := false) (.inl hu)
  obtain ⟨xs, hx⟩ := foldl_notePoison_ctxs { s with fw := f, mem := { s.mem with lines := ls }, freeCtr := c }
    ((pageVas va size).flatMap (fun v => pagePoison s.mem (dpaOf (ctxOf s h.ctx) v))) (fun g => 64 * g)
  have hp : pagePoison { s.mem with lines := ls } = pagePoison s.mem := rfl
  have hb : pageBytes { s.mem with lines := ls } = pageBytes s.mem := rfl
  simp only [ctxOf_fw, hc, hl, hp, hb, hx, Bool.true_eq_false, if_false, List.flatMap_map, List.map_map]
  exact ⟨rfl, ⟨rfl, rfl, rfl, rfl⟩, rfl, rfl⟩

/-! ### Trusses (R219 to R222) -/

section Truss
variable {s : State} {h : MsgHdr} {v mode home lim n : Nat} {fwd : List FwdEntry} {ms : List Member}

@[simp] theorem trussOf_setTruss (s : State) (k v : Nat) (t : Truss) : trussOf (setTruss s k v t) k v = t := by
  simp [trussOf, setTruss]

theorem trussOf_setTruss_other {s : State} {k v w : Nat} {t : Truss} (hw : w ≠ v) :
    trussOf (setTruss s k v t) k w = trussOf s k w := by
  simp [trussOf, setTruss, look_put_other _ _ _ _ _ hw]

theorem trussCreate_held (hl : boundLately s h.ctx 0 v (trussOf s h.ctx v).bound (trussOf s h.ctx v).ever (trussOf s h.ctx v).bgen = true) :
    exec (.trussCreate h v mode home lim n fwd ms false) s = .next s := by
  rw [exec_trussCreate, execTrussCreate, if_pos hl]

theorem trussCreate_denies
    (hl : boundLately s h.ctx 0 v (trussOf s h.ctx v).bound (trussOf s h.ctx v).ever (trussOf s h.ctx v).bgen = false)
    (hb : ms.any badCore = true) :
    Denies (.trussCreate h v 1 home lim n fwd ms false) s h { code := 0x0030, kind := .own, ctx := true } stInvalidCore := by
  refine denies_of (by decide) ((exec_trussCreate ..).trans (if_neg (by rw [hl]; decide))) fun f => ?_
  exact if_pos ⟨rfl, hb⟩

/-- A valid list of members names no reserved core. -/
theorem memberOk_not_badCore {m : Member} (h : memberOk m = true) : badCore m = false := by
  cases m <;> simp_all [memberOk, badCore]

theorem trussValid_not_badCore {part : Nat} (hv : trussValid s part v mode home lim n fwd ms false = true) :
    ¬(mode = 1 ∧ ms.any badCore = true) := by
  rintro ⟨rfl, hb⟩
  obtain ⟨m, hm, hbad⟩ := List.any_eq_true.1 hb
  simp only [trussValid, one_ne_zero, if_false, Bool.and_eq_true] at hv
  obtain ⟨-, ⟨-, hok⟩, -⟩ := hv
  rw [memberOk_not_badCore (List.all_eq_true.1 hok m hm)] at hbad
  cases hbad

theorem trussCreate_does {d : Nat} (hl : boundLately s h.ctx 0 v false (trussOf s h.ctx v).ever (trussOf s h.ctx v).bgen = false)
    (hv : trussValid s (ctxOf s h.ctx).part v mode home lim n fwd ms false = true) (hb : (trussOf s h.ctx v).bound = false)
    (hd : trussHome s (ctxOf s h.ctx).part home ms = some d) :
    Does (.trussCreate h v mode home lim n fwd ms false) s h { code := 0x0030, kind := .own, ctx := true } (fun u r =>
      (trussOf u h.ctx v).bound = true ∧ (trussOf u h.ctx v).home = d ∧ (trussOf u h.ctx v).gen = 0 ∧
      (trussOf u h.ctx v).bgen = (if (trussOf s h.ctx v).ever then ((trussOf s h.ctx v).bgen + 1) % 0x1_0000 else 0) ∧
      r = leBytes 2 (trussOf u h.ctx v).bgen ∧ (∀ w, w ≠ v → trussOf u h.ctx w = trussOf s h.ctx w) ∧
      OthersKept s u h.ctx ∧ u.mem = s.mem) := by
  refine does_of ((exec_trussCreate ..).trans (if_neg (by rw [hb, hl]; decide))) fun f _ => ?_
  have hv' : trussValid { s with fw := f } (ctxOf s h.ctx).part v mode home lim n fwd ms false = true := hv
  have hd' : trussHome { s with fw := f } (ctxOf s h.ctx).part home ms = some d := hd
  simp only [ctxOf_fw, trussOf_fw, if_neg (trussValid_not_badCore hv), hv', hb, hd', Bool.true_eq_false, Bool.false_eq_true, if_false]
  refine ⟨rfl, ?_⟩
  dsimp only [done]
  rw [trussOf_setTruss]
  exact ⟨rfl, rfl, rfl, rfl, rfl, fun w hw => trussOf_setTruss_other hw, othersKept_setCtx _ h.ctx _, rfl⟩

theorem trussDestroy_does (hv : v < 0x10_0000) (hb : (trussOf s h.ctx v).bound = true) (hw : (trussOf s h.ctx v).waiters = []) :
    Does (.trussDestroy h v false) s h { code := 0x0031, kind := .own, ctx := true } (fun u _ =>
      trussOf u h.ctx v = { ever := true, bgen := (trussOf s h.ctx v).bgen } ∧ OthersKept s u h.ctx ∧ u.mem = s.mem) := by
  refine does_of (exec_trussDestroy ..) fun f _ => ?_
  have hc : ¬(false = true ∨ 0x10_0000 ≤ v ∨ (trussOf s h.ctx v).bound = false) := by
    rw [hb]
    simpa using hv
  simp only [trussOf_fw, if_neg hc, hw, ne_eq, not_true_eq_false, if_false]
  exact ⟨rfl, trussOf_setTruss .., othersKept_setCtx _ h.ctx _, rfl⟩

end Truss

/-! ### Regions (R272, R361) -/

section Region
variable {s : State} {h : MsgHdr} {key : Nat}

theorem regionCreate_does {perm : BitVec 8} {base len : Nat} (hk : key ≠ 0) (hk' : key ≤ 0xFFFF_FFFF) (hp : perm.toNat < 4)
    (hb : base % 64 = 0) (hl : len % 64 = 0) (hl' : len ≠ 0) (hm : regionMapped s (ctxOf s h.ctx) base len = true)
    (hf : (look (ctxOf s h.ctx).regions {} key).bound = false)
    (hn : ((ctxOf s h.ctx).regions.filter (fun e => e.2.bound)).length < 4096)
    (ht : boundLately s h.ctx 1 key false (look (ctxOf s h.ctx).regions {} key).ever (look (ctxOf s h.ctx).regions {} key).keyGen = false) :
    Does (.regionCreate h key perm base len false) s h { code := 0x0038, kind := .own, ctx := true } (fun u r =>
      (look (ctxOf u h.ctx).regions {} key).bound = true ∧ (look (ctxOf u h.ctx).regions {} key).base = base ∧
      (look (ctxOf u h.ctx).regions {} key).length = len ∧ r = leBytes 2 (look (ctxOf u h.ctx).regions {} key).keyGen ∧
      OthersKept s u h.ctx ∧ u.mem = s.mem) := by
  refine does_of ((exec_regionCreate ..).trans (if_neg (by rw [hf, ht]; decide))) fun f _ => ?_
  have hm' : regionMapped { s with fw := f } (ctxOf s h.ctx) base len = true := hm
  have hc : ¬(false = true ∨ key = 0 ∨ 0xFFFF_FFFF < key ∨ 4 ≤ perm.toNat ∨ base % 64 ≠ 0 ∨ len % 64 ≠ 0 ∨ len = 0 ∨
      regionMapped { s with fw := f } (ctxOf s h.ctx) base len = false) := by
    simp only [hm', Bool.false_eq_true, Bool.true_eq_false, false_or, or_false]
    omega
  dsimp only [ctxOf_fw]
  rw [if_neg hc, hf, if_neg Bool.false_ne_true, if_neg (Nat.not_le.2 hn)]
  refine ⟨rfl, ?_⟩
  dsimp only [done]
  rw [ctxOf_setCtx]
  dsimp only
  rw [look_put_same]
  exact ⟨rfl, rfl, rfl, rfl, othersKept_setCtx _ h.ctx _, rfl⟩

theorem regionDestroy_does (hb : (look (ctxOf s h.ctx).regions {} key).bound = true) :
    Does (.regionDestroy h key false) s h { code := 0x0039, kind := .own, ctx := true } (fun u _ =>
      (look (ctxOf u h.ctx).regions {} key).bound = false ∧
      (look (ctxOf u h.ctx).regions {} key).keyGen = (look (ctxOf s h.ctx).regions {} key).keyGen ∧ OthersKept s u h.ctx ∧
      u.mem = s.mem) := by
  refine does_of (exec_regionDestroy ..) fun f _ => ?_
  simp only [ctxOf_fw, hb, Bool.true_eq_false, Bool.false_eq_true, if_false]
  refine ⟨rfl, ?_⟩
  dsimp only [done]
  rw [ctxOf_setCtx]
  dsimp only
  rw [look_put_same]
  exact ⟨rfl, rfl, othersKept_setCtx _ h.ctx _, rfl⟩

end Region

/-! ### The layout and the slices (R30, R81, R364) -/

theorem Replaced.splitPair (s : State) (p : Nat) : Replaced s (splitPair s p) := by
  have hnew : ∀ n, Replaced s (if (Machine.placeCore s n).2 then (Machine.placeCore s n).1 else Machine.mapCore s n noPhys) := by
    intro n
    split
    · exact .placeCore ..
    · exact .mapCore ..
  unfold Machine.splitPair
  split
  · split
    · exact .refl s
    · exact hnew _
  · exact .refl s

theorem relayout_layout (s : State) (part quota : List Nat) :
    (relayout s part quota).place.layout = part ∧ (relayout s part quota).place.quota = quota := by
  have hr : ∀ (l : List Nat) t old, Replaced t (capacityEvent (replaceUnplaced (l.foldl splitPair t)) old) := fun l t old =>
    ((Replaced.foldl Replaced.splitPair l t).trans (.replaceUnplaced _)).trans (.capacityEvent ..)
  unfold relayout
  dsimp only
  exact ⟨(hr _ _ _).layout, (hr _ _ _).quota⟩

section Device
variable {s : State} {h : MsgHdr}

theorem partitionSet_does {part quota : List Nat} (hp : part.length = 16) (hq : quota.length = 16)
    (hu : part.all (unitOk part) = true)
    (hbusy : (List.range 16).any (fun b => unitMoves s.place part b &&
      ctxNums.any (fun k => ctxExists s k && partOfBay s.place b == (ctxOf s k).part)) = false)
    (hbay : (List.range 16).any (fun b => !((unitBays part (nth part b 16)).length == 1) && nth quota b 0 != 0) = false)
    (hgb : (List.range 4).any (fun d => decide (dieGb s d < ((List.range 4).map (fun i => nth quota (4 * d + i) 0)).sum)) = false) :
    Does (.partitionSet h part quota) s h { code := 0x0040, kind := .priv } (fun u _ =>
      u.place.layout = part ∧ u.place.quota = quota) := by
  refine does_of (exec_partitionSet ..) fun f _ => ?_
  have hc : ¬(part.length ≠ 16 ∨ quota.length ≠ 16 ∨ part.all (unitOk part) = false) := by simp [hp, hq, hu]
  have hgb' : (List.range 4).any (fun d => decide (dieGb { s with fw := f } d <
      ((List.range 4).map (fun i => nth quota (4 * d + i) 0)).sum)) = false := hgb
  simp only [if_neg hc, ctxOf_fw, ctxExists_fw, hbusy, hbay, hgb', Bool.false_eq_true, if_false]
  refine ⟨rfl, ?_⟩
  dsimp only [done]
  exact relayout_layout ..

@[simp] theorem sliceMode_setSlice (s : State) (i : Nat) (md : SliceMode) : sliceMode (setSlice s i md).mem i = md := by
  simp [sliceMode, setSlice]

/-- A slice given back is in SOFTWARE mode where it held save images, and as it was otherwise. -/
theorem sliceMode_giveBack (s : State) (i : Nat) :
    sliceMode (giveBack s i).mem i = if sliceMode s.mem i = .firmware then .software else sliceMode s.mem i := by
  unfold giveBack
  split
  · exact sliceMode_setSlice ..
  · rfl

theorem sliceMode_cacheOff (s : State) (i : Nat) : sliceMode (cacheOff s i).mem i = .software := by
  unfold cacheOff
  dsimp only
  split
  · exact sliceMode_setSlice s i .software
  · exact sliceMode_setSlice s i .software

theorem sliceMode_does {bd sl m : Nat} (hbd : bd < 4) (hsl : sl < 44) (hm : m ≤ 1) (hr : sliceMode s.mem (44 * bd + sl) ≠ .retired)
    (hfree : m = 1 → sliceMode s.mem (44 * bd + sl) = .cache ∨
      sliceUnmapped (giveBack (untake s h { code := 0x0041, kind := .priv }) (44 * bd + sl)) (44 * bd + sl) = true) :
    Does (.sliceMode h bd sl m false) s h { code := 0x0041, kind := .priv } (fun u _ =>
      sliceMode u.mem (44 * bd + sl) = if m = 1 then .cache else .software) := by
  refine does_of (exec_sliceMode ..) fun f hf => ?_
  rw [hf] at hfree
  have hc : ¬(4 ≤ bd ∨ 44 ≤ sl ∨ 1 < m ∨ sliceMode s.mem (44 * bd + sl) = .retired) := by
    simp only [hr, or_false]
    omega
  have hgive := sliceMode_giveBack { s with fw := f } (44 * bd + sl)
  dsimp only at hgive ⊢
  rw [if_neg Bool.false_ne_true, if_neg hc]
  generalize giveBack { s with fw := f } (44 * bd + sl) = s1 at hgive hfree ⊢
  have hs1 : sliceMode s1.mem (44 * bd + sl) = .cache ∨ sliceMode s1.mem (44 * bd + sl) = .software := by
    rw [hgive]
    cases hmode : sliceMode s.mem (44 * bd + sl) <;> simp_all
  rcases hs1 with hcache | hsoft
  · rw [hcache]
    interval_cases m
    · exact ⟨rfl, sliceMode_cacheOff ..⟩
    · exact ⟨rfl, hcache⟩
  · have hnot : sliceMode s.mem (44 * bd + sl) ≠ .cache := by
      intro hcache
      rw [hsoft, hcache] at hgive
      cases hgive
    rw [hsoft]
    interval_cases m
    · exact ⟨rfl, hsoft⟩
    · dsimp only
      rw [if_neg (by decide), (hfree rfl).resolve_left hnot, if_neg (by decide)]
      exact ⟨rfl, sliceMode_setSlice ..⟩

/-! ### Schedules, frequencies, power, budgets and time (R99, R314, R317, R320, R334) -/

/-- A message about a partition of the layout sets what it names of that partition. -/
theorem onPart_sets {s : State} {p : Nat} {ok : Bool} (hok : ok = true) (hp : (partNums s.place).elem p = true) (g : PartSt → PartSt) :
    onPart s p ok g = done (setPart s p (g (partSt s.place p))) [] := by
  simp only [onPart, hok, hp, Bool.true_eq_false, if_false]

@[simp] theorem partSt_setPart (s : State) (p : Nat) (x : PartSt) : partSt (setPart s p x).place p = x := by
  simp [partSt, setPart]

theorem schedSet_does {p a b : Nat} (hp : (partNums s.place).elem p = true) (ha : 1 ≤ a) (ha' : a ≤ 1000) (hb : 250 ≤ b)
    (hb' : b ≤ 10000) :
    Does (.schedSet h p a b false) s h { code := 0x0042, kind := .priv } (fun u _ =>
      partSt u.place p = { partSt s.place p with sliceMs := a, quantumUs := b } ∧ u.ctxs = s.ctxs ∧ u.mem = s.mem) := by
  refine does_of (exec_schedSet ..) fun f _ => ?_
  rw [if_neg Bool.false_ne_true, onPart_sets (s := { s with fw := f }) (by simp [ha, ha', hb, hb']) hp]
  exact ⟨rfl, partSt_setPart .., rfl, rfl⟩

/-- Looking at the episodes of fixed-frequency bays changes neither the placement nor memory. -/
theorem watchAllFixed_place_mem (s : State) : (watchAllFixed s).place = s.place ∧ (watchAllFixed s).mem = s.mem := by
  have hone : ∀ (t : State) (b : Nat), (watchFixed t b).place = t.place ∧ (watchFixed t b).mem = t.mem := by
    intro t b
    unfold watchFixed
    dsimp only
    repeat' split
    all_goals exact ⟨rfl, rfl⟩
  exact List.foldlRecOn (motive := fun t : State => t.place = s.place ∧ t.mem = s.mem) _ _ ⟨rfl, rfl⟩ fun t ht b _ =>
    ⟨(hone t b).1.trans ht.1, (hone t b).2.trans ht.2⟩

theorem fixedFreq_does {p o : Nat} (hp : (partNums s.place).elem p = true) (ho : o ≤ 1) :
    Does (.fixedFreq h p o false) s h { code := 0x0043, kind := .priv } (fun u _ =>
      partSt u.place p = { partSt s.place p with fixed := o == 1 } ∧ u.mem = s.mem) := by
  refine does_of (exec_fixedFreq ..) fun f _ => ?_
  dsimp only
  rw [if_neg Bool.false_ne_true, onPart_sets (s := { s with fw := f }) (by simp [ho]) hp]
  obtain ⟨hplace, hmem⟩ := watchAllFixed_place_mem
    (setPart { s with fw := f } p { partSt s.place p with fixed := o == 1 })
  exact ⟨rfl, (congrArg (partSt · p) hplace).trans (partSt_setPart ..), hmem⟩

theorem oppointSet_does {p : Nat} {fr : List Nat} (hp : (partNums s.place).elem p = true) (hl : fr.length = 4)
    (ha : fr.all (fun f => f % 5 == 0 && decide (550 ≤ f) && decide (f ≤ 1320)) = true) :
    Does (.oppointSet h p fr false) s h { code := 0x0044, kind := .priv } (fun u _ =>
      partSt u.place p = { partSt s.place p with freq := fr } ∧ u.ctxs = s.ctxs ∧ u.mem = s.mem) := by
  refine does_of (exec_oppointSet ..) fun f _ => ?_
  rw [if_neg Bool.false_ne_true, onPart_sets (s := { s with fw := f }) (by rw [hl, ha]; rfl) hp]
  exact ⟨rfl, partSt_setPart .., rfl, rfl⟩

/-- An event that concerns no context changes none. -/
theorem raise_ctxs_of_none {k : Nat} (hk : ¬k < 64) (s : State) (code cls u : Nat) (p : List Byte) :
    (raise s code cls k u p).ctxs = s.ctxs := by
  simp [raise, raiseOn, hk]

/-- The limit of the host set: the power state with it, and contexts and memory as they were, logged or not. -/
theorem setLimit_host (s : State) (w : Nat) : (setLimit s 0 w).power = { s.power with hostLimit := w } ∧
    (setLimit s 0 w).mem = s.mem ∧ (setLimit s 0 w).ctxs = s.ctxs := by
  by_cases hw : s.power.hostLimit = w
  · have he : setLimit s 0 w = s := by simp [setLimit, hw]
    rw [he, ← hw]
    exact ⟨rfl, rfl, rfl⟩
  · simp only [setLimit, if_true, if_neg hw]
    exact ⟨rfl, rfl, raise_ctxs_of_none (by decide) ..⟩

theorem powerLimit_does {w : Nat} (hw : 1200 ≤ w) (hw' : w ≤ 2700) :
    Does (.powerLimit h w false) s h { code := 0x0045, kind := .priv } (fun u r =>
      u.power = { s.power with hostLimit := w } ∧ r = leBytes 2 (min w s.power.boardLimit) ∧ u.mem = s.mem ∧ u.ctxs = s.ctxs) := by
  refine does_of (exec_powerLimit ..) fun f _ => ?_
  obtain ⟨hpower, hmem, hctx⟩ := setLimit_host { s with fw := f } w
  rw [if_neg Bool.false_ne_true, if_neg (by omega)]
  exact ⟨rfl, hpower, by dsimp only [done]; rw [hpower], hmem, hctx⟩

theorem budgetSet_does {c a b : Nat} (hb : 64 ≤ b) (hb' : b ≤ 50000) (hc : c ≠ 0xFF) (ha : 64 ≤ a) (ha' : a ≤ 160000)
    (he : ctxExists s c = true) :
    Does (.budgetSet h c a b false) s h { code := 0x0046, kind := .priv } (fun u _ =>
      ctxOf u c = { ctxOf s c with budgetHbm := a, budgetNet := b } ∧ OthersKept s u c ∧ u.mem = s.mem) := by
  refine does_of (exec_budgetSet ..) fun f _ => ?_
  rw [if_neg Bool.false_ne_true, if_neg (by omega), if_neg hc, ctxExists_fw, he, if_neg (by decide)]
  exact ⟨rfl, ctxOf_setCtx .., othersKept_setCtx _ c _, rfl⟩

theorem budgetSet_mirror_does {a b : Nat} (hb : 64 ≤ b) (hb' : b ≤ 50000) :
    Does (.budgetSet h 0xFF a b false) s h { code := 0x0046, kind := .priv } (fun u _ =>
      u.fw.mirrorBudget = b ∧ u.ctxs = s.ctxs ∧ u.mem = s.mem) := by
  refine does_of (exec_budgetSet ..) fun f _ => ?_
  rw [if_neg Bool.false_ne_true, if_neg (by omega), if_pos rfl]
  exact ⟨rfl, rfl, rfl, rfl⟩

theorem timeSource_does {a b c : Nat} (ha : a ≤ 2) (hb : b ≤ 3) (hc : c < 128) :
    Does (.timeSource h a b c false) s h { code := 0x0047, kind := .priv } (fun u _ =>
      u.clock = { s.clock with source := a, profile := b, port := c } ∧ u.ctxs = s.ctxs ∧ u.mem = s.mem) := by
  refine does_of (exec_timeSource ..) fun f _ => ?_
  rw [if_neg Bool.false_ne_true, if_neg (by omega)]
  exact ⟨rfl, rfl, rfl, rfl⟩

end Device

/-! ### The statement -/

/-- Settles O48, message by message. -/
theorem memoryMessages : Obligations.MemoryMessages := by
  refine fun s h => ⟨?_, ?_, ?_, ?_, ?_, ?_, ?_, ?_, ?_, ?_, ?_, ?_, ?_, ?_, ?_, ?_, ?_, ?_, ?_, ?_⟩
  · intro va size kind page perm s1 hk hp hperm hkp hr hm hq hs
    refine (memAlloc_does hk hp hperm hkp hr hm hq hs).mono ?_
    rintro _ - rfl
    exact ⟨rfl, rfl⟩
  · exact fun va perm a hperm hr hm hq ht => memAllocPage_does hperm hr hm hq ht
  · exact fun va size hr ha hp hn => memFree_does hr ha hp hn
  · exact fun va size ha data hw hc hx => memWrite_does hw.1 hc hx
  · exact fun va size ha hc hu => memRead_does hc hu
  · exact fun v mode home lim n fwd ms hl => ⟨s, trussCreate_held hl, rfl⟩
  · exact fun v home lim n fwd ms hl hb => trussCreate_denies hl hb
  · exact fun v mode home lim n fwd ms d hl hv hb hd => trussCreate_does hl hv hb hd
  · exact fun v hv hb hw => trussDestroy_does hv hb hw
  · exact fun key perm base len hk hk' hp hb hl hl' hm hf hn ht => regionCreate_does hk hk' hp hb hl hl' hm hf hn ht
  · exact fun key hb => regionDestroy_does hb
  · exact fun part quota hp hq hu hbusy hbay hgb => partitionSet_does hp hq hu hbusy hbay hgb
  · exact fun bd sl m hbd hsl hm hr hfree => sliceMode_does hbd hsl hm hr hfree
  · exact fun p a b hp ha ha' hb hb' => schedSet_does hp ha ha' hb hb'
  · exact fun p o hp ho => fixedFreq_does hp ho
  · exact fun p f hp hl ha => oppointSet_does hp hl ha
  · exact fun w hw hw' => powerLimit_does hw hw'
  · exact fun c a b hb hb' hc ha ha' he => budgetSet_does hb hb' hc ha ha' he
  · exact fun a b hb hb' => budgetSet_mirror_does hb hb'
  · exact fun a b c ha hb hc => timeSource_does ha hb hc

end Sys2Proof.Machine

/-! ## Words of program instructions (R43, R44, R48, R50) -/

namespace Sys2Proof

theorem decodeC_encodeC (opc : BitVec 8) (w : CWord) : decodeC (encodeC opc w) = w := by
  obtain ⟨pred, pneg, dst, srca, srcb, func, imm⟩ := w
  simp only [decodeC, encodeC, BitVec.extractLsb'_append_eq_ite, BitVec.getLsbD_append, CWord.mk.injEq]
  simp

theorem decodeT_encodeT (opc : BitVec 8) (w : TWord) : decodeT (encodeT0 opc w) (encodeT1 w) = w := by
  obtain ⟨pred, pneg, sigv, sigt, waita, waitb, waitc, sub, rsv, opd, opa, opb, opx, imm⟩ := w
  simp only [decodeT, encodeT0, encodeT1, BitVec.extractLsb'_append_eq_ite, BitVec.getLsbD_append, TWord.mk.injEq]
  simp

theorem opcode_encodeC (opc : BitVec 8) (w : CWord) : (encodeC opc w).extractLsb' 56 8 = opc := by
  simp only [encodeC, BitVec.extractLsb'_append_eq_ite]
  simp

theorem opcode_encodeT0 (opc : BitVec 8) (w : TWord) : (encodeT0 opc w).extractLsb' 56 8 = opc := by
  simp only [encodeT0, BitVec.extractLsb'_append_eq_ite]
  simp

/-- Settles O56: of each command with words, the opcode leads back to its mnemonic and the fields to its word. -/
theorem wordsRoundTrip : Obligations.WordsRoundTrip := by
  intro i c b h
  unfold encodeProgram at h
  split at h
  case h_49 => cases h
  all_goals
    cases h
    simp [decodeProgram, wordsC, wordsT, opcode_encodeC, opcode_encodeT0, decodeC_encodeC, decodeT_encodeT]

end Sys2Proof

/-! ## The sequencer's control instructions (R36, R48, R51, R52, R56, R57, R63, R64, R314) -/

namespace Sys2Proof.Machine

/-! ### Instructions that change their core only -/

section Issue
variable {s : State} {n k : Nat} {x : Core} {w : CWord}

/-- A format C instruction whose body leaves a state in which its core is not being stepped. -/
theorem issueC_runs {opc : Nat} {body : Nat → Core → Except Trap State} {t : State} (h : AtIssue s n 8 k x)
    (hp : predTrue x w.pred w.pneg = true) (hb : body k x = .ok t) (ht : (coreOf t k n).oneStep = false) :
    issueC s n opc w body = .next t := by
  rw [issueC, issue_runs h hp hb, stepped_free ht]

/-- Under a false predicate an instruction moves the PC past itself (R52). -/
theorem issue_skips {len opc : Nat} {p : BitVec 4} {neg : Bool} {body : Nat → Core → Except Trap State}
    (h : AtIssue s n len k x) (hp : predTrue x p neg = false) :
    issue s n len opc p neg body = .next (setCore s k n (adv x len)) := by
  obtain ⟨h1, h2, h3, h4⟩ := h
  simp only [issue, h1, h2, h3, hp, Bool.false_eq_true, if_false]
  rw [stepped_free]
  simp [h4]

/-- An instruction that writes the core `y` and nothing else. -/
theorem completes_setCore {i : Instr} {y : Core} {P : State → Prop} (he : exec i s = .next (setCore s k n y))
    (hP : P (setCore s k n y)) : Completes i s P := ⟨_, he, hP⟩

@[simp] theorem sreg_jump (x : Core) (a : Word) (r : Nat) : sreg (jump x a) r = sreg x r := rfl
@[simp] theorem predBit_jump (x : Core) (a : Word) (j : Nat) : predBit (jump x a) j = predBit x j := rfl

/-- A format C instruction that writes a scalar register and moves on. -/
theorem writesReg_completes {i : Instr} {opc : Nat} {f : Nat → Core → Option Core} {v : Word} (h : AtIssue s n 8 k x)
    (hp : predTrue x w.pred w.pneg = true) (he : exec i s = issueCore s n opc w f) (hf : f k x = some (setReg x w.dst.toNat v)) :
    Completes i s (fun t => OnlyCore s t k n ∧ SameButRegs x (coreOf t k n) ∧ (coreOf t k n).preds = x.preds ∧
      (∀ r, sreg (coreOf t k n) r = if r = w.dst.toNat ∧ r ≠ 0 then v else sreg x r) ∧ (coreOf t k n).pc = x.pc + 8) := by
  have hstep : x.oneStep = false := h.2.2.2
  refine completes_setCore (he.trans (issueCore_runs h hp hf (by simpa using hstep))) ⟨onlyCore_setCore .., ?_⟩
  rw [coreOf_setCore]
  exact ⟨sameButRegs_setReg .., by simp, fun r => by simp [sreg_setReg], by simp⟩

/-- A format C instruction that writes a predicate bit and moves on. -/
theorem writesPred_completes {i : Instr} {opc : Nat} {f : Nat → Core → Option Core} {v : Bool} (h : AtIssue s n 8 k x)
    (hp : predTrue x w.pred w.pneg = true) (he : exec i s = issueCore s n opc w f) (hf : f k x = some (setPred x w.dst.toNat v)) :
    Completes i s (fun t => OnlyCore s t k n ∧ SameButRegs x (coreOf t k n) ∧ (coreOf t k n).sregs = x.sregs ∧
      (∀ j, j < 16 → predBit (coreOf t k n) j = if j = w.dst.toNat ∧ j ≠ 0 then v else predBit x j) ∧
      (coreOf t k n).pc = x.pc + 8) := by
  have hstep : x.oneStep = false := h.2.2.2
  refine completes_setCore (he.trans (issueCore_runs h hp hf (by simpa using hstep))) ⟨onlyCore_setCore .., ?_⟩
  rw [coreOf_setCore]
  exact ⟨sameButRegs_setPred .., by simp, fun j hj => by simp [predBit_setPred _ _ _ _ hj], by simp⟩

end Issue

theorem jal_completes {s : State} {c k : Nat} {x : Core} {w : CWord} (h : AtIssue s c 8 k x)
    (hp : predTrue x w.pred w.pneg = true) :
    Completes (.jal c w) s (fun t => OnlyCore s t k c ∧ SameButRegs x (coreOf t k c) ∧ (coreOf t k c).preds = x.preds ∧
      (∀ r, sreg (coreOf t k c) r = if r = w.dst.toNat ∧ r ≠ 0 then x.pc + 8 else sreg x r) ∧
      (coreOf t k c).pc = x.pc + 8 * w.imm.signExtend 64) := by
  have hstep : x.oneStep = false := h.2.2.2
  have he : exec (.jal c w) s = .next (setCore s k c (jump (setReg x w.dst.toNat (x.pc + 8)) (brTarget w x))) :=
    (exec_jal ..).trans (issueC_runs h hp rfl (by simpa [jump] using hstep))
  refine completes_setCore he ⟨onlyCore_setCore .., ?_⟩
  rw [coreOf_setCore]
  refine ⟨?_, by simp [jump], fun r => by simp [sreg_setReg], by simp [jump, brTarget, simm, BitVec.mul_comm]⟩
  unfold SameButRegs jump setReg
  split <;> rfl

/-- Settles O1: four instructions write a register and move on, JAL writes one and jumps. -/
theorem scalarResults : Obligations.ScalarResults := by
  intro s c k x w i v h hp hi
  rcases hi with ⟨rfl, hv⟩ | ⟨rfl, hv⟩ | ⟨rfl, rfl⟩ | ⟨rfl, hv⟩ | ⟨rfl, rfl⟩
  · simpa using writesReg_completes h hp (exec_alu ..) (by simp [hv])
  · simpa using writesReg_completes h hp (exec_alui ..) (by simp [simm, hv])
  · simpa [BitVec.setWidth_eq_extractLsb'] using writesReg_completes h hp (exec_movhi ..) rfl
  · obtain ⟨n, hn, rfl⟩ := Option.map_eq_some_iff.1 hv
    simpa using writesReg_completes h hp (exec_sysrd ..) (by simp [hn])
  · simpa using jal_completes h hp

theorem dst_mod_of_clear {w : CWord} (h : w.dst.getLsbD 4 = false) : w.dst.toNat % 16 = w.dst.toNat := by
  have hd := w.dst.isLt
  rw [← BitVec.testBit_toNat, Nat.testBit_eq_decide_div_mod_eq, decide_eq_false_iff_not] at h
  omega

/-- Settles O2. -/
theorem predicateResults : Obligations.PredicateResults := by
  intro s c k x w i v h hp hd hi
  have hdst : ∀ r, r = some v → predDst w x r = some (setPred x w.dst.toNat v) := by
    rintro _ rfl
    rw [predDst, hd, dst_mod_of_clear hd]
    rfl
  rcases hi with ⟨rfl, hv⟩ | ⟨rfl, hv⟩ | ⟨rfl, hv⟩
  · exact writesPred_completes h hp (exec_cmp ..) (hdst _ hv)
  · exact writesPred_completes h hp (exec_cmpi ..) (hdst _ hv)
  · exact writesPred_completes h hp (exec_pred ..) (hdst _ hv)

end Sys2Proof.Machine

namespace Sys2Proof.Machine

/-! ### Where the PC goes (R48, R52, R56, R314) -/

theorem token_setToken (x : Core) (t v u : Nat) : token (setToken x t v) u = if u = t then v else token x u := by
  unfold token setToken
  by_cases h : u = t
  · subst h; simp
  · simp [h, look_put_other]

/-- What `Obligations.ControlFlow` says of the core `y` that an instruction leaves. -/
def Flows (x y : Core) (to' : Word) (hint : Nat) (tok : Option Nat) : Prop :=
  SameButRegs { x with tokens := y.tokens, hint := y.hint } y ∧ (∀ r, sreg y r = sreg x r) ∧ (∀ j, predBit y j = predBit x j) ∧
  y.pc = to' ∧ y.hint = hint ∧ ∀ u, token y u = if tok = some u then token x u - 1 else token x u

theorem flows_jump (x : Core) (a : Word) : Flows x (jump x a) a x.hint none :=
  ⟨rfl, fun _ => rfl, fun _ => rfl, rfl, rfl, fun u => by rw [if_neg (by simp)]; rfl⟩

/-- An instruction of `flowResult` leaves its core so. -/
theorem flowResult_exec {s : State} {c k : Nat} {x : Core} {w : CWord} {i : Instr} {to' : Word} {hint : Nat} {tok : Option Nat}
    (h : AtIssue s c 8 k x) (hp : predTrue x w.pred w.pneg = true) (hi : flowResult c x w i to' hint tok) :
    ∃ y, exec i s = .next (setCore s k c y) ∧ Flows x y to' hint tok := by
  have hstep : x.oneStep = false := h.2.2.2
  rcases hi with ⟨rfl, rfl, rfl, rfl⟩ | ⟨rfl, rfl, rfl, rfl⟩ | ⟨rfl, rfl, ha, rfl, rfl⟩ | ⟨rfl, hl, rfl, rfl, rfl⟩ | ⟨rfl, ht, h1, rfl, rfl, rfl⟩
  · exact ⟨adv x 8, (exec_nop ..).trans (issueCore_runs h hp rfl hstep), flows_jump ..⟩
  · refine ⟨jump x (brTarget w x), (exec_br ..).trans (issueC_runs h hp rfl (by simpa [jump] using hstep)), ?_⟩
    rw [BitVec.mul_comm]
    exact flows_jump ..
  · exact ⟨jump x (sreg x w.srca.toNat), (exec_jr ..).trans (issueC_runs h hp (if_pos ha) (by simpa [jump] using hstep)), flows_jump ..⟩
  · refine ⟨adv { x with hint := w.imm.toNat % 4 } 8, ?_, rfl, fun _ => rfl, fun _ => rfl, rfl, rfl, fun u => by rw [if_neg (by simp)]; rfl⟩
    exact (exec_ophint ..).trans ((level3_runs h hl).trans (issueCore_runs h hp rfl hstep))
  · refine ⟨adv (setToken x (w.imm.toNat % 64) (token x (w.imm.toNat % 64) - 1)) 8, ?_, rfl, fun _ => rfl, fun _ => rfl, rfl, rfl, ?_⟩
    · refine (exec_wtok ..).trans (issueC_runs h hp ?_ (by simpa [setToken] using hstep))
      exact (if_neg (by omega)).trans (if_neg (by omega))
    · intro u
      refine (token_setToken ..).trans ?_
      by_cases hu : u = w.imm.toNat % 64
      · simp [hu]
      · simp [hu, Ne.symm hu]

/-- Under a false predicate each format C instruction of a level-3 program moves on and does nothing else (R52). -/
theorem formatC_skips {s : State} {c k : Nat} {x : Core} {w : CWord} {i : Instr} (hi : i ∈ formatC c w) (hl : x.level = 3)
    (h : AtIssue s c 8 k x) (hp : predTrue x w.pred w.pneg = false) : exec i s = .next (setCore s k c (adv x 8)) := by
  have hskip : ∀ opc body, issueC s c opc w body = .next (setCore s k c (adv x 8)) := fun _ _ => issue_skips h hp
  have hcore : ∀ opc f, issueCore s c opc w f = .next (setCore s k c (adv x 8)) := fun _ _ => hskip ..
  have hskip3 : ∀ opc body, level3 s c opc (issueC s c opc w body) = .next (setCore s k c (adv x 8)) := fun _ _ =>
    (level3_runs h hl).trans (hskip ..)
  have hall : ∀ i ∈ formatC c w, exec i s = .next (setCore s k c (adv x 8)) := by
    simp only [formatC, List.forall_mem_cons, exec_nop, exec_endProgram, exec_alu, exec_alui, exec_movhi, exec_cmp, exec_cmpi,
      exec_pred, exec_br, exec_jal, exec_jr, exec_ld, exec_st, exec_sysrd, exec_wtok, exec_spanBegin, exec_spanEnd,
      exec_stepProgram, exec_markPush, exec_markPop, exec_ophint]
    exact ⟨hcore .., hskip .., hcore .., hcore .., hcore .., hskip .., hskip .., hskip .., hskip .., hskip .., hskip .., hskip ..,
      hskip .., hskip .., hskip .., hskip3 .., hskip3 .., hskip .., hskip .., hskip .., hskip3 .., by simp⟩
  exact hall i hi

/-- Settles O3. -/
theorem controlFlow : Obligations.ControlFlow := by
  refine ⟨fun s c k x w i to' hint tok h hp hi => ?_, fun s c k x w i hi hl h hp => ?_⟩
  · obtain ⟨y, he, hy⟩ := flowResult_exec h hp hi
    exact completes_setCore he ⟨onlyCore_setCore .., by rw [coreOf_setCore]; exact hy⟩
  · exact completes_setCore (formatC_skips hi hl h hp) ⟨onlyCore_setCore .., by rw [coreOf_setCore]; exact ⟨rfl, rfl, rfl, rfl⟩⟩

/-! ### Waits of the sequencer (R56, R57, R63, R64, R388) -/

/-- Settles O4: each of them holds the core. -/
theorem sequencerWaits : Obligations.SequencerWaits := by
  intro s c k x w i h hp hi
  have hstep : x.oneStep = false := h.2.2.2
  have held : ∀ g : Held, exec i s = .next (hold s k c g) → Completes i s (fun t => OnlyCore s t k c ∧
      coreOf t k c = { x with held := (coreOf t k c).held, heldSince := (coreOf t k c).heldSince } ∧ (coreOf t k c).held ≠ none) := by
    intro g he
    obtain ⟨ho, hc⟩ := hold_core g (atIssue_core h)
    refine ⟨_, he, ho, ?_, ?_⟩ <;> rw [hc]
    simp
  have hrun : ∀ (opc : Nat) (body : Nat → Core → Except Trap State) (g : Held), body k x = .ok (hold s k c g) →
      issueC s c opc w body = .next (hold s k c g) := by
    intro opc body g hb
    refine issueC_runs h hp hb ?_
    rw [(hold_core g (atIssue_core h)).2]
    exact hstep
  rcases hi with ⟨rfl, ht, h0⟩ | ⟨he, ⟨rfl, hx⟩ | ⟨rfl, hx, hw⟩ | ⟨rfl, hx, hl⟩ | ⟨rfl, hx, hl⟩⟩
  · refine held (.wtok (w.imm.toNat % 64)) (hrun _ _ _ ?_)
    exact (if_neg (by omega)).trans (if_pos h0)
  · exact held .drain (hrun _ _ _ (by simp [hx, he]))
  · refine held .drain (hrun _ _ _ ?_)
    rw [if_neg (by omega)]
    simp [hx, he]
  · exact held .drain ((level3_runs h hl).trans (hrun _ _ _ (by simp [hx, he])))
  · exact held .drain ((level3_runs h hl).trans (hrun _ _ _ (by simp [hx, he])))

end Sys2Proof.Machine

/-! ## Accesses that meet nothing but memory (R65, R80, R83, R99, R283, R437) -/

namespace Sys2Proof.Machine

/-- Between two states nothing differs but the cache's lines, the counter of free values, and what context `k` has left of
its HBM budget (R80, R99). -/
structure Pays (s t : State) (k : Nat) : Prop where
  rest : t = { s with ctxs := t.ctxs, mem := { s.mem with lines := t.mem.lines }, freeCtr := t.freeCtr }
  others : OthersKept s t k
  own : ctxOf t k = { ctxOf s k with levelHbm := (ctxOf t k).levelHbm, owedHbm := (ctxOf t k).owedHbm }

namespace Pays
variable {s t u : State} {k : Nat}

theorem refl (s : State) (k : Nat) : Pays s s k := ⟨rfl, fun _ _ => rfl, rfl⟩

theorem trans (h : Pays s t k) (h' : Pays t u k) : Pays s u k where
  rest := by rw [h'.rest, h.rest]
  others j hj := (h'.others j hj).trans (h.others j hj)
  own := by rw [h'.own, h.own]

theorem of_onlyLines (h : OnlyLines s t) : Pays s t k := by
  obtain ⟨ls, c, rfl⟩ := h
  exact ⟨rfl, fun _ _ => rfl, rfl⟩

theorem chargeHbm (s : State) (k g : Nat) : Pays s (chargeHbm s k g) k := by
  unfold Machine.chargeHbm
  split
  · exact refl s k
  · exact ⟨rfl, othersKept_setCtx s k _, by simp⟩

theorem payFor (hu : s.mem.upsets = []) (ts : List Touch) : Pays s (payFor s k ts) k :=
  (of_onlyLines (onlyLines_reach (.inl hu))).trans (chargeHbm ..)

theorem cores (h : Pays s t k) : t.cores = s.cores := by rw [h.rest]

theorem coreOf (h : Pays s t k) (q m : Nat) : coreOf t q m = coreOf s q m := by simp only [Machine.coreOf, h.cores]

theorem sameBytes (h : Pays s t k) : SameBytes s t := by
  rw [h.rest]
  exact ⟨rfl, rfl, rfl, rfl⟩

/-- A core changed, bytes of memory changed, and accesses paid for: what `OnlyPays` allows. -/
theorem onlyPays {n : Nat} {m : Mem} (h : Pays t u k) (ho : OnlyCore { s with mem := m } t k n)
    (hm : m = { s.mem with cells := m.cells, poison := m.poison, upsets := m.upsets, stale := m.stale }) : OnlyPays s u k n := by
  obtain ⟨hrest, hcores⟩ := ho
  have hmem : u.mem = { m with lines := u.mem.lines } := by rw [h.rest, hrest]
  have hctx : ∀ j, ctxOf t j = ctxOf s j := fun j => by rw [hrest]; rfl
  refine ⟨by rw [h.rest, hrest], by rw [hmem, hm], fun q j hq => (h.coreOf q j).trans (hcores q j hq),
    fun j hj => (h.others j hj).trans (hctx j), ?_⟩
  rw [h.own, hctx]

theorem colls (h : Pays s t k) : (ctxOf t k).colls = (ctxOf s k).colls := by rw [h.own]

end Pays

section Access
variable {s : State} {k n : Nat} {x : Core}

/-- The accesses of a core outside a span, where no error stands and no collective is in flight. -/
theorem pays_account (hx : coreOf s k n = x) (hq : Quiet s k x) (as : List (Nat × Nat × Bool)) : Pays s (account s k n as) k := by
  obtain ⟨hu, hpass, hcoll⟩ := hq
  have hp : Pays s (payFor s k (touches s k n as)) k := .payFor hu _
  have hspan : spanInputs (payFor s k (touches s k n as)) k n (touches s k n as) = payFor s k (touches s k n as) := by
    simp [spanInputs, hp.coreOf, hx, hpass]
  have hbreach : collBreach s k (touches s k n as) = false := by simp [collBreach, hcoll]
  simpa [account, hspan, hbreach] using hp

/-- So are they where no breakpoint watches them. -/
theorem pays_touchData (hx : coreOf s k n = x) (hq : Quiet s k x) {as : List (Nat × Nat × Bool)}
    (hb : ∀ a ∈ as, dataBp x a.1 a.2.1 a.2.2 = false) : Pays s (touchData s k n as) k := by
  have hn : (as.any fun a => dataBp x a.1 a.2.1 a.2.2) = false := List.any_eq_false.2 fun a ha => by simp [hb a ha]
  simpa [touchData, hx, hn] using pays_account hx hq as

end Access

theorem look_eq_or_mem {α : Type} {t : Tbl α} {d : α} {k : Nat} : look t d k = d ∨ (k, look t d k) ∈ t := by
  induction t with
  | nil => exact .inl rfl
  | cons e r ih =>
    by_cases h : e.1 = k
    · subst h; simp [look]
    · simpa [look, h] using ih.imp_right .inr

/-- A core without an enabled breakpoint watches no access. -/
theorem dataBp_of_noBreakpoint {x : Core} (h : NoBreakpoint x) (va len : Nat) (wr : Bool) : dataBp x va len wr = false := by
  have hi : ∀ i, (look x.bps {} i).enable = false := fun i => by
    rcases look_eq_or_mem (t := x.bps) (d := {}) (k := i) with he | hm
    · rw [he]
    · exact h _ hm
  simp [dataBp, hi]

/-! ### LD and ST (R51, R68, R71) -/

theorem length_leBytes (n v : Nat) : (leBytes n v).length = n := by
  induction n generalizing v with
  | zero => rfl
  | succ n ih => simp [leBytes, ih]

/-- The widths of LD and ST. -/
theorem widthOf_cases {f n : Nat} (h : widthOf f = some n) : n = 8 ∨ n = 4 ∨ n = 2 ∨ n = 1 := by
  unfold widthOf at h
  split at h <;> simp at h <;> omega

/-- An aligned scalar access lies in one segment. -/
theorem segs_aligned {va n : Nat} (hn : n = 8 ∨ n = 4 ∨ n = 2 ∨ n = 1) (ha : va % n = 0) : segs va n = [(va, n)] := by
  have hr : n ≤ room va := by
    simp only [room, Config.page2]
    rcases hn with rfl | rfl | rfl | rfl <;> split <;> omega
  have h0 : n ≠ 0 := by omega
  simp [segs, segments, hr, h0]

section Scalar
variable {s : State} {k c : Nat} {x : Core} {w : CWord} {n d va : Nat}

theorem controlRead_aligned (hn : n = 8 ∨ n = 4 ∨ n = 2 ∨ n = 1) (ha : va % n = 0) (ht : translate s k c va .read = .ok (.mem d))
    (hp : poisonedDpa s.mem d n = false) : controlRead s k c va n = .ok (readDpa s.mem d n) := by
  simp [controlRead, readVa, segs_aligned hn ha, readSeg, ht, hp, bind, Except.bind, pure, Except.pure]

theorem writeVa_aligned {v : Nat} (hn : n = 8 ∨ n = 4 ∨ n = 2 ∨ n = 1) (ha : va % n = 0)
    (ht : translate s k c va .write = .ok (.mem d)) :
    writeVa s k c va (leBytes n v) false = .ok { s with mem := writeMem s.mem d (leBytes n v) false } := by
  have hlen : (leBytes n v).take n = leBytes n v := List.take_of_length_le (length_leBytes n v).le
  simp [writeVa, writeVas, placeWr, length_leBytes, segs_aligned hn ha, ht, bind, Except.bind, pure, Except.pure, storeAt, writeDpa, hlen]

/-- Bytes without poison that fill no grain leave the poison of memory. -/
theorem writeMem_poison_small (m : Mem) (a : Nat) (bs : List Byte) (h : bs.length < 64) : (writeMem m a bs false).poison = m.poison := by
  refine List.foldlRecOn (motive := fun l => l = m.poison) _ _ rfl ?_
  rintro _ rfl g -
  exact (if_neg Bool.false_ne_true).trans (if_neg (by omega))

theorem scalarAccess_aligned (hw : widthOf w.func.toNat = some n)
    (ha : (sreg x w.srca.toNat + w.imm.signExtend 64).toNat % n = 0) :
    scalarAccess w x = .ok ((sreg x w.srca.toNat + w.imm.signExtend 64).toNat, n) := by
  simp only [scalarAccess, hw]
  exact if_pos ha

theorem ld_completes (h : AtIssue s c 8 k x) (hp : predTrue x w.pred w.pneg = true) (hq : Quiet s k x)
    (hw : widthOf w.func.toNat = some n) (ha : (sreg x w.srca.toNat + w.imm.signExtend 64).toNat % n = 0)
    (ht : translate s k c (sreg x w.srca.toNat + w.imm.signExtend 64).toNat .read = .ok (.mem d))
    (hpoi : poisonedDpa s.mem d n = false)
    (hb : dataBp x (sreg x w.srca.toNat + w.imm.signExtend 64).toNat n false = false) :
    Completes (.ld c w) s (fun t => SameBytes s t ∧ OnlyPays s t k c ∧ SameButRegs x (coreOf t k c) ∧ (coreOf t k c).preds = x.preds ∧
      (∀ r, sreg (coreOf t k c) r = if r = w.dst.toNat ∧ r ≠ 0 then BitVec.ofNat 64 (leNat (readDpa s.mem d n)) else sreg x r) ∧
      (coreOf t k c).pc = x.pc + 8) := by
  have hmul := widthOf_cases hw
  obtain ⟨hu, hpass, hcoll⟩ := hq
  have hstep : x.oneStep = false := h.2.2.2
  let y := adv (setReg x w.dst.toNat (BitVec.ofNat 64 (leNat (readDpa s.mem d n)))) 8
  let a := (sreg x w.srca.toNat + w.imm.signExtend 64).toNat
  have hy : SameButRegs x y := sameButRegs_setReg ..
  have hyb : dataBp y a n false = false := by rw [hy]; exact hb
  let t := touchData (setCore s k c y) k c [(a, n, false)]
  have hpay : Pays (setCore s k c y) t k :=
    pays_touchData (coreOf_setCore ..) ⟨hu, by rw [hy]; exact hpass, hcoll⟩ (by simpa using hyb)
  have hcore : coreOf t k c = y := (hpay.coreOf k c).trans (coreOf_setCore ..)
  refine ⟨t, (exec_ld ..).trans (issueC_runs h hp ?_ (by rw [hcore, hy]; exact hstep)), hpay.sameBytes, hpay.onlyPays (onlyCore_setCore ..) rfl, ?_⟩
  · simp only [scalarAccess_aligned hw ha, controlRead_aligned hmul ha ht hpoi, bind, Except.bind]
    rfl
  · rw [hcore]
    exact ⟨hy, by simp [y], fun r => by simp [y, sreg_setReg], by simp [y]⟩

theorem st_completes (h : AtIssue s c 8 k x) (hp : predTrue x w.pred w.pneg = true) (hq : Quiet s k x) (hm : MemCanonical s)
    (hw : widthOf w.func.toNat = some n) (ha : (sreg x w.srca.toNat + w.imm.signExtend 64).toNat % n = 0)
    (ht : translate s k c (sreg x w.srca.toNat + w.imm.signExtend 64).toNat .write = .ok (.mem d))
    (hb : dataBp x (sreg x w.srca.toNat + w.imm.signExtend 64).toNat n true = false) :
    Completes (.st c w) s (fun t => OnlyPays s t k c ∧ t.mem.poison = s.mem.poison ∧
      coreOf t k c = { x with pc := x.pc + 8, held := none, skipBp := false } ∧
      ∀ a, memByte t.mem a =
        if d ≤ a ∧ a < d + n then nth (leBytes n (sreg x w.srcb.toNat).toNat) (a - d) 0 else memByte s.mem a) := by
  have hmul := widthOf_cases hw
  obtain ⟨hu, hpass, hcoll⟩ := hq
  have hstep : x.oneStep = false := h.2.2.2
  let bs := leBytes n (sreg x w.srcb.toNat).toNat
  let a := (sreg x w.srca.toNat + w.imm.signExtend 64).toNat
  have hlen : bs.length = n := length_leBytes ..
  let s1 : State := { s with mem := writeMem s.mem d bs false }
  have hx1 : coreOf s1 k c = x := atIssue_core h
  let t := touchData (setCore s1 k c (adv (coreOf s1 k c) 8)) k c [(a, n, true)]
  have hu1 : s1.mem.upsets = [] := by simp [s1, writeMem, upsetsAfter, hu]
  have hpay : Pays (setCore s1 k c (adv x 8)) t k := by
    have hbp : dataBp (adv x 8) a n true = false := hb
    simp only [t, hx1]
    exact pays_touchData (s := setCore s1 k c (adv x 8)) (coreOf_setCore ..) ⟨hu1, hpass, hcoll⟩ (by simpa using hbp)
  have hcore : coreOf t k c = adv x 8 := (hpay.coreOf k c).trans (coreOf_setCore ..)
  obtain ⟨hcells, hpoison, -, hstale⟩ := hpay.sameBytes
  refine ⟨t, (exec_st ..).trans (issueC_runs h hp ?_ (by rw [hcore]; exact hstep)), hpay.onlyPays (onlyCore_setCore ..) rfl, ?_, hcore, fun b => ?_⟩
  · simp only [scalarAccess_aligned hw ha, writeVa_aligned hmul ha ht, bind, Except.bind]
    rfl
  · exact hpoison.trans (writeMem_poison_small s.mem d bs (by omega))
  · have hbyte : memByte t.mem b = memByte (writeMem s.mem d bs false) b := by
      unfold memByte
      rw [hcells, hstale]
      rfl
    rw [hbyte, memByte_writeMem _ _ _ _ _ hm.1, hlen]

end Scalar

/-- Settles O5. -/
theorem scalarMemory : Obligations.ScalarMemory := fun _ _ _ _ _ _ _ h hp hq hw ha =>
  ⟨fun ht hpoi hb => ld_completes h hp hq hw ha ht hpoi hb, fun hm ht hb => st_completes h hp hq hm hw ha ht hb⟩

end Sys2Proof.Machine

/-! ## The issue of tensor instructions (R41, R46, R47, R52, R53, R65, R67, R284) -/

namespace Sys2Proof.Machine

@[simp] theorem coreOf_raise (s : State) (code cls j unit k n : Nat) (pay : List Byte) :
    coreOf (raise s code cls j unit pay) k n = coreOf s k n := rfl

/-- The command of a tensor instruction at its issue joins the queue of its engine. -/
theorem exec_tensor_issue {op : TOp} {c : Nat} {w : TWord} {i : Instr} (hi : tensorCmd op c (.issue w) = some i) (s : State) :
    exec i s = issueTL op c w s := by
  unfold tensorCmd at hi
  split at hi
  case h_22 =>
    split at hi
    case h_7 => cases hi
    all_goals
      cases hi
      rfl
  all_goals
    cases hi
    rfl

/-- Code fetched for a longer instruction is fetched for one of 8 bytes. -/
theorem AtIssue.first_word {s : State} {n len k : Nat} {x : Core} (h : AtIssue s n len k x) : AtIssue s n 8 k x := by
  obtain ⟨h1, h2, h3, h4⟩ := h
  refine ⟨h1, ?_, h3, h4⟩
  unfold fetchOk at *
  cases ht : translate s k n x.pc.toNat .fetch with
  | error e => simp [ht, bind, Except.bind] at h2
  | ok l => simp [ht, bind, Except.bind]

section Tensor
variable {s : State} {c k : Nat} {x : Core} {op : TOp} {w : TWord} {q : QInstr} {i : Instr}

/-- A program of the level an instruction needs issues it. -/
theorem exec_issueT (hi : tensorCmd op c (.issue w) = some i) (h : AtIssue s c 16 k x) (hl : x.level = 3 ∨ atLevel2 op = true) :
    exec i s = issueT op c w s := by
  rw [exec_tensor_issue hi, issueTL]
  split
  · rfl
  · exact level3_runs h (hl.resolve_right ‹_›)

/-- An instruction of level 3 in a level-2 program is a decode fault (R41). -/
theorem exec_issueT_level2 (hi : tensorCmd op c (.issue w) = some i) (h : AtIssue s c 16 k x) (hl : x.level = 2)
    (ha : atLevel2 op = false) : exec i s = issueFault s c 0x0208 (BitVec.ofNat 8 (opcOf op)) := by
  simp [exec_tensor_issue hi, issueTL, ha, level3, h.1, hl]

/-- Whether an instruction is a collective whose group word names no binding of its context. -/
def groupRefused (s : State) (k : Nat) (op : TOp) (q : QInstr) : Bool :=
  match op with
  | .coll _ => !groupOk s k q.ob.val
  | _ => false

theorem groupRefused_of_ok (hg : ∀ n, op = .coll n → groupOk s k q.ob.val = true) : groupRefused s k op q = false := by
  cases op with
  | coll n => simp [groupRefused, hg n rfl]
  | _ => rfl

/-- A core with an entry more at the end of the queue of an engine. -/
def queued (x : Core) (e : Engine) (q : QInstr) (now : Nat) : Core :=
  setQueue (if queueOf x e = [] then { x with headSince := put x.headSince (engCode e) now } else x) e (queueOf x e ++ [q])

theorem issue16_runs {opc : Nat} {body : Nat → Core → Except Trap State} {t : State} (h : AtIssue s c 16 k x)
    (hp : predTrue x w.pred w.pneg = true) (hb : body k x = .ok t) (ht : (coreOf t k c).oneStep = false) :
    issue s c 16 opc w.pred w.pneg body = .next t := by
  rw [issue_runs h hp hb, stepped_free ht]

section Placed
variable (h : AtIssue s c 16 k x) (hp : predTrue x w.pred w.pneg = true) (hq : mkEntry x op w = some q)
  (hpass : ¬(x.pass ≠ 0 ∧ replayOk op = false))
include h hp hq hpass

theorem issueT_groupInvalid (hg : groupRefused s k op q = true) :
    issueT op c w s = .next (setCore (groupInvalid s k c q.ob.val) k c { x with faulted := true }) := by
  have hx : coreOf (groupInvalid s k c q.ob.val) k c = x := (coreOf_raise ..).trans (atIssue_core h)
  refine issue16_runs h hp ?_ (by rw [coreOf_setCore]; exact h.2.2.2)
  simp only [hq, hx]
  exact (if_neg hpass).trans (if_pos hg)

theorem issueT_full (hg : groupRefused s k op q = false) (hf : 32 ≤ (queueOf x (engOf op)).length) :
    issueT op c w s = .next (hold s k c (.queueFull (engOf op))) := by
  refine issue16_runs h hp ?_ (by rw [(hold_core _ (atIssue_core h)).2]; exact h.2.2.2)
  simp only [hq]
  exact (if_neg hpass).trans ((if_neg (by rw [Bool.not_eq_true]; exact hg)).trans (if_pos hf))

theorem issueT_queues (hg : groupRefused s k op q = false) (hf : (queueOf x (engOf op)).length < 32) :
    issueT op c w s = .next (setCore s k c (adv (queued x (engOf op) q s.clock.ns) 16)) := by
  have hstep : (queued x (engOf op) q s.clock.ns).oneStep = false := by
    unfold queued
    split <;> exact h.2.2.2
  refine issue16_runs h hp ?_ (by rw [coreOf_setCore]; exact hstep)
  simp only [hq]
  exact (if_neg hpass).trans ((if_neg (by rw [Bool.not_eq_true]; exact hg)).trans (if_neg (by omega)))

end Placed

theorem engCode_injective {e f : Engine} (h : engCode e = engCode f) : e = f := by
  cases e <;> cases f <;> simp_all [engCode]

theorem queueOf_setQueue (x : Core) (e : Engine) (l : List QInstr) : queueOf (setQueue x e l) e = l := look_put_same ..

theorem queueOf_setQueue_other (x : Core) {e f : Engine} (l : List QInstr) (hf : f ≠ e) :
    queueOf (setQueue x e l) f = queueOf x f :=
  look_put_other _ _ _ _ _ fun he => hf (engCode_injective he)

/-- What a queue that took an entry leaves of its core. -/
theorem queued_core (x : Core) (e : Engine) (q : QInstr) (now : Nat) :
    queued x e q now = { x with queues := put x.queues (engCode e) (queueOf x e ++ [q]), headSince := (queued x e q now).headSince } := by
  unfold queued
  split <;> rfl

/-- An entry holds what its word and its core's registers say. -/
theorem mkEntry_holds (hq : mkEntry x op w = some q) :
    q.op = op ∧ q.w = w ∧ operand x w.opd = some q.od ∧ operand x w.opa = some q.oa ∧ operand x w.opb = some q.ob ∧
      operand x w.opx = some q.ox ∧ q.pass = x.pass := by
  unfold mkEntry at hq
  split at hq
  case h_2 => cases hq
  case h_1 hd ha hb hx =>
    split at hq
    · cases hq
      exact ⟨rfl, rfl, hd, ha, hb, hx, rfl⟩
    · cases hq

theorem issueT_noEntry (h : AtIssue s c 16 k x) (hp : predTrue x w.pred w.pneg = true) (hq : mkEntry x op w = none) :
    issueT op c w s = .next (wild s k) := issue_unpredictable h hp (u := .reservedField) (by simp only [hq])

theorem issueT_spanRules (h : AtIssue s c 16 k x) (hp : predTrue x w.pred w.pneg = true) (hq : mkEntry x op w = some q)
    (hpass : x.pass ≠ 0 ∧ replayOk op = false) : issueT op c w s = .next (wild s k) :=
  issue_unpredictable h hp (u := .spanRules) (by simp only [hq]; exact if_pos hpass)

end Tensor

/-- Settles O8: an entry joins its queue, or what stands in its way decides. -/
theorem tensorIssues : Obligations.TensorIssues := by
  refine ⟨fun s c k x op w q i hi h hp hq hpass hl hg => ?_, fun s c k x op w i hi h hp => ⟨fun hl ha => ?_, fun hl => ?_⟩⟩
  · have hpass' : ¬(x.pass ≠ 0 ∧ replayOk op = false) := by
      rintro ⟨h0, hr⟩
      simp [h0, hr] at hpass
    have hg' := groupRefused_of_ok hg
    refine ⟨fun hf => ?_, fun hf => ?_⟩
    · refine completes_setCore ((exec_issueT hi h hl).trans (issueT_queues h hp hq hpass' hg' hf)) ⟨onlyCore_setCore .., mkEntry_holds hq, ?_⟩
      rw [coreOf_setCore, queued_core]
      exact ⟨queueOf_setQueue .., fun e he => queueOf_setQueue_other x _ he, rfl⟩
    · exact ⟨_, (exec_issueT hi h hl).trans (issueT_full h hp hq hpass' hg' hf), hold_core _ (atIssue_core h)⟩
  · obtain ⟨t, ht, hlog, hcore, -⟩ := issueFault_stops (code := 0x0208) (BitVec.ofNat 8 (opcOf op)) h.first_word
    refine ⟨t, (exec_issueT_level2 hi h hl ha).trans ht, ?_, hcore⟩
    simpa using congrArg (Option.map fun e => (e.1, e.2.1)) hlog
  · refine ⟨fun hq => ⟨_, (exec_issueT hi h hl).trans (issueT_noEntry h hp hq), rfl⟩, fun q hq => ⟨fun h0 hr => ?_, ?_⟩⟩
    · exact ⟨_, (exec_issueT hi h hl).trans (issueT_spanRules h hp hq ⟨h0, hr⟩), rfl⟩
    · rintro n h0 rfl hg
      refine ⟨_, (exec_issueT hi h hl).trans (issueT_groupInvalid h hp hq (by simp [h0]) (by simp [groupRefused, hg])), ?_, coreOf_setCore ..⟩
      simp only [setCore_obs, groupInvalid, raise_last]
      rfl

end Sys2Proof.Machine

/-! ## Engines: instructions in flight (R53 to R56, R60, R61, R94) -/

namespace Sys2Proof.Machine

/-! ### The core an engine works for -/

theorem coreAtWork_core {s : State} {n k : Nat} {x : Core} (h : coreAtWork s n = some (k, x)) : coreOf s k n = x := by
  unfold coreAtWork at h
  split at h
  · cases h
  · dsimp only at h
    split at h
    · cases h
      rfl
    · cases h

/-- A core at work is one whose started instructions go on. -/
theorem coreInFlight_of_atWork {s : State} {n k : Nat} {x : Core} (e : Engine) (h : coreAtWork s n = some (k, x)) :
    coreInFlight s n e = some (k, x) := by
  have hx := coreAtWork_core h
  cases hr : runningOn s n with
  | none => simp [coreAtWork, hr] at h
  | some j =>
    have hj : j = k := by
      simp only [coreAtWork, hr] at h
      split at h
      · cases h
        rfl
      · cases h
    subst hj
    simp only [coreInFlight, hr, hx, h]
    split <;> rfl

theorem OnlyCore.refl (s : State) (k n : Nat) : OnlyCore s s k n := ⟨rfl, fun _ _ _ => rfl⟩

theorem OnlyCore.trans {s t u : State} {k n : Nat} (h : OnlyCore s t k n) (h' : OnlyCore t u k n) : OnlyCore s u k n := by
  obtain ⟨hrest, hcores⟩ := h
  obtain ⟨hrest', hcores'⟩ := h'
  exact ⟨by rw [hrest', hrest], fun q m hq => (hcores' q m hq).trans (hcores q m hq)⟩

theorem OnlyCore.setCore {s t : State} {k n : Nat} (h : OnlyCore s t k n) (y : Core) : OnlyCore s (setCore t k n y) k n :=
  h.trans (onlyCore_setCore ..)

theorem SameProgram.refl (x : Core) : SameProgram x x := ⟨rfl, rfl, rfl, rfl, rfl, rfl, rfl, rfl, rfl, rfl⟩

theorem SameProgram.trans {x y z : Core} (h : SameProgram x y) (h' : SameProgram y z) : SameProgram x z := by
  obtain ⟨h1, h2, h3, h4, h5, h6, h7, h8, h9, h10⟩ := h
  obtain ⟨g1, g2, g3, g4, g5, g6, g7, g8, g9, g10⟩ := h'
  exact ⟨g1.trans h1, g2.trans h2, g3.trans h3, g4.trans h4, g5.trans h5, g6.trans h6, g7.trans h7, g8.trans h8, g9.trans h9,
    g10.trans h10⟩

/-! ### Flights -/

@[simp] theorem flightsOf_setFlights (x : Core) (e : Engine) (l : List Flight) : flightsOf (setFlights x e l) e = l :=
  look_put_same ..

theorem flightAt_id {x : Core} {e : Engine} {id : Nat} {f : Flight} (h : flightAt x e id = some f) : f.id = id := by
  simpa using List.find?_some h

theorem sameProgram_putFlight (x : Core) (e : Engine) (f : Flight) : SameProgram x (putFlight x e f) :=
  ⟨rfl, rfl, rfl, rfl, rfl, rfl, rfl, rfl, rfl, rfl⟩

/-- A flight put in the place of one of its number is found there. -/
theorem flightAt_putFlight {x : Core} {e : Engine} {f g : Flight} {id : Nat} (h : flightAt x e id = some g) (hid : f.id = id) :
    flightAt (putFlight x e f) e id = some f := by
  subst hid
  unfold flightAt putFlight at *
  rw [flightsOf_setFlights]
  generalize flightsOf x e = l at *
  induction l with
  | nil => cases h
  | cons y l ih =>
    by_cases hy : y.id = f.id
    · simp [hy]
    · simp only [List.map_cons, List.find?_cons, if_neg hy, beq_eq_false_iff_ne.2 hy] at h ⊢
      exact ih h

@[simp] theorem coreOf_setFlightS (s : State) (k n : Nat) (e : Engine) (f : Flight) :
    coreOf (setFlightS s k n e f) k n = putFlight (coreOf s k n) e f := coreOf_setCore ..

theorem onlyCore_setFlightS (s : State) (k n : Nat) (e : Engine) (f : Flight) : OnlyCore s (setFlightS s k n e f) k n :=
  onlyCore_setCore ..

/-! ### The start of an instruction (R54, R56, R60, R61) -/

/-- Waits consume tokens and nothing else. -/
theorem consume_core (x : Core) (w : TWord) : consume x w = { x with tokens := (consume x w).tokens } := by
  refine List.foldlRecOn (motive := fun y : Core => y = { x with tokens := y.tokens }) _ _ rfl ?_
  intro y hy t _
  rw [hy]
  rfl

theorem consume_tokens_congr {x y : Core} (h : x.tokens = y.tokens) (w : TWord) : (consume x w).tokens = (consume y w).tokens := by
  unfold consume
  induction waits w generalizing x y with
  | nil => exact h
  | cons t l ih => exact ih (by simp only [setToken, token, h])

/-- An instruction keeps its number and its entry when it captures. -/
theorem capture_keeps {s : State} {k n : Nat} {x : Core} {f g : Flight} (h : capture s k n x f = .ok g) : g.q = f.q ∧ g.id = f.id := by
  unfold capture at h
  simp only [bind, Except.bind] at h
  repeat' split at h
  all_goals
    cases h
  all_goals exact ⟨rfl, rfl⟩

section Consume
variable (x : Core) (w : TWord)

@[simp] theorem consume_sregs : (consume x w).sregs = x.sregs := by rw [consume_core]
@[simp] theorem consume_preds : (consume x w).preds = x.preds := by rw [consume_core]
@[simp] theorem consume_pc : (consume x w).pc = x.pc := by rw [consume_core]
@[simp] theorem consume_pass : (consume x w).pass = x.pass := by rw [consume_core]
@[simp] theorem consume_queues : (consume x w).queues = x.queues := by rw [consume_core]
@[simp] theorem consume_flights : (consume x w).flights = x.flights := by rw [consume_core]
@[simp] theorem consume_headSince : (consume x w).headSince = x.headSince := by rw [consume_core]
@[simp] theorem consume_bps : (consume x w).bps = x.bps := by rw [consume_core]

end Consume

/-- The core after the instruction `q` left the head of its queue, with `r` behind it, for flight `f`. -/
def begins (x : Core) (e : Engine) (q : QInstr) (r : List QInstr) (f : Flight) (now : Nat) : Core :=
  setFlights { consume (setQueue x e r) q.w with
    nextId := x.nextId + 1
    headSince := if r = [] then drop x.headSince (engCode e) else put x.headSince (engCode e) now } e
    (flightsOf x e ++ [f])

/-- A flight of a new number is found behind the others. -/
theorem flightAt_append {l : List Flight} {f : Flight} {x : Core} {e : Engine} (h : ∀ g ∈ l, g.id < f.id) :
    flightAt (setFlights x e (l ++ [f])) e f.id = some f := by
  have hn : l.find? (fun g => g.id == f.id) = none := List.find?_eq_none.2 fun g hg => by
    have := h g hg
    simp only [beq_iff_eq]
    omega
  simp [flightAt, hn]

section Start
variable {s : State} {c k : Nat} {x : Core} {e : Engine} {q : QInstr} {r : List QInstr} {f f0 : Flight}

theorem engineStart_waits (hw : coreAtWork s c = some (k, x)) (hq : queueOf x e = q :: r) (hm : waitsMet x q.w = false) :
    exec (.engineInstructionStart c e) s = .next s := by
  simp [execEngineInstructionStart, hw, hq, hm]

theorem engineStart_begins (hw : coreAtWork s c = some (k, x)) (hq : queueOf x e = q :: r) (hop : q.op ≠ .fetch)
    (hp : (partSt s.place (partOf s.place c)).preempting = false) (hf : inFlight x e < inFlightMax e) (hm : waitsMet x q.w = true)
    (hf0 : f0 = { id := x.nextId, q := q, started := s.clock.ns })
    (hc : capture (setCore s k c (begins x e q r f0 s.clock.ns)) k c (begins x e q r f0 s.clock.ns) f0 = .ok f) :
    exec (.engineInstructionStart c e) s =
      .next (touchData (setFlightS (setCore s k c (begins x e q r f0 s.clock.ns)) k c e f) k c (captureReads f)) := by
  have hgo : ¬((partSt s.place (partOf s.place c)).preempting = true ∨ (q.op ≠ .fetch ∧ inFlightMax e ≤ inFlight x e) ∨
      waitsMet x q.w = false) := by
    simp only [hp, hm, Bool.false_eq_true, Bool.true_eq_false, false_or, or_false, not_and, Nat.not_le]
    exact fun _ => hf
  have hb : begins x e q r f0 s.clock.ns = setFlights { consume (setQueue x e r) q.w with
      nextId := x.nextId + 1
      headSince := if r = [] then drop (consume (setQueue x e r) q.w).headSince (engCode e)
        else put (consume (setQueue x e r) q.w).headSince (engCode e) s.clock.ns } e
        (flightsOf (consume (setQueue x e r) q.w) e ++ [f0]) := by
    simp [begins, flightsOf, setQueue]
  have hfq : f.q.op ≠ .fetch := by
    rw [(capture_keeps hc).1, hf0]
    exact hop
  rw [hf0] at hc hb
  rw [exec_engineInstructionStart, execEngineInstructionStart, hw]
  simp only [hq, if_neg hgo, ← hb, hc, bind, Except.bind, begun, if_neg hfq, hf0]

/-- The core of an instruction that started: what of it is as before, and what it took. -/
theorem begins_core (hf : f.id = x.nextId) (hid : ∀ g ∈ flightsOf x e, g.id < x.nextId) (hf0 : f0.id = x.nextId) (now : Nat)
    {y : Core} (hy : y = putFlight (begins x e q r f0 now) e f) :
    queueOf y e = r ∧ flightAt y e x.nextId = some f ∧ y.sregs = x.sregs ∧ y.preds = x.preds ∧ y.pc = x.pc ∧
      y.tokens = (consume x q.w).tokens ∧ y.pass = x.pass ∧ y.bps = x.bps := by
  subst hy
  have hat : flightAt (begins x e q r f0 now) e x.nextId = some f0 := by
    rw [← hf0] at hid ⊢
    exact flightAt_append hid
  refine ⟨?_, flightAt_putFlight hat hf, ?_, ?_, ?_, consume_tokens_congr (x := setQueue x e r) (y := x) rfl q.w, ?_, ?_⟩
  · simp [queueOf, putFlight, begins, setFlights, setQueue]
  all_goals simp [putFlight, begins, setFlights, setQueue]

theorem engineStart_completes (hw : coreAtWork s c = some (k, x)) (hq : queueOf x e = q :: r) (hop : q.op ≠ .fetch)
    (hp : (partSt s.place (partOf s.place c)).preempting = false) (hf : inFlight x e < inFlightMax e) (hb : NoBreakpoint x)
    (hquiet : Quiet s k x) (hm : waitsMet x q.w = true) (hf0 : f0 = { id := x.nextId, q := q, started := s.clock.ns })
    (hc : capture (setCore s k c (begins x e q r f0 s.clock.ns)) k c (begins x e q r f0 s.clock.ns) f0 = .ok f)
    (hid : ∀ g ∈ flightsOf x e, g.id < x.nextId) :
    Completes (.engineInstructionStart c e) s (fun t => SameBytes s t ∧ OnlyPays s t k c ∧ queueOf (coreOf t k c) e = r ∧
      flightAt (coreOf t k c) e x.nextId = some f ∧ f.q = q ∧ (coreOf t k c).sregs = x.sregs ∧
      (coreOf t k c).preds = x.preds ∧ (coreOf t k c).pc = x.pc ∧ (coreOf t k c).tokens = (consume x q.w).tokens) := by
  obtain ⟨hfq, hfid⟩ := capture_keeps hc
  obtain ⟨hu, hpass, hcoll⟩ := hquiet
  let u := setFlightS (setCore s k c (begins x e q r f0 s.clock.ns)) k c e f
  have hcore : coreOf u k c = putFlight (begins x e q r f0 s.clock.ns) e f := by simp [u]
  obtain ⟨hqueue, hflight, hsregs, hpreds, hpc, htok, hpass', hbps⟩ := begins_core (r := r) (q := q) (hfid.trans (by rw [hf0])) hid
    (by rw [hf0]) s.clock.ns hcore
  have hpay : Pays u (touchData u k c (captureReads f)) k := by
    refine pays_touchData (s := u) rfl ⟨hu, hpass'.trans hpass, hcoll⟩ fun a _ => dataBp_of_noBreakpoint ?_ ..
    unfold NoBreakpoint
    rw [hbps]
    exact hb
  refine ⟨_, engineStart_begins hw hq hop hp hf hm hf0 hc, hpay.sameBytes, hpay.onlyPays (m := s.mem) ?_ rfl, ?_⟩
  · exact (onlyCore_setCore ..).setCore _
  · rw [hpay.coreOf]
    exact ⟨hqueue, hflight, hfq.trans (by rw [hf0]), hsregs, hpreds, hpc, htok⟩

end Start

end Sys2Proof.Machine

namespace Sys2Proof.Machine

/-! ### The completion of an instruction (R54 to R56, R94, R250) -/

theorem SameBytes.trans {s t u : State} (h : SameBytes s t) (h' : SameBytes t u) : SameBytes s u := by
  obtain ⟨h1, h2, h3, h4⟩ := h
  obtain ⟨g1, g2, g3, g4⟩ := h'
  exact ⟨g1.trans h1, g2.trans h2, g3.trans h3, g4.trans h4⟩

theorem SameBytes.of_mem {s t : State} (h : t.mem = s.mem) : SameBytes s t := by
  rw [SameBytes, h]
  exact ⟨rfl, rfl, rfl, rfl⟩

/-- Pages of a fetch list given back change the list's own books only. -/
theorem trimSpill_keeps (s : State) (k n : Nat) : SameBytes s (trimSpill s k n) ∧
    coreOf (trimSpill s k n) k n = { coreOf s k n with spill := (coreOf (trimSpill s k n) k n).spill } := by
  unfold trimSpill
  dsimp only
  split
  · exact ⟨⟨rfl, rfl, rfl, rfl⟩, rfl⟩
  · refine ⟨⟨rfl, rfl, rfl, rfl⟩, ?_⟩
    rw [coreOf_setCore]

@[simp] theorem coreOf_progress (s : State) (j k n : Nat) : coreOf (progress s j) k n = coreOf s k n := rfl

theorem partialEvent_keeps (s : State) (k n : Nat) (f : Flight) (bitmap : Nat) :
    (partialEvent s k n f bitmap).mem = s.mem ∧ (partialEvent s k n f bitmap).cores = s.cores := by
  unfold partialEvent
  dsimp only
  split_ifs <;> exact ⟨rfl, rfl⟩

/-- The core from whose engine a flight is gone, its status entry written where the engine is the stream engine. -/
def landedCore (x : Core) (e : Engine) (f : Flight) (bitmap nparts : Nat) : Core :=
  if e = .stream then writeStatus (setFlights x e ((flightsOf x e).filter (fun g => g.id != f.id))) f bitmap nparts
  else setFlights x e ((flightsOf x e).filter (fun g => g.id != f.id))

theorem landedCore_keeps (x : Core) (e : Engine) (f : Flight) (bitmap nparts : Nat) :
    landedCore x e f bitmap nparts = { x with
      flights := (landedCore x e f bitmap nparts).flights, stat := (landedCore x e f bitmap nparts).stat } := by
  unfold landedCore
  split <;> rfl

theorem flightAt_landedCore (x : Core) (e : Engine) (f : Flight) (bitmap nparts : Nat) :
    flightAt (landedCore x e f bitmap nparts) e f.id = none := by
  have hf : flightsOf (landedCore x e f bitmap nparts) e = (flightsOf x e).filter (fun g => g.id != f.id) := by
    unfold landedCore
    split
    · exact flightsOf_setFlights ..
    · exact flightsOf_setFlights ..
  rw [flightAt, hf, List.find?_filter]
  exact List.find?_eq_none.2 fun g _ => by simp

/-- The status entry of a stream instruction (R94). -/
theorem landedCore_status (x : Core) (f : Flight) (bitmap nparts : Nat) :
    ∃ v, v = look (landedCore x .stream f bitmap nparts).stat {} (if f.q.w.sigv then f.q.w.sigt.toNat else 8) ∧
      v.opc = opcOf f.q.op ∧ v.status = f.status ∧ v.tag = f.q.w.imm ∧ v.orphaned = f.orphaned ∧ v.poisonSeen = f.poisonSeen := by
  refine ⟨_, rfl, ?_⟩
  simp [landedCore, writeStatus]

/-- What a completion does once its core is written: pages of the fetch list, the event of a transfer, a free bitmap. -/
def retire (s : State) (k n : Nat) (e : Engine) (f : Flight) (bitmap : Nat) : State :=
  let s2 := if e = .stream then partialEvent (trimSpill s k n) k n f bitmap else trimSpill s k n
  if freeParts f.q.op then drawn s2 else s2

theorem retire_keeps (s : State) (k n : Nat) (e : Engine) (f : Flight) (bitmap : Nat) : SameBytes s (retire s k n e f bitmap) ∧
    coreOf (retire s k n e f bitmap) k n = { coreOf s k n with spill := (coreOf (retire s k n e f bitmap) k n).spill } := by
  have hsame : ∀ t, SameBytes s t ∧ coreOf t k n = { coreOf s k n with spill := (coreOf t k n).spill } →
      ∀ u, u.mem = t.mem → u.cores = t.cores → SameBytes s u ∧ coreOf u k n = { coreOf s k n with spill := (coreOf u k n).spill } := by
    intro t ht u hm hc
    have hu : coreOf u k n = coreOf t k n := by rw [coreOf, hc, coreOf]
    rw [hu]
    exact ⟨ht.1.trans (.of_mem hm), ht.2⟩
  have h2 := hsame _ (trimSpill_keeps s k n)
    (if e = .stream then partialEvent (trimSpill s k n) k n f bitmap else trimSpill s k n)
  unfold retire
  dsimp only
  generalize hs2 : (if e = .stream then partialEvent (trimSpill s k n) k n f bitmap else trimSpill s k n) = s2 at *
  have hkeep : s2.mem = (trimSpill s k n).mem ∧ s2.cores = (trimSpill s k n).cores := by
    rw [← hs2]
    split
    · exact partialEvent_keeps ..
    · exact ⟨rfl, rfl⟩
  split
  · exact hsame s2 (h2 hkeep.1 hkeep.2) _ rfl rfl
  · exact h2 hkeep.1 hkeep.2

section Complete
variable {s : State} {c k id : Nat} {x : Core} {e : Engine} {f : Flight}

/-- What a completion answers, `y` the core it leaves: a state with `y` in it but for the pages of the fetch list, or what an
unpredictable result leaves of that where the token could not be signalled. -/
theorem engineComplete_answers (hw : coreInFlight s c e = some (k, x)) (hf : flightAt x e id = some f) (hr : f.ready = true)
    (hc : onChain s k c id = false) : ∃ u bitmap nparts y, SameBytes s u ∧
      coreOf u k c = { y with spill := (coreOf u k c).spill } ∧
      y = (signal (landedCore x e f bitmap nparts) e f.q.w).getD (landedCore x e f bitmap nparts) ∧
      exec (.engineInstructionComplete c e id) s =
        .next (if (signal (landedCore x e f bitmap nparts) e f.q.w).isNone then wild u k else u) := by
  have hid := flightAt_id hf
  subst hid
  rcases hps : partsOf s f with ⟨bitmap, nparts⟩
  generalize hy : (signal (landedCore x e f bitmap nparts) e f.q.w).getD (landedCore x e f bitmap nparts) = y
  obtain ⟨hbytes, hspill⟩ := retire_keeps (progress (setCore s k c y) k) k c e f bitmap
  rw [coreOf_progress, coreOf_setCore] at hspill
  refine ⟨retire (progress (setCore s k c y) k) k c e f bitmap, bitmap, nparts, y, ?_, hspill, hy.symm, ?_⟩
  · exact SameBytes.trans (.of_mem (by simp)) hbytes
  · rw [exec_engineInstructionComplete, execEngineInstructionComplete, hw, ← hy]
    simp only [hf, hr, hc, Bool.true_eq_false, Bool.false_eq_true, or_self, if_false, hps]
    rfl

theorem engineComplete_completes (hw : coreInFlight s c e = some (k, x)) (hf : flightAt x e id = some f) (hr : f.ready = true)
    (hc : onChain s k c id = false) (ht : f.q.w.sigv = true → token x (8 * engCode e + f.q.w.sigt.toNat) < 255) :
    Completes (.engineInstructionComplete c e id) s (fun t => SameBytes s t ∧ (coreOf t k c).sregs = x.sregs ∧
      (coreOf t k c).preds = x.preds ∧ (coreOf t k c).pc = x.pc ∧ flightAt (coreOf t k c) e id = none ∧
      (∀ u, token (coreOf t k c) u = if f.q.w.sigv = true ∧ u = 8 * engCode e + f.q.w.sigt.toNat then token x u + 1 else token x u) ∧
      (e = .stream → ∃ v, v = look (coreOf t k c).stat {} (if f.q.w.sigv then f.q.w.sigt.toNat else 8) ∧
        v.opc = opcOf f.q.op ∧ v.status = f.status ∧ v.tag = f.q.w.imm ∧ v.orphaned = f.orphaned ∧ v.poisonSeen = f.poisonSeen)) := by
  obtain ⟨u, bitmap, nparts, y, hbytes, hcore, hy, he⟩ := engineComplete_answers hw hf hr hc
  have hid := flightAt_id hf
  subst hid
  have hz := landedCore_keeps x e f bitmap nparts
  have htok : ∀ t, token (landedCore x e f bitmap nparts) t = token x t := fun t => by rw [hz]; rfl
  have hsig : ∃ ts, signal (landedCore x e f bitmap nparts) e f.q.w = some { landedCore x e f bitmap nparts with tokens := ts } ∧
      ∀ t, look ts 0 t = if f.q.w.sigv = true ∧ t = 8 * engCode e + f.q.w.sigt.toNat then token x t + 1 else token x t := by
    unfold signal
    split
    · rename_i hv
      dsimp only
      rw [htok, if_neg (by have := ht hv; omega)]
      refine ⟨_, rfl, fun t => ?_⟩
      simp only [hv, true_and]
      by_cases h : t = 8 * engCode e + f.q.w.sigt.toNat
      · simp [h]
      · rw [if_neg h, look_put_other _ _ _ _ _ h]
        exact htok t
    · rename_i hv
      exact ⟨(landedCore x e f bitmap nparts).tokens, rfl, fun t => by simpa [hv, token] using htok t⟩
  obtain ⟨ts, hs, hts⟩ := hsig
  rw [hs, Option.getD_some] at hy
  subst hy
  rw [hs] at he
  refine ⟨u, he, hbytes, ?_⟩
  rw [hcore]
  refine ⟨?_, ?_, ?_, flightAt_landedCore .., hts, ?_⟩
  · rw [hz]
  · rw [hz]
  · rw [hz]
  · rintro rfl
    exact landedCore_status ..

/-- A token at its highest count cannot be signalled (R56). -/
theorem engineComplete_lost (hw : coreInFlight s c e = some (k, x)) (hf : flightAt x e id = some f) (hr : f.ready = true)
    (hc : onChain s k c id = false) (hv : f.q.w.sigv = true) (ht : 255 ≤ token x (8 * engCode e + f.q.w.sigt.toNat)) :
    Completes (.engineInstructionComplete c e id) s (fun t => ∃ u, t = wild u k ∧ SameBytes s u ∧
      flightAt (coreOf u k c) e id = none ∧ (coreOf u k c).tokens = x.tokens) := by
  obtain ⟨u, bitmap, nparts, y, hbytes, hcore, hy, he⟩ := engineComplete_answers hw hf hr hc
  have hid := flightAt_id hf
  subst hid
  have hz := landedCore_keeps x e f bitmap nparts
  have hs : signal (landedCore x e f bitmap nparts) e f.q.w = none := by
    have htok : token (landedCore x e f bitmap nparts) (8 * engCode e + f.q.w.sigt.toNat) =
        token x (8 * engCode e + f.q.w.sigt.toNat) := by rw [hz]; rfl
    simp only [signal, hv, if_true, htok, if_pos ht]
  rw [hs, Option.getD_none] at hy
  subst hy
  rw [hs] at he
  refine ⟨_, he, u, rfl, hbytes, ?_⟩
  rw [hcore]
  exact ⟨flightAt_landedCore .., by rw [hz]⟩

end Complete

/-- Settles O9. -/
theorem engineStartsAndEnds : Obligations.EngineStartsAndEnds := by
  refine ⟨fun s c k x e q r hw hq hop hp hf hb hquiet => ⟨?_, fun hm => ⟨s, engineStart_waits hw hq hm, rfl⟩⟩,
    fun s c k id x e f hw hf hr hc => ⟨engineComplete_completes hw hf hr hc, engineComplete_lost hw hf hr hc⟩⟩
  rintro _ f hm rfl hcap hid
  exact engineStart_completes hw hq hop hp hf hb hquiet hm rfl hcap hid

end Sys2Proof.Machine

/-! ## The work of engines: stores, counts, events (R54, R66, R90, R99, R100, R428) -/

namespace Sys2Proof.Machine

/-! ### What no store and no report touches -/

/-- Between two states core `n` of context `k` runs the same program with the same instructions in flight and the same
breakpoints, the context has the same collectives in flight, and placement, power and keys are the same. -/
structure Works (s t : State) (k n : Nat) : Prop where
  program : SameProgram (coreOf s k n) (coreOf t k n)
  flights : (coreOf t k n).flights = (coreOf s k n).flights
  bps : (coreOf t k n).bps = (coreOf s k n).bps
  colls : (ctxOf t k).colls = (ctxOf s k).colls
  place : t.place = s.place
  power : t.power = s.power
  sec : t.sec = s.sec

namespace Works
variable {s t u : State} {k n : Nat}

theorem refl (s : State) (k n : Nat) : Works s s k n := ⟨.refl _, rfl, rfl, rfl, rfl, rfl, rfl⟩

theorem trans (h : Works s t k n) (h' : Works t u k n) : Works s u k n where
  program := h.program.trans h'.program
  flights := h'.flights.trans h.flights
  bps := h'.bps.trans h.bps
  colls := h'.colls.trans h.colls
  place := h'.place.trans h.place
  power := h'.power.trans h.power
  sec := h'.sec.trans h.sec

theorem foldl {α : Type} {f : State → α → State} (hf : ∀ s a, Works s (f s a) k n) (l : List α) (s : State) :
    Works s (l.foldl f s) k n := List.foldlRecOn (motive := fun t : State => Works s t k n) l f (refl s k n) fun t ht a _ => ht.trans (hf t a)

theorem setCore {y : Core} (hp : SameProgram (coreOf s k n) y) (hf : y.flights = (coreOf s k n).flights)
    (hb : y.bps = (coreOf s k n).bps) : Works s (setCore s k n y) k n := by
  refine ⟨?_, ?_, ?_, rfl, rfl, rfl, rfl⟩ <;> rw [coreOf_setCore] <;> assumption

theorem setCtx {x : Ctx} (hc : x.colls = (ctxOf s k).colls) : Works s (setCtx s k x) k n :=
  ⟨.refl _, rfl, rfl, by rw [ctxOf_setCtx, hc], rfl, rfl, rfl⟩

theorem raiseOn (s : State) (code cls k unit lc : Nat) (pay : List Byte) (n : Nat) : Works s (raiseOn s code cls k unit lc pay) k n := by
  refine ⟨.refl _, rfl, rfl, ?_, rfl, rfl, rfl⟩
  unfold Machine.raiseOn ctxOf
  dsimp only
  split
  · rw [look_put_same]
  · split
    · rw [look_put_same]
    · rfl

theorem raiseTrap (s : State) (k n opc : Nat) (t : Trap) : Works s (raiseTrap s k n opc t) k n := by
  cases t with
  | unpred u => exact refl s k n
  | _ => exact raiseOn ..

theorem countNumeric (s : State) (k src : Nat) (y : Tally) (n : Nat) : Works s (countNumeric s k src y) k n := by
  have hadd : ∀ (t : State) (i m : Nat), Works t (if m = 0 then t else bump t 1 k (0x20 + 4 * src + i) m) k n := by
    intro t i m
    split
    · exact refl t k n
    · exact ⟨.refl _, rfl, rfl, rfl, rfl, rfl, rfl⟩
  exact (((hadd s 0 y.sat).trans (hadd _ 1 y.under)).trans (hadd _ 2 y.nan)).trans (hadd _ 3 y.latch)

theorem setLatch (s : State) (k n opc : Nat) (cause : BitVec 3) (slots : List Nat) : Works s (setLatch s k n opc cause slots) k n := by
  unfold Machine.setLatch
  dsimp only
  split
  · refine .trans ?_ (raiseOn ..)
    exact setCore ⟨rfl, rfl, rfl, rfl, rfl, rfl, rfl, rfl, rfl, rfl⟩ rfl rfl
  · exact setCore ⟨rfl, rfl, rfl, rfl, rfl, rfl, rfl, rfl, rfl, rfl⟩ rfl rfl

theorem applyObs (s : State) (k n : Nat) (o : HeldObs) : Works s (applyObs k n s o) k n := by
  cases o with
  | event code pay =>
    simp only [Machine.applyObs, numEvent]
    split
    · refine .trans ?_ (raiseOn ..)
      exact setCore ⟨rfl, rfl, rfl, rfl, rfl, rfl, rfl, rfl, rfl, rfl⟩ rfl rfl
    · exact setCore ⟨rfl, rfl, rfl, rfl, rfl, rfl, rfl, rfl, rfl, rfl⟩ rfl rfl
  | watch slot tensor nz =>
    simp only [Machine.applyObs, observe]
    split
    · exact setCtx rfl
    · exact refl s k n

theorem emit (s : State) (k n : Nat) (os : List HeldObs) : Works s (emit s k n os) k n := by
  unfold Machine.emit
  dsimp only
  split
  · exact foldl (fun s o => applyObs s k n o) os s
  · exact setCore ⟨rfl, rfl, rfl, rfl, rfl, rfl, rfl, rfl, rfl, rfl⟩ rfl rfl

theorem writeDpa (s : State) (a : Nat) (bs : List Byte) (p : Bool) (k n : Nat) : Works s (writeDpa s a bs p) k n := by
  have hnote : ∀ (t : State) (g : Nat), Works t (notePoison t (g * 64)) k n := fun t g =>
    ⟨.refl _, rfl, rfl, by rw [poisonOnly_notePoison t (g * 64) k], rfl, rfl, rfl⟩
  have hmem : Works s { s with mem := writeMem s.mem a bs p } k n := ⟨.refl _, rfl, rfl, rfl, rfl, rfl, rfl⟩
  unfold Machine.writeDpa
  dsimp only
  split
  · exact hmem.trans (foldl hnote _ _)
  · exact hmem

theorem storeAt (k n : Nat) (s : State) (p : Loc × List Byte × Bool) : Works s (storeAt k n s p) k n := by
  obtain ⟨l, bs, poi⟩ := p
  cases l with
  | mem d => exact writeDpa ..
  | stat off =>
    have hs : SameProgram (coreOf s k n) (statStore (coreOf s k n) off bs.length) ∧
        (statStore (coreOf s k n) off bs.length).flights = (coreOf s k n).flights ∧
        (statStore (coreOf s k n) off bs.length).bps = (coreOf s k n).bps := by
      unfold statStore
      split
      · exact ⟨⟨rfl, rfl, rfl, rfl, rfl, rfl, rfl, rfl, rfl, rfl⟩, rfl, rfl⟩
      · exact ⟨.refl _, rfl, rfl⟩
    exact setCore hs.1 hs.2.1 hs.2.2

theorem writeVas {ws : List Wr} (h : writeVas s k n ws = .ok t) : Works s t k n := by
  unfold Machine.writeVas at h
  simp only [bind, Except.bind] at h
  split at h
  · cases h
  · cases h
    exact foldl (storeAt k n) _ s

theorem flightAt (h : Works s t k n) (e : Engine) (id : Nat) : flightAt (coreOf t k n) e id = flightAt (coreOf s k n) e id := by
  rw [Machine.flightAt, flightsOf, h.flights]
  rfl

end Works

/-- Where no error stands a store leaves none. -/
theorem storeAt_upsets {s : State} (h : s.mem.upsets = []) (k n : Nat) (p : Loc × List Byte × Bool) :
    (storeAt k n s p).mem.upsets = [] := by
  obtain ⟨l, bs, poi⟩ := p
  cases l with
  | mem d =>
    simp only [storeAt, writeDpa_mem]
    simp [writeMem, upsetsAfter, h]
  | stat off => exact h

theorem writeVas_upsets {s t : State} {k n : Nat} {ws : List Wr} (hu : s.mem.upsets = []) (h : writeVas s k n ws = .ok t) :
    t.mem.upsets = [] := by
  unfold writeVas at h
  simp only [bind, Except.bind] at h
  split at h
  · cases h
  · cases h
    exact List.foldlRecOn (motive := fun u : State => u.mem.upsets = []) _ _ hu fun u hu' p _ => storeAt_upsets hu' k n p

/-! ### Reports leave memory -/

theorem raiseTrap_mem (s : State) (k n opc : Nat) (t : Trap) : (raiseTrap s k n opc t).mem = s.mem := by
  cases t <;> rfl

theorem foldl_mem {α : Type} {f : State → α → State} (hf : ∀ s a, (f s a).mem = s.mem) (l : List α) (s : State) :
    (l.foldl f s).mem = s.mem := List.foldlRecOn (motive := fun u : State => u.mem = s.mem) _ _ rfl fun u hu a _ => (hf u a).trans hu

theorem countNumeric_mem (s : State) (k src : Nat) (y : Tally) : (countNumeric s k src y).mem = s.mem := by
  unfold countNumeric
  dsimp only
  split_ifs <;> rfl

theorem setLatch_mem (s : State) (k n opc : Nat) (cause : BitVec 3) (slots : List Nat) : (setLatch s k n opc cause slots).mem = s.mem := by
  unfold setLatch
  dsimp only
  split <;> rfl

theorem emit_mem (s : State) (k n : Nat) (os : List HeldObs) : (emit s k n os).mem = s.mem := by
  have hone : ∀ (t : State) (o : HeldObs), (applyObs k n t o).mem = t.mem := by
    intro t o
    cases o with
    | event code pay =>
      simp only [applyObs, numEvent]
      split <;> rfl
    | watch slot tensor nz =>
      simp only [applyObs, observe]
      split <;> rfl
  unfold emit
  dsimp only
  split
  · exact foldl_mem hone os s
  · rfl

/-- What an instruction's effects report once its stores are made: array state, counts, latch, observations and traps. -/
def effReports (s : State) (k n opc : Nat) (e : Eff) : State :=
  let s2 := countNumeric (setCore s k n (arrayState (coreOf s k n) e)) k e.src e.tally
  let s3 := if e.cause = 0 then s2 else setLatch s2 k n opc e.cause e.slots
  e.traps.foldl (fun s t => raiseTrap s k n opc t) (emit s3 k n e.obs)

theorem effReports_keeps (s : State) (k n opc : Nat) (e : Eff) :
    Works s (effReports s k n opc e) k n ∧ (effReports s k n opc e).mem = s.mem := by
  have hlatch : ∀ t : State, Works t (if e.cause = 0 then t else setLatch t k n opc e.cause e.slots) k n ∧
      (if e.cause = 0 then t else setLatch t k n opc e.cause e.slots).mem = t.mem := by
    intro t
    split
    · exact ⟨.refl .., rfl⟩
    · exact ⟨.setLatch .., setLatch_mem ..⟩
  have harray : Works s (setCore s k n (arrayState (coreOf s k n) e)) k n :=
    .setCore ⟨rfl, rfl, rfl, rfl, rfl, rfl, rfl, rfl, rfl, rfl⟩ rfl rfl
  unfold effReports
  dsimp only
  refine ⟨(((harray.trans (.countNumeric ..)).trans (hlatch _).1).trans (.emit ..)).trans (.foldl (fun s t => .raiseTrap s k n opc t) _ _), ?_⟩
  rw [foldl_mem (fun s t => raiseTrap_mem s k n opc t), emit_mem, (hlatch _).2, countNumeric_mem, setCore_mem]

theorem applyEff_of_writes {s s1 : State} {k n : Nat} {e : Eff} (h : writeVas s k n e.ws = .ok s1) (opc : Nat) :
    ∃ c, applyEff s k n opc e = .ok { effReports s1 k n opc e with freeCtr := c } :=
  ⟨_, by simp only [applyEff, h, bind, Except.bind]; rfl⟩

end Sys2Proof.Machine

namespace Sys2Proof.Machine

/-! ### The work of the array, the matrix-vector unit and the vector engine (R54, R61, R66, R67, R90, R100, R128) -/

/-- The command of an instruction of these engines at its work does `computeWork`; MMA and MDA wait for their chunks. -/
theorem exec_tensor_run {op : TOp} {c id k : Nat} {i : Instr} {s : State} {x : Core} {f : Flight} {r : Except Trap Eff}
    (hi : tensorCmd op c (.run id) = some i) (hr : computeWork s k c x f op = some r) :
    ∃ go eff, exec i s = runWork op c id s go eff ∧ eff k x f = r ∧
      go x f = (!decide (op = .mma ∨ op = .mda) || chunkGo x f) := by
  cases op with
  | mma | mda =>
    cases hi
    cases hr
    exact ⟨chunkGo, _, rfl, rfl, rfl⟩
  | mmaLd | mvm | vop | topk | norm | softmax | cvt | stat | upd =>
    cases hi
    cases hr
    exact ⟨freely, _, rfl, rfl, rfl⟩
  | _ => cases hr

section Run
variable {s : State} {c k id : Nat} {x : Core} {op : TOp} {f : Flight} {go : Core → Flight → Bool}
  {eff : Nat → Core → Flight → Except Trap Eff} {e : Eff}

/-- The state with the flight of an instruction that trapped. -/
def trappedIn (s : State) (k c : Nat) (op : TOp) (f : Flight) : State := setFlightS s k c (engOf op) { f with trapped := true }

theorem trappedIn_keeps (hx : coreOf s k c = x) (hf : flightAt x (engOf op) id = some f) :
    OnlyCore s (trappedIn s k c op f) k c ∧ SameProgram x (coreOf (trappedIn s k c op f) k c) ∧
      flightAt (coreOf (trappedIn s k c op f) k c) (engOf op) id = some { f with trapped := true } := by
  have hid := flightAt_id hf
  refine ⟨onlyCore_setFlightS .., ?_⟩
  rw [trappedIn, coreOf_setFlightS, hx]
  exact ⟨sameProgram_putFlight .., flightAt_putFlight hf hid⟩

section
variable (h : ToDo s c k x (engOf op) op id f)
include h

theorem runWork_held (hgo : go x f = false) : runWork op c id s go eff = .next s := by
  obtain ⟨hw, hf, hop, hran, htrap⟩ := h
  simp [runWork, hw, hf, hgo]

theorem runWork_traps {t : Trap} (hgo : go x f = true) (he : eff k x f = .error t) :
    runWork op c id s go eff = trapNow (trappedIn s k c op f) k c (opcOf op) t := by
  obtain ⟨hw, hf, hop, hran, htrap⟩ := h
  simp [runWork, hw, hf, hgo, hop, hran, htrap, he, trappedIn]

theorem runWork_overlaps (hgo : go x f = true) (he : eff k x f = .ok e) (hm : operandsMeet s k c f = true) :
    runWork op c id s go eff = trapNow (trappedIn s k c op f) k c (opcOf op) (.unpred .overlap) := by
  obtain ⟨hw, hf, hop, hran, htrap⟩ := h
  simp [runWork, hw, hf, hgo, hop, hran, htrap, he, hm, trappedIn]

theorem runWork_waits (hgo : go x f = true) (he : eff k x f = .ok e) (hm : operandsMeet s k c f = false)
    (hwait : workWaits s k c f e = true) : runWork op c id s go eff = .next s := by
  obtain ⟨hw, hf, hop, hran, htrap⟩ := h
  simp only [workWaits, Bool.or_eq_true, Bool.not_eq_true'] at hwait
  simp [runWork, hw, hf, hgo, hop, hran, htrap, he, hm, hwait]

theorem runWork_does {s1 : State} (hgo : go x f = true) (he : eff k x f = .ok e) (hm : operandsMeet s k c f = false)
    (hwait : workWaits s k c f e = false) (hws : writeVas s k c e.ws = .ok s1) : ∃ ch ctr, runWork op c id s go eff =
      .next (touchData (setFlightS { effReports s1 k c (opcOf op) e with freeCtr := ctr, chain := ch } k c (engOf op)
        { f with ran := true, ready := true }) k c (workAccesses f e)) := by
  obtain ⟨hw, hf, hop, hran, htrap⟩ := h
  obtain ⟨ctr, happ⟩ := applyEff_of_writes hws (opcOf op)
  simp only [workWaits, Bool.or_eq_false_iff, Bool.not_eq_false'] at hwait
  refine ⟨takeCredits (effReports s1 k c (opcOf op) e).chain
    (accessBufs s c (touches s k c (workAccesses f e)) s.chain.nextTag) crDemand, ctr, ?_⟩
  simp only [runWork, hw, hf, hgo, hop, hran, htrap, he, hm, hwait, happ, ne_eq, not_true_eq_false, Bool.false_eq_true,
    Bool.true_eq_false, or_self, if_false]

end

/-- An instruction that did its stores, paid for its accesses and is ready to complete. -/
theorem touched_keeps {s1 u : State} {as : List (Nat × Nat × Bool)} {g : Flight} {e : Engine} (hx : coreOf s k c = x) (hb : NoBreakpoint x) (hq : Quiet s k x)
    (hu1 : s1.mem.upsets = []) (hw : Works s u k c) (hm : u.mem = s1.mem) (hf : flightAt x e id = some f) (hg : g.id = id) :
    SameBytes s1 (touchData (setFlightS u k c e g) k c as) ∧
    SameProgram x (coreOf (touchData (setFlightS u k c e g) k c as) k c) ∧
    flightAt (coreOf (touchData (setFlightS u k c e g) k c as) k c) e id = some g ∧
    Pays (setFlightS u k c e g) (touchData (setFlightS u k c e g) k c as) k := by
  obtain ⟨hu, hpass, hcoll⟩ := hq
  have hp := hw.program
  rw [hx] at hp
  have hcore : coreOf (setFlightS u k c e g) k c = putFlight (coreOf u k c) e g := coreOf_setFlightS ..
  have hpass' : (coreOf u k c).pass = 0 := by
    obtain ⟨-, -, -, -, h5, -⟩ := hp
    rw [h5, hpass]
  have hbp : NoBreakpoint (coreOf u k c) := by
    unfold NoBreakpoint
    rw [hw.bps, hx]
    exact hb
  have hpay : Pays (setFlightS u k c e g) (touchData (setFlightS u k c e g) k c as) k :=
    pays_touchData hcore ⟨hm ▸ hu1, hpass', hw.colls.trans hcoll⟩ fun a _ => dataBp_of_noBreakpoint hbp ..
  refine ⟨(SameBytes.of_mem hm).trans hpay.sameBytes, ?_, ?_, hpay⟩
  · rw [hpay.coreOf, hcore]
    exact hp.trans (sameProgram_putFlight ..)
  · rw [hpay.coreOf, hcore]
    exact flightAt_putFlight ((hw.flightAt e id).trans (hx ▸ hf)) hg

/-- A trap with an event: memory and the program as they were, the event the last of the log. -/
theorem trapNow_raises {u : State} {opc code : Nat} {t : Trap} (hu : u.mem.upsets = [])
    (ht : ∃ va, (t = .trans va ∧ code = 0x0204) ∨ (t = .perm va ∧ code = 0x0205) ∨ (t = .consumed va ∧ code = 0x0206)) :
    ∃ v, trapNow u k c opc t = .next v ∧ v.mem = u.mem ∧ v.cores = u.cores ∧
      (v.obs.log.getLast?.map (fun e => (e.code, e.ctx, e.unit))) = some (code, k, unitCore c) := by
  have hmeet : ∀ l : List Touch, l.foldl (fun s t => meet s k 0 t.dpa t.len) u = u := fun l =>
    List.foldlRecOn (motive := fun v : State => v = u) _ _ rfl fun v hv t _ => by
      subst hv
      exact meet_clean hu ..
  obtain ⟨va, ⟨rfl, rfl⟩ | ⟨rfl, rfl⟩ | ⟨rfl, rfl⟩⟩ := ht
  · exact ⟨_, rfl, rfl, rfl, by simp only [raiseTrap, raise_last]; rfl⟩
  · exact ⟨_, rfl, rfl, rfl, by simp only [raiseTrap, raise_last]; rfl⟩
  · refine ⟨raiseTrap u k c opc (.consumed va), by simp only [trapNow, hmeet, trapOut], rfl, rfl, ?_⟩
    simp only [raiseTrap, raise_last]
    rfl

/-- An instruction that traps with an event never completes, and leaves memory and its program. -/
theorem traps_completes {i : Instr} {code opc : Nat} {t : Trap} (hx : coreOf s k c = x) (hf : flightAt x (engOf op) id = some f)
    (hu : s.mem.upsets = []) (ht : ∃ va, (t = .trans va ∧ code = 0x0204) ∨ (t = .perm va ∧ code = 0x0205) ∨ (t = .consumed va ∧ code = 0x0206))
    (he : exec i s = trapNow (trappedIn s k c op f) k c opc t) : Completes i s (fun t => t.mem = s.mem ∧ SameProgram x (coreOf t k c) ∧
      flightAt (coreOf t k c) (engOf op) id = some { f with trapped := true } ∧
      (t.obs.log.getLast?.map (fun e => (e.code, e.ctx, e.unit))) = some (code, k, unitCore c)) := by
  obtain ⟨-, hprog, hflight⟩ := trappedIn_keeps (op := op) hx hf
  obtain ⟨v, hv, hmem, hcores, hlog⟩ := trapNow_raises (k := k) (c := c) (opc := opc) (u := trappedIn s k c op f) hu ht
  have hcore : coreOf v k c = coreOf (trappedIn s k c op f) k c := by simp only [coreOf, hcores]
  exact ⟨v, he.trans hv, hmem, hcore ▸ hprog, hcore ▸ hflight, hlog⟩

/-- One whose operands are malformed, or overlap, gives an unpredictable result of its context. -/
theorem unpredictable_completes {i : Instr} {opc : Nat} {v : Unpred} (hx : coreOf s k c = x) (hf : flightAt x (engOf op) id = some f)
    (he : exec i s = trapNow (trappedIn s k c op f) k c opc (.unpred v)) : Completes i s (fun t => ∃ u, t = wild u k ∧ u.mem = s.mem ∧
      OnlyCore s u k c ∧ SameProgram x (coreOf u k c) ∧ flightAt (coreOf u k c) (engOf op) id = some { f with trapped := true }) :=
  ⟨_, he, trappedIn s k c op f, rfl, rfl, trappedIn_keeps hx hf⟩

end Run

section Compute
variable {s s1 : State} {c k id : Nat} {x : Core} {op : TOp} {f : Flight} {e : Eff} {i : Instr}
  (hi : tensorCmd op c (.run id) = some i) (h : ToDo s c k x (engOf op) op id f)

/-- Only MMA and MDA wait for chunks. -/
theorem chunk_go {go : Core → Flight → Bool} (hgo : (op = .mma ∨ op = .mda) → chunkGo x f = true)
    (hg : go x f = (!decide (op = .mma ∨ op = .mda) || chunkGo x f)) : go x f = true := by
  rw [hg]
  by_cases ho : op = .mma ∨ op = .mda
  · simp [hgo ho]
  · simp [ho]

include hi h

theorem computeWork_completes (hgo : (op = .mma ∨ op = .mda) → chunkGo x f = true) (he : computeWork s k c x f op = some (.ok e))
    (hm : operandsMeet s k c f = false) (hws : writeVas s k c e.ws = .ok s1) (hb : NoBreakpoint x) (hq : Quiet s k x) :
    (workWaits s k c f e = false → Completes i s (fun t => SameBytes s1 t ∧ SameProgram x (coreOf t k c) ∧
      flightAt (coreOf t k c) (engOf op) id = some { f with ran := true, ready := true })) ∧
    (workWaits s k c f e = true → Completes i s (fun t => t = s)) := by
  obtain ⟨go, eff, hexec, heff, hg⟩ := exec_tensor_run hi he
  have hgo' := chunk_go hgo hg
  have hid := flightAt_id h.2.1
  refine ⟨fun hwait => ?_, fun hwait => ⟨s, hexec.trans (runWork_waits h hgo' heff hm hwait), rfl⟩⟩
  obtain ⟨ch, ctr, hrun⟩ := runWork_does h hgo' heff hm hwait hws
  obtain ⟨hw, hmem⟩ := effReports_keeps s1 k c (opcOf op) e
  have hall : Works s { effReports s1 k c (opcOf op) e with freeCtr := ctr, chain := ch } k c :=
    ((Works.writeVas hws).trans hw).trans ⟨.refl _, rfl, rfl, rfl, rfl, rfl, rfl⟩
  obtain ⟨hbytes, hprog, hflight, -⟩ := touched_keeps (g := { f with ran := true, ready := true }) (as := workAccesses f e)
    (coreAtWork_core h.1) hb hq (writeVas_upsets hq.1 hws) hall hmem h.2.1 hid
  exact ⟨_, hexec.trans hrun, hbytes, hprog, hflight⟩

theorem computeWork_raises (hgo : (op = .mma ∨ op = .mda) → chunkGo x f = true) {va : Nat} (hu : s.mem.upsets = [])
    (he : computeWork s k c x f op = some (.error (.trans va)) ∨ computeWork s k c x f op = some (.error (.perm va)) ∨
      computeWork s k c x f op = some (.error (.consumed va))) :
    Completes i s (fun t => t.mem = s.mem ∧ SameProgram x (coreOf t k c) ∧
      flightAt (coreOf t k c) (engOf op) id = some { f with trapped := true } ∧
      (t.obs.log.getLast?.map (fun e => (e.code, e.ctx, e.unit))) =
        some (if computeWork s k c x f op = some (.error (.trans va)) then 0x0204
          else if computeWork s k c x f op = some (.error (.perm va)) then 0x0205 else 0x0206, k, unitCore c)) := by
  have hrun : ∀ t, computeWork s k c x f op = some (.error t) → exec i s = trapNow (trappedIn s k c op f) k c (opcOf op) t := by
    intro t ht
    obtain ⟨go, eff, hexec, heff, hg⟩ := exec_tensor_run hi ht
    exact hexec.trans (runWork_traps h (chunk_go hgo hg) heff)
  rcases he with he | he | he
  · exact traps_completes (coreAtWork_core h.1) h.2.1 hu ⟨va, by simp [he]⟩ (hrun _ he)
  · exact traps_completes (coreAtWork_core h.1) h.2.1 hu ⟨va, by simp [he]⟩ (hrun _ he)
  · exact traps_completes (coreAtWork_core h.1) h.2.1 hu ⟨va, by simp [he]⟩ (hrun _ he)

theorem computeWork_unpredictable (hgo : (op = .mma ∨ op = .mda) → chunkGo x f = true)
    (he : computeWork s k c x f op = some (.error (.unpred .malformed)) ∨
      (∃ e, computeWork s k c x f op = some (.ok e) ∧ operandsMeet s k c f = true)) :
    Completes i s (fun t => ∃ u, t = wild u k ∧ u.mem = s.mem ∧ OnlyCore s u k c ∧ SameProgram x (coreOf u k c) ∧
      flightAt (coreOf u k c) (engOf op) id = some { f with trapped := true }) := by
  rcases he with he | ⟨e, he, hm⟩
  · obtain ⟨go, eff, hexec, heff, hg⟩ := exec_tensor_run hi he
    exact unpredictable_completes (coreAtWork_core h.1) h.2.1 (hexec.trans (runWork_traps h (chunk_go hgo hg) heff))
  · obtain ⟨go, eff, hexec, heff, hg⟩ := exec_tensor_run hi he
    exact unpredictable_completes (coreAtWork_core h.1) h.2.1 (hexec.trans (runWork_overlaps h (chunk_go hgo hg) heff hm))

theorem computeWork_held (ho : op = .mma ∨ op = .mda) (hgo : chunkGo x f = false) : exec i s = .next s := by
  have hr : ∃ r, computeWork s k c x f op = some r := by
    rcases ho with rfl | rfl
    · exact ⟨_, rfl⟩
    · exact ⟨_, rfl⟩
  obtain ⟨r, hr⟩ := hr
  obtain ⟨go, eff, hexec, -, hg⟩ := exec_tensor_run hi hr
  exact hexec.trans (runWork_held h (by rw [hg, hgo]; simp [ho]))

end Compute

/-- Settles O10: its work done whole, its traps, and what it waits for. -/
theorem computeWork : Obligations.ComputeWork :=
  ⟨fun _ _ _ _ _ _ _ _ _ _ hi h hgo he hm hws hb hq => computeWork_completes hi h hgo he hm hws hb hq,
   fun s _ _ _ _ _ _ _ hi h hgo => ⟨fun _ hu he => computeWork_raises hi h hgo hu he, fun he => computeWork_unpredictable hi h hgo he,
    fun ho hc => ⟨s, computeWork_held hi h ho hc, rfl⟩⟩⟩

end Sys2Proof.Machine

/-! ## Transfers planned (R67, R87 to R91, R95, R101) -/

namespace Sys2Proof.Machine

/-! ### The parts of a transfer (R91) -/

/-- Runs cover the list they are of. -/
theorem runsOf_sum (l : List (Nat × Nat)) : ((runsOf l).map (fun r => r.2.2)).sum = l.length := by
  induction l with
  | nil => rfl
  | cons p l ih =>
    obtain ⟨a, b⟩ := p
    rw [runsOf]
    cases hr : runsOf l with
    | nil =>
      rw [hr] at ih
      simpa using ih.symm
    | cons q t =>
      obtain ⟨a', b', n⟩ := q
      rw [hr] at ih
      dsimp only
      split <;> simp at ih ⊢ <;> omega

theorem mergeRuns_length (cs : List Nat) (at' : Nat) (rs : List (Nat × Nat × Nat)) : (mergeRuns cs at' rs).length ≤ cs.length := by
  induction cs generalizing at' rs with
  | nil => rfl
  | cons c cs ih =>
    rw [mergeRuns]
    split
    · simpa using ih ..
    · simp

/-- Runs taken together in counts that make up their number lose no element. -/
theorem mergeRuns_sum {cs : List Nat} (hpos : ∀ c ∈ cs, 0 < c) (at' : Nat) {rs : List (Nat × Nat × Nat)} (hlen : rs.length ≤ cs.sum) :
    ((mergeRuns cs at' rs).map (fun p => p.count)).sum = (rs.map (fun r => r.2.2)).sum := by
  induction cs generalizing at' rs with
  | nil =>
    have hrs : rs = [] := by simpa using hlen
    rw [hrs]
    rfl
  | cons c cs ih =>
    rw [mergeRuns]
    split
    · have hdrop : (rs.drop c).length ≤ cs.sum := by
        rw [List.sum_cons] at hlen
        rw [List.length_drop]
        omega
      simp only [List.map_cons, List.sum_cons, ih (fun d hd => hpos d (List.mem_cons_of_mem c hd)) _ hdrop]
      rw [← List.sum_append, ← List.map_append, List.take_append_drop]
    · rename_i hnil
      have hc := hpos c List.mem_cons_self
      have hrs : rs = [] := (List.take_eq_nil_iff.1 hnil).resolve_left hc.ne'
      simp [hrs]

/-- Of `n` numbers the first `m` counted. -/
theorem sum_b1_lt (n m : Nat) : ((List.range n).map (fun i => b1 (decide (i < m)))).sum = min n m := by
  induction n with
  | zero => simp
  | succ n ih =>
    rw [List.range_succ, List.map_append, List.sum_append, ih]
    by_cases h : n < m <;> simp [b1, h] <;> omega

/-- A transfer has at most 64 parts, and they make it up. -/
theorem partsFrom_covers (rs : List (Nat × Nat × Nat)) :
    (partsFrom rs).length ≤ 64 ∧ ((partsFrom rs).map (fun p => p.count)).sum = (rs.map (fun r => r.2.2)).sum := by
  unfold partsFrom
  dsimp only
  split
  · rename_i hn
    refine ⟨(mergeRuns_length ..).trans (by simpa using hn), mergeRuns_sum (fun c hc => ?_) _ (by simp)⟩
    rw [List.eq_of_mem_replicate hc]
    exact Nat.one_pos
  · rename_i hn
    refine ⟨(mergeRuns_length ..).trans (by simp), mergeRuns_sum (fun c hc => ?_) _ ?_⟩
    · obtain ⟨i, -, rfl⟩ := List.mem_map.1 hc
      omega
    · rw [List.sum_map_add, sum_b1_lt]
      simp
      omega

theorem planParts_covers (s : State) (k n : Nat) (f : Flight) (a d : Desc) :
    (planParts s k n f a d).length ≤ 64 ∧ ((planParts s k n f a d).map (fun p => p.count)).sum = count d := by
  obtain ⟨hlen, hsum⟩ := partsFrom_covers (runsOf ((List.range (count d)).map (fun j =>
    (unitVa s k n (elemAt a (srcOf f a d j)).1 .read, unitVa s k n (elemAt d j).1 .write))))
  exact ⟨hlen, hsum.trans ((runsOf_sum _).trans (by simp))⟩

/-- A flight `f` planned for the destination `d`: the whole of it due, in at most 64 parts that make it up, none of it moved. -/
structure PlanOf (f g : Flight) (bl : List Nat) (d : Desc) : Prop where
  id : g.id = f.id
  blocks : g.blocks = bl
  total : g.total = count d
  issued : g.issued = f.issued
  few : g.parts.length ≤ 64
  whole : (g.parts.map (fun p => p.count)).sum = count d
  pos : g.pos = f.pos
  dest : g.d = some d
  ran : g.ran = true
  listed : g.listed = f.listed

/-- A transfer whose conditions hold and whose operands do not overlap is planned (R67, R87 to R91). -/
theorem planned_of {s : State} {k n : Nat} {f : Flight} {a d : Desc} {bl : List Nat} (hb : transferBlocks s k n f a d = .ok bl)
    (hm : operandsMeet s k n { f with a := some a, d := some d } = false) : ∃ g, planned s k n f a d = .ok g ∧ PlanOf f g bl d := by
  obtain ⟨hlen, hsum⟩ := planParts_covers s k n { f with blocks := bl, total := count d, d := some d, a := some a, ran := true } a d
  refine ⟨{ f with blocks := bl, total := count d, d := some d, a := some a, ran := true, parts :=
    (planParts s k n { f with blocks := bl, total := count d, d := some d, a := some a, ran := true } a d) }, ?_, rfl, rfl, rfl, rfl, hlen, hsum, rfl,
    rfl, rfl, rfl⟩
  simp only [planned, hb, hm, bind, Except.bind, Bool.false_eq_true, if_false]

section Stream
variable {s : State} {c k id : Nat} {x : Core} {f : Flight} {a d : Desc} {bl : List Nat}

/-- The work of a stream instruction that is in flight. -/
theorem runStream_works {op : TOp} {eff : Nat → Core → Flight → Except Trap State} {t : State} (h : ToDo s c k x (engOf op) op id f)
    (he : eff k x f = .ok t) : runStream op c id s eff = .next t := by
  obtain ⟨hw, hf, hop, hran, htrap⟩ := h
  simp [runStream, coreInFlight_of_atWork _ hw, hf, hop, hran, htrap, he]

theorem runStream_traps {op : TOp} {eff : Nat → Core → Flight → Except Trap State} {t : Trap} (h : ToDo s c k x (engOf op) op id f)
    (he : eff k x f = .error t) : runStream op c id s eff = trapNow (trappedIn s k c op f) k c (opcOf op) t := by
  obtain ⟨hw, hf, hop, hran, htrap⟩ := h
  simp [runStream, coreInFlight_of_atWork _ hw, hf, hop, hran, htrap, he, trappedIn]

theorem same_operands (ha : f.a = some a) (hd : f.d = some d) : { f with a := some a, d := some d } = f := by
  rw [← ha, ← hd]

/-- What a plan put in the place of its flight leaves of the core. -/
theorem putPlan {e : Engine} {g : Flight} (hx : coreOf s k c = x) (hf : flightAt x e id = some f) (hid : g.id = f.id) :
    OnlyCore s (setFlightS s k c e g) k c ∧ SameProgram x (coreOf (setFlightS s k c e g) k c) ∧
      flightAt (coreOf (setFlightS s k c e g) k c) e id = some g := by
  refine ⟨onlyCore_setFlightS .., ?_⟩
  rw [coreOf_setFlightS, hx]
  exact ⟨sameProgram_putFlight .., flightAt_putFlight hf (hid.trans (flightAt_id hf))⟩

theorem xfer_completes (ha : f.a = some a) (hd : f.d = some d) (h : ToDo s c k x .stream .xfer id f)
    (hb : transferBlocks s k c f a d = .ok bl) (hm : operandsMeet s k c f = false) :
    Completes (.xfer c (.run id)) s (fun t => OnlyCore s t k c ∧ SameProgram x (coreOf t k c) ∧
      ∃ g, flightAt (coreOf t k c) .stream id = some g ∧ g.blocks = bl ∧ g.total = count d ∧ g.issued = count d ∧
        g.parts.length ≤ 64 ∧ (g.parts.map (fun p => p.count)).sum = count d ∧
        g.pos = f.pos ∧ g.d = some d ∧ g.ran = true ∧ g.listed = f.listed) := by
  obtain ⟨g, hg, hplan⟩ := planned_of hb (by rw [same_operands ha hd]; exact hm)
  obtain ⟨honly, hprog, hflight⟩ := putPlan (g := { g with issued := g.total }) (coreAtWork_core h.1) h.2.1 hplan.id
  refine ⟨_, runStream_works h (by simp only [ha, hd, needDesc, hg, bind, Except.bind]), honly, hprog, _, hflight, hplan.blocks,
    hplan.total, hplan.total, hplan.few, hplan.whole, hplan.pos, hplan.dest, hplan.ran, hplan.listed⟩

theorem count_base (d : Desc) (b : Nat) : count { d with base := b } = count d := rfl

theorem count_ridgeDest (d : Desc) (dest : Nat) : count (ridgeDest d dest) = count d := count_base ..

theorem ridge_completes (ha : f.a = some a) (hd : f.d = some d) (h : ToDo s c k x .stream .ridge id f) (hob : f.q.ob.isReg = true)
    (hox : f.q.ox.isDesc = false) (hnm : f.q.ox.isReg = true → nmRsv (BitVec.ofNat 64 f.q.ox.val) = false) (hba : ownBase a = true)
    (hbd : ownBase d = true) (hph : phRsv (f.q.w.imm.setWidth 64) = false) (hin : inPartition s k f.q.ob.val = true)
    (hb : transferBlocks s k c f a (ridgeDest d f.q.ob.val) = .ok bl)
    (hm : operandsMeet s k c { f with d := some (ridgeDest d f.q.ob.val) } = false) :
    Completes (.ridge c (.run id)) s (fun t => OnlyCore s t k c ∧ SameProgram x (coreOf t k c) ∧
      ∃ g, flightAt (coreOf t k c) .stream id = some g ∧ g.total = count d ∧ g.issued = count d ∧
        g.d.map (fun e => e.base) = some (0xF_1000_0000_0000 + f.q.ob.val * Config.scratchBytes + (d.base - 0xF_0000_0000_0000)) ∧
        g.ran = true) := by
  have hsame : { f with a := some a, d := some (ridgeDest d f.q.ob.val) } = { f with d := some (ridgeDest d f.q.ob.val) } := by rw [← ha]
  obtain ⟨g, hg, hplan⟩ := planned_of hb (by rw [hsame]; exact hm)
  obtain ⟨honly, hprog, hflight⟩ := putPlan (g := { g with issued := g.total }) (coreAtWork_core h.1) h.2.1 hplan.id
  have hcore : f.q.ob.val < 320 := by
    simp only [inPartition, Bool.and_eq_true, decide_eq_true_eq] at hin
    exact hin.1
  have hname : (f.q.ox.isReg && nmRsv (BitVec.ofNat 64 f.q.ox.val)) = false := by
    cases hr : f.q.ox.isReg
    · rfl
    · exact hnm hr
  have htotal := hplan.total.trans (count_ridgeDest ..)
  refine ⟨_, runStream_works h ?_, honly, hprog, _, hflight, htotal, htotal, ?_, hplan.ran⟩
  · simp only [ha, hd, needDesc, need, hob, hox, hba, hbd, hph, hname, needCore, Nat.not_le.2 hcore, hin, hg, bind, Except.bind,
      Bool.not_false, Bool.and_self, if_true, if_false]
  · rw [hplan.dest]
    rfl

end Stream

/-! ### The fetch list (R95) -/

/-- A list of at most 256 fetches spills to no page. -/
theorem spillPages_small {n : Nat} (h : n ≤ 256) : spillPages n = 0 := by
  rw [spillPages, Nat.sub_eq_zero_of_le h]
  rfl

/-- Room made for one more fetch: the list's pages and the books of the partition's HBM, and below 256 entries nothing. -/
theorem growSpill_keeps {s s1 : State} {k n : Nat} (h : growSpill s k n = some s1) : SameBytes s s1 ∧ s1.ctxs = s.ctxs ∧
    SameProgram (coreOf s k n) (coreOf s1 k n) ∧ (coreOf s1 k n).flights = (coreOf s k n).flights ∧
    ((listed (coreOf s k n)).length < 256 → s1 = s) := by
  unfold growSpill at h
  dsimp only at h
  split_ifs at h with hroom
  · cases h
    exact ⟨.of_mem rfl, rfl, .refl _, rfl, fun _ => rfl⟩
  · obtain ⟨a, -, rfl⟩ := Option.map_eq_some_iff.1 h
    rw [coreOf_setCore]
    exact ⟨⟨rfl, rfl, rfl, rfl⟩, rfl, ⟨rfl, rfl, rfl, rfl, rfl, rfl, rfl, rfl, rfl, rfl⟩, rfl,
      fun hl => absurd (by rw [spillPages_small hl]; exact Nat.zero_le _) hroom⟩

section Fetch
variable {s : State} {c k id : Nat} {x : Core} {f : Flight} {a d : Desc} {bl : List Nat}

theorem ok_bind {ε α β : Type} (a : α) (g : α → Except ε β) : (Except.ok a >>= g) = g a := rfl

theorem needDesc_of {o : Option Desc} (h : o = some d) : needDesc o = .ok d := by
  rw [h]
  rfl

theorem need_of {b : Bool} (h : b = true) : need b = .ok () := by
  rw [h]
  rfl

theorem appendFetch_planned (hx : coreOf s k c = x) (ha : f.a = some a) (hd : f.d = some d)
    (hb : transferBlocks s k c f a d = .ok bl) (hm : operandsMeet s k c f = false)
    (hcond : f.q.w.sub.getLsbD 9 = false ∨ x.level = 2 ∨ (f.q.ob.isReg = true ∧ f.q.ob.val % 8 = 0)) :
    ∃ g, PlanOf f g bl d ∧
      (growSpill s k c = none → appendFetch s k c f =
        .ok (spillExhausted (setFlightS s k c .stream { f with trapped := true }) k c ((listed x).length + 1))) ∧
      ∀ s1, growSpill s k c = some s1 → appendFetch s k c f = .ok (setFlightS s1 k c .stream { g with listed := true }) := by
  obtain ⟨g, hg, hplan⟩ := planned_of hb (by rw [same_operands ha hd]; exact hm)
  have hneed : (!f.q.w.sub.getLsbD 9 || x.level == 2 || (f.q.ob.isReg && decide (f.q.ob.val % 8 = 0))) = true := by
    rcases hcond with h | h | ⟨h, h'⟩
    · rw [h]
      rfl
    · simp [h]
    · simp [h, h']
  subst hx
  refine ⟨g, hplan, fun hs => ?_, fun s1 hs => ?_⟩ <;>
  · rw [appendFetch, needDesc_of ha, ok_bind, needDesc_of hd, ok_bind]
    dsimp only
    rw [need_of hneed, ok_bind, hg, ok_bind, hs]

theorem execFetch_appends (h : ToDo s c k x .stream .fetch id f) (hl : f.listed = false) {t : State}
    (ha : appendFetch s k c f = .ok t) : exec (.fetch c (.run id)) s = .next t :=
  (exec_fetch ..).trans (runStream_works (op := .fetch) h (by rw [hl]; exact ha))

/-- A FETCH that finds room joins the fetch list with its plan. -/
theorem fetch_listed (h : ToDo s c k x .stream .fetch id f) (hl : f.listed = false) {s1 : State} {g : Flight}
    (hs : growSpill s k c = some s1) (hplan : PlanOf f g bl d)
    (hap : appendFetch s k c f = .ok (setFlightS s1 k c .stream { g with listed := true })) :
    Completes (.fetch c (.run id)) s (fun t => SameBytes s t ∧ t.ctxs = s.ctxs ∧
        ((listed x).length < 256 → OnlyCore s t k c) ∧ SameProgram x (coreOf t k c) ∧
        ∃ g, flightAt (coreOf t k c) .stream id = some g ∧ g.blocks = bl ∧ g.total = count d ∧ g.issued = f.issued ∧
          g.parts.length ≤ 64 ∧ (g.parts.map (fun p => p.count)).sum = count d ∧
          g.pos = f.pos ∧ g.listed = true ∧ g.ran = true) := by
  obtain ⟨hbytes, hctxs, hprog, hflights, hsmall⟩ := growSpill_keeps hs
  rw [coreAtWork_core h.1] at hprog hflights hsmall
  have hf : flightAt (coreOf s1 k c) .stream id = some f := by
    rw [flightAt, flightsOf, hflights]
    exact h.2.1
  obtain ⟨honly, hput, hflight⟩ := putPlan (g := { g with listed := true }) rfl hf hplan.id
  exact ⟨_, execFetch_appends h hl hap, hbytes, hctxs, fun hlen => hsmall hlen ▸ honly, hprog.trans hput, _, hflight, hplan.blocks,
    hplan.total, hplan.issued, hplan.few, hplan.whole, hplan.pos, rfl, hplan.ran⟩

/-- A FETCH for whose entry there is no page raises FETCH_SPILL_EXHAUSTED and never completes. -/
theorem fetch_exhausted (h : ToDo s c k x .stream .fetch id f) (hl : f.listed = false)
    (hap : appendFetch s k c f = .ok (spillExhausted (setFlightS s k c .stream { f with trapped := true }) k c ((listed x).length + 1))) :
    Completes (.fetch c (.run id)) s (fun t => t.mem = s.mem ∧ SameProgram x (coreOf t k c) ∧
        (t.obs.log.getLast?.map (fun e => (e.code, e.ctx, e.unit))) = some (0x0207, k, unitCore c) ∧
        flightAt (coreOf t k c) .stream id = some { f with trapped := true }) := by
  obtain ⟨-, hput, hflight⟩ := putPlan (g := { f with trapped := true }) (coreAtWork_core h.1) h.2.1 rfl
  refine ⟨_, execFetch_appends h hl hap, rfl, hput, ?_, hflight⟩
  rw [spillExhausted, raise_last]
  rfl

end Fetch

/-- Settles O11: the parts of a plan are runs of the destination's units merged into at most 64. -/
theorem transfersPlanned : Obligations.TransfersPlanned := by
  unfold Obligations.TransfersPlanned
  intro s c k id x f a d bl ha hd
  refine ⟨fun h hb hm => xfer_completes ha hd h hb hm, fun h hl hb hm hcond => ?_,
    fun h hob hox hnm hba hbd hph hin hb hm => ridge_completes ha hd h hob hox hnm hba hbd hph hin hb hm⟩
  obtain ⟨g, hplan, hnone, hsome⟩ := appendFetch_planned (coreAtWork_core h.1) ha hd hb hm hcond
  exact ⟨fun s1 hs => fetch_listed h hl hs hplan (hsome s1 hs), fun hs => fetch_exhausted h hl (hnone hs)⟩

end Sys2Proof.Machine

/-! ## YEALM (R67, R90, R99, R204, R205) -/

namespace Sys2Proof.Machine

/-- The accesses of YEALM: what it reads, and what it stores. -/
def yealmAccesses (y : Yealm) : List (Nat × Nat × Bool) :=
  y.reads.map (fun r => (r.1, r.2, false)) ++ y.ws.map (fun q => (q.va, q.bs.length, true))

/-- What YEALM reports once its stores are made: the elements it consumed poisoned, and its watched values. -/
def yealmReports (s : State) (k n : Nat) (y : Yealm) : State :=
  emit (y.bad.foldl (fun s va => raiseTrap s k n 0x44 (.consumed va)) s) k n y.obs

theorem yealmReports_keeps (s : State) (k n : Nat) (y : Yealm) :
    Works s (yealmReports s k n y) k n ∧ (yealmReports s k n y).mem = s.mem :=
  ⟨.trans (.foldl (fun s va => .raiseTrap s k n 0x44 (.consumed va)) _ _) (.emit ..),
    (emit_mem ..).trans (foldl_mem (fun s va => raiseTrap_mem s k n 0x44 (.consumed va)) _ _)⟩

/-- The flight of a YEALM that did its work. -/
def yealmDone (f : Flight) (y : Yealm) : Flight :=
  { f with
    ran := true, ready := true, grains := ((y.ws.flatMap (fun q => grainsOf q.va q.bs.length)).foldl addNat []).length,
    poisonSeen := y.rows.any (fun q => q.poi) }

theorem yealmDone_id (f : Flight) (y : Yealm) : (yealmDone f y).id = f.id := rfl

section
variable {s s1 : State} {c k id : Nat} {x : Core} {f : Flight} {y : Yealm}

theorem yealmRun_waits (hy : yealmEff s k c f = .ok y) (hm : operandsMeet s k c f = false)
    (hwait : hbmWaits s k c (yealmAccesses y) = true) : yealmRun s k c f = .ok s := by
  rw [yealmRun, hy, ok_bind]
  dsimp only
  rw [hm, if_neg Bool.false_ne_true]
  exact if_pos (.inl hwait)

/-- YEALM once it need not wait: its stores, its credits, its reports, and what its accesses cost. -/
theorem yealmRun_does (hy : yealmEff s k c f = .ok y) (hm : operandsMeet s k c f = false)
    (hwait : hbmWaits s k c (yealmAccesses y) = false)
    (hcred : hasCredits s.chain (accessBufs s c (touches s k c (yealmAccesses y)) s.chain.nextTag) crDemand = true)
    (hws : writeVas s k c y.ws = .ok s1) : ∃ ch, yealmRun s k c f =
      .ok (touchData (setFlightS (yealmReports { s1 with chain := ch } k c y) k c .stream (yealmDone f y)) k c (yealmAccesses y)) := by
  refine ⟨takeCredits s1.chain (accessBufs s c (touches s k c (yealmAccesses y)) s.chain.nextTag) crDemand, ?_⟩
  have hgo : ¬ (hbmWaits s k c (yealmAccesses y) = true ∨
      hasCredits s.chain (accessBufs s c (touches s k c (yealmAccesses y)) s.chain.nextTag) crDemand = false) := by
    rw [hwait, hcred]
    decide
  rw [yealmRun, hy, ok_bind]
  dsimp only
  rw [hm, if_neg Bool.false_ne_true]
  refine (if_neg hgo).trans ?_
  rw [hws, ok_bind]
  rfl

variable (h : ToDo s c k x .stream .yealm id f)
include h

theorem yealm_stores (hy : yealmEff s k c f = .ok y) (hm : operandsMeet s k c f = false) (hws : writeVas s k c y.ws = .ok s1)
    (hb : NoBreakpoint x) (hq : Quiet s k x) (hwait : hbmWaits s k c (yealmAccesses y) = false)
    (hcred : hasCredits s.chain (accessBufs s c (touches s k c (yealmAccesses y)) s.chain.nextTag) crDemand = true) :
    Completes (.yealm c (.run id)) s (fun t => SameBytes s1 t ∧ SameProgram x (coreOf t k c) ∧
      (∃ g, flightAt (coreOf t k c) .stream id = some g ∧ g.ready = true) ∧
      t.place = s.place ∧ t.power = s.power ∧ t.sec = s.sec) := by
  obtain ⟨ch, hrun⟩ := yealmRun_does hy hm hwait hcred hws
  obtain ⟨hrep, hmem⟩ := yealmReports_keeps { s1 with chain := ch } k c y
  have hworks : Works s (yealmReports { s1 with chain := ch } k c y) k c :=
    ((Works.writeVas hws).trans (show Works s1 { s1 with chain := ch } k c from ⟨.refl _, rfl, rfl, rfl, rfl, rfl, rfl⟩)).trans hrep
  obtain ⟨hbytes, hprog, hflight, hpay⟩ := touched_keeps (as := yealmAccesses y) (g := yealmDone f y) (coreAtWork_core h.1) hb hq
    (writeVas_upsets hq.1 hws) hworks hmem h.2.1 ((yealmDone_id f y).trans (flightAt_id h.2.1))
  refine ⟨_, runStream_works (op := .yealm) h hrun, hbytes, hprog, ⟨_, hflight, rfl⟩, ?_⟩
  rw [hpay.rest]
  exact ⟨hworks.place, hworks.power, hworks.sec⟩

theorem yealm_waits (hy : yealmEff s k c f = .ok y) (hm : operandsMeet s k c f = false)
    (hwait : hbmWaits s k c (yealmAccesses y) = true) : Completes (.yealm c (.run id)) s (fun t => t.mem = s.mem ∧
      SameProgram x (coreOf t k c) ∧ flightAt (coreOf t k c) .stream id = some f) := by
  have hx := coreAtWork_core h.1
  exact ⟨s, runStream_works (op := .yealm) h (yealmRun_waits hy hm hwait), rfl, hx ▸ .refl _, hx ▸ h.2.1⟩

theorem yealm_malformed (hy : yealmEff s k c f = .error (.unpred .malformed)) : Completes (.yealm c (.run id)) s (fun t =>
    ∃ u, t = wild u k ∧ OnlyCore s u k c ∧ SameProgram x (coreOf u k c) ∧
      flightAt (coreOf u k c) .stream id = some { f with trapped := true }) := by
  have hrun : yealmRun s k c f = .error (.unpred .malformed) := by
    rw [yealmRun, hy]
    rfl
  have hexec : exec (.yealm c (.run id)) s = trapNow (trappedIn s k c .yealm f) k c (opcOf .yealm) (.unpred .malformed) :=
    (exec_yealm ..).trans (runStream_traps (op := .yealm) (eff := fun k _ f => yealmRun s k c f) h hrun)
  exact ⟨_, hexec, trappedIn s k c .yealm f, rfl,
    trappedIn_keeps (op := .yealm) (coreAtWork_core h.1) h.2.1⟩

end

/-- Settles O13: a run of YEALM is stores, then reports that leave memory and the program, then the cost of its accesses. -/
theorem yealmRuns : Obligations.YealmRuns := by
  unfold Obligations.YealmRuns
  intro s c k id x f h
  refine ⟨fun y s1 hy hm hws hb hq => ⟨fun hwait hcred => ?_, fun hwait => ?_⟩, fun hy => yealm_malformed h hy⟩
  · exact yealm_stores h hy hm hws hb hq hwait hcred
  · exact yealm_waits h hy hm hwait

end Sys2Proof.Machine

/-! ## Contexts that take turns, and the outbox (R351, R352, R363, R365) -/

namespace Sys2Proof.Machine

/-! ### The launch of a context -/

/-- A context with the same partition, launch and request to pause. -/
structure SameLaunch (x y : Ctx) : Prop where
  part : y.part = x.part
  launched : y.launched = x.launched
  launch : y.launch = x.launch
  pauseReq : y.pauseReq = x.pauseReq

theorem SameLaunch.refl (x : Ctx) : SameLaunch x x := ⟨rfl, rfl, rfl, rfl⟩

theorem SameLaunch.trans {x y z : Ctx} (h : SameLaunch x y) (h' : SameLaunch y z) : SameLaunch x z :=
  ⟨h'.part.trans h.part, h'.launched.trans h.launched, h'.launch.trans h.launch, h'.pauseReq.trans h.pauseReq⟩

/-- Between two states no core changes, nor the launch or state of any context. -/
structure Stays (s t : State) : Prop where
  cores : t.cores = s.cores
  ctxs : ∀ j, SameLaunch (ctxOf s j) (ctxOf t j)
  st : ∀ j, (ctxOf t j).st = (ctxOf s j).st

namespace Stays
variable {s t u : State}

theorem of_same (hc : t.cores = s.cores) (hx : t.ctxs = s.ctxs) : Stays s t :=
  ⟨hc, fun j => by rw [ctxOf, ctxOf, hx]; exact .refl _, fun j => by rw [ctxOf, ctxOf, hx]⟩

theorem refl (s : State) : Stays s s := of_same rfl rfl

theorem trans (h : Stays s t) (h' : Stays t u) : Stays s u := ⟨h'.cores.trans h.cores, fun j => (h.ctxs j).trans (h'.ctxs j),
  fun j => (h'.st j).trans (h.st j)⟩

theorem foldl {α : Type} {f : State → α → State} (hf : ∀ s a, Stays s (f s a)) (l : List α) (s : State) : Stays s (l.foldl f s) :=
  List.foldlRecOn l f (refl s) fun t ht a _ => ht.trans (hf t a)

theorem setCtx {k : Nat} {x : Ctx} (hx : SameLaunch (ctxOf s k) x) (hst : x.st = (ctxOf s k).st) : Stays s (setCtx s k x) := by
  have hj : ∀ j, SameLaunch (ctxOf s j) (ctxOf (Machine.setCtx s k x) j) ∧ (ctxOf (Machine.setCtx s k x) j).st = (ctxOf s j).st := by
    intro j
    by_cases hj : j = k
    · subst hj
      rw [ctxOf_setCtx]
      exact ⟨hx, hst⟩
    · rw [ctxOf_setCtx_other _ _ _ _ hj]
      exact ⟨.refl _, rfl⟩
  exact ⟨rfl, fun j => (hj j).1, fun j => (hj j).2⟩

theorem raise (s : State) (code cls k u : Nat) (p : List Byte) : Stays s (raise s code cls k u p) := by
  obtain ⟨x, hput, hx, hst⟩ : ∃ x, ((Machine.raise s code cls k u p).ctxs = put s.ctxs k x ∨
      (Machine.raise s code cls k u p).ctxs = s.ctxs) ∧ SameLaunch (ctxOf s k) x ∧ x.st = (ctxOf s k).st := by
    unfold Machine.raise raiseOn
    dsimp only
    split
    · exact ⟨_, .inl rfl, ⟨rfl, rfl, rfl, rfl⟩, rfl⟩
    · split
      · exact ⟨_, .inl rfl, ⟨rfl, rfl, rfl, rfl⟩, rfl⟩
      · exact ⟨_, .inr rfl, .refl _, rfl⟩
  rcases hput with h | h
  · exact (setCtx hx hst).trans (of_same rfl h)
  · exact of_same rfl h

theorem notePoison (s : State) (d : Nat) : Stays s (notePoison s d) := by
  refine ⟨rfl, fun j => ?_, fun j => ?_⟩ <;> rw [poisonOnly_notePoison s d j]
  exact ⟨rfl, rfl, rfl, rfl⟩

theorem keepHandling (s : State) : Stays s (keepHandling s) := by
  unfold Machine.keepHandling
  split
  · exact refl s
  · split_ifs <;> exact of_same rfl rfl

theorem uncorrected (s : State) (k a src : Nat) : Stays s (uncorrected s k a src) := by
  have hpoison : Stays s (poisonGrain { s with mem := noteErr s.mem a s.clock.ns true } a) := by
    refine .trans ?_ (notePoison _ a)
    exact of_same rfl rfl
  unfold Machine.uncorrected
  dsimp only
  split_ifs
  · exact refl s
  · exact (hpoison.trans (raise ..)).trans (keepHandling _)
  · exact hpoison.trans (raise ..)

theorem correctedErr (s : State) (k a : Nat) : Stays s (correctedErr s k a) := by
  unfold Machine.correctedErr
  dsimp only
  split
  · exact of_same rfl rfl
  · refine .trans ?_ (raise ..)
    exact of_same rfl rfl

theorem meetOne (k src : Nat) (s : State) (u : Nat × Bool) : Stays s (meetOne k src s u) := by
  unfold Machine.meetOne
  dsimp only
  split
  · refine .trans ?_ (uncorrected ..)
    exact of_same rfl rfl
  · refine .trans ?_ (correctedErr ..)
    exact of_same rfl rfl

theorem copyDpa (s : State) (k src dst n : Nat) : Stays s (copyDpa s k src dst n) :=
  .trans (show Stays s (meet s k 0 src n) from foldl (fun s u => meetOne k 0 s u) _ s) (of_same rfl rfl)

theorem loadScratch (s : State) (k n p : Nat) : Stays s (loadScratch s k n p) := foldl (fun s _ => copyDpa s k _ _ _) _ s

theorem watchTick (s : State) (k : Nat) : Stays s (watchTick s k) := by
  unfold Machine.watchTick
  dsimp only
  split
  · exact refl s
  · exact setCtx ⟨rfl, rfl, rfl, rfl⟩ rfl

end Stays

theorem ctxOf_changeCtx (s : State) (k : Nat) (st : CtxSt) (cause : Nat) : ctxOf (changeCtx s k st cause) k = { ctxOf s k with st := st } :=
  ctxOf_setCtx ..

theorem ctxOf_changeCtx_other (s : State) (k : Nat) (st : CtxSt) (cause : Nat) {j : Nat} (hj : j ≠ k) :
    ctxOf (changeCtx s k st cause) j = ctxOf s j := ctxOf_setCtx_other _ _ _ _ hj

/-- A partition given to the next context in turn: no core and no launch changes, and nothing runs but what could. -/
structure Turn (s t : State) : Prop where
  cores : t.cores = s.cores
  ctxs : ∀ j, SameLaunch (ctxOf s j) (ctxOf t j)
  st : ∀ j, (ctxOf t j).st = (ctxOf s j).st ∨ ((ctxOf s j).st = .runnable ∧ (ctxOf t j).st = .running)

theorem Stays.turn {s t : State} (h : Stays s t) : Turn s t := ⟨h.cores, h.ctxs, fun j => .inl (h.st j)⟩

theorem nextRunnable_runnable {s : State} {part last k : Nat} (h : nextRunnable s part last = some k) : (ctxOf s k).st = .runnable := by
  obtain ⟨i, -, hi⟩ := List.exists_of_findSome?_eq_some h
  dsimp only at hi
  split_ifs at hi with hc
  cases hi
  exact hc.1

theorem changeCtx_turn {s t : State} {k : Nat} (h : Stays s t) (hk : (ctxOf s k).st = .runnable) (cause : Nat) :
    Turn s (changeCtx t k .running cause) := by
  refine ⟨h.cores, fun j => ?_, fun j => ?_⟩ <;> by_cases hj : j = k
  · subst hj
    rw [ctxOf_changeCtx]
    exact (h.ctxs j).trans ⟨rfl, rfl, rfl, rfl⟩
  · rw [ctxOf_changeCtx_other _ _ _ _ hj]
    exact h.ctxs j
  · subst hj
    rw [ctxOf_changeCtx]
    exact .inr ⟨hk, rfl⟩
  · rw [ctxOf_changeCtx_other _ _ _ _ hj]
    exact .inl (h.st j)

theorem makeResident_turn {s : State} {part k : Nat} (h : (ctxOf s k).st = .runnable) : Turn s (makeResident s part k) := by
  have hset : ∀ x, Stays s (setPart (watchTick s k) part x) := fun x => .trans (.watchTick s k) (.of_same rfl rfl)
  have hload : ∀ t, Stays t ((residents t part).foldl (fun s np => loadScratch s k np.1 np.2) t) :=
    fun t => .foldl (fun s (np : Nat × Nat) => .loadScratch s k np.1 np.2) _ t
  obtain ⟨hcores, hctxs, hst⟩ := changeCtx_turn ((hset _).trans (hload _)) h 0
  exact ⟨hcores, hctxs, hst⟩

theorem schedule_turn (s : State) (part : Nat) : Turn s (schedule s part) := by
  unfold schedule
  dsimp only
  split
  · split
    next hk => exact makeResident_turn (nextRunnable_runnable hk)
    next => exact (Stays.refl s).turn
  · exact (Stays.refl s).turn

section Turns
variable (s : State) (k cause part : Nat)

/-- Whoever runs next, a context put in a state keeps the launch it had. -/
theorem schedule_launch (st : CtxSt) : SameLaunch (ctxOf s k) (ctxOf (schedule (changeCtx s k st cause) part) k) := by
  have h := (schedule_turn (changeCtx s k st cause) part).ctxs k
  rw [ctxOf_changeCtx] at h
  obtain ⟨hpart, hlaunched, hlaunch, hpause⟩ := h
  exact ⟨hpart, hlaunched, hlaunch, hpause⟩

/-- A context made runnable runs, or waits its turn. -/
theorem schedule_runnable : (ctxOf (schedule (changeCtx s k .runnable cause) part) k).st = .runnable ∨
    (ctxOf (schedule (changeCtx s k .runnable cause) part) k).st = .running := by
  have h := (schedule_turn (changeCtx s k .runnable cause) part).st k
  rw [ctxOf_changeCtx] at h
  exact h.imp_right And.right

/-- A context made idle stays so, whoever runs next. -/
theorem schedule_idle : (ctxOf (schedule (changeCtx s k .idle cause) part) k).st = .idle := by
  have h := (schedule_turn (changeCtx s k .idle cause) part).st k
  rw [ctxOf_changeCtx] at h
  exact h.elim id fun hr => nomatch hr.1

theorem endLaunch_ends (status : Nat) : (ctxOf (endLaunch s k status) k).launched = false ∧ (ctxOf (endLaunch s k status) k).st = .idle := by
  unfold endLaunch
  dsimp only
  exact ⟨(schedule_launch ..).launched.trans (congrArg Ctx.launched (ctxOf_setCtx ..)), schedule_idle ..⟩

end Turns

end Sys2Proof.Machine

/-! ## The messages about contexts and launches (R37, R39, R352, R355, R358, R359, R363, R369) -/

namespace Sys2Proof.Machine

/-! ### Firmware's books of a message taken -/

/-- A message taken changes which messages firmware holds, and no other of its books. -/
theorem fw_of_untake {s : State} {h : MsgHdr} {t : MsgType} {f : Firmware} (hf : untake s h t = { s with fw := f }) :
    ∃ b, f = { s.fw with boxes := b } := by
  have hfw : f = (untake s h t).fw := (congrArg State.fw hf).symm
  rw [hfw]
  unfold untake
  dsimp only
  split
  · exact ⟨_, rfl⟩
  · exact ⟨s.fw.boxes, rfl⟩

/-! ### Tables with entries taken out -/

theorem look_filter_none {α : Type} (t : Tbl α) (p : Nat × α → Bool) (d : α) (k : Nat) (hp : ∀ e, e.1 = k → p e = false) :
    look (t.filter p) d k = d := by
  induction t with
  | nil => rfl
  | cons e r ih =>
    by_cases he : p e = true
    · have hk : e.1 ≠ k := fun hk => by simp [hp e hk] at he
      obtain ⟨k', v⟩ := e
      simpa [List.filter_cons, he, look, hk] using ih
    · simpa [List.filter_cons, he] using ih

theorem look_drop_same {α : Type} (t : Tbl α) (d : α) (k : Nat) : look (drop t k) d k = d :=
  look_filter_none _ _ _ _ fun _ he => by simp [he]

section Plain
variable {s : State} {h : MsgHdr}

theorem hostAlive_does {n : Nat} (hn : n = 0 ∨ (2 ≤ n ∧ n ≤ 60)) : Does (.hostAlive h n false) s h { code := 0x0002, kind := .priv } (fun u r =>
    u.fw.timeoutS = (if n = 0 then s.fw.timeoutS else n) ∧ r = p8 s.clock.ns ∧ u.mem = s.mem ∧ u.ctxs = s.ctxs) := by
  refine does_of (exec_hostAlive ..) fun f hf => ?_
  obtain ⟨b, rfl⟩ := fw_of_untake hf
  have hc : ¬(n ≠ 0 ∧ (n < 2 ∨ 60 < n)) := by omega
  simp only [Bool.false_eq_true, if_false, if_neg hc]
  exact ⟨rfl, rfl, rfl, rfl, rfl⟩

theorem status_does : Does (.status h) s h { code := 0x0003, kind := .any, early := true, recov := true } (fun u r =>
    r = statusResult s ∧ u.mem = s.mem ∧ u.ctxs = s.ctxs) := by
  refine does_of (exec_status ..) fun f hf => ?_
  obtain ⟨b, rfl⟩ := fw_of_untake hf
  exact ⟨rfl, rfl, rfl, rfl⟩

theorem contextList_does : Does (.contextList h) s h { code := 0x0004, kind := .own } (fun u r =>
    r = ctxListResult s ((boxOf s h).getD 0) ∧ u.mem = s.mem ∧ u.ctxs = s.ctxs) := by
  refine does_of (exec_contextList ..) fun f hf => ?_
  obtain ⟨b, rfl⟩ := fw_of_untake hf
  exact ⟨rfl, rfl, rfl, rfl⟩

theorem capacity_does (a : Nat) : Does (.capacity h a false) s h { code := 0x0005, kind := .any, early := true } (fun u r =>
    u.mem = s.mem ∧ u.ctxs = s.ctxs ∧ (a = 0 → r = capHead s ++ p4 0 ∧ u.host = s.host) ∧
      (a ≠ 0 → r = capHead s ++ p4 (capReport s).length ∧ u.host.hostWr = s.host.hostWr ++ [(a, capReport s)])) := by
  refine does_of (exec_capacity ..) fun f _ => ?_
  by_cases ha : a = 0
  · simp only [Bool.false_eq_true, if_false, if_pos ha]
    exact ⟨rfl, rfl, rfl, fun _ => ⟨rfl, rfl⟩, fun h => absurd ha h⟩
  · simp only [Bool.false_eq_true, if_false, if_neg ha]
    exact ⟨rfl, rfl, rfl, fun h => absurd h ha, fun _ => ⟨rfl, rfl⟩⟩

theorem contextPolicy_does {l ro g : Nat} (hl : l ≤ 2) (hr : routeOk s ro g = true) :
    Does (.contextPolicy h l ro g false) s h { code := 0x0012, kind := .priv, ctx := true }
      (fun u _ => ctxOf u h.ctx = { ctxOf s h.ctx with hostLoss := l, route := ro, manager := g } ∧ OthersKept s u h.ctx ∧ u.mem = s.mem) := by
  refine does_of (exec_contextPolicy ..) fun f _ => ?_
  have hroute : routeOk { s with fw := f } ro g = true := hr
  simp only [hroute, Nat.not_lt.2 hl, Bool.false_eq_true, Bool.true_eq_false, or_self, if_false]
  exact ⟨rfl, ctxOf_setCtx .., othersKept_setCtx _ h.ctx _, rfl⟩

theorem contextEnergy_does : Does (.contextEnergy h) s h { code := 0x0015, kind := .own, ctx := true } (fun u r =>
    r = p8 ((ctxOf s h.ctx).energy / 1000) ++ p8 s.clock.ns ∧ u.ctxs = s.ctxs ∧ u.mem = s.mem) :=
  does_of (exec_contextEnergy ..) fun _ _ => ⟨rfl, rfl, rfl, rfl⟩

theorem numericPolicy_does {p : NumericPolicy} (hp : policyOk p = true) :
    Does (.numericPolicy h p) s h { code := 0x0028, kind := .own, ctx := true } (fun u _ =>
      ctxOf u h.ctx = { ctxOf s h.ctx with policyNext := some p } ∧ OthersKept s u h.ctx ∧ u.mem = s.mem) := by
  refine does_of (exec_numericPolicy ..) fun f _ => ?_
  rw [if_pos hp]
  exact ⟨rfl, ctxOf_setCtx .., othersKept_setCtx _ h.ctx _, rfl⟩

theorem numericWatch_does {sl th a : Nat} (h1 : 1 ≤ sl) (h2 : sl ≤ 4095) (ha : a ≤ 1) :
    Does (.numericWatch h sl th a false) s h { code := 0x0029, kind := .own, ctx := true } (fun u _ => OthersKept s u h.ctx ∧ u.mem = s.mem ∧
      look (ctxOf u h.ctx).watches {} sl = if a = 1 then { armed := true, threshold := th } else {}) := by
  refine does_of (exec_numericWatch ..) fun f _ => ?_
  have hc : ¬(sl = 0 ∨ 4095 < sl ∨ 1 < a ∨ false = true) := by
    simp only [Bool.false_eq_true, or_false]
    omega
  rw [if_neg hc]
  refine ⟨rfl, othersKept_setCtx _ h.ctx _, rfl, ?_⟩
  simp only [done, ctxOf_setCtx]
  split
  · exact look_put_same ..
  · exact look_drop_same ..

theorem watchdogSet_does {n : Nat} (h1 : 1 ≤ n) (h2 : n ≤ 60000) :
    Does (.watchdogSet h n false) s h { code := 0x002A, kind := .own, ctx := true } (fun u _ =>
      ctxOf u h.ctx = { ctxOf s h.ctx with watchdogMs := n } ∧ OthersKept s u h.ctx ∧ u.mem = s.mem) := by
  refine does_of (exec_watchdogSet ..) fun f _ => ?_
  have hc : ¬(n = 0 ∨ 60000 < n) := by omega
  simp only [Bool.false_eq_true, if_false, if_neg hc]
  exact ⟨rfl, ctxOf_setCtx .., othersKept_setCtx _ h.ctx _, rfl⟩

/-! ### Contexts that stop, resume and end -/

theorem contextStop_ends (hl : (ctxOf s h.ctx).launched = true) :
    Does (.contextStop h) s h { code := 0x0014, kind := .own, ctx := true } (fun u _ =>
      (ctxOf u h.ctx).launched = false ∧ (ctxOf u h.ctx).st = .idle) := by
  refine does_of (exec_contextStop ..) fun f _ => ⟨rfl, ?_⟩
  have hl' : (ctxOf { s with fw := f } h.ctx).launched = true := hl
  simp only [done, stopLaunch, if_pos hl']
  exact endLaunch_ends ..

theorem contextStop_keeps (hl : (ctxOf s h.ctx).launched = false) :
    Does (.contextStop h) s h { code := 0x0014, kind := .own, ctx := true } (fun u _ =>
      u.ctxs = s.ctxs ∧ u.mem = s.mem ∧ u.cores = s.cores) := by
  refine does_of (exec_contextStop ..) fun f _ => ⟨rfl, ?_⟩
  have hl' : ¬(ctxOf { s with fw := f } h.ctx).launched = true := by
    rw [ctxOf_fw, hl]
    decide
  simp only [done, stopLaunch, if_neg hl', and_self]

theorem contextResume_does (hp : (ctxOf s h.ctx).st = .paused) (hu : (partSt s.place (ctxOf s h.ctx).part).unavailable = false) :
    Does (.contextResume h) s h { code := 0x0013, kind := .own, ctx := true } (fun u _ =>
      (ctxOf u h.ctx).pauseReq = false ∧ ((ctxOf u h.ctx).st = .runnable ∨ (ctxOf u h.ctx).st = .running)) := by
  refine does_of (exec_contextResume ..) fun f _ => ?_
  simp only [ctxOf_fw, hp, hu, ne_eq, not_true_eq_false, Bool.false_eq_true, if_false]
  exact ⟨rfl, (schedule_launch ..).pauseReq.trans (congrArg Ctx.pauseReq (ctxOf_setCtx ..)), schedule_runnable ..⟩

theorem contextResume_denies (hp : (ctxOf s h.ctx).st = .paused) (hu : (partSt s.place (ctxOf s h.ctx).part).unavailable = true) :
    Denies (.contextResume h) s h { code := 0x0013, kind := .own, ctx := true } stPartitionUnavailable := by
  refine denies_of (by decide) (exec_contextResume ..) fun f => ?_
  simp only [ctxOf_fw, hp, hu, ne_eq, not_true_eq_false, if_false, if_true]

/-- A context given up is as if it never was, and none of its cores is left. -/
theorem freeContext_empties (s : State) (k : Nat) : ctxOf (freeContext s k) k = {} ∧ ∀ n, n < 512 → coreOf (freeContext s k) k n = {} := by
  refine ⟨look_drop_same .., fun n hn => look_filter_none _ _ _ _ fun e he => ?_⟩
  have hk : e.1 / 512 = k := by
    rw [he, coreKey]
    omega
  simp [hk]

theorem contextDestroy_does : Does (.contextDestroy h) s h { code := 0x0011, kind := .priv, ctx := true } (fun u _ =>
    ctxOf u h.ctx = {} ∧ ∀ n, n < 512 → coreOf u h.ctx n = {}) :=
  does_of (exec_contextDestroy ..) fun _ _ => ⟨rfl, freeContext_empties ..⟩

end Plain

end Sys2Proof.Machine

/-! ## HELLO, CONTEXT_CREATE and LAUNCH (R37, R352, R358, R363, R399) -/

namespace Sys2Proof.Machine

/-! ### The ring of the outbox (R351, R352) -/

/-- Between two states the ring of the outbox stays where it is with what it holds, and so do memory and contexts. -/
structure RingKept (s t : State) : Prop where
  addr : t.fw.outbox.addr = s.fw.outbox.addr
  prod : t.fw.outbox.prod = s.fw.outbox.prod
  cons : t.fw.outbox.cons = s.fw.outbox.cons
  ring : t.fw.outbox.ring = s.fw.outbox.ring
  mem : t.mem = s.mem
  ctxs : t.ctxs = s.ctxs

namespace RingKept
variable {s t u : State}

theorem of_outbox (ho : t.fw.outbox = s.fw.outbox) (hm : t.mem = s.mem) (hx : t.ctxs = s.ctxs) : RingKept s t := by
  refine ⟨?_, ?_, ?_, ?_, hm, hx⟩ <;> rw [ho]

theorem refl (s : State) : RingKept s s := ⟨rfl, rfl, rfl, rfl, rfl, rfl⟩

theorem trans (h : RingKept s t) (h' : RingKept t u) : RingKept s u :=
  ⟨h'.addr.trans h.addr, h'.prod.trans h.prod, h'.cons.trans h.cons, h'.ring.trans h.ring, h'.mem.trans h.mem, h'.ctxs.trans h.ctxs⟩

/-- A record in line waits; the ring holds what it held. -/
theorem putRec (s : State) (f : Firmware) (r : Rec) : RingKept { s with fw := f } { s with fw := putRec f r } := by
  unfold Machine.putRec
  split <;> exact ⟨rfl, rfl, rfl, rfl, rfl, rfl⟩

theorem respond (s : State) (h : MsgHdr) (type status : Nat) (res : List Byte) : RingKept s (respond s h type status res) := by
  unfold Machine.respond
  dsimp only
  split
  · exact refl s
  · split
    · exact putRec s s.fw _
    · exact of_outbox rfl rfl rfl

theorem answerLate (s : State) (m : Nat) : RingKept s (answerLate s m) := by
  unfold Machine.answerLate
  split
  · exact refl s
  · refine List.foldlRecOn (motive := fun t : State => RingKept s t) _ _ ?_ fun t ht e _ => ht.trans (respond ..)
    exact of_outbox rfl rfl rfl

theorem eventRecs (s : State) (e : Event) : RingKept s { s with fw := eventRecs s.fw e } := by
  unfold Machine.eventRecs
  exact List.foldlRecOn (motive := fun f : Firmware => RingKept s { s with fw := f }) _ _ (refl s) fun f hf r _ => hf.trans (putRec s f r)

/-- An event that concerns no context leaves every context. -/
theorem raise_noCtx (s : State) (code cls u : Nat) (p : List Byte) : RingKept s (raise s code cls noCtx u p) := by
  have hctxs : (raise s code cls noCtx u p).ctxs = s.ctxs := by
    have hno : ¬ noCtx < 64 := by decide
    simp only [raise, raiseOn, hno, false_and, and_false, if_false]
  have hbooks : (raise s code cls noCtx u p).fw = Machine.eventRecs s.fw (mkEvent s code cls noCtx u p) ∨
      (raise s code cls noCtx u p).fw = s.fw := by
    unfold raise raiseOn
    dsimp only
    split
    · exact .inl rfl
    · exact .inr rfl
  rcases hbooks with hf | hf
  · obtain ⟨haddr, hprod, hcons, hring, -, -⟩ := eventRecs s (mkEvent s code cls noCtx u p)
    refine ⟨?_, ?_, ?_, ?_, rfl, hctxs⟩ <;> rw [hf] <;> assumption
  · exact of_outbox (by rw [hf]) rfl hctxs

theorem present (s : State) (box : Nat) : RingKept s (present s box) := by
  unfold Machine.present
  dsimp only
  split_ifs
  · exact refl s
  · exact of_outbox rfl rfl rfl
  · refine .trans ?_ ((raise_noCtx _ 0x0702 clsC 0 _).trans (of_outbox rfl rfl rfl))
    exact of_outbox rfl rfl rfl

end RingKept

/-- Firmware's books with the threshold that HELLO sets. -/
def thresholdSet (f : Firmware) (n : Nat) : Firmware :=
  { f with outbox := { f.outbox with threshold := if n = 0 then f.outbox.threshold else n } }

section Hello
variable {s : State} {h : MsgHdr} {a n box : Nat} (hn : n ≤ 4096) (ha : a % 4096 = 0) (hacc : Accepted s (.hello h a n false) h tHello box)
include hn ha hacc

/-- HELLO that gives no ring, or not on mailbox 0, sets its threshold and is answered like any message. -/
theorem hello_answers (hb : a = 0 ∨ box ≠ 0 ∨ 16 ≤ h.src) : ∃ u, exec (.hello h a n false) s =
      .next (present (answer u h 1 stOk (helloResult s s.fw.absent)) box) ∧
    u.fw.outbox = { s.fw.outbox with threshold := if n = 0 then s.fw.outbox.threshold else n } ∧ u.mem = s.mem ∧ u.ctxs = s.ctxs := by
  obtain ⟨htake, href⟩ := hacc
  obtain ⟨f, hf⟩ := untake_fw s h tHello
  obtain ⟨b, rfl⟩ := fw_of_untake hf
  have hbad : ¬(4096 < n ∨ a % 4096 ≠ 0) := by omega
  have hring : ¬(box = 0 ∧ a ≠ 0 ∧ h.src < 16) := by omega
  refine ⟨{ s with fw := thresholdSet { s.fw with boxes := b } n }, ?_, rfl, rfl, rfl⟩
  simp only [exec_hello, execHello, htake, href, hf, Bool.false_eq_true, false_or, if_neg hbad, if_neg hring, thresholdSet]

/-- HELLO that gives a ring starts it empty. -/
theorem hello_rings (ha0 : a ≠ 0) (hb : box = 0) (hsrc : h.src < 16) : Completes (.hello h a n false) s (fun t =>
    t.fw.outbox.addr = a ∧ t.fw.outbox.prod = 0 ∧ t.fw.outbox.cons = 0 ∧ t.fw.outbox.ring = [] ∧ t.mem = s.mem ∧ t.ctxs = s.ctxs) := by
  obtain ⟨htake, href⟩ := hacc
  obtain ⟨f, hf⟩ := untake_fw s h tHello
  have hbad : ¬(4096 < n ∨ a % 4096 ≠ 0) := by omega
  have hring : box = 0 ∧ a ≠ 0 ∧ h.src < 16 := ⟨hb, ha0, hsrc⟩
  refine ⟨present (answerLate (newRing { s with fw := thresholdSet f n } a
    (if h.quiet then [] else [response h 1 stOk (helloResult s s.fw.absent)])) h.src) box, ?_, ?_⟩
  · simp only [exec_hello, execHello, htake, href, hf, Bool.false_eq_true, false_or, if_neg hbad, if_pos hring,
      thresholdSet]
  · obtain ⟨haddr, hprod, hcons, hheld, hmem, hctxs⟩ := (RingKept.answerLate (newRing _ a _) h.src).trans (.present _ box)
    exact ⟨haddr, hprod, hcons, hheld, hmem, hctxs⟩

end Hello

/-! ### The homes of a context's save images (R358, R478) -/

/-- Between two states no context changes but one, which keeps its state, partition and job. -/
structure ImagesOnly (s t : State) (k : Nat) : Prop where
  others : OthersKept s t k
  st : (ctxOf t k).st = (ctxOf s k).st
  part : (ctxOf t k).part = (ctxOf s k).part
  jobId : (ctxOf t k).jobId = (ctxOf s k).jobId

namespace ImagesOnly
variable {s t u : State} {k : Nat}

theorem refl (s : State) (k : Nat) : ImagesOnly s s k := ⟨fun _ _ => rfl, rfl, rfl, rfl⟩

theorem trans (h : ImagesOnly s t k) (h' : ImagesOnly t u k) : ImagesOnly s u k :=
  ⟨fun j hj => (h'.others j hj).trans (h.others j hj), h'.st.trans h.st, h'.part.trans h.part, h'.jobId.trans h.jobId⟩

theorem setCtx {x : Ctx} (hx : t.ctxs = s.ctxs) (hst : x.st = (ctxOf s k).st) (hp : x.part = (ctxOf s k).part)
    (hj : x.jobId = (ctxOf s k).jobId) : ImagesOnly s (setCtx t k x) k := by
  refine ⟨fun j hjk => ?_, ?_, ?_, ?_⟩
  · rw [ctxOf_setCtx_other _ _ _ _ hjk, ctxOf, ctxOf, hx]
  all_goals rw [ctxOf_setCtx]; assumption

theorem reserveHome {part n : Nat} (h : reserveHome s k part n = some t) : ImagesOnly s t k := by
  unfold Machine.reserveHome at h
  split at h
  · cases h
  · cases h
    exact setCtx rfl rfl rfl rfl

theorem reserveHomes {part : Nat} (h : reserveHomes s k part = some t) : ImagesOnly s t k := by
  unfold Machine.reserveHomes at h
  generalize coresOf s.place part = l at h
  induction l generalizing s with
  | nil =>
    cases h
    exact refl ..
  | cons n l ih =>
    rw [List.foldlM_cons] at h
    obtain ⟨u, hu, hl⟩ := Option.bind_eq_some_iff.1 h
    exact (reserveHome hu).trans (ih hl)

theorem imagesToThatch (s : State) (k part : Nat) : ImagesOnly s (imagesToThatch s k part) k :=
  List.foldlRecOn (motive := fun t : State => ImagesOnly s t k) _ _ (refl s k) fun _ ht _ _ => ht.trans (setCtx rfl rfl rfl rfl)

end ImagesOnly

section Create
variable {s : State} {h : MsgHdr} {p m l ro j g w k : Nat}

/-- The context that CONTEXT_CREATE makes, before its images have a home. -/
def created (s : State) (k p m l ro j g w : Nat) : State :=
  setCtx { s with cores := s.cores.filter (fun e => e.1 / 512 != k), obs := clearCtxCounters s.obs k } k {
    part := p, mailbox := m, hostLoss := l, route := ro, jobId := j, manager := g
    watchdogMs := if w = 0 then 100 else w, st := .idle }

/-- A message taken leaves the cores and counters that the new context starts from. -/
theorem created_untake (s : State) (h : MsgHdr) (t : MsgType) (k p m l ro j g w : Nat) : created (untake s h t) k p m l ro j g w =
    setCtx { untake s h t with cores := s.cores.filter (fun e => e.1 / 512 != k), obs := clearCtxCounters s.obs k } k {
      part := p, mailbox := m, hostLoss := l, route := ro, jobId := j, manager := g
      watchdogMs := if w = 0 then 100 else w, st := .idle } := by
  obtain ⟨f, hf⟩ := untake_fw s h t
  rw [hf]
  rfl

theorem contextCreate_does {s1 : State} (hk : freeCtx s = some k) (hp : (partNums s.place).elem p = true)
    (hu : (partSt s.place p).unavailable = false) (hm1 : 1 ≤ m) (hm2 : m ≤ 14) (hl : l ≤ 2) (hj1 : j ≠ 0) (hj2 : j ≤ 0xFFFF_FFFF)
    (hw : w ≤ 60000) (hr : routeOk s ro g = true)
    (hs : reserveHomes (created (untake s h { code := 0x0010, kind := .priv }) k p m l ro j g w) k p = some s1) :
    Does (.contextCreate h p m l ro j g w false) s h { code := 0x0010, kind := .priv } (fun u r =>
      (ctxOf u k).st = .idle ∧ (ctxOf u k).part = p ∧ (ctxOf u k).jobId = j ∧ OthersKept s u k ∧ r = leBytes 1 k) := by
  refine does_of (exec_contextCreate ..) fun f hf => ?_
  rw [hf] at hs
  have hk' : freeCtx { s with fw := f } = some k := hk
  have hr' : routeOk { s with fw := f } ro g = true := hr
  have hbad : ¬(m = 0 ∨ 14 < m ∨ 2 < l ∨ j = 0 ∨ 0xFFFF_FFFF < j ∨ 60000 < w) := by omega
  have hs' := hs
  unfold created at hs'
  simp only [hk', hp, hu, hr', Bool.true_eq_false, Bool.false_eq_true, or_false, if_false, if_neg hbad]
  simp only [hs']
  obtain ⟨hothers, -, hpart, hjob⟩ := (ImagesOnly.reserveHomes hs).trans (.imagesToThatch s1 k p)
  refine ⟨rfl, ?_⟩
  simp only [done, ctxOf_changeCtx]
  refine ⟨trivial, hpart.trans (by simp [created]), hjob.trans (by simp [created]), fun i hi => ?_, trivial⟩
  rw [ctxOf_changeCtx_other _ _ _ _ hi, hothers i hi, created, ctxOf_setCtx_other _ _ _ _ hi]
  rfl

end Create

/-! ### A list without repeats -/

theorem mem_addNat {x k : Nat} {l : List Nat} : x ∈ addNat l k ↔ x = k ∨ x ∈ l := by
  induction l with
  | nil => simp [addNat]
  | cons y r ih =>
    rw [addNat]
    split_ifs with hlt heq
    · simp only [List.mem_cons, ih]
      exact or_left_comm
    · simp [heq]
    · simp

/-- A number put into a rising list leaves it rising. -/
theorem addNat_rising {k : Nat} {l : List Nat} (h : l.Pairwise (· < ·)) : (addNat l k).Pairwise (· < ·) := by
  induction l with
  | nil => simp [addNat]
  | cons y r ih =>
    obtain ⟨hy, hr⟩ := List.pairwise_cons.1 h
    rw [addNat]
    split_ifs with hlt heq
    · exact List.pairwise_cons.2 ⟨fun x hx => (mem_addNat.1 hx).elim (fun e => e ▸ hlt) (hy x), ih hr⟩
    · exact h
    · refine List.pairwise_cons.2 ⟨fun x hx => ?_, h⟩
      rcases List.mem_cons.1 hx with rfl | hx
      · omega
      · have := hy x hx
        omega

theorem distinct_nodup {l : List Nat} (h : distinct l = true) : l.Nodup := by
  have hfold : (l.foldl addNat []).Pairwise (· < ·) :=
    List.foldlRecOn (motive := fun r : List Nat => r.Pairwise (· < ·)) _ _ .nil fun _ hr _ _ => addNat_rising hr
  have hmem : ∀ (l acc : List Nat) (x : Nat), x ∈ l.foldl addNat acc ↔ x ∈ acc ∨ x ∈ l := by
    intro l
    induction l with
    | nil => simp
    | cons y l ih =>
      intro acc x
      rw [List.foldl_cons, ih, mem_addNat, List.mem_cons]
      tauto
  have hsub : l.foldl addNat [] ⊆ l := fun x hx => ((hmem l [] x).1 hx).resolve_left (List.not_mem_nil)
  have hperm : (l.foldl addNat []).Perm l :=
    (List.subperm_of_subset (hfold.imp fun h => h.ne) hsub).perm_of_length_le (beq_iff_eq.1 h).ge
  exact hperm.nodup_iff.1 (hfold.imp fun h => h.ne)

/-! ### The start of a launch (R37, R363) -/

/-- Of cores set in turn, each with its own number, each is what it was set to. -/
theorem coreOf_foldl_setCore {α : Type} (k : Nat) (num : α → Nat) (val : α → Core) {l : List α} (hl : (l.map num).Nodup) (s : State) :
    ∀ a ∈ l, coreOf (l.foldl (fun t a => setCore t k (num a) (val a)) s) k (num a) = val a := by
  induction l generalizing s with
  | nil => exact fun a ha => nomatch ha
  | cons b l ih =>
    obtain ⟨hb, hl⟩ := List.nodup_cons.1 hl
    have hkeep : ∀ (m : List α) (t : State), num b ∉ m.map num →
        coreOf (m.foldl (fun t a => setCore t k (num a) (val a)) t) k (num b) = coreOf t k (num b) := by
      intro m
      induction m with
      | nil => exact fun _ _ => rfl
      | cons c m ihm =>
        intro t hm
        obtain ⟨hc, hm⟩ := not_or.1 (mt List.mem_cons.2 hm)
        refine (ihm _ hm).trans (coreOf_setCore_other _ _ _ _ _ _ ?_)
        simpa [coreKey] using hc
    intro a ha
    rcases List.mem_cons.1 ha with rfl | ha
    · exact (hkeep l _ hb).trans (coreOf_setCore ..)
    · exact ih hl _ a ha

section Launch
variable {s : State} {h : MsgHdr} {es : List LaunchEntry}

theorem startLaunch_starts (s : State) (k : Nat) (hd : distinct (es.map (fun e => e.lcore)) = true) :
    (ctxOf (startLaunch s k es) k).launched = true ∧ (ctxOf (startLaunch s k es) k).launch = es ∧
    ((ctxOf (startLaunch s k es) k).st = .runnable ∨ (ctxOf (startLaunch s k es) k).st = .running) ∧
    ∀ e i, (e, i) ∈ es.zipIdx → coreOf (startLaunch s k es) k e.lcore = entryCore s k e i es.length := by
  have hnum : (es.zipIdx.map ((fun e => e.lcore) ∘ Prod.fst)).Nodup := by
    rw [← List.map_map, List.zipIdx_map_fst]
    exact distinct_nodup hd
  have hcores := coreOf_foldl_setCore k (fun p : LaunchEntry × Nat => p.1.lcore) (fun p => entryCore s k p.1 p.2 es.length) hnum s
  unfold startLaunch
  dsimp only
  refine ⟨(schedule_launch ..).launched.trans (congrArg Ctx.launched (ctxOf_setCtx ..)),
    (schedule_launch ..).launch.trans (congrArg Ctx.launch (ctxOf_setCtx ..)), schedule_runnable .., fun e i he => ?_⟩
  rw [coreOf, (schedule_turn ..).cores]
  exact hcores (e, i) he

theorem launchStatus_distinct {rsv : Bool} {k : Nat} (hs : launchStatus s k es rsv = stOk) :
    distinct (es.map (fun e => e.lcore)) = true := by
  unfold launchStatus at hs
  dsimp only at hs
  split_ifs at hs with _ _ _ hcores _
  obtain ⟨-, hd⟩ := not_or.1 hcores
  exact eq_true_of_ne_false hd

/-- What LAUNCH does once it is taken. -/
def launchBody (h : MsgHdr) (es : List LaunchEntry) (s : State) : State × Nat × List Byte :=
  let st := launchStatus s h.ctx es false
  if st ≠ stOk then deny s st
  else if replacePending (ctxOf s h.ctx) then
    done (announce (setCtx s h.ctx { ctxOf s h.ctx with launch := es, heldLaunch := true })) []
  else done (startLaunch s h.ctx es) []

/-- A LAUNCH with no reserved bit in its headers is a message like any other. -/
theorem exec_launch_message (hr : headerRsv s h.ctx es = false) :
    exec (.launch h es false) s = message (.launch h es false) tLaunch h s (launchBody h es) := by
  have hwild : ∀ o, wildOut h.ctx false o = o := fun o => by cases o <;> rfl
  rw [exec_launch, execLaunch, hr, Bool.and_false, hwild]
  rfl

theorem launch_starts (hs : launchStatus s h.ctx es false = stOk) (hr : headerRsv s h.ctx es = false)
    (hp : replacePending (ctxOf s h.ctx) = false) : Does (.launch h es false) s h tLaunch (fun u _ => (ctxOf u h.ctx).launched = true ∧
      (ctxOf u h.ctx).launch = es ∧ ((ctxOf u h.ctx).st = .runnable ∨ (ctxOf u h.ctx).st = .running) ∧
      ∀ e i, (e, i) ∈ es.zipIdx → coreOf u h.ctx e.lcore = entryCore s h.ctx e i es.length) := by
  refine does_of (exec_launch_message hr) fun f _ => ?_
  have hs' : launchStatus { s with fw := f } h.ctx es false = stOk := hs
  simp only [launchBody, hs', ctxOf_fw, hp, ne_eq, not_true_eq_false, Bool.false_eq_true, if_false]
  exact ⟨rfl, startLaunch_starts { s with fw := f } h.ctx (launchStatus_distinct hs)⟩

theorem launch_waits (hs : launchStatus s h.ctx es false = stOk) (hr : headerRsv s h.ctx es = false)
    (hp : replacePending (ctxOf s h.ctx) = true) : Does (.launch h es false) s h tLaunch (fun u _ =>
      ctxOf u h.ctx = { ctxOf s h.ctx with launch := es, heldLaunch := true } ∧ u.cores = s.cores ∧ u.mem = s.mem) := by
  refine does_of (exec_launch_message hr) fun f _ => ?_
  have hs' : launchStatus { s with fw := f } h.ctx es false = stOk := hs
  have hann : ∀ t : State, (announce t).ctxs = t.ctxs ∧ (announce t).cores = t.cores ∧ (announce t).mem = t.mem := by
    intro t
    unfold announce
    split <;> exact ⟨rfl, rfl, rfl⟩
  simp only [launchBody, hs', ctxOf_fw, hp, ne_eq, not_true_eq_false, if_false, if_true]
  obtain ⟨hctxs, hcores, hmem⟩ := hann (setCtx { s with fw := f } h.ctx { ctxOf s h.ctx with launch := es, heldLaunch := true })
  refine ⟨rfl, ?_, hcores, hmem⟩
  rw [ctxOf, done, hctxs]
  exact ctxOf_setCtx ..

end Launch

/-- Settles O47: each message is its type's body on the state with the message taken out, which is firmware's own book. -/
theorem contextMessages : Obligations.ContextMessages := by
  unfold Obligations.ContextMessages
  exact fun s h => ⟨fun a n box hn ha hacc => ⟨hello_answers hn ha hacc, hello_rings hn ha hacc⟩, fun n hn => hostAlive_does hn, status_does,
    contextList_does, capacity_does,
    fun p m l ro j g w k s1 hk hp hu hm1 hm2 hl hj1 hj2 hw hr hs => contextCreate_does hk hp hu hm1 hm2 hl hj1 hj2 hw hr
      (created_untake .. ▸ hs),
    contextDestroy_does, fun l ro g hl hr => contextPolicy_does hl hr, contextStop_ends, contextStop_keeps,
    fun hp => ⟨contextResume_does hp, contextResume_denies hp⟩, contextEnergy_does,
    fun es hs hr => ⟨launch_starts hs hr, launch_waits hs hr⟩, fun p hp => numericPolicy_does hp,
    fun sl th a h1 h2 ha => numericWatch_does h1 h2 ha, fun n h1 h2 => watchdogSet_does h1 h2⟩

end Sys2Proof.Machine

/-! ## Memory stays canonical (R68, R69)

Canonical is about the listed bytes alone (`cellsWf`). Every function of the model that returns a state has one lemma
here: it leaves memory (`…_mem`), or at least the listed bytes (`…_cells`), or keeps them canonical where they were
(`cellsWf_…`); every command then ends canonical (`nextWf_exec…`). -/

namespace Sys2Proof.Machine

/-! ### Branches, folds and results with a trap -/

@[simp] theorem mem_ite {c : Prop} [Decidable c] (a b : State) :
    (if c then a else b).mem = if c then a.mem else b.mem := apply_ite ..

@[simp] theorem cells_ite {c : Prop} [Decidable c] (a b : Mem) :
    (if c then a else b).cells = if c then a.cells else b.cells := apply_ite ..

@[simp] theorem cellsWf_ite {c : Prop} [Decidable c] (a b : List Host.Cell) :
    cellsWf (if c then a else b) = if c then cellsWf a else cellsWf b := apply_ite ..

theorem foldl_cells {α : Type} {f : State → α → State} (hf : ∀ s a, (f s a).mem.cells = s.mem.cells) (l : List α) (s : State) :
    (l.foldl f s).mem.cells = s.mem.cells :=
  List.foldlRecOn (motive := fun u : State => u.mem.cells = s.mem.cells) _ _ rfl fun u hu a _ => (hf u a).trans hu

theorem cellsWf_foldl {α : Type} {f : State → α → State}
    (hf : ∀ s a, cellsWf s.mem.cells = true → cellsWf (f s a).mem.cells = true) (l : List α) (s : State)
    (h : cellsWf s.mem.cells = true) :
    cellsWf (l.foldl f s).mem.cells = true :=
  List.foldlRecOn (motive := fun u : State => cellsWf u.mem.cells = true) _ _ h fun u hu a _ => hf u a hu

/-- What may fail with a trap ends in `P` where it does not. -/
def Yields {α : Type} (r : Except Trap α) (P : α → Prop) : Prop := ∀ a, r = .ok a → P a

@[simp] theorem yields_ok {α : Type} {P : α → Prop} {a : α} : Yields (.ok a) P ↔ P a :=
  ⟨fun h => h a rfl, fun h _ e => Except.ok.inj e ▸ h⟩

@[simp] theorem yields_error {α : Type} {P : α → Prop} {t : Trap} : Yields (.error t) P ↔ True :=
  ⟨fun _ => trivial, fun _ _ e => nomatch e⟩

theorem yields_any {α : Type} (r : Except Trap α) : Yields r (fun _ => True) := fun _ _ => trivial

theorem yields_bind {α β : Type} {Q : α → Prop} {P : β → Prop} {r : Except Trap α} {f : α → Except Trap β}
    (hr : Yields r Q) (hf : ∀ a, Q a → Yields (f a) P) : Yields (r >>= f) P := by
  cases r with
  | error t => exact yields_error.2 trivial
  | ok a => exact hf a (hr a rfl)

theorem yields_then {α β : Type} {P : β → Prop} {r : Except Trap α} {f : α → Except Trap β}
    (hf : ∀ a, Yields (f a) P) : Yields (r >>= f) P := yields_bind (yields_any r) fun a _ => hf a

theorem yields_foldlM {α β : Type} {P : α → Prop} {f : α → β → Except Trap α}
    (hf : ∀ a b, P a → Yields (f a b) P) (l : List β) {a : α} (h : P a) :
    Yields (l.foldlM f a) P := by
  induction l generalizing a with
  | nil => exact yields_ok.2 h
  | cons b r ih => exact yields_bind (hf a b h) fun _ => ih

theorem foldlM_some {α β : Type} {P : α → Prop} {f : α → β → Option α}
    (hf : ∀ a b c, P a → f a b = some c → P c) (l : List β) {a c : α} (h : P a) (hc : l.foldlM f a = some c) : P c := by
  induction l generalizing a with
  | nil => cases hc; exact h
  | cons b r ih =>
    obtain ⟨d, hd, hc⟩ := Option.bind_eq_some_iff.1 hc
    exact ih (hf _ _ _ h hd) hc

/-- A command leaves the bytes of memory in canonical form. -/
def NextWf (o : Out) : Prop := ∀ t, o = .next t → cellsWf t.mem.cells = true

@[simp] theorem nextWf_next {t : State} : NextWf (.next t) ↔ cellsWf t.mem.cells = true :=
  ⟨fun h => h t rfl, fun h _ e => Host.Outcome.next.inj e ▸ h⟩

/-- What has landed leaves the bytes of memory in canonical form. -/
def LandedWf (l : Landed) : Prop := ∀ t n, l = .done t n → cellsWf t.mem.cells = true

@[simp] theorem landedWf_done {t : State} {n : Nat} : LandedWf (.done t n) ↔ cellsWf t.mem.cells = true :=
  ⟨fun h => h t n rfl, fun h _ _ e => by cases e; exact h⟩

theorem landedWf_of_not_done {l : Landed} (h : ∀ t n, l ≠ .done t n) : LandedWf l := fun t n e => absurd e (h t n)

@[simp] theorem landedWf_stale : LandedWf .stale := landedWf_of_not_done (fun _ _ => nofun)
@[simp] theorem landedWf_crossing : LandedWf .crossing := landedWf_of_not_done (fun _ _ => nofun)
@[simp] theorem landedWf_later : LandedWf .later := landedWf_of_not_done (fun _ _ => nofun)

theorem Yields.mono {α : Type} {P Q : α → Prop} {r : Except Trap α} (h : Yields r P) (hpq : ∀ a, P a → Q a) :
    Yields r Q := fun a ha => hpq a (h a ha)

theorem yields_ite {α : Type} {P : α → Prop} {c : Prop} [Decidable c] {a b : Except Trap α} (ha : Yields a P)
    (hb : Yields b P) : Yields (if c then a else b) P := by
  split
  · exact ha
  · exact hb

theorem yields_map {α β : Type} {P : α → Prop} {Q : β → Prop} {r : Except Trap α} {f : α → β} (hr : Yields r P)
    (hf : ∀ a, P a → Q (f a)) : Yields (r.map f) Q := by
  cases r with
  | error t => exact yields_error.2 trivial
  | ok a => exact yields_ok.2 (hf a (hr a rfl))

/-! ### The state's shared operations -/

@[simp] theorem raiseOn_mem (s : State) (code cls k unit lc : Nat) (pay : List Byte) :
    (raiseOn s code cls k unit lc pay).mem = s.mem := rfl

@[simp] theorem keepHandling_mem (s : State) : (keepHandling s).mem = s.mem := by
  fun_cases keepHandling <;> rfl

/-! ### Pages, stores and events of memory -/

@[simp] theorem notePoison_mem (s : State) (d : Nat) : (notePoison s d).mem = s.mem := rfl

@[simp] theorem cellsWf_writeDpa (s : State) (a : Nat) (bs : List Byte) (p : Bool) (h : cellsWf s.mem.cells = true) :
    cellsWf (writeDpa s a bs p).mem.cells = true := by
  rw [writeDpa_mem]
  exact cellsWf_writeMem _ _ _ _ h

@[simp] theorem poisonGrain_cells (s : State) (a : Nat) : (poisonGrain s a).mem.cells = s.mem.cells := rfl

@[simp] theorem cellsWf_storeAt (k n : Nat) (s : State) (p : Loc × List Byte × Bool) (h : cellsWf s.mem.cells = true) :
    cellsWf (storeAt k n s p).mem.cells = true := by
  fun_cases storeAt <;> simp [h]

theorem cellsWf_writeVas (s : State) (k n : Nat) (ws : List Wr) (h : cellsWf s.mem.cells = true) :
    Yields (writeVas s k n ws) (fun t => cellsWf t.mem.cells = true) :=
  yields_then fun _ => yields_ok.2 (cellsWf_foldl (cellsWf_storeAt k n) _ _ h)

theorem cellsWf_writeVa (s : State) (k n va : Nat) (bs : List Byte) (p : Bool) (h : cellsWf s.mem.cells = true) :
    Yields (writeVa s k n va bs p) (fun t => cellsWf t.mem.cells = true) := cellsWf_writeVas s k n _ h

@[simp] theorem wildCore_mem (s : State) (k n : Nat) (f : Core → Core) : (wildCore s k n f).mem = s.mem := by
  fun_cases wildCore <;> rfl

@[simp] theorem cellsWf_wildAct (k : Nat) (s : State) (w : Config.WildAct) (h : cellsWf s.mem.cells = true) :
    cellsWf (wildAct k s w).mem.cells = true := by
  fun_cases wildAct
  case case1 ht => exact cellsWf_writeVa _ _ _ _ _ _ h _ ht
  all_goals simp [h]

@[simp] theorem cellsWf_wild (s : State) (k : Nat)
    (h : cellsWf s.mem.cells = true) : cellsWf (wild s k).mem.cells = true := by
  simp +contextual [wild, cellsWf_foldl, h]

theorem nextWf_trapOut (s : State) (k n opc : Nat) (t : Trap)
    (h : cellsWf s.mem.cells = true) : NextWf (trapOut s k n opc t) := by
  fun_cases trapOut <;> simp [raiseTrap_mem, h]

/-! ### Tables of flags -/

@[simp] theorem numEvent_mem (s : State) (k n code : Nat) (pay : List Byte) : (numEvent s k n code pay).mem = s.mem := by
  fun_cases numEvent <;> rfl

@[simp] theorem observe_mem (s : State) (k slot tensor : Nat) (nonzero : Bool) : (observe s k slot tensor nonzero).mem = s.mem := by
  fun_cases observe <;> rfl

@[simp] theorem applyObs_mem (k n : Nat) (s : State) (o : HeldObs) : (applyObs k n s o).mem = s.mem := by
  fun_cases applyObs <;> simp

theorem cellsWf_applyEff (s : State) (k n opc : Nat) (e : Eff) (h : cellsWf s.mem.cells = true) :
    Yields (applyEff s k n opc e) (fun t => cellsWf t.mem.cells = true) :=
  yields_bind (cellsWf_writeVas s k n _ h) fun t ht => yields_ok.2 (by
    simp [foldl_mem (fun s t => raiseTrap_mem s k n opc t), emit_mem, setLatch_mem, countNumeric_mem, ht])

/-! ### Ecc -/

@[simp] theorem noteRow_cells (m : Mem) (a now w : Nat) : (noteRow m a now w).cells = m.cells := rfl

@[simp] theorem noteSlice_cells (m : Mem) (a now : Nat) (unc : Bool) : (noteSlice m a now unc).cells = m.cells := by
  fun_cases noteSlice <;> rfl

@[simp] theorem noteErr_cells (m : Mem) (a now : Nat) (unc : Bool) : (noteErr m a now unc).cells = m.cells := by
  fun_cases noteErr <;> simp

@[simp] theorem uncorrected_cells (s : State) (k a src : Nat) : (uncorrected s k a src).mem.cells = s.mem.cells := by
  unfold uncorrected
  split
  · rfl
  · dsimp only
    split <;> simp

@[simp] theorem correctedErr_cells (s : State) (k a : Nat) : (correctedErr s k a).mem.cells = s.mem.cells := by
  unfold correctedErr
  dsimp only
  split <;> simp

@[simp] theorem develop_cells (s : State) (rd : ReadErr) : (develop s rd).mem.cells = s.mem.cells := by
  fun_cases develop <;> rfl

@[simp] theorem meetOne_cells (k src : Nat) (s : State) (u : Nat × Bool) : (meetOne k src s u).mem.cells = s.mem.cells := by
  simp [meetOne]

@[simp] theorem meet_cells (s : State) (k src a n : Nat) : (meet s k src a n).mem.cells = s.mem.cells := by
  simp [meet, foldl_cells]

@[simp] theorem cellsWf_copyDpa (s : State) (k src dst n : Nat) (h : cellsWf s.mem.cells = true) :
    cellsWf (copyDpa s k src dst n).mem.cells = true := cellsWf_copyMem _ _ _ _ (by rwa [meet_cells])

theorem OnlyLines.cells {s t : State} (h : OnlyLines s t) : t.mem.cells = s.mem.cells := by
  obtain ⟨_, _, rfl⟩ := h
  rfl

@[simp] theorem hbmTraffic_cells (s : State) (k : Nat) (ts : List Touch) : (hbmTraffic s k ts).1.mem.cells = s.mem.cells :=
  (onlyLines_hbmTraffic s k ts).cells

@[simp] theorem chargeHbm_mem (s : State) (k g : Nat) : (chargeHbm s k g).mem = s.mem := by
  fun_cases chargeHbm <;> rfl

@[simp] theorem cellsWf_spanInputs (s : State) (k n : Nat) (ts : List Touch) (h : cellsWf s.mem.cells = true) :
    cellsWf (spanInputs s k n ts).mem.cells = true := by
  simp [spanInputs, h]

@[simp] theorem reach_cells (s : State) (k : Nat) (ts : List Touch) : (reach s k ts).1.mem.cells = s.mem.cells := by
  simp [reach, foldl_cells]

@[simp] theorem payFor_cells (s : State) (k : Nat) (ts : List Touch) : (payFor s k ts).mem.cells = s.mem.cells := by
  simp [payFor]

@[simp] theorem cellsWf_account (s : State) (k n : Nat) (as : List (Nat × Nat × Bool)) (h : cellsWf s.mem.cells = true) :
    cellsWf (account s k n as).mem.cells = true := by
  simp [account, h]

theorem nextWf_trapNow (s : State) (k n opc : Nat) (t : Trap)
    (h : cellsWf s.mem.cells = true) : NextWf (trapNow s k n opc t) := by
  fun_cases trapNow
  · exact nextWf_trapOut _ _ _ _ _ (by simp [foldl_cells, h])
  · exact nextWf_trapOut _ _ _ _ _ h

/-! ### Schedules -/

@[simp] theorem cellsWf_saveScratch (s : State) (k n p : Nat) (h : cellsWf s.mem.cells = true) :
    cellsWf (saveScratch s k n p).mem.cells = true := by
  simp [saveScratch, h]

@[simp] theorem cellsWf_loadScratch (s : State) (k n p : Nat) (h : cellsWf s.mem.cells = true) :
    cellsWf (loadScratch s k n p).mem.cells = true := by
  simp [loadScratch, h]

@[simp] theorem watchTick_mem (s : State) (k : Nat) : (watchTick s k).mem = s.mem := by
  fun_cases watchTick <;> rfl

@[simp] theorem countAway_mem (s : State) (ns : List Nat) : (countAway s ns).mem = s.mem := by
  simp [countAway, foldl_mem]

@[simp] theorem cellsWf_deschedule (s : State) (part : Nat) (h : cellsWf s.mem.cells = true) :
    cellsWf (deschedule s part).mem.cells = true := by
  unfold deschedule
  dsimp only
  repeat' split
  all_goals simp +contextual [cellsWf_foldl, h]

@[simp] theorem cellsWf_makeResident (s : State) (part k : Nat) (h : cellsWf s.mem.cells = true) :
    cellsWf (makeResident s part k).mem.cells = true := by
  simp +contextual [makeResident, cellsWf_foldl, h]

@[simp] theorem cellsWf_schedule (s : State) (part : Nat) (h : cellsWf s.mem.cells = true) :
    cellsWf (schedule s part).mem.cells = true := by
  fun_cases schedule <;> simp [h]

@[simp] theorem mapCores_mem (s : State) (k : Nat) (f : Nat → Core → Core) : (mapCores s k f).mem = s.mem := by
  simp [mapCores, foldl_mem]

@[simp] theorem releaseSpill_cells (s : State) (k : Nat) : (releaseSpill s k).mem.cells = s.mem.cells := rfl

@[simp] theorem cellsWf_endLaunch (s : State) (k status : Nat) (h : cellsWf s.mem.cells = true) :
    cellsWf (endLaunch s k status).mem.cells = true := by
  simp [endLaunch, h]

/-! ### Frames -/

@[simp] theorem askMac_mem (s : State) (i : NetIdentity) (port a : Nat) : (askMac s i port a).mem = s.mem := rfl
@[simp] theorem emitFrame_mem (s : State) (f : Frame) : (emitFrame s f).mem = s.mem := rfl

/-! ### The wire -/

theorem sendCtl_mem {s t : State} {p : Packet} (ht : sendCtl s p = some t) : t.mem = s.mem := by
  unfold sendCtl at ht
  split at ht <;> cases ht
  exact emitFrame_mem ..

@[simp] theorem askFor_mem (s : State) (peer path : Nat) : (askFor s peer path).mem = s.mem := by
  fun_cases askFor <;> rfl

@[simp] theorem sendHello_mem (s : State) (peer : Nat) (reply : Bool) : (sendHello s peer reply).mem = s.mem := by
  unfold sendHello
  cases hc : sendCtl s (ctlPacket s opHello peer 0 0 (helloBytes (ownHello s reply))) with
  | none => simp
  | some t => exact sendCtl_mem hc

@[simp] theorem openSess_mem (s : State) (peer : Nat) : (openSess s peer).mem = s.mem := by
  simp [openSess]

@[simp] theorem enqueue_mem (s : State) (o : Sender) (bs : List Block) : (enqueue s o bs).mem = s.mem := by
  simp [enqueue]

@[simp] theorem flightDone_mem (s : State) (k n id status : Nat) : (flightDone s k n id status).mem = s.mem := rfl
@[simp] theorem mirrorLost_mem (s : State) (k : Nat) : (mirrorLost s k).mem = s.mem := rfl

@[simp] theorem opDone_mem (s : State) (o : NetOp) (faulted : Bool) : (opDone s o faulted).mem = s.mem := by
  fun_cases opDone <;> rfl

@[simp] theorem countPkt_mem (s : State) (h : FHdr) (number n : Nat) : (countPkt s h number n).mem = s.mem := by
  fun_cases countPkt <;> rfl

@[simp] theorem sendSack_mem (s : State) (peer : Nat) : (sendSack s peer).mem = s.mem := by
  fun_cases sendSack
  · next e => exact (setSess_mem ..).trans (sendCtl_mem e)
  · exact askFor_mem ..

@[simp] theorem ackPkt_mem (s : State) (k : Packet) (ok : Bool) (status : Nat) : (ackPkt s k ok status).mem = s.mem := by
  simp [ackPkt]

@[simp] theorem countPort_mem (s : State) (n : Nat) : (countPort s n).mem = s.mem := by
  fun_cases countPort <;> rfl

theorem cellsWf_afterLand {s : State} {l : Landed} (p : Packet) (h : cellsWf s.mem.cells = true) (hl : LandedWf l) :
    cellsWf (afterLand s p l).mem.cells = true := by
  fun_cases afterLand
  · simpa using hl
  all_goals simpa using h

theorem cellsWf_receive {s : State} {land : Option Nat → Landed} (p : Packet) (opc : Nat) 
    (h : cellsWf s.mem.cells = true) (hl : ∀ c, LandedWf (land c)) :
    cellsWf (receive s p opc land).mem.cells = true := by
  fun_cases receive <;> simp [h, hl, cellsWf_afterLand]

theorem landedWf_ofCtx {s : State} {land : Nat → Landed} (h : cellsWf s.mem.cells = true)
    (hl : ∀ k, LandedWf (land k)) (c : Option Nat) :
    LandedWf (ofCtx s land c) := by
  cases c
  · exact landedWf_done.2 h
  · exact hl _

theorem landedWf_accessFault (s : State) (k : Nat) (hd : FHdr) (h : cellsWf s.mem.cells = true) :
    LandedWf (accessFault s k hd) := landedWf_done.2 h

theorem landedWf_regionLand {s : State} {act : Region → Except Trap State} (k : Nat) (hd : FHdr) (len : Nat) (perm : Region → Bool)
    (h : cellsWf s.mem.cells = true) (ha : ∀ r, Yields (act r) (fun t => cellsWf t.mem.cells = true)) :
    LandedWf (regionLand s k hd len perm act) := by
  fun_cases regionLand
  case case3 e => exact landedWf_done.2 (ha _ _ e)
  all_goals simp [landedWf_accessFault, h]

/-! ### Trusses -/

@[simp] theorem setTruss_mem (s : State) (k v : Nat) (t : Truss) : (setTruss s k v t).mem = s.mem := rfl

@[simp] theorem trussEvent_mem (s : State) (k v : Nat) (t : Truss) (who : Member) (phase : Nat) (e : TrErr) :
    (trussEvent s k v t who phase e).mem = s.mem := rfl

@[simp] theorem trussInvalid_mem (s : State) (k unit sender v bgen opc : Nat) :
    (trussInvalid s k unit sender v bgen opc).mem = s.mem := rfl

@[simp] theorem freeWaiter_mem (k : Nat) (s : State) (w : Waiter) : (freeWaiter k s w).mem = s.mem := rfl

@[simp] theorem settle_mem (s : State) (k v : Nat) (o : TrOut) : (settle s k v o).1.mem = s.mem := by
  simp [settle, foldl_mem (freeWaiter_mem k)]

@[simp] theorem nodeInvalid_mem (s : State) (k n node : Nat) : (nodeInvalid s k n node).mem = s.mem := rfl
@[simp] theorem forwardInvalid_mem (s : State) (k v node : Nat) : (forwardInvalid s k v node).mem = s.mem := rfl

@[simp] theorem sendArrival_mem (s : State) (k core flight node : Nat) (name phase : Word) (src : Option Nat) :
    (sendArrival s k core flight node name phase src).mem = s.mem := by
  simp [sendArrival]

@[simp] theorem forward_mem (s : State) (k : Nat) (f : Fwd) : (forward s k f).1.mem = s.mem := by
  fun_cases forward <;> simp

@[simp] theorem forwards_mem (fuel : Nat) (s : State) (k : Nat) (fs : List Fwd) : (forwards fuel s k fs).1.mem = s.mem := by
  fun_induction forwards with
  | case3 s n f r p ih => exact ih.trans (forward_mem s k f)
  | _ => rfl

@[simp] theorem forwardOn_mem (s : State) (k : Nat) (fs : List Fwd) : (forwardOn s k fs).mem = s.mem := by
  simp [forwardOn]

@[simp] theorem trussDo_mem (s : State) (k v : Nat) (who : Member) (phase : Nat) (r : Except TrErr TrOut) :
    (trussDo s k v who phase r).1.mem = s.mem := by
  unfold trussDo
  split <;> simp

@[simp] theorem arriveAt_mem (s : State) (k v : Nat) (who : Member) (nophase : Bool) (phase : Nat) :
    (arriveAt s k v who nophase phase).1.mem = s.mem := trussDo_mem ..

/-! ### The sequencer -/

@[simp] theorem haltCores_mem (s : State) (k n cause : Nat) : (haltCores s k n cause).mem = s.mem := by
  simp [haltCores]

@[simp] theorem cellsWf_touchData (s : State) (k n : Nat) (as : List (Nat × Nat × Bool)) (h : cellsWf s.mem.cells = true) :
    cellsWf (touchData s k n as).mem.cells = true := by
  simp [touchData, h]

@[simp] theorem hold_mem (s : State) (k n : Nat) (h : Held) : (hold s k n h).mem = s.mem := by
  fun_cases hold <;> rfl

@[simp] theorem stepped_mem (s : State) (k n : Nat) : (stepped s k n).mem = s.mem := by
  simp [stepped]

theorem nextWf_seqTrap (s : State) (k n opc : Nat) (t : Trap)
    (h : cellsWf s.mem.cells = true) : NextWf (seqTrap s k n opc t) := by
  have ht := nextWf_trapNow s k n opc t h
  unfold seqTrap
  split
  · exact ht
  · next e => simp [ht _ e]
  · exact ht

theorem nextWf_issue {s : State} {body : Nat → Core → Except Trap State} (n len opc : Nat) (p : BitVec 4) (neg : Bool)
    (h : cellsWf s.mem.cells = true)
    (hb : ∀ k c, Yields (body k c) (fun t => cellsWf t.mem.cells = true)) : NextWf (issue s n len opc p neg body) := by
  fun_cases issue
  case case5 e => simpa using hb _ _ _ e
  all_goals simp [h, nextWf_seqTrap]

theorem nextWf_issueC {s : State} {body : Nat → Core → Except Trap State} (n opc : Nat) (w : CWord)
    (h : cellsWf s.mem.cells = true)
    (hb : ∀ k c, Yields (body k c) (fun t => cellsWf t.mem.cells = true)) : NextWf (issueC s n opc w body) :=
  nextWf_issue _ _ _ _ _ h hb

theorem nextWf_issueCore {s : State} (n opc : Nat) (w : CWord) (f : Nat → Core → Option Core)
    (h : cellsWf s.mem.cells = true) :
    NextWf (issueCore s n opc w f) := by
  refine nextWf_issueC _ _ _ h fun k c => ?_
  split <;> simp [h]

@[simp] theorem decodeFault_mem (s : State) (k n code : Nat) (opc : BitVec 8) : (decodeFault s k n code opc).mem = s.mem := rfl

theorem nextWf_issueFault (s : State) (n code : Nat) (opc : BitVec 8) (h : cellsWf s.mem.cells = true) :
    NextWf (issueFault s n code opc) := by
  fun_cases issueFault <;> simp [h, nextWf_seqTrap]

theorem nextWf_level3 {s : State} {o : Out} (n opc : Nat) (h : cellsWf s.mem.cells = true) (ho : NextWf o) :
    NextWf (level3 s n opc o) := by
  fun_cases level3
  · exact nextWf_issueFault _ _ _ _ h
  · exact ho
  · exact ho

/-! ### Engines -/

@[simp] theorem setFlightS_mem (s : State) (k n : Nat) (e : Engine) (f : Flight) : (setFlightS s k n e f).mem = s.mem := rfl
@[simp] theorem groupInvalid_mem (s : State) (k n g : Nat) : (groupInvalid s k n g).mem = s.mem := rfl

theorem nextWf_issueT (op : TOp) (n : Nat) (w : TWord) (s : State)
    (h : cellsWf s.mem.cells = true) : NextWf (issueT op n w s) := by
  refine nextWf_issue _ _ _ _ _ h fun k c => ?_
  dsimp only
  repeat' split
  all_goals simp [h]

theorem nextWf_issueTL (op : TOp) (n : Nat) (w : TWord) (s : State) (h : cellsWf s.mem.cells = true) :
    NextWf (issueTL op n w s) := by
  fun_cases issueTL
  · exact nextWf_issueT op n w s h
  · exact nextWf_level3 _ _ h (nextWf_issueT op n w s h)

theorem nextWf_runWork (op : TOp) (n id : Nat) (s : State) (go : Core → Flight → Bool) (eff : Nat → Core → Flight → Except Trap Eff)
    (h : cellsWf s.mem.cells = true) : NextWf (runWork op n id s go eff) := by
  unfold runWork
  split
  · exact nextWf_next.2 h
  · split
    · exact nextWf_next.2 h
    · dsimp only
      split
      · exact nextWf_next.2 h
      · split
        · exact nextWf_trapNow _ _ _ _ _ h
        · split
          · exact nextWf_trapNow _ _ _ _ _ h
          · split
            · exact nextWf_next.2 h
            · split
              · exact nextWf_trapNow _ _ _ _ _ h
              · next e =>
                have h1 := cellsWf_applyEff _ _ _ _ _ h _ e
                simp [h1]

theorem growSpill_cells {s t : State} {k n : Nat} (ht : growSpill s k n = some t) : t.mem.cells = s.mem.cells :=
  (growSpill_keeps ht).1.1

/-! ### Streams -/

theorem nextWf_runStream {s : State} {eff : Nat → Core → Flight → Except Trap State} (op : TOp) (n id : Nat)
    (h : cellsWf s.mem.cells = true) (he : ∀ k x f, Yields (eff k x f) (fun t => cellsWf t.mem.cells = true)) :
    NextWf (runStream op n id s eff) := by
  fun_cases runStream
  case case4 e => exact nextWf_next.2 (he _ _ _ _ e)
  all_goals simp [h, nextWf_trapNow]

@[simp] theorem spillExhausted_mem (s : State) (k n cnt : Nat) : (spillExhausted s k n cnt).mem = s.mem := rfl

theorem appendFetch_cells (s : State) (k c : Nat) (f : Flight) :
    Yields (appendFetch s k c f) (fun t => t.mem.cells = s.mem.cells) := by
  refine yields_then fun a => yields_then fun d => yields_then fun _ => yields_then fun p => ?_
  split
  · simp
  · next e => simpa using growSpill_cells e

@[simp] theorem ridgeArrive_mem (s : State) (k n : Nat) (f : Flight) : (ridgeArrive s k n f).mem = s.mem := by
  unfold ridgeArrive
  dsimp only
  repeat' split
  all_goals simp

theorem cellsWf_yealmRun (s : State) (k n : Nat) (f : Flight) (h : cellsWf s.mem.cells = true) :
    Yields (yealmRun s k n f) (fun t => cellsWf t.mem.cells = true) := by
  refine yields_then fun y => ?_
  dsimp only
  split_ifs
  · simp
  · exact yields_ok.2 h
  · refine yields_bind (cellsWf_writeVas s k n _ h) fun t ht => yields_ok.2 ?_
    simp [emit_mem, foldl_mem, raiseTrap_mem, ht]

@[simp] theorem landed_mem (s : State) (k n : Nat) (f : Flight) : (landed s k n f).mem = s.mem := by
  simp [landed]

@[simp] theorem launchBurst_mem (s : State) (k n : Nat) (f : Flight) (u : Nat × Nat) (lo hi : Nat) (ws : List Wr) :
    (launchBurst s k n f u lo hi ws).mem = s.mem := by
  fun_cases launchBurst <;> rfl

theorem cellsWf_burstPiece (k n opc : Nat) (f : Flight) (a d : Desc) (u : Burst) (p : Nat × Nat)
    (h : cellsWf u.s.mem.cells = true) :
    cellsWf (burstPiece k n opc f a d u p).s.mem.cells = true := by
  unfold burstPiece
  split
  · next e =>
    have hw : Yields (do
        let x ← readPiece u.s k n f a d p
        let s1 ← writeVas u.s k n x.ws
        .ok (x, s1) : Except Trap (Piece × State)) (fun r => cellsWf r.2.mem.cells = true) :=
      yields_then fun x => yields_bind (cellsWf_writeVas _ _ _ _ h) fun s1 h1 => yields_ok.2 h1
    exact hw _ e
  · simp [raiseTrap_mem, h]

theorem cellsWf_burstPieces (k n opc : Nat) (f : Flight) (a d : Desc) (l : List (Nat × Nat)) (u : Burst)
    (h : cellsWf u.s.mem.cells = true) :
    cellsWf (l.foldl (burstPiece k n opc f a d) u).s.mem.cells = true :=
  List.foldlRecOn (motive := fun u : Burst => cellsWf u.s.mem.cells = true) _ _ h fun u hu p _ =>
    cellsWf_burstPiece k n opc f a d u p hu

@[simp] theorem cellsWf_burstMove (s : State) (k c : Nat) (f : Flight) (a d : Desc) (h : cellsWf s.mem.cells = true) :
    cellsWf (burstMove s k c f a d).mem.cells = true := by
  unfold burstMove
  simp [emit_mem, cellsWf_burstPieces, h]

@[simp] theorem servedTurn_mem (s : State) (k cls : Nat) : (servedTurn s k cls).mem = s.mem := rfl

@[simp] theorem cellsWf_landFlight (fuel : Nat) (s : State) (k c id : Nat) (h : cellsWf s.mem.cells = true) :
    cellsWf (landFlight fuel s k c id).mem.cells = true := by
  fun_induction landFlight <;> simp_all

@[simp] theorem cellsWf_landCore (s : State) (k c : Nat) (p : Flight → Bool) (h : cellsWf s.mem.cells = true) :
    cellsWf (landCore s k c p).mem.cells = true := by
  simp +contextual [landCore, cellsWf_foldl, h]

theorem cellsWf_begun (s : State) (k c : Nat) (e : Engine) (f : Flight) (h : cellsWf s.mem.cells = true) :
    Yields (begun s k c e f) (fun t => cellsWf t.mem.cells = true) := by
  unfold begun
  have h1 : cellsWf (touchData (setFlightS s k c e f) k c (captureReads f)).mem.cells = true := by simp [h]
  split
  · exact (appendFetch_cells _ _ _ _).mono fun t ht => by rwa [ht]
  · exact yields_ok.2 h1

/-! ### Collectives -/

@[simp] theorem setColl_mem (s : State) (k : Nat) (x : Coll) : (setColl s k x).mem = s.mem := rfl

@[simp] theorem collSend_mem (s : State) (k : Nat) (x : Coll) (r : Nat) (bs : List Block) : (collSend s k x r bs).mem = s.mem := by
  simp [collSend]

@[simp] theorem collTell_mem (s : State) (k : Nat) (x : Coll) (rs : List Nat) (kind first : Nat) (pay : List Byte) :
    (collTell s k x rs kind first pay).mem = s.mem := by
  simp [collTell, foldl_mem]

@[simp] theorem readyUp_mem (s : State) (k : Nat) (x : Coll) : (readyUp s k x).mem = s.mem := by
  fun_cases readyUp <;> rfl

@[simp] theorem readyDown_mem (s : State) (k : Nat) (x : Coll) (i : Nat) : (readyDown s k x i).mem = s.mem := by
  fun_cases readyDown <;> rfl

@[simp] theorem elPay_cells (s : State) (k n : Nat) (d : Desc) (first m : Nat) (wr : Bool) :
    (elPay s k n d first m wr).mem.cells = s.mem.cells := by
  simp [elPay]

theorem cellsWf_putEls (s : State) (k n : Nat) (d : Desc) (first : Nat) (es : List OutEl) (h : cellsWf s.mem.cells = true) :
    Yields (putEls s k n d first es) (fun t => cellsWf t.mem.cells = true) :=
  yields_bind (cellsWf_writeVas s k n _ h) fun t ht => yields_then fun obs => yields_ok.2 (by
    simpa [foldl_mem (applyObs_mem k n)] using ht)

theorem cellsWf_landEls (s : State) (k : Nat) (x : Coll) (i : Nat) (ch : Chunk) (at' : Nat) (es : List OutEl)
    (h : cellsWf s.mem.cells = true) :
    Yields (landEls s k x i ch at' es) (fun r => cellsWf r.1.mem.cells = true) := by
  refine yields_bind (Q := fun t => cellsWf t.mem.cells = true) ?_ fun t ht => by simpa using ht
  split
  · split
    · exact cellsWf_putEls _ _ _ _ _ _ h
    · exact yields_ok.2 h
  · exact yields_ok.2 h

theorem aCodes_cells (s : State) (k : Nat) (x : Coll) (ch : Chunk) :
    Yields (aCodes s k x ch) (fun r => r.1.mem.cells = s.mem.cells) := by
  fun_cases aCodes
  · exact yields_then fun cs => by simp
  · simp

theorem cellsWf_foldChunk (s : State) (k : Nat) (x : Coll) (i : Nat) (ch : Chunk) (h : cellsWf s.mem.cells = true) :
    Yields (foldChunk s k x i ch) (fun r => cellsWf r.1.mem.cells = true) := by
  unfold foldChunk
  split
  · exact yields_ok.2 h
  · refine yields_bind (aCodes_cells s k x ch) fun r hr => ?_
    have h1 : cellsWf r.1.mem.cells = true := by rwa [hr]
    dsimp only
    split
    · split
      · exact cellsWf_landEls _ _ _ _ _ _ _ (by simpa [countNumeric_mem] using h1)
      · simpa using h1
    · simpa using h1

@[simp] theorem sendResult_mem (s : State) (k : Nat) (x : Coll) (ch : Chunk) (r : Nat) : (sendResult s k x ch r).mem = s.mem := by
  fun_cases sendResult <;> simp

theorem sendPartial_mem (s : State) (k : Nat) (x : Coll) (ch : Chunk) (r : Nat) :
    Yields (sendPartial s k x ch r) (fun t => t.mem = s.mem) := by
  fun_cases sendPartial
  · exact yields_then fun cs => by simp
  · simp
  · simp

theorem sendChunk_mem (s : State) (k : Nat) (x : Coll) (i : Nat) (ch : Chunk) :
    Yields (sendChunk s k x i ch) (fun r => r.1.mem = s.mem) := by
  refine yields_bind (yields_foldlM (P := fun t => t.mem = s.mem) (fun t r ht u hu =>
    (sendPartial_mem t k x ch r u hu).trans ht) _ rfl) fun t ht => ?_
  exact yields_ok.2 ((foldl_mem (fun s r => sendResult_mem s k x ch r) _ _).trans ht)

theorem cellsWf_pumpFrom (fuel : Nat) (s : State) (k : Nat) (x : Coll) (i : Nat) (h : cellsWf s.mem.cells = true) :
    Yields (pumpFrom fuel s k x i) (fun r => cellsWf r.1.mem.cells = true) := by
  induction fuel generalizing s x i with
  | zero => exact yields_ok.2 h
  | succ n ih =>
    unfold pumpFrom
    split
    · exact yields_ok.2 h
    · refine yields_bind (cellsWf_foldChunk s k x i _ h) fun r hr =>
        yields_bind (Q := fun r => cellsWf r.1.mem.cells = true) ?_ fun r hr => ih _ _ _ hr
      split
      · exact (sendChunk_mem _ _ _ _ _).mono fun u hu => by rwa [hu]
      · exact yields_ok.2 hr

@[simp] theorem cellsWf_endColl (s : State) (k : Nat) (x : Coll) (status : Nat) (byteOf : Nat → Nat)
    (h : cellsWf s.mem.cells = true) :
    cellsWf (endColl s k x status byteOf).mem.cells = true := by
  unfold endColl
  dsimp only
  split
  · next e => simpa using cellsWf_writeVa _ _ _ _ _ _ h _ e
  · simpa using h

@[simp] theorem poisonChunk_cells (s : State) (k : Nat) (x : Coll) (ch : Chunk) :
    (poisonChunk s k x ch).mem.cells = s.mem.cells := by
  fun_cases poisonChunk
  · rfl
  · refine foldl_cells (fun s g => ?_) _ _
    split <;> simp

@[simp] theorem cellsWf_abortColl (s : State) (k : Nat) (x : Coll) (h : cellsWf s.mem.cells = true) :
    cellsWf (abortColl s k x).mem.cells = true := by
  simp +contextual [abortColl, cellsWf_foldl, h]

@[simp] theorem cellsWf_mismatch (s : State) (k : Nat) (x : Coll) (fp node : Nat) (tell : Bool)
    (h : cellsWf s.mem.cells = true) :
    cellsWf (mismatch s k x fp node tell).mem.cells = true := by
  simp [mismatch, h]

@[simp] theorem cellsWf_revoked (s : State) (k : Nat) (x : Coll) (first node : Nat) (tell : Bool)
    (h : cellsWf s.mem.cells = true) :
    cellsWf (revoked s k x first node tell).mem.cells = true := by
  simp [revoked, h]

@[simp] theorem cellsWf_finishColl (s : State) (k : Nat) (x : Coll) (h : cellsWf s.mem.cells = true) :
    cellsWf (finishColl s k x).mem.cells = true := by
  simp [finishColl, h]

@[simp] theorem cellsWf_pump (s : State) (k : Nat) (x : Coll) (h : cellsWf s.mem.cells = true) :
    cellsWf (pump s k x).mem.cells = true := by
  fun_cases pump
  · next e =>
    have h1 := cellsWf_pumpFrom _ _ _ _ _ h _ e
    simp [h1]
  · simp [raiseTrap_mem, h]

theorem cellsWf_pumpE {s : State} {r : Except Trap (State × Coll)} (k : Nat) (x : Coll) (h : cellsWf s.mem.cells = true)
    (hr : Yields r (fun p => cellsWf p.1.mem.cells = true)) : cellsWf (pumpE s k x r).mem.cells = true := by
  fun_cases pumpE
  · exact cellsWf_pump _ _ _ (hr _ rfl)
  · simpa [raiseTrap_mem] using h

/-! ### The steps of a collective -/

theorem cellsWf_loadOwn (fuel : Nat) (s : State) (k : Nat) (x : Coll) (i : Nat) (h : cellsWf s.mem.cells = true) :
    Yields (loadOwn fuel s k x i) (fun r => cellsWf r.1.mem.cells = true) := by
  induction fuel generalizing s x i with
  | zero => exact yields_ok.2 h
  | succ n ih =>
    unfold loadOwn
    split
    · exact yields_ok.2 h
    · split
      · exact ih _ _ _ h
      · exact yields_bind (aCodes_cells s k x _) fun r hr =>
          yields_bind (cellsWf_landEls r.1 _ _ _ _ _ _ (by rwa [hr])) fun r hr => ih _ _ _ hr

theorem cellsWf_collStart (op : Nat) (s : State) (k n : Nat) (f : Flight) (h : cellsWf s.mem.cells = true) :
    Yields (collStart op s k n f) (fun t => cellsWf t.mem.cells = true) := by
  unfold collStart
  refine yields_ite (yields_ok.2 h) (yields_ite (yields_ok.2 h) (yields_ite (yields_ok.2 h) (yields_ite (yields_ok.2 h)
    (yields_then fun _ => yields_ite (yields_error.2 trivial) (yields_then fun _ => ?_)))))
  split
  · exact yields_error.2 trivial
  · refine yields_then fun _ => yields_then fun _ => yields_ite (yields_error.2 trivial) ?_
    extract_lets phys x1 held y s1 s2 s3 s4 x2
    have h4 : cellsWf s4.mem.cells = true := by
      simp only [s4, traceCat_mem, s3]
      split <;> exact h
    split
    · exact yields_ok.2 (cellsWf_mismatch _ _ _ _ _ _ h4)
    · refine yields_ite (yields_ok.2 (cellsWf_mismatch _ _ _ _ _ _ h4)) ?_
      split
      · exact yields_ok.2 (cellsWf_revoked _ _ _ _ _ _ h4)
      · have h5 := collTell_mem s4 k x2 (sendersToMe x2) 0 0 (p4 x2.rank ++ p4 0)
        exact yields_ok.2 (cellsWf_pumpE _ _ (by rwa [h5]) (cellsWf_loadOwn _ _ _ _ _ (by rwa [h5])))

theorem landedWf_collLand {s : State} {act : Coll → Nat → State} {ahead : Group → Landed} (p : Packet) (k : Nat) (checkFp : Bool)
    (h : cellsWf s.mem.cells = true) (ha : ∀ x r, cellsWf (act x r).mem.cells = true) (hg : ∀ b, LandedWf (ahead b)) :
    LandedWf (collLand s p k checkFp act ahead) := by
  fun_cases collLand <;> simp [h, ha, hg]

theorem nextWf_collRecv {s : State} {land : Nat → Landed} (p : Packet) (kind : Nat) (h : cellsWf s.mem.cells = true)
    (hl : ∀ k, LandedWf (land k)) : NextWf (.next (collRecv s p kind land)) := by
  unfold collRecv
  split
  · exact nextWf_next.2 (cellsWf_receive _ _ h (landedWf_ofCtx h hl))
  · exact nextWf_next.2 h

@[simp] theorem collBytes_mem (s : State) (k : Nat) (p : Packet) : (collBytes s k p).mem = s.mem := rfl
@[simp] theorem setGroup_mem (s : State) (k gid : Nat) (b : Group) : (setGroup s k gid b).mem = s.mem := rfl

@[simp] theorem cellsWf_takePartials (s : State) (k : Nat) (x : Coll) (r off : Nat) (vs : List Nat)
    (h : cellsWf s.mem.cells = true) :
    cellsWf (takePartials s k x r off vs).mem.cells = true := by
  fun_cases takePartials <;> simp [h]

@[simp] theorem cellsWf_takeResult (s : State) (k : Nat) (x : Coll) (r off : Nat) (es : List OutEl)
    (h : cellsWf s.mem.cells = true) :
    cellsWf (takeResult s k x r off es).mem.cells = true := by
  fun_cases takeResult
  · exact h
  · exact cellsWf_pumpE _ _ h (cellsWf_landEls _ _ _ _ _ _ _ h)
  · exact h

theorem landedWf_notYet {s : State}
    (h : cellsWf s.mem.cells = true) (b : Group) : LandedWf (notYet s b) := landedWf_done.2 h
@[simp] theorem nextWf_execCollData (p : Packet) (s : State)
    (h : cellsWf s.mem.cells = true) : NextWf (execCollData p s) := by
  refine nextWf_collRecv _ _ h fun c => landedWf_collLand _ _ _ (by simpa) (fun x r => ?_) (landedWf_notYet (by simpa))
  split
  · split <;> simp [h]
  · simp [h]

@[simp] theorem nextWf_execCollPartial (p : Packet) (s : State)
    (h : cellsWf s.mem.cells = true) : NextWf (execCollPartial p s) :=
  nextWf_collRecv _ _ h fun c => landedWf_collLand _ _ _ (by simpa) (fun x r => by simp [h]) (landedWf_notYet (by simpa))

@[simp] theorem nextWf_execCollResult (p : Packet) (s : State)
    (h : cellsWf s.mem.cells = true) : NextWf (execCollResult p s) :=
  nextWf_collRecv _ _ h fun c => landedWf_collLand _ _ _ (by simpa) (fun x r => by simp [h]) (landedWf_notYet (by simpa))

@[simp] theorem cellsWf_takeRecord (s : State) (k : Nat) (x : Coll) (r off : Nat) (c : CheckRec)
    (h : cellsWf s.mem.cells = true) :
    cellsWf (takeRecord s k x r off c).mem.cells = true := by
  fun_cases takeRecord <;> simp [h]

@[simp] theorem nextWf_execCollCheck (p : Packet) (s : State)
    (h : cellsWf s.mem.cells = true) : NextWf (execCollCheck p s) :=
  nextWf_collRecv _ _ h fun c => landedWf_collLand _ _ _ (by simpa) (fun x r => by simp [h]) (landedWf_notYet (by simpa))

@[simp] theorem cellsWf_rerun (s : State) (k : Nat) (x : Coll) (i : Nat) (ch : Chunk) (h : cellsWf s.mem.cells = true) :
    cellsWf (rerun s k x i ch).mem.cells = true := by
  simp [rerun, h]

@[simp] theorem resendCopy_cells (s : State) (k : Nat) (x : Coll) (ch : Chunk) (r : Nat) :
    (resendCopy s k x ch r).mem.cells = s.mem.cells := by
  fun_cases resendCopy
  · next e => simpa using aCodes_cells _ _ _ _ _ e
  · simp [raiseTrap_mem]

@[simp] theorem cellsWf_repairFor (s : State) (k : Nat) (x : Coll) (r first : Nat) (h : cellsWf s.mem.cells = true) :
    cellsWf (repairFor s k x r first).mem.cells = true := by
  fun_cases repairFor <;> simp [h]

@[simp] theorem nextWf_execCollRepair (p : Packet) (s : State)
    (h : cellsWf s.mem.cells = true) : NextWf (execCollRepair p s) := by
  refine nextWf_collRecv _ _ h fun c => landedWf_collLand _ _ _ (by simpa) (fun x r => ?_) (landedWf_notYet (by simpa))
  split <;> simp [h]

@[simp] theorem cellsWf_askedNow (s : State) (k gid seq r : Nat) (l : List (Nat × Nat)) (h : cellsWf s.mem.cells = true) :
    cellsWf (askedNow s k gid seq r l).mem.cells = true := by
  refine cellsWf_foldl (fun s q hs => ?_) _ _ h
  split <;> simp [hs]

@[simp] theorem nextWf_execCollReady (p : Packet) (s : State)
    (h : cellsWf s.mem.cells = true) : NextWf (execCollReady p s) := by
  refine nextWf_collRecv _ _ h fun c => landedWf_collLand _ _ _ (by simpa) (fun x r => by simp [h]) fun b => ?_
  split <;> simp [h]

@[simp] theorem nextWf_execCollAbort (p : Packet) (s : State)
    (h : cellsWf s.mem.cells = true) : NextWf (execCollAbort p s) :=
  nextWf_collRecv _ _ h fun c => landedWf_collLand _ _ _ (by simpa) (fun x r => by simp [h]) fun b => by simp [h]

@[simp] theorem nextWf_execCollRevoke (p : Packet) (s : State)
    (h : cellsWf s.mem.cells = true) : NextWf (execCollRevoke p s) :=
  nextWf_collRecv _ _ h fun c => landedWf_collLand _ _ _ (by simpa) (fun x r => by simp [h]) fun b => by simp [h]

@[simp] theorem nextWf_execCollDone (p : Packet) (s : State) (h : cellsWf s.mem.cells = true) : NextWf (execCollDone p s) :=
  nextWf_collRecv _ _ h fun c => landedWf_collLand _ _ _ (by simpa) (fun x r => by simp [h]) (landedWf_notYet (by simpa))

@[simp] theorem cellsWf_chunkPass (s : State) (k : Nat) (x : Coll) (i : Nat) (ch : Chunk) (skipped : Bool)
    (h : cellsWf s.mem.cells = true) :
    cellsWf (chunkPass s k x i ch skipped).mem.cells = true := by
  simp [chunkPass, h]

@[simp] theorem cellsWf_chunkFail (s : State) (k : Nat) (x : Coll) (i : Nat) (ch : Chunk) (diff : Nat)
    (h : cellsWf s.mem.cells = true) :
    cellsWf (chunkFail s k x i ch diff).mem.cells = true := by
  have h1 : cellsWf (readyDown s k x i).mem.cells = true := by simp [h]
  unfold chunkFail
  split
  · simp [h]
  · split
    · simp [h]
    · dsimp only
      split
      · split
        · simp [h]
        · exact cellsWf_pumpE _ _ h1 (yields_bind (aCodes_cells _ _ _ _) fun r hr => cellsWf_landEls _ _ _ _ _ _ _ (by rwa [hr]))
      · split <;> simp [h]

@[simp] theorem cellsWf_loseRank (s : State) (k : Nat) (x : Coll) (l : Nat) (h : cellsWf s.mem.cells = true) :
    cellsWf (loseRank s k x l).mem.cells = true := by
  simp +contextual [loseRank, cellsWf_foldl, h]

@[simp] theorem cellsWf_collsLose (s : State) (node : Nat) (h : cellsWf s.mem.cells = true) :
    cellsWf (collsLose s node).mem.cells = true := by
  unfold collsLose
  refine cellsWf_foldl (fun s k hs => cellsWf_foldl (fun s x hs => ?_) _ s hs) _ s h
  dsimp only
  split
  · exact cellsWf_loseRank _ _ _ _ hs
  · exact hs

/-! ### Trees -/

@[simp] theorem fwSend_mem (s : State) (node kind : Nat) (fields : List Nat) : (fwSend s node kind fields).mem = s.mem := rfl

@[simp] theorem fwSendAll_mem (s : State) (nodes : List Nat) (kind : Nat) (fields : List Nat) :
    (fwSendAll s nodes kind fields).mem = s.mem :=
  foldl_mem (fun s n => fwSend_mem s n kind fields) _ _

@[simp] theorem cellsWf_unrecoverable (s : State) (k cause : Nat) (h : cellsWf s.mem.cells = true) :
    cellsWf (unrecoverable s k cause).mem.cells = true := by
  simp [unrecoverable, h]

@[simp] theorem readMirror_mem (s : State) (k node slot off len base : Nat) :
    (readMirror s k node slot off len base).mem = s.mem := by
  simp [readMirror]

@[simp] theorem fetchTarget_mem (s : State) (k target : Nat) : (fetchTarget s k target).mem = s.mem := by
  fun_cases fetchTarget
  case case3 => exact foldl_mem (fun _ _ => readMirror_mem ..) _ _
  case case5 => exact foldl_mem (fun _ _ => readMirror_mem ..) _ _
  all_goals rfl

@[simp] theorem cellsWf_beginRestore (s : State) (k target : Nat) (h : cellsWf s.mem.cells = true) :
    cellsWf (beginRestore s k target).mem.cells = true := by
  simp [beginRestore, h]

@[simp] theorem cellsWf_tryAck (s : State) (k : Nat)
    (h : cellsWf s.mem.cells = true) : cellsWf (tryAck s k).mem.cells = true := by
  unfold tryAck
  dsimp only
  repeat' split
  all_goals simp [h]

@[simp] theorem cellsWf_nameAbsent (s : State) (k n : Nat) (h : cellsWf s.mem.cells = true) :
    cellsWf (nameAbsent s k n).mem.cells = true := by
  simp [nameAbsent, h]

@[simp] theorem cellsWf_peerAbsent (s : State) (peer : Nat) (h : cellsWf s.mem.cells = true) :
    cellsWf (peerAbsent s peer).mem.cells = true := by
  simp +contextual [peerAbsent, cellsWf_foldl, h]

/-! ### Furlong -/

@[simp] theorem failRead_cells (s : State) (op : Nat) : (failRead s op).mem.cells = s.mem.cells :=
  foldl_cells (fun s _ => foldl_cells (fun s g => poisonGrain_cells s (g * 64)) _ s) _ s

@[simp] theorem failOp_cells (s : State) (o : NetOp) : (failOp s o).mem.cells = s.mem.cells := by
  simp [failOp]

@[simp] theorem cellsWf_losePeer (s : State) (peer cause : Nat) (h : cellsWf s.mem.cells = true) :
    cellsWf (losePeer s peer cause).mem.cells = true := by
  unfold losePeer
  dsimp only
  refine cellsWf_peerAbsent _ _ (cellsWf_collsLose _ _ ?_)
  have h1 : ∀ (l : List NetOp) (s : State), (l.foldl failOp s).mem.cells = s.mem.cells := foldl_cells failOp_cells
  split
  · simp [h1, h]
  · rw [foldl_cells (fun s k => by rw [raise_mem]), h1]
    exact h

@[simp] theorem openWith_mem (s : State) (h : Hello) : (openWith s h).mem = s.mem := rfl
@[simp] theorem endManager_mem (s : State) (node : Nat) : (endManager s node).mem = s.mem := rfl

@[simp] theorem cellsWf_helloIn (s : State) (x : Hello) (h : cellsWf s.mem.cells = true) :
    cellsWf (helloIn s x).mem.cells = true := by
  unfold helloIn
  split
  · exact h
  · dsimp only
    split
    · split <;> simp [h]
    · split <;> simp [h]

@[simp] theorem netTouch_cells (s : State) (k va len : Nat) (wr : Bool) : (netTouch s k va len wr).mem.cells = s.mem.cells := by
  simp [netTouch]

theorem landedWf_mirrorRead (s : State) (hd : FHdr) (len : Nat) (h : cellsWf s.mem.cells = true) :
    LandedWf (mirrorRead s hd len) := by
  unfold mirrorRead
  dsimp only
  repeat' split
  all_goals simp [foldl_cells, h]

@[simp] theorem nextWf_execReadReqReceive (p : Packet) (s : State) (h : cellsWf s.mem.cells = true) :
    NextWf (execReadReqReceive p s) := by
  refine nextWf_next.2 (cellsWf_receive _ _ h fun c => ?_)
  split
  · exact landedWf_mirrorRead _ _ _ h
  · exact landedWf_regionLand _ _ _ _ h fun r => yields_then fun bs => yields_ok.2 (by simp [h])

theorem cellsWf_writeDpas (l : List Wr) (s : State) (h : cellsWf s.mem.cells = true) :
    cellsWf (l.foldl (fun s w => writeDpa s w.va w.bs w.poi) s).mem.cells = true :=
  cellsWf_foldl (fun s w => cellsWf_writeDpa s w.va w.bs w.poi) l s h

@[simp] theorem nextWf_execReadRespReceive (p : Packet) (s : State) (h : cellsWf s.mem.cells = true) :
    NextWf (execReadRespReceive p s) := by
  refine nextWf_next.2 (cellsWf_receive _ _ h fun c => ?_)
  split
  · exact landedWf_done.2 h
  · next r _ =>
    have h1 := cellsWf_writeDpas (blockWrs (r.base + p.hdr.offset) (r.off + p.hdr.offset) p.payload p.poison) s h
    split
    · exact landedWf_crossing
    · split
      · exact landedWf_done.2 h
      · simp [h1]

@[simp] theorem nextWf_execSendReceive (p : Packet) (s : State) (h : cellsWf s.mem.cells = true) :
    NextWf (execSendReceive p s) := by
  refine nextWf_next.2 (cellsWf_receive _ _ h (landedWf_ofCtx h fun c => ?_))
  split
  · exact landedWf_done.2 h
  · split
    · exact landedWf_accessFault _ _ _ h
    · split
      · next e => exact landedWf_done.2 (cellsWf_writeVas _ _ _ _ h _ e)
      · exact landedWf_accessFault _ _ _ h

@[simp] theorem nextWf_execRemoteTrussArrival (p : Packet) (s : State) (h : cellsWf s.mem.cells = true) :
    NextWf (execRemoteTrussArrival p s) := by
  refine nextWf_next.2 (cellsWf_receive _ _ h (landedWf_ofCtx h fun c => ?_))
  dsimp only
  split <;> simp [h]

@[simp] theorem opRefused_cells (s : State) (o : NetOp) : (opRefused s o).mem.cells = s.mem.cells := by
  simp [opRefused]

@[simp] theorem sackIn_cells (s : State) (peer : Nat) (a : Sack) : (sackIn s peer a).mem.cells = s.mem.cells := by
  simp [sackIn, foldl_cells]

@[simp] theorem setPort_mem (s : State) (p : Nat) (x : Port) : (setPort s p x).mem = s.mem := rfl
@[simp] theorem portUp_mem (s : State) (p rate : Nat) : (portUp s p rate).mem = s.mem := rfl
@[simp] theorem losePort_mem (s : State) (p : Nat) : (losePort s p).mem = s.mem := rfl
@[simp] theorem portDown_mem (s : State) (p cause : Nat) (failed : Bool) : (portDown s p cause failed).mem = s.mem := rfl

@[simp] theorem negotiated_mem (s : State) (p : Nat) (rates : List Nat) (trained : Bool) :
    (negotiated s p rates trained).mem = s.mem := by
  fun_cases negotiated <;> rfl

@[simp] theorem setQp_mem (s : State) (q : Nat) (x : Qp) : (setQp s q x).mem = s.mem := rfl

@[simp] theorem roceOut_mem (q : Nat) (s : State) (k : RocePkt) : (roceOut q s k).mem = s.mem := by
  fun_cases roceOut <;> simp

@[simp] theorem roceSend_mem (s : State) (q : Nat) (l : List RocePkt) : (roceSend s q l).mem = s.mem := by
  simp [roceSend, foldl_mem]

@[simp] theorem roceRequest_mem (s : State) (q : Nat) (k : RocePkt) (dpa : Nat) : (roceRequest s q k dpa).mem = s.mem := by
  simp [roceRequest]

@[simp] theorem roceTouch_cells (s : State) (rkey d len : Nat) (wr : Bool) :
    (roceTouch s rkey d len wr).mem.cells = s.mem.cells := by
  fun_cases roceTouch <;> simp

@[simp] theorem cellsWf_roceResp (s : State) (k : RocePkt) (h : cellsWf s.mem.cells = true) :
    cellsWf (roceResp s k).mem.cells = true := by
  unfold roceResp
  dsimp only
  repeat' split
  all_goals simp [h]

/-! ### Placement -/

@[simp] theorem progressRec_mem (s : State) (op k pos total : Nat) : (progressRec s op k pos total).mem = s.mem := rfl

@[simp] theorem progressTo_mem (s : State) (op k old pos total : Nat) (start : Bool) :
    (progressTo s op k old pos total start).mem = s.mem := by
  fun_cases progressTo <;> rfl

@[simp] theorem setPhys_mem (s : State) (p : Nat) (x : Phys) : (setPhys s p x).mem = s.mem := rfl
@[simp] theorem noteOverlay_mem (s : State) : (noteOverlay s).mem = s.mem := rfl

@[simp] theorem mapCore_mem (s : State) (n p : Nat) : (mapCore s n p).mem = s.mem := by
  fun_cases mapCore <;> rfl

@[simp] theorem placeCore_mem (s : State) (n : Nat) : (placeCore s n).1.mem = s.mem := by
  unfold placeCore
  dsimp only
  repeat' split
  all_goals simp

@[simp] theorem markUnavailable_mem (s : State) (part : Nat) : (markUnavailable s part).mem = s.mem := by
  fun_cases markUnavailable <;> rfl

@[simp] theorem capacityEvent_mem (s : State) (old : Capacity × Tbl Nat × List Nat) : (capacityEvent s old).mem = s.mem := by
  fun_cases capacityEvent <;> rfl

@[simp] theorem placeAll'_mem (s : State) (ns : List Nat) : (placeAll' s ns).mem = s.mem := by
  simp [placeAll', foldl_mem]

@[simp] theorem markFailed_mem (s : State) (p cause : Nat) : (markFailed s p cause).mem = s.mem := rfl

@[simp] theorem coreFailedEvent_mem (s : State) (p moved cause : Nat) (ks : List Nat) :
    (coreFailedEvent s p moved cause ks).mem = s.mem := by
  unfold coreFailedEvent
  dsimp only
  split
  · rfl
  · exact foldl_mem (fun _ _ => raise_mem ..) _ _

@[simp] theorem keepStandIn_mem (s : State) : (keepStandIn s).mem = s.mem := by
  simp [keepStandIn, foldl_mem]

@[simp] theorem moveStandIns_mem (s : State) (p : Nat) : (moveStandIns s p).mem = s.mem := by
  fun_cases moveStandIns <;> rfl

@[simp] theorem cellsWf_loadAway (s : State) (ns : List Nat) (h : cellsWf s.mem.cells = true) :
    cellsWf (loadAway s ns).mem.cells = true := by
  refine cellsWf_foldl (fun s n hs => ?_) _ _ h
  split
  · exact cellsWf_loadScratch _ _ _ _ hs
  · exact hs

@[simp] theorem cellsWf_failCore (s : State) (p cause : Nat) (h : cellsWf s.mem.cells = true) :
    cellsWf (failCore s p cause).mem.cells = true := by
  simp [failCore, h]

@[simp] theorem cellsWf_replaceUnplaced (s : State) (h : cellsWf s.mem.cells = true) :
    cellsWf (replaceUnplaced s).mem.cells = true :=
  cellsWf_foldl (fun s part hs => by simp [foldl_mem (fun s n => placeCore_mem s n), hs]) _ _ h

@[simp] theorem cellsWf_testData (s : State) (p n : Nat) (h : cellsWf s.mem.cells = true) :
    cellsWf (testData s p n).mem.cells = true :=
  cellsWf_clearMem _ _ _ h

@[simp] theorem cellsWf_switchPair (s : State) (p a b : Nat) (h : cellsWf s.mem.cells = true) :
    cellsWf (switchPair s p a b).mem.cells = true := by
  simp [switchPair, h]

@[simp] theorem patrolPast_mem (s : State) (p : Nat) : (patrolPast s p).mem = s.mem := rfl

@[simp] theorem cellsWf_standIn (s : State) (p q : Nat) (h : cellsWf s.mem.cells = true) :
    cellsWf (standIn s p q).mem.cells = true := by
  simp [standIn, h]

@[simp] theorem cellsWf_standBack (s : State) (p : Nat) (h : cellsWf s.mem.cells = true) :
    cellsWf (standBack s p).mem.cells = true := by
  unfold standBack
  dsimp only
  repeat' split
  all_goals simp [h]

@[simp] theorem cellsWf_patrolEnd (s : State) (p : Nat) (pass : Bool) (sig : Word) (h : cellsWf s.mem.cells = true) :
    cellsWf (patrolEnd s p pass sig).mem.cells = true := by
  simp [patrolEnd, h]

@[simp] theorem deadlock_mem (s : State) (k : Nat) : (deadlock s k).mem = s.mem := rfl

@[simp] theorem watchCtx_mem (s : State) (k : Nat) : (watchCtx s k).mem = s.mem := by
  simp [watchCtx]

/-! ### Memory services -/

@[simp] theorem dropRow_cells (m : Mem) (chan row : Nat) : (dropRow m chan row).cells = m.cells := rfl
@[simp] theorem remapFw_cells (s : State) (old d : Nat) : (remapFw s old d).mem.cells = s.mem.cells := rfl
@[simp] theorem remap_mem (s : State) (old : Nat) (new : Option Nat) : (remap s old new).mem = s.mem := rfl
@[simp] theorem repairProgress_mem (s : State) (k n : Nat) : (repairProgress s k n).mem = s.mem := rfl

@[simp] theorem forgetPage_cells (s : State) (page : Nat) : (forgetPage s page).cells = s.mem.cells :=
  List.foldlRecOn (motive := fun m : Mem => m.cells = s.mem.cells) _ _ rfl fun _ hm _ _ => hm

@[simp] theorem cellsWf_fwElsewhere (s : State) (k old : Nat) (h : cellsWf s.mem.cells = true) :
    cellsWf (fwElsewhere s k old).mem.cells = true := by
  fun_cases fwElsewhere <;> simp [h]

@[simp] theorem repairChan_cells (s : State) (chan : Nat) : (repairChan s chan).mem.cells = s.mem.cells := by
  fun_cases repairChan <;> rfl

@[simp] theorem setSlice_cells (s : State) (i : Nat) (md : SliceMode) : (setSlice s i md).mem.cells = s.mem.cells := rfl
@[simp] theorem staleSlice_cells (s : State) (i : Nat) : (staleSlice s i).mem.cells = s.mem.cells := rfl

@[simp] theorem cellsWf_imageHome (s : State) (e : Nat × Nat) (h : cellsWf s.mem.cells = true) :
    cellsWf (imageHome s e).mem.cells = true := by
  simp [imageHome, h]

@[simp] theorem cellsWf_giveBack (s : State) (i : Nat) (h : cellsWf s.mem.cells = true) :
    cellsWf (giveBack s i).mem.cells = true := by
  simp +contextual [giveBack, cellsWf_foldl, h]

@[simp] theorem cacheOff_cells (s : State) (i : Nat) : (cacheOff s i).mem.cells = s.mem.cells := by
  fun_cases cacheOff <;> rfl

/-! ### Power -/

@[simp] theorem setRail_mem (s : State) (b : Nat) : (setRail s b).mem = s.mem := rfl

@[simp] theorem lower_mem (s : State) (b v : Nat) : (lower s b v).mem = s.mem := by
  fun_cases lower <;> rfl

@[simp] theorem watchFixed_mem (s : State) (b : Nat) : (watchFixed s b).mem = s.mem := by
  fun_cases watchFixed <;> rfl

@[simp] theorem watchAllFixed_mem (s : State) : (watchAllFixed s).mem = s.mem := by
  simp [watchAllFixed, foldl_mem]

@[simp] theorem cellsWf_refitLimit (s : State) (b i : Nat) (h : cellsWf s.mem.cells = true) :
    cellsWf (refitLimit s b i).mem.cells = true := by
  simp +contextual [refitLimit, cellsWf_foldl, h]

@[simp] theorem cellsWf_marginSeen (s : State) (b margin : Nat) (h : cellsWf s.mem.cells = true) :
    cellsWf (marginSeen s b margin).mem.cells = true := by
  unfold marginSeen
  dsimp only
  repeat' split
  all_goals simp [h]

@[simp] theorem setLimit_mem (s : State) (source w : Nat) : (setLimit s source w).mem = s.mem := by
  fun_cases setLimit <;> rfl

@[simp] theorem capMore_mem (s : State) : (capMore s).mem = s.mem := by
  fun_cases capMore <;> rfl

@[simp] theorem capLess_mem (s : State) : (capLess s).mem = s.mem := rfl

@[simp] theorem countThrottle_mem (s : State) : (countThrottle s).mem = s.mem := by
  unfold countThrottle
  exact foldl_mem (fun _ _ => bump_mem ..) _ _

@[simp] theorem slowDie_mem (s : State) (measured : List (Option Nat)) (d : Nat) : (slowDie s measured d).mem = s.mem := by
  simp [slowDie]

@[simp] theorem lever2_mem (s : State) (b : Nat) (down up : Bool) : (lever2 s b down up).mem = s.mem := by
  fun_cases lever2 <;> rfl

@[simp] theorem lever2All_mem (s : State) : (lever2All s).mem = s.mem := by
  simp [lever2All, foldl_mem]

@[simp] theorem charge_mem (s : State) (k e : Nat) : (charge s k e).mem = s.mem := by
  fun_cases charge <;> rfl

@[simp] theorem countBay_mem (s : State) (b n : Nat) : (countBay s b n).mem = s.mem := rfl

@[simp] theorem settleEmergency_mem (s : State) : (settleEmergency s).mem = s.mem := by
  fun_cases settleEmergency <;> rfl

@[simp] theorem heatDown_mem (s : State) (dies : List ℤ) : (heatDown s dies).mem = s.mem := by
  simp [heatDown, foldl_mem]

@[simp] theorem heatUp_mem (s : State) : (heatUp s).mem = s.mem := by
  unfold heatUp
  exact foldl_mem (fun _ _ => setBay_mem ..) _ _

@[simp] theorem throttleLevel_mem (s : State) (dies : List ℤ) : (throttleLevel s dies).mem = s.mem := by
  simp [throttleLevel]

@[simp] theorem stackCool_cells (s : State) (n : Nat) (t : ℤ) : (stackCool s n t).mem.cells = s.mem.cells := by
  fun_cases stackCool <;> rfl

/-! ### Time -/

@[simp] theorem countBands_mem (s : State) (n : Nat) : (countBands s n).mem = s.mem := by
  unfold countBands
  exact foldl_mem (fun _ _ => bump_mem ..) _ _

@[simp] theorem tick_mem (s : State) : (tick s).mem = s.mem := by
  unfold tick
  simp

@[simp] theorem unsync_mem (s : State) (offset : ℤ) : (unsync s offset).mem = s.mem := by
  fun_cases unsync <;> rfl

@[simp] theorem resync_mem (s : State) (offset : ℤ) : (resync s offset).mem = s.mem := by
  fun_cases resync <;> rfl

@[simp] theorem disciplined_mem (s : State) (offset rate : ℤ) : (disciplined s offset rate).mem = s.mem := by
  simp [disciplined]

@[simp] theorem ptpSend_mem (s : State) (port net : Nat) (m : PtpMsg) : (ptpSend s port net m).mem = s.mem := by
  fun_cases ptpSend <;> rfl

@[simp] theorem askDelay_mem (s : State) (port net t1 t2 : Nat) : (askDelay s port net t1 t2).mem = s.mem := by
  simp [askDelay]

@[simp] theorem synced_mem (s : State) (port net t1 t2 : Nat) (rate : ℤ) : (synced s port net t1 t2 rate).mem = s.mem := by
  simp [synced]

@[simp] theorem setDelay_mem (s : State) (d : ℤ) : (setDelay s d).mem = s.mem := rfl

@[simp] theorem ptpIn_mem (s : State) (port net : Nat) (m : PtpMsg) (rate : ℤ) : (ptpIn s port net m rate).mem = s.mem := by
  fun_cases ptpIn <;> simp

@[simp] theorem sendSync_mem (s : State) : (sendSync s).mem = s.mem := by
  simp [sendSync]

/-! ### The Chain -/

@[simp] theorem replayDir_mem (s : State) (j g : Nat) (up : Bool) : (replayDir s j g up).mem = s.mem := by
  unfold replayDir
  dsimp only
  split
  · rfl
  · exact foldl_mem (fun _ _ => bump_mem ..) _ _

@[simp] theorem acked_mem (s : State) (j g : Nat) (up : Bool) (a : Nat) (nak : Bool) : (acked s j g up a nak).mem = s.mem := by
  simp [acked]

@[simp] theorem chargeLane_mem (s : State) (j l : Nat) : (chargeLane s j l).mem = s.mem := rfl

@[simp] theorem swapHeard_mem (s : State) (j : Nat) (up : Bool) (lane spare : Nat) : (swapHeard s j up lane spare).mem = s.mem := by
  fun_cases swapHeard <;> rfl

@[simp] theorem switchLane_mem (s : State) (j : Nat) (up : Bool) (w : Swapping) : (switchLane s j up w).mem = s.mem := rfl

@[simp] theorem cellsWf_takeData (s : State) (j g : Nat) (up : Bool) (f : Flit) (w : Arriving)
    (h : cellsWf s.mem.cells = true) :
    cellsWf (takeData s j g up f w).mem.cells = true := by
  simp +contextual [takeData, cellsWf_foldl, h]

@[simp] theorem cellsWf_accept (s : State) (j g : Nat) (up : Bool) (f : Flit) (h : cellsWf s.mem.cells = true) :
    cellsWf (accept s j g up f).mem.cells = true := by
  unfold accept
  dsimp only
  repeat' split
  all_goals simp +contextual [cellsWf_foldl, h]

@[simp] theorem discard_mem (s : State) (j g : Nat) (up : Bool) (f : Flit) : (discard s j g up f).mem = s.mem := by
  fun_cases discard <;> rfl

@[simp] theorem failBurst_cells (s : State) (b : ChainBurst) : (failBurst s b).mem.cells = s.mem.cells := by
  unfold failBurst
  dsimp only
  split
  · rfl
  · split
    · rfl
    · split
      all_goals
        simp only [setFlightS_mem, landed_mem]
        exact foldl_cells (fun s g => by split <;> simp) _ _

@[simp] theorem joinDown_mem (s : State) (j : Nat) : (joinDown s j).mem = s.mem := by
  simp [joinDown]

/-! ### Messages -/

@[simp] theorem untake_mem (s : State) (h : MsgHdr) (t : MsgType) : (untake s h t).mem = s.mem := by
  fun_cases untake <;> rfl

@[simp] theorem respond_mem (s : State) (h : MsgHdr) (type status : Nat) (result : List Byte) :
    (respond s h type status result).mem = s.mem := by
  fun_cases respond <;> rfl

@[simp] theorem answerLate_mem (s : State) (m : Nat) : (answerLate s m).mem = s.mem := by
  fun_cases answerLate <;> simp [foldl_mem]

@[simp] theorem answer_mem (s : State) (h : MsgHdr) (type status : Nat) (result : List Byte) :
    (answer s h type status result).mem = s.mem := by
  simp [answer]

@[simp] theorem present_mem (s : State) (box : Nat) : (present s box).mem = s.mem := by
  fun_cases present <;> rfl

@[simp] theorem submitTo_mem (s : State) (m : Nat) (x : MsgHdr × Nat × Nat) (payload : List Byte) :
    (submitTo s m x payload).mem = s.mem := by
  unfold submitTo
  dsimp only
  repeat' split
  all_goals simp

@[simp] theorem deny_mem (s : State) (status : Nat) : (deny s status).1.mem = s.mem := rfl
@[simp] theorem done_mem (s : State) (result : List Byte) : (done s result).1.mem = s.mem := rfl
@[simp] theorem newRing_mem (s : State) (addr : Nat) (resp : List Rec) : (newRing s addr resp).mem = s.mem := rfl

/-! ### Packets sent -/

@[simp] theorem managerBlock_mem (s : State) (m : Nat) (h : FHdr) (pay : List Byte) : (managerBlock s m h pay).mem = s.mem := by
  simp [managerBlock]

theorem landedWf_firmwareLand (s : State) (hd : FHdr) (pay : List Byte) (poi : BitVec 64) (h : cellsWf s.mem.cells = true) :
    LandedWf (firmwareLand s hd pay poi) := by
  have hw : ∀ l : List Wr, cellsWf (l.foldl (fun s w => writeDpa s w.va w.bs w.poi) s).mem.cells = true :=
    fun l => cellsWf_writeDpas l s h
  unfold firmwareLand managerLand mirrorLand
  repeat' split
  all_goals simp [h, hw]

@[simp] theorem nextWf_execFurlongWriteReceive (p : Packet) (s : State) (h : cellsWf s.mem.cells = true) :
    NextWf (execFurlongWriteReceive p s) := by
  refine nextWf_next.2 (cellsWf_receive _ _ h fun c => ?_)
  split
  · exact landedWf_firmwareLand _ _ _ _ h
  · exact landedWf_regionLand _ _ _ _ h fun r => yields_map (cellsWf_writeVas _ _ _ _ h) fun t ht => by simp [ht]

theorem cellsWf_outState {s : State} {o : Out} (h : cellsWf s.mem.cells = true) (ho : NextWf o) :
    cellsWf (outState s o).mem.cells = true := by
  unfold outState
  split
  · exact ho _ rfl
  · exact h

@[simp] theorem cellsWf_handOver (s : State) (p : Packet) (h : cellsWf s.mem.cells = true) :
    cellsWf (handOver s p).mem.cells = true := by
  refine cellsWf_outState h ?_
  split
  · exact nextWf_execFurlongWriteReceive p s h
  · exact nextWf_execReadReqReceive p s h
  · exact nextWf_execReadRespReceive p s h
  · exact nextWf_execRemoteTrussArrival p s h
  · exact nextWf_execSendReceive p s h
  · split
    · exact nextWf_execCollReady p s h
    · exact nextWf_execCollData p s h
    · exact nextWf_execCollPartial p s h
    · exact nextWf_execCollResult p s h
    · exact nextWf_execCollCheck p s h
    · exact nextWf_execCollRepair p s h
    · exact nextWf_execCollAbort p s h
    · exact nextWf_execCollRevoke p s h
    · exact nextWf_execCollDone p s h
  · exact nextWf_next.2 h

@[simp] theorem cellsWf_handOwn (s : State) (own : Nat) (k : Packet) (h : cellsWf s.mem.cells = true) :
    cellsWf (handOwn s own k).mem.cells = true := by
  simp [handOwn, h]

theorem netCharge_mem {s t : State} {p : Packet} (ht : netCharge s p = some t) : t.mem = s.mem := by
  unfold netCharge at ht
  dsimp only at ht
  split_ifs at ht
  · cases ht; rfl
  · cases ht; rfl
  · split at ht
    · cases ht; rfl
    · split_ifs at ht
      cases ht; rfl

@[simp] theorem countSent_mem (s : State) (p : Packet) (peer : Nat) (port : Option Nat) (again : Bool) :
    (countSent s p peer port again).mem = s.mem := by
  unfold countSent
  dsimp only
  repeat' split
  all_goals simp

@[simp] theorem cellsWf_transmit (s : State) (p : Packet) (peer : Nat) (w : Way) (again : Bool)
    (h : cellsWf s.mem.cells = true) :
    cellsWf (transmit s p peer w again).mem.cells = true := by
  fun_cases transmit <;> simp [h]

@[simp] theorem cellsWf_noWay (s : State) (peer path : Nat) (h : cellsWf s.mem.cells = true) :
    cellsWf (noWay s peer path).mem.cells = true := by
  fun_cases noWay <;> simp [h]

@[simp] theorem cellsWf_resend (s : State) (peer : Nat) (x : Session) (e : Sent) (h : cellsWf s.mem.cells = true) :
    cellsWf (resend s peer x e).mem.cells = true := by
  simp [resend, h]

@[simp] theorem cellsWf_sendNew (s : State) (peer : Nat) (x : Session) (p : Packet) (r : List Packet)
    (h : cellsWf s.mem.cells = true) :
    cellsWf (sendNew s peer x p r).mem.cells = true := by
  unfold sendNew
  dsimp only
  repeat' split
  · exact h
  · exact h
  · next e => exact cellsWf_transmit _ _ _ _ _ (by simp [netCharge_mem e, h])
  · exact cellsWf_noWay _ _ _ h

@[simp] theorem sendRecord_mem (peer : Nat) (s : State) (r : Rec) : (sendRecord peer s r).mem = s.mem := by
  simp [sendRecord]

@[simp] theorem flushRecords_mem (s : State) (peer : Nat) : (flushRecords s peer).mem = s.mem := by
  simp [flushRecords, foldl_mem]

/-! ### Contexts -/

theorem cellsWf_reserveHome {s t : State} {k part n : Nat} (ht : reserveHome s k part n = some t)
    (h : cellsWf s.mem.cells = true) :
    cellsWf t.mem.cells = true := by
  unfold reserveHome at ht
  dsimp only at ht
  split at ht <;> cases ht
  exact cellsWf_clearMem _ _ _ h

theorem cellsWf_reserveHomes {s t : State} {k part : Nat} (ht : reserveHomes s k part = some t)
    (h : cellsWf s.mem.cells = true) :
    cellsWf t.mem.cells = true :=
  foldlM_some (P := fun s : State => cellsWf s.mem.cells = true) (fun _ _ _ hs ht => cellsWf_reserveHome ht hs) _ h ht

@[simp] theorem cellsWf_imagesToThatch (s : State) (k part : Nat) (h : cellsWf s.mem.cells = true) :
    cellsWf (imagesToThatch s k part).mem.cells = true :=
  cellsWf_foldl (fun s e hs => cellsWf_clearMem _ _ _ (by simpa using hs)) _ _ h

@[simp] theorem releaseImages_cells (s : State) (k : Nat) : (releaseImages s k).mem.cells = s.mem.cells := by
  simp [releaseImages, foldl_cells]

@[simp] theorem cellsWf_landAll (s : State) (k : Nat) (h : cellsWf s.mem.cells = true) :
    cellsWf (landAll s k).mem.cells = true := by
  simp +contextual [landAll, cellsWf_foldl, h]

@[simp] theorem cellsWf_stopLaunch (s : State) (k status : Nat) (h : cellsWf s.mem.cells = true) :
    cellsWf (stopLaunch s k status).mem.cells = true := by
  simp [stopLaunch, h]

@[simp] theorem freePages_cells (s : State) (l : List Nat) : (freePages s l).mem.cells = s.mem.cells := rfl
@[simp] theorem noteUnbound_mem (s : State) (k : Nat) (l : List (Nat × Nat × Nat)) : (noteUnbound s k l).mem = s.mem := rfl
@[simp] theorem dropKeys_mem (s : State) (x : Ctx) : (dropKeys s x).mem = s.mem := rfl

@[simp] theorem freeContext_cells (s : State) (k : Nat) : (freeContext s k).mem.cells = s.mem.cells := by
  simp [freeContext]

@[simp] theorem unpair_cells (s : State) (k : Nat) : (unpair s k).mem.cells = s.mem.cells := by
  fun_cases unpair <;> rfl

@[simp] theorem cellsWf_startLaunch (s : State) (k : Nat) (entries : List LaunchEntry) (h : cellsWf s.mem.cells = true) :
    cellsWf (startLaunch s k entries).mem.cells = true := by
  simp +contextual [startLaunch, cellsWf_foldl, h]

@[simp] theorem announce_mem (s : State) : (announce s).mem = s.mem := by
  fun_cases announce <;> rfl

@[simp] theorem cellsWf_absentCtx (s : State) (k : Nat) (h : cellsWf s.mem.cells = true) :
    cellsWf (absentCtx s k).mem.cells = true := by
  simp [absentCtx, h]

/-! ### Messages about memory -/

@[simp] theorem cellsWf_mapPage (s : State) (k va dpa size : Nat) (perm : BitVec 8) (h : cellsWf s.mem.cells = true) :
    cellsWf (mapPage s k va dpa size perm).mem.cells = true := cellsWf_clearMem _ _ _ h

theorem cellsWf_allocHbm {part k size : Nat} {perm : BitVec 8} {s t : State} {va : Nat} (ht : allocHbm part k size perm s va = some t)
    (h : cellsWf s.mem.cells = true) : cellsWf t.mem.cells = true := by
  unfold allocHbm at ht
  dsimp only at ht
  split at ht <;> cases ht
  exact cellsWf_mapPage _ _ _ _ _ _ h

theorem cellsWf_allocThatch {part k : Nat} {perm : BitVec 8} {s t : State} {va : Nat} (ht : allocThatch part k perm s va = some t)
    (h : cellsWf s.mem.cells = true) : cellsWf t.mem.cells = true := by
  unfold allocThatch at ht
  split at ht
  · cases ht
    exact cellsWf_mapPage _ _ _ _ _ _ h
  · split at ht <;> cases ht
    exact cellsWf_mapPage _ _ _ _ _ _ (cellsWf_giveBack _ _ h)

@[simp] theorem cellsWf_landOrphans (s : State) (k : Nat) (h : cellsWf s.mem.cells = true) :
    cellsWf (landOrphans s k).mem.cells = true := by
  simp +contextual [landOrphans, cellsWf_foldl, h]

@[simp] theorem touchPages_cells (s : State) (k va size : Nat) (wr : Bool) :
    (touchPages s k va size wr).mem.cells = s.mem.cells := by
  simp [touchPages]

@[simp] theorem splitPair_mem (s : State) (p : Nat) : (splitPair s p).mem = s.mem := by
  unfold splitPair
  dsimp only
  repeat' split
  all_goals simp

@[simp] theorem cellsWf_softenBay (s : State) (b : Nat) (h : cellsWf s.mem.cells = true) :
    cellsWf (softenBay s b).mem.cells = true := by
  unfold softenBay
  refine cellsWf_foldl (fun s i hs => ?_) _ _ h
  split <;> simp [hs]

@[simp] theorem cellsWf_relayout (s : State) (part quota : List Nat) (h : cellsWf s.mem.cells = true) :
    cellsWf (relayout s part quota).mem.cells = true := by
  have h1 := cellsWf_foldl cellsWf_softenBay ((List.range 16).filter (unitMoves s.place part)) s h
  unfold relayout
  simp [foldl_mem, h1]

@[simp] theorem onPart_mem (s : State) (part : Nat) (ok : Bool) (f : PartSt → PartSt) : (onPart s part ok f).1.mem = s.mem := by
  fun_cases onPart <;> rfl

/-! ### Messages about the network -/

@[simp] theorem retrain_mem (s : State) (p : Nat) : (retrain s p).mem = s.mem := rfl

@[simp] theorem sendCapsule_mem (s : State) (q : Nat) (c : List Byte) : (sendCapsule s q c).mem = s.mem := by
  simp [sendCapsule]

@[simp] theorem regKeys_mem (s : State) (sg : List (Nat × Nat × Nat)) : (regKeys s sg).1.mem = s.mem := rfl

@[simp] theorem poisonDest_cells (s : State) (k : Nat) (r : StorReq) : (poisonDest s k r).mem.cells = s.mem.cells := by
  fun_cases poisonDest
  · exact foldl_cells (fun s g => poisonGrain_cells s (g * 64)) _ _
  · rfl

@[simp] theorem storArrive_mem (s : State) (k : Nat) (r : StorReq) : (storArrive s k r).mem = s.mem := by
  simp [storArrive]

/-! ### Restarts -/

@[simp] theorem cellsWf_haltCtx (s : State) (k : Nat) (h : cellsWf s.mem.cells = true) :
    cellsWf (haltCtx s k).mem.cells = true := by
  have h1 := cellsWf_landAll s k h
  have h2 := cellsWf_deschedule _ (ctxOf (landAll s k) k).part h1
  unfold haltCtx
  dsimp only
  split <;> simp [h1, h2]

@[simp] theorem cellsWf_beginHalt (s : State) (k epoch origin cause : Nat) (sender : Option Nat)
    (h : cellsWf s.mem.cells = true) :
    cellsWf (beginHalt s k epoch origin cause sender).mem.cells = true := by
  simp [beginHalt, h]

@[simp] theorem cellsWf_copyToSlot (s : State) (k slot : Nat) (h : cellsWf s.mem.cells = true) :
    cellsWf (copyToSlot s k slot).mem.cells = true := by
  simp +contextual [copyToSlot, cellsWf_foldl, h]

@[simp] theorem cellsWf_copyFromSlot (s : State) (k slot : Nat) (h : cellsWf s.mem.cells = true) :
    cellsWf (copyFromSlot s k slot).mem.cells = true := by
  simp +contextual [copyFromSlot, cellsWf_foldl, h]

theorem cellsWf_restoreData {s t : State} {k : Nat} (ht : restoreData s k = some t) (h : cellsWf s.mem.cells = true) :
    cellsWf t.mem.cells = true := by
  unfold restoreData at ht
  dsimp only at ht
  split at ht
  · split_ifs at ht
    cases ht
    exact cellsWf_copyFromSlot _ _ _ h
  · cases ht

theorem cellsWf_foldl_mem {α : Type} {f : Mem → α → Mem}
    (hf : ∀ m a, cellsWf m.cells = true → cellsWf (f m a).cells = true) (l : List α)
    (m : Mem) (h : cellsWf m.cells = true) : cellsWf (l.foldl f m).cells = true :=
  List.foldlRecOn (motive := fun m : Mem => cellsWf m.cells = true) _ _ h fun m hm x _ => hf m x hm

@[simp] theorem cellsWf_resumeHere (s : State) (k : Nat) (h : cellsWf s.mem.cells = true) :
    cellsWf (resumeHere s k).mem.cells = true := by
  unfold resumeHere
  dsimp only
  split
  · rw [changeCtx_mem, raise_mem, endHandling_mem]
    refine cellsWf_foldl_mem (fun m n hm => cellsWf_foldl_mem (fun m o => cellsWf_clearMem m _ _) _ _ hm) _ _ ?_
    simpa using h
  · refine cellsWf_startLaunch _ _ _ ?_
    rw [raise_mem, endHandling_mem]
    refine cellsWf_foldl_mem (fun m n hm => cellsWf_foldl_mem (fun m o => cellsWf_clearMem m _ _) _ _ hm) _ _ ?_
    simpa using h

@[simp] theorem cellsWf_tryDone (s : State) (k : Nat) (h : cellsWf s.mem.cells = true) :
    cellsWf (tryDone s k).mem.cells = true := by
  fun_cases tryDone <;> simp [h]

@[simp] theorem commitEpoch_mem (s : State) (k e : Nat) : (commitEpoch s k e).mem = s.mem := by
  simp [commitEpoch]

@[simp] theorem checkReady_mem (s : State) (k : Nat) : (checkReady s k).mem = s.mem := by
  fun_cases checkReady <;> simp

@[simp] theorem startMirror_cells (s : State) (k : Nat) (t : Twin) (v : Snapshot) :
    (startMirror s k t v).mem.cells = s.mem.cells := by
  simp [startMirror, foldl_cells]

@[simp] theorem nextMirror_cells (s : State) (k : Nat) : (nextMirror s k).mem.cells = s.mem.cells := by
  fun_cases nextMirror <;> simp

theorem reserveSlotPage_cells {part n : Nat} {e e' : State × List Nat} (h : reserveSlotPage part e n = some e') :
    e'.1.mem.cells = e.1.mem.cells := by
  unfold reserveSlotPage at h
  dsimp only at h
  split at h <;> cases h
  rfl

theorem reserveMirror_cells {s : State} {k : Nat} {t : Twin} {e : State × List (List Nat)} (h : reserveMirror s k t = some e) :
    e.1.mem.cells = s.mem.cells := by
  unfold reserveMirror at h
  dsimp only at h
  split_ifs at h
  · cases h; rfl
  · obtain ⟨d, hd, rfl⟩ := Option.map_eq_some_iff.1 h
    exact foldlM_some (P := fun e : State × List Nat => e.1.mem.cells = s.mem.cells)
      (fun a b c ha hc => (reserveSlotPage_cells hc).trans ha) _ rfl hd

@[simp] theorem pairUp_cells (s : State) (k incarnation : Nat) (t : Twin) : (pairUp s k incarnation t).mem.cells = s.mem.cells := by
  unfold pairUp
  split
  · rfl
  · next e =>
    have h1 := reserveMirror_cells e
    dsimp only
    split <;> simpa using h1

@[simp] theorem pairing_cells (s : State) (k incarnation : Nat) (attested : Option Nat) (t : Twin) :
    (pairing s k incarnation attested t).mem.cells = s.mem.cells := by
  fun_cases pairing <;> simp

@[simp] theorem confirm_cells (s : State) (k : Nat) (b : BeatCtx) : (confirm s k b).mem.cells = s.mem.cells := by
  fun_cases confirm <;> simp

@[simp] theorem beatOf_cells (node incarnation : Nat) (attested : Option Nat) (beats : List BeatCtx) (s : State) (k : Nat) :
    (beatOf node incarnation attested beats s k).mem.cells = s.mem.cells := by
  fun_cases beatOf <;> simp

/-! ### Live update -/

@[simp] theorem imageRejected_mem (s : State) (target check svn ctr : Nat) :
    (imageRejected s target check svn ctr).mem = s.mem := rfl

@[simp] theorem fwState_mem (s : State) (target state version cause : Nat) :
    (fwState s target state version cause).mem = s.mem := rfl

@[simp] theorem stageProgress_mem (s : State) (target old pos total : Nat) (first : Bool) :
    (stageProgress s target old pos total first).mem = s.mem := by
  simp [stageProgress]

@[simp] theorem verifyStaged_mem (s : State) (t : Nat) : (verifyStaged s t).1.mem = s.mem := by
  fun_cases verifyStaged <;> rfl

@[simp] theorem runImage_mem (s : State) (t : Nat) (v : Image) : (runImage s t v).mem = s.mem := rfl
@[simp] theorem rebootFrom_mem (s : State) (t : Nat) : (rebootFrom s t).mem = s.mem := rfl
@[simp] theorem rollBack_mem (s : State) (t cause : Nat) : (rollBack s t cause).mem = s.mem := rfl

@[simp] theorem raiseCounter_mem (s : State) (i v : Nat) : (raiseCounter s i v).mem = s.mem := by
  fun_cases raiseCounter <;> rfl

@[simp] theorem advanceCounters_mem (s : State) (t : Nat) (v : Image) : (advanceCounters s t v).mem = s.mem := by
  simp [advanceCounters]

@[simp] theorem wroteArea_mem (s : State) (a : Nat) : (wroteArea s a).mem = s.mem := rfl

@[simp] theorem commitImage_mem (s : State) (t : Nat) (v : Image) : (commitImage s t v).mem = s.mem := by
  simp [commitImage]

@[simp] theorem flashRefused_mem (s : State) (area cause : Nat) : (flashRefused s area cause).mem = s.mem := rfl

/-! ### Boot and resets -/

@[simp] theorem resetEngines_mem (s : State) : (resetEngines s).mem = s.mem := rfl

@[simp] theorem cellsWf_startRecovery (s : State) (cause : Nat) (h : cellsWf s.mem.cells = true) :
    cellsWf (startRecovery s cause).mem.cells = true := by
  simp +contextual [startRecovery, cellsWf_foldl, h]

@[simp] theorem cellsWf_perstReset (s : State) : cellsWf (perstReset s).mem.cells = true := rfl
@[simp] theorem bootStop_mem (s : State) (err : Nat) : (bootStop s err).mem = s.mem := rfl

@[simp] theorem bootTarget_mem (f : BootFinding) (s : State) (t : Nat) : (bootTarget f s t).mem = s.mem := by
  fun_cases bootTarget <;> rfl

@[simp] theorem bootRom_mem (f : BootFinding) (s : State) : (bootRom f s).mem = s.mem := by
  unfold bootRom
  dsimp only
  repeat' split
  all_goals simp

@[simp] theorem logTrip_mem (s : State) : (logTrip s).mem = s.mem := by
  fun_cases logTrip <;> rfl

@[simp] theorem bootKernel_mem (s : State) : (bootKernel s).mem = s.mem := by
  unfold bootKernel
  dsimp only
  refine (foldl_mem (fun s t => ?_) _ _).trans (foldl_mem (fun _ _ => raise_mem ..) _ _ |>.trans (logTrip_mem _))
  split <;> simp

@[simp] theorem trainJoin_mem (lanes : List (Nat × Nat × Nat × Bool)) (s : State) (j : Nat) :
    (trainJoin lanes s j).mem = s.mem := by
  unfold trainJoin
  dsimp only
  refine foldl_mem (fun s l => ?_) _ _
  split <;> simp

@[simp] theorem bootChain_mem (f : BootFinding) (s : State) : (bootChain f s).mem = s.mem := by
  simp [bootChain, foldl_mem]

@[simp] theorem bootBay_mem (bad : List Nat) (s : State) (b : Nat) : (bootBay bad s b).mem = s.mem := by
  fun_cases bootBay <;> rfl

@[simp] theorem bootClocks_mem (f : BootFinding) (s : State) : (bootClocks f s).mem = s.mem := by
  simp [bootClocks, foldl_mem]

@[simp] theorem cellsWf_remakeSram (s : State) (h : cellsWf s.mem.cells = true) :
    cellsWf (remakeSram s).mem.cells = true := cellsWf_filter _ _ h

@[simp] theorem cellsWf_selfTest (f : BootFinding) (s : State) (h : cellsWf s.mem.cells = true) :
    cellsWf (selfTest f s).mem.cells = true := by
  unfold selfTest
  dsimp only
  rw [mem_ite, progressRec_mem, ite_self]
  refine cellsWf_replaceUnplaced _ (cellsWf_foldl (fun t p => cellsWf_failCore t p _) _ _ (cellsWf_testData _ _ _ ?_))
  simp [h]

@[simp] theorem cellsWf_stageWork (f : BootFinding) (s : State) (stage : Nat) (h : cellsWf s.mem.cells = true) :
    cellsWf (stageWork f s stage).mem.cells = true := by
  fun_cases stageWork <;> simp [h]

@[simp] theorem nextStage_mem (s : State) (stage : Nat) : (nextStage s stage).mem = s.mem := by
  simp [nextStage]

@[simp] theorem cellsWf_recoverStep (f : BootFinding) (s : State) (h : cellsWf s.mem.cells = true) :
    cellsWf (recoverStep f s).mem.cells = true := by
  simp [recoverStep, h]

@[simp] theorem setI3c_mem (s : State) (a : Option Nat) : (setI3c s a).mem = s.mem := by
  fun_cases setI3c <;> rfl

/-! ### Control instructions -/

@[simp] theorem markRecord_mem (s : State) (k n ev id depth : Nat) (applied : Bool) :
    (markRecord s k n ev id depth applied).mem = s.mem := by
  fun_cases markRecord <;> rfl

/-! ### Records -/

@[simp] theorem outboxFullEvent_mem (s : State) : (outboxFullEvent s).mem = s.mem := by
  fun_cases outboxFullEvent <;> rfl

@[simp] theorem ringWrite_mem (s : State) (r : Rec) (rest : List Rec) : (ringWrite s r rest).mem = s.mem := rfl

/-! ### Preemption -/

@[simp] theorem cellsWf_unhalt (s : State) (k : Nat)
    (h : cellsWf s.mem.cells = true) : cellsWf (unhalt s k).mem.cells = true := by
  simp [unhalt, h]

/-! ### Observation -/

theorem tracePages_cells {s t : State} {n : Nat} (h : tracePages s n = some t) : t.mem.cells = s.mem.cells := by
  unfold tracePages at h
  refine foldlM_some (P := fun t : State => t.mem.cells = s.mem.cells) (fun a b c ha hc => ?_) _ rfl h
  split at hc <;> cases hc
  exact ha

/-! ### SPDM -/

@[simp] theorem spdmError_mem (s : State) (v : SpdmVia) (e : Nat) : (spdmError s v e).mem = s.mem := rfl
@[simp] theorem setPhase_mem (s : State) (v : SpdmVia) (p : Nat) : (setPhase s v p).mem = s.mem := rfl

@[simp] theorem attest_mem (s : State) (v : SpdmVia) : (attest s v).mem = s.mem := by
  fun_cases attest <;> rfl

/-! ### The host's registers -/

@[simp] theorem gives_mem (s : State) (v : Nat) : (gives s v).mem = s.mem := rfl
@[simp] theorem readLow_mem (s : State) (off v : Nat) : (readLow s off v).mem = s.mem := rfl
@[simp] theorem readProgPos_mem (s : State) : (readProgPos s).mem = s.mem := rfl
@[simp] theorem readLastSeq_mem (s : State) : (readLastSeq s).mem = s.mem := rfl

@[simp] theorem readReg_mem (s : State) (off : Nat) : (readReg s off).mem = s.mem := by
  fun_cases readReg <;> rfl

@[simp] theorem block_mem (s : State) (w : Nat) : (block s w).mem = s.mem := rfl
@[simp] theorem givesBytes_mem (s : State) (bs : List Byte) (poison : Bool) : (givesBytes s bs poison).mem = s.mem := rfl
@[simp] theorem allOnes_mem (s : State) (len : Nat) : (allOnes s len).mem = s.mem := rfl

@[simp] theorem readWindow_cells (s : State) (a len : Nat) (unc : Bool) : (readWindow s a len unc).mem.cells = s.mem.cells := by
  simp [readWindow]

@[simp] theorem writeWindow_mem (s : State) (w i v : Nat) : (writeWindow s w i v).mem = s.mem := by
  fun_cases writeWindow <;> rfl

@[simp] theorem writeMsix_mem (s : State) (vec i v : Nat) : (writeMsix s vec i v).mem = s.mem := by
  fun_cases writeMsix <;> rfl

@[simp] theorem writeBox_mem (s : State) (m i : Nat) (v : Word32) : (writeBox s m i v).mem = s.mem := by
  fun_cases writeBox <;> rfl

/-! ### Steps -/

@[simp] theorem cellsWf_pauseCtx (s : State) (k : Nat) (h : cellsWf s.mem.cells = true) :
    cellsWf (pauseCtx s k).mem.cells = true := by
  simp [pauseCtx, h]

@[simp] theorem cellsWf_pauseHere (s : State) (k n : Nat) (h : cellsWf s.mem.cells = true) :
    cellsWf (pauseHere s k n).mem.cells = true := by
  simp [pauseHere, h]

@[simp] theorem cellsWf_finishLaunch (s : State) (k : Nat) (h : cellsWf s.mem.cells = true) :
    cellsWf (finishLaunch s k).mem.cells = true := by
  simp [finishLaunch, h]

theorem cellsWf_rewind (s : State) (k n : Nat) (x : Core) (h : cellsWf s.mem.cells = true) :
    Yields (rewind s k n x) (fun t => cellsWf t.mem.cells = true) :=
  yields_then fun _ => yields_then fun _ => yields_bind (cellsWf_writeVas s k n _ h) fun _ h1 => yields_ok.2 (by simpa using h1)

@[simp] theorem spanReplay_mem (s : State) (k n : Nat) (x : Core) (unresolved : Bool) :
    (spanReplay s k n x unresolved).mem = s.mem := rfl

@[simp] theorem leaveSpan_mem (s : State) (k n : Nat) : (leaveSpan s k n).mem = s.mem := by
  simp [leaveSpan, foldl_mem]

theorem cellsWf_unresolvedEnd (s : State) (k n : Nat) (x : Core) (h : cellsWf s.mem.cells = true) :
    Yields (unresolvedEnd s k n x) (fun t => cellsWf t.mem.cells = true) := by
  refine yields_then fun r => yields_bind (Q := fun t => cellsWf t.mem.cells = true) ?_ fun t ht => yields_ok.2 (by simpa using ht)
  split
  · exact cellsWf_writeVas s k n _ h
  · exact yields_ok.2 h

@[simp] theorem watchesCommit_mem (s : State) (k : Nat) : (watchesCommit s k).mem = s.mem := by
  simp [watchesCommit, foldl_mem]

@[simp] theorem commitStep_mem (s : State) (k q : Nat) : (commitStep s k q).mem = s.mem := by
  simp [commitStep]

@[simp] theorem endEventStep_mem (s : State) (k n : Nat) : (endEventStep s k n).mem = s.mem := by
  simp [endEventStep]

@[simp] theorem stepCommit_mem (s : State) (k n q : Nat) (ckpt : Bool) : (stepCommit s k n q ckpt).mem = s.mem := by
  simp [stepCommit]

/-! ### What a message, a request and a packet do -/

/-- The body of a message leaves the bytes of memory in canonical form. -/
def ResultWf (r : State × Nat × List Byte) : Prop := cellsWf r.1.mem.cells = true

@[simp] theorem resultWf_deny {s : State} {st : Nat} : ResultWf (deny s st) ↔ cellsWf s.mem.cells = true := .rfl
@[simp] theorem resultWf_done {s : State} {r : List Byte} : ResultWf (done s r) ↔ cellsWf s.mem.cells = true := .rfl
@[simp] theorem resultWf_pair {s : State} {p : Nat × List Byte} : ResultWf (s, p) ↔ cellsWf s.mem.cells = true := .rfl

@[simp] theorem resultWf_onPart {s : State} {part : Nat} {ok : Bool} {f : PartSt → PartSt} :
    ResultWf (onPart s part ok f) ↔ cellsWf s.mem.cells = true := by
  rw [ResultWf, onPart_mem]

theorem resultWf_ite {c : Prop} [Decidable c] {a b : State × Nat × List Byte} (ha : ResultWf a)
    (hb : ResultWf b) : ResultWf (if c then a else b) := by
  split
  · exact ha
  · exact hb

theorem nextWf_message {s : State} {body : State → State × Nat × List Byte} (i : Instr) (t : MsgType) (hd : MsgHdr)
    (h : cellsWf s.mem.cells = true) (hb : ∀ u, cellsWf u.mem.cells = true → ResultWf (body u)) :
    NextWf (message i t hd s body) := by
  rcases message_cases i t hd s body with ⟨-, e⟩ | ⟨box, st, -, -, e⟩ | ⟨box, -, e⟩
  · rw [e]; exact nextWf_next.2 h
  · rw [e]; exact nextWf_next.2 (by simpa using h)
  · rw [e]; exact nextWf_next.2 (by simpa [ResultWf] using hb (untake s hd t) (by simpa using h))

theorem nextWf_wildOut {o : Out} (k : Nat) (b : Bool) (ho : NextWf o) : NextWf (wildOut k b o) := by
  unfold wildOut
  split
  · split <;> simp [ho _ rfl]
  · exact ho

theorem nextWf_pldm {s : State} (cmd code : Nat) (fields : List Nat) (h : cellsWf s.mem.cells = true) :
    NextWf (pldm s cmd code fields) := by
  fun_cases pldm <;> exact nextWf_next.2 h

theorem nextWf_request {s body : State} (v : SpdmVia) (phase : Nat) (h : cellsWf s.mem.cells = true)
    (hb : cellsWf body.mem.cells = true) :
    NextWf (request s v phase body) := by
  fun_cases request <;> simp [h, hb]

@[simp] theorem syncResult_mem (k n : Nat) (f : Flight) (waits : Bool) (r : State × Bool) :
    (syncResult k n f waits r).mem = r.1.mem := by
  fun_cases syncResult <;> rfl

theorem nextWf_ite {c : Prop} [Decidable c] {a b : Out} (ha : NextWf a) (hb : NextWf b) : NextWf (if c then a else b) := by
  split
  · exact ha
  · exact hb

theorem localTruss_mem (s : State) (k n opc : Nat) (f : Flight) (nm : Word) (waits : Bool) {act : State → State × Bool}
    (ha : ∀ t, (act t).1.mem = t.mem) : (localTruss s k n opc f nm waits act).mem = s.mem := by
  unfold localTruss
  split <;> simp [ha]

theorem cellsWf_roceAct {s : State} {p : RocePkt} {e : State × List RocePkt × Nat} (he : roceAct s p = some e)
    (h : cellsWf s.mem.cells = true) :
    cellsWf e.1.mem.cells = true := by
  unfold roceAct at he
  dsimp only at he
  split at he
  · split at he
    · split at he <;> cases he
      rw [setQp_mem]
      exact cellsWf_writeDpa _ _ _ _ (by simpa using h)
    · cases he
  · obtain ⟨d, -, rfl⟩ := Option.map_eq_some_iff.1 he
    simp [h]
  · cases he
    exact h

theorem reserveSlotPages_cells {part : Nat} {l : List Nat} {e e' : State × List Nat}
    (h : l.foldlM (reserveSlotPage part) e = some e') :
    e'.1.mem.cells = e.1.mem.cells :=
  foldlM_some (P := fun d : State × List Nat => d.1.mem.cells = e.1.mem.cells)
    (fun _ _ _ hd hc => (reserveSlotPage_cells hc).trans hd) _ rfl h

@[simp] theorem nextWf_ite_iff {c : Prop} [Decidable c] {a b : Out} :
    NextWf (if c then a else b) ↔ if c then NextWf a else NextWf b := by
  split <;> rfl

@[simp] theorem resultWf_ite_iff {c : Prop} [Decidable c] {a b : State × Nat × List Byte} :
    ResultWf (if c then a else b) ↔ if c then ResultWf a else ResultWf b := by
  split <;> rfl

/-! ### Every command -/

section Commands
variable {s : State} (h : cellsWf s.mem.cells = true)
include h

/-! #### Engines -/

@[simp] theorem nextWf_execEngineInstructionComplete (c : Nat) (e : Engine) (id : Nat) :
    NextWf (execEngineInstructionComplete c e id s) := by
  cases hw : coreInFlight s c e with
  | none => simpa only [execEngineInstructionComplete, hw] using nextWf_next.2 h
  | some kx =>
    obtain ⟨k, x⟩ := kx
    cases hf : flightAt x e id with
    | none => simpa only [execEngineInstructionComplete, hw, hf] using nextWf_next.2 h
    | some f =>
      by_cases hc : f.ready = false ∨ onChain s k c id = true
      · simpa only [execEngineInstructionComplete, hw, hf, if_pos hc] using nextWf_next.2 h
      · obtain ⟨hr, hc⟩ := not_or.1 hc
        obtain ⟨u, _, _, _, ⟨hu, -⟩, -, -, he⟩ :=
          engineComplete_answers hw hf (eq_true_of_ne_false hr) (eq_false_of_ne_true hc)
        rw [← exec_engineInstructionComplete, he]
        have hu : cellsWf u.mem.cells = true := by rwa [hu]
        split <;> simp [hu]

/-! #### Streams -/

@[simp] theorem nextWf_execXfer (c : Nat) (g : Stage) : NextWf (execXfer c g s) := by
  cases g
  · exact nextWf_issueTL _ _ _ _ h
  · refine nextWf_runStream _ _ _ h fun k x f => ?_
    exact yields_then fun _ => yields_then fun _ => yields_then fun _ => yields_ok.2 h

@[simp] theorem nextWf_execFetch (c : Nat) (g : Stage) : NextWf (execFetch c g s) := by
  cases g
  · exact nextWf_issueTL _ _ _ _ h
  · refine nextWf_runStream _ _ _ h fun k x f => ?_
    exact yields_ite (yields_ok.2 h) ((appendFetch_cells _ _ _ _).mono fun t ht => by rwa [ht])

@[simp] theorem nextWf_execFetchChunkIssue (c id : Nat) : NextWf (execFetchChunkIssue c id s) := by
  unfold execFetchChunkIssue
  split
  · exact nextWf_next.2 h
  · split
    · exact nextWf_next.2 h
    · split
      · exact nextWf_next.2 h
      · dsimp only
        split
        · refine nextWf_next.2 ?_
          rw [setFlightS_mem]
          split <;> simp [h]
        · refine nextWf_next.2 ?_
          rw [setFlightS_mem]
          split <;> simp [h]
        · exact nextWf_trapNow _ _ _ _ _ h

@[simp] theorem nextWf_execRidge (c : Nat) (g : Stage) : NextWf (execRidge c g s) := by
  cases g
  · exact nextWf_issueTL _ _ _ _ h
  · refine nextWf_runStream _ _ _ h fun k x f => ?_
    exact yields_then fun _ => yields_then fun _ => yields_then fun _ => yields_then fun _ => yields_then fun _ =>
      yields_then fun _ => yields_ok.2 h

@[simp] theorem nextWf_execSpar (c : Nat) (g : Stage) : NextWf (execSpar c g s) := by
  cases g
  · exact nextWf_issueTL _ _ _ _ h
  · refine nextWf_runStream _ _ _ h fun k x f => ?_
    refine yields_then fun _ => yields_ite (yields_error.2 trivial) (yields_ite (yields_ite (yields_error.2 trivial) (yields_ite
      (yields_ok.2 (by simp [h])) (yields_ok.2 (by simp [h])))) (yields_then fun _ => yields_ite (yields_ok.2 h) ?_))
    exact yields_bind (cellsWf_writeVa _ _ _ _ _ _ h) fun _ ht => yields_ok.2 (by simp [ht])

@[simp] theorem nextWf_execCancel (c : Nat) (g : Stage) : NextWf (execCancel c g s) := by
  cases g
  · exact nextWf_issueTL _ _ _ _ h
  · exact nextWf_runStream _ _ _ h fun k x f => yields_ok.2 (by simp [h])

@[simp] theorem nextWf_execFence (c : Nat) (g : Stage) : NextWf (execFence c g s) := by
  cases g
  · exact nextWf_issueTL _ _ _ _ h
  · refine nextWf_runStream _ _ _ h fun k x f => ?_
    exact yields_ite (yields_ok.2 h) (yields_ok.2 h)

@[simp] theorem nextWf_execYealm (c : Nat) (g : Stage) : NextWf (execYealm c g s) := by
  cases g
  · exact nextWf_issueTL _ _ _ _ h
  · refine nextWf_runStream _ _ _ h fun k x f => ?_
    exact cellsWf_yealmRun _ _ _ _ h

@[simp] theorem nextWf_execBurstStart (c id : Nat) (rd : ReadErr) : NextWf (execBurstStart c id rd s) := by
  unfold execBurstStart
  dsimp only
  repeat' split
  all_goals simp [h]

@[simp] theorem nextWf_execEngineInstructionStart (c : Nat) (e : Engine) : NextWf (execEngineInstructionStart c e s) := by
  unfold execEngineInstructionStart
  split
  · exact nextWf_next.2 h
  · next k x _ =>
    split
    · exact nextWf_next.2 h
    · refine nextWf_ite (nextWf_next.2 h) ?_
      extract_lets f0 x1 x2 s1
      have h1 : cellsWf s1.mem.cells = true := h
      have hb : Yields (do let f ← capture s1 k c x2 f0; begun s1 k c e f : Except Trap State)
          (fun t => cellsWf t.mem.cells = true) :=
        yields_then fun f => cellsWf_begun s1 k c e f h1
      split
      · next ht => exact nextWf_next.2 (hb _ ht)
      · exact nextWf_trapNow _ _ _ _ _ h1

/-! #### Synchronization -/

@[simp] theorem nextWf_execTrussArrive (c : Nat) (g : Stage) : NextWf (execTrussArrive c g s) := by
  cases g
  · exact nextWf_issueTL _ _ _ _ h
  · refine nextWf_runStream _ _ _ h fun k x f => ?_
    exact yields_then fun _ => yields_ite (yields_ite (yields_ok.2 (by simp [h])) (yields_ok.2 (by simp [h])))
      (yields_ok.2 (by rwa [localTruss_mem _ _ _ _ _ _ _ (fun t => arriveAt_mem ..)]))

@[simp] theorem nextWf_execTrussWait (c : Nat) (g : Stage) : NextWf (execTrussWait c g s) := by
  cases g
  · exact nextWf_issueTL _ _ _ _ h
  · refine nextWf_runStream _ _ _ h fun k x f => ?_
    exact yields_then fun _ => yields_ite (yields_error.2 trivial)
      (yields_ok.2 (by rwa [localTruss_mem _ _ _ _ _ _ _ (fun t => trussDo_mem ..)]))

@[simp] theorem nextWf_execTrussArwt (c : Nat) (g : Stage) : NextWf (execTrussArwt c g s) := by
  cases g
  · exact nextWf_issueTL _ _ _ _ h
  · refine nextWf_runStream _ _ _ h fun k x f => ?_
    exact yields_then fun _ => yields_ite (yields_error.2 trivial)
      (yields_ok.2 (by rwa [localTruss_mem _ _ _ _ _ _ _ (fun t => trussDo_mem ..)]))

/-! #### The steps of a collective -/

@[simp] theorem nextWf_execCollAllreduce (c : Nat) (g : Stage) : NextWf (execCollAllreduce c g s) := by
  cases g
  · exact nextWf_issueTL _ _ _ _ h
  · exact nextWf_runStream _ _ _ h fun _ _ _ => cellsWf_collStart _ _ _ _ _ h

@[simp] theorem nextWf_execCollRedscat (c : Nat) (g : Stage) : NextWf (execCollRedscat c g s) := by
  cases g
  · exact nextWf_issueTL _ _ _ _ h
  · exact nextWf_runStream _ _ _ h fun _ _ _ => cellsWf_collStart _ _ _ _ _ h

@[simp] theorem nextWf_execCollAllgather (c : Nat) (g : Stage) : NextWf (execCollAllgather c g s) := by
  cases g
  · exact nextWf_issueTL _ _ _ _ h
  · exact nextWf_runStream _ _ _ h fun _ _ _ => cellsWf_collStart _ _ _ _ _ h

@[simp] theorem nextWf_execCollAlltoall (c : Nat) (g : Stage) : NextWf (execCollAlltoall c g s) := by
  cases g
  · exact nextWf_issueTL _ _ _ _ h
  · exact nextWf_runStream _ _ _ h fun _ _ _ => cellsWf_collStart _ _ _ _ _ h

@[simp] theorem nextWf_execCollBcast (c : Nat) (g : Stage) : NextWf (execCollBcast c g s) := by
  cases g
  · exact nextWf_issueTL _ _ _ _ h
  · exact nextWf_runStream _ _ _ h fun _ _ _ => cellsWf_collStart _ _ _ _ _ h

@[simp] theorem nextWf_execCollReduce (c : Nat) (g : Stage) : NextWf (execCollReduce c g s) := by
  cases g
  · exact nextWf_issueTL _ _ _ _ h
  · exact nextWf_runStream _ _ _ h fun _ _ _ => cellsWf_collStart _ _ _ _ _ h

@[simp] theorem nextWf_execChunkCheck (c id chunk : Nat) : NextWf (execChunkCheck c id chunk s) := by
  unfold execChunkCheck
  dsimp only
  repeat' split
  all_goals simp [raiseTrap_mem, h]

/-! #### Furlong -/

@[simp] theorem nextWf_execPeerLoss (peer : Nat) : NextWf (execPeerLoss peer s) := by
  fun_cases execPeerLoss <;> simp [h]

@[simp] theorem nextWf_execFurlongHelloRetry (peer : Nat) : NextWf (execFurlongHelloRetry peer s) := by
  fun_cases execFurlongHelloRetry <;> simp [h]

@[simp] theorem nextWf_execSessionOpenTimeout (peer : Nat) : NextWf (execSessionOpenTimeout peer s) := by
  fun_cases execSessionOpenTimeout <;> simp [h]

@[simp] theorem nextWf_execFurlongHelloReceive (k : Packet) : NextWf (execFurlongHelloReceive k s) := by
  fun_cases execFurlongHelloReceive <;> simp [h]

@[simp] theorem nextWf_execSackReceive (hd : FHdr) (b : PacketBody) : NextWf (execSackReceive hd b s) := by
  fun_cases execSackReceive <;> simp [h]

@[simp] theorem nextWf_execSackTimer (peer : Nat) : NextWf (execSackTimer peer s) := by
  fun_cases execSackTimer <;> simp [h]

@[simp] theorem nextWf_execRtoExpiry (peer psn : Nat) : NextWf (execRtoExpiry peer psn s) := nextWf_next.2 h

@[simp] theorem nextWf_execPathSuspendExpiry (peer path : Nat) : NextWf (execPathSuspendExpiry peer path s) := by
  fun_cases execPathSuspendExpiry <;> simp [h]

@[simp] theorem nextWf_execCongestionInterval (peer : Nat) : NextWf (execCongestionInterval peer s) := by
  fun_cases execCongestionInterval <;> simp [h]

@[simp] theorem nextWf_execPortTrained (port : Nat) (offer : List Nat × Bool) : NextWf (execPortTrained port offer s) := by
  fun_cases execPortTrained <;> simp [h]

@[simp] theorem nextWf_execPortLinkLoss (port cause : Nat) : NextWf (execPortLinkLoss port cause s) := by
  fun_cases execPortLinkLoss <;> simp [h]

@[simp] theorem nextWf_execPortAnRetry (port : Nat) (rates : List Nat) (trained : Bool) :
    NextWf (execPortAnRetry port rates trained s) := by
  fun_cases execPortAnRetry <;> simp [h]

@[simp] theorem nextWf_execArp (port : Nat) (a : ArpMsg) : NextWf (execArp port a s) := by
  fun_cases execArp <;> simp [h]

@[simp] theorem nextWf_execRocev2Receive (k : RocePkt) : NextWf (execRocev2Receive k s) := by
  unfold execRocev2Receive
  refine nextWf_ite (nextWf_next.2 h) ?_
  extract_lets s1 x
  have h1 : cellsWf s1.mem.cells = true := by simp [s1, h]
  split
  · exact nextWf_next.2 h1
  · exact nextWf_next.2 (by simp [h1])
  · exact nextWf_next.2 h1
  · exact nextWf_next.2 (cellsWf_roceResp _ _ h1)
  · refine nextWf_ite ?_ (nextWf_ite (nextWf_next.2 (by simp [h1])) (nextWf_next.2 (by simp [h1])))
    split
    · next e =>
      have h2 := cellsWf_roceAct e h1
      exact nextWf_next.2 (by simp [h2])
    · exact nextWf_next.2 (by simp [h1])

/-! #### Placement -/

@[simp] theorem nextWf_execCoreLogicFault (p : Nat) : NextWf (execCoreLogicFault p s) := nextWf_next.2 (by simp [h])

@[simp] theorem nextWf_execCoreReverify (p : Nat) (pass : Bool) : NextWf (execCoreReverify p pass s) := by
  simp [execCoreReverify, h]

@[simp] theorem nextWf_execShadowQuantumExpiry (p : Nat) : NextWf (execShadowQuantumExpiry p s) := by
  fun_cases execShadowQuantumExpiry <;> simp [h]

@[simp] theorem nextWf_execShadowEarlySwitch (p : Nat) : NextWf (execShadowEarlySwitch p s) := by
  fun_cases execShadowEarlySwitch <;> simp [h]

@[simp] theorem nextWf_execPatrolTestStart : NextWf (execPatrolTestStart s) := by
  unfold execPatrolTestStart
  dsimp only
  repeat' split
  all_goals simp [h]

@[simp] theorem nextWf_execWatchdogTest : NextWf (execWatchdogTest s) := by
  unfold execWatchdogTest
  exact nextWf_next.2 (by rwa [foldl_mem watchCtx_mem])

/-! #### Memory services -/

@[simp] theorem nextWf_execRegulatorRefill : NextWf (execRegulatorRefill s) := by
  fun_cases execRegulatorRefill <;> simp [h]

@[simp] theorem nextWf_execPatrolScrub (rd : ReadErr) : NextWf (execPatrolScrub rd s) := nextWf_next.2 (by simp [h])

@[simp] theorem nextWf_execHbmRowSpare (chan row : Nat) : NextWf (execHbmRowSpare chan row s) := by
  simp [execHbmRowSpare, h]

@[simp] theorem nextWf_execHbmPageRetire (page : Nat) : NextWf (execHbmPageRetire page s) := by
  simp [execHbmPageRetire, h]

@[simp] theorem nextWf_execHbmPostPackageRepair (chans : List Nat) :
    NextWf (execHbmPostPackageRepair chans s) := nextWf_next.2 (by rwa [foldl_cells repairChan_cells])

@[simp] theorem nextWf_execThatchSliceRetire (slice : Nat) : NextWf (execThatchSliceRetire slice s) := by
  have hr : ∀ (f : Nat → Nat) (g : Nat → Option Nat) (s : State),
      ((List.range 8).foldl (fun t i => remap t (f i) (g i)) s).mem = s.mem :=
    fun f g => foldl_mem (fun t i => remap_mem t (f i) (g i)) _
  unfold execThatchSliceRetire
  split
  · exact nextWf_next.2 h
  · have h0 : cellsWf (if sliceMode s.mem slice = .cache then cacheOff s slice else giveBack s slice).mem.cells = true := by
      simp [h]
    extract_lets old s0 ps ks fin ev
    have hfin : ∀ t, cellsWf t.mem.cells = true → cellsWf (fin t).mem.cells = true := fun t ht => by simpa [fin] using ht
    split
    · exact nextWf_next.2 (by rw [capacityEvent_mem, raise_mem]; exact hfin _ h0)
    · split
      · refine nextWf_next.2 ?_
        rw [capacityEvent_mem, raise_mem, repairProgress_mem]
        refine hfin _ ?_
        rw [hr]
        exact cellsWf_copyDpa _ _ _ _ _ (cellsWf_giveBack _ _ h0)
      · refine nextWf_next.2 ?_
        rw [capacityEvent_mem, foldl_mem (fun _ _ => raise_mem ..)]
        refine hfin _ ?_
        rwa [hr]

/-! #### Power -/

@[simp] theorem nextWf_execFrequencyStep (b : Nat) : NextWf (execFrequencyStep b s) := by
  fun_cases execFrequencyStep <;> simp [h]

@[simp] theorem nextWf_execMuxSwitch (b : Nat) : NextWf (execMuxSwitch b s) := by
  fun_cases execMuxSwitch <;> simp [h]

@[simp] theorem nextWf_execPllUnlock (b pll : Nat) : NextWf (execPllUnlock b pll s) := by
  simp [execPllUnlock, h]

@[simp] theorem nextWf_execDroopDetect (b : Nat) : NextWf (execDroopDetect b s) := by
  fun_cases execDroopDetect <;> simp [h]

@[simp] theorem nextWf_execDroopClear (b : Nat) : NextWf (execDroopClear b s) := by
  fun_cases execDroopClear <;> simp [h]

@[simp] theorem nextWf_execVoltageLowerHoldExpiry (b : Nat) : NextWf (execVoltageLowerHoldExpiry b s) := by
  fun_cases execVoltageLowerHoldExpiry <;> simp [h]

@[simp] theorem nextWf_execMarginMonitorRead (b margin : Nat) : NextWf (execMarginMonitorRead b margin s) := by
  fun_cases execMarginMonitorRead <;> simp [h]

@[simp] theorem nextWf_execPatrolTestDone (pass : Bool) (sig : Word) (margin : Nat) :
    NextWf (execPatrolTestDone pass sig margin s) := by
  fun_cases execPatrolTestDone <;> simp [h]

@[simp] theorem nextWf_execFastLoop (raw : List Nat) (uncore : Nat) :
    NextWf (execFastLoop raw uncore s) := nextWf_next.2 (by simp [h])

@[simp] theorem nextWf_execSlowLoop (measured : List (Option Nat)) : NextWf (execSlowLoop measured s) := by
  simp [execSlowLoop, foldl_mem, h]

@[simp] theorem nextWf_execEnergyAttribution (cores grains : List (Nat × Nat)) (rest : Nat) :
    NextWf (execEnergyAttribution cores grains rest s) := by
  simp [execEnergyAttribution, foldl_mem, h]

@[simp] theorem nextWf_execLostCycleUpdate (delivered : List Nat) : NextWf (execLostCycleUpdate delivered s) := nextWf_next.2 h

@[simp] theorem nextWf_execBayClockStop (b : Nat) : NextWf (execBayClockStop b s) := by
  fun_cases execBayClockStop <;> simp [h]

@[simp] theorem nextWf_execThermalSample (dies hbm : List ℤ) : NextWf (execThermalSample dies hbm s) := by
  simp [execThermalSample, foldl_cells, h]

@[simp] theorem nextWf_execThermalEmergency (sensor : Nat) (temp : ℤ) : NextWf (execThermalEmergency sensor temp s) := by
  simp [execThermalEmergency, h]

@[simp] theorem nextWf_execThermalEmergencyRelease : NextWf (execThermalEmergencyRelease s) := by
  fun_cases execThermalEmergencyRelease <;> simp [h]

@[simp] theorem nextWf_execThermalTrip (sensor : Nat) (temp : ℤ) : NextWf (execThermalTrip sensor temp s) := by
  simp [execThermalTrip, h]

@[simp] theorem nextWf_execHbmThrottle (stack : Nat) (temp : ℤ) : NextWf (execHbmThrottle stack temp s) := by
  simp [execHbmThrottle, h]

@[simp] theorem nextWf_execFastThrottle : NextWf (execFastThrottle s) := by
  simp [execFastThrottle, h]

@[simp] theorem nextWf_execFastThrottleRelease : NextWf (execFastThrottleRelease s) := by
  fun_cases execFastThrottleRelease <;> simp [h]

@[simp] theorem nextWf_execPmuFallback (missed : Nat) : NextWf (execPmuFallback missed s) := by
  simp [execPmuFallback, h]

@[simp] theorem nextWf_execPmuResume : NextWf (execPmuResume s) := by
  fun_cases execPmuResume <;> simp [h]

@[simp] theorem nextWf_execPmbusAlert : NextWf (execPmbusAlert s) := nextWf_next.2 h

/-! #### Time -/

@[simp] theorem nextWf_execPtpSyncReceive (a : PtpArrival) (rate : ℤ) : NextWf (execPtpSyncReceive a rate s) := by
  fun_cases execPtpSyncReceive <;> simp [h]

@[simp] theorem nextWf_execPtpSyncTimeout : NextWf (execPtpSyncTimeout s) := by
  fun_cases execPtpSyncTimeout <;> simp [h]

@[simp] theorem nextWf_execPpsIn : NextWf (execPpsIn s) := by
  fun_cases execPpsIn <;> simp [h]

@[simp] theorem nextWf_execPpsOut : NextWf (execPpsOut s) := by
  fun_cases execPpsOut <;> simp [h]

/-! #### The Chain -/

@[simp] theorem nextWf_execMarginReport (j : Nat) (up : Bool) (lanes : List (Nat × Nat × Bool)) :
    NextWf (execMarginReport j up lanes s) := by
  fun_cases execMarginReport <;> simp [h]

@[simp] theorem nextWf_execLaneDue (j : Nat) (up : Bool) (lane : Nat) : NextWf (execLaneDue j up lane s) := by
  fun_cases execLaneDue <;> simp [h]

@[simp] theorem nextWf_execSwap (j : Nat) (up : Bool) (lane spare : Nat) : NextWf (execSwap j up lane spare s) := by
  fun_cases execSwap <;> simp [h]

@[simp] theorem nextWf_execLaneSwitch (j : Nat) (up : Bool) : NextWf (execLaneSwitch j up s) := by
  unfold execLaneSwitch
  dsimp only
  split
  · exact nextWf_next.2 h
  · exact nextWf_next.2 (by rwa [foldl_mem (fun s w => switchLane_mem s j up w)])

@[simp] theorem nextWf_execFlitReceive (j g : Nat) (up : Bool) (d : FlitData) (l : FlitLink) :
    NextWf (execFlitReceive j g up d l s) := by
  fun_cases execFlitReceive <;> simp [h]

@[simp] theorem nextWf_execNakReceive (j g : Nat) (up : Bool) (ack : Nat) : NextWf (execNakReceive j g up ack s) := by
  fun_cases execNakReceive <;> simp [h]

@[simp] theorem nextWf_execReplayTimeout (j g : Nat) (up : Bool) : NextWf (execReplayTimeout j g up s) := by
  fun_cases execReplayTimeout <;> simp [h]

@[simp] theorem nextWf_execChainGroupRemoved (j g : Nat) : NextWf (execChainGroupRemoved j g s) := by
  unfold execChainGroupRemoved
  dsimp only
  repeat' split
  all_goals simp [foldl_cells, h]

/-! #### Messages -/

@[simp] theorem nextWf_execHello (hd : MsgHdr) (outboxAddr threshold : Nat) (rsv : Bool) :
    NextWf (execHello hd outboxAddr threshold rsv s) := by
  unfold execHello
  dsimp only
  repeat' split
  all_goals simp [h]

@[simp] theorem nextWf_execHostAlive (hd : MsgHdr) (timeoutS : Nat) (rsv : Bool) : NextWf (execHostAlive hd timeoutS rsv s) :=
  nextWf_message _ _ _ h fun _ hu => by simp [hu]

@[simp] theorem nextWf_execStatus (hd : MsgHdr) : NextWf (execStatus hd s) := nextWf_message _ _ _ h fun _ hu => hu

@[simp] theorem nextWf_execContextList (hd : MsgHdr) : NextWf (execContextList hd s) := nextWf_message _ _ _ h fun _ hu => hu

@[simp] theorem nextWf_execCapacity (hd : MsgHdr) (hostAddr : Nat) (rsv : Bool) : NextWf (execCapacity hd hostAddr rsv s) :=
  nextWf_message _ _ _ h fun _ hu => by simp [hu]

/-! #### Packets sent -/

@[simp] theorem nextWf_execPacketSend (peer : Nat) : NextWf (execPacketSend peer s) := by
  unfold execPacketSend
  dsimp only
  repeat' split
  all_goals simp [h]

/-! #### Contexts -/

@[simp] theorem nextWf_execContextCreate (hd : MsgHdr) (part mbx hostLoss route job manager watchdog : Nat) (rsv : Bool) :
    NextWf (execContextCreate hd part mbx hostLoss route job manager watchdog rsv s) := by
  refine nextWf_message _ _ _ h fun u hu => ?_
  split
  · exact hu
  · refine resultWf_ite hu (resultWf_ite hu (resultWf_ite hu ?_))
    extract_lets x s0
    split
    · exact hu
    · next e => exact cellsWf_imagesToThatch _ _ _ (cellsWf_reserveHomes e hu)

@[simp] theorem nextWf_execContextDestroy (hd : MsgHdr) : NextWf (execContextDestroy hd s) :=
  nextWf_message _ _ _ h fun _ hu => by simp [hu]

@[simp] theorem nextWf_execContextPolicy (hd : MsgHdr) (hostLoss route manager : Nat) (rsv : Bool) :
    NextWf (execContextPolicy hd hostLoss route manager rsv s) :=
  nextWf_message _ _ _ h fun _ hu => by simp [hu]

@[simp] theorem nextWf_execContextStop (hd : MsgHdr) : NextWf (execContextStop hd s) :=
  nextWf_message _ _ _ h fun _ hu => by simp [hu]

@[simp] theorem nextWf_execContextResume (hd : MsgHdr) : NextWf (execContextResume hd s) :=
  nextWf_message _ _ _ h fun _ hu => by simp [hu]

@[simp] theorem nextWf_execContextEnergy (hd : MsgHdr) : NextWf (execContextEnergy hd s) := nextWf_message _ _ _ h fun _ hu => hu

@[simp] theorem nextWf_execLaunch (hd : MsgHdr) (entries : List LaunchEntry) (rsv : Bool) :
    NextWf (execLaunch hd entries rsv s) := by
  refine nextWf_wildOut _ _ (nextWf_message _ _ _ h fun u hu => ?_)
  dsimp only
  repeat' split
  all_goals simp [hu]

@[simp] theorem nextWf_execNumericPolicy (hd : MsgHdr) (p : NumericPolicy) : NextWf (execNumericPolicy hd p s) :=
  nextWf_message _ _ _ h fun _ hu => by simp [hu]

@[simp] theorem nextWf_execNumericWatch (hd : MsgHdr) (slot threshold arm : Nat) (rsv : Bool) :
    NextWf (execNumericWatch hd slot threshold arm rsv s) :=
  nextWf_message _ _ _ h fun _ hu => by simp [hu]

@[simp] theorem nextWf_execWatchdogSet (hd : MsgHdr) (periodMs : Nat) (rsv : Bool) :
    NextWf (execWatchdogSet hd periodMs rsv s) :=
  nextWf_message _ _ _ h fun _ hu => by simp [hu]

@[simp] theorem nextWf_execHostAbsenceTest : NextWf (execHostAbsenceTest s) := by
  unfold execHostAbsenceTest
  split
  · exact nextWf_next.2 h
  · exact nextWf_next.2 (cellsWf_foldl cellsWf_absentCtx _ _ h)

/-! #### Messages about memory -/

@[simp] theorem nextWf_execMemAlloc (hd : MsgHdr) (va size kind page : Nat) (perm : BitVec 8) (rsv : Bool) :
    NextWf (execMemAlloc hd va size kind page perm rsv s) := by
  refine nextWf_message _ _ _ h fun u hu => ?_
  refine resultWf_ite hu (resultWf_ite hu (resultWf_ite hu ?_))
  extract_lets vas
  split
  · refine resultWf_ite hu ?_
    split
    · next e =>
      exact foldlM_some (P := fun s : State => cellsWf s.mem.cells = true)
        (fun _ _ _ hs ht => cellsWf_allocHbm ht hs) _ hu e
    · exact hu
  · split
    · next e =>
      exact foldlM_some (P := fun s : State => cellsWf s.mem.cells = true)
        (fun _ _ _ hs ht => cellsWf_allocThatch ht hs) _ hu e
    · exact hu

@[simp] theorem nextWf_execMemFree (hd : MsgHdr) (va size : Nat) : NextWf (execMemFree hd va size s) :=
  nextWf_message _ _ _ h fun _ hu => by simp [hu]

@[simp] theorem nextWf_execMemWrite (hd : MsgHdr) (va size _hostAddr : Nat) (data : List Byte) :
    NextWf (execMemWrite hd va size _hostAddr data s) := by
  refine nextWf_message _ _ _ h fun u hu => ?_
  dsimp only
  split
  · exact hu
  · split
    · exact hu
    · exact cellsWf_foldl (fun s v hs => cellsWf_writePage hs) _ _ (by simpa using hu)

@[simp] theorem nextWf_execMemRead (hd : MsgHdr) (va size hostAddr : Nat) : NextWf (execMemRead hd va size hostAddr s) := by
  refine nextWf_message _ _ _ h fun u hu => ?_
  refine resultWf_ite hu (resultWf_done.2 ?_)
  rw [hostWrite_mem, foldl_mem (fun s g => notePoison_mem s (64 * g)), touchPages_cells]
  exact hu

@[simp] theorem nextWf_execTrussCreate (hd : MsgHdr) (vtid mode home limit participants : Nat) (fwd : List FwdEntry)
    (members : List Member) (rsv : Bool) :
    NextWf (execTrussCreate hd vtid mode home limit participants fwd members rsv s) := by
  unfold execTrussCreate
  refine nextWf_ite (nextWf_next.2 h) (nextWf_message _ _ _ h fun u hu => ?_)
  dsimp only
  repeat' split
  all_goals exact hu

@[simp] theorem nextWf_execTrussDestroy (hd : MsgHdr) (vtid : Nat) (rsv : Bool) : NextWf (execTrussDestroy hd vtid rsv s) :=
  nextWf_message _ _ _ h fun _ hu => by simp [hu]

@[simp] theorem nextWf_execRegionCreate (hd : MsgHdr) (key : Nat) (perm : BitVec 8) (base length : Nat) (rsv : Bool) :
    NextWf (execRegionCreate hd key perm base length rsv s) := by
  unfold execRegionCreate
  refine nextWf_ite (nextWf_next.2 h) (nextWf_message _ _ _ h fun u hu => ?_)
  dsimp only
  repeat' split
  all_goals exact hu

@[simp] theorem nextWf_execRegionDestroy (hd : MsgHdr) (key : Nat) (rsv : Bool) : NextWf (execRegionDestroy hd key rsv s) :=
  nextWf_message _ _ _ h fun _ hu => by simp [hu]

@[simp] theorem nextWf_execPartitionSet (hd : MsgHdr) (part quota : List Nat) : NextWf (execPartitionSet hd part quota s) :=
  nextWf_message _ _ _ h fun _ hu => by simp [hu]

@[simp] theorem nextWf_execSliceMode (hd : MsgHdr) (bd slice mode : Nat) (rsv : Bool) :
    NextWf (execSliceMode hd bd slice mode rsv s) := by
  refine nextWf_message _ _ _ h fun u hu => ?_
  refine resultWf_ite hu (resultWf_ite hu ?_)
  have h1 := cellsWf_giveBack u (44 * bd + slice) hu
  extract_lets s1
  split
  · simp [s1, h1]
  · exact resultWf_ite h1 (resultWf_ite hu (cellsWf_clearMem _ _ _ h1))

@[simp] theorem nextWf_execSchedSet (hd : MsgHdr) (part sliceMs quantumUs : Nat) (rsv : Bool) :
    NextWf (execSchedSet hd part sliceMs quantumUs rsv s) :=
  nextWf_message _ _ _ h fun _ hu => by simp [hu]

@[simp] theorem nextWf_execFixedFreq (hd : MsgHdr) (part on : Nat) (rsv : Bool) : NextWf (execFixedFreq hd part on rsv s) :=
  nextWf_message _ _ _ h fun _ hu => by simp [hu]

@[simp] theorem nextWf_execOppointSet (hd : MsgHdr) (part : Nat) (freq : List Nat) (rsv : Bool) :
    NextWf (execOppointSet hd part freq rsv s) :=
  nextWf_message _ _ _ h fun _ hu => by simp [hu]

@[simp] theorem nextWf_execPowerLimit (hd : MsgHdr) (watts : Nat) (rsv : Bool) : NextWf (execPowerLimit hd watts rsv s) :=
  nextWf_message _ _ _ h fun _ hu => by simp [hu]

@[simp] theorem nextWf_execBudgetSet (hd : MsgHdr) (ctx hbm network : Nat) (rsv : Bool) :
    NextWf (execBudgetSet hd ctx hbm network rsv s) :=
  nextWf_message _ _ _ h fun _ hu => by simp [hu]

@[simp] theorem nextWf_execTimeSource (hd : MsgHdr) (source profile port : Nat) (rsv : Bool) :
    NextWf (execTimeSource hd source profile port rsv s) :=
  nextWf_message _ _ _ h fun _ hu => by simp [hu]

/-! #### Messages about the network -/

@[simp] theorem nextWf_execPortConfig (hd : MsgHdr) (octet mode : Nat) (mtu : List Nat) (rsv : Bool) :
    NextWf (execPortConfig hd octet mode mtu rsv s) := by
  refine nextWf_message _ _ _ h fun u hu => ?_
  refine resultWf_ite hu (resultWf_ite hu (resultWf_done.2 ?_))
  rw [foldl_mem (fun s p => setPort_mem ..)]
  split
  · exact hu
  · rwa [foldl_mem retrain_mem]

@[simp] theorem nextWf_execNodeTable (hd : MsgHdr) (job : Nat) (nodes : List (Nat × Nat)) :
    NextWf (execNodeTable hd job nodes s) :=
  nextWf_message _ _ _ h fun _ hu => by simp [hu]

@[simp] theorem nextWf_execManagerSet (hd : MsgHdr) (entries : List (Nat × Nat)) (rsv : Bool) :
    NextWf (execManagerSet hd entries rsv s) :=
  nextWf_message _ _ _ h fun _ hu => by simp [hu]

@[simp] theorem nextWf_execNetIdentity (hd : MsgHdr) (n : NetIdentity) : NextWf (execNetIdentity hd n s) :=
  nextWf_message _ _ _ h fun _ hu => by simp [hu]

@[simp] theorem nextWf_execGridSet (hd : MsgHdr) (naxes : Nat) (extent nodes : List Nat) (rsv : Bool) :
    NextWf (execGridSet hd naxes extent nodes rsv s) :=
  nextWf_message _ _ _ h fun _ hu => by simp [hu]

@[simp] theorem nextWf_execGroupCreate (hd : MsgHdr) (gid alg fanin members : Nat) (block : List Nat) (statusPtr : Nat)
    (nodes : List Nat) (rsv : Bool) :
    NextWf (execGroupCreate hd gid alg fanin members block statusPtr nodes rsv s) := by
  unfold execGroupCreate
  refine nextWf_ite (nextWf_next.2 h) (nextWf_message _ _ _ h fun u hu => ?_)
  dsimp only
  repeat' split
  all_goals exact hu

@[simp] theorem nextWf_execGroupDestroy (hd : MsgHdr) (gid : Nat) (rsv : Bool) : NextWf (execGroupDestroy hd gid rsv s) :=
  nextWf_message _ _ _ h fun _ hu => by simp [hu]

@[simp] theorem nextWf_execStorageConnect (hd : MsgHdr) (ctrl family svcid queues depth addr : Nat) (subnqn : List Byte)
    (rsv : Bool) (namespaces : Option (List Nat)) :
    NextWf (execStorageConnect hd ctrl family svcid queues depth addr subnqn rsv namespaces s) :=
  nextWf_message _ _ _ h fun _ hu => by split <;> simp [foldl_mem, hu]

@[simp] theorem nextWf_execStorageRead (hd : MsgHdr) (ctrl nsid slba nlb va : Nat) (truss phase : Word) (rsv : Bool) :
    NextWf (execStorageRead hd ctrl nsid slba nlb va truss phase rsv s) := by
  unfold execStorageRead
  refine nextWf_message _ _ _ h fun u hu => ?_
  dsimp only
  repeat' split
  all_goals simp [hu]

@[simp] theorem nextWf_execStorageWrite (hd : MsgHdr) (ctrl nsid slba nlb va : Nat) (truss phase : Word) (rsv : Bool) :
    NextWf (execStorageWrite hd ctrl nsid slba nlb va truss phase rsv s) := by
  unfold execStorageWrite
  refine nextWf_message _ _ _ h fun u hu => ?_
  dsimp only
  repeat' split
  all_goals simp [hu]

@[simp] theorem nextWf_execStorageDone (ctx seq nvmeStatus blocks : Nat) :
    NextWf (execStorageDone ctx seq nvmeStatus blocks s) := by
  unfold execStorageDone
  dsimp only
  repeat' split
  all_goals simp [h]

/-! #### Restarts -/

@[simp] theorem nextWf_execJobHalt (ctx : Nat) : NextWf (execJobHalt ctx s) := by
  fun_cases execJobHalt <;> simp [h]

@[simp] theorem nextWf_execJobHaltReceive (job epoch origin cause sender : Nat) :
    NextWf (execJobHaltReceive job epoch origin cause sender s) := by
  fun_cases execJobHaltReceive <;> simp [h]

@[simp] theorem nextWf_execHaltComplete (ctx : Nat) : NextWf (execHaltComplete ctx s) := by
  fun_cases execHaltComplete <;> simp [h]

@[simp] theorem nextWf_execHaltAckReceive (job sender committed : Nat) (ready : Option Nat) (absent : List Nat) :
    NextWf (execHaltAckReceive job sender committed ready absent s) := by
  fun_cases execHaltAckReceive <;> simp [h]

@[simp] theorem nextWf_execHaltAckTimeout (ctx child : Nat) : NextWf (execHaltAckTimeout ctx child s) := by
  fun_cases execHaltAckTimeout <;> simp [h]

@[simp] theorem nextWf_execGatherTimeout (ctx : Nat) : NextWf (execGatherTimeout ctx s) := by
  fun_cases execGatherTimeout <;> simp [h]

@[simp] theorem nextWf_execRestore (job target : Nat) : NextWf (execRestore job target s) := by
  fun_cases execRestore <;> simp [h]

@[simp] theorem nextWf_execRestoreCopyDone (ctx : Nat) : NextWf (execRestoreCopyDone ctx s) := by
  unfold execRestoreCopyDone
  split
  · exact nextWf_next.2 h
  · split
    · simp [h]
    · next e =>
      have h1 := cellsWf_restoreData e h
      exact nextWf_next.2 (cellsWf_tryDone _ _ h1)

@[simp] theorem nextWf_execRestoreDone (job sender : Nat) : NextWf (execRestoreDone job sender s) := by
  fun_cases execRestoreDone <;> simp [h]

@[simp] theorem nextWf_execResume (job : Nat) : NextWf (execResume job s) := by
  fun_cases execResume <;> simp [h]

@[simp] theorem nextWf_execReplaceWaitExpiry (ctx : Nat) : NextWf (execReplaceWaitExpiry ctx s) := by
  fun_cases execReplaceWaitExpiry <;> simp [h]

@[simp] theorem nextWf_execCheckpointSet (hd : MsgHdr) (interval restartLimit replaceWait : Nat) (ranges : List (Nat × Nat))
    (rsv : Bool) :
    NextWf (execCheckpointSet hd interval restartLimit replaceWait ranges rsv s) := by
  refine nextWf_message _ _ _ h fun u hu => ?_
  refine resultWf_ite hu (resultWf_ite hu ?_)
  extract_lets n s1
  split
  · exact hu
  · next e =>
    refine resultWf_done.2 ?_
    have h1 := (reserveSlotPages_cells e).trans (freePages_cells u _)
    rw [foldl_mem (fun s g => notePoison_mem s (64 * g)), setCtx_mem, h1]
    exact hu

@[simp] theorem nextWf_execSnapshotCopyDone (ctx : Nat) : NextWf (execSnapshotCopyDone ctx s) := by
  unfold execSnapshotCopyDone
  dsimp only
  repeat' split
  all_goals simp [h]

@[simp] theorem nextWf_execCkptReady (job sender epoch : Nat) : NextWf (execCkptReady job sender epoch s) := by
  fun_cases execCkptReady <;> simp [h]

@[simp] theorem nextWf_execCkptCommit (job epoch : Nat) : NextWf (execCkptCommit job epoch s) := by
  fun_cases execCkptCommit <;> simp [h]

@[simp] theorem nextWf_execTwinSet (hd : MsgHdr) (node : Nat) (flags : BitVec 8) (lost : Nat) (rsv : Bool) :
    NextWf (execTwinSet hd node flags lost rsv s) :=
  nextWf_message _ _ _ h fun _ hu => by simp [hu]

@[simp] theorem nextWf_execTwinHeartbeatSend : NextWf (execTwinHeartbeatSend s) := by
  unfold execTwinHeartbeatSend
  dsimp only
  split
  · exact nextWf_next.2 h
  · exact nextWf_next.2 (by rwa [foldl_mem (fun s n => fwSend_mem ..)])

@[simp] theorem nextWf_execTwinHeartbeatReceive (node incarnation : Nat) (attested : Option Nat) (beats : List BeatCtx) :
    NextWf (execTwinHeartbeatReceive node incarnation attested beats s) := by
  unfold execTwinHeartbeatReceive
  split
  · exact nextWf_next.2 h
  · exact nextWf_next.2 (by rwa [foldl_cells (fun s k => beatOf_cells node incarnation attested beats s k)])

@[simp] theorem nextWf_execTwinLost (ctx : Nat) : NextWf (execTwinLost ctx s) := by
  unfold execTwinLost
  dsimp only
  repeat' split
  all_goals simp [h]

@[simp] theorem nextWf_execMirrorWriteDone (ctx epoch : Nat) : NextWf (execMirrorWriteDone ctx epoch s) := by
  unfold execMirrorWriteDone
  dsimp only
  repeat' split
  all_goals simp [h]

/-! #### Live update -/

@[simp] theorem nextWf_execFwStage (hd : MsgHdr) (target : Nat) (flags : BitVec 8) (offset total : Nat) (data : List Byte)
    (ref : Option (Nat × Nat)) (rsv : Bool) :
    NextWf (execFwStage hd target flags offset total data ref rsv s) :=
  nextWf_message _ _ _ h fun _ hu => by simp [hu]

@[simp] theorem nextWf_execFwActivate (hd : MsgHdr) (target windowS commitS : Nat) (rsv : Bool) :
    NextWf (execFwActivate hd target windowS commitS rsv s) :=
  nextWf_message _ _ _ h fun _ hu => by simp [hu]

@[simp] theorem nextWf_execFwActivationBegin (target : Nat) (importOk : Bool) :
    NextWf (execFwActivationBegin target importOk s) := by
  unfold execFwActivationBegin
  dsimp only
  repeat' split
  all_goals simp [h]

@[simp] theorem nextWf_execFwActivateWindowExpiry (target : Nat) : NextWf (execFwActivateWindowExpiry target s) := by
  simp [execFwActivateWindowExpiry, h]

@[simp] theorem nextWf_execFwCommit (hd : MsgHdr) (target : Nat) (rsv : Bool) : NextWf (execFwCommit hd target rsv s) :=
  nextWf_message _ _ _ h fun _ hu => by simp [hu]

@[simp] theorem nextWf_execFwRollback (hd : MsgHdr) (target : Nat) (rsv : Bool) : NextWf (execFwRollback hd target rsv s) :=
  nextWf_message _ _ _ h fun _ hu => by simp [hu]

@[simp] theorem nextWf_execFwCommitTimeout (target : Nat) : NextWf (execFwCommitTimeout target s) := by
  fun_cases execFwCommitTimeout <;> simp [h]

@[simp] theorem nextWf_execFlashWrite (area counter : Nat) (tag data : List Byte) :
    NextWf (execFlashWrite area counter tag data s) := by
  fun_cases execFlashWrite <;> simp [h]

@[simp] theorem nextWf_execDebugUnlockToken (m : Manifest) : NextWf (execDebugUnlockToken m s) := by
  fun_cases execDebugUnlockToken <;> simp [h]

/-! #### Boot and resets -/

@[simp] theorem nextWf_execDeviceRecovery (cause : Nat) : NextWf (execDeviceRecovery cause s) := by
  fun_cases execDeviceRecovery <;> simp [h]

@[simp] theorem nextWf_execDeviceRecoveryComplete (imported : Bool) : NextWf (execDeviceRecoveryComplete imported s) := by
  simp [execDeviceRecoveryComplete, h]

@[simp] theorem nextWf_execPerstNAssert : NextWf (execPerstNAssert s) := by
  simp [execPerstNAssert, h]

@[simp] theorem nextWf_execPerstNRelease (bootMode : BitVec 2) (clkMode : Bool) :
    NextWf (execPerstNRelease bootMode clkMode s) := by
  fun_cases execPerstNRelease <;> simp [h]

omit h in
@[simp] theorem nextWf_execPowerUp : NextWf (execPowerUp s) := nextWf_next.2 (by simp)

@[simp] theorem nextWf_execRailUndervoltage (r : Nat) : NextWf (execRailUndervoltage r s) := by
  simp [execRailUndervoltage, h]

@[simp] theorem nextWf_execRailInRange (r : Nat) : NextWf (execRailInRange r s) := by
  fun_cases execRailInRange <;> simp [h]

@[simp] theorem nextWf_execRef25Loss : NextWf (execRef25Loss s) := by
  simp [execRef25Loss, h]

@[simp] theorem nextWf_execRef25Return : NextWf (execRef25Return s) := nextWf_next.2 h

@[simp] theorem nextWf_execBootStageComplete (f : BootFinding) : NextWf (execBootStageComplete f s) := by
  fun_cases execBootStageComplete <;> simp [h]

@[simp] theorem nextWf_execLockstepMismatch (pair : Nat) : NextWf (execLockstepMismatch pair s) := by
  unfold execLockstepMismatch
  dsimp only
  repeat' split
  all_goals simp [h]

@[simp] theorem nextWf_execPairRestartComplete (pair : Nat) : NextWf (execPairRestartComplete pair s) := by
  fun_cases execPairRestartComplete <;> simp [h]

@[simp] theorem nextWf_execEntdaa (addr : Nat) : NextWf (execEntdaa addr s) := by
  fun_cases execEntdaa <;> simp [h]

@[simp] theorem nextWf_execSetdasa : NextWf (execSetdasa s) := nextWf_next.2 (by simp [h])

@[simp] theorem nextWf_execRstdaa : NextWf (execRstdaa s) := nextWf_next.2 (by simp [h])

@[simp] theorem nextWf_execPcieLinkDown : NextWf (execPcieLinkDown s) := nextWf_next.2 h

@[simp] theorem nextWf_execPcieLinkUp : NextWf (execPcieLinkUp s) := nextWf_next.2 h

@[simp] theorem nextWf_execManagerSessionTimeout (k : Nat) : NextWf (execManagerSessionTimeout k s) := by
  fun_cases execManagerSessionTimeout <;> simp [h]

/-! #### The engines' work -/

@[simp] theorem nextWf_execMma (c : Nat) (g : Stage) : NextWf (execMma c g s) := by
  cases g
  · exact nextWf_issueTL _ _ _ _ h
  · exact nextWf_runWork _ _ _ _ _ _ h

@[simp] theorem nextWf_execMmaLd (c : Nat) (g : Stage) : NextWf (execMmaLd c g s) := by
  cases g
  · exact nextWf_issueTL _ _ _ _ h
  · exact nextWf_runWork _ _ _ _ _ _ h

@[simp] theorem nextWf_execMda (c : Nat) (g : Stage) : NextWf (execMda c g s) := by
  cases g
  · exact nextWf_issueTL _ _ _ _ h
  · exact nextWf_runWork _ _ _ _ _ _ h

@[simp] theorem nextWf_execMvm (c : Nat) (g : Stage) : NextWf (execMvm c g s) := by
  cases g
  · exact nextWf_issueTL _ _ _ _ h
  · exact nextWf_runWork _ _ _ _ _ _ h

@[simp] theorem nextWf_execVop (c : Nat) (g : Stage) : NextWf (execVop c g s) := by
  cases g
  · exact nextWf_issueTL _ _ _ _ h
  · exact nextWf_runWork _ _ _ _ _ _ h

@[simp] theorem nextWf_execTopk (c : Nat) (g : Stage) : NextWf (execTopk c g s) := by
  cases g
  · exact nextWf_issueTL _ _ _ _ h
  · exact nextWf_runWork _ _ _ _ _ _ h

@[simp] theorem nextWf_execNorm (c : Nat) (g : Stage) : NextWf (execNorm c g s) := by
  cases g
  · exact nextWf_issueTL _ _ _ _ h
  · exact nextWf_runWork _ _ _ _ _ _ h

@[simp] theorem nextWf_execSoftmax (c : Nat) (g : Stage) : NextWf (execSoftmax c g s) := by
  cases g
  · exact nextWf_issueTL _ _ _ _ h
  · exact nextWf_runWork _ _ _ _ _ _ h

@[simp] theorem nextWf_execCvt (c : Nat) (g : Stage) : NextWf (execCvt c g s) := by
  cases g
  · exact nextWf_issueTL _ _ _ _ h
  · exact nextWf_runWork _ _ _ _ _ _ h

@[simp] theorem nextWf_execStat (c : Nat) (g : Stage) : NextWf (execStat c g s) := by
  cases g
  · exact nextWf_issueTL _ _ _ _ h
  · exact nextWf_runWork _ _ _ _ _ _ h

@[simp] theorem nextWf_execUpd (c : Nat) (g : Stage) : NextWf (execUpd c g s) := by
  cases g
  · exact nextWf_issueTL _ _ _ _ h
  · exact nextWf_runWork _ _ _ _ _ _ h

/-! #### Control instructions -/

@[simp] theorem nextWf_execNop (c : Nat) (w : CWord) : NextWf (execNop c w s) := by
  unfold execNop
  exact nextWf_issueCore _ _ _ _ h

@[simp] theorem nextWf_execAlu (c : Nat) (w : CWord) : NextWf (execAlu c w s) := by
  unfold execAlu
  exact nextWf_issueCore _ _ _ _ h

@[simp] theorem nextWf_execAlui (c : Nat) (w : CWord) : NextWf (execAlui c w s) := by
  unfold execAlui
  exact nextWf_issueCore _ _ _ _ h

@[simp] theorem nextWf_execMovhi (c : Nat) (w : CWord) : NextWf (execMovhi c w s) := by
  unfold execMovhi
  exact nextWf_issueCore _ _ _ _ h

@[simp] theorem nextWf_execCmp (c : Nat) (w : CWord) : NextWf (execCmp c w s) := by
  unfold execCmp
  exact nextWf_issueCore _ _ _ _ h

@[simp] theorem nextWf_execCmpi (c : Nat) (w : CWord) : NextWf (execCmpi c w s) := by
  unfold execCmpi
  exact nextWf_issueCore _ _ _ _ h

@[simp] theorem nextWf_execPred (c : Nat) (w : CWord) : NextWf (execPred c w s) := by
  unfold execPred
  exact nextWf_issueCore _ _ _ _ h

@[simp] theorem nextWf_execBr (c : Nat) (w : CWord) : NextWf (execBr c w s) := nextWf_issueC _ _ _ h fun _ _ => yields_ok.2 h

@[simp] theorem nextWf_execJal (c : Nat) (w : CWord) : NextWf (execJal c w s) := nextWf_issueC _ _ _ h fun _ _ => yields_ok.2 h

@[simp] theorem nextWf_execJr (c : Nat) (w : CWord) :
    NextWf (execJr c w s) := nextWf_issueC _ _ _ h fun _ _ => yields_ite (yields_ok.2 h) (yields_error.2 trivial)

@[simp] theorem nextWf_execLd (c : Nat) (w : CWord) :
    NextWf (execLd c w s) := nextWf_issueC _ _ _ h fun _ _ => yields_then fun _ => yields_then fun _ => yields_ok.2 (by simp [h])

@[simp] theorem nextWf_execSt (c : Nat) (w : CWord) :
    NextWf (execSt c w s) :=
  nextWf_issueC _ _ _ h fun _ _ => yields_then fun _ =>
    yields_bind (cellsWf_writeVa _ _ _ _ _ _ h) fun _ ht => yields_ok.2 (by simp [ht])

@[simp] theorem nextWf_execSysrd (c : Nat) (w : CWord) : NextWf (execSysrd c w s) := by
  unfold execSysrd
  exact nextWf_issueCore _ _ _ _ h

@[simp] theorem nextWf_execWtok (c : Nat) (w : CWord) :
    NextWf (execWtok c w s) :=
  nextWf_issueC _ _ _ h fun _ _ => yields_ite (yields_error.2 trivial)
    (yields_ite (yields_ok.2 (by simp [h])) (yields_ok.2 h))

@[simp] theorem nextWf_execIllegalOpcode (c : Nat) (opc : BitVec 8) : NextWf (execIllegalOpcode c opc s) := by
  unfold execIllegalOpcode
  split
  · exact nextWf_issueFault _ _ _ _ h
  · exact nextWf_next.2 h

@[simp] theorem nextWf_execPrivilegedInstruction (c : Nat) (opc : BitVec 8) : NextWf (execPrivilegedInstruction c opc s) := by
  unfold execPrivilegedInstruction
  split
  · exact nextWf_issueFault _ _ _ _ h
  · exact nextWf_next.2 h

@[simp] theorem nextWf_execMarkPush (c : Nat) (w : CWord) :
    NextWf (execMarkPush c w s) := nextWf_issueC _ _ _ h fun _ _ => yields_ok.2 (by simp [h])

@[simp] theorem nextWf_execMarkPop (c : Nat) (w : CWord) :
    NextWf (execMarkPop c w s) := nextWf_issueC _ _ _ h fun _ _ => yields_ok.2 (by simp [h])

@[simp] theorem nextWf_execOphint (c : Nat) (w : CWord) :
    NextWf (execOphint c w s) := nextWf_level3 _ _ h (nextWf_issueCore _ _ _ _ h)

/-! #### Records -/

@[simp] theorem nextWf_execOutboxRecordWrite : NextWf (execOutboxRecordWrite s) := by
  fun_cases execOutboxRecordWrite <;> simp [h]

@[simp] theorem nextWf_execOutboxSignalTimer : NextWf (execOutboxSignalTimer s) := by
  fun_cases execOutboxSignalTimer <;> simp [h]

@[simp] theorem nextWf_execCons (value : Word32) : NextWf (execCons value s) := by
  fun_cases execCons <;> simp [h]

@[simp] theorem nextWf_execTraceRecordWrite (source : Nat) : NextWf (execTraceRecordWrite source s) := by
  fun_cases execTraceRecordWrite <;> simp [h]

/-! #### Preemption -/

@[simp] theorem nextWf_execSchedSliceExpiry (part : Nat) : NextWf (execSchedSliceExpiry part s) := by
  fun_cases execSchedSliceExpiry <;> simp [h]

@[simp] theorem nextWf_execPreemptDrainTimeout (part : Nat) : NextWf (execPreemptDrainTimeout part s) := by
  fun_cases execPreemptDrainTimeout <;> simp [h]

@[simp] theorem nextWf_execPreemptionComplete (part : Nat) : NextWf (execPreemptionComplete part s) := by
  unfold execPreemptionComplete
  dsimp only
  split
  · exact nextWf_next.2 h
  · split
    · exact nextWf_next.2 h
    · exact nextWf_next.2 (cellsWf_schedule _ _ (cellsWf_deschedule _ _ (cellsWf_landAll _ _ h)))

@[simp] theorem nextWf_execBpSet (hd : MsgHdr) (lcore slot enable lenLog2 access addr : Nat) (rsv : Bool) :
    NextWf (execBpSet hd lcore slot enable lenLog2 access addr rsv s) :=
  nextWf_message _ _ _ h fun _ hu => by simp [hu]

@[simp] theorem nextWf_execDebugHalt (hd : MsgHdr) : NextWf (execDebugHalt hd s) :=
  nextWf_message _ _ _ h fun _ hu => by split <;> simp [hu]

@[simp] theorem nextWf_execDebugHaltComplete (ctx : Nat) : NextWf (execDebugHaltComplete ctx s) := by
  have h1 := cellsWf_landAll s ctx h
  unfold execDebugHaltComplete
  dsimp only
  split
  · exact nextWf_next.2 h
  · refine nextWf_next.2 (cellsWf_schedule _ _ ?_)
    rw [changeCtx_mem]
    split
    · exact cellsWf_deschedule _ _ h1
    · exact h1

@[simp] theorem nextWf_execDebugResume (hd : MsgHdr) : NextWf (execDebugResume hd s) :=
  nextWf_message _ _ _ h fun _ hu => by simp [hu]

@[simp] theorem nextWf_execDebugStep (hd : MsgHdr) (lcore : Nat) (rsv : Bool) : NextWf (execDebugStep hd lcore rsv s) :=
  nextWf_message _ _ _ h fun _ hu => by simp [hu]

@[simp] theorem nextWf_execRegWrite (hd : MsgHdr) (lcore reg : Nat) (value : Word) (rsv : Bool) :
    NextWf (execRegWrite hd lcore reg value rsv s) :=
  nextWf_message _ _ _ h fun _ hu => by simp [hu]

@[simp] theorem nextWf_execStateRead (hd : MsgHdr) (lcore : Nat) (parts : BitVec 8) (hostAddr : Nat) (rsv : Bool) :
    NextWf (execStateRead hd lcore parts hostAddr rsv s) :=
  nextWf_message _ _ _ h fun _ hu => by simp [hu]

/-! #### Observation -/

@[simp] theorem nextWf_execCounterRead (hd : MsgHdr) (hostAddr : Nat) (entries : List CounterAddr) (rsv : Bool) :
    NextWf (execCounterRead hd hostAddr entries rsv s) :=
  nextWf_message _ _ _ h fun _ hu => by simp [hu]

@[simp] theorem nextWf_execTraceSet (hd : MsgHdr) (sizeMib mode : Nat) (categories : BitVec 8) (mask : Word) (rsv : Bool) :
    NextWf (execTraceSet hd sizeMib mode categories mask rsv s) := by
  refine nextWf_message _ _ _ h fun u hu => ?_
  split
  · exact hu
  · dsimp only
    split
    · exact hu
    · next e => simpa [tracePages_cells e] using hu

@[simp] theorem nextWf_execTraceStatus (hd : MsgHdr) : NextWf (execTraceStatus hd s) := nextWf_message _ _ _ h fun _ hu => hu

@[simp] theorem nextWf_execTraceRead (hd : MsgHdr) (first count hostAddr : Nat) (rsv : Bool) :
    NextWf (execTraceRead hd first count hostAddr rsv s) :=
  nextWf_message _ _ _ h fun _ hu => by simp [hu]

@[simp] theorem nextWf_execHistSet (hd : MsgHdr) (unit source base filter : Nat) (rsv : Bool) :
    NextWf (execHistSet hd unit source base filter rsv s) :=
  nextWf_message _ _ _ h fun _ hu => by simp [hu]

@[simp] theorem nextWf_execHistSample (unit : Nat) (v : ℤ) : NextWf (execHistSample unit v s) := by
  fun_cases execHistSample <;> simp [h]

@[simp] theorem nextWf_execHistRead (hd : MsgHdr) (unit clear hostAddr : Nat) (rsv : Bool) :
    NextWf (execHistRead hd unit clear hostAddr rsv s) :=
  nextWf_message _ _ _ h fun _ hu => by simp [hu]

/-! #### PLDM -/

@[simp] theorem nextWf_execGetTid : NextWf (execGetTid s) := nextWf_pldm _ _ _ h

@[simp] theorem nextWf_execGetPldmVersion (type : Nat) : NextWf (execGetPldmVersion type s) := by
  unfold execGetPldmVersion
  repeat' split
  all_goals exact nextWf_pldm _ _ _ h

@[simp] theorem nextWf_execGetPldmTypes : NextWf (execGetPldmTypes s) := nextWf_pldm _ _ _ h

@[simp] theorem nextWf_execGetPldmCommands (type : Nat) : NextWf (execGetPldmCommands type s) := by
  unfold execGetPldmCommands
  repeat' split
  all_goals exact nextWf_pldm _ _ _ h

@[simp] theorem nextWf_execGetPdrRepositoryInfo : NextWf (execGetPdrRepositoryInfo s) := nextWf_pldm _ _ _ h

@[simp] theorem nextWf_execGetPdr (record : Nat) : NextWf (execGetPdr record s) := by
  unfold execGetPdr
  dsimp only
  split <;> exact nextWf_pldm _ _ _ h

@[simp] theorem nextWf_execGetSensorReading (id : Nat) : NextWf (execGetSensorReading id s) := by
  unfold execGetSensorReading
  repeat' split
  all_goals exact nextWf_pldm _ _ _ h

@[simp] theorem nextWf_execGetStateSensorReadings (id : Nat) : NextWf (execGetStateSensorReadings id s) := by
  unfold execGetStateSensorReadings
  repeat' split
  all_goals exact nextWf_pldm _ _ _ h

@[simp] theorem nextWf_execSetNumericEffecterValue (id value : Nat) : NextWf (execSetNumericEffecterValue id value s) := by
  unfold execSetNumericEffecterValue
  exact nextWf_ite (nextWf_pldm _ _ _ h) (nextWf_ite (nextWf_pldm _ _ _ h)
    (nextWf_ite (nextWf_pldm _ _ _ (by simp [h])) (nextWf_next.2 h)))

@[simp] theorem nextWf_execGetNumericEffecterValue (id : Nat) : NextWf (execGetNumericEffecterValue id s) := by
  unfold execGetNumericEffecterValue
  repeat' split
  all_goals exact nextWf_pldm _ _ _ h

/-! #### SPDM -/

@[simp] theorem nextWf_execGetVersion (v : SpdmVia) : NextWf (execGetVersion v s) := nextWf_request _ _ h (by simp [h])

@[simp] theorem nextWf_execGetCapabilities (v : SpdmVia) : NextWf (execGetCapabilities v s) := nextWf_request _ _ h (by simp [h])

@[simp] theorem nextWf_execNegotiateAlgorithms (v : SpdmVia) (agreed : Bool) :
    NextWf (execNegotiateAlgorithms v agreed s) := nextWf_request _ _ h (by simp [h])

@[simp] theorem nextWf_execGetDigests (v : SpdmVia) : NextWf (execGetDigests v s) := nextWf_request _ _ h (by simp [h])

@[simp] theorem nextWf_execGetCertificate (v : SpdmVia) (slot offset length : Nat) :
    NextWf (execGetCertificate v slot offset length s) := nextWf_request _ _ h (by simp [h])

@[simp] theorem nextWf_execGetMeasurements (v : SpdmVia) (index : Nat) (signed : Bool) (nonce : List Byte) :
    NextWf (execGetMeasurements v index signed nonce s) := by
  refine nextWf_request _ _ h ?_
  repeat' split
  all_goals exact h

@[simp] theorem nextWf_execChallenge (v : SpdmVia) (slot : Nat) (nonce : List Byte) :
    NextWf (execChallenge v slot nonce s) := nextWf_request _ _ h (by simp [h])

@[simp] theorem nextWf_execKeyExchange (v : SpdmVia) (exchange : List Byte) :
    NextWf (execKeyExchange v exchange s) := nextWf_request _ _ h (by simp [h])

@[simp] theorem nextWf_execFinish (v : SpdmVia) (verified : Bool) :
    NextWf (execFinish v verified s) := nextWf_request _ _ h (by simp [h])

@[simp] theorem nextWf_execHeartbeat (v : SpdmVia) : NextWf (execHeartbeat v s) := nextWf_request _ _ h (by simp [h])

@[simp] theorem nextWf_execEndSession (v : SpdmVia) : NextWf (execEndSession v s) := by
  refine nextWf_request _ _ h ?_
  dsimp only
  repeat' split
  all_goals exact h

@[simp] theorem nextWf_execUnsupportedRequest (v : SpdmVia) (code : Nat) : NextWf (execUnsupportedRequest v code s) := by
  fun_cases execUnsupportedRequest <;> simp [h]

/-! #### The host's registers -/

@[simp] theorem nextWf_execLastSeq : NextWf (execLastSeq s) := by
  fun_cases execLastSeq <;> simp [h]

@[simp] theorem nextWf_execDevProgPosLo : NextWf (execDevProgPosLo s) := by
  fun_cases execDevProgPosLo <;> simp [h]

@[simp] theorem nextWf_execLowWordRead (off : Nat) : NextWf (execLowWordRead off s) := by
  fun_cases execLowWordRead <;> simp [h]

@[simp] theorem nextWf_execErrSummaryClear (value : Word32) : NextWf (execErrSummaryClear value s) := by
  fun_cases execErrSummaryClear <;> simp [h]

@[simp] theorem nextWf_execSnap (value : Word32) : NextWf (execSnap value s) := by
  fun_cases execSnap <;> simp [h]

@[simp] theorem nextWf_execMask (vec : Nat) (value : Word32) : NextWf (execMask vec value s) := by
  fun_cases execMask <;> simp [h]

@[simp] theorem nextWf_execBaseLo (win : Nat) (value : Word32) : NextWf (execBaseLo win value s) := by
  fun_cases execBaseLo <;> simp [h]

@[simp] theorem nextWf_execBar2Read (off len : Nat) (uncorrectable : Bool) : NextWf (execBar2Read off len uncorrectable s) := by
  fun_cases execBar2Read <;> simp [h]

@[simp] theorem nextWf_execBar2Write (off : Nat) (data : List Byte) : NextWf (execBar2Write off data s) := by
  fun_cases execBar2Write <;> simp [h]

@[simp] theorem nextWf_execSubmit (m : Nat) (value : Word32) : NextWf (execSubmit m value s) := by
  fun_cases execSubmit <;> simp [h]

@[simp] theorem nextWf_execRegisterWrite (off : Nat) (value : Word32) : NextWf (execRegisterWrite off value s) := by
  simp [execRegisterWrite, h]

/-! #### Steps -/

@[simp] theorem nextWf_execEndProgram (c : Nat) (w : CWord) : NextWf (execEndProgram c w s) := by
  refine nextWf_issueC _ _ _ h fun k x => ?_
  repeat' refine yields_ite ?_ ?_
  all_goals simp [h]

@[simp] theorem nextWf_execSpanBegin (c : Nat) (w : CWord) :
    NextWf (execSpanBegin c w s) :=
  nextWf_level3 _ _ h (nextWf_issueC _ _ _ h fun _ _ => yields_ite (yields_error.2 trivial) (yields_ite (yields_ok.2 (by simp [h]))
    (yields_then fun _ => yields_bind (cellsWf_writeVas _ _ _ _ h) fun _ ht => yields_ok.2 ht)))

@[simp] theorem nextWf_execSpanEnd (c : Nat) (w : CWord) : NextWf (execSpanEnd c w s) := by
  refine nextWf_level3 _ _ h (nextWf_issueC _ _ _ h fun k x => yields_ite (yields_error.2 trivial)
    (yields_ite (yields_ok.2 (by simp [h]))
    (yields_ite (yields_ok.2 (by simp [h])) (yields_ite (cellsWf_rewind _ _ _ _ h) ?_))))
  exact yields_bind (cellsWf_unresolvedEnd _ _ _ _ h) fun _ ht => yields_ok.2 (by simp [ht])

@[simp] theorem nextWf_execStepProgram (c : Nat) (w : CWord) :
    NextWf (execStepProgram c w s) :=
  nextWf_issueC _ _ _ h fun _ _ => yields_ite (yields_error.2 trivial) (yields_ite (yields_error.2 trivial)
    (yields_ite (yields_ok.2 (by simp [h])) (yields_ok.2 (by simp [h]))))

theorem nextWf_exec (i : Instr) : NextWf (exec i s) := by
  cases i
  all_goals simp [h]

end Commands

/-- Settles O58: a state with no command in line ticks, which leaves memory, and every command keeps the bytes canonical. -/
theorem memoryStaysCanonical : Obligations.MemoryStaysCanonical := by
  intro s t h hs
  unfold step at hs
  split at hs
  · cases hs
    exact (congrArg Memory.wf (tick_mem s)).trans h
  case h_2 c rest _ => exact nextWf_exec (s := { s with pending := rest }) h c t hs

end Sys2Proof.Machine

/-! ## The HBM regulator and the patrol scrub (R83, R84, R99, R100) -/

namespace Sys2Proof.Machine

/-! ### What is paid of what is owed -/

theorem payable_le (level : Int) (owed : Nat) : payable level owed ≤ owed := by
  unfold payable
  split <;> omega

/-- Payment stops where nothing is owed or the level is no longer above 0. -/
theorem payable_settles (level : Int) (owed : Nat) : owed - payable level owed = 0 ∨ level - payable level owed ≤ 0 := by
  unfold payable
  split <;> omega

/-- The last burst of 64 is the only one that the level may not cover. -/
theorem payable_covered {level : Int} {owed : Nat} (h : 0 < payable level owed) : -64 < level - payable level owed := by
  unfold payable at h ⊢
  split at h <;> split <;> omega

theorem refillCtx_default : refillCtx {} = {} := by decide

theorem ctxOf_refilled (s : State) (k : Nat) : look (mapTbl s.ctxs (fun _ x => refillCtx x)) {} k = refillCtx (ctxOf s k) :=
  look_mapTbl s.ctxs (fun _ x => refillCtx x) {} k refillCtx_default

/-- What a refill does to one context. -/
theorem refillCtx_pays (x : Ctx) :
    refillCtx x = { x with
      levelHbm := (refillCtx x).levelHbm, owedHbm := (refillCtx x).owedHbm
      levelNet := min (x.levelNet + x.budgetNet) (4 * x.budgetNet) } ∧
    (refillCtx x).levelHbm - (refillCtx x).owedHbm = min (x.levelHbm + x.budgetHbm) (4 * x.budgetHbm) - x.owedHbm ∧
    (refillCtx x).owedHbm ≤ x.owedHbm ∧ ((refillCtx x).owedHbm = 0 ∨ (refillCtx x).levelHbm ≤ 0) ∧
    ((refillCtx x).owedHbm < x.owedHbm → -64 < (refillCtx x).levelHbm) := by
  have hle := payable_le (refill x.levelHbm x.budgetHbm) x.owedHbm
  have hlevel : (refillCtx x).levelHbm = refill x.levelHbm x.budgetHbm - payable (refill x.levelHbm x.budgetHbm) x.owedHbm := rfl
  have howed : (refillCtx x).owedHbm = x.owedHbm - payable (refill x.levelHbm x.budgetHbm) x.owedHbm := rfl
  refine ⟨rfl, ?_, Nat.sub_le _ _, payable_settles _ _, fun h => payable_covered (by omega)⟩
  rw [hlevel, howed, Int.ofNat_sub hle]
  exact sub_sub_sub_cancel_right _ _ _

theorem regulatorRefill_pays {s : State} (h : s.mem.refillAt + 1000 ≤ s.clock.ns) : Completes .regulatorRefill s (fun t =>
    t.mem = { s.mem with refillAt := s.mem.refillAt + 1000 } ∧ t.cores = s.cores ∧ (∀ k, ctxOf t k = refillCtx (ctxOf s k)) ∧
    t.fw.mirrorLevel = min (s.fw.mirrorLevel + s.fw.mirrorBudget) (4 * s.fw.mirrorBudget)) := by
  refine ⟨_, (exec_regulatorRefill s).trans (if_neg (Nat.not_lt.2 h)), rfl, rfl, ctxOf_refilled s, rfl⟩

/-! ### Errors that a read meets -/

theorem keepHandling_log (s : State) : (keepHandling s).obs.log = s.obs.log := by
  fun_cases keepHandling <;> rfl

theorem noteErr_poison (m : Mem) (a now : Nat) (unc : Bool) : (noteErr m a now unc).poison = m.poison := by
  unfold noteErr noteRow noteSlice
  split_ifs <;> rfl

theorem noteErr_upsets (m : Mem) (a now : Nat) (unc : Bool) : (noteErr m a now unc).upsets = m.upsets := by
  unfold noteErr noteRow noteSlice
  split_ifs <;> rfl

/-- An uncorrected error in a grain not yet poisoned poisons it and raises MEM_POISONED. -/
theorem uncorrected_poisons {s : State} {a : Nat} (k src : Nat) (h : s.mem.poison.elem (a / 64) = false) :
    (uncorrected s k a src).mem.poison = addNat s.mem.poison (a / 64) ∧ (uncorrected s k a src).mem.upsets = s.mem.upsets ∧
    (uncorrected s k a src).obs.log.getLast?.map (fun e => (e.code, e.payload)) = some (0x0201, p8 a ++ p4 src) := by
  have hlog : ∀ u : State, (raise u 0x0201 clsD k (unitOfDpa a) (p8 a ++ p4 src)).obs.log.getLast?.map
      (fun e => (e.code, e.payload)) = some (0x0201, p8 a ++ p4 src) := fun u => by rw [raise_last]; rfl
  unfold uncorrected
  rw [if_neg (ne_true_of_eq_false h)]
  dsimp only
  split
  · rw [keepHandling_mem, keepHandling_log, raise_mem]
    exact ⟨congrArg (addNat · (a / 64)) (noteErr_poison ..), noteErr_upsets .., hlog _⟩
  · exact ⟨congrArg (addNat · (a / 64)) (noteErr_poison ..), noteErr_upsets .., hlog _⟩

theorem correctedErr_keeps (s : State) (k a : Nat) :
    (correctedErr s k a).mem.poison = s.mem.poison ∧ (correctedErr s k a).mem.upsets = s.mem.upsets := by
  unfold correctedErr
  dsimp only
  split <;> exact ⟨noteErr_poison .., noteErr_upsets ..⟩

/-- A read that covers the only error there is meets it, and the error is gone. -/
theorem meet_single {s : State} {a b n : Nat} {unc : Bool} (k src : Nat) (h : s.mem.upsets = [(a, unc)])
    (hg : grainIn b n (a / 64) = true) :
    meet s k src b n = if unc then uncorrected { s with mem := { s.mem with upsets := [] } } k a src
      else correctedErr { s with mem := { s.mem with upsets := [] } } k a := by
  simp [meet, meetOne, h, hg]

/-! ### The patrol scrub -/

theorem progressTo_log (s : State) (op k old pos total : Nat) (start : Bool) :
    (progressTo s op k old pos total start).obs.log = s.obs.log := by
  fun_cases progressTo <;> rfl

/-- A scrub before its read: a grain already poisoned counts in the state that a checkpoint covers. -/
def beforeScrub (s : State) : State := if s.mem.poison.elem s.mem.scrubPos then notePoison s (64 * s.mem.scrubPos) else s

@[simp] theorem beforeScrub_mem (s : State) : (beforeScrub s).mem = s.mem := by
  unfold beforeScrub
  split <;> rfl

theorem patrolScrub_does (rd : ReadErr) (s : State) {P : State → Prop} (h : ∀ t, t.obs.log = (meet (develop (beforeScrub s) rd)
      (ownerOf s (64 * s.mem.scrubPos)) 1 (64 * s.mem.scrubPos) 64).obs.log →
    t.mem = { (meet (develop (beforeScrub s) rd) (ownerOf s (64 * s.mem.scrubPos)) 1 (64 * s.mem.scrubPos) 64).mem with
      scrubPos := if s.mem.scrubPos + 1 < scrubTotal then s.mem.scrubPos + 1 else 0 } → P t) : Completes (.patrolScrub rd) s P :=
  ⟨_, exec_patrolScrub .., h _ (progressTo_log ..) (progressTo_mem ..)⟩

theorem grainIn_scrub {a g : Nat} (h : a / 64 = g) : grainIn (64 * g) 64 (a / 64) = true := by
  simp only [grainIn, Bool.and_eq_true, decide_eq_true_eq]
  omega

theorem patrolScrub_clean {s : State} (h : s.mem.upsets = []) : Completes (.patrolScrub .none) s (fun t => t.mem = { s.mem with
    scrubPos := if s.mem.scrubPos + 1 < 6442450944 then s.mem.scrubPos + 1 else 0 }) := by
  refine patrolScrub_does _ _ fun t _ hm => ?_
  rwa [develop, meet_clean (by rwa [beforeScrub_mem]), beforeScrub_mem] at hm

section Scrub
variable {s : State} {a : Nat} (hu : s.mem.upsets = []) (ha : a / 64 = s.mem.scrubPos)
include hu ha

theorem patrolScrub_uncorrected (hp : s.mem.poison.elem (a / 64) = false) : Completes (.patrolScrub (.uncorrected a)) s (fun t =>
    t.mem.cells = s.mem.cells ∧ t.mem.poison = addNat s.mem.poison (a / 64) ∧ t.mem.upsets = [] ∧
    (t.obs.log.getLast?.map (fun e => (e.code, e.payload))) = some (0x0201, p8 a ++ p4 1)) := by
  refine patrolScrub_does _ _ fun t hl hm => ?_
  have hd : (develop (beforeScrub s) (.uncorrected a)).mem.upsets = [(a, true)] := by simp [develop, hu]
  rw [meet_single _ _ hd (grainIn_scrub ha), if_pos rfl] at hl hm
  obtain ⟨hpoison, hupsets, hlog⟩ := uncorrected_poisons (s := { develop (beforeScrub s) (.uncorrected a) with
    mem := { (develop (beforeScrub s) (.uncorrected a)).mem with upsets := [] } }) (a := a) (ownerOf s (64 * s.mem.scrubPos)) 1
    (by simpa [develop] using hp)
  rw [hm, hl]
  exact ⟨by simp [develop], by simpa [develop] using hpoison, hupsets, hlog⟩

theorem patrolScrub_corrected : Completes (.patrolScrub (.corrected a)) s (fun t =>
    t.mem.cells = s.mem.cells ∧ t.mem.poison = s.mem.poison ∧ t.mem.upsets = []) := by
  refine patrolScrub_does _ _ fun t _ hm => ?_
  have hd : (develop (beforeScrub s) (.corrected a)).mem.upsets = [(a, false)] := by simp [develop, hu]
  rw [meet_single _ _ hd (grainIn_scrub ha), if_neg Bool.false_ne_true] at hm
  obtain ⟨hpoison, hupsets⟩ := correctedErr_keeps { develop (beforeScrub s) (.corrected a) with
    mem := { (develop (beforeScrub s) (.corrected a)).mem with upsets := [] } } (ownerOf s (64 * s.mem.scrubPos)) a
  rw [hm]
  exact ⟨by simp [develop], by simpa [develop] using hpoison, hupsets⟩

end Scrub

/-- Settles O24: a refill acts on each context by itself (`refillCtx_pays`), and a scrub meets the one error that stands in its
grain. -/
theorem regulatorAndPatrol : Obligations.RegulatorAndPatrol := by
  unfold Obligations.RegulatorAndPatrol
  refine ⟨fun s h => ?_, fun s hu => ⟨patrolScrub_clean hu, fun a ha =>
    ⟨patrolScrub_uncorrected hu ha, patrolScrub_corrected hu ha⟩⟩⟩
  obtain ⟨t, ht, hmem, hcores, hctx, hmirror⟩ := regulatorRefill_pays h
  refine ⟨t, ht, hmem, hcores, fun k _ => ?_, hmirror⟩
  rw [hctx k]
  exact refillCtx_pays (ctxOf s k)

end Sys2Proof.Machine

/-! ## Repairs of the memories (R82, R85, R86, R411, R412) -/

namespace Sys2Proof.Machine

/-! ### The bytes of a copy -/

theorem cut_cons (b : Nat) (v : Byte) (r : List Host.Cell) (a n : Nat) :
    cut ((b, v) :: r) a n = if a ≤ b ∧ b < a + n then (b - a, v) :: cut r a n else cut r a n := by
  unfold cut
  rw [List.filter_cons]
  split_ifs <;> simp_all

theorem mem_cut {m : List Host.Cell} {a n : Nat} {e : Host.Cell} (he : e ∈ cut m a n) : (a + e.1, e.2) ∈ m := by
  obtain ⟨c, hc, rfl⟩ := List.mem_map.1 he
  obtain ⟨hc, hr⟩ := List.mem_filter.1 hc
  simp only [Bool.and_eq_true, decide_eq_true_eq] at hr
  rwa [Nat.add_sub_cancel' hr.1]

theorem cellsWf_cut (m : List Host.Cell) (a n : Nat) (h : cellsWf m = true) : cellsWf (cut m a n) = true := by
  induction m with
  | nil => rfl
  | cons f r ih =>
    obtain ⟨b, v⟩ := f
    obtain ⟨hv, hr, hl⟩ := cellsWf_tail b v r h
    rw [cut_cons]
    split
    · refine cellsWf_cons _ _ _ hv (ih hr) fun e he => ?_
      have := hl _ (mem_cut he)
      omega
    · exact ih hr

theorem byteAt_cut (m : List Host.Cell) (a n o : Nat) : byteAt (cut m a n) o = if o < n then byteAt m (a + o) else 0 := by
  induction m with
  | nil => exact (ite_self _).symm
  | cons f r ih =>
    obtain ⟨b, v⟩ := f
    rw [cut_cons]
    split
    · by_cases ho : b - a = o
      · rw [byteAt, if_pos ho, if_pos (by omega), byteAt, if_pos (by omega)]
      · have hb : ¬b = a + o := by omega
        simp only [byteAt, ih, if_neg ho, if_neg hb]
    · split
      · rw [ih, if_pos ‹_›, byteAt, if_neg (by omega)]
      · rw [ih, if_neg ‹_›]

/-- Bytes pasted stand over the others. -/
theorem byteAt_paste (cs m : List Host.Cell) (a x : Nat) (hc : cellsWf cs = true) (h : cellsWf m = true) :
    byteAt (paste m a cs) x = if a ≤ x ∧ byteAt cs (x - a) ≠ 0 then byteAt cs (x - a) else byteAt m x := by
  induction cs generalizing m with
  | nil => simp [paste, byteAt]
  | cons f r ih =>
    obtain ⟨b, v⟩ := f
    obtain ⟨hv, hr, hl⟩ := cellsWf_tail b v r hc
    rw [paste, ih _ hr (cellsWf_setByte _ _ _ h), byteAt_setByte _ _ _ _ h, byteAt]
    by_cases hx : x = a + b
    · have hnot : byteAt r b = 0 := byteAt_not_listed _ _ fun e he => (hl e he).ne'
      rw [hx, Nat.add_sub_cancel_left, if_pos rfl, if_pos rfl, if_neg fun hr => hr.2 hnot, if_pos ⟨Nat.le_add_right _ _, hv⟩]
    · by_cases ha : a ≤ x
      · rw [if_neg (by omega : ¬b = x - a), if_neg hx]
      · rw [if_neg (by omega), if_neg hx, if_neg (by omega)]

theorem byteAt_copyRange (m : List Host.Cell) (src dst n x : Nat) (h : cellsWf m = true) :
    byteAt (copyRange m src dst n) x = if dst ≤ x ∧ x < dst + n then byteAt m (src + (x - dst)) else byteAt m x := by
  rw [copyRange, byteAt_paste _ _ _ _ (cellsWf_cut _ _ _ h) (cellsWf_clearRange _ _ _ h), byteAt_clearRange, byteAt_cut]
  by_cases hx : dst ≤ x ∧ x < dst + n
  · rw [if_pos hx, if_pos hx, if_pos (by omega : x - dst < n)]
    split_ifs <;> simp_all
  · rw [if_neg hx, if_neg hx, if_neg]
    rintro ⟨hd, hc⟩
    exact hc (if_neg (by omega))

/-- Where no error stands and no byte of the source is stale, a copy moves the listed bytes. -/
theorem copyDpa_cells {s : State} (hu : s.mem.upsets = []) (hs : s.mem.stale = []) (k src dst n : Nat) :
    (copyDpa s k src dst n).mem.cells = copyRange s.mem.cells src dst n := by
  rw [copyDpa, meet_clean hu]
  simp [copyMem, hs]

/-! ### Rows spared and pages retired -/

/-- Without errors of its own on record a row is not due. -/
theorem rowDue_of_dropped {s : State} {m : Mem} {chan row : Nat} (h : s.mem.rowErrs = (dropRow m chan row).rowErrs) :
    rowDue s chan row = false := by
  have hnone : (s.mem.rowErrs.filter fun e => e.1 == chan && e.2.1 == row && decide (s.clock.ns < e.2.2 + day)) = [] := by
    rw [h, dropRow, List.filter_filter, List.filter_eq_nil_iff]
    rintro ⟨c, r, at'⟩ -
    simp +contextual
  rw [rowDue, rowWeight, hnone]
  rfl

theorem hbmRowSpare_spares {s : State} {chan row : Nat} (hdue : rowDue s chan row = true)
    (hleft : (look s.mem.spares [] chan).length < 16) : Completes (.hbmRowSpare chan row) s (fun t =>
      t.mem.cells = s.mem.cells ∧ t.mem.poison = s.mem.poison ∧ look t.mem.spares [] chan = look s.mem.spares [] chan ++ [row] ∧
      rowDue t chan row = false ∧ (t.obs.log.getLast?.map (fun e => (e.code, e.unit))) = some (0x0806, unitChan chan)) := by
  refine ⟨_, (exec_hbmRowSpare ..).trans (if_neg ?_), rfl, rfl, look_put_same .., rowDue_of_dropped (m := s.mem) rfl, ?_⟩
  · rw [hdue, sparesLeft]
    exact not_or.2 ⟨nofun, by omega⟩
  · rw [raise_last]
    rfl

/-- A page retired, before its bytes are copied: its rows' errors are forgotten. -/
def withoutPage (s : State) (page : Nat) : State :=
  endHandling { s with mem := { forgetPage s page with retired := addNat (forgetPage s page).retired page } }
    (fun h => h.code == 0x0201 && h.unit / 32 == unitChan (32 * (page / Config.stackPages)) / 32)

theorem withoutPage_keeps (s : State) (page : Nat) : (withoutPage s page).mem.cells = s.mem.cells ∧
    (withoutPage s page).mem.upsets = s.mem.upsets ∧ (withoutPage s page).mem.stale = s.mem.stale :=
  List.foldlRecOn (motive := fun m : Mem => m.cells = s.mem.cells ∧ m.upsets = s.mem.upsets ∧ m.stale = s.mem.stale) _ _
    ⟨rfl, rfl, rfl⟩ fun _ hm _ _ => hm

theorem mem_retired_withoutPage (s : State) (page : Nat) : page ∈ (withoutPage s page).mem.retired := mem_addNat.2 (.inl rfl)

theorem mem_retired_copyDpa {s : State} {page : Nat} (hu : s.mem.upsets = []) (h : page ∈ s.mem.retired) (k src dst n : Nat) :
    page ∈ (copyDpa s k src dst n).mem.retired := by
  rwa [copyDpa, meet_clean hu]

section Page
variable {s : State} {page d : Nat} (hu : s.mem.upsets = []) (hs : s.mem.stale = [])
  (hdue : pageDue s page = true) (hnew : s.mem.retired.elem page = false)
  (hpool : look s.mem.pool 0 (page / Config.stackPages) < poolPages)
  (hd : d = (page / Config.stackPages * Config.stackPages + Config.stackPages - poolPages +
    look s.mem.pool 0 (page / Config.stackPages)) * Config.page2)
include hu hs hdue hnew hpool hd

/-- A page retired with a page left in its pool: its bytes are copied there. -/
theorem hbmPageRetire_copies : Completes (.hbmPageRetire page) s (fun t => page ∈ t.mem.retired ∧
    t.mem.cells = copyRange s.mem.cells (page * Config.page2) d Config.page2 ∧
    (t.obs.log.getLast?.map (fun e => e.code)) = some 0x0807) := by
  obtain ⟨hcells, hupsets, hstale⟩ := withoutPage_keeps s page
  have hex : ¬(pageDue s page = false ∨ s.mem.retired.elem page) := by
    rw [hdue, hnew]
    exact not_or.2 ⟨nofun, nofun⟩
  refine ⟨_, (exec_hbmPageRetire ..).trans ((if_neg hex).trans (if_pos hpool)), ?_, ?_, ?_⟩
  · rw [raise_mem, repairProgress_mem]
    exact mem_retired_copyDpa (s := withoutPage s page) (hupsets.trans hu) (mem_retired_withoutPage s page) _ _ d _
  · rw [raise_mem, repairProgress_mem, ← hcells, hd]
    exact copyDpa_cells (s := withoutPage s page) (hupsets.trans hu) (hstale.trans hs) ..
  · rw [raise_last]
    rfl

theorem hbmPageRetire_moves (hw : MemCanonical s) : Completes (.hbmPageRetire page) s (fun t => page ∈ t.mem.retired ∧
    (∀ o, o < Config.page2 → byteAt t.mem.cells (d + o) = byteAt s.mem.cells (page * Config.page2 + o)) ∧
    (∀ a, a < d ∨ d + Config.page2 ≤ a → byteAt t.mem.cells a = byteAt s.mem.cells a) ∧
    (t.obs.log.getLast?.map (fun e => e.code)) = some 0x0807) := by
  obtain ⟨t, ht, hretired, hcells, hlog⟩ := hbmPageRetire_copies hu hs hdue hnew hpool hd
  refine ⟨t, ht, hretired, fun o ho => ?_, fun a ha => ?_, hlog⟩
  · rw [hcells, byteAt_copyRange _ _ _ _ _ hw.1, if_pos (by omega), Nat.add_sub_cancel_left]
  · rw [hcells, byteAt_copyRange _ _ _ _ _ hw.1, if_neg (by omega)]

end Page

/-! ### Post-package repair and slices retired -/

theorem raise_ppr (s : State) (code cls k u : Nat) (p : List Byte) :
    (ctxOf (raise s code cls k u p) k).restart.ppr = (ctxOf s k).restart.ppr := by
  unfold raise raiseOn ctxOf
  dsimp only
  split
  · rw [look_put_same]
  · split
    · rw [look_put_same]
    · rfl

theorem hbmPostPackageRepair_repairs {s : State} {chan k : Nat} (hk : repairer s chan = some k)
    (hrows : look s.mem.spares [] chan ≠ []) (hc : chan < 256) : Completes (.hbmPostPackageRepair [chan]) s (fun t =>
      t.mem.cells = s.mem.cells ∧ look t.mem.spares [] chan = [] ∧
      look t.mem.repaired [] chan = look s.mem.repaired [] chan ++ look s.mem.spares [] chan ∧
      (ctxOf t k).restart.ppr = (ctxOf s k).restart.ppr + 1) := by
  have hex : exec (.hbmPostPackageRepair [chan]) s = .next (repairChan s chan) := rfl
  have hnot : ¬(look s.mem.spares [] chan = [] ∨ 256 ≤ chan) := not_or.2 ⟨hrows, Nat.not_le.2 hc⟩
  refine ⟨_, hex, ?_⟩
  simp only [repairChan, hk, if_neg hnot]
  refine ⟨rfl, look_drop_same .., look_put_same .., ?_⟩
  rw [raise_ppr, ctxOf, drawn_ctxs, setCtx, look_put_same]

theorem thatchSliceRetire_retires {s : State} {slice : Nat} (hi : slice < 176) (hm : sliceMode s.mem slice ≠ .retired)
    (hdue : sliceDue s slice = true) : Completes (.thatchSliceRetire slice) s (fun t => sliceMode t.mem slice = .retired) := by
  have hnot : ¬(176 ≤ slice ∨ sliceMode s.mem slice = .retired ∨ sliceDue s slice = false) := by
    rw [hdue]
    exact not_or.2 ⟨Nat.not_le.2 hi, not_or.2 ⟨hm, nofun⟩⟩
  unfold Completes
  rw [exec_thatchSliceRetire, execThatchSliceRetire, if_neg hnot]
  extract_lets old s0 ps ks fin ev
  have hfin : ∀ t, sliceMode (fin t).mem slice = .retired := fun t => sliceMode_setSlice ..
  split
  · refine ⟨_, rfl, ?_⟩
    change sliceMode (State.mem _) slice = _
    rw [capacityEvent_mem, raise_mem]
    exact hfin _
  · split
    · refine ⟨_, rfl, ?_⟩
      change sliceMode (State.mem _) slice = _
      rw [capacityEvent_mem, raise_mem, repairProgress_mem]
      exact hfin _
    · refine ⟨_, rfl, ?_⟩
      change sliceMode (State.mem _) slice = _
      rw [capacityEvent_mem, foldl_mem (fun _ _ => raise_mem ..)]
      exact hfin _

/-- Settles O25: a copy moves the listed bytes (`byteAt_copyRange`), and each repair is an equation of the state after it. -/
theorem memoryRepairs : Obligations.MemoryRepairs := by
  unfold Obligations.MemoryRepairs
  exact fun s => ⟨fun _ _ => hbmRowSpare_spares, fun _ _ hw hu hs hdue hnew hpool hd =>
    hbmPageRetire_moves hu hs hdue hnew hpool hd hw, fun _ _ => hbmPostPackageRepair_repairs,
    fun _ => thatchSliceRetire_retires⟩

end Sys2Proof.Machine

/-! ## Bursts of a transfer (R90, R93, R100) -/

namespace Sys2Proof.Machine

/-- A demand burst never gives way to another class. -/
theorem hasTurn_demand (s : State) (k : Nat) : hasTurn s k crDemand = true := by
  simp [hasTurn]

theorem nextBurst_chain (s : State) (ch : Chain) (k c : Nat) (f : Flight) (a d : Desc) :
    nextBurst { s with chain := ch } k c f a d = nextBurst s k c f a d := rfl

theorem coreInFlight_core {s : State} {n k : Nat} {e : Engine} {x : Core} (h : coreInFlight s n e = some (k, x)) :
    coreOf s k n = x := by
  unfold coreInFlight at h
  split at h
  · dsimp only at h
    split at h
    · cases h
      rfl
    · exact coreAtWork_core h
  · cases h

/-! ### The pieces of a burst -/

/-- Between two states of a burst its core goes on, and no error stands that did not stand before. -/
def Moves (s t : State) (k n : Nat) : Prop := Works s t k n ∧ (s.mem.upsets = [] → t.mem.upsets = [])

theorem Moves.trans {s t u : State} {k n : Nat} (h : Moves s t k n) (h' : Moves t u k n) : Moves s u k n :=
  ⟨h.1.trans h'.1, h'.2 ∘ h.2⟩

/-- A piece is stored, or its trap is raised. -/
theorem moves_burstPiece (k n opc : Nat) (f : Flight) (a d : Desc) (u : Burst) (p : Nat × Nat) :
    Moves u.s (burstPiece k n opc f a d u p).s k n := by
  unfold burstPiece
  cases hr : readPiece u.s k n f a d p with
  | error t =>
    simp only [bind, Except.bind]
    split
    · exact ⟨.refl .., id⟩
    · exact ⟨.raiseTrap .., fun h => by rwa [raiseTrap_mem]⟩
  | ok x =>
    simp only [bind, Except.bind]
    cases hw : writeVas u.s k n x.ws with
    | error t =>
      dsimp only
      split
      · exact ⟨.refl .., id⟩
      · exact ⟨.raiseTrap .., fun h => by rwa [raiseTrap_mem]⟩
    | ok t => exact ⟨.writeVas hw, fun h => writeVas_upsets h hw⟩

theorem moves_burstPieces (k n opc : Nat) (f : Flight) (a d : Desc) (l : List (Nat × Nat)) (u : Burst) :
    Moves u.s (l.foldl (burstPiece k n opc f a d) u).s k n :=
  List.foldlRecOn (motive := fun v : Burst => Moves u.s v.s k n) _ _ ⟨.refl .., id⟩
    fun v hv p _ => hv.trans (moves_burstPiece k n opc f a d v p)

theorem Works.launchBurst (s : State) (k n : Nat) (f : Flight) (u : Nat × Nat) (lo hi : Nat) (ws : List Wr) :
    Works s (launchBurst s k n f u lo hi ws) k n := by
  fun_cases Machine.launchBurst
  · exact .refl ..
  · exact ⟨.refl _, rfl, rfl, rfl, rfl, rfl, rfl⟩

/-- A core that goes on makes quiet accesses if it did. -/
theorem Quiet.moves {s t : State} {k n : Nat} (hq : Quiet s k (coreOf s k n)) (h : Moves s t k n) : Quiet t k (coreOf t k n) := by
  obtain ⟨hu, hpass, hcolls⟩ := hq
  obtain ⟨-, -, -, -, hsame, -⟩ := h.1.program
  exact ⟨h.2 hu, hsame.trans hpass, h.1.colls.trans hcolls⟩

/-! ### The burst -/

/-- An XFER with its progress recorded: ready once everything has moved. -/
def xferLanded (g : Flight) : Flight := if g.pos < g.total then g else { g with ready := true }

theorem landed_xfer {g : Flight} (hop : g.q.op = .xfer) (s : State) (k n : Nat) :
    landed s k n g = setFlightS s k n .stream (xferLanded g) := by
  unfold landed xferLanded
  rw [hop, if_neg nofun, if_neg (nofun : TOp.xfer ≠ .ridge)]
  split <;> rfl

theorem afterBurst_fields {f : Flight} (hop : f.q.op = .xfer) (newPos : Nat) (u : Burst) :
    (afterBurst f newPos u).id = f.id ∧ (afterBurst f newPos u).q = f.q ∧ (afterBurst f newPos u).total = f.total ∧
    (afterBurst f newPos u).pos = newPos ∧ (afterBurst f newPos u).ready = f.ready ∧
    (u.bad ≠ [] → (afterBurst f newPos u).faulted = true ∧ (afterBurst f newPos u).status = 5) := by
  have hq : (wroteGrains f (u.ws.map (fun w => (w.va, w.bs.length)))).q.op ≠ .fetch := by
    rw [wroteGrains, hop]
    nofun
  unfold afterBurst settled
  dsimp only
  rw [if_neg hq]
  refine ⟨rfl, rfl, rfl, rfl, rfl, fun hb => ?_⟩
  have hf : (f.faulted || u.bad != []) = true := by simp [hb]
  exact ⟨hf, if_pos hf⟩

/-- An XFER after a burst that moved it to `newPos`. -/
def burstLanded (f : Flight) (newPos : Nat) (u : Burst) : Flight := xferLanded (afterBurst f newPos u)

theorem burstLanded_fields {f : Flight} (hop : f.q.op = .xfer) (newPos : Nat) (u : Burst) :
    (burstLanded f newPos u).id = f.id ∧ (burstLanded f newPos u).pos = newPos ∧ (burstLanded f newPos u).total = f.total ∧
    (f.ready = false → (burstLanded f newPos u).ready = !decide (newPos < f.total)) ∧
    (u.bad ≠ [] → (burstLanded f newPos u).faulted = true ∧ (burstLanded f newPos u).status = 5) := by
  obtain ⟨hid, -, htotal, hpos, hready, hbad⟩ := afterBurst_fields hop newPos u
  unfold burstLanded xferLanded
  split
  · next h =>
    rw [hpos, htotal] at h
    exact ⟨hid, hpos, htotal, fun hr => by rw [hready, hr, decide_eq_true h]; rfl, hbad⟩
  · next h =>
    rw [hpos, htotal] at h
    exact ⟨hid, hpos, htotal, fun _ => by rw [decide_eq_false h]; rfl, hbad⟩

/-- The pieces of the next burst of an XFER, one after another. -/
def xferPieces (s : State) (k c : Nat) (f : Flight) (a d : Desc) : Burst :=
  (nextBurst s k c f a d).2.1.foldl (burstPiece k c 0x40 f a d) { s := s }

theorem moves_xferPieces (s : State) (k c : Nat) (f : Flight) (a d : Desc) : Moves s (xferPieces s k c f a d).s k c :=
  moves_burstPieces k c 0x40 f a d _ { s := s }

/-- The state after the pieces, before their accesses are paid for. -/
def xferReported (s : State) (k c : Nat) (f : Flight) (a d : Desc) : State :=
  emit (launchBurst (xferPieces s k c f a d).s k c f (nextBurst s k c f a d).1 f.pos (nextBurst s k c f a d).2.2
    (xferPieces s k c f a d).ws) k c (xferPieces s k c f a d).obs

theorem xferReported_mem (s : State) (k c : Nat) (f : Flight) (a d : Desc) :
    (xferReported s k c f a d).mem = (xferPieces s k c f a d).s.mem := by
  rw [xferReported, emit_mem, launchBurst_mem]

theorem moves_xferReported (s : State) (k c : Nat) (f : Flight) (a d : Desc) : Moves s (xferReported s k c f a d) k c :=
  (moves_xferPieces s k c f a d).trans
    ⟨(Works.launchBurst ..).trans (.emit ..), fun h => (congrArg Mem.upsets (xferReported_mem s k c f a d)).trans h⟩

theorem burstMove_xfer {f : Flight} (hop : f.q.op = .xfer) (s : State) (k c : Nat) (a d : Desc) :
    burstMove s k c f a d = setFlightS (account (xferReported s k c f a d) k c
      (burstAccess f a d (nextBurst s k c f a d).2.1)) k c .stream
      (burstLanded f (nextBurst s k c f a d).2.2 (xferPieces s k c f a d)) := by
  obtain ⟨-, hq, -⟩ := afterBurst_fields hop (nextBurst s k c f a d).2.2 (xferPieces s k c f a d)
  rw [burstLanded, ← landed_xfer (hq ▸ hop), burstMove, hop]
  rfl

section Burst
variable {s : State} {c k id : Nat} {x : Core} {f : Flight} {a d : Desc} (hop : f.q.op = .xfer)
include hop

theorem burstMove_moves (hx : coreOf s k c = x) (hf : flightAt x .stream id = some f) (hq : Quiet s k x) :
    SameBytes (xferPieces s k c f a d).s (burstMove s k c f a d) ∧ SameProgram x (coreOf (burstMove s k c f a d) k c) ∧
      flightAt (coreOf (burstMove s k c f a d) k c) .stream id =
        some (burstLanded f (nextBurst s k c f a d).2.2 (xferPieces s k c f a d)) := by
  subst hx
  have hm := moves_xferReported s k c f a d
  have hp := pays_account rfl (hq.moves hm) (burstAccess f a d (nextBurst s k c f a d).2.1)
  obtain ⟨hid, -⟩ := burstLanded_fields hop (nextBurst s k c f a d).2.2 (xferPieces s k c f a d)
  rw [burstMove_xfer hop, coreOf_setFlightS, hp.coreOf]
  refine ⟨?_, hm.1.program.trans (sameProgram_putFlight ..),
    flightAt_putFlight ((hm.1.flightAt .stream id).trans hf) (hid.trans (flightAt_id hf))⟩
  rw [SameBytes, setFlightS_mem, ← xferReported_mem]
  exact hp.sameBytes

section Due
variable (hw : coreInFlight s c .stream = some (k, x)) (hf : flightAt x .stream id = some f) (ha : f.a = some a)
  (hd : f.d = some d) (hdue : burstDue f = true)
include hw hf ha hd hdue

/-- Without a credit, or without budget where HBM is read, a burst waits. -/
theorem exec_burstStart_waits (rd : ReadErr) (h : hbmWaits s k c (burstAccess f a d (nextBurst s k c f a d).2.1) = true ∨
    hasCredits s.chain (burstBufs s.chain (nextBurst s k c f a d).1) crDemand = false) :
    exec (.burstStart c id rd) s = .next s := by
  have hcls : classOf f.q.op = crDemand := by rw [hop]; rfl
  simp only [exec_burstStart, execBurstStart, hw, hf, ha, hd, hdue, hcls, Bool.true_eq_false, if_false]
  exact if_pos (h.imp_right .inr)

/-- Otherwise it takes its credits and moves; that a turn was served changes the books of the context only. -/
theorem exec_burstStart_moves (hb : NoBreakpoint x)
    (hbudget : hbmWaits s k c (burstAccess f a d (nextBurst s k c f a d).2.1) = false)
    (hcredit : hasCredits s.chain (burstBufs s.chain (nextBurst s k c f a d).1) crDemand = true) :
    ∃ ctxs, exec (.burstStart c id .none) s = .next { burstMove { s with
      chain := takeCredits s.chain (burstBufs s.chain (nextBurst s k c f a d).1) crDemand } k c f a d with ctxs := ctxs } := by
  have hcls : classOf f.q.op = crDemand := by rw [hop]; rfl
  have hnobp : ((burstAccess f a d (nextBurst s k c f a d).2.1).any fun q => dataBp x q.1 q.2.1 q.2.2) = false :=
    List.any_eq_false.2 fun q _ => by simp [dataBp_of_noBreakpoint hb]
  simp only [exec_burstStart, execBurstStart, hw, hf, ha, hd, hdue, hcls, hbudget, hcredit, hasTurn_demand, hnobp, develop,
    Bool.not_true, Bool.and_false, Bool.true_eq_false, Bool.false_eq_true, or_self, if_false]
  split
  · exact ⟨_, rfl⟩
  · exact ⟨_, rfl⟩

end Due

end Burst

/-- Settles O14: a burst stores its pieces one after another (`moves_xferPieces`), and its report and payment leave memory's
bytes. -/
theorem burstsMove : Obligations.BurstsMove := by
  unfold Obligations.BurstsMove
  intro s c k id x f a d hw hf hop ha hd hdue _ b u
  have hx := coreInFlight_core hw
  refine ⟨fun hbudget hcredit hq hb => ?_, fun rd h => ⟨s, exec_burstStart_waits hop hw hf ha hd hdue rd (.inr h), rfl⟩,
    fun rd h => ⟨s, exec_burstStart_waits hop hw hf ha hd hdue rd (.inl h), rfl⟩⟩
  obtain ⟨ctxs, ht⟩ := exec_burstStart_moves hop hw hf ha hd hdue hb hbudget hcredit
  obtain ⟨hbytes, hprogram, hflight⟩ := burstMove_moves
    (s := { s with chain := takeCredits s.chain (burstBufs s.chain b.1) crDemand }) (a := a) (d := d) hop hx hf hq
  have hu : xferPieces { s with chain := takeCredits s.chain (burstBufs s.chain b.1) crDemand } k c f a d = u := by
    rw [xferPieces, nextBurst_chain]
  rw [hu] at hbytes hflight
  rw [nextBurst_chain] at hflight
  obtain ⟨-, hpos, htotal, hready, hbad⟩ := burstLanded_fields hop b.2.2 u
  have hnot : f.ready = false := by simp_all [burstDue]
  exact ⟨_, ht, hprogram, fun _ => hbytes, _, hflight, hpos, htotal, hready hnot, hbad⟩

end Sys2Proof.Machine

/-! ## Chunks of a fetch, SPAR, CANCEL and FENCE (R55, R90, R95 to R97, R102) -/

namespace Sys2Proof.Machine

/-! ### A fetch chunk by chunk (R95, R96) -/

/-- The fetch with its next chunk issued. -/
def chunkIssued (f : Flight) (d : Desc) : Flight := { f with issued := min f.total (f.issued + max (chunkEls d) 1) }

/-- Accesses paid for, then a flight put in its place. -/
theorem onlyPays_setFlightS {s u : State} {k n : Nat} (h : Pays s u k) (e : Engine) (f : Flight) :
    OnlyPays s (setFlightS u k n e f) k n := by
  obtain ⟨-, hothers⟩ := onlyCore_setFlightS u k n e f
  refine ⟨?_, ?_, fun q m hq => (hothers q m hq).trans (h.coreOf q m), h.others, h.own⟩
  · rw [setFlightS, setCore, h.rest]
  · rw [setFlightS_mem, h.rest]

section Chunk
variable {s : State} {c k id : Nat} {x : Core} {f : Flight} {d : Desc} (hw : coreAtWork s c = some (k, x))
  (hl : ((listed x).take 16).find? (fun g => g.id == id) = some f) (hs : f.stop = 0) (ht : f.trapped = false)
  (hi : f.issued < f.total) (hd : f.d = some d)
include hw hl hs ht hi hd

theorem fetchChunk_unconditional (hc : condOf x f = none) :
    exec (.fetchChunkIssue c id) s = .next (setFlightS s k c .stream (chunkIssued f d)) := by
  simp [execFetchChunkIssue, hw, hl, hs, ht, hi.ne, hc, hd, chunkIssued]

theorem fetchChunk_conditional {va : Nat} {bs : List Byte} (hc : condOf x f = some va) (hr : controlRead s k c va 8 = .ok bs) :
    exec (.fetchChunkIssue c id) s = .next (setFlightS (touchData s k c [(va, 8, false)]) k c .stream
      (if leNat bs = 0 then fetchReady { f with stop := 1 } else chunkIssued f d)) := by
  have hgo : (leNat bs != 0) = !decide (leNat bs = 0) := rfl
  by_cases hz : leNat bs = 0
  · simp [execFetchChunkIssue, hw, hl, hs, ht, hi.ne, hc, hr, hz, ok_bind]
  · simp [execFetchChunkIssue, hw, hl, hs, ht, hi.ne, hc, hd, hr, hgo, hz, chunkIssued, ok_bind]

variable (hf : flightAt x .stream id = some f)
include hf

theorem fetchChunk_issues (hc : condOf x f = none) : Completes (.fetchChunkIssue c id) s (fun t => OnlyCore s t k c ∧
    SameProgram x (coreOf t k c) ∧ flightAt (coreOf t k c) .stream id = some (chunkIssued f d)) :=
  ⟨_, fetchChunk_unconditional hw hl hs ht hi hd hc, putPlan (coreAtWork_core hw) hf rfl⟩

theorem fetchChunk_asks {va : Nat} {bs : List Byte} (hb : NoBreakpoint x) (hq : Quiet s k x) (hc : condOf x f = some va)
    (hr : controlRead s k c va 8 = .ok bs) : Completes (.fetchChunkIssue c id) s (fun t => SameBytes s t ∧ OnlyPays s t k c ∧
      SameProgram x (coreOf t k c) ∧ (leNat bs ≠ 0 → flightAt (coreOf t k c) .stream id = some (chunkIssued f d)) ∧
      (leNat bs = 0 → ∃ g, flightAt (coreOf t k c) .stream id = some g ∧ g.stop = 1 ∧
        g.status = (if f.faulted then 5 else 4) ∧ g.issued = f.issued ∧ g.ready = (f.ran && f.pos == f.issued))) := by
  have hx := coreAtWork_core hw
  have hp : Pays s (touchData s k c [(va, 8, false)]) k := pays_touchData hx hq fun _ _ => dataBp_of_noBreakpoint hb ..
  have hput := fun g (hid : g.id = f.id) => putPlan (e := .stream) (g := g) ((hp.coreOf k c).trans hx) hf hid
  refine ⟨_, fetchChunk_conditional hw hl hs ht hi hd hc hr, ?_, onlyPays_setFlightS hp .., ?_⟩
  · rw [SameBytes, setFlightS_mem]
    exact hp.sameBytes
  · by_cases hz : leNat bs = 0
    · rw [if_pos hz]
      obtain ⟨-, hprogram, hflight⟩ := hput (fetchReady { f with stop := 1 }) rfl
      exact ⟨hprogram, fun h => absurd hz h, fun _ => ⟨_, hflight, rfl, rfl, rfl, by simp [fetchReady]⟩⟩
    · rw [if_neg hz]
      obtain ⟨-, hprogram, hflight⟩ := hput (chunkIssued f d) rfl
      exact ⟨hprogram, fun _ => hflight, fun h => absurd h hz⟩

end Chunk

/-! ### SPAR to a core of the partition (R90) -/

section Stream
variable {s : State} {c k id : Nat} {x : Core} {f : Flight}

/-- Where a SPAR stores. -/
def sparVa (v : Word) : Nat := 0xF_1000_0000_0000 + spCore v * Config.scratchBytes + spOff v

/-- The buffers on the path of a SPAR. -/
def sparBufs (s : State) (k c : Nat) (v : Word) (f : Flight) : List Buf :=
  accessBufs s c (touches s k c [(sparVa v, (sparBytes f.q.regs).length, true)]) s.chain.nextTag

/-- A SPAR that has stored its registers. -/
def sparStored (f : Flight) (v : Word) : Flight :=
  { f with ran := true, ready := true, grains := grainCount (sparVa v) (sparBytes f.q.regs).length }

/-- The state with the registers of a SPAR stored and its credits taken, before the access is paid for. -/
def sparDone (s s1 : State) (k c : Nat) (v : Word) (f : Flight) : State :=
  setFlightS { s1 with chain := takeCredits s1.chain (sparBufs s k c v f) crSpar } k c .stream (sparStored f v)

theorem quiet_sparDone {s s1 : State} {k c : Nat} (v : Word) (f : Flight) (hq : Quiet s k (coreOf s k c))
    (hw : Moves s s1 k c) : Quiet (sparDone s s1 k c v f) k (coreOf (sparDone s s1 k c v f) k c) := by
  rw [sparDone, coreOf_setFlightS]
  exact hq.moves hw

theorem noBreakpoint_sparDone {s s1 : State} {k c : Nat} (v : Word) (f : Flight) (hb : NoBreakpoint (coreOf s k c))
    (hw : Works s s1 k c) : NoBreakpoint (coreOf (sparDone s s1 k c v f) k c) := by
  rw [sparDone, coreOf_setFlightS]
  exact fun b hm => hb b (hw.bps ▸ hm)

section Spar
variable {v ra : Word} {s1 : State} (h : ToDo s c k x .stream .spar id f) (hod : f.q.od = .reg v) (hoa : f.q.oa = .reg ra)
  (hv : v.toNat % 4096 = 0) (hlocal : spRemote v = false)
  (hroom : spOff v + (sparBytes f.q.regs).length ≤ Config.scratchBytes) (hin : inPartition s k (spCore v) = true)
include h hod hoa hv hlocal hroom hin

theorem exec_spar_local (hw : writeVa s k c (sparVa v) (sparBytes f.q.regs) false = .ok s1) :
    exec (.spar c (.run id)) s = .next (if hasCredits s.chain (sparBufs s k c v f) crSpar = false then s
      else touchData (sparDone s s1 k c v f) k c [(sparVa v, (sparBytes f.q.regs).length, true)]) := by
  have hcore : needCore s k (spCore v) = .ok () := by
    have hlt : spCore v < 320 := by simp_all [inPartition]
    rw [needCore, if_neg (Nat.not_le.2 hlt), if_pos hin]
  have hword : BitVec.ofNat 64 f.q.od.val = v := by simp [hod, Opnd.val]
  have hneed : (f.q.od.isReg && f.q.oa.isReg && decide (v.toNat % 4096 = 0)) = true := by simp [hod, hoa, hv, Opnd.isReg]
  refine (exec_spar ..).trans (runStream_works (op := .spar) h ?_)
  simp only [hword, need_of hneed, ok_bind, if_neg (Nat.not_lt.2 hroom), hlocal, hcore, Bool.false_eq_true, if_false]
  split
  · next hfree => exact congrArg Except.ok (if_pos hfree).symm
  · next hfree =>
    rw [sparVa] at hw
    rw [hw, ok_bind]
    exact congrArg Except.ok (if_neg hfree).symm

theorem spar_stores (hw : writeVa s k c (sparVa v) (sparBytes f.q.regs) false = .ok s1)
    (hfree : hasCredits s.chain (sparBufs s k c v f) crSpar = true) (hb : NoBreakpoint x) (hq : Quiet s k x) :
    Completes (.spar c (.run id)) s (fun t => SameBytes s1 t ∧ SameProgram x (coreOf t k c) ∧
      ∃ g, flightAt (coreOf t k c) .stream id = some g ∧ g.ready = true ∧ g.status = f.status) := by
  have hx := coreAtWork_core h.1
  subst hx
  have hworks : Works s s1 k c := .writeVas hw
  obtain ⟨-, hprogram, hflight⟩ := putPlan (s := { s1 with chain := takeCredits s1.chain (sparBufs s k c v f) crSpar })
    (e := .stream) (g := sparStored f v) rfl ((hworks.flightAt .stream id).trans h.2.1) rfl
  have hp := pays_touchData rfl (quiet_sparDone v f hq ⟨hworks, fun hu => writeVas_upsets hu hw⟩)
    (as := [(sparVa v, (sparBytes f.q.regs).length, true)])
    fun _ _ => dataBp_of_noBreakpoint (noBreakpoint_sparDone v f hb hworks) ..
  refine ⟨_, exec_spar_local h hod hoa hv hlocal hroom hin hw, ?_⟩
  rw [if_neg (ne_false_of_eq_true hfree)]
  beta_reduce
  rw [hp.coreOf]
  exact ⟨hp.sameBytes, hworks.program.trans hprogram, _, hflight, rfl, rfl⟩

theorem spar_waits (hw : writeVa s k c (sparVa v) (sparBytes f.q.regs) false = .ok s1)
    (hfree : hasCredits s.chain (sparBufs s k c v f) crSpar = false) : Completes (.spar c (.run id)) s (fun t => t = s) :=
  ⟨_, exec_spar_local h hod hoa hv hlocal hroom hin hw, if_pos hfree⟩

end Spar

/-! ### CANCEL and FENCE (R55, R97, R102) -/

/-- A fetch cancelled has landed or is stopped. -/
theorem cancelOne_stops (f : Flight) (hl : (cancelOne f).listed = true) :
    (cancelOne f).ready = true ∨ (cancelOne f).stop ≠ 0 := by
  unfold cancelOne at hl ⊢
  split_ifs at hl ⊢ with hend hstop
  · exact .inl (hend.resolve_right (ne_false_of_eq_true hl))
  · exact .inr nofun
  · exact .inr hstop

theorem cancelOne_keeps (f : Flight) : (cancelOne f).id = f.id ∧ (cancelOne f).q = f.q := by
  unfold cancelOne
  split_ifs <;> exact ⟨rfl, rfl⟩

/-- What CANCEL does to one entry of the queue. -/
def cancelEntry (id : Nat) (t : BitVec 32) (f : Flight) : Flight :=
  if f.id < id ∧ f.q.op = .fetch ∧ (t = 0xFFFF_FFFF ∨ f.q.w.imm = t) then cancelOne f else f

theorem cancelEntry_keeps (id : Nat) (t : BitVec 32) (f : Flight) :
    (cancelEntry id t f).id = f.id ∧ (cancelEntry id t f).q = f.q := by
  unfold cancelEntry
  split
  · exact cancelOne_keeps f
  · exact ⟨rfl, rfl⟩

theorem flightsOf_cancelBefore (x : Core) (id : Nat) (t : BitVec 32) :
    flightsOf (cancelBefore x id t) .stream = (flightsOf x .stream).map (cancelEntry id t) := flightsOf_setFlights ..

/-- The CANCEL itself is no entry before it. -/
theorem flightAt_cancelBefore {t : BitVec 32} (hf : flightAt x .stream id = some f) :
    flightAt (cancelBefore x id t) .stream id = some f := by
  have hkeep : ((fun g : Flight => g.id == id) ∘ cancelEntry id t) = fun g => g.id == id :=
    funext fun g => by rw [Function.comp_apply, (cancelEntry_keeps id t g).1]
  have hself : cancelEntry id t f = f := if_neg fun hn => hn.1.ne (flightAt_id hf)
  rw [flightAt, flightsOf_cancelBefore, List.find?_map, hkeep]
  rw [flightAt] at hf
  rw [hf, Option.map_some, hself]

/-- Every earlier fetch that CANCEL names has landed or is stopped. -/
theorem cancelBefore_stops {t : BitVec 32} {h : Flight} (hm : h ∈ flightsOf (cancelBefore x id t) .stream) (hid : h.id < id)
    (hop : h.q.op = .fetch) (hl : h.listed = true) (ht : t = 0xFFFF_FFFF ∨ h.q.w.imm = t) : h.ready = true ∨ h.stop ≠ 0 := by
  rw [flightsOf_cancelBefore] at hm
  obtain ⟨g, -, rfl⟩ := List.mem_map.1 hm
  obtain ⟨hgid, hgq⟩ := cancelEntry_keeps id t g
  rw [hgq] at hop ht
  have he : cancelEntry id t g = cancelOne g := if_pos ⟨hgid ▸ hid, hop, ht⟩
  rw [he] at hl ⊢
  exact cancelOne_stops g hl

theorem exec_cancel_run (h : ToDo s c k x .stream .cancel id f) : exec (.cancel c (.run id)) s =
    .next (setFlightS (setCore s k c (cancelBefore x id f.q.w.imm)) k c .stream { f with ran := true, ready := true }) := by
  rw [exec_cancel, execCancel]
  exact runStream_works (op := .cancel) h rfl

theorem cancel_does (h : ToDo s c k x .stream .cancel id f) : Completes (.cancel c (.run id)) s (fun t =>
    OnlyCore s t k c ∧ SameProgram x (coreOf t k c) ∧ t.mem = s.mem ∧
    (∃ g, flightAt (coreOf t k c) .stream id = some g ∧ g.ready = true) ∧
    ∀ h ∈ flightsOf (coreOf t k c) .stream, h.id < id → h.q.op = .fetch → h.listed = true →
      (f.q.w.imm = 0xFFFF_FFFF ∨ h.q.w.imm = f.q.w.imm) → h.ready = true ∨ h.stop ≠ 0) := by
  have hid := flightAt_id h.2.1
  have hx : coreOf (setCore s k c (cancelBefore x id f.q.w.imm)) k c = cancelBefore x id f.q.w.imm := coreOf_setCore ..
  obtain ⟨honly, hprogram, hflight⟩ := putPlan (g := { f with ran := true, ready := true }) hx (flightAt_cancelBefore h.2.1) rfl
  refine ⟨_, exec_cancel_run h, (onlyCore_setCore ..).trans honly, hprogram, rfl,
    ⟨_, hflight, rfl⟩, fun g hg hlt hop hl ht => ?_⟩
  rw [coreOf_setFlightS, hx, putFlight, flightsOf_setFlights] at hg
  obtain ⟨g', hg', rfl⟩ := List.mem_map.1 hg
  split_ifs at hlt hop hl ht ⊢ with hself
  · exact absurd hid hlt.ne
  · exact cancelBefore_stops hg' hlt hop hl ht

section Fence
variable (h : ToDo s c k x .stream .fence id f)
include h

theorem fence_waits (he : ∃ g ∈ flightsOf x .stream, g.id < id) : Completes (.fence c (.run id)) s (fun t => t = s) := by
  obtain ⟨g, hg, hlt⟩ := he
  have hany : ((flightsOf x .stream).any fun h => decide (h.id < id)) = true := List.any_eq_true.2 ⟨g, hg, decide_eq_true hlt⟩
  exact ⟨s, (exec_fence ..).trans (runStream_works (op := .fence) h (if_pos hany)), rfl⟩

theorem fence_ready (he : ∀ g ∈ flightsOf x .stream, id ≤ g.id) : Completes (.fence c (.run id)) s (fun t => OnlyCore s t k c ∧
    SameProgram x (coreOf t k c) ∧ flightAt (coreOf t k c) .stream id = some { f with ran := true, ready := true }) := by
  have hnone : ¬((flightsOf x .stream).any fun h => decide (h.id < id)) = true := by
    rw [List.any_eq_true]
    rintro ⟨g, hg, hlt⟩
    exact Nat.not_lt.2 (he g hg) (of_decide_eq_true hlt)
  exact ⟨_, (exec_fence ..).trans (runStream_works (op := .fence) h (if_neg hnone)), putPlan (coreAtWork_core h.1) h.2.1 rfl⟩

end Fence

end Stream

/-- Settles O12: each clause is the work of its instruction on the flight it finds (`runStream_works`, `putPlan`). -/
theorem fetchAndStream : Obligations.FetchAndStream := by
  unfold Obligations.FetchAndStream
  refine ⟨fun s c k id x f d hw hl hf hs ht hi hd hb hq => ⟨fetchChunk_issues hw hl hs ht hi hd hf, fun _ _ hc hr =>
    fetchChunk_asks hw hl hs ht hi hd hf hb hq hc hr⟩, fun s c k id x f =>
      ⟨?_, cancel_does, fun h => ⟨fence_waits h, fence_ready h⟩⟩⟩
  intro v ra s1 h hod hoa hv hlocal hroom hin hw
  exact ⟨fun hfree hb hq => spar_stores h hod hoa hv hlocal hroom hin hw hfree hb hq,
    fun hfree => spar_waits h hod hoa hv hlocal hroom hin hw hfree⟩

end Sys2Proof.Machine

/-! ## The patrol test and the progress watchdog (R135, R237 to R239, R409, R410) -/

namespace Sys2Proof.Machine

/-! ### The start of a patrol test -/

/-- A patrol test that is due begins on a free core, which then holds test data. -/
theorem patrolTestStart_begins {s : State} {p : Nat} (hn : s.place.patrol = none)
    (hdue : s.place.patrolAt + 60000000000 ≤ s.clock.ns) (ha : alive s = true) (hs : 10 ≤ s.fw.stage)
    (ht : patrolTarget s = some p) (hf : placedOn s.place p = []) :
    exec .patrolTestStart s =
      .next (testData { patrolPast s p with place := { (patrolPast s p).place with patrol := some p } } p 1) := by
  have hpast : ¬s.clock.ns < s.place.patrolAt + 60 * second := Nat.not_lt.2 hdue
  have hgo : ¬(s.place.patrol.isSome ∨ s.clock.ns < s.place.patrolAt + 60 * second ∨ alive s = false ∨ s.fw.stage < 10) := by
    simp [hn, hpast, ha, hs]
  have hempty : placedOn (patrolPast s p).place p = [] := hf
  simp only [exec_patrolTestStart, execPatrolTestStart, if_neg hgo, ht, hempty]

/-! ### What a change of placement leaves of the tests and of power -/

/-- Between two states the core under test is the same, and so is the power state, in which bays keep their margins. -/
structure SameTest (s t : State) : Prop where
  patrol : t.place.patrol = s.place.patrol
  power : t.power = s.power

namespace SameTest

theorem refl (s : State) : SameTest s s := ⟨rfl, rfl⟩

theorem trans {s t u : State} (h : SameTest s t) (h' : SameTest t u) : SameTest s u :=
  ⟨h'.patrol.trans h.patrol, h'.power.trans h.power⟩

theorem foldl {α : Type} {f : State → α → State} (hf : ∀ s a, SameTest s (f s a)) (l : List α) (s : State) :
    SameTest s (l.foldl f s) :=
  List.foldlRecOn l f (refl s) fun t ht a _ => ht.trans (hf t a)

theorem raise (s : State) (code cls k u : Nat) (p : List Byte) : SameTest s (raise s code cls k u p) := ⟨rfl, rfl⟩

theorem mapCore (s : State) (n p : Nat) : SameTest s (mapCore s n p) := by
  unfold Machine.mapCore
  split
  · exact refl s
  · exact ⟨rfl, rfl⟩

theorem placeCore (s : State) (n : Nat) : SameTest s (placeCore s n).1 := by
  unfold Machine.placeCore
  split
  · exact mapCore ..
  · split
    · exact (mapCore ..).trans ⟨rfl, rfl⟩
    · exact refl s

theorem markUnavailable (s : State) (part : Nat) : SameTest s (markUnavailable s part) := by
  unfold Machine.markUnavailable
  split
  · exact refl s
  · exact ⟨rfl, rfl⟩

theorem placeAll' (s : State) (ns : List Nat) : SameTest s (placeAll' s ns) := by
  refine foldl (fun s n => ?_) ns s
  dsimp only
  split
  · exact placeCore s n
  · exact (placeCore s n).trans (markUnavailable ..)

theorem keepStandIn (s : State) : SameTest s (keepStandIn s) :=
  (foldl (fun s (e : Nat × Nat) => mapCore s e.1 e.2) s.place.patrolMoves s).trans ⟨rfl, rfl⟩

theorem coreFailedEvent (s : State) (p moved cause : Nat) (ks : List Nat) : SameTest s (coreFailedEvent s p moved cause ks) := by
  unfold Machine.coreFailedEvent
  dsimp only
  split
  · exact ⟨rfl, rfl⟩
  · exact foldl (fun s k => raise ..) ks s

theorem capacityEvent (s : State) (old : Capacity × Tbl Nat × List Nat) : SameTest s (capacityEvent s old) := by
  unfold Machine.capacityEvent
  dsimp only
  split
  · exact refl s
  · exact ⟨rfl, rfl⟩

theorem keepHandling (s : State) : SameTest s (keepHandling s) := by
  unfold Machine.keepHandling
  split
  · exact refl s
  · split <;> exact ⟨rfl, rfl⟩

theorem meetOne (k src : Nat) (s : State) (u : Nat × Bool) : SameTest s (meetOne k src s u) := by
  unfold Machine.meetOne uncorrected correctedErr
  dsimp only
  split_ifs
  · exact ⟨rfl, rfl⟩
  · refine .trans ?_ (keepHandling _)
    exact ⟨rfl, rfl⟩
  all_goals exact ⟨rfl, rfl⟩

theorem copyDpa (s : State) (k src dst n : Nat) : SameTest s (copyDpa s k src dst n) :=
  .trans (show SameTest s (meet s k 0 src n) from foldl (meetOne k 0) _ s) ⟨rfl, rfl⟩

theorem standBack (s : State) (p : Nat) : SameTest s (standBack s p) := by
  unfold Machine.standBack
  split
  · exact refl s
  · exact (copyDpa ..).trans ⟨rfl, rfl⟩

end SameTest

/-! ### The end of a patrol test -/

/-- A physical core given to a resident, where it keeps what it held of failures and tests at an earlier state. -/
theorem Replaced.hold_of {s t : State} (h : Replaced s t) (p : Nat) (r : Option Nat) (w : Nat) :
    Replaced s (setPhys t p { physAt s p with resident := r, switchAt := w }) where
  clock := h.clock
  layout := h.layout
  quota := h.quota
  phys q := by
    rw [physAt_setPhys]
    split
    · subst_vars; rfl
    · exact h.phys q

theorem Replaced.standBack (s : State) (p : Nat) : Replaced s (standBack s p) := by
  unfold Machine.standBack
  split
  · exact refl s
  · refine .trans ?_ ((Replaced.hold ..).hold_of ..)
    exact (of_place (copyDpa_place_clock ..)).trans (of_same rfl rfl rfl rfl)

section Progress
variable (s : State) (op k old pos total : Nat) (start : Bool)

@[simp] theorem progressTo_place : (progressTo s op k old pos total start).place = s.place := by
  fun_cases progressTo <;> rfl

@[simp] theorem progressTo_power : (progressTo s op k old pos total start).power = s.power := by
  fun_cases progressTo <;> rfl

@[simp] theorem progressTo_clock : (progressTo s op k old pos total start).clock = s.clock := by
  fun_cases progressTo <;> rfl

end Progress

/-- Between two states a patrol test ends: no core is under test any longer, and what physical cores keep of failures and tests
and the power state are the same. -/
structure TestOver (s t : State) : Prop where
  replaced : Replaced s t
  patrol : t.place.patrol = none
  power : t.power = s.power

theorem TestOver.trans {s t u : State} (h : TestOver s t) (hr : Replaced t u) (hs : SameTest t u) : TestOver s u :=
  ⟨h.replaced.trans hr, hs.patrol.trans h.patrol, hs.power.trans h.power⟩

/-- The state when a test's end is counted and its progress recorded, before its result is acted on: no core is under test. -/
def testCounted (s : State) : State :=
  let n := s.place.patrolDone + 1
  let total := healthyCount s
  let t := progressTo { s with place := { s.place with patrolDone := if total ≤ n then 0 else n } } 6 noCtx (n - 1) n total (n == 1)
  { t with place := { t.place with patrol := none } }

theorem testOver_testCounted (s : State) : TestOver s (testCounted s) :=
  ⟨.of_same (by simp [testCounted]) (by simp [testCounted]) (by simp [testCounted]) (by simp [testCounted]), rfl, by simp [testCounted]⟩

/-- A core that passes has its logical cores back and the time of its test. -/
theorem patrolEnd_pass (s : State) (p : Nat) (sig : Word) : ∃ t, TestOver s t ∧
    patrolEnd s p true sig = setPhys t p { physAt t p with lastTest := s.clock.ns } :=
  ⟨standBack (testCounted s) p, (testOver_testCounted s).trans (.standBack ..) (.standBack ..), rfl⟩

/-- A core that does not pass is marked failed by the patrol test; all else is to place logical cores anew. -/
theorem patrolEnd_fail (s : State) (p : Nat) (sig : Word) : ∃ t, TestOver s t ∧
    Replaced (markFailed t p 1) (patrolEnd s p false sig) ∧ SameTest (markFailed t p 1) (patrolEnd s p false sig) :=
  ⟨keepStandIn (raise (testCounted s) 0x080A clsC noCtx (unitPhys p) (p4 p ++ p8 sig.toNat)),
    ((testOver_testCounted s).trans (.raise ..) (.raise ..)).trans (.keepStandIn _) (.keepStandIn _),
    ((Replaced.placeAll' ..).trans (.coreFailedEvent ..)).trans (.capacityEvent ..),
    ((SameTest.placeAll' ..).trans (.coreFailedEvent ..)).trans (.capacityEvent ..)⟩

/-- A margin not below its bound, the first at the set point, is kept in the bay. -/
theorem marginSeen_first {s : State} {b margin : Nat} (hb : (bayAt s b).minMargin = none) (hm : Config.minMargin b ≤ margin) :
    marginSeen s b margin = setBay s b { bayAt s b with minMargin := some (margin, s.clock.ns) } := by
  simp only [marginSeen, hb, if_pos hm]

section PatrolDone
variable {s : State} {p margin : Nat} (sig : Word) (ht : s.place.patrol = some p) (hdue : s.place.patrolAt + 40000000 ≤ s.clock.ns)
  (hm : Config.minMargin (p / 21) ≤ margin) (hb : (bayAt s (p / 21)).minMargin = none)
include ht hdue hm hb

/-- A test that is over ends in what its result gives, where its margin is sound but for the bay's record of it. -/
theorem patrolTestDone_ends (pass : Bool) (hpower : (patrolEnd s p pass sig).power = s.power) :
    ∃ y, exec (.patrolTestDone pass sig margin) s = .next (setBay (patrolEnd s p pass sig) (p / 21) y) := by
  have hb' : (bayAt (patrolEnd s p pass sig) (p / 21)).minMargin = none := by rwa [bayAt, hpower]
  have hgo : exec (.patrolTestDone pass sig margin) s = .next (marginSeen (patrolEnd s p pass sig) (p / 21) margin) := by
    simp only [exec_patrolTestDone, execPatrolTestDone, ht]
    exact if_neg (Nat.not_lt.2 hdue)
  exact ⟨_, hgo.trans (congrArg _ (marginSeen_first hb' hm))⟩

theorem patrolTestDone_passes (hh : healthy s p = true) : Completes (.patrolTestDone true sig margin) s (fun t =>
    t.place.patrol = none ∧ healthy t p = true ∧ (physAt t p).lastTest = s.clock.ns) := by
  obtain ⟨t, hover, hend⟩ := patrolEnd_pass s p sig
  obtain ⟨y, hexec⟩ := patrolTestDone_ends sig ht hdue hm hb true (by rw [hend]; exact hover.power)
  rw [hend] at hexec
  refine ⟨_, hexec, hover.patrol, ?_, congrArg Phys.lastTest (look_put_same ..)⟩
  have hf : healthy t p = true := (hover.replaced.healthy p).trans hh
  simpa [healthy, physAt, setPhys, setBay] using hf

theorem patrolTestDone_fails : Completes (.patrolTestDone false sig margin) s (fun t =>
    t.place.patrol = none ∧ healthy t p = false ∧ (physAt t p).never = true) := by
  obtain ⟨t, hover, hreplaced, hsame⟩ := patrolEnd_fail s p sig
  obtain ⟨y, hexec⟩ := patrolTestDone_ends sig ht hdue hm hb false (hsame.power.trans hover.power)
  have hmarked : (physAt (patrolEnd s p false sig) p).failed = true ∧ (physAt (patrolEnd s p false sig) p).never = true := by
    rw [hreplaced.phys p]
    simp [markFailed, physAt_setPhys]
  exact ⟨_, hexec, hsame.patrol.trans hover.patrol, healthy_of_failed hmarked.1, hmarked.2⟩

end PatrolDone

/-! ### The watchdog test -/

theorem watchTick_idle {s : State} {k : Nat} (h : (ctxOf s k).launched = false) : watchTick s k = s := if_pos h

theorem ctxOf_watchTick {s : State} {k : Nat} (h : (ctxOf s k).launched = true) :
    ctxOf (watchTick s k) k = { ctxOf s k with
      watchBase := if watchSuspended s k then (ctxOf s k).watchBase + (s.clock.ns - (ctxOf s k).watchAt) else (ctxOf s k).watchBase
      watchAt := s.clock.ns } := by
  simp [watchTick, h]

/-- The watchdog's measure is all that a tick changes. -/
theorem watchTick_frame (s : State) (k : Nat) :
    (watchTick s k).cores = s.cores ∧ (watchTick s k).obs = s.obs ∧ OthersKept s (watchTick s k) k := by
  unfold watchTick
  dsimp only
  split
  · exact ⟨rfl, rfl, fun _ _ => rfl⟩
  · exact ⟨rfl, rfl, othersKept_setCtx s k _⟩

/-- Without a launch there is nothing to watch. -/
theorem watchCtx_idle {s : State} {k : Nat} (h : (ctxOf s k).launched = false) : watchCtx s k = s := by
  simp [watchCtx, h, watchTick_idle h]

theorem watchCtx_suspended {s : State} {k : Nat} (h : watchSuspended s k = true) : watchCtx s k = watchTick s k := by
  simp [watchCtx, h]

/-- A launched context that runs, waits and has made no progress for its period is suspected of a deadlock. -/
theorem watchCtx_expired {s : State} {k : Nat} (hl : (ctxOf s k).launched = true) (hs : watchSuspended s k = false)
    (hw : ctxWaiting s k = true) (ht : (ctxOf s k).watchBase + (ctxOf s k).watchdogMs * 1000000 ≤ s.clock.ns)
    (hr : (ctxOf s k).restart.phase = 0) (hf : (ctxOf s k).faultSeq = 0) :
    watchCtx s k = deadlock (setCtx (watchTick s k) k { ctxOf (watchTick s k) k with watchBase := s.clock.ns }) k := by
  simp [watchCtx, hl, hs, hw, ht, hr, hf]

theorem othersKept_deadlock (s : State) (k : Nat) : OthersKept s (deadlock s k) k :=
  fun j hj => ctxOf_raise_other _ _ _ _ _ j _ hj

theorem deadlock_last (s : State) (k : Nat) :
    ((deadlock s k).obs.log.getLast?.map (fun e => (e.code, e.ctx))) = some (0x0305, k) := by
  rw [deadlock, raise_last]
  rfl

/-- The test of one context leaves the others. -/
theorem othersKept_watchCtx (s : State) (k : Nat) : OthersKept s (watchCtx s k) k := by
  obtain ⟨-, -, htick⟩ := watchTick_frame s k
  unfold watchCtx
  dsimp only
  split
  · exact fun j hj => (othersKept_deadlock _ k j hj).trans ((othersKept_setCtx _ k _ j hj).trans (htick j hj))
  · exact htick

theorem foldl_watchCtx_idle {s : State} {l : List Nat} (h : ∀ q ∈ l, (ctxOf s q).launched = false) : l.foldl watchCtx s = s := by
  induction l with
  | nil => rfl
  | cons q l ih =>
    rw [List.foldl_cons, watchCtx_idle (h q List.mem_cons_self)]
    exact ih fun j hj => h j (List.mem_cons_of_mem q hj)

/-- Where one context alone is launched the watchdog test is its own. -/
theorem watchdogTest_alone {s : State} {k : Nat} (hk : k < 64) (ho : ∀ q, q ≠ k → (ctxOf s q).launched = false) :
    exec .watchdogTest s = .next (watchCtx s k) := by
  obtain ⟨l, r, hsplit⟩ := List.append_of_mem (List.mem_range.2 hk)
  obtain ⟨-, hr, hl⟩ := List.nodup_append.1 (hsplit ▸ List.nodup_range)
  have hbefore : l.foldl watchCtx s = s := foldl_watchCtx_idle fun q hq => ho q (hl q hq k List.mem_cons_self)
  have hafter : r.foldl watchCtx (watchCtx s k) = watchCtx s k := foldl_watchCtx_idle fun q hq => by
    have hqk : q ≠ k := fun e => (List.nodup_cons.1 hr).1 (e ▸ hq)
    rw [othersKept_watchCtx s k q hqk]
    exact ho q hqk
  rw [exec_watchdogTest, execWatchdogTest, ctxNums, hsplit, List.foldl_append, List.foldl_cons, hbefore, hafter]

/-- Settles O28: the start of the patrol test, each of its ends, and the watchdog test of the one context launched. -/
theorem testsOfCores : Obligations.TestsOfCores := by
  refine fun s => ⟨fun p hn hdue ha hs ht hf => ?_, fun p sig margin ht hdue _ hm hb => ⟨fun hh => ?_, ?_⟩, fun hidle => ?_,
    fun k hk ho hl => ⟨fun hs => ?_, fun hs hw hdue hr hf => ?_⟩⟩
  · exact ⟨_, patrolTestStart_begins hn hdue ha hs ht hf, rfl, onlyScratch_testData _ p, rfl, rfl⟩
  · exact patrolTestDone_passes sig ht hdue hm hb hh
  · exact patrolTestDone_fails sig ht hdue hm hb
  · exact ⟨_, exec_watchdogTest s, foldl_watchCtx_idle fun q _ => hidle q⟩
  · obtain ⟨hcores, hobs, hothers⟩ := watchTick_frame s k
    refine ⟨_, watchdogTest_alone hk ho, ?_⟩
    rw [watchCtx_suspended hs]
    exact ⟨watchTick_mem s k, hcores, hothers, hobs, by rw [ctxOf_watchTick hl, if_pos hs]⟩
  · refine ⟨_, watchdogTest_alone hk ho, watchCtx_mem s k, ?_⟩
    rw [watchCtx_expired hl hs hw hdue hr hf]
    exact ⟨(watchTick_frame s k).1, deadlock_last ..⟩

end Sys2Proof.Machine

/-! ## E8M0 scales (R145) -/

namespace Sys2Proof.Machine

/-- The model's power of two, made of naturals, is that of the rationals at exponents of either sign. -/
theorem pow2_eq_zpow (e : Int) : pow2 e = (2 : Rat) ^ e := by
  cases e with
  | ofNat n => simp [pow2]
  | negSucc n => simp [pow2, Rat.mkRat_eq_div]

/-- Every scale byte but 0xFF has a number for its value. -/
theorem e8m0_of_lt {e : Nat} (h : e < 255) : e8m0 e = .fin ((2 : Rat) ^ ((e : Int) - 127)) := by
  rw [e8m0, if_neg h.ne, pow2_eq_zpow]

/-- Settles O60: the values are powers of two (`pow2_eq_zpow`), hence positive. -/
theorem scaleValues : Obligations.ScaleValues :=
  ⟨fun _ h => ⟨e8m0_of_lt h, zpow_pos two_pos _⟩, if_pos rfl⟩

end Sys2Proof.Machine

/-! ## Trusses: arrivals and waits (R67, R216 to R227) -/

namespace Sys2Proof.Machine

/-! ### One truss (R223 to R227) -/

section Counted
variable {t : Truss} {o : TrOut} {nophase : Bool} {phase : Nat}

theorem phaseD_current (hd : nophase = true ∨ gen16 phase t.gen = 0) : phaseD t nophase phase = 0 := by
  unfold phaseD
  split
  · rfl
  · next hn => exact hd.resolve_left hn

/-- The truss with one more arrival at its current generation. -/
def arrivedOnce (t : Truss) : Truss := { t with arrived := t.arrived + 1 }

theorem record_counted (he : t.enrolled = false) (who : Member) : record t who false = .ok (arrivedOnce t) := by
  simp [record, he, arrivedOnce]

/-- A truss whose current generation has ended: the pending arrivals are the current ones, and the generation's waiters are
gone (R225). -/
def nextGeneration (t : Truss) : Truss :=
  { t with
    gen := (t.gen + 1) % 0x1_0000, arrived := t.pending, pending := 0, arrivedM := t.pendingM, pendingM := []
    waiters := t.waiters.filter (fun w => w.gen != t.gen) }

theorem full_of_all (he : t.enrolled = false) (h : t.n ≤ t.arrived) : full t = true := by
  simpa [full, he] using h

theorem not_full_of_fewer (he : t.enrolled = false) (h : t.arrived < t.n) : full t = false := by
  simpa [full, he] using h

/-- The truss with a wait for its current generation registered. -/
def awaitedBy (t : Truss) (w : Waiter) : Truss :=
  { t with waiters := t.waiters ++ [{ w with gen := t.gen % 0x1_0000 }] }

theorem complete_open (h : full o.t = false) (fuel : Nat) : complete fuel o = .ok o := by
  cases fuel with
  | zero => rfl
  | succ f => exact if_pos h

/-- A full generation without a limit ends, and its waiters are released. -/
theorem complete_full (hl : o.t.limit = 0) (h : full o.t = true) (fuel : Nat) : complete (fuel + 1) o =
    complete fuel { t := nextGeneration o.t, free := o.free ++ o.t.waiters.filter (fun w => w.gen == o.t.gen),
                    done := o.done ++ [o.t.gen] } := by
  simp [complete, h, hl, nextGeneration]

/-- Without a limit completions overflow nothing. -/
theorem complete_unlimited (hl : o.t.limit = 0) (fuel : Nat) : ∃ p, complete fuel o = .ok p ∧ p.t.fwd = o.t.fwd := by
  induction fuel generalizing o with
  | zero => exact ⟨o, rfl, rfl⟩
  | succ f ih =>
    cases h : full o.t with
    | false => exact ⟨o, complete_open h _, rfl⟩
    | true =>
      rw [complete_full hl h]
      exact ih hl

section Current
variable (he : t.enrolled = false) (hd : nophase = true ∨ gen16 phase t.gen = 0)
include hd

theorem waitT_current (hl : t.limit = 0) (w : Waiter) : waitT t w nophase phase =
    .ok { t := awaitedBy t w } := by
  simp [waitT, hl, phaseD_current hd, awaitedBy]

include he

theorem arriveT_current (who : Member) : arriveT t who nophase phase = complete 2 { t := arrivedOnce t } := by
  simp [arriveT, phaseD_current hd, record_counted he, ok_bind]

/-- What an arrival at the current generation leaves: one arrival more, or the next generation. -/
theorem arriveT_counted (hl : t.limit = 0) (who : Member) : ∃ o, arriveT t who nophase phase = .ok o ∧ o.t.fwd = t.fwd ∧
    (t.arrived + 1 < t.n → o.t = arrivedOnce t) ∧ (t.n ≤ t.arrived + 1 → t.pending < t.n → o.t = nextGeneration t) := by
  obtain ⟨o, ho, hfwd⟩ := complete_unlimited (o := { t := arrivedOnce t }) hl 2
  refine ⟨o, (arriveT_current he hd who).trans ho, hfwd, fun hfew => ?_, fun hlast hpending => ?_⟩
  · have hopen : full (arrivedOnce t) = false := not_full_of_fewer he hfew
    rw [complete_open hopen] at ho
    cases ho
    rfl
  · have hfull : full (arrivedOnce t) = true := full_of_all he hlast
    have hopen : full (nextGeneration (arrivedOnce t)) = false := not_full_of_fewer he hpending
    rw [complete_full hl hfull, complete_open hopen] at ho
    cases ho
    rfl

theorem arwtT_current (hl : t.limit = 0) (hfew : t.arrived + 1 < t.n) (who : Member) (w : Waiter) :
    arwtT t who w nophase phase = .ok { t := arrivedOnce (awaitedBy t w) } := by
  have hopen : full (arrivedOnce (awaitedBy t w)) = false := not_full_of_fewer he hfew
  have hrecord := record_counted (t := awaitedBy t w) he who
  have hstays := complete_open (o := { t := arrivedOnce (awaitedBy t w) }) hopen 2
  simp [arwtT, phaseD_current hd, waitT_current hd hl, ok_bind, hrecord, hstays]

end Current

theorem waitT_completed (hl : t.limit = 0) (h : gen16 phase t.gen = -1) (w : Waiter) :
    waitT t w false phase = .ok { t := t, free := [w] } := by
  simp [waitT, hl, phaseD, h]

end Counted

/-! ### Waiters released (R225, R228, R238) -/

theorem flightAt_setFlight {g : Flight → Flight} (hg : ∀ f, (g f).id = f.id) (x : Core) (e : Engine) (j id : Nat) :
    flightAt (setFlight x j g) e id = (flightAt x e id).map (fun f => if f.id = j then g f else f) := by
  have hid : ((fun f : Flight => f.id == id) ∘ fun f => if f.id = j then g f else f) = fun f => f.id == id := by
    funext f
    rw [Function.comp_apply]
    split
    · rw [hg]
    · rfl
  have hflights : flightsOf (setFlight x j g) e = (flightsOf x e).map (fun f => if f.id = j then g f else f) :=
    look_mapTbl x.flights (fun _ l => l.map fun f : Flight => if f.id = j then g f else f) [] (engCode e) rfl
  rw [flightAt, hflights, List.find?_map, hid]
  rfl

theorem sameProgram_setFlight (x : Core) (j : Nat) (g : Flight → Flight) : SameProgram x (setFlight x j g) :=
  ⟨rfl, rfl, rfl, rfl, rfl, rfl, rfl, rfl, rfl, rfl⟩

/-- A flight whose work is done. -/
def doneFlight (st : Nat) (f : Flight) : Flight := { f with ready := true, status := if st = 0 then f.status else st }

theorem flightAt_flightDone (s : State) (k n j st : Nat) (e : Engine) (id : Nat) :
    flightAt (coreOf (flightDone s k n j st) k n) e id =
      (flightAt (coreOf s k n) e id).map (fun f => if f.id = j then doneFlight st f else f) := by
  rw [flightDone, coreOf_setCore]
  exact flightAt_setFlight (g := doneFlight st) (fun _ => rfl) ..

/-- Between two states no context differs, and core `n` of context `k` runs the same program with instructions of the same
numbers in flight. -/
structure Released (s t : State) (k n : Nat) : Prop where
  ctxs : t.ctxs = s.ctxs
  program : SameProgram (coreOf s k n) (coreOf t k n)
  inFlight : ∀ e id, (flightAt (coreOf t k n) e id).isSome = (flightAt (coreOf s k n) e id).isSome

namespace Released
variable {s t u : State} {k n : Nat}

theorem refl (s : State) (k n : Nat) : Released s s k n := ⟨rfl, .refl _, fun _ _ => rfl⟩

theorem trans (h : Released s t k n) (h' : Released t u k n) : Released s u k n :=
  ⟨h'.ctxs.trans h.ctxs, h.program.trans h'.program, fun e id => (h'.inFlight e id).trans (h.inFlight e id)⟩

theorem flightDone (s : State) (j m id st k n : Nat) : Released s (flightDone s j m id st) k n := by
  by_cases hkey : coreKey k n = coreKey j m
  · have hself : coreOf s k n = coreOf s j m := congrArg (look s.cores {}) hkey
    have hdone : coreOf (Machine.flightDone s j m id st) k n = coreOf (Machine.flightDone s j m id st) j m :=
      congrArg (look (Machine.flightDone s j m id st).cores {}) hkey
    refine ⟨rfl, ?_, fun e i => ?_⟩
    · rw [hdone, hself, Machine.flightDone, coreOf_setCore]
      exact sameProgram_setFlight ..
    · rw [hdone, hself, flightAt_flightDone, Option.isSome_map]
  · have hother : coreOf (Machine.flightDone s j m id st) k n = coreOf s k n := coreOf_setCore_other _ _ _ _ _ _ hkey
    exact ⟨rfl, hother ▸ .refl _, fun e i => by rw [hother]⟩

theorem freeWaiter (s : State) (j : Nat) (w : Waiter) (k n : Nat) : Released s (freeWaiter j s w) k n := by
  obtain ⟨hctxs, hprogram, hinFlight⟩ := flightDone s j w.lcore w.flight 0 k n
  exact ⟨hctxs, hprogram, hinFlight⟩

theorem freeWaiters (j : Nat) (ws : List Waiter) (s : State) (k n : Nat) : Released s (ws.foldl (Machine.freeWaiter j) s) k n :=
  List.foldlRecOn (motive := fun t : State => Released s t k n) ws _ (refl s k n) fun t ht w _ =>
    ht.trans (freeWaiter t j w k n)

end Released

/-- An instruction that is in flight is ready once it is done. -/
theorem flightDone_ready {s : State} {k n id : Nat} {e : Engine} (h : (flightAt (coreOf s k n) e id).isSome = true) (st : Nat) :
    ∃ g, flightAt (coreOf (flightDone s k n id st) k n) e id = some g ∧ g.ready = true := by
  obtain ⟨f, hf⟩ := Option.isSome_iff_exists.1 h
  rw [flightAt_flightDone, hf]
  exact ⟨doneFlight st f, congrArg some (if_pos (flightAt_id hf)), rfl⟩

/-- The result of an operation stored: the truss is that of the result, and the context and each of its cores go on. -/
theorem settle_stores (s : State) (k v : Nat) (o : TrOut) (n : Nat) :
    trussOf (settle s k v o).1 k v = o.t ∧ (ctxOf (settle s k v o).1 k).forwards = (ctxOf s k).forwards ∧
    SameProgram (coreOf s k n) (coreOf (settle s k v o).1 k n) ∧
    ∀ e id, (flightAt (coreOf (settle s k v o).1 k n) e id).isSome = (flightAt (coreOf s k n) e id).isSome := by
  have hfree := Released.freeWaiters k o.free (setTruss s k v o.t) k n
  have hctx : ctxOf (o.free.foldl (freeWaiter k) (setTruss s k v o.t)) k = ctxOf (setTruss s k v o.t) k :=
    congrArg (fun l => look l ({} : Ctx) k) hfree.ctxs
  have htruss : trussOf (o.free.foldl (freeWaiter k) (setTruss s k v o.t)) k v = o.t := by
    rw [trussOf, hctx]
    exact trussOf_setTruss s k v o.t
  have hforwards : (ctxOf (o.free.foldl (freeWaiter k) (setTruss s k v o.t)) k).forwards = (ctxOf s k).forwards := by
    rw [hctx, setTruss, ctxOf_setCtx]
  unfold settle
  dsimp only
  split
  · exact ⟨htruss, hforwards, hfree.program, hfree.inFlight⟩
  · refine ⟨?_, ?_, hfree.program, hfree.inFlight⟩
    · rw [trussOf, progress, ctxOf_setCtx]
      exact htruss
    · rw [progress, ctxOf_setCtx]
      exact hforwards

theorem forwards_none (fuel : Nat) (s : State) (k : Nat) : forwards fuel s k [] = (s, []) := by
  cases fuel <;> rfl

/-- With no forward waiting and none to make nothing is carried on. -/
theorem forwardOn_none {s : State} {k : Nat} (h : (ctxOf s k).forwards = []) : forwardOn s k [] = s := by
  simp only [forwardOn, h, List.append_nil, forwards_none, if_true]

/-- An operation carried out on a truss that forwards nothing. -/
theorem trussDo_settles {s : State} {k : Nat} {o : TrOut} (hf : (ctxOf s k).forwards = []) (ho : o.t.fwd = []) (v : Nat)
    (who : Member) (phase : Nat) : trussDo s k v who phase (.ok o) = ((settle s k v o).1, true) := by
  obtain ⟨-, hforwards, -⟩ := settle_stores s k v o 0
  have howed : (settle s k v o).2 = [] := by simp [settle, ho]
  simp only [trussDo]
  rw [howed, forwardOn_none (hforwards.trans hf)]

/-! ### TRUSS.ARRIVE, TRUSS.WAIT and TRUSS.ARWT at work -/

section Sync
variable {s : State} {c k id : Nat} {x : Core} {f : Flight} {nm ph : Word} {o : TrOut}

theorem trussOperands_of (ha : f.q.oa = .reg nm) (hb : f.q.ob = .reg ph) (hn : nmRsv nm = false) (hp : phRsv ph = false) :
    trussOperands f = .ok (nm, ph) := by
  simp [trussOperands, ha, hb, hn, hp]

/-- The state in which an instruction of the sync engine does its operation. -/
def syncRan (s : State) (k c : Nat) (f : Flight) : State := setFlightS s k c .sync { f with ran := true }

/-- An instruction of the sync engine whose work is an operation on a local truss that forwards nothing. -/
theorem exec_localTruss {op : TOp} {i : Instr} {eff : Nat → Core → Flight → Except Trap State} {opc : Nat} {waits : Bool}
    {r : State → Except TrErr TrOut} (h : ToDo s c k x (engOf op) op id f) (hi : exec i s = runStream op c id s eff)
    (he : eff k x f = .ok (localTruss s k c opc f nm waits fun u => trussDo u k (nmVtid nm) (.core c) (phVal ph) (r u)))
    (hn : nameOk s k nm = true) (hf : (ctxOf s k).forwards = []) (hr : r (syncRan s k c f) = .ok o) (ho : o.t.fwd = []) :
    exec i s = .next (if waits then (settle (syncRan s k c f) k (nmVtid nm) o).1
      else flightDone (settle (syncRan s k c f) k (nmVtid nm) o).1 k c f.id 0) := by
  have hran : (ctxOf (syncRan s k c f) k).forwards = [] := hf
  have hdo := trussDo_settles hran ho (nmVtid nm) (.core c) (phVal ph)
  rw [← hr, syncRan] at hdo
  rw [hi, runStream_works h he, localTruss, if_pos hn]
  exact congrArg (fun q => Host.Outcome.next (syncResult k c f waits q)) hdo

section Local
variable (hops : trussOperands f = .ok (nm, ph)) (hr : nmRemote nm = false) (hn : nameOk s k nm = true)
  (hf : (ctxOf s k).forwards = [])
include hops hr hn hf

theorem exec_trussArrive_local (h : ToDo s c k x .sync .trussArrive id f)
    (harrive : arriveT (trussOf s k (nmVtid nm)) (.core c) (phNo ph) (phVal ph) = .ok o) (ho : o.t.fwd = []) :
    exec (.trussArrive c (.run id)) s =
      .next (flightDone (settle (syncRan s k c f) k (nmVtid nm) o).1 k c f.id 0) := by
  refine exec_localTruss (ph := ph) (op := .trussArrive) (opc := 0x50) (waits := false)
    (r := fun u => arriveT (trussOf u k (nmVtid nm)) (.core c) (phNo ph) (phVal ph)) h (exec_trussArrive ..) ?_ hn hf harrive ho
  rw [hops, ok_bind]
  exact if_neg (by simp [hr])

theorem exec_trussWait_local (h : ToDo s c k x .sync .trussWait id f)
    (hwait : waitT (trussOf s k (nmVtid nm)) (waiterOf s c (trussOf s k (nmVtid nm)) f) (phNo ph) (phVal ph) = .ok o)
    (ho : o.t.fwd = []) : exec (.trussWait c (.run id)) s = .next (settle (syncRan s k c f) k (nmVtid nm) o).1 := by
  refine exec_localTruss (ph := ph) (op := .trussWait) (opc := 0x51) (waits := true)
    (r := fun u => waitT (trussOf u k (nmVtid nm)) (waiterOf u c (trussOf u k (nmVtid nm)) f) (phNo ph) (phVal ph))
    h (exec_trussWait ..) ?_ hn hf hwait ho
  rw [hops, ok_bind]
  exact if_neg (by simp [hr])

theorem exec_trussArwt_local (h : ToDo s c k x .sync .trussArwt id f)
    (harwt : arwtT (trussOf s k (nmVtid nm)) (.core c) (waiterOf s c (trussOf s k (nmVtid nm)) f) (phNo ph) (phVal ph) = .ok o)
    (ho : o.t.fwd = []) : exec (.trussArwt c (.run id)) s = .next (settle (syncRan s k c f) k (nmVtid nm) o).1 := by
  refine exec_localTruss (ph := ph) (op := .trussArwt) (opc := 0x52) (waits := true)
    (r := fun u => arwtT (trussOf u k (nmVtid nm)) (.core c) (waiterOf u c (trussOf u k (nmVtid nm)) f) (phNo ph) (phVal ph))
    h (exec_trussArwt ..) ?_ hn hf harwt ho
  rw [hops, ok_bind]
  exact if_neg (by simp [hr])

end Local

section Ran
variable (hx : coreOf s k c = x) (hat : flightAt x .sync id = some f)
include hx hat

/-- What the result of an operation stored leaves of the instruction that made it. -/
theorem settled_keeps (v : Nat) (o : TrOut) : (settle (syncRan s k c f) k v o).1.mem = s.mem ∧
    SameProgram x (coreOf (settle (syncRan s k c f) k v o).1 k c) ∧ trussOf (settle (syncRan s k c f) k v o).1 k v = o.t ∧
    (flightAt (coreOf (settle (syncRan s k c f) k v o).1 k c) .sync id).isSome = true := by
  obtain ⟨-, hprogram, hflight⟩ := putPlan (g := { f with ran := true }) hx hat rfl
  obtain ⟨htruss, -, hprogram', hinFlight⟩ := settle_stores (syncRan s k c f) k v o c
  refine ⟨settle_mem .., hprogram.trans hprogram', htruss, (hinFlight .sync id).trans ?_⟩
  rw [syncRan, hflight]
  rfl

/-- An instruction registered as a waiter is in flight and has run. -/
theorem registered_keeps (v : Nat) (t : Truss) : (settle (syncRan s k c f) k v { t := t }).1.mem = s.mem ∧
    SameProgram x (coreOf (settle (syncRan s k c f) k v { t := t }).1 k c) ∧
    trussOf (settle (syncRan s k c f) k v { t := t }).1 k v = t ∧
    flightAt (coreOf (settle (syncRan s k c f) k v { t := t }).1 k c) .sync id = some { f with ran := true } := by
  obtain ⟨hmem, hprogram, htruss, -⟩ := settled_keeps hx hat v { t := t }
  obtain ⟨-, -, hflight⟩ := putPlan (g := { f with ran := true }) hx hat rfl
  exact ⟨hmem, hprogram, htruss, hflight⟩

/-- A waiter that an operation releases at once is ready. -/
theorem released_ready (v : Nat) (t : Truss) (w : Waiter) (hc : w.lcore = c) (hid : w.flight = id) :
    ∃ g, flightAt (coreOf (settle (syncRan s k c f) k v { t := t, free := [w] }).1 k c) .sync id = some g ∧ g.ready = true := by
  obtain ⟨-, -, -, hinFlight⟩ := settled_keeps hx hat v { t := t }
  subst hc hid
  exact flightDone_ready hinFlight 0

end Ran

/-- An instruction that traps with an unpredictable result changes its own flight only, before the result of its context. -/
theorem sync_unpredictable {op : TOp} {i : Instr} {eff : Nat → Core → Flight → Except Trap State} {v : Unpred}
    (h : ToDo s c k x (engOf op) op id f) (hi : exec i s = runStream op c id s eff) (he : eff k x f = .error (.unpred v)) :
    Completes i s (fun t => ∃ u, t = wild u k ∧ OnlyCore s u k c ∧ SameProgram x (coreOf u k c)) := by
  obtain ⟨t, ht, u, hu, -, honly, hprogram, -⟩ :=
    unpredictable_completes (op := op) (coreAtWork_core h.1) h.2.1 (hi.trans (runStream_traps h he))
  exact ⟨t, ht, u, hu, honly, hprogram⟩

section Remote
variable (hops : trussOperands f = .ok (nm, ph)) (hr : nmRemote nm = true)
include hops hr

theorem trussWait_remote (h : ToDo s c k x .sync .trussWait id f) : Completes (.trussWait c (.run id)) s (fun t =>
    ∃ u, t = wild u k ∧ OnlyCore s u k c ∧ SameProgram x (coreOf u k c)) := by
  refine sync_unpredictable (op := .trussWait) (v := .remoteWait) h (exec_trussWait ..) ?_
  rw [hops, ok_bind]
  exact if_pos hr

theorem trussArwt_remote (h : ToDo s c k x .sync .trussArwt id f) : Completes (.trussArwt c (.run id)) s (fun t =>
    ∃ u, t = wild u k ∧ OnlyCore s u k c ∧ SameProgram x (coreOf u k c)) := by
  refine sync_unpredictable (op := .trussArwt) (v := .remoteWait) h (exec_trussArwt ..) ?_
  rw [hops, ok_bind]
  exact if_pos hr

end Remote

section Local
variable (hops : trussOperands f = .ok (nm, ph)) (hr : nmRemote nm = false) (hn : nameOk s k nm = true)
  (hf : (ctxOf s k).forwards = []) {b : Truss} (hb : trussOf s k (nmVtid nm) = b) (hl : b.limit = 0) (hfwd : b.fwd = [])
include hops hr hn hf hb hl hfwd

theorem trussArrive_arrives (h : ToDo s c k x .sync .trussArrive id f) (he : b.enrolled = false)
    (hd : phNo ph = true ∨ gen16 (phVal ph) b.gen = 0) : Completes (.trussArrive c (.run id)) s (fun t => t.mem = s.mem ∧
      SameProgram x (coreOf t k c) ∧ (∃ g, flightAt (coreOf t k c) .sync id = some g ∧ g.ready = true) ∧
      (b.arrived + 1 < b.n → trussOf t k (nmVtid nm) = arrivedOnce b) ∧
      (b.n ≤ b.arrived + 1 → b.pending < b.n → trussOf t k (nmVtid nm) = nextGeneration b)) := by
  obtain ⟨o, harrive, hofwd, hmore, hnext⟩ := arriveT_counted he hd hl (.core c)
  obtain ⟨hmem, hprogram, htruss, hinFlight⟩ := settled_keeps (coreAtWork_core h.1) h.2.1 (nmVtid nm) o
  have hdone := Released.flightDone (settle (syncRan s k c f) k (nmVtid nm) o).1 k c f.id 0 k c
  have htruss' : trussOf (flightDone (settle (syncRan s k c f) k (nmVtid nm) o).1 k c f.id 0) k (nmVtid nm) = o.t := htruss
  refine ⟨_, exec_trussArrive_local hops hr hn hf h (hb ▸ harrive) (hofwd.trans hfwd), (flightDone_mem ..).trans hmem,
    hprogram.trans hdone.program, ?_, fun hfew => htruss'.trans (hmore hfew), fun hlast hp => htruss'.trans (hnext hlast hp)⟩
  rw [flightAt_id h.2.1]
  exact flightDone_ready hinFlight 0

theorem trussWait_over (h : ToDo s c k x .sync .trussWait id f) (hp : phNo ph = false) (hd : gen16 (phVal ph) b.gen = -1) :
    Completes (.trussWait c (.run id)) s (fun t => t.mem = s.mem ∧ SameProgram x (coreOf t k c) ∧
      trussOf t k (nmVtid nm) = b ∧ ∃ g, flightAt (coreOf t k c) .sync id = some g ∧ g.ready = true) := by
  have hx := coreAtWork_core h.1
  obtain ⟨hmem, hprogram, htruss, -⟩ := settled_keeps hx h.2.1 (nmVtid nm) { t := b, free := [waiterOf s c b f] }
  refine ⟨_, exec_trussWait_local hops hr hn hf h ?_ hfwd, hmem, hprogram, htruss,
    released_ready hx h.2.1 (nmVtid nm) b (waiterOf s c b f) rfl (flightAt_id h.2.1)⟩
  rw [hb, hp]
  exact waitT_completed hl hd _

theorem trussWait_registers (h : ToDo s c k x .sync .trussWait id f) (hd : phNo ph = true ∨ gen16 (phVal ph) b.gen = 0) :
    Completes (.trussWait c (.run id)) s (fun t => t.mem = s.mem ∧ SameProgram x (coreOf t k c) ∧
      trussOf t k (nmVtid nm) = { b with waiters := b.waiters ++ [⟨c, id, b.gen % 0x1_0000, s.clock.ns⟩] } ∧
      flightAt (coreOf t k c) .sync id = some { f with ran := true }) := by
  refine ⟨_, exec_trussWait_local hops hr hn hf h ?_ hfwd, registered_keeps (coreAtWork_core h.1) h.2.1 ..⟩
  rw [hb, waitT_current hd hl, ← flightAt_id h.2.1]
  rfl

theorem trussArwt_registers (h : ToDo s c k x .sync .trussArwt id f) (he : b.enrolled = false)
    (hd : phNo ph = true ∨ gen16 (phVal ph) b.gen = 0) (hfew : b.arrived + 1 < b.n) :
    Completes (.trussArwt c (.run id)) s (fun t => t.mem = s.mem ∧ SameProgram x (coreOf t k c) ∧
      trussOf t k (nmVtid nm) = { b with
        arrived := b.arrived + 1, waiters := b.waiters ++ [⟨c, id, b.gen % 0x1_0000, s.clock.ns⟩] } ∧
      flightAt (coreOf t k c) .sync id = some { f with ran := true }) := by
  refine ⟨_, exec_trussArwt_local hops hr hn hf h ?_ hfwd, registered_keeps (coreAtWork_core h.1) h.2.1 ..⟩
  rw [hb, arwtT_current he hd hl hfew, ← flightAt_id h.2.1]
  rfl

end Local

end Sync

/-- Settles O15: what each operation leaves of one truss (`arriveT_counted`, `waitT_current`, `waitT_completed`,
`arwtT_current`), then stored without touching memory or a program (`settled_keeps`). -/
theorem trusses : Obligations.Trusses := by
  unfold Obligations.Trusses
  refine ⟨fun s c k id x f nm ph h ha hb hnm hph hr hn hf he hl hfwd hd => ?_,
    fun s c k id x f nm ph ha hb hnm hph hf => ?_⟩
  · exact trussArrive_arrives (trussOperands_of ha hb hnm hph) hr hn hf rfl hl hfwd h he hd
  · have hops := trussOperands_of ha hb hnm hph
    refine ⟨fun h hr => trussWait_remote hops hr h, fun h hr => trussArwt_remote hops hr h, fun hr hn hl he hfwd =>
      ⟨fun h hp hd => ?_, fun h hd => ?_, fun h hd hfew => ?_⟩⟩
    · exact trussWait_over hops hr hn hf rfl hl hfwd h hp hd
    · exact trussWait_registers hops hr hn hf rfl hl hfwd h hd
    · exact trussArwt_registers hops hr hn hf rfl hl hfwd h he hd hfew

end Sys2Proof.Machine

/-! ## Links of the Chain (R243 to R251) -/

namespace Sys2Proof.Machine

/-! ### What sending leaves of a direction -/

/-- Between two states of a direction flits were put in line and sent, and nothing was received or sent again. -/
structure Sends (d e : Dir) : Prop where
  expect : e.expect = d.expect
  nakSent : e.nakSent = d.nakSent
  replaySeq : e.replaySeq = d.replaySeq
  buffer : d.buffer <+: e.buffer

/-- Between two states of the Chain no direction did more than send. -/
structure SendsOnly (c e : Chain) : Prop where
  atKey : ∀ key, Sends (look c.dirs {} key) (look e.dirs {} key)

theorem Sends.refl (d : Dir) : Sends d d := ⟨rfl, rfl, rfl, List.prefix_rfl⟩

theorem Sends.trans {c d e : Dir} (h : Sends c d) (h' : Sends d e) : Sends c e :=
  ⟨h'.expect.trans h.expect, h'.nakSent.trans h.nakSent, h'.replaySeq.trans h.replaySeq, h.buffer.trans h'.buffer⟩

/-- The flits of a replay buffer stay in front, whatever their times. -/
theorem Sends.flits {d e : Dir} (h : Sends d e) : ∃ l, e.buffer.map (fun f => f.2) = d.buffer.map (fun f => f.2) ++ l := by
  obtain ⟨l, hl⟩ := h.buffer
  exact ⟨l.map (fun f => f.2), by rw [← hl, List.map_append]⟩

theorem SendsOnly.refl (c : Chain) : SendsOnly c c := ⟨fun _ => .refl _⟩

theorem SendsOnly.trans {c d e : Chain} (h : SendsOnly c d) (h' : SendsOnly d e) : SendsOnly c e :=
  ⟨fun key => (h.atKey key).trans (h'.atKey key)⟩

theorem SendsOnly.dirOf {s t : State} (h : SendsOnly s.chain t.chain) (j g : Nat) (up : Bool) :
    Sends (dirOf s j g up) (dirOf t j g up) := h.atKey _

/-- A direction of which no more than sending is seen put in its place. -/
theorem sendsOnly_put {c e : Chain} {key : Nat} {d : Dir} (he : e.dirs = put c.dirs key d) (h : Sends (look c.dirs {} key) d) :
    SendsOnly c e := by
  refine ⟨fun q => ?_⟩
  rw [he]
  by_cases hq : q = key
  · subst hq
    rw [look_put_same]
    exact h
  · rw [look_put_other _ _ _ _ _ hq]
    exact .refl _

/-- The two directions of a lane group are kept apart. -/
theorem dirKey_opposite (g : Nat) (up : Bool) : 2 * g + b1 (!up) ≠ 2 * g + b1 up := by
  cases up <;> simp [b1]

theorem sendsOnly_pumpDir (n : Nat) (ch : Chain) (now g : Nat) (up : Bool) : SendsOnly ch (pumpDir n ch now g up) := by
  fun_induction pumpDir with
  | case1 | case2 | case3 => exact .refl _
  | case4 ch n key rev d r f t hw hroom d1 r1 ih =>
    have hsent : SendsOnly ch { ch with dirs := put ch.dirs key d1 } :=
      sendsOnly_put rfl ⟨rfl, rfl, rfl, List.prefix_append ..⟩
    have howed : Sends (look (put ch.dirs key d1) {} rev) r1 := by
      rw [look_put_other _ _ _ _ _ (dirKey_opposite g up)]
      unfold r1
      split
      · exact ⟨rfl, rfl, rfl, List.prefix_rfl⟩
      · exact .refl _
    exact (hsent.trans (sendsOnly_put rfl howed)).trans ih

theorem pumpDir_frame (n : Nat) (ch : Chain) (now g : Nat) (up : Bool) :
    pumpDir n ch now g up = { ch with dirs := (pumpDir n ch now g up).dirs } := by
  fun_induction pumpDir with
  | case1 | case2 | case3 => rfl
  | case4 ch n key rev d r f t hw hroom d1 r1 ih => exact ih

/-- Flits in line on a direction, before any of them is sent. -/
def inLine (ch : Chain) (g : Nat × Bool) (front : Bool) (fs : List Flit) : Chain :=
  let d := look ch.dirs {} (2 * g.1 + b1 g.2)
  { ch with dirs := put ch.dirs (2 * g.1 + b1 g.2) { d with waiting := if front then fs ++ d.waiting else d.waiting ++ fs } }

theorem queueFlits_eq (ch : Chain) (now : Nat) (g : Nat × Bool) (front : Bool) (fs : List Flit) :
    ∃ n, fs.length ≤ n ∧ queueFlits ch now g front fs = pumpDir n (inLine ch g front fs) now g.1 g.2 := by
  refine ⟨_, ?_, rfl⟩
  split <;> simp

theorem sendsOnly_inLine (ch : Chain) (g : Nat × Bool) (front : Bool) (fs : List Flit) : SendsOnly ch (inLine ch g front fs) :=
  sendsOnly_put rfl ⟨rfl, rfl, rfl, List.prefix_rfl⟩

theorem sendsOnly_queueFlits (ch : Chain) (now : Nat) (g : Nat × Bool) (front : Bool) (fs : List Flit) :
    SendsOnly ch (queueFlits ch now g front fs) :=
  (sendsOnly_inLine ch g front fs).trans (sendsOnly_pumpDir ..)

theorem queueFlits_frame (ch : Chain) (now : Nat) (g : Nat × Bool) (front : Bool) (fs : List Flit) :
    queueFlits ch now g front fs = { ch with dirs := (queueFlits ch now g front fs).dirs } := by
  unfold queueFlits
  dsimp only
  rw [pumpDir_frame]

/-! ### What is put in line is sent or waits -/

/-- The IDLE flits that a direction has in line or in its replay buffer. -/
def idles (d : Dir) : Nat := ((d.waiting ++ d.buffer.map (fun e => e.2)).filter (fun f => f.kind == 0)).length

theorem idles_pumpDir (n : Nat) (ch : Chain) (now g : Nat) (up : Bool) :
    idles (look (pumpDir n ch now g up).dirs {} (2 * g + b1 up)) = idles (look ch.dirs {} (2 * g + b1 up)) := by
  fun_induction pumpDir with
  | case1 | case2 | case3 => rfl
  | case4 ch n key rev d r f t hw hroom d1 r1 ih =>
    have hseal : (sealFlit d r f).kind = f.kind := rfl
    rw [ih, look_put_other _ _ _ _ _ (dirKey_opposite g up).symm, look_put_same]
    change idles d1 = idles d
    simp only [idles, d1, hw, List.map_append, List.map_cons, List.map_nil, List.filter_append, List.length_append,
      List.filter_cons, List.filter_nil, List.cons_append, hseal]
    split
    · simp; omega
    · simp

/-- Flits put at the head of a line are counted where they are, waiting or sent. -/
theorem idles_queueFlits (ch : Chain) (now g : Nat) (up : Bool) (fs : List Flit) :
    idles (look (queueFlits ch now (g, up) true fs).dirs {} (2 * g + b1 up)) =
      (fs.filter (fun f => f.kind == 0)).length + idles (look ch.dirs {} (2 * g + b1 up)) := by
  obtain ⟨n, -, hq⟩ := queueFlits_eq ch now (g, up) true fs
  rw [hq, idles_pumpDir]
  simp [inLine, idles, look_put_same]

/-- The first flit in line goes at once where the replay buffer has room. -/
theorem pumpDir_first {ch : Chain} {g : Nat} {up : Bool} {f : Flit} {w : List Flit}
    (hw : (look ch.dirs {} (2 * g + b1 up)).waiting = f :: w) (hroom : (look ch.dirs {} (2 * g + b1 up)).buffer.length < 512)
    (n now : Nat) : ∃ d, (now, sealFlit d (look ch.dirs {} (2 * g + b1 (!up))) f) ∈
      (look (pumpDir (n + 1) ch now g up).dirs {} (2 * g + b1 up)).buffer := by
  rw [pumpDir]
  simp only [hw, if_neg (Nat.not_le.2 hroom)]
  refine ⟨look ch.dirs {} (2 * g + b1 up), ((sendsOnly_pumpDir n _ now g up).atKey _).buffer.subset ?_⟩
  rw [look_put_other _ _ _ _ _ (dirKey_opposite g up).symm, look_put_same]
  exact List.mem_append_right _ (List.mem_singleton_self _)

/-- A flit put at the head of the line is sent, where the replay buffer has room, with what its end has received. -/
theorem queueFlits_first {ch : Chain} {g : Nat} {up : Bool} (hroom : (look ch.dirs {} (2 * g + b1 up)).buffer.length < 512)
    (now : Nat) (f : Flit) : ∃ d, (now, sealFlit d (look ch.dirs {} (2 * g + b1 (!up))) f) ∈
      (look (queueFlits ch now (g, up) true [f]).dirs {} (2 * g + b1 up)).buffer := by
  obtain ⟨n, hn, hq⟩ := queueFlits_eq ch now (g, up) true [f]
  obtain ⟨m, rfl⟩ := Nat.exists_eq_add_of_le' (show 1 ≤ n from hn)
  have hr : look (inLine ch (g, up) true [f]).dirs {} (2 * g + b1 (!up)) = look ch.dirs {} (2 * g + b1 (!up)) :=
    look_put_other _ _ _ _ _ (dirKey_opposite g up)
  have hd : look (inLine ch (g, up) true [f]).dirs {} (2 * g + b1 up) =
      { look ch.dirs {} (2 * g + b1 up) with waiting := f :: (look ch.dirs {} (2 * g + b1 up)).waiting } :=
    look_put_same ..
  rw [hq, ← hr]
  exact pumpDir_first (by rw [hd]) (by rw [hd]; exact hroom) m now

/-! ### Placement and the Chain stay -/

/-- The grains poisoned that the bits of a flit mark. -/
def markGrains (b : BitVec 5) (s : State) (l : List (Nat × Nat)) : State :=
  l.foldl (fun s q => if b.getLsbD q.2 then poisonGrain s (q.1 * 64) else s) s

/-- The die at which a direction of a join ends. -/
def receivingDie (j : Nat) (up : Bool) : Nat := if up then (joinEnds j).2 else (joinEnds j).1

theorem takeData_eq (s : State) (j g : Nat) (up : Bool) (f : Flit) (w : Arriving) : takeData s j g up f w =
    if f.destDie ≠ receivingDie j up ∨ (flitData f).take (w.count - w.off) = [] ∨
        s.chain.bursts.any (fun b => b.tag == w.tag && b.group == 16 * j + g) = true ∨
        Config.scratchDpa + 336 * Config.scratchBytes < w.addr + w.off + ((flitData f).take (w.count - w.off)).length then s
    else markGrains f.poison (writeDpa s (w.addr + w.off) ((flitData f).take (w.count - w.off)) false)
      (grainsOf (w.addr + w.off) ((flitData f).take (w.count - w.off)).length).zipIdx := rfl

theorem markGrains_cells (b : BitVec 5) (s : State) (l : List (Nat × Nat)) : (markGrains b s l).mem.cells = s.mem.cells := by
  refine foldl_cells (fun s q => ?_) l s
  split <;> rfl

/-- Between two states placement and the Chain do not differ. -/
structure SameFabric (s t : State) : Prop where
  place : t.place = s.place
  chain : t.chain = s.chain

namespace SameFabric

theorem refl (s : State) : SameFabric s s := ⟨rfl, rfl⟩

theorem trans {s t u : State} (h : SameFabric s t) (h' : SameFabric t u) : SameFabric s u :=
  ⟨h'.place.trans h.place, h'.chain.trans h.chain⟩

theorem foldl {α : Type} {f : State → α → State} (hf : ∀ s a, SameFabric s (f s a)) (l : List α) (s : State) :
    SameFabric s (l.foldl f s) := List.foldlRecOn l f (refl s) fun t ht a _ => ht.trans (hf t a)

theorem sendHello (s : State) (peer : Nat) (reply : Bool) : SameFabric s (sendHello s peer reply) := by
  unfold Machine.sendHello sendCtl askFor
  split
  · exact ⟨rfl, rfl⟩
  · rw [Option.getD_none]
    split <;> exact ⟨rfl, rfl⟩

theorem openSess (s : State) (peer : Nat) : SameFabric s (openSess s peer) := by
  unfold Machine.openSess
  dsimp only
  split_ifs
  · exact refl s
  · exact ⟨rfl, rfl⟩
  · exact trans (t := setSess s peer _) ⟨rfl, rfl⟩ (sendHello ..)
  · exact ⟨rfl, rfl⟩

theorem enqueue (s : State) (o : Sender) (bs : List Block) : SameFabric s (enqueue s o bs) :=
  (openSess s o.peer).trans ⟨rfl, rfl⟩

theorem settle (s : State) (k v : Nat) (o : TrOut) : SameFabric s (settle s k v o).1 := by
  have hfree : SameFabric s (o.free.foldl (freeWaiter k) (setTruss s k v o.t)) :=
    trans (t := setTruss s k v o.t) ⟨rfl, rfl⟩ (foldl (f := freeWaiter k) (fun _ _ => ⟨rfl, rfl⟩) _ _)
  unfold Machine.settle
  dsimp only
  split_ifs
  · exact hfree
  · exact hfree.trans ⟨rfl, rfl⟩

theorem forward (s : State) (k : Nat) (f : Fwd) : SameFabric s (forward s k f).1 := by
  fun_cases Machine.forward
  case case1 => exact enqueue ..
  case case5 => exact settle ..
  all_goals exact ⟨rfl, rfl⟩

theorem forwards (fuel : Nat) (s : State) (k : Nat) (fs : List Fwd) : SameFabric s (forwards fuel s k fs).1 := by
  fun_induction Machine.forwards with
  | case3 s n f r p ih => exact (forward s k f).trans ih
  | _ => exact refl _

theorem trussDo (s : State) (k v : Nat) (who : Member) (phase : Nat) (r : Except TrErr TrOut) :
    SameFabric s (trussDo s k v who phase r).1 := by
  unfold Machine.trussDo
  split
  · exact ⟨rfl, rfl⟩
  · next o =>
    refine (settle s k v o).trans ?_
    unfold forwardOn
    dsimp only
    split_ifs
    · exact forwards ..
    · exact (forwards ..).trans ⟨rfl, rfl⟩

theorem ridgeArrive (s : State) (k n : Nat) (f : Flight) : SameFabric s (ridgeArrive s k n f) := by
  unfold Machine.ridgeArrive
  dsimp only
  split
  · split_ifs
    · exact trans (trussDo ..) ⟨rfl, rfl⟩
    · exact ⟨rfl, rfl⟩
  · exact ⟨rfl, rfl⟩

theorem landed (s : State) (k n : Nat) (f : Flight) : SameFabric s (landed s k n f) := by
  unfold Machine.landed
  split_ifs
  · exact ⟨rfl, rfl⟩
  · exact ⟨rfl, rfl⟩
  · exact trans (t := setFlightS s k n .stream f) ⟨rfl, rfl⟩ (ridgeArrive ..)
  · exact ⟨rfl, rfl⟩

theorem setFlightS (s : State) (k n : Nat) (e : Engine) (f : Flight) : SameFabric s (setFlightS s k n e f) := ⟨rfl, rfl⟩

/-- The grains of a lost burst are poisoned, and its transfer goes on behind them. -/
theorem failBurst (s : State) (b : ChainBurst) : SameFabric s (failBurst s b) := by
  unfold Machine.failBurst
  dsimp only
  split
  · exact refl s
  · split
    · exact refl s
    · split
      · refine trans (foldl (fun s g => ?_) _ s) (setFlightS ..)
        split <;> exact ⟨rfl, rfl⟩
      · refine trans (foldl (fun s g => ?_) _ s) (landed ..)
        split <;> exact ⟨rfl, rfl⟩

theorem markGrains (b : BitVec 5) (s : State) (l : List (Nat × Nat)) : SameFabric s (markGrains b s l) := by
  refine foldl (fun s q => ?_) l s
  split <;> exact ⟨rfl, rfl⟩

theorem takeData (s : State) (j g : Nat) (up : Bool) (f : Flit) (w : Arriving) : SameFabric s (takeData s j g up f w) := by
  rw [takeData_eq]
  split
  · exact refl s
  · exact trans (t := writeDpa s _ _ false) ⟨rfl, rfl⟩ (markGrains ..)

end SameFabric

/-! ### Acknowledgement and replay (R244, R245) -/

theorem dirOf_setDir (s : State) (j g : Nat) (up : Bool) (d : Dir) : dirOf (setDir s j g up d) j g up = d := look_put_same ..

theorem dirOf_setDir_opposite (s : State) (j g : Nat) (up : Bool) (d : Dir) :
    dirOf (setDir s j g up d) j g (!up) = dirOf s j g (!up) :=
  look_put_other _ _ _ _ _ (dirKey_opposite (16 * j + g) up)

/-- What a replay makes of a direction whose oldest flit is `f`. -/
def replayed (now : Nat) (d : Dir) (f : Nat × Flit) : Dir :=
  { d with
    replays := if d.replays ≠ 0 ∧ d.replaySeq = f.2.seq then d.replays + 1 else 1
    replaySeq := f.2.seq
    buffer := d.buffer.map (fun e => (now, e.2)), sent := d.sent + d.buffer.length
    discarded := (f.2.seq + 4096 - d.expect) % 4096, nakSent := false }

section Replay
variable {s : State} {j g : Nat} {up : Bool}

theorem replayDir_empty (hb : (dirOf s j g up).buffer = []) : replayDir s j g up = s := by
  simp [replayDir, hb]

theorem replayDir_fabric {f : Nat × Flit} {r : List (Nat × Flit)} (hb : (dirOf s j g up).buffer = f :: r) :
    SameFabric (setDir s j g up (replayed s.clock.ns (dirOf s j g up) f)) (replayDir s j g up) := by
  unfold replayDir
  simp only [hb, List.head?_cons]
  rw [← hb]
  exact .foldl (f := fun s l => bump s 5 (256 * j + physLane s.chain j l) 0x71 1) (fun _ _ => ⟨rfl, rfl⟩) ..

theorem replayDir_place (s : State) (j g : Nat) (up : Bool) : (replayDir s j g up).place = s.place := by
  cases hb : (dirOf s j g up).buffer with
  | nil => rw [replayDir_empty hb]
  | cons f r => exact (replayDir_fabric hb).place

theorem dirOf_replayDir {f : Nat × Flit} {r : List (Nat × Flit)} (hb : (dirOf s j g up).buffer = f :: r) :
    dirOf (replayDir s j g up) j g up = replayed s.clock.ns (dirOf s j g up) f := by
  rw [dirOf, (replayDir_fabric hb).chain]
  exact dirOf_setDir ..

theorem dirOf_replayDir_opposite (s : State) (j g : Nat) (up : Bool) :
    dirOf (replayDir s j g up) j g (!up) = dirOf s j g (!up) := by
  cases hb : (dirOf s j g up).buffer with
  | nil => rw [replayDir_empty hb]
  | cons f r =>
    rw [dirOf, (replayDir_fabric hb).chain]
    exact dirOf_setDir_opposite ..

/-- A replay sends the flits of the buffer again, in their order. -/
theorem replayDir_flits (s : State) (j g : Nat) (up : Bool) :
    (dirOf (replayDir s j g up) j g up).buffer.map (fun e => e.2) = (dirOf s j g up).buffer.map (fun e => e.2) := by
  cases hb : (dirOf s j g up).buffer with
  | nil => rw [replayDir_empty hb, hb]
  | cons f r => rw [dirOf_replayDir hb, replayed, List.map_map, ← hb]; rfl

/-- An acknowledgement taken out of the buffer. -/
def ackTaken (s : State) (j g : Nat) (up : Bool) (a : Nat) : State :=
  let d := dirOf s j g up
  let b := ackBuffer d.buffer a
  setDir s j g up { d with buffer := b, replays := if b.length < d.buffer.length then 0 else d.replays }

/-- An acknowledgement taken out of the buffer, and the rest replayed where it is a NAK. -/
def ackHeard (s : State) (j g : Nat) (up : Bool) (a : Nat) (nak : Bool) : State :=
  if nak then replayDir (ackTaken s j g up a) j g up else ackTaken s j g up a

theorem ackTaken_buffer (s : State) (j g : Nat) (up : Bool) (a : Nat) :
    (dirOf (ackTaken s j g up a) j g up).buffer = ackBuffer (dirOf s j g up).buffer a := by
  rw [ackTaken, dirOf_setDir]

theorem acked_sendsOnly (s : State) (j g : Nat) (up : Bool) (a : Nat) (nak : Bool) :
    SendsOnly (ackHeard s j g up a nak).chain (acked s j g up a nak).chain := by
  have hprune : SendsOnly (ackHeard s j g up a nak).chain (pruneBursts (ackHeard s j g up a nak).chain (16 * j + g)) :=
    ⟨fun _ => .refl _⟩
  exact hprune.trans (sendsOnly_pumpDir ..)

theorem acked_place (s : State) (j g : Nat) (up : Bool) (a : Nat) (nak : Bool) : (acked s j g up a nak).place = s.place := by
  change (ackHeard s j g up a nak).place = s.place
  cases nak
  · rfl
  · exact replayDir_place ..

/-- What is left of the buffer stands in front of the flits sent since. -/
theorem acked_buffer (s : State) (j g : Nat) (up : Bool) (a : Nat) (nak : Bool) :
    ∃ l, (dirOf (acked s j g up a nak) j g up).buffer.map (fun e => e.2) =
      (ackBuffer (dirOf s j g up).buffer a).map (fun e => e.2) ++ l := by
  obtain ⟨l, hl⟩ := ((acked_sendsOnly s j g up a nak).dirOf j g up).flits
  have hheard : (dirOf (ackHeard s j g up a nak) j g up).buffer.map (fun e => e.2) =
      (ackBuffer (dirOf s j g up).buffer a).map (fun e => e.2) := by
    rw [← ackTaken_buffer]
    cases nak
    · rfl
    · exact replayDir_flits ..
  exact ⟨l, hl.trans (by rw [hheard])⟩

/-- The other direction of the group does no more than send. -/
theorem acked_opposite (s : State) (j g : Nat) (up : Bool) (a : Nat) (nak : Bool) :
    Sends (dirOf s j g (!up)) (dirOf (acked s j g up a nak) j g (!up)) := by
  have hheard : dirOf (ackHeard s j g up a nak) j g (!up) = dirOf s j g (!up) := by
    cases nak
    · exact dirOf_setDir_opposite ..
    · exact (dirOf_replayDir_opposite ..).trans (dirOf_setDir_opposite ..)
  exact hheard ▸ (acked_sendsOnly s j g up a nak).dirOf j g (!up)

/-- A NAK begins the replay at the oldest flit it leaves. -/
theorem acked_replaySeq {a : Nat} {f : Nat × Flit} {r : List (Nat × Flit)} (hb : ackBuffer (dirOf s j g up).buffer a = f :: r) :
    (dirOf (acked s j g up a true) j g up).replaySeq = f.2.seq := by
  rw [((acked_sendsOnly s j g up a true).dirOf j g up).replaySeq]
  exact congrArg Dir.replaySeq (dirOf_replayDir ((ackTaken_buffer ..).trans hb))

end Replay

/-! ### Discarding a flit (R245) -/

/-- A flit discarded, before its NAK is sent. -/
def flitDropped (s : State) (j g : Nat) (up : Bool) (f : Flit) : State :=
  let d := dirOf s j g up
  let crc := flitCrcOk f
  setDir s j g up { d with
    discarded := (if crc then f.seq + 4097 - d.expect else d.discarded + 1) % 4096, nakSent := true
    bad := if crc then d.bad else d.bad ++ [((d.expect + d.discarded) % 4096, f)] }

theorem discard_eq (s : State) (j g : Nat) (up : Bool) (f : Flit) : discard s j g up f =
    if (dirOf s j g up).nakSent then flitDropped s j g up f
    else { flitDropped s j g up f with
      chain := queueFlits (flitDropped s j g up f).chain s.clock.ns (16 * j + g, !up) true [linkFlit 0 [] true] } := rfl

theorem sealFlit_ack (d r : Dir) (f : Flit) : (sealFlit d r f).ack = (r.expect + 4095) % 4096 := rfl

section Discard
variable (s : State) (j g : Nat) (up : Bool) (f : Flit)

theorem discard_place : (discard s j g up f).place = s.place := by
  rw [discard_eq]
  split <;> rfl

theorem discard_sendsOnly : SendsOnly (flitDropped s j g up f).chain (discard s j g up f).chain := by
  rw [discard_eq]
  split
  · exact .refl _
  · exact sendsOnly_queueFlits ..

/-- The expected SEQ stays, and a NAK has been sent. -/
theorem discard_direction : (dirOf (discard s j g up f) j g up).nakSent = true ∧
    (dirOf (discard s j g up f) j g up).expect = (dirOf s j g up).expect := by
  have h := (discard_sendsOnly s j g up f).dirOf j g up
  rw [h.nakSent, h.expect, flitDropped, dirOf_setDir]
  exact ⟨rfl, rfl⟩

/-- Within a row of discarded flits nothing more is answered. -/
theorem discard_silent (hn : (dirOf s j g up).nakSent = true) : dirOf (discard s j g up f) j g (!up) = dirOf s j g (!up) := by
  rw [discard_eq, if_pos hn]
  exact dirOf_setDir_opposite ..

/-- The first of a row is answered with a NAK of the last flit accepted. -/
theorem discard_nak (hn : (dirOf s j g up).nakSent = false) (hroom : (dirOf s j g (!up)).buffer.length < 512) :
    ∃ e ∈ (dirOf (discard s j g up f) j g (!up)).buffer, e.2.nak = true ∧ e.2.ackValid = true ∧
      e.2.ack = ((dirOf s j g up).expect + 4095) % 4096 := by
  have hsend : look (flitDropped s j g up f).chain.dirs {} (2 * (16 * j + g) + b1 (!up)) = dirOf s j g (!up) :=
    dirOf_setDir_opposite ..
  have hreceive : (look (flitDropped s j g up f).chain.dirs {} (2 * (16 * j + g) + b1 (!!up))).expect = (dirOf s j g up).expect := by
    rw [Bool.not_not]
    change (dirOf (flitDropped s j g up f) j g up).expect = _
    rw [flitDropped, dirOf_setDir]
  obtain ⟨d, hd⟩ := queueFlits_first (ch := (flitDropped s j g up f).chain) (g := 16 * j + g) (up := !up)
    (by rw [hsend]; exact hroom) s.clock.ns (linkFlit 0 [] true)
  rw [discard_eq, hn]
  exact ⟨_, hd, rfl, rfl, by rw [sealFlit_ack, hreceive]⟩

end Discard

/-! ### Accepting a flit (R243 to R245) -/

/-- A flit's part of a burst taken in. -/
def burstTaken (s : State) (j g : Nat) (up : Bool) (f : Flit) : State :=
  match arrives (dirOf s j g up) f with
  | some w => takeData s j g up f w
  | none => s

/-- The receiver of a direction after a flit accepted. -/
def acceptedDir (d : Dir) (f : Flit) : Dir :=
  oweCredit { d with
    expect := (d.expect + 1) % 4096, discarded := 0, nakSent := false
    bad := d.bad.filter (fun e => e.1 != f.seq)
    arriving := if f.kind = 4 ∨ f.kind = 5 then none else if f.kind = 2 ∨ f.kind = 3 then
      (arrives d f).map (fun w => { w with off := w.off + (flitData f).length }) else d.arriving } f

/-- A flit accepted, before what it says of the other direction is heard. -/
def flitTaken (s : State) (j g : Nat) (up : Bool) (f : Flit) : State :=
  let d := dirOf s j g up
  let lanes := (((d.bad.filter (fun e => e.1 == f.seq)).map (fun e => e.2)).flatMap (fun c => differing g c f)).foldl addNat []
  let s2 := setDir (burstTaken s j g up f) j g up (acceptedDir d f)
  lanes.foldl (fun s l => chargeLane s j l) { s2 with chain := giveBackCredits s2.chain j g up f }

/-- The acknowledgement of a flit accepted heard. -/
def flitAcked (s : State) (j g : Nat) (up : Bool) (f : Flit) : State :=
  if f.ackValid then acked (flitTaken s j g up f) j g (!up) f.ack f.nak else flitTaken s j g up f

/-- The SWAP of a flit accepted acted on. -/
def flitSwapped (s : State) (j g : Nat) (up : Bool) (f : Flit) : State :=
  if f.kind = 6 then swapHeard (flitAcked s j g up f) j (!up) (nth f.payload 0 0).toNat (nth f.payload 1 0).toNat
  else flitAcked s j g up f

theorem accept_eq (s : State) (j g : Nat) (up : Bool) (f : Flit) : accept s j g up f =
    if (dirOf (flitSwapped s j g up f) j g (!up)).waiting = [] then
      { flitSwapped s j g up f with
        chain := queueFlits (flitSwapped s j g up f).chain s.clock.ns (16 * j + g, !up) false [linkFlit 0 [] false] }
    else flitSwapped s j g up f := rfl

theorem swapHeard_place (s : State) (j : Nat) (up : Bool) (lane spare : Nat) : (swapHeard s j up lane spare).place = s.place := by
  fun_cases swapHeard <;> rfl

theorem swapHeard_sendsOnly (s : State) (j : Nat) (up : Bool) (lane spare : Nat) :
    SendsOnly s.chain (swapHeard s j up lane spare).chain := by
  fun_cases swapHeard
  · exact .refl _
  · next c1 => exact SendsOnly.trans (d := c1) ⟨fun _ => .refl _⟩ (sendsOnly_queueFlits ..)

theorem foldl_chargeLane_keeps (j : Nat) (l : List Nat) (s : State) :
    (l.foldl (fun s l => chargeLane s j l) s).place = s.place ∧
      (l.foldl (fun s l => chargeLane s j l) s).chain.dirs = s.chain.dirs :=
  List.foldlRecOn (motive := fun t : State => t.place = s.place ∧ t.chain.dirs = s.chain.dirs) l _ ⟨rfl, rfl⟩
    fun _ ht _ _ => ht

section Accept
variable (s : State) (j g : Nat) (up : Bool) (f : Flit)

theorem burstTaken_fabric : SameFabric s (burstTaken s j g up f) := by
  unfold burstTaken
  split
  · exact .takeData ..
  · exact .refl s

theorem giveBackCredits_dirs (ch : Chain) : (giveBackCredits ch j g up f).dirs = ch.dirs := by
  unfold giveBackCredits
  split <;> rfl

theorem flitTaken_place : (flitTaken s j g up f).place = s.place := by
  rw [flitTaken, (foldl_chargeLane_keeps ..).1]
  exact (burstTaken_fabric ..).place

theorem dirOf_flitTaken (up' : Bool) : dirOf (flitTaken s j g up f) j g up' =
    dirOf (setDir s j g up (acceptedDir (dirOf s j g up) f)) j g up' := by
  rw [dirOf, flitTaken, (foldl_chargeLane_keeps ..).2]
  dsimp only
  rw [giveBackCredits_dirs, dirOf, setDir, (burstTaken_fabric ..).chain]
  rfl

theorem flitTaken_mem : (flitTaken s j g up f).mem = (burstTaken s j g up f).mem := by
  rw [flitTaken, foldl_mem (fun _ _ => chargeLane_mem ..)]
  rfl

theorem accept_mem : (accept s j g up f).mem = (burstTaken s j g up f).mem := by
  have hswapped : (flitSwapped s j g up f).mem = (flitTaken s j g up f).mem := by
    unfold flitSwapped flitAcked
    split_ifs <;> simp
  rw [accept_eq, ← flitTaken_mem, ← hswapped]
  split <;> rfl

theorem accept_place : (accept s j g up f).place = s.place := by
  have hacked : (flitAcked s j g up f).place = s.place := by
    rw [← flitTaken_place s j g up f, flitAcked]
    split
    · exact acked_place ..
    · rfl
  have hswapped : (flitSwapped s j g up f).place = s.place := by
    rw [← hacked, flitSwapped]
    split
    · exact swapHeard_place ..
    · rfl
  rw [accept_eq, ← hswapped]
  split <;> rfl

theorem accept_sendsOnly : SendsOnly (flitAcked s j g up f).chain (accept s j g up f).chain := by
  have hswapped : SendsOnly (flitAcked s j g up f).chain (flitSwapped s j g up f).chain := by
    unfold flitSwapped
    split
    · exact swapHeard_sendsOnly ..
    · exact .refl _
  refine hswapped.trans ?_
  rw [accept_eq]
  split
  · exact sendsOnly_queueFlits ..
  · exact .refl _

theorem acceptedDir_expects (d : Dir) : (acceptedDir d f).expect = (d.expect + 1) % 4096 ∧ (acceptedDir d f).nakSent = false := by
  unfold acceptedDir oweCredit
  split <;> exact ⟨rfl, rfl⟩

/-- The next SEQ is expected, and a new row of discarded flits would be answered. -/
theorem accept_direction : (dirOf (accept s j g up f) j g up).expect = ((dirOf s j g up).expect + 1) % 4096 ∧
    (dirOf (accept s j g up f) j g up).nakSent = false := by
  have hacked : Sends (dirOf (flitTaken s j g up f) j g up) (dirOf (flitAcked s j g up f) j g up) := by
    unfold flitAcked
    split
    · simpa using acked_opposite (flitTaken s j g up f) j g (!up) f.ack f.nak
    · exact .refl _
  have hsent := hacked.trans ((accept_sendsOnly s j g up f).dirOf j g up)
  rw [hsent.expect, hsent.nakSent, dirOf_flitTaken, dirOf_setDir]
  exact acceptedDir_expects f _

/-- What a flit acknowledges leaves the other direction's buffer, behind whose rest new flits stand. -/
theorem accept_opposite : ∃ l, (dirOf (accept s j g up f) j g (!up)).buffer.map (fun e => e.2) =
    (if f.ackValid then ackBuffer (dirOf s j g (!up)).buffer f.ack else (dirOf s j g (!up)).buffer).map (fun e => e.2) ++ l := by
  have htaken : dirOf (flitTaken s j g up f) j g (!up) = dirOf s j g (!up) :=
    (dirOf_flitTaken ..).trans (dirOf_setDir_opposite ..)
  have hacked : ∃ l, (dirOf (flitAcked s j g up f) j g (!up)).buffer.map (fun e => e.2) =
      (if f.ackValid then ackBuffer (dirOf s j g (!up)).buffer f.ack else (dirOf s j g (!up)).buffer).map (fun e => e.2) ++ l := by
    rw [← htaken]
    unfold flitAcked
    split
    · exact acked_buffer ..
    · exact ⟨[], (List.append_nil _).symm⟩
  obtain ⟨l, hl⟩ := hacked
  obtain ⟨l', hl'⟩ := ((accept_sendsOnly s j g up f).dirOf j g (!up)).flits
  exact ⟨l ++ l', by rw [hl', hl, List.append_assoc]⟩

/-- A flit that carries no data of a burst leaves memory. -/
theorem accept_noData (hk : f.kind < 2 ∨ f.kind = 6) : (accept s j g up f).mem = s.mem := by
  have harrives : arrives (dirOf s j g up) f = none := by
    unfold arrives
    rw [if_neg (by omega), if_neg (by omega)]
  rw [accept_mem, burstTaken, harrives]

/-- The bytes of a SINGLE flit for the die that receives it stand at the address of its request word. -/
theorem accept_single (hw : cellsWf s.mem.cells = true) (hk : f.kind = 5) (hdie : f.destDie = receivingDie j up)
    (hown : s.chain.bursts.any (fun b => b.tag == f.tag && b.group == 16 * j + g) = false)
    (hfits : leNat (f.payload.take 5) + (flitData f).length ≤ Config.scratchDpa) {i : Nat}
    (hi : i < ((flitData f).take (leNat ((f.payload.drop 8).take 4))).length) :
    byteAt (accept s j g up f).mem.cells (leNat (f.payload.take 5) + i) = nth (flitData f) i 0 := by
  have harrives : arrives (dirOf s j g up) f = some ⟨f.tag, leNat (f.payload.take 5), leNat ((f.payload.drop 8).take 4), 0⟩ :=
    if_pos (.inr hk)
  rw [accept_mem, burstTaken, harrives]
  dsimp only
  generalize hbs : (flitData f).take (leNat ((f.payload.drop 8).take 4)) = bs at hi
  generalize leNat (f.payload.take 5) = a at hfits ⊢
  have hlen : bs.length ≤ (flitData f).length := by
    rw [← hbs]
    exact List.length_take_le' ..
  have hne : bs ≠ [] := fun e => by simp [e] at hi
  have hin : ¬Config.scratchDpa + 336 * Config.scratchBytes < a + bs.length := by omega
  rw [takeData_eq]
  simp only [Nat.sub_zero, Nat.add_zero, hbs]
  rw [if_neg (by simp [hdie, hne, hown, hin]), markGrains_cells, writeDpa_mem, byteAt_writeMem _ _ _ _ _ hw, if_pos (by omega)]
  have hcount : i < leNat ((f.payload.drop 8).take 4) := by
    rw [← hbs, List.length_take] at hi
    exact (Nat.lt_min.1 hi).1
  rw [Nat.add_sub_cancel_left, ← hbs, nth, nth, List.getD_eq_getElem?_getD, List.getD_eq_getElem?_getD,
    List.getElem?_take_of_lt hcount]

end Accept

/-! ### Margins, and lanes that are due (R248, R249) -/

theorem raise_event (s : State) (code cls k u : Nat) (p : List Byte) :
    (raise s code cls k u p).obs.log.getLast?.map (fun e => (e.code, e.unit)) = some (code, u) := by
  rw [raise_last]
  rfl

section Lanes
variable {s : State} {j : Nat} {up : Bool}

/-- A report of a lane in lock that is due is kept; its CONTROL flit goes out where the join has a group. -/
theorem exec_marginReport_keeps {p m : Nat} (ha : alive s = true) (hj : j < 16) (hp : p < lanesAll j)
    (hdue : has s.chain.marginAt (2 * j + b1 up) = false ∨ look s.chain.marginAt 0 (2 * j + b1 up) + 1000000 ≤ s.clock.ns) :
    ∃ dirs, exec (.marginReport j up [(p, m, true)]) s = .next { s with chain := { s.chain with
      marginAt := put s.chain.marginAt (2 * j + b1 up) s.clock.ns
      margins := put s.chain.margins (256 * j + p) m
      unlocked := delNat s.chain.unlocked (256 * j + p)
      dirs := dirs } } := by
  have hgo : ¬(16 ≤ j ∨ alive s = false ∨
      (has s.chain.marginAt (2 * j + b1 up) = true ∧ s.clock.ns < look s.chain.marginAt 0 (2 * j + b1 up) + 1000000)) := by
    rcases hdue with h | h
    · simp [hj, ha, h]
    · simp [hj, ha, h]
  have hlanes : [(p, m, true)].filter (fun e => decide (e.1 < lanesAll j)) = [(p, m, true)] := by simp [hp]
  rw [exec_marginReport, execMarginReport]
  dsimp only
  rw [if_neg hgo, hlanes]
  split
  · exact ⟨_, congrArg (fun c => Host.Outcome.next { s with chain := c }) (queueFlits_frame ..)⟩
  · exact ⟨s.chain.dirs, rfl⟩

/-- The lowest lane of a group that is due gets the lowest free spare, which a SWAP flit names. -/
theorem exec_laneDue_names {lane cause sp : Nat} {r : List Nat} (ha : alive s = true) (hc : laneCause s j lane = some cause)
    (hs : freeSpares s.chain j = sp :: r) (hok : laneGroupOk s j (lane / 8) = true) (hnot : swapping s.chain j lane = false)
    (hlow : ∀ l, 8 * (lane / 8) ≤ l → l < lane → laneCause s j l = none) :
    ∃ dirs, exec (.laneDue j up lane) s = .next { s with chain := { s.chain with
      swaps := put s.chain.swaps (swapKey j lane up) ⟨lane, sp, cause, 0⟩, dirs := dirs } } := by
  have hlower : (groupLanes (lane / 8)).any (fun l =>
      decide (l < lane) && (laneCause s j l).isSome && !swapping s.chain j l) = false := by
    refine List.any_eq_false.2 fun l hl => ?_
    obtain ⟨i, -, rfl⟩ := List.mem_map.1 hl
    by_cases hlt : 8 * (lane / 8) + i < lane
    · simp [hlow _ (Nat.le_add_right ..) hlt]
    · simp [hlt]
  rw [exec_laneDue, execLaneDue]
  simp only [hc, hs, hlower, hok, hnot, ha, Bool.true_eq_false, Bool.false_eq_true, or_self, if_false]
  exact ⟨_, congrArg (fun c => Host.Outcome.next { s with chain := c }) (queueFlits_frame ..)⟩

/-- The Chain with the lane of a SWAP driven on its spare as well. -/
def swapBegun (s : State) (j : Nat) (up : Bool) (lane sp cause : Nat) : Chain :=
  { s.chain with swaps := put s.chain.swaps (swapKey j lane up) ⟨lane, sp, cause, (dirOf s j (lane / 8) up).sent + 64⟩ }

/-- The sender of a SWAP that it has not heard before puts 64 IDLE flits at the head of its line. -/
theorem exec_swap_idles {lane sp cause : Nat} (ha : alive s = true) (hheld : swapHeld s j up lane sp = false)
    (hhas : has s.chain.swaps (swapKey j lane up) = true)
    (hw : look s.chain.swaps ⟨0, 0, 0, 0⟩ (swapKey j lane up) = ⟨lane, sp, cause, 0⟩) (hok : laneGroupOk s j (lane / 8) = true) :
    exec (.swap j up lane sp) s = .next { s with
      chain := queueFlits (swapBegun s j up lane sp cause) s.clock.ns (16 * j + lane / 8, up) true
        (List.replicate 64 (linkFlit 0 [] false)) } := by
  rw [exec_swap, execSwap, if_neg (by simp [ha, hheld]), swapHeard]
  dsimp only
  rw [hw, if_neg (by simp [hhas, hok])]
  rfl

theorem exec_laneSwitch_switches {lane sp cause n : Nat} (ha : alive s = true)
    (hs : s.chain.swaps = [(swapKey j lane up, ⟨lane, sp, cause, n⟩)]) (hl : lane < 256) (hn : 0 < n)
    (hsent : n ≤ (dirOf s j (lane / 8) up).sent) :
    exec (.laneSwitch j up) s = .next (switchLane s j up ⟨lane, sp, cause, n⟩) := by
  have hbit : b1 up < 2 := by cases up <;> decide
  have hjoin : swapKey j lane up / 512 = j := by
    unfold swapKey
    omega
  have hdir : swapKey j lane up % 2 = b1 up := by
    unfold swapKey
    omega
  rw [exec_laneSwitch, execLaneSwitch, hs]
  simp [ha, hjoin, hdir, hn, hsent]

theorem switchLane_switches {lane sp cause n : Nat} (hs : s.chain.swaps = [(swapKey j lane up, ⟨lane, sp, cause, n⟩)]) :
    physLane (switchLane s j up ⟨lane, sp, cause, n⟩).chain j lane = sp ∧
      (switchLane s j up ⟨lane, sp, cause, n⟩).chain.swaps = [] := by
  unfold switchLane
  dsimp only
  rw [raise_chain]
  refine ⟨look_put_same .., ?_⟩
  change drop s.chain.swaps (swapKey j lane up) = []
  simp [hs, drop]

end Lanes

/-! ### Groups removed (R250, R251) -/

theorem moveWaiting_keeps (ch : Chain) (now j g : Nat) (up : Bool) (fs : List Flit) :
    (moveWaiting ch now j g up fs).removed = ch.removed ∧ (ch.bursts = [] → (moveWaiting ch now j g up fs).bursts = []) := by
  unfold moveWaiting
  split
  · dsimp only
    rw [queueFlits_frame]
    exact ⟨rfl, fun h => by simp [h]⟩
  · exact ⟨rfl, id⟩

theorem joinDown_fabric (s : State) (j : Nat) :
    SameFabric { s with chain := rewriteRoutes { s.chain with down := addNat s.chain.down j } } (joinDown s j) := by
  have hraised : SameFabric { s with chain := rewriteRoutes { s.chain with down := addNat s.chain.down j } }
      (raise { s with chain := rewriteRoutes { s.chain with down := addNat s.chain.down j } } 0x0823 clsC noCtx (0x4000 + j)
        (p4 j)) := ⟨rfl, rfl⟩
  refine hraised.trans (.foldl (fun s d => ?_) _ _)
  split <;> exact ⟨rfl, rfl⟩

theorem liveGroups_nodup (ch : Chain) (j : Nat) : (liveGroups ch j).Nodup := List.nodup_range.filter _

section Removed
variable (s : State) (j g : Nat)

/-- The flits of a direction of group `g` that carry data of bursts of which none was sent. -/
def unsentData (up : Bool) : List Flit :=
  (dirOf s j g up).waiting.filter (fun f =>
    decide (2 ≤ f.kind) && decide (f.kind ≤ 5) && !((dirOf s j g up).buffer.map (fun e => e.2.tag)).elem f.tag)

/-- The Chain without a group, its unsent flits on another one. -/
def withoutGroup : Chain :=
  let ch := s.chain
  let c1 := { ch with
    removed := addNat ch.removed (16 * j + g)
    laneSt := ((groupLanes g).map (fun l => physLane ch j l)).foldl (fun t p => put t (256 * j + p) 4) ch.laneSt
    swaps := ch.swaps.filter (fun e => !(e.1 / 512 == j && e.2.lane / 8 == g))
    dirs := drop (drop ch.dirs (dirKey j g true)) (dirKey j g false) }
  [true, false].foldl (fun c up => moveWaiting c s.clock.ns j g up (unsentData s j g up)) c1

/-- The state without a group, its lost bursts failed. -/
def burstsFailed : State :=
  ((withoutGroup s j g).bursts.filter (fun e => e.group == 16 * j + g)).foldl failBurst
    { s with chain := { withoutGroup s j g with
      bursts := (withoutGroup s j g).bursts.filter (fun e => e.group != 16 * j + g) } }

/-- The number of groups a join keeps. -/
def groupsLeft : Nat := (liveGroups (withoutGroup s j g) j).length

/-- The removal of a group reported. -/
def removalRaised (cause : Nat) : State :=
  raise (burstsFailed s j g) 0x0822 clsC noCtx (0x4000 + j) (p4 j ++ p4 g ++ p4 cause ++ p4 (groupsLeft s j g) ++
    p4 ((withoutGroup s j g).bursts.filter (fun e => e.group == 16 * j + g)).length)

variable {s j g}

theorem exec_chainGroupRemoved_removes {cause : Nat} (ha : alive s = true) (hc : groupCause s j g = some cause)
    (hok : laneGroupOk s j g = true) : exec (.chainGroupRemoved j g) s =
      .next (if groupsLeft s j g = 0 then joinDown (removalRaised s j g cause) j else removalRaised s j g cause) := by
  rw [exec_chainGroupRemoved, execChainGroupRemoved]
  simp only [hc]
  rw [if_neg (by simp [ha, hok])]
  rfl

theorem withoutGroup_keeps (s : State) (j g : Nat) : (withoutGroup s j g).removed = addNat s.chain.removed (16 * j + g) ∧
    (s.chain.bursts = [] → (withoutGroup s j g).bursts = []) := by
  unfold withoutGroup
  simp only [List.foldl_cons, List.foldl_nil]
  refine ⟨?_, fun h => (moveWaiting_keeps ..).2 ((moveWaiting_keeps ..).2 h)⟩
  rw [(moveWaiting_keeps ..).1, (moveWaiting_keeps ..).1]

theorem burstsFailed_fabric (s : State) (j g : Nat) : (burstsFailed s j g).place = s.place ∧
    (burstsFailed s j g).chain.removed = addNat s.chain.removed (16 * j + g) := by
  have h : SameFabric _ (burstsFailed s j g) := .foldl .failBurst _ _
  exact ⟨h.place, by rw [h.chain]; exact (withoutGroup_keeps s j g).1⟩

/-- Without bursts under way no grain is lost. -/
theorem burstsFailed_mem (hb : s.chain.bursts = []) : (burstsFailed s j g).mem = s.mem := by
  rw [burstsFailed, (withoutGroup_keeps s j g).2 hb]
  rfl

/-- A join that had two groups keeps one. -/
theorem groupsLeft_pos (h : 2 ≤ (liveGroups s.chain j).length) : groupsLeft s j g ≠ 0 := by
  have hlive : liveGroups (withoutGroup s j g) j = (liveGroups s.chain j).filter (fun q => q != g) := by
    unfold liveGroups
    rw [(withoutGroup_keeps s j g).1, List.filter_filter]
    refine List.filter_congr fun q _ => ?_
    rw [Bool.eq_iff_iff]
    simp [mem_addNat]
  have hlen := List.le_length_erase (a := g) (l := liveGroups s.chain j)
  rw [(liveGroups_nodup s.chain j).erase_eq_filter, ← hlive] at hlen
  unfold groupsLeft
  omega

theorem laneGroupOk_removed {t : State} (h : t.chain.removed = addNat s.chain.removed (16 * j + g)) :
    laneGroupOk t j g = false := by
  simp [laneGroupOk, h, mem_addNat]

end Removed

/-! ### The commands of a lane group -/

section Group
variable {s : State} {j g : Nat} (hok : laneGroupOk s j g = true) (ha : alive s = true)
include hok ha

theorem exec_flitReceive_accepts {up : Bool} {f : Flit} (hcrc : flitCrcOk f = true) (hkind : f.kind < 7) (hcls : f.cls < 6)
    (hseq : f.seq = (dirOf s j g up).expect) : exec (.flitReceive j g up f.data f.link) s = .next (accept s j g up f) := by
  have hf : f.data.linked f.link = f := rfl
  rw [exec_flitReceive, execFlitReceive]
  simp [hf, hok, ha, hcrc, hkind, hcls, hseq]

theorem exec_flitReceive_discards {up : Bool} {f : Flit} (hbad : flitCrcOk f = false ∨ f.seq ≠ (dirOf s j g up).expect) :
    exec (.flitReceive j g up f.data f.link) s = .next (discard s j g up f) := by
  have hf : f.data.linked f.link = f := rfl
  have hnot : (flitCrcOk f && decide (f.kind < 7) && decide (f.cls < 6) && f.seq == (dirOf s j g up).expect) = false := by
    rcases hbad with h | h <;> simp [h]
  rw [exec_flitReceive, execFlitReceive]
  simp [hf, hok, ha, hnot]

theorem exec_nakReceive_acks (up : Bool) (a : Nat) : exec (.nakReceive j g up a) s = .next (acked s j g up a true) := by
  simp [execNakReceive, hok, ha]

theorem exec_replayTimeout_decides {up : Bool} {f : Nat × Flit} {r : List (Nat × Flit)} (hb : (dirOf s j g up).buffer = f :: r) :
    exec (.replayTimeout j g up) s = if f.1 + 256 ≤ s.clock.ns then .next (replayDir s j g up) else .next s := by
  simp [execReplayTimeout, hok, ha, hb]

theorem chainGroupRemoved_removes {cause : Nat} (hc : groupCause s j g = some cause) :
    Completes (.chainGroupRemoved j g) s (fun t => laneGroupOk t j g = false ∧ t.place = s.place ∧
      (s.chain.bursts = [] → t.mem = s.mem) ∧
      (2 ≤ (liveGroups s.chain j).length → (t.obs.log.getLast?.map (fun e => (e.code, e.unit))) = some (0x0822, 0x4000 + j))) := by
  refine ⟨_, exec_chainGroupRemoved_removes ha hc hok, ?_⟩
  obtain ⟨hplace, hremoved⟩ := burstsFailed_fabric s j g
  split
  · next hnone =>
    have hdown := joinDown_fabric (removalRaised s j g cause) j
    exact ⟨laneGroupOk_removed (s := s) (by rw [hdown.chain]; exact hremoved), hdown.place.trans hplace,
      fun hb => (joinDown_mem ..).trans (burstsFailed_mem hb), fun h => absurd hnone (groupsLeft_pos h)⟩
  · exact ⟨laneGroupOk_removed hremoved, hplace, burstsFailed_mem, fun _ => raise_event ..⟩

end Group

/-- Settles O29: what a flit accepted (`accept_direction`, `accept_opposite`, `accept_single`) or discarded (`discard_nak`), an
acknowledgement (`acked_buffer`) and a replay (`dirOf_replayDir`) make of the two directions of a group, the steps of sparing
lane by lane, and the removal of a group (`chainGroupRemoved_removes`). -/
theorem chainLinks : Obligations.ChainLinks := by
  unfold Obligations.ChainLinks
  refine ⟨fun s j g up hok ha => ⟨fun f hcrc hkind hcls hseq => ?_, fun f hbad => ?_, fun a => ?_,
      fun f r hb => ⟨fun hlate => ?_, fun hearly => ?_⟩⟩,
    fun s j up ha => ⟨fun p m hj hp hdue => ?_, fun lane cause sp r hc hs hok hnot hlow => ?_,
      fun lane sp cause hheld hhas hw hok => ?_, fun lane sp cause n hs hl hn hsent => ?_, fun g cause hc hok => ?_⟩⟩
  · obtain ⟨hexpect, hrow⟩ := accept_direction s j g up f
    exact ⟨_, exec_flitReceive_accepts hok ha hcrc hkind hcls hseq, accept_noData s j g up f, accept_place .., hexpect, hrow,
      accept_opposite .., fun hm hk hdie hown hfits i hi => accept_single s j g up f hm.1 hk hdie hown hfits hi⟩
  · obtain ⟨hrow, hexpect⟩ := discard_direction s j g up f
    exact ⟨_, exec_flitReceive_discards hok ha hbad, discard_mem .., discard_place .., hrow, hexpect,
      discard_silent s j g up f, discard_nak s j g up f⟩
  · exact ⟨_, exec_nakReceive_acks hok ha up a, acked_mem .., acked_place .., acked_buffer ..,
      (acked_opposite s j g up a true).expect, fun f r hb => acked_replaySeq hb⟩
  · refine ⟨_, (exec_replayTimeout_decides hok ha hb).trans (if_pos hlate), replayDir_mem .., replayDir_place .., ?_⟩
    rw [dirOf_replayDir hb, ← hb]
    exact ⟨rfl, rfl, rfl⟩
  · exact ⟨s, (exec_replayTimeout_decides hok ha hb).trans (if_neg (Nat.not_le.2 hearly)), rfl⟩
  · obtain ⟨dirs, he⟩ := exec_marginReport_keeps (m := m) ha hj hp hdue
    exact ⟨_, he, rfl, look_put_same .., rfl, look_put_same ..⟩
  · obtain ⟨dirs, he⟩ := exec_laneDue_names (up := up) ha hc hs hok hnot hlow
    exact ⟨_, he, rfl, look_put_same .., rfl⟩
  · refine ⟨_, exec_swap_idles ha hheld hhas hw hok, rfl, ?_, ?_⟩
    · rw [queueFlits_frame]
      exact look_put_same ..
    · change 64 ≤ idles (look (queueFlits _ _ _ _ _).dirs {} (2 * (16 * j + lane / 8) + b1 up))
      rw [idles_queueFlits]
      exact Nat.le_add_right 64 _
  · obtain ⟨hlane, hswaps⟩ := switchLane_switches hs
    exact ⟨_, exec_laneSwitch_switches ha hs hl hn hsent, switchLane_mem .., hlane, hswaps, raise_event ..⟩
  · exact chainGroupRemoved_removes hok ha hc

end Sys2Proof.Machine

/-! ## Device time (R278, R333, R334, R459) -/

namespace Sys2Proof.Machine

/-! ### The tick of the reference clock -/

theorem countBands_obs (s : State) (n : Nat) : ∃ o : Observe, countBands s n = { s with obs := o } :=
  List.foldlRecOn (motive := fun t : State => ∃ o : Observe, t = { s with obs := o }) _ _ ⟨s.obs, rfl⟩
    fun _ ⟨_, ht⟩ _ _ => ht ▸ ⟨_, rfl⟩

theorem tick_counts {s : State} (h : s.clock.ref25 = true) : ∃ o : Observe,
    tick s = { s with clock := tickClock s.clock, obs := o } := by
  unfold tick
  rw [if_pos h]
  exact countBands_obs ..

theorem tick_stands {s : State} (h : s.clock.ref25 = false) : tick s = s := by
  simp [tick, h]

theorem clampBy_bound {m : Int} (h : 0 ≤ m) (v : Int) : -m ≤ clampBy m v ∧ clampBy m v ≤ m := by
  unfold clampBy
  omega

theorem rateClamp_bound (v : Int) : -34359738 ≤ clampBy rateMax v ∧ clampBy rateMax v ≤ 34359738 := clampBy_bound (by decide) v

theorem slewStep_bound (c : Clock) : -17179869 ≤ slewStep c ∧ slewStep c ≤ 17179869 := clampBy_bound (by decide) c.slew

/-- What one cycle may take of the slew is taken whole. -/
theorem slewStep_small {c : Clock} (h : c.slew.natAbs ≤ 17179869) : slewStep c = c.slew := by
  simp only [slewStep, clampBy, slewMax]
  omega

/-- A reference cycle adds its length to the time and takes its slew from what is left to slew. -/
theorem tickClock_advances (c : Clock) :
    ((tickClock c).ns : Int) * 2 ^ 32 + (tickClock c).frac =
      (c.ns : Int) * 2 ^ 32 + c.frac + 40 * 2 ^ 32 + clampBy rateMax c.rate + slewStep c ∧
    (tickClock c).frac < 2 ^ 32 ∧ (tickClock c).slew = c.slew - slewStep c := by
  have hrate := rateClamp_bound c.rate
  have hslew := slewStep_bound c
  simp only [tickClock, nsOne, and_true]
  constructor <;> omega

/-- Settles O30: a step with an empty queue is a tick, whose length is that of `tickClock_advances`. -/
theorem idleTick : Obligations.IdleTick := by
  unfold Obligations.IdleTick
  intro s hp
  have hstep : step s = .next (tick s) := by rw [step, hp]
  refine ⟨⟨tick s, hstep, tick_mem s, ?_⟩, fun h => by rw [hstep, tick_stands h]⟩
  cases h : s.clock.ref25 with
  | false =>
    rw [tick_stands h]
    exact ⟨rfl, rfl, hp, nofun⟩
  | true =>
    obtain ⟨o, ho⟩ := tick_counts h
    obtain ⟨htime, hfrac, hslew⟩ := tickClock_advances s.clock
    have htaken : s.clock.slew - (tickClock s.clock).slew = slewStep s.clock := by rw [hslew, sub_sub_cancel]
    have hbound := slewStep_bound s.clock
    rw [ho]
    refine ⟨rfl, rfl, hp, fun _ => ⟨?_, hfrac, ?_, fun hsmall => ?_⟩⟩
    · exact htaken ▸ htime
    · exact htaken ▸ by omega
    · rw [hslew, slewStep_small hsmall, sub_self]

/-! ### The discipline of device time -/

@[simp] theorem ptpSend_clock (s : State) (port net : Nat) (m : PtpMsg) : (ptpSend s port net m).clock = s.clock := by
  fun_cases ptpSend <;> rfl

@[simp] theorem ptpSend_obs (s : State) (port net : Nat) (m : PtpMsg) : (ptpSend s port net m).obs = s.obs := by
  fun_cases ptpSend <;> rfl

/-- The exchange that follows a Sync changes of the clock only its own numbers, and logs nothing. -/
theorem askDelay_keeps (s : State) (port net t1 t2 : Nat) : (askDelay s port net t1 t2).obs = s.obs ∧
    (askDelay s port net t1 t2).clock = { s.clock with
      ptpSeq := (askDelay s port net t1 t2).clock.ptpSeq, delayReq := (askDelay s port net t1 t2).clock.delayReq
      pdelayReq := (askDelay s port net t1 t2).clock.pdelayReq, pdelayResp := (askDelay s port net t1 t2).clock.pdelayResp } := by
  unfold askDelay
  dsimp only
  split <;> simp

theorem unsync_clock (s : State) (offset : Int) : (unsync s offset).clock = { s.clock with unsynced := true } := by
  unfold unsync
  split
  · next h => rw [← h]
  · rfl

theorem resync_clock (s : State) (offset : Int) : (resync s offset).clock = { s.clock with unsynced := false } := by
  unfold resync
  split
  · rfl
  · next h => rw [← Bool.eq_false_of_not_eq_true h]

/-- PTP_UNSYNCED is logged when the clock was in step before. -/
theorem unsync_logs {s : State} (h : s.clock.unsynced = false) (offset : Int) :
    (unsync s offset).obs.log.getLast?.map (fun e => e.code) = some 0x0407 := by
  rw [unsync, if_neg (by simp [h]), raise_last]
  rfl

/-- The first offset of a power-up, while no context exists, steps device time. -/
theorem disciplined_steps {s : State} (hs : s.clock.stepped = false) (ha : anyCtx s = false) (offset rate : Int) :
    (disciplined s offset rate).clock.ns = ((s.clock.ns : Int) - offset).toNat ∧ (disciplined s offset rate).clock.stepped = true ∧
    (disciplined s offset rate).clock.rate = clampBy rateMax rate := by
  unfold disciplined
  rw [if_pos ⟨hs, ha⟩, resync_clock]
  exact ⟨rfl, rfl, rfl⟩

/-- The clock after a later offset, which is slewed away. -/
def slewed (c : Clock) (offset rate : Int) : Clock :=
  { c with
    rate := clampBy rateMax rate, slew := -offset * nsOne, stepped := true, lastSync := c.ns, offset := offset
    unsynced := decide (1000 < offset.natAbs) }

theorem disciplined_slews {s : State} (h : s.clock.stepped = true ∨ anyCtx s = true) (offset rate : Int) :
    (disciplined s offset rate).clock = slewed s.clock offset rate ∧
    (1000 < offset.natAbs → s.clock.unsynced = false →
      (disciplined s offset rate).obs.log.getLast?.map (fun e => e.code) = some 0x0407) := by
  unfold disciplined slewed
  dsimp only
  rw [if_neg (by rcases h with h | h <;> simp [h])]
  by_cases ho : 1000 < offset.natAbs
  · simp only [if_pos ho, unsync_clock, decide_eq_true ho, true_and]
    exact fun _ hu => unsync_logs hu offset
  · simp only [if_neg ho, resync_clock, decide_eq_false ho, true_and]
    exact fun h => absurd h ho

/-- The state in which an offset measured by a Sync disciplines the time: no Follow_Up is waited for any more. -/
def measured (s : State) : State := { s with clock := { s.clock with syncWait := none } }

/-- A message that measures an offset disciplines the time by it and asks for the path delay. -/
theorem ptpIn_disciplines {s : State} {m : PtpMsg} {off : Int} (hm : s.clock.profile.testBit 1 = false) (ho : syncOffset s m off)
    (port net : Nat) (rate : Int) :
    ∃ t1 t2, ptpIn s port net m rate = askDelay (disciplined (measured s) off rate) port net t1 t2 := by
  rcases ho with ⟨q, t1, rfl, rfl⟩ | ⟨q, t1, t2, rfl, hw, rfl⟩
  · rw [ptpIn, hm]
    exact ⟨t1, _, rfl⟩
  · simp only [ptpIn, hw, if_true]
    exact ⟨t1, _, rfl⟩

section Receive
variable {s : State} (h25 : s.clock.ref25 = true) {net : Nat} (hnet : net = 0 ∨ net = 4 ∨ net = 6) (hsrc : s.clock.source = 0)

theorem ptpSyncReceive_elsewhere {port : Nat} (hp : port ≠ s.clock.port) (m : PtpMsg) (rate : Int) :
    exec (.ptpSyncReceive ⟨port, net, m⟩ rate) s = .next s := by
  rw [exec_ptpSyncReceive, execPtpSyncReceive]
  simp [Ne.symm hp]

include h25 hnet hsrc

theorem ptpSyncReceive_taken (m : PtpMsg) (rate : Int) :
    exec (.ptpSyncReceive ⟨s.clock.port, net, m⟩ rate) s = .next (ptpIn s s.clock.port net m rate) := by
  rw [exec_ptpSyncReceive, execPtpSyncReceive]
  rcases hnet with rfl | rfl | rfl <;> simp [h25, hsrc]

theorem ptpSyncReceive_delay {q t1 t2 t3 : Nat} (hd : s.clock.delayReq = some (q, t1, t2, t3)) (t4 : Nat) (rate : Int) :
    exec (.ptpSyncReceive ⟨s.clock.port, net, .delayResp (clockId (macOn s s.clock.port)) q t4⟩ rate) s =
      .next (setDelay s ((((t2 : Int) - t1) + ((t4 : Int) - t3)) / 2)) := by
  rw [ptpSyncReceive_taken h25 hnet hsrc]
  simp [ptpIn, hd]

variable {m : PtpMsg} {off : Int} (hm : s.clock.profile.testBit 1 = false) (ho : syncOffset s m off)
include hm ho

theorem ptpSyncReceive_steps (hs : s.clock.stepped = false) (ha : anyCtx s = false) (rate : Int) :
    Completes (.ptpSyncReceive ⟨s.clock.port, net, m⟩ rate) s (fun t => t.clock.ns = ((s.clock.ns : Int) - off).toNat ∧
      t.clock.stepped = true ∧ t.clock.rate = max (-34359738) (min 34359738 rate) ∧ t.mem = s.mem) := by
  obtain ⟨t1, t2, he⟩ := ptpIn_disciplines hm ho s.clock.port net rate
  obtain ⟨hns, hstepped, hrate⟩ := disciplined_steps (s := measured s) hs ha off rate
  refine ⟨_, ptpSyncReceive_taken h25 hnet hsrc m rate, ?_⟩
  beta_reduce
  rw [ptpIn_mem, he, (askDelay_keeps ..).2]
  exact ⟨hns, hstepped, hrate, rfl⟩

theorem ptpSyncReceive_slews (hs : s.clock.stepped = true ∨ anyCtx s = true) (rate : Int) :
    Completes (.ptpSyncReceive ⟨s.clock.port, net, m⟩ rate) s (fun t => t.clock.ns = s.clock.ns ∧
      t.clock.slew = -off * 4294967296 ∧ t.clock.rate = max (-34359738) (min 34359738 rate) ∧ t.clock.lastSync = s.clock.ns ∧
      t.clock.unsynced = decide (1000 < off.natAbs) ∧ t.mem = s.mem ∧
      (1000 < off.natAbs → s.clock.unsynced = false → (t.obs.log.getLast?.map (fun e => e.code)) = some 0x0407)) := by
  obtain ⟨t1, t2, he⟩ := ptpIn_disciplines hm ho s.clock.port net rate
  obtain ⟨hclock, hlog⟩ := disciplined_slews (s := measured s) hs off rate
  refine ⟨_, ptpSyncReceive_taken h25 hnet hsrc m rate, ?_⟩
  beta_reduce
  rw [ptpIn_mem, he, (askDelay_keeps ..).2, (askDelay_keeps ..).1, hclock]
  exact ⟨rfl, rfl, rfl, rfl, rfl, rfl, hlog⟩

end Receive

theorem ptpSyncTimeout_unsyncs {s : State} (hsrc : s.clock.source = 0) (h : s.clock.lastSync + 3000000000 ≤ s.clock.ns) :
    exec .ptpSyncTimeout s = .next (unsync s s.clock.offset) := by
  rw [exec_ptpSyncTimeout, execPtpSyncTimeout]
  exact if_pos ⟨hsrc, h⟩

/-- The offset from the nearest whole second. -/
def ppsOffset (ns : Nat) : Int :=
  if 2 * (((ns % second : Nat)) : Int) < (second : Nat) then ((ns % second : Nat) : Int) else ((ns % second : Nat) : Int) - (second : Nat)

theorem ppsOffset_nearest (ns : Nat) : (∃ m : Int, (ns : Int) - ppsOffset ns = m * 1000000000) ∧
    -500000000 ≤ ppsOffset ns ∧ ppsOffset ns < 500000000 := by
  unfold ppsOffset
  simp only [second]
  split
  · exact ⟨⟨(ns / 1000000000 : Nat), by omega⟩, by omega, by omega⟩
  · exact ⟨⟨(ns / 1000000000 : Nat) + 1, by omega⟩, by omega, by omega⟩

theorem ppsIn_slews {s : State} (h25 : s.clock.ref25 = true) (hsrc : s.clock.source = 1) : exec .ppsIn s =
    .next { drawn s with clock := { s.clock with
      rate := clampBy rateMax (BitVec.ofNat 64 (freeVal s 64)).toInt, slew := -ppsOffset s.clock.ns * nsOne
      offset := ppsOffset s.clock.ns, lastSync := s.clock.ns, stepped := true } } := by
  rw [exec_ppsIn, execPpsIn]
  exact if_neg (by simp [h25, hsrc])

theorem sendSync_clock (s : State) : (sendSync s).clock = { s.clock with ptpSeq := (sendSync s).clock.ptpSeq } := by
  unfold sendSync
  dsimp only
  split <;> simp

theorem ppsOut_rises {s : State} (h25 : s.clock.ref25 = true) (h : s.clock.ns / 1000000000 ≠ s.clock.lastSec) :
    exec .ppsOut s = .next (sendSync { s with clock := { s.clock with
      lastSec := s.clock.ns / 1000000000, ppsOutAt := some (s.clock.ns / 1000000000 * 1000000000) } }) := by
  rw [exec_ppsOut, execPpsOut]
  exact if_neg (by simp [h25, h])

/-- Settles O31: a message that measures an offset is `disciplined` by it (`ptpIn_disciplines`), which steps the time
(`disciplined_steps`) or slews it (`disciplined_slews`); the others change the field they name. -/
theorem timeDisciplined : Obligations.TimeDisciplined := by
  unfold Obligations.TimeDisciplined
  refine fun s h25 => ⟨fun net m off rate hnet hsrc ho => ⟨fun port hp => ⟨s, ptpSyncReceive_elsewhere hp m rate, rfl⟩,
      fun hm hs ha => ptpSyncReceive_steps h25 hnet hsrc hm ho hs ha rate,
      fun hm hs => ptpSyncReceive_slews h25 hnet hsrc hm ho hs rate⟩,
    fun net q t1 t2 t3 t4 rate hnet hsrc hd => ⟨_, ptpSyncReceive_delay h25 hnet hsrc hd t4 rate, rfl, rfl, rfl⟩,
    fun hsrc h => ⟨_, ptpSyncTimeout_unsyncs hsrc h, ?_⟩, fun hsrc => ⟨_, ppsIn_slews h25 hsrc, rfl, rfl, ?_⟩,
    fun h => ⟨_, ppsOut_rises h25 h, ?_⟩⟩
  · beta_reduce
    rw [unsync_clock]
    exact ⟨rfl, rfl, unsync_mem ..⟩
  · obtain ⟨hlow, hhigh⟩ := rateClamp_bound (BitVec.ofNat 64 (freeVal s 64)).toInt
    obtain ⟨hwhole, hfrom, hto⟩ := ppsOffset_nearest s.clock.ns
    dsimp only
    exact ⟨hlow, hhigh, hwhole, hfrom, hto, rfl⟩
  · beta_reduce
    rw [sendSync_clock]
    exact ⟨rfl, rfl, sendSync_mem _⟩

end Sys2Proof.Machine

/-! ## Furlong packets that have no effect (R265 to R268, R270, R274) -/

namespace Sys2Proof.Machine

/-! ### What a packet without a PSN changes -/

/-- A MAC address asked for is a frame of address resolution, and nothing else. -/
theorem askFor_arp (s : State) (peer path : Nat) : ∃ l, askFor s peer path = { s with net := { s.net with arpTx := l } } := by
  unfold askFor
  split
  · exact ⟨_, rfl⟩
  · exact ⟨s.net.arpTx, rfl⟩

/-- A packet that leaves is one frame on the wire. -/
theorem sendCtl_emits {s t : State} {k : Packet} (h : sendCtl s k = some t) : ∃ f : Frame, t = emitFrame s f ∧ f.body = .furlong k := by
  unfold sendCtl at h
  split at h
  · cases h
    exact ⟨_, rfl, rfl⟩
  · cases h

/-! ### What a packet that is only counted and acknowledged changes -/

/-- Between two states nothing of memory, cores, contexts, placement, the log or identity changed, and nothing left the
device but SACKs. -/
structure OnlyAcks (s t : State) : Prop where
  mem : t.mem = s.mem
  cores : t.cores = s.cores
  ctxs : t.ctxs = s.ctxs
  place : t.place = s.place
  log : t.obs.log = s.obs.log
  sec : t.sec = s.sec
  tx : ∀ f ∈ t.net.tx, f ∈ s.net.tx ∨ ∃ q, f.body = .furlong q ∧ q.hdr.opc = opSack

namespace OnlyAcks

theorem refl (s : State) : OnlyAcks s s := ⟨rfl, rfl, rfl, rfl, rfl, rfl, fun _ => .inl⟩

theorem trans {s t u : State} (h : OnlyAcks s t) (h' : OnlyAcks t u) : OnlyAcks s u where
  mem := h'.mem.trans h.mem
  cores := h'.cores.trans h.cores
  ctxs := h'.ctxs.trans h.ctxs
  place := h'.place.trans h.place
  log := h'.log.trans h.log
  sec := h'.sec.trans h.sec
  tx f hf := (h'.tx f hf).elim (h.tx f) .inr

theorem bump (s : State) (kind index number n : Nat) : OnlyAcks s (bump s kind index number n) :=
  ⟨rfl, rfl, rfl, rfl, rfl, rfl, fun _ => .inl⟩

theorem setSess (s : State) (peer : Nat) (x : Session) : OnlyAcks s (setSess s peer x) :=
  ⟨rfl, rfl, rfl, rfl, rfl, rfl, fun _ => .inl⟩

theorem askFor (s : State) (peer path : Nat) : OnlyAcks s (askFor s peer path) := by
  obtain ⟨l, hl⟩ := askFor_arp s peer path
  rw [hl]
  exact ⟨rfl, rfl, rfl, rfl, rfl, rfl, fun _ => .inl⟩

/-- A packet counted for its session, and for its context where it has one. -/
theorem countPkt (s : State) (h : FHdr) (number n : Nat) : OnlyAcks s (countPkt s h number n) := by
  unfold Machine.countPkt
  dsimp only
  split
  · exact (bump ..).trans (bump ..)
  · exact bump ..

theorem sendSack (s : State) (peer : Nat) : OnlyAcks s (sendSack s peer) := by
  unfold Machine.sendSack
  dsimp only
  split
  · next t ht =>
    obtain ⟨f, rfl, hbody⟩ := sendCtl_emits ht
    refine ⟨rfl, rfl, rfl, rfl, rfl, rfl, fun g hg => ?_⟩
    rcases List.mem_append.1 hg with hold | hnew
    · exact .inl hold
    · rw [List.mem_singleton.1 hnew]
      exact .inr ⟨_, hbody, rfl⟩
  · exact askFor ..

theorem ackPkt (s : State) (k : Packet) (ok : Bool) (status : Nat) : OnlyAcks s (ackPkt s k ok status) := by
  unfold Machine.ackPkt
  dsimp only
  split
  · exact (setSess ..).trans (sendSack ..)
  · exact setSess ..

end OnlyAcks

/-! ### The checks of a receiver -/

/-- A packet that fails a check of its receiver: of its header, its age, its block, its PSN, or its epoch. -/
def FailsCheck (s : State) (p : Packet) : Prop :=
  hdrOk p = false ∨ tooOld s p.hdr = true ∨ bcrcOf p.payload p.poison ≠ p.bcrc ∨
    seenPsn (sessOf s p.hdr.srcNode) p.hdr.psn = true ∨
    (p.hdr.jobId ≠ 0 ∧ ∃ k, jobCtx s p.hdr.jobId = some k ∧ gen16 p.hdr.epoch (ctxOf s k).epoch ≠ 0)

/-- A receiver only counts and acknowledges a packet that fails a check, whatever its opcode would do. -/
theorem receive_drops {s : State} {p : Packet} (h : FailsCheck s p) (opc : Nat) (land : Option Nat → Landed) :
    OnlyAcks s (receive s p opc land) := by
  unfold receive
  dsimp only
  split
  · exact .countPkt ..
  next hhdr =>
  split
  · exact .refl s
  split
  · exact .countPkt ..
  next hage =>
  split
  · exact (OnlyAcks.countPkt ..).trans (.ackPkt ..)
  next hblock =>
  split
  · exact (OnlyAcks.countPkt ..).trans (.ackPkt ..)
  next hseen =>
  obtain ⟨hjob, k, hk, hepoch⟩ : p.hdr.jobId ≠ 0 ∧ ∃ k, jobCtx s p.hdr.jobId = some k ∧ gen16 p.hdr.epoch (ctxOf s k).epoch ≠ 0 := by
    rcases h with h | h | h | h | h
    · exact absurd h hhdr
    · exact absurd h hage
    · exact absurd h hblock
    · exact absurd h hseen
    · exact h
  rw [if_neg hjob, hk]
  dsimp only
  split
  · exact (OnlyAcks.countPkt ..).trans (.ackPkt ..)
  next hpast =>
  rw [if_pos (by omega)]
  exact .countPkt ..

theorem collRecv_drops {s : State} {p : Packet} (h : FailsCheck s p) (kind : Nat) (land : Nat → Landed) :
    OnlyAcks s (collRecv s p kind land) := by
  unfold collRecv
  split
  · exact receive_drops h ..
  · exact .refl s

/-- Each command that delivers a packet is its receipt with what its opcode does. -/
theorem packetCmd_drops {s : State} {p : Packet} {i : Instr} (hi : i ∈ packetCmd p) (h : FailsCheck s p) :
    Completes i s (OnlyAcks s) := by
  simp only [packetCmd, List.mem_cons, List.not_mem_nil, or_false] at hi
  rcases hi with rfl | rfl | rfl | rfl | rfl | rfl | rfl | rfl | rfl | rfl | rfl | rfl | rfl | rfl
  · exact ⟨_, exec_furlongWriteReceive .., receive_drops h ..⟩
  · exact ⟨_, exec_readReqReceive .., receive_drops h ..⟩
  · exact ⟨_, exec_readRespReceive .., receive_drops h ..⟩
  · exact ⟨_, exec_sendReceive .., receive_drops h ..⟩
  · exact ⟨_, exec_remoteTrussArrival .., receive_drops h ..⟩
  · exact ⟨_, exec_collReady .., collRecv_drops h ..⟩
  · exact ⟨_, exec_collData .., collRecv_drops h ..⟩
  · exact ⟨_, exec_collPartial .., collRecv_drops h ..⟩
  · exact ⟨_, exec_collResult .., collRecv_drops h ..⟩
  · exact ⟨_, exec_collCheck .., collRecv_drops h ..⟩
  · exact ⟨_, exec_collRepair .., collRecv_drops h ..⟩
  · exact ⟨_, exec_collAbort .., collRecv_drops h ..⟩
  · exact ⟨_, exec_collRevoke .., collRecv_drops h ..⟩
  · exact ⟨_, exec_collDone .., collRecv_drops h ..⟩

/-- Settles O19: every command that delivers a packet is a receipt, and a receipt that fails a check counts and
acknowledges only (`receive_drops`). -/
theorem packetsDropped : Obligations.PacketsDropped := by
  unfold Obligations.PacketsDropped
  intro s p i hi h
  obtain ⟨t, ht, hmem, hcores, hctxs, hplace, hlog, hsec, htx⟩ := packetCmd_drops hi h
  exact ⟨t, ht, hmem, hcores, hctxs, hplace, hlog, hsec, htx⟩

end Sys2Proof.Machine

/-! ## Ports, address resolution and RoCEv2 (R256 to R258, R261, R276) -/

namespace Sys2Proof.Machine

/-- An event that concerns no context leaves what the network dies hold. -/
theorem raise_net_of_none {k : Nat} (hk : ¬k < 64) (s : State) (code cls u : Nat) (p : List Byte) :
    (raise s code cls k u p).net = s.net := by
  simp [raise, raiseOn, byNetwork, hk]

/-! ### Ports -/

@[simp] theorem portOf_setPort (s : State) (p : Nat) (x : Port) : portOf (setPort s p x) p = x := look_put_same ..

theorem portOf_raise {k : Nat} (hk : ¬k < 64) (s : State) (code cls u : Nat) (pay : List Byte) (p : Nat) :
    portOf (raise s code cls k u pay) p = portOf s p := by
  rw [portOf, raise_net_of_none hk]
  rfl

theorem portUp_rises (s : State) (p rate : Nat) : (portUp s p rate).mem = s.mem ∧
    portOf (portUp s p rate) p = { portOf s p with up := true, rate := rate, failed := false } ∧
    (portUp s p rate).obs.log.getLast?.map (fun e => (e.code, e.unit)) = some (0x0401, unitPort p) :=
  ⟨rfl, (portOf_raise (by decide) ..).trans (portOf_setPort ..), raise_event ..⟩

theorem portDown_falls (s : State) (p cause : Nat) (failed : Bool) : (portDown s p cause failed).mem = s.mem ∧
    portOf (portDown s p cause failed) p = { portOf s p with up := false, downAt := s.clock.ns, failed := failed } ∧
    (portDown s p cause failed).obs.log.getLast?.map (fun e => (e.code, e.unit, e.payload)) =
      some (0x0402, unitPort p, p4 p ++ p4 cause) := by
  refine ⟨rfl, (portOf_raise (by decide) ..).trans (portOf_setPort ..), ?_⟩
  rw [portDown, raise_last]
  rfl

/-- A negotiation with a rate in common, whose lanes all train, brings the port up at the highest one. -/
theorem negotiated_common {rates : List Nat} {rate : Nat}
    (h : rate = 200 ∧ 200 ∈ rates ∨ rate = 100 ∧ 100 ∈ rates ∧ 200 ∉ rates) (s : State) (p : Nat) :
    negotiated s p rates true = portUp s p rate := by
  rcases h with ⟨rfl, h200⟩ | ⟨rfl, h100, h200⟩
  · simp [negotiated, h200]
  · simp [negotiated, h100, h200]

theorem negotiated_none {rates : List Nat} (h200 : 200 ∉ rates) (h100 : 100 ∉ rates) (s : State) (p : Nat) (trained : Bool) :
    negotiated s p rates trained = portDown s p 1 true := by
  simp [negotiated, h100, h200]

theorem portTrained_negotiates {s : State} {p : Nat} (hp : p ∈ portList s) (hup : (portOf s p).up = false)
    (hf : (portOf s p).failed = false) (rates : List Nat) (trained : Bool) :
    exec (.portTrained p (rates, trained)) s = .next (negotiated s p rates trained) := by
  rw [exec_portTrained, execPortTrained]
  simp [hp, hup, hf]

theorem portAnRetry_negotiates {s : State} {p : Nat} (hp : p ∈ portList s) (hup : (portOf s p).up = false)
    (hd : (portOf s p).downAt + 1000000000 ≤ s.clock.ns) (rates : List Nat) (trained : Bool) :
    exec (.portAnRetry p rates trained) s = .next (negotiated s p rates trained) := by
  rw [exec_portAnRetry, execPortAnRetry]
  simp [hp, hup, hd]

theorem portLinkLoss_falls {s : State} {p : Nat} (hup : (portOf s p).up = true) (cause : Nat) :
    exec (.portLinkLoss p cause) s = .next (portDown s p cause false) := by
  rw [exec_portLinkLoss, execPortLinkLoss, if_pos hup]

/-! ### Address resolution -/

theorem arp_answers {s : State} {i : NetIdentity} (hi : s.net.identity = some i) (hv4 : i.flags.getLsbD 0 = true) (p src mac : Nat) :
    exec (.arp p (.request false i.v4Addr src mac)) s =
      .next { s with net := { s.net with arpTx := s.net.arpTx ++ [(p, .reply false i.v4Addr (portMac i p))] } } := by
  simp [execArp, hi, hv4]

theorem arp_learns {s : State} {i : NetIdentity} (hi : s.net.identity = some i) (p : Nat) (v6 : Bool) (sender mac : Nat) :
    exec (.arp p (.reply v6 sender mac)) s = .next { s with net := { s.net with
      arpTable := s.net.arpTable.filter (fun e => e.1 != arpKey p sender) ++ [(arpKey p sender, mac)] } } := by
  simp [execArp, hi]

/-! ### RoCEv2 -/

@[simp] theorem qpAt_setQp (s : State) (q : Nat) (x : Qp) : qpAt (setQp s q x) q = x := look_put_same ..

/-- A queue pair without a rate, whose way to its peer is known, sends a packet as one frame. -/
theorem roceSend_emits {s : State} {q : Nat} {i : NetIdentity} {pt p a mac : Nat} (hi : s.net.identity = some i)
    (hp : pathPort s 0 = some pt) (hw : wayToAddr s i pt (qpAt s q).peer = .go p a mac) (hr : (qpAt s q).rate = 0) (k : RocePkt) :
    ∃ f : Frame, roceSend s q [k] = emitFrame s f ∧ f.body = .roce (sealRoce i a q k) := by
  simp only [roceSend, List.foldl_cons, List.foldl_nil, roceOut, hi, hp, hw, hr, if_true]
  exact ⟨_, rfl, rfl⟩

section Roce
variable {s : State} {k : RocePkt} (hq : has s.net.qps k.qp = true) (hk : k.kind = .send)
  (hc : icrcOf { k with icrc := 0 } = k.icrc) (hce : k.ce = false)
include hq hk hc hce

theorem rocev2Receive_inOrder (he : k.psn = (qpAt s k.qp).expect) : exec (.rocev2Receive k) s =
    .next (roceSend (setQp s k.qp { qpAt s k.qp with expect := psnAdd (qpAt s k.qp).expect 1 }) k.qp
      [{ kind := .ack, qp := k.qp, psn := k.psn }]) := by
  rw [exec_rocev2Receive, execRocev2Receive, if_neg (fun h => h.elim (by simp [hq]) (absurd hc))]
  simp [hce, hk, he, roceAct]

theorem rocev2Receive_gap (he : k.psn ≠ (qpAt s k.qp).expect) (ha : psn24 k.psn (qpAt s k.qp).expect = false) :
    exec (.rocev2Receive k) s =
      .next (roceSend s k.qp [{ kind := .nak, qp := k.qp, psn := (qpAt s k.qp).expect, len := 0x60 }]) := by
  rw [exec_rocev2Receive, execRocev2Receive, if_neg (fun h => h.elim (by simp [hq]) (absurd hc))]
  simp [hce, hk, he, ha]

variable {i : NetIdentity} {pt p2 a mac : Nat} (hi : s.net.identity = some i) (hp : pathPort s 0 = some pt)
  (hw : wayToAddr s i pt (qpAt s k.qp).peer = .go p2 a mac) (hr : (qpAt s k.qp).rate = 0)
include hi hp hw hr

theorem rocev2Receive_acknowledges (he : k.psn = (qpAt s k.qp).expect) : Completes (.rocev2Receive k) s (fun t => t.mem = s.mem ∧
    (qpAt t k.qp).expect = (k.psn + 1) % 0x100_0000 ∧
    ∃ f g, t.net.tx = s.net.tx ++ [f] ∧ f.body = .roce g ∧ g.kind = .ack ∧ g.qp = k.qp ∧ g.psn = k.psn) := by
  have hat := qpAt_setQp s k.qp { qpAt s k.qp with expect := psnAdd (qpAt s k.qp).expect 1 }
  obtain ⟨f, hf, hbody⟩ := roceSend_emits (s := setQp s k.qp { qpAt s k.qp with expect := psnAdd (qpAt s k.qp).expect 1 })
    (q := k.qp) hi hp (by rw [hat]; exact hw) (by rw [hat]; exact hr) { kind := .ack, qp := k.qp, psn := k.psn }
  refine ⟨_, (rocev2Receive_inOrder hq hk hc hce he).trans (congrArg Host.Outcome.next hf), rfl, ?_, f, _, rfl, hbody, rfl, rfl, rfl⟩
  exact (congrArg Qp.expect hat).trans (by rw [he]; rfl)

theorem rocev2Receive_refuses (he : k.psn ≠ (qpAt s k.qp).expect) (ha : psn24 k.psn (qpAt s k.qp).expect = false) :
    Completes (.rocev2Receive k) s (fun t => t.mem = s.mem ∧ qpAt t k.qp = qpAt s k.qp ∧
      ∃ f g, t.net.tx = s.net.tx ++ [f] ∧ f.body = .roce g ∧ g.kind = .nak ∧ g.qp = k.qp ∧ g.psn = (qpAt s k.qp).expect) := by
  obtain ⟨f, hf, hbody⟩ := roceSend_emits hi hp hw hr { kind := .nak, qp := k.qp, psn := (qpAt s k.qp).expect, len := 0x60 }
  exact ⟨_, (rocev2Receive_gap hq hk hc hce he ha).trans (congrArg Host.Outcome.next hf), rfl, rfl, f, _, rfl, hbody, rfl, rfl, rfl⟩

end Roce

/-- Settles O23: a negotiation ends in `portUp` or `portDown`, an address message in one entry, and a RoCEv2 request in one
frame (`roceSend_emits`). -/
theorem portsAndAddresses : Obligations.PortsAndAddresses := by
  unfold Obligations.PortsAndAddresses
  refine fun s p => ⟨fun rates rate hp hup hrate => ⟨fun hf => ?_, fun hd => ?_⟩, fun rates b hp hup hf h200 h100 => ?_,
    fun cause hup => ?_, fun i hi => ⟨fun src mac hv4 => ⟨_, arp_answers hi hv4 p src mac, rfl, rfl⟩, fun v6 sender mac => ?_⟩,
    fun k hq hk hc hce i pt p2 a mac hi hp hw hr => ⟨fun he => ?_, fun he ha => ?_⟩⟩
  · exact ⟨_, portTrained_negotiates hp hup hf rates true, negotiated_common hrate s p ▸ portUp_rises s p rate⟩
  · obtain ⟨-, hport, -⟩ := portUp_rises s p rate
    exact ⟨_, portAnRetry_negotiates hp hup hd rates true, negotiated_common hrate s p ▸ hport⟩
  · obtain ⟨-, hport, hlog⟩ := portDown_falls s p 1 true
    refine ⟨_, portTrained_negotiates hp hup hf rates b, ?_⟩
    beta_reduce
    rw [negotiated_none h200 h100, hport]
    exact ⟨rfl, rfl, rfl, by simpa using congrArg (Option.map (fun e => (e.1, e.2.2))) hlog⟩
  · obtain ⟨hmem, hport, hlog⟩ := portDown_falls s p cause false
    exact ⟨_, portLinkLoss_falls hup cause, hmem, hport ▸ rfl, hlog⟩
  · exact ⟨_, arp_learns hi p v6 sender mac, List.mem_append_right _ (List.mem_singleton.2 rfl), rfl⟩
  · exact rocev2Receive_acknowledges hq hk hc hce hi hp hw hr he
  · exact rocev2Receive_refuses hq hk hc hce hi hp hw hr he ha

end Sys2Proof.Machine

/-! ## Sessions that send, acknowledge and pace (R262, R268 to R271, R274) -/

namespace Sys2Proof.Machine

@[simp] theorem sessOf_setSess (s : State) (peer : Nat) (x : Session) : sessOf (setSess s peer x) peer = x := look_put_same ..

theorem has_drop_same {α : Type} (t : Tbl α) (k : Nat) : has (drop t k) k = false := by
  induction t with
  | nil => rfl
  | cons e r ih =>
    obtain ⟨k', v⟩ := e
    by_cases hk : k' = k
    · simpa [drop, List.filter_cons, hk] using ih
    · simpa [drop, List.filter_cons, hk, has] using ih

/-! ### Packets without a PSN on their way -/

/-- A packet without a PSN leaves where its destination has a way. -/
theorem sendCtl_leaves {s : State} {k : Packet} {i : NetIdentity} {p a mac : Nat} (hi : s.net.identity = some i)
    (hw : wayTo s k.hdr.dstNode k.hdr.path = .go p a mac) : ∃ f : Frame, sendCtl s k = some (emitFrame s f) ∧ f.body = .furlong k := by
  simp only [sendCtl, hi, hw]
  exact ⟨_, rfl, rfl⟩

theorem ctlPacket_sealed (s : State) (opc peer path psn : Nat) (pay : List Byte) :
    hcrcOf (ctlPacket s opc peer path psn pay).hdr = (ctlPacket s opc peer path psn pay).hdr.hcrc := rfl

theorem sendSack_leaves {s : State} {peer p a mac : Nat} {i : NetIdentity} (hi : s.net.identity = some i)
    (hw : wayTo s peer 0 = .go p a mac) : ∃ f : Frame,
    sendSack s peer = setSess (emitFrame s f) peer (sackGone (sessOf s peer)) ∧
    f.body = .furlong (ctlPacket s opSack peer 0 (sackOf (sessOf s peer)).cumPsn (sackBytes (sackOf (sessOf s peer)))) := by
  obtain ⟨f, hf, hbody⟩ := sendCtl_leaves
    (k := ctlPacket s opSack peer 0 (sackOf (sessOf s peer)).cumPsn (sackBytes (sackOf (sessOf s peer)))) hi hw
  exact ⟨f, by rw [sendSack, hf], hbody⟩

theorem sackTimer_sends {s : State} {peer t0 p a mac : Nat} {i : NetIdentity} (ht : (sessOf s peer).firstUnacked = some t0)
    (hdue : t0 + 2000 ≤ s.clock.ns) (hi : s.net.identity = some i) (hw : wayTo s peer 0 = .go p a mac) :
    Completes (.sackTimer peer) s (fun t => t.mem = s.mem ∧
      (∃ f q, t.net.tx = s.net.tx ++ [f] ∧ carries f q ∧ q.hdr.opc = opSack ∧ q.hdr.psn = (sackOf (sessOf s peer)).cumPsn ∧
        q.payload = sackBytes (sackOf (sessOf s peer))) ∧
      (sessOf t peer).sinceSack = 0 ∧ (sessOf t peer).firstUnacked = none) := by
  obtain ⟨f, hf, hbody⟩ := sendSack_leaves hi hw
  refine ⟨_, ?_, sendSack_mem s peer, ?_⟩
  · rw [exec_sackTimer, execSackTimer, ht]
    exact if_pos hdue
  · rw [hf, sessOf_setSess]
    exact ⟨⟨f, _, rfl, ⟨hbody, ctlPacket_sealed ..⟩, rfl, rfl, rfl⟩, rfl, rfl⟩

/-! ### Packets of a session on their way -/

/-- Without records for a manager node none is put in line. -/
theorem flushRecords_none {s : State} {peer : Nat} (h : ∀ r ∈ s.net.records, r.1 ≠ peer) : flushRecords s peer = s := by
  have hnone : s.net.records.filter (fun e => e.1 == peer) = [] := List.filter_eq_nil_iff.2 fun r hr => by simp [h r hr]
  have hall : s.net.records.filter (fun e => e.1 != peer) = s.net.records := List.filter_eq_self.2 fun r hr => by simp [h r hr]
  rw [flushRecords, hnone, hall]
  rfl

theorem countSent_net (s : State) (p : Packet) (peer : Nat) (port : Option Nat) (again : Bool) :
    (countSent s p peer port again).net = s.net := by
  unfold countSent
  dsimp only
  repeat' split
  all_goals simp only [bump_net]

/-- A packet with a way out is counted and is one frame on the wire. -/
theorem transmit_leaves {s : State} {i : NetIdentity} (hi : s.net.identity = some i) (p : Packet) (peer port a mac : Nat) (again : Bool) :
    ∃ f : Frame, (transmit s p peer (.go port a mac) again).net = { s.net with tx := s.net.tx ++ [f] } ∧
      (transmit s p peer (.go port a mac) again).mem = s.mem ∧ (hcrcOf p.hdr = p.hdr.hcrc → carries f p) ∧ f.port = port := by
  simp only [transmit, hi, emitFrame, countSent_net, countSent_mem, true_and]
  exact ⟨_, rfl, fun h => ⟨rfl, h⟩, rfl⟩

theorem netCharge_net {s t : State} {p : Packet} (h : netCharge s p = some t) : t.net = s.net := by
  unfold netCharge at h
  dsimp only at h
  repeat' split at h
  all_goals cases h
  all_goals rfl

section Send
variable {s : State} {peer : Nat} {i : NetIdentity} {port a mac : Nat} (hi : s.net.identity = some i)
  (hw : wayTo s peer (pickPath (sessOf s peer) s.clock.ns) = .go port a mac) (ho : (sessOf s peer).isOpen = true)
  (ha : alive s = true) (hr : ∀ r ∈ s.net.records, r.1 ≠ peer) (hpace : (sessOf s peer).paceAt ≤ s.clock.ns)

include ho ha hr in
theorem packetSend_lost {e : Sent} (hl : nextLost (sessOf s peer) = some e) :
    exec (.packetSend peer) s = .next (resend s peer (sessOf s peer) e) := by
  rw [exec_packetSend, execPacketSend]
  simp [ha, flushRecords_none hr, ho, hl]

include ho ha hr in
theorem packetSend_new (hl : nextLost (sessOf s peer) = none) {p : Packet} {r : List Packet} (hq : (sessOf s peer).queue = p :: r) :
    exec (.packetSend peer) s = .next (sendNew s peer (sessOf s peer) p r) := by
  rw [exec_packetSend, execPacketSend]
  simp [ha, flushRecords_none hr, ho, hl, hq]

/-- A packet as it leaves. -/
def sentAs (p : Packet) (path origin : Nat) (again : Bool) : Packet := { p with hdr := sealHdr p.hdr path origin again }

include hw hpace

/-- A new packet within the window, the pace and the regulator leaves sealed, and waits for its acknowledgement. -/
theorem sendNew_transmits {p : Packet} {s1 : State} (hn : (sessOf s peer).unacked.length < 8192)
    (hc : inFlightBytes (sessOf s peer) + p.payload.length ≤ (sessOf s peer).cwnd) (hg : netCharge s p = some s1) (r : List Packet) :
    ∃ q y, sendNew s peer (sessOf s peer) p r = transmit (setSess s1 peer y) q peer (.go port a mac) false ∧
      q = sentAs p (pickPath (sessOf s peer) s.clock.ns) s.clock.ns false ∧ y.queue = r ∧
      y.unacked = (sessOf s peer).unacked ++ [⟨q, some port, q.hdr.path, s.clock.ns, 0, false⟩] := by
  unfold sendNew
  dsimp only
  rw [if_neg (by omega), hw, if_pos (show wayOpen (.go port a mac) = true from rfl), hg]
  exact ⟨_, _, rfl, rfl, rfl, rfl⟩

/-- A lost packet younger than 4 ms leaves again, marked so. -/
theorem resend_transmits {e : Sent} (hage : s.clock.ns < e.pkt.hdr.origin + 4000000) :
    ∃ y, resend s peer (sessOf s peer) e = transmit (setSess s peer y)
        (sentAs e.pkt (pickPath (sessOf s peer) s.clock.ns) e.pkt.hdr.origin true) peer (.go port a mac) true ∧
      y.queue = (sessOf s peer).queue := by
  unfold resend
  dsimp only
  rw [if_neg (by omega), hw, if_pos (show wayOpen (.go port a mac) = true from rfl)]
  exact ⟨_, rfl, rfl⟩

include hi ho ha hr

theorem packetSend_sends (hl : nextLost (sessOf s peer) = none) {p : Packet} {r : List Packet} (hq : (sessOf s peer).queue = p :: r)
    {s1 : State} (hn : (sessOf s peer).unacked.length < 8192)
    (hc : inFlightBytes (sessOf s peer) + p.payload.length ≤ (sessOf s peer).cwnd) (hg : netCharge s p = some s1) :
    Completes (.packetSend peer) s (fun t => t.mem = s.mem ∧ ∃ f q, t.net.tx = s.net.tx ++ [f] ∧ carries f q ∧
      f.port = port ∧ q.payload = p.payload ∧ q.hdr.psn = p.hdr.psn ∧ q.hdr.origin = s.clock.ns ∧ q.hdr.retrans = false ∧
      (sessOf t peer).queue = r ∧
      (sessOf t peer).unacked = (sessOf s peer).unacked ++ [⟨q, some port, q.hdr.path, s.clock.ns, 0, false⟩]) := by
  obtain ⟨q, y, hsend, rfl, hqueue, hunacked⟩ := sendNew_transmits hw hpace hn hc hg r
  obtain ⟨f, hnet, hmem, hcarries, hport⟩ := transmit_leaves (s := setSess s1 peer y) ((congrArg Net.identity (netCharge_net hg)).trans hi)
    (sentAs p (pickPath (sessOf s peer) s.clock.ns) s.clock.ns false) peer port a mac false
  refine ⟨_, (packetSend_new ho ha hr hl hq).trans (congrArg Host.Outcome.next hsend), hmem.trans ((setSess_mem ..).trans (netCharge_mem hg)), f, _, ?_,
    hcarries rfl, hport, rfl, rfl, rfl, rfl, ?_⟩
  · rw [hnet, setSess, netCharge_net hg]
  · rw [sessOf, hnet, setSess, look_put_same]
    exact ⟨hqueue, hunacked⟩

theorem packetSend_resends {e : Sent} (hl : nextLost (sessOf s peer) = some e) (hage : s.clock.ns < e.pkt.hdr.origin + 4000000) :
    Completes (.packetSend peer) s (fun t => t.mem = s.mem ∧ ∃ f q, t.net.tx = s.net.tx ++ [f] ∧ carries f q ∧
      q.payload = e.pkt.payload ∧ q.hdr.psn = e.pkt.hdr.psn ∧ q.hdr.origin = e.pkt.hdr.origin ∧ q.hdr.retrans = true ∧
      (sessOf t peer).queue = (sessOf s peer).queue) := by
  obtain ⟨y, hsend, hqueue⟩ := resend_transmits hw hpace hage
  obtain ⟨f, hnet, hmem, hcarries, -⟩ := transmit_leaves (s := setSess s peer y) hi
    (sentAs e.pkt (pickPath (sessOf s peer) s.clock.ns) e.pkt.hdr.origin true) peer port a mac true
  refine ⟨_, (packetSend_lost ho ha hr hl).trans (congrArg Host.Outcome.next hsend), hmem, f, _, ?_,
    hcarries rfl, rfl, rfl, rfl, rfl, ?_⟩
  · rw [hnet, setSess]
  · rw [sessOf, hnet, setSess, look_put_same]
    exact hqueue

end Send

/-! ### Acknowledgements -/

theorem declareLost_keeps (now : Nat) (x : Session) (lost : Sent → Bool) :
    (declareLost now x lost).unacked.map (fun e => e.pkt) = x.unacked.map (fun e => e.pkt) ∧
    (declareLost now x lost).queue = x.queue := by
  refine ⟨?_, rfl⟩
  simp only [declareLost, List.map_map]
  refine List.map_congr_left fun e _ => ?_
  dsimp only [Function.comp]
  split <;> rfl

theorem takeRtt_keeps (x : Session) (now r : Nat) : (takeRtt x now r).unacked = x.unacked ∧ (takeRtt x now r).queue = x.queue := by
  unfold takeRtt
  dsimp only
  split <;> exact ⟨rfl, rfl⟩

theorem settleOps_unanswered (ops : List NetOp) (acked : Nat → Bool) : (settleOps ops acked none).2.2 = [] := by
  simp [settleOps]

theorem opDone_net (s : State) (o : NetOp) (faulted : Bool) : (opDone s o faulted).net = s.net := by
  fun_cases opDone <;> rfl

theorem foldl_opDone_net (l : List NetOp) (s : State) : (l.foldl (fun s p => opDone s p false) s).net = s.net :=
  List.foldlRecOn (motive := fun t : State => t.net = s.net) l _ rfl fun _ ht _ _ => (opDone_net ..).trans ht

/-- A SACK without a status takes what it acknowledges out of the packets that wait, and changes nothing else of what is
held for the peer or of memory. -/
theorem sackIn_acknowledges {s : State} {peer : Nat} {a : Sack} (hs : a.status = 0) : ∃ y, (sackIn s peer a).net = (setSess s peer y).net ∧
    (sackIn s peer a).mem = s.mem ∧ y.queue = (sessOf s peer).queue ∧
    y.unacked.map (fun e => e.pkt) = ((sessOf s peer).unacked.filter (fun e => !sackHas a e.pkt.hdr.psn)).map (fun e => e.pkt) := by
  unfold sackIn
  dsimp only
  rw [if_pos hs, settleOps_unanswered, List.foldl_nil]
  refine ⟨_, foldl_opDone_net .., foldl_mem (fun s o => opDone_mem s o false) .., ?_, ?_⟩
  · rw [(declareLost_keeps ..).2]
    dsimp only
    split
    · rw [(takeRtt_keeps ..).2]
      rfl
    · rfl
  · rw [(declareLost_keeps ..).1]
    dsimp only
    split
    · rw [(takeRtt_keeps ..).1]
      rfl
    · rfl

theorem sackReceive_takes {s : State} {k : Packet} (hh : hdrOk k = true) (hopc : k.hdr.opc = opSack)
    (hn : ownNode s = some k.hdr.dstNode) (ho : (sessOf s k.hdr.srcNode).isOpen = true) (hb : bcrcOf k.payload k.poison = k.bcrc) :
    exec (.sackReceive k.hdr k.body) s = .next (sackIn s k.hdr.srcNode (readSack k.hdr.psn k.payload)) := by
  have hk : k.hdr.carrying k.body = k := rfl
  rw [exec_sackReceive, execSackReceive]
  simp [hk, hh, hopc, hn, ho, hb]

/-! ### Timers and congestion -/

theorem rtoExpiry_unacked (s : State) (peer psn : Nat) : Completes (.rtoExpiry peer psn) s (fun t => t.mem = s.mem ∧
    (sessOf t peer).unacked = (sessOf s peer).unacked.map (fun e =>
      if e.pkt.hdr.psn = psn ∧ e.sentAt + rtoOf (sessOf s peer) e.tries ≤ s.clock.ns then { e with lost := true } else e)) := by
  refine ⟨_, exec_rtoExpiry .., rfl, ?_⟩
  rw [sessOf_setSess]
  refine List.map_congr_left fun e _ => ?_
  cases hl : e.lost with
  | false => simp
  | true =>
    have he : { e with lost := true } = e := by rw [← hl]
    simp [he]

theorem pathSuspendExpiry_returns {s : State} {peer path : Nat} (hs : has (sessOf s peer).suspended path = true)
    (ht : look (sessOf s peer).suspended 0 path ≤ s.clock.ns) : Completes (.pathSuspendExpiry peer path) s (fun t =>
      t.mem = s.mem ∧ has (sessOf t peer).suspended path = false ∧ (sessOf t peer).unacked = (sessOf s peer).unacked) := by
  refine ⟨_, (exec_pathSuspendExpiry ..).trans (if_pos ⟨hs, ht⟩), rfl, ?_⟩
  rw [sessOf_setSess]
  exact ⟨has_drop_same .., rfl⟩

theorem congestionInterval_window {s : State} {peer : Nat} (ho : (sessOf s peer).isOpen = true)
    (hi : (sessOf s peer).intervalAt + (sessOf s peer).srtt ≤ s.clock.ns) :
    Completes (.congestionInterval peer) s (fun t => t.mem = s.mem ∧ (sessOf t peer).acked = 0 ∧ (sessOf t peer).marked = 0 ∧
      (sessOf t peer).intervalAt = s.clock.ns ∧
      (0 < (sessOf s peer).acked → (sessOf s peer).marked = 0 → (sessOf t peer).cwnd =
        min 33554432 ((sessOf s peer).cwnd + max 4096 ((sessOf s peer).cwnd / 8))) ∧
      (0 < (sessOf s peer).marked → (sessOf s peer).marked ≤ (sessOf s peer).acked → (sessOf t peer).cwnd =
        max 4096 ((sessOf s peer).cwnd * (2 * (sessOf s peer).acked - (sessOf s peer).marked) / (2 * (sessOf s peer).acked)))) := by
  refine ⟨_, (exec_congestionInterval ..).trans (if_neg (by simp [ho, hi])), rfl, ?_⟩
  rw [sessOf_setSess]
  refine ⟨rfl, rfl, rfl, fun ha hm => ?_, fun hm hle => ?_⟩
  · simp [ha.ne', hm]
  · simp [show (sessOf s peer).acked ≠ 0 by omega, min_eq_left hle, hm]

/-- Settles O22: a packet sent is `sendNew_leaves` or `resend_leaves`, a SACK taken in `sackIn_acknowledges`, and each timer
changes its session only. -/
theorem sessionsSendAndPace : Obligations.SessionsSendAndPace := by
  unfold Obligations.SessionsSendAndPace
  refine ⟨?_, ?_⟩
  · rintro s peer x rfl
    refine ⟨fun i port a mac hi hw ho ha hr hpace => ⟨fun hl p r s1 hq hn hc hg => ?_, fun e hl hage => ?_⟩,
      fun k a hh hopc hn hsrc ho hb ha hs => ?_, fun t0 i p a mac ht hdue hi hw => sackTimer_sends ht hdue hi hw,
      fun psn => rtoExpiry_unacked s peer psn, fun path hs ht => pathSuspendExpiry_returns hs ht⟩
    · exact packetSend_sends hi hw ho ha hr hpace hl hq hn hc hg
    · exact packetSend_resends hi hw ho ha hr hpace hl hage
    · subst hsrc ha
      obtain ⟨y, hnet, hmem, hqueue, hunacked⟩ := sackIn_acknowledges (s := s) (peer := k.hdr.srcNode) hs
      have hy : sessOf (sackIn s k.hdr.srcNode (readSack k.hdr.psn k.payload)) k.hdr.srcNode = y := by
        rw [sessOf, hnet]
        exact look_put_same ..
      refine ⟨_, sackReceive_takes hh hopc hn ho hb, hmem, by rw [hnet]; rfl, ?_⟩
      rw [hy]
      exact ⟨hunacked, hqueue⟩
  · rintro s peer x rfl ho hi
    exact congestionInterval_window ho hi

end Sys2Proof.Machine

/-! ## Sessions that open and peers that are lost (R263, R275) -/

namespace Sys2Proof.Machine

/-! ### HELLO -/

theorem ownHello_setSess (s : State) (peer : Nat) (x : Session) (reply : Bool) : ownHello (setSess s peer x) reply = ownHello s reply := rfl

/-- A HELLO sent changes nothing but what is on its way. -/
theorem sendHello_wire (s : State) (peer : Nat) (reply : Bool) :
    ∃ l l', sendHello s peer reply = { s with net := { s.net with tx := l, arpTx := l' } } := by
  unfold sendHello
  cases h : sendCtl s (ctlPacket s opHello peer 0 0 (helloBytes (ownHello s reply))) with
  | none =>
    obtain ⟨l, hl⟩ := askFor_arp s peer 0
    exact ⟨s.net.tx, l, hl⟩
  | some t =>
    obtain ⟨f, rfl, -⟩ := sendCtl_emits h
    exact ⟨_, s.net.arpTx, rfl⟩

/-- A HELLO sent as its session is replaced: the session stands, and the HELLO is on its way where there is one. -/
theorem sendHello_session (s : State) (peer : Nat) (y : Session) (reply : Bool) :
    (sendHello (setSess s peer y) peer reply).mem = s.mem ∧ (sendHello (setSess s peer y) peer reply).ctxs = s.ctxs ∧
    sessOf (sendHello (setSess s peer y) peer reply) peer = y ∧
    ∀ i p a mac, s.net.identity = some i → wayTo s peer 0 = .go p a mac →
      ∃ f q, (sendHello (setSess s peer y) peer reply).net.tx = s.net.tx ++ [f] ∧ carries f q ∧ q.hdr.opc = opHello ∧
        q.hdr.dstNode = peer ∧ q.payload = helloBytes (ownHello s reply) := by
  obtain ⟨l, l', hwire⟩ := sendHello_wire (setSess s peer y) peer reply
  refine ⟨sendHello_mem .., by rw [hwire]; rfl, by rw [hwire]; exact look_put_same .., fun i p a mac hi hw => ?_⟩
  obtain ⟨f, hf, hbody⟩ := sendCtl_leaves (s := setSess s peer y)
    (k := ctlPacket (setSess s peer y) opHello peer 0 0 (helloBytes (ownHello (setSess s peer y) reply))) hi hw
  refine ⟨f, _, ?_, ⟨hbody, ctlPacket_sealed ..⟩, rfl, rfl, congrArg helloBytes (ownHello_setSess ..)⟩
  rw [sendHello, hf]
  rfl

theorem furlongHelloRetry_sends {s : State} {peer : Nat} (hop : (sessOf s peer).opening = true) (ho : (sessOf s peer).isOpen = false)
    (ht : (sessOf s peer).helloAt + 500000 ≤ s.clock.ns) {i : NetIdentity} (hi : s.net.identity = some i) :
    exec (.furlongHelloRetry peer) s =
      .next (sendHello (setSess s peer { sessOf s peer with helloAt := s.clock.ns }) peer false) :=
  if_pos ⟨hop, ho, ht, by simp [ownNode, hi]⟩

section Receive
variable {s : State} {k : Packet} {n : Nat} (hh : hdrOk k = true) (hopc : k.hdr.opc = opHello) (hown : ownNode s = some n)
  (hdst : k.hdr.dstNode = n) (hb : bcrcOf k.payload k.poison = k.bcrc) (hn : n ≠ (readHello k.payload).node)
include hh hopc hown hdst hb hn

theorem furlongHelloReceive_takes : exec (.furlongHelloReceive k) s = .next (helloIn s (readHello k.payload)) := by
  rw [exec_furlongHelloReceive, execFurlongHelloReceive]
  simp [hh, hopc, hown, hdst, hb, hn]

end Receive

/-- A request of a compatible peer that is not another than before opens the session and is answered. -/
theorem helloIn_opens {s : State} {h : Hello} (hv : h.verMajor = 1) (hf : h.features.getLsbD 1 = true)
    (hk : (sessOf s h.node).known = false ∨ (sessOf s h.node).incarnation = h.incarnation) (hr : h.reply = false) :
    helloIn s h = sendHello (openWith s h) h.node true := by
  have hsame : ¬((sessOf s h.node).known = true ∧ (sessOf s h.node).incarnation ≠ h.incarnation) := fun ⟨h1, h2⟩ =>
    hk.elim (fun h0 => by simp [h0] at h1) h2
  have hsame' : ¬((sessOf s h.node).known = true ∧ (sessOf s h.node).incarnation ≠ h.incarnation ∧ (sessOf s h.node).ops ≠ []) :=
    fun ⟨h1, h2, _⟩ => hsame ⟨h1, h2⟩
  unfold helloIn
  dsimp only
  rw [if_neg (by simp [hv, hf]), if_neg hsame', if_neg hsame, hr]
  rfl

theorem openWith_session (s : State) (h : Hello) : ∃ x : Session, openWith s h = setSess s h.node x ∧ x.isOpen = true ∧
    x.recvCum = 0 ∧ x.incarnation = h.incarnation ∧ x.features = 31 &&& h.features ∧ x.sendPsn = x.queue.length :=
  ⟨_, rfl, rfl, rfl, rfl, rfl, rfl⟩

theorem helloIn_incompatible {s : State} {h : Hello} (hv : h.verMajor ≠ 1) : ∃ pay, helloIn s h = raise s 0x0403 clsC noCtx 0 pay :=
  ⟨_, if_pos (.inl hv)⟩

/-! ### The loss of a peer -/

/-- Between two states no session changed, and no context began or ended a collective or a phase of a restart. -/
structure KeepsJobs (s t : State) : Prop where
  sessions : t.net.sessions = s.net.sessions
  colls : ∀ k, (ctxOf t k).colls = (ctxOf s k).colls
  phase : ∀ k, (ctxOf t k).restart.phase = (ctxOf s k).restart.phase

namespace KeepsJobs
variable {s t u : State}

theorem of_ctxs (hs : t.net.sessions = s.net.sessions) (hx : t.ctxs = s.ctxs) : KeepsJobs s t := by
  refine ⟨hs, fun k => ?_, fun k => ?_⟩ <;> rw [ctxOf, hx] <;> rfl

theorem refl (s : State) : KeepsJobs s s := ⟨rfl, fun _ => rfl, fun _ => rfl⟩

theorem trans (h : KeepsJobs s t) (h' : KeepsJobs t u) : KeepsJobs s u :=
  ⟨h'.sessions.trans h.sessions, fun k => (h'.colls k).trans (h.colls k), fun k => (h'.phase k).trans (h.phase k)⟩

theorem foldl {α : Type} {f : State → α → State} (hf : ∀ s a, KeepsJobs s (f s a)) (l : List α) (s : State) :
    KeepsJobs s (l.foldl f s) := List.foldlRecOn l f (refl s) fun t ht a _ => ht.trans (hf t a)

theorem setCtx {k : Nat} {x : Ctx} (hc : x.colls = (ctxOf s k).colls) (hp : x.restart.phase = (ctxOf s k).restart.phase) :
    KeepsJobs s (setCtx s k x) := by
  refine ⟨rfl, fun j => ?_, fun j => ?_⟩ <;> by_cases hj : j = k
  · rw [hj, ctxOf_setCtx, hc]
  · rw [ctxOf_setCtx_other _ _ _ _ hj]
  · rw [hj, ctxOf_setCtx, hp]
  · rw [ctxOf_setCtx_other _ _ _ _ hj]

theorem raise (s : State) (code cls k u : Nat) (p : List Byte) : KeepsJobs s (raise s code cls k u p) := by
  obtain ⟨x, hput, hc, hp⟩ : ∃ x : Ctx, ((Machine.raise s code cls k u p).ctxs = put s.ctxs k x ∨
      (Machine.raise s code cls k u p).ctxs = s.ctxs) ∧ x.colls = (ctxOf s k).colls ∧ x.restart.phase = (ctxOf s k).restart.phase := by
    unfold Machine.raise raiseOn
    dsimp only
    split
    · exact ⟨_, .inl rfl, rfl, rfl⟩
    · split
      · exact ⟨_, .inl rfl, rfl, rfl⟩
      · exact ⟨_, .inr rfl, rfl, rfl⟩
  have hs : (Machine.raise s code cls k u p).net.sessions = s.net.sessions := by
    unfold Machine.raise raiseOn
    dsimp only
    split
    · exact List.foldlRecOn (motive := fun n : Net => n.sessions = s.net.sessions) _ _ rfl fun _ hn _ _ => hn
    · rfl
  rcases hput with h | h
  · exact (setCtx hc hp).trans (of_ctxs hs h)
  · exact of_ctxs hs h

theorem poisonGrain (s : State) (a : Nat) : KeepsJobs s (poisonGrain s a) := by
  have hp := poisonOnly_notePoison { s with mem := { s.mem with poison := addNat s.mem.poison (a / 64) } } a
  refine ⟨rfl, fun k => ?_, fun k => ?_⟩ <;> rw [Machine.poisonGrain, hp k] <;> rfl

theorem failRead (s : State) (op : Nat) : KeepsJobs s (failRead s op) := by
  refine (foldl (fun s r => ?_) _ s).trans (of_ctxs rfl rfl)
  exact foldl (fun s g => poisonGrain s (g * 64)) _ s

theorem failOp (s : State) (o : NetOp) : KeepsJobs s (failOp s o) := by
  unfold Machine.failOp
  split_ifs
  · exact failRead ..
  · exact setCtx rfl rfl
  · exact refl s
  · exact of_ctxs rfl rfl

end KeepsJobs

theorem collsLose_idle {s : State} (h : ∀ k, (ctxOf s k).colls = []) (node : Nat) : collsLose s node = s :=
  List.foldl_fixed' (fun k => by rw [h k]; rfl) _

theorem peerAbsent_idle {s : State} (h : ∀ k, (ctxOf s k).restart.phase = 0) (peer : Nat) : peerAbsent s peer = s :=
  List.foldl_fixed' (fun k => by simp [h k]) _

/-- The loss of one peer reported: once for the device, or once for every context that waited for it. -/
def lossRaised (s : State) (cs : List Nat) (pay : List Byte) : State :=
  if cs = [] then raise s 0x0404 clsC noCtx 0 pay else cs.foldl (fun s k => raise s 0x0404 clsJ k 0 pay) s

theorem lossRaised_keeps (s : State) (cs : List Nat) (pay : List Byte) : KeepsJobs s (lossRaised s cs pay) := by
  unfold lossRaised
  split_ifs
  · exact .raise ..
  · exact .foldl (fun s k => .raise ..) _ _

theorem lossRaised_logs (s : State) (cs : List Nat) (pay : List Byte) :
    (lossRaised s cs pay).obs.log.getLast?.map (fun e => e.code) = some 0x0404 := by
  unfold lossRaised
  split_ifs with h
  · rw [raise_last]
    rfl
  · rw [← List.dropLast_append_getLast h, List.foldl_append, List.foldl_cons, List.foldl_nil, raise_last]
    rfl

/-- A session closed and the operations that waited on it failed. -/
def sessionFailed (s : State) (peer : Nat) : State :=
  (sessOf s peer).ops.foldl failOp
    (setSess s peer { incarnation := (sessOf s peer).incarnation, known := (sessOf s peer).known })

theorem losePeer_eq (s : State) (peer cause : Nat) : losePeer s peer cause =
    peerAbsent (collsLose (lossRaised (sessionFailed s peer) (lostCtxs (sessOf s peer).ops)
      (p4 peer ++ p4 cause ++ p4 (sessOf s peer).ops.length)) peer) peer := rfl

/-- Where no collective and no restart waits for it, a lost peer leaves a closed session and PEER_UNREACHABLE. -/
theorem losePeer_closes {s : State} (h : ∀ k, (ctxOf s k).colls = [] ∧ (ctxOf s k).restart.phase = 0) (peer cause : Nat) :
    (losePeer s peer cause).obs.log.getLast?.map (fun e => e.code) = some 0x0404 ∧
    sessOf (losePeer s peer cause) peer = { incarnation := (sessOf s peer).incarnation, known := (sessOf s peer).known } := by
  have hkeeps := fun cs pay => (KeepsJobs.foldl .failOp (sessOf s peer).ops _).trans (lossRaised_keeps (sessionFailed s peer) cs pay)
  rw [losePeer_eq, collsLose_idle fun k => ((hkeeps _ _).colls k).trans (h k).1,
    peerAbsent_idle fun k => ((hkeeps _ _).phase k).trans (h k).2]
  refine ⟨lossRaised_logs .., ?_⟩
  rw [sessOf, (hkeeps _ _).sessions]
  exact look_put_same ..

/-- Settles O21: HELLOs sent are `sendHello_leaves`, one received is `helloIn_opens` or `helloIn_incompatible`, and a peer
lost is `losePeer_closes`. -/
theorem sessionsOpen : Obligations.SessionsOpen := by
  unfold Obligations.SessionsOpen
  rintro s peer x rfl
  refine ⟨fun hop ho ht i p a mac hi hw => ?_,
    fun k h n hh hopc hown hdst hb hread hn hpeer => ⟨fun hv hf hk hr => ?_, fun hv => ?_⟩,
    fun hidle => ⟨fun hop ho ht => ?_, fun hlate => ?_⟩⟩
  · obtain ⟨hmem, hctxs, hsess, hsent⟩ := sendHello_session s peer { sessOf s peer with helloAt := s.clock.ns } false
    exact ⟨_, furlongHelloRetry_sends hop ho ht hi, hmem, hctxs, hsess, hsent i p a mac hi hw⟩
  · subst hread hpeer
    obtain ⟨y, hy, hopen, hcum, hinc, hfeat, hpsn⟩ := openWith_session s (readHello k.payload)
    obtain ⟨hmem, hctxs, hsess, hsent⟩ := sendHello_session s (readHello k.payload).node y true
    have htakes := furlongHelloReceive_takes hh hopc hown hdst hb hn
    rw [helloIn_opens hv hf hk hr, hy] at htakes
    refine ⟨_, htakes, hmem, hctxs, ?_⟩
    rw [hsess]
    refine ⟨hopen, hcum, hinc, hfeat, hpsn, fun i p a mac hi hw => ?_⟩
    obtain ⟨f, q, htx, hcarries, -, -, hpay⟩ := hsent i p a mac hi hw
    exact ⟨f, q, htx, hcarries, hpay⟩
  · subst hread
    obtain ⟨pay, he⟩ := helloIn_incompatible (s := s) hv
    refine ⟨_, (furlongHelloReceive_takes hh hopc hown hdst hb hn).trans (congrArg Host.Outcome.next he), rfl,
      (KeepsJobs.raise ..).sessions, ?_⟩
    rw [raise_last]
    rfl
  · obtain ⟨hlog, hsess⟩ := losePeer_closes hidle peer lossOpen
    refine ⟨_, (exec_sessionOpenTimeout ..).trans (if_pos ⟨hop, ho, ht⟩), hlog, ?_⟩
    rw [hsess]
    exact ⟨rfl, rfl⟩
  · obtain ⟨hlog, hsess⟩ := losePeer_closes hidle peer lossBlock
    refine ⟨_, (exec_peerLoss ..).trans (if_pos (by simpa using hlate)), hlog, ?_⟩
    rw [hsess]
    exact ⟨rfl, rfl, rfl⟩

end Sys2Proof.Machine

/-! ## Accesses from the network (R231, R267, R272 to R274) -/

namespace Sys2Proof.Machine

/-! ### Stores of an agent that is no core -/

/-- What a list of computations that all succeed gives comes from its members. -/
theorem mem_of_mapM_ok {α β : Type} {f : α → Except Trap β} {l : List α} {bs : List β} (h : l.mapM f = .ok bs) :
    ∀ b ∈ bs, ∃ a ∈ l, f a = .ok b := by
  induction l generalizing bs with
  | nil => cases h; simp
  | cons a l ih =>
    rw [List.mapM_cons] at h
    cases ha : f a with
    | error e => rw [ha] at h; cases h
    | ok c =>
      cases hl : l.mapM f with
      | error e => rw [ha, hl] at h; cases h
      | ok cs =>
        rw [ha, hl] at h
        cases h
        intro b hb
        rcases List.mem_cons.1 hb with rfl | hb
        · exact ⟨a, by simp, ha⟩
        · obtain ⟨a', ha', hf⟩ := ih hl b hb
          exact ⟨a', by simp [ha'], hf⟩

/-- An agent that is no core has no stream status page. -/
theorem translate_noCore {s : State} {k n va : Nat} {a : Acc} {l : Loc} (hn : 320 ≤ n) (h : translate s k n va a = .ok l) :
    ∃ d, l = .mem d := by
  have hcore : ¬ n < 320 := by omega
  unfold translate at h
  simp only [hcore, and_false, if_false] at h
  split at h
  · split at h
    · cases h
    · split at h <;> cases h
      exact ⟨_, rfl⟩
  · split at h
    · split at h <;> cases h
      exact ⟨_, rfl⟩
    · cases h

theorem placeWr_noCore {s : State} {k n : Nat} {w : Wr} {ps : List (Loc × List Byte × Bool)} (hn : 320 ≤ n)
    (h : placeWr s k n w = .ok ps) : ∀ p ∈ ps, ∃ d, p.1 = .mem d := by
  unfold placeWr at h
  simp only [bind, Except.bind] at h
  split at h
  · cases h
  next ls hls =>
  cases h
  intro p hp
  obtain ⟨g, -, hg⟩ := mem_of_mapM_ok hls p hp
  split at hg
  · cases hg
  next l hl =>
  cases hg
  exact translate_noCore hn hl

theorem writeDpa_cores (s : State) (a : Nat) (bs : List Byte) (p : Bool) : (writeDpa s a bs p).cores = s.cores := by
  unfold writeDpa
  cases p
  · rfl
  · exact List.foldlRecOn (motive := fun u : State => u.cores = s.cores) _ _ rfl fun _ hu _ _ => hu

theorem writeDpa_place (s : State) (a : Nat) (bs : List Byte) (p : Bool) : (writeDpa s a bs p).place = s.place := by
  unfold writeDpa
  cases p
  · rfl
  · exact List.foldlRecOn (motive := fun u : State => u.place = s.place) _ _ rfl fun _ hu _ _ => hu

/-- Stores of an agent that is no core leave every core. -/
theorem writeVas_cores {s t : State} {k n : Nat} {ws : List Wr} (hn : 320 ≤ n) (h : writeVas s k n ws = .ok t) :
    t.cores = s.cores := by
  unfold writeVas at h
  simp only [bind, Except.bind] at h
  split at h
  · cases h
  next ps hps =>
  cases h
  refine List.foldlRecOn (motive := fun u : State => u.cores = s.cores) _ _ rfl fun u hu p hp => ?_
  obtain ⟨l, hl, hpl⟩ := List.mem_flatten.1 hp
  obtain ⟨w, -, hw⟩ := mem_of_mapM_ok hps l hl
  obtain ⟨d, hd⟩ := placeWr_noCore hn hw p hpl
  rw [storeAt, hd]
  exact (writeDpa_cores ..).trans hu

/-! ### A packet that lands -/

/-- A packet of a firmware session that its session takes in lands with no context. -/
theorem receive_firmware {s : State} {p : Packet} {opc : Nat} (h : PacketIn s p opc) (hj : p.hdr.jobId = 0)
    (land : Option Nat → Landed) : receive s p opc land = afterLand s p (land none) := by
  obtain ⟨hown, hopen, hhdr, hopc, hage, hblock, hseen⟩ := h
  simp [receive, hown, hopen, hhdr, hopc, hage, hblock, hseen, hj]

/-- A packet for a context lands there. -/
theorem receive_context {s : State} {p : Packet} {opc k : Nat} (h : PacketFor s p opc k) (land : Option Nat → Landed) :
    receive s p opc land = afterLand s p (land (some k)) := by
  obtain ⟨⟨hown, hopen, hhdr, hopc, hage, hblock, hseen⟩, hj, hctx, hepoch⟩ := h
  simp [receive, hown, hopen, hhdr, hopc, hage, hblock, hseen, hj, hctx, hepoch]

theorem PacketFor.isOpen {s : State} {p : Packet} {opc k : Nat} (h : PacketFor s p opc k) : (sessOf s p.hdr.srcNode).isOpen = true := by
  obtain ⟨⟨-, hopen, -⟩, -⟩ := h
  exact hopen

theorem OnlyAcks.countPort (s : State) (n : Nat) : OnlyAcks s (countPort s n) := by
  fun_cases Machine.countPort
  · exact refl s
  · exact (bump ..).trans ⟨rfl, rfl, rfl, rfl, rfl, rfl, fun _ => .inl⟩

/-- A packet acted on is counted and acknowledged, and nothing more. -/
theorem onlyAcks_taken (u : State) (p : Packet) (st : Nat) : OnlyAcks u (taken u p st) :=
  (OnlyAcks.countPkt ..).trans ((OnlyAcks.countPort ..).trans (.ackPkt ..))

/-! ### Accesses of a region (R267, R272, R274) -/

section Region
variable {s : State} {k : Nat} {h : FHdr} {r : Region} {len : Nat} {perm : Region → Bool} {act : Region → Except Trap State}

/-- An access inside a region that allows it is done. -/
theorem regionLand_ok {t : State} (hr : r = look (ctxOf s k).regions {} h.key) (hg : judgeGen r.bound r.ever r.keyGen h.keyGen = .ok)
    (hlen : h.offset + len ≤ r.length) (hperm : perm r = true) (hact : act r = .ok t) : regionLand s k h len perm act = .done t 0 := by
  subst hr
  simp [regionLand, hg, hlen, hperm, hact]

/-- One outside it, without its permission, or with a generation not yet bound is refused. -/
theorem regionLand_refused (hr : r = look (ctxOf s k).regions {} h.key)
    (hg : judgeGen r.bound r.ever r.keyGen h.keyGen = .invalid ∨
      (judgeGen r.bound r.ever r.keyGen h.keyGen = .ok ∧ (r.length < h.offset + len ∨ perm r = false))) :
    regionLand s k h len perm act = accessFault s k h := by
  subst hr
  rcases hg with hg | ⟨hg, hout⟩
  · simp [regionLand, hg]
  · have hno : ¬ (h.offset + len ≤ (look (ctxOf s k).regions {} h.key).length ∧ perm (look (ctxOf s k).regions {} h.key) = true) := by
      rcases hout with hout | hout
      · omega
      · simp [hout]
    simp only [regionLand, hg]
    rw [if_neg hno]

end Region

theorem pays_netTouch {s : State} (hu : s.mem.upsets = []) (k va len : Nat) (wr : Bool) : Pays s (netTouch s k va len wr) k :=
  .payFor hu _

theorem Pays.net {s t : State} {k : Nat} (h : Pays s t k) : t.net = s.net := by rw [h.rest]

section Remote
variable {s : State} {p : Packet} {k : Nat} {r : Region}

/-- A WRITE inside a region stores its block there. -/
theorem furlongWriteReceive_stores (hu : s.mem.upsets = []) (hr : r = look (ctxOf s k).regions {} p.hdr.key) (hp : PacketFor s p opWrite k)
    (hg : judgeGen r.bound r.ever r.keyGen p.hdr.keyGen = .ok) (hlen : p.hdr.offset + p.payload.length ≤ r.length) (hw : r.rwrite = true)
    {s1 : State} (hs : writeVas s k 320 (blockWrs (r.base + p.hdr.offset) p.hdr.offset p.payload p.poison) = .ok s1) :
    Completes (.furlongWriteReceive p) s (fun t => ∃ u, t = taken u p 0 ∧ SameBytes s1 u ∧ u.cores = s.cores ∧ OthersKept s1 u k) := by
  have hpays := pays_netTouch (writeVas_upsets hu hs) k (r.base + p.hdr.offset) p.payload.length true
  refine ⟨_, exec_furlongWriteReceive .., netTouch s1 k (r.base + p.hdr.offset) p.payload.length true, ?_,
    hpays.sameBytes, hpays.cores.trans (writeVas_cores (by omega) hs), hpays.others⟩
  rw [receive_context hp]
  dsimp only
  rw [regionLand_ok hr hg hlen hw (by rw [hs]; rfl)]
  rfl

/-- A WRITE that its region refuses raises REMOTE_ACCESS_FAULT. -/
theorem furlongWriteReceive_refused (hr : r = look (ctxOf s k).regions {} p.hdr.key) (hp : PacketFor s p opWrite k)
    (hg : judgeGen r.bound r.ever r.keyGen p.hdr.keyGen = .invalid ∨
      (judgeGen r.bound r.ever r.keyGen p.hdr.keyGen = .ok ∧ (r.length < p.hdr.offset + p.payload.length ∨ r.rwrite = false))) :
    Completes (.furlongWriteReceive p) s (fun t => ∃ u, t = taken u p 2 ∧ u.mem = s.mem ∧ u.cores = s.cores ∧
      (u.obs.log.getLast?.map (fun e => (e.code, e.ctx, e.payload))) = some (0x0406, k,
        p4 p.hdr.srcNode ++ p4 p.hdr.key ++ p4 p.hdr.keyGen ++ p8 p.hdr.offset ++ p4 p.hdr.opc)) := by
  refine ⟨_, exec_furlongWriteReceive .., raise s 0x0406 clsJ k 0 (p4 p.hdr.srcNode ++ p4 p.hdr.key ++ p4 p.hdr.keyGen ++
    p8 p.hdr.offset ++ p4 p.hdr.opc), ?_, raise_mem .., raise_cores .., ?_⟩
  · rw [receive_context hp]
    dsimp only
    rw [regionLand_refused hr hg]
    rfl
  · rw [raise_last]
    rfl

theorem openSess_of_open {peer : Nat} (h : (sessOf s peer).isOpen = true) : openSess s peer = s := by
  simp [openSess, h]

theorem enqueue_cores (o : Sender) (bs : List Block) (h : (sessOf s o.peer).isOpen = true) : (enqueue s o bs).cores = s.cores := by
  unfold enqueue
  rw [openSess_of_open h]
  rfl

theorem enqueue_ctxs (o : Sender) (bs : List Block) (h : (sessOf s o.peer).isOpen = true) : (enqueue s o bs).ctxs = s.ctxs := by
  unfold enqueue
  rw [openSess_of_open h]
  rfl

/-- The payloads of an operation's blocks stand behind those in line on an open session. -/
theorem enqueue_payloads (o : Sender) (bs : List Block) (h : (sessOf s o.peer).isOpen = true) :
    (sessOf (enqueue s o bs) o.peer).queue.map (fun q => q.payload) =
      (sessOf s o.peer).queue.map (fun q => q.payload) ++ bs.map (fun b => b.payload) := by
  have hblocks (f : Block × Nat → Packet) (hf : ∀ b, (f b).payload = b.1.payload) :
      (bs.zipIdx.map f).map (fun q => q.payload) = bs.map (fun b => b.payload) := by
    rw [List.map_map, show (fun q => q.payload) ∘ f = (fun b : Block => b.payload) ∘ Prod.fst from funext hf,
      ← List.map_map, List.zipIdx_map_fst]
  unfold enqueue
  rw [openSess_of_open h]
  dsimp only
  simp only [sessOf, setSess, look_put_same, List.map_append]
  rw [hblocks _ fun _ => rfl]

/-- The payloads of an answer are the same whatever grains are poisoned. -/
theorem respBlocks_payloads (va : Nat) (bs : List Byte) (bad bad' : Nat → Bool) :
    (respBlocks va bs bad).map (fun b => b.payload) = (respBlocks va bs bad').map (fun b => b.payload) := by
  simp [respBlocks]

/-- A READ_REQ inside a region puts the answer in line. -/
theorem readReqReceive_answers (hu : s.mem.upsets = []) (hr : r = look (ctxOf s k).regions {} p.hdr.key) (hp : PacketFor s p opReadReq k)
    (hg : judgeGen r.bound r.ever r.keyGen p.hdr.keyGen = .ok) (hlen : p.hdr.offset + (p.hdr.opInfo % 0x100_0000 + 1) ≤ r.length)
    (hread : r.rread = true) {bs : List Byte} {poi : Bool}
    (hs : readVa s k 320 (r.base + p.hdr.offset) (p.hdr.opInfo % 0x100_0000 + 1) = .ok (bs, poi)) :
    Completes (.readReqReceive p) s (fun t => ∃ u, t = taken u p 0 ∧ SameBytes s u ∧ u.cores = s.cores ∧ OthersKept s u k ∧
      (sessOf u p.hdr.srcNode).queue.map (fun q => q.payload) = (sessOf s p.hdr.srcNode).queue.map (fun q => q.payload) ++
        (respBlocks (r.base + p.hdr.offset) bs (fun _ => false)).map (fun b => b.payload)) := by
  have hpays := pays_netTouch hu k (r.base + p.hdr.offset) (p.hdr.opInfo % 0x100_0000 + 1) false
  have hsess : sessOf (netTouch s k (r.base + p.hdr.offset) (p.hdr.opInfo % 0x100_0000 + 1) false) p.hdr.srcNode =
      sessOf s p.hdr.srcNode := by rw [sessOf, hpays.net, sessOf]
  have hopen : (sessOf (netTouch s k (r.base + p.hdr.offset) (p.hdr.opInfo % 0x100_0000 + 1) false) p.hdr.srcNode).isOpen = true :=
    hsess ▸ hp.isOpen
  refine ⟨_, exec_readReqReceive .., ?_⟩
  rw [receive_context hp]
  dsimp only
  rw [regionLand_ok hr hg hlen hread (by rw [hs]; rfl)]
  refine ⟨_, rfl, ?_⟩
  refine ⟨?_, (enqueue_cores _ _ hopen).trans hpays.cores, fun j hj => ?_, ?_⟩
  · rw [SameBytes, enqueue_mem]
    exact hpays.sameBytes
  · rw [ctxOf, enqueue_ctxs _ _ hopen]
    exact hpays.others j hj
  · rw [enqueue_payloads _ _ hopen, hsess, respBlocks_payloads]

/-- A READ_RESP of a firmware session stores its block where the service that asked wants it. -/
theorem readRespReceive_stores (hp : PacketIn s p opReadResp) (hj : p.hdr.jobId = 0) {r : ReadOp}
    (hr : s.net.reads.find? (fun r => r.opId == p.hdr.opId && r.peer == p.hdr.srcNode) = some r)
    (hpage : (r.off + p.hdr.offset) % 4096 + p.payload.length ≤ 4096) (hlen : p.hdr.offset + p.payload.length ≤ r.len) :
    Completes (.readRespReceive p) s (fun t => ∃ u, t = taken u p 0 ∧ t.cores = s.cores ∧ t.place = s.place ∧
      u.mem = ((blockWrs (r.base + p.hdr.offset) (r.off + p.hdr.offset) p.payload p.poison).foldl
        (fun u w => writeDpa u w.va w.bs w.poi) s).mem) := by
  refine ⟨_, exec_readRespReceive .., ?_⟩
  rw [receive_firmware hp hj, hr]
  dsimp only
  rw [if_neg (by omega), if_neg (by omega)]
  refine ⟨_, rfl, (onlyAcks_taken ..).cores.trans ?_, (onlyAcks_taken ..).place.trans ?_, ?_⟩
  · split_ifs <;> exact List.foldlRecOn (motive := fun u : State => u.cores = s.cores) _ _ rfl
      fun u hu w _ => (writeDpa_cores ..).trans hu
  · split_ifs <;> exact List.foldlRecOn (motive := fun u : State => u.place = s.place) _ _ rfl
      fun u hu w _ => (writeDpa_place ..).trans hu
  · split_ifs <;> rfl

/-- A SEND stores its words in a scratchpad of the context's partition. -/
theorem sendReceive_stores (hp : PacketFor s p opSend k) (hin : inPartition s k p.hdr.dstCore = true)
    (hlen : p.hdr.offset + p.payload.length ≤ Config.scratchBytes) {s1 : State}
    (hs : writeVas s k 320 (blockWrs (0xF_1000_0000_0000 + p.hdr.dstCore * Config.scratchBytes + p.hdr.offset) p.hdr.offset
      p.payload p.poison) = .ok s1) :
    Completes (.sendReceive p) s (fun t => t = taken s1 p 0 ∧ t.mem = s1.mem ∧ t.cores = s.cores) := by
  have hland : exec (.sendReceive p) s = .next (taken s1 p 0) := by
    rw [exec_sendReceive, execSendReceive]
    rw [receive_context hp, ofCtx, hin, hs]
    dsimp only
    rw [if_neg (by simp), if_neg (by omega)]
    rfl
  exact ⟨_, hland, rfl, (onlyAcks_taken ..).mem, (onlyAcks_taken ..).cores.trans (writeVas_cores (by omega) hs)⟩

end Remote

/-! ### Arrivals from another node (R218, R226, R231, R274) -/

/-- A generation of an identifier never bound is invalid. -/
theorem judgeGen_never {bound ever : Bool} (h : ever = false) (cur msg : Nat) : judgeGen bound ever cur msg = .invalid := by
  simp [judgeGen, h]

section Arrival
variable {s : State} {p : Packet} {k : Nat} {nm ph : Word}

/-- An arrival with the generation bound is one arrival at the truss, by the identity of its sender. -/
theorem remoteTrussArrival_arrives (hp : PacketFor s p opAtomic k) (hnm : nm = BitVec.ofNat 64 (leNat (p.payload.take 8)))
    (hph : ph = BitVec.ofNat 64 (leNat ((p.payload.drop 8).take 8)))
    (hg : judgeGen (trussOf s k (nmVtid nm)).bound (trussOf s k (nmVtid nm)).ever (trussOf s k (nmVtid nm)).bgen (nmBgen nm) = .ok) :
    Completes (.remoteTrussArrival p) s (fun t => t.mem = s.mem ∧
      t = taken (arriveAt s k (nmVtid nm)
        (if bit p.hdr.opInfo 63 then .truss p.hdr.srcNode (p.hdr.opInfo % 0x10_0000) else .remote p.hdr.srcNode p.hdr.srcCore)
        (phNo ph) (phVal ph)).1 p 0) := by
  subst hnm hph
  refine ⟨_, exec_remoteTrussArrival .., ?_⟩
  rw [receive_context hp, ofCtx]
  dsimp only
  rw [hg]
  exact ⟨(onlyAcks_taken ..).mem.trans (arriveAt_mem ..), rfl⟩

/-- One at a truss never bound raises TRUSS_INVALID_ID. -/
theorem remoteTrussArrival_invalid (hp : PacketFor s p opAtomic k) (hnm : nm = BitVec.ofNat 64 (leNat (p.payload.take 8)))
    (hever : (trussOf s k (nmVtid nm)).ever = false) :
    Completes (.remoteTrussArrival p) s (fun t => t.mem = s.mem ∧ t.cores = s.cores ∧
      (t.obs.log.getLast?.map (fun e => (e.code, e.ctx))) = some (0x0301, k)) := by
  subst hnm
  refine ⟨_, exec_remoteTrussArrival .., ?_⟩
  rw [receive_context hp, ofCtx]
  dsimp only
  rw [judgeGen_never hever]
  dsimp only
  refine ⟨(onlyAcks_taken ..).mem.trans (trussInvalid_mem ..), (onlyAcks_taken ..).cores.trans (raise_cores ..), ?_⟩
  rw [show afterLand s p (.done _ 0) = taken _ p 0 from rfl, (onlyAcks_taken ..).log, trussInvalid, raise_last]
  rfl

end Arrival

/-- Settles O20: a packet that its session takes in lands (`receive_context`, `receive_firmware`), what it does is the
access of its opcode, and what follows only counts and acknowledges it (`onlyAcks_taken`). -/
theorem remoteAccess : Obligations.RemoteAccess := by
  unfold Obligations.RemoteAccess
  refine ⟨fun s p k hu => ⟨fun r hr => ⟨?_, ?_, ?_⟩, ?_, ?_⟩, fun s p k nm ph hp hnm hph => ⟨?_, ?_⟩⟩
  · exact fun hp hg hlen hw s1 hs => furlongWriteReceive_stores hu hr hp hg hlen hw hs
  · exact fun hp hg hlen hread bs poi hs => readReqReceive_answers hu hr hp hg hlen hread hs
  · exact fun hp hg => furlongWriteReceive_refused hr hp hg
  · exact fun hp hj r hr hpage hlen => readRespReceive_stores hp hj hr hpage hlen
  · exact fun hp hin hlen s1 hs => sendReceive_stores hp hin hlen hs
  · exact remoteTrussArrival_arrives hp hnm hph
  · exact remoteTrussArrival_invalid hp hnm

end Sys2Proof.Machine

/-! ## The messages about ports, nodes, grids and groups (R256, R260, R261, R284 to R289, R348) -/

namespace Sys2Proof.Machine

/-! ### Ports retrained and given their MTU -/

theorem portOf_setPort_other {p q : Nat} (h : q ≠ p) (s : State) (x : Port) : portOf (setPort s p x) q = portOf s q :=
  look_put_other _ _ _ _ _ h

/-- The MTU of a port set. -/
def setMtu (mtu : Nat → Nat) (s : State) (p : Nat) : State := setPort s p { portOf s p with mtu := mtu p }

/-- What the configuration of ports leaves: contexts, memory and the modes of the octets. -/
structure PortsOnly (s t : State) : Prop where
  ctxs : t.ctxs = s.ctxs
  mem : t.mem = s.mem
  octets : t.net.octets = s.net.octets

theorem PortsOnly.foldl {f : State → Nat → State} (hf : ∀ s p, PortsOnly s (f s p)) (l : List Nat) (s : State) : PortsOnly s (l.foldl f s) :=
  List.foldlRecOn (motive := fun t : State => PortsOnly s t) _ _ ⟨rfl, rfl, rfl⟩ fun t ht p _ =>
    ⟨(hf t p).ctxs.trans ht.ctxs, (hf t p).mem.trans ht.mem, (hf t p).octets.trans ht.octets⟩

/-- Every port of a list retrained is down, and so is one that was. -/
theorem foldl_retrain_down (l : List Nat) (s : State) (p : Nat) (h : p ∈ l ∨ (portOf s p).up = false) :
    (portOf (l.foldl retrain s) p).up = false := by
  induction l generalizing s with
  | nil => exact h.resolve_left (by simp)
  | cons q l ih =>
    refine ih _ ?_
    by_cases hq : p = q
    · subst hq
      exact .inr (congrArg Port.up (portOf_setPort ..))
    · have hport : portOf (retrain s q) p = portOf s p := portOf_setPort_other hq ..
      rw [hport]
      exact h.imp_left fun hp => (List.mem_cons.1 hp).resolve_left hq

/-- An MTU set changes no port's training. -/
theorem setMtu_up (mtu : Nat → Nat) (s : State) (p q : Nat) : (portOf (setMtu mtu s q) p).up = (portOf s p).up := by
  by_cases hq : p = q
  · subst hq
    rw [setMtu, portOf_setPort]
  · rw [setMtu, portOf_setPort_other hq]

theorem foldl_setMtu_up (mtu : Nat → Nat) (l : List Nat) (s : State) (p : Nat) :
    (portOf (l.foldl (setMtu mtu) s) p).up = (portOf s p).up :=
  List.foldlRecOn (motive := fun t : State => (portOf t p).up = (portOf s p).up) _ _ rfl fun t ht q _ => (setMtu_up mtu t p q).trans ht

/-- Every port of a list has the MTU set, and so has one that had. -/
theorem foldl_setMtu_mtu (mtu : Nat → Nat) (l : List Nat) (s : State) (p : Nat) (h : p ∈ l ∨ (portOf s p).mtu = mtu p) :
    (portOf (l.foldl (setMtu mtu) s) p).mtu = mtu p := by
  induction l generalizing s with
  | nil => exact h.resolve_left (by simp)
  | cons q l ih =>
    refine ih _ ?_
    by_cases hq : p = q
    · subst hq
      exact .inr (congrArg Port.mtu (portOf_setPort ..))
    · have hport : portOf (setMtu mtu s q) p = portOf s p := portOf_setPort_other hq ..
      rw [hport]
      exact h.imp_left fun hp => (List.mem_cons.1 hp).resolve_left hq

/-- The octet's ports of the mode before it changes retrained, where it changes. -/
def retrained (s : State) (o m : Nat) : State :=
  if m = look s.net.octets 0 o then s else (octetPorts o (look s.net.octets 0 o)).foldl retrain s

theorem portsOnly_retrained (s : State) (o m : Nat) : PortsOnly s (retrained s o m) := by
  unfold retrained
  split
  · exact ⟨rfl, rfl, rfl⟩
  · exact .foldl (f := retrain) (fun _ _ => ⟨rfl, rfl, rfl⟩) ..

section Ports
variable {s : State} {h : MsgHdr}

theorem portConfig_does {o m : Nat} {mtu : List Nat} (ho : o < 16) (hm : m < 4)
    (hmtu : (octetPorts o m).any (fun p => decide (nth mtu (p % 8) 0 < 4220) || decide (9194 < nth mtu (p % 8) 0)) = false) :
    Does (.portConfig h o m mtu false) s h { code := 0x0050, kind := .priv } (fun u _ => look u.net.octets 0 o = m ∧
      (∀ p ∈ octetPorts o m, (portOf u p).mtu = nth mtu (p % 8) 0) ∧
      (m ≠ look s.net.octets 0 o → ∀ p ∈ octetPorts o (look s.net.octets 0 o), (portOf u p).up = false) ∧
      u.ctxs = s.ctxs ∧ u.mem = s.mem) := by
  refine does_of (exec_portConfig ..) fun f _ => ?_
  have hc : ¬(16 ≤ o ∨ 4 ≤ m ∨ (octetPorts o m).any (fun p => decide (nth mtu (p % 8) 0 < 4220) || decide (9194 < nth mtu (p % 8) 0)) = true) := by
    simp only [hmtu, Bool.false_eq_true, or_false]
    omega
  dsimp only
  rw [if_neg Bool.false_ne_true, if_neg hc]
  have hold := portsOnly_retrained { s with fw := f } o m
  have hdown : m ≠ look s.net.octets 0 o → ∀ p ∈ octetPorts o (look s.net.octets 0 o),
      (portOf (retrained { s with fw := f } o m) p).up = false := by
    intro hne p hp
    rw [retrained, if_neg hne]
    exact foldl_retrain_down _ _ _ (.inl hp)
  change Gives (done ((octetPorts o m).foldl (setMtu fun p => nth mtu (p % 8) 0) { retrained { s with fw := f } o m with
    net := { (retrained { s with fw := f } o m).net with octets := put (retrained { s with fw := f } o m).net.octets o m } }) []) _
  generalize retrained { s with fw := f } o m = s1 at hold hdown ⊢
  have hset := PortsOnly.foldl (f := setMtu fun p => nth mtu (p % 8) 0) (fun _ _ => ⟨rfl, rfl, rfl⟩) (octetPorts o m)
    { s1 with net := { s1.net with octets := put s1.net.octets o m } }
  refine ⟨rfl, ?_, fun p hp => foldl_setMtu_mtu _ _ _ p (.inl hp), fun hne p hp => (foldl_setMtu_up ..).trans (hdown hne p hp),
    hset.ctxs.trans hold.ctxs, hset.mem.trans hold.mem⟩
  dsimp only [done]
  rw [hset.octets]
  exact look_put_same ..

/-! ### Node tables, managers and the identity -/

theorem nodeTable_does {j : Nat} {l : List (Nat × Nat)} (hj : 1 ≤ j) (hj' : j ≤ 0xFFFF_FFFF) (hl : l.length ≤ 65536)
    (hn : l.any (fun e => decide (0x10_0000 ≤ e.1)) = false) (hd : distinct (l.map (fun e => e.1)) = true) :
    Does (.nodeTable h j l) s h { code := 0x0051, kind := .priv } (fun u _ =>
      look u.net.tables [] j = l ∧ u.ctxs = s.ctxs ∧ u.mem = s.mem) := by
  refine does_of (exec_nodeTable ..) fun f _ => ?_
  have hc : ¬(j = 0 ∨ 0xFFFF_FFFF < j ∨ 65536 < l.length ∨ l.any (fun e => decide (0x10_0000 ≤ e.1)) = true ∨
      distinct (l.map (fun e => e.1)) = false) := by
    rw [hn, hd]
    simp only [Bool.false_eq_true, Bool.true_eq_false, or_false]
    omega
  rw [if_neg hc]
  exact ⟨rfl, look_put_same .., rfl, rfl⟩

theorem managerSet_does {l : List (Nat × Nat)} (hl : l.length = 4)
    (hn : l.any (fun e => decide (0x10_0000 ≤ e.1) || decide (1 < e.2)) = false) :
    Does (.managerSet h l false) s h { code := 0x0052, kind := .priv } (fun u _ => u.net.managers = l ∧
      (∀ a ∈ u.net.attested, ∃ e ∈ l, e.1 = a.1) ∧ u.ctxs = s.ctxs ∧ u.mem = s.mem) := by
  refine does_of (exec_managerSet ..) fun f _ => ?_
  rw [if_neg (by simp [hl, hn])]
  refine ⟨rfl, rfl, fun a ha => ?_, rfl, rfl⟩
  obtain ⟨e, he, heq⟩ := List.any_eq_true.1 (List.mem_filter.1 ha).2
  exact ⟨e, he, eq_of_beq heq⟩

theorem netIdentity_does {n : NetIdentity} (hx : anyCtx s = false) (hn : identityOk n = true) :
    Does (.netIdentity h n) s h { code := 0x0053, kind := .priv } (fun u _ =>
      u.net = { s.net with identity := some n } ∧ u.ctxs = s.ctxs ∧ u.mem = s.mem) := by
  refine does_of (exec_netIdentity ..) fun f _ => ?_
  have hx' : anyCtx { s with fw := f } = false := hx
  rw [hx', hn, if_neg Bool.false_ne_true, if_neg (by decide)]
  exact ⟨rfl, rfl, rfl, rfl⟩

end Ports

/-! ### The grid and the groups -/

section Groups
variable {s : State} {h : MsgHdr}

theorem gridSet_does {n : Nat} {ext nodes : List Nat} (hg : gridOk s h.ctx n ext nodes = true) (hb : anyGroup (ctxOf s h.ctx) = false) :
    Does (.gridSet h n ext nodes false) s h { code := 0x0058, kind := .priv, ctx := true } (fun u _ =>
      ctxOf u h.ctx = { ctxOf s h.ctx with grid := some ⟨n, ext.map size16, nodes⟩ } ∧ OthersKept s u h.ctx ∧ u.mem = s.mem) := by
  refine does_of (exec_gridSet ..) fun f _ => ?_
  have hg' : gridOk { s with fw := f } h.ctx n ext nodes = true := hg
  simp only [hg', ctxOf_fw, hb, Bool.false_eq_true, Bool.true_eq_false, or_self, if_false]
  exact ⟨rfl, ctxOf_setCtx .., othersKept_setCtx _ h.ctx _, rfl⟩

theorem groupCreate_does {g alg fan m ptr r : Nat} {bl nodes ms : List Nat} (halg : alg ≤ 1) (h0 : alg = 0 → fan = 0)
    (h1 : alg = 1 → 2 ≤ fan ∧ fan ≤ 16) (hptr : ptr % 64 = 0) (hms : groupMembers s h.ctx g m bl nodes = some (ms, some r))
    (hw : writable (ctxOf s h.ctx) ptr ms.length = true) (hb : (look (ctxOf s h.ctx).groups {} g).bound = false)
    (ht : boundLately s h.ctx 2 g false (look (ctxOf s h.ctx).groups {} g).ever (look (ctxOf s h.ctx).groups {} g).ggen = false)
    (hlim : g / 4096 = 1 → ((ctxOf s h.ctx).groups.filter (fun e => e.2.bound && e.1 / 4096 == 1)).length < 16) :
    Does (.groupCreate h g alg fan m bl ptr nodes false) s h { code := 0x0059, kind := .priv, ctx := true } (fun u a =>
      (look (ctxOf u h.ctx).groups {} g).bound = true ∧ (look (ctxOf u h.ctx).groups {} g).members = ms ∧
      (look (ctxOf u h.ctx).groups {} g).rank = r ∧ (look (ctxOf u h.ctx).groups {} g).seqNo = 0 ∧
      a = leBytes 4 (look (ctxOf u h.ctx).groups {} g).ggen ++ p4 r ++ p4 ms.length ∧ OthersKept s u h.ctx ∧ u.mem = s.mem) := by
  refine does_of ((exec_groupCreate ..).trans (if_neg (by rw [hb, ht]; decide))) fun f _ => ?_
  have hms' : groupMembers { s with fw := f } h.ctx g m bl nodes = some (ms, some r) := hms
  have hc : ¬(false = true ∨ 1 < alg ∨ (alg = 0 ∧ fan ≠ 0) ∨ (alg = 1 ∧ (fan < 2 ∨ 16 < fan)) ∨ ptr % 64 ≠ 0) := by
    simp only [Bool.false_eq_true, false_or]
    omega
  have hfull : ¬(g / 4096 = 1 ∧ 16 ≤ ((ctxOf s h.ctx).groups.filter (fun e => e.2.bound && e.1 / 4096 == 1)).length) := by omega
  dsimp only [ctxOf_fw]
  rw [if_neg hc, hms']
  dsimp only
  rw [hw, if_neg (by decide), hb, if_neg Bool.false_ne_true, if_neg hfull]
  refine ⟨rfl, ?_⟩
  dsimp only [done]
  rw [ctxOf_setCtx]
  dsimp only
  rw [look_put_same]
  exact ⟨rfl, rfl, rfl, rfl, rfl, othersKept_setCtx _ h.ctx _, rfl⟩

theorem groupDestroy_does {g : Nat} (hb : (look (ctxOf s h.ctx).groups {} g).bound = true)
    (hc : (ctxOf s h.ctx).colls.any (fun c => c.gid == g) = false) :
    Does (.groupDestroy h g false) s h { code := 0x005A, kind := .priv, ctx := true } (fun u _ =>
      (look (ctxOf u h.ctx).groups {} g).bound = false ∧
      (look (ctxOf u h.ctx).groups {} g).ggen = (look (ctxOf s h.ctx).groups {} g).ggen ∧ OthersKept s u h.ctx ∧ u.mem = s.mem) := by
  refine does_of (exec_groupDestroy ..) fun f _ => ?_
  simp only [ctxOf_fw, hb, hc, Bool.true_eq_false, Bool.false_eq_true, if_false]
  refine ⟨rfl, ?_⟩
  dsimp only [done]
  rw [ctxOf_setCtx]
  dsimp only
  rw [look_put_same]
  exact ⟨rfl, rfl, othersKept_setCtx _ h.ctx _, rfl⟩

end Groups
end Sys2Proof.Machine

/-! ## The messages of the storage initiator (R276, R277, R372) -/

namespace Sys2Proof.Machine

/-! ### What a capsule sent leaves -/

/-- Between two states contexts, memory and the controllers are the same. -/
structure SameCtrls (s t : State) : Prop where
  ctxs : t.ctxs = s.ctxs
  mem : t.mem = s.mem
  ctrls : t.net.ctrls = s.net.ctrls

namespace SameCtrls

theorem refl (s : State) : SameCtrls s s := ⟨rfl, rfl, rfl⟩

theorem trans {s t u : State} (h : SameCtrls s t) (h' : SameCtrls t u) : SameCtrls s u :=
  ⟨h'.ctxs.trans h.ctxs, h'.mem.trans h.mem, h'.ctrls.trans h.ctrls⟩

theorem ctxOf {s t : State} (h : SameCtrls s t) (k : Nat) : ctxOf t k = ctxOf s k := by rw [Machine.ctxOf, h.ctxs, Machine.ctxOf]

theorem foldl {α : Type} {f : State → α → State} (hf : ∀ s a, SameCtrls s (f s a)) (l : List α) (s : State) : SameCtrls s (l.foldl f s) :=
  List.foldlRecOn (motive := fun t : State => SameCtrls s t) _ _ (refl s) fun t ht a _ => ht.trans (hf t a)

theorem roceOut (q : Nat) (s : State) (k : RocePkt) : SameCtrls s (roceOut q s k) := by
  unfold Machine.roceOut
  dsimp only
  split
  · split
    · split
      · exact ⟨rfl, rfl, rfl⟩
      · exact ⟨rfl, rfl, rfl⟩
    · exact ⟨rfl, rfl, rfl⟩
    · exact refl s
  · exact refl s

theorem sendCapsule (s : State) (q : Nat) (c : List Byte) : SameCtrls s (sendCapsule s q c) := by
  have hqp (x : Qp) : SameCtrls s (setQp s q x) := ⟨rfl, rfl, rfl⟩
  exact (hqp _).trans (foldl (roceOut q) ..)

end SameCtrls

section Storage
variable {s : State} {h : MsgHdr}

theorem storageConnect_does {c fam svc q d ad : Nat} {nqn : List Byte} {l : List Nat} (hc : c < 32) (hfam : fam = 4 ∨ fam = 6)
    (hsvc : svc ≤ 65535) (hq : 1 ≤ q) (hq' : q ≤ 64) (hd : 2 ≤ d) (hd' : d ≤ 1024) (hnqn : nqn.length ≤ 255)
    (hfree : (dropQps s.net.qps c).length + q + 1 ≤ 1024) :
    Does (.storageConnect h c fam svc q d ad nqn false (some l)) s h { code := 0x0060, kind := .priv, svc := 1 } (fun u r =>
      look u.net.ctrls ⟨0, 0, 0, 0, 0, [], []⟩ c = ⟨fam, if svc = 0 then 4420 else svc, q, d, ad, nqn, l⟩ ∧ r = p4 l.length ∧
      u.ctxs = s.ctxs ∧ u.mem = s.mem) := by
  refine does_of (exec_storageConnect ..) fun f _ => ?_
  have hok : ¬(32 ≤ c ∨ (fam ≠ 4 ∧ fam ≠ 6) ∨ 65535 < svc ∨ q = 0 ∨ 64 < q ∨ d < 2 ∨ 1024 < d ∨ 255 < nqn.length ∨ false = true ∨
      1024 < (dropQps s.net.qps c).length + q + 1) := by
    simp only [Bool.false_eq_true, false_or]
    omega
  dsimp only
  rw [if_neg hok]
  have hsent (es : List (Nat × List Byte)) (t : State) : SameCtrls t (es.foldl (fun s e => sendCapsule s (qpOf c e.1) e.2) t) :=
    .foldl (fun s e => .sendCapsule s (qpOf c e.1) e.2) es t
  refine ⟨rfl, ?_, rfl, (hsent _ _).ctxs, (hsent _ _).mem⟩
  dsimp only [done]
  rw [(hsent _ _).ctrls]
  exact look_put_same ..

/-- A storage request within its controller's spaces is put behind those of its context. -/
theorem storageIo_does {read : Bool} {code c ns lba n va : Nat} {x : NvmeCtrl} {sg : List (Nat × Nat × Nat)} {i : Instr}
    (hx : s.net.ctrls.find? (fun e => e.1 == c) = some (c, x)) (hns : 1 ≤ ns) (hns' : ns ≤ x.spaces.length) (hn : 1 ≤ n)
    (hlen : n * nth x.spaces (ns - 1) 0 ≤ 0x100_0000) (hfree : (ctxOf s h.ctx).storage.length < 1024)
    (hsg : storSegs (ctxOf s h.ctx) va (n * nth x.spaces (ns - 1) 0) (if read then .write else .read) = some sg)
    (he : exec i s = storageIo i code read h c ns lba n va 0 0 false s) :
    Does i s h { code := code, kind := .own, ctx := true, svc := 1 } (fun u _ =>
      (ctxOf u h.ctx).storage.length = (ctxOf s h.ctx).storage.length + 1 ∧ OthersKept s u h.ctx ∧ u.mem = s.mem) := by
  refine does_of he fun f _ => ?_
  have hok : ¬(false = true ∨ ns = 0 ∨ x.spaces.length < ns ∨ n = 0 ∨ 0x100_0000 < n * nth x.spaces (ns - 1) 0 ∨
      storTruss 0 0 = false ∨ 1024 ≤ (ctxOf s h.ctx).storage.length) := by
    have htruss : storTruss 0 0 = true := by decide
    simp only [htruss, Bool.false_eq_true, Bool.true_eq_false, false_or]
    omega
  dsimp only [ctxOf_fw]
  rw [hx]
  dsimp only
  rw [if_neg hok, hsg]
  dsimp only
  refine ⟨rfl, ?_, fun j hj => ((SameCtrls.sendCapsule ..).ctxOf j).trans (othersKept_setCtx _ h.ctx _ j hj),
    (SameCtrls.sendCapsule ..).mem⟩
  dsimp only [done]
  rw [(SameCtrls.sendCapsule ..).ctxOf, ctxOf_setCtx]
  exact List.length_append

theorem storageMove_does {rd : Bool} {c ns lba n va : Nat} {x : NvmeCtrl} {sg : List (Nat × Nat × Nat)}
    (hx : s.net.ctrls.find? (fun e => e.1 == c) = some (c, x)) (hns : 1 ≤ ns) (hns' : ns ≤ x.spaces.length) (hn : 1 ≤ n)
    (hlen : n * nth x.spaces (ns - 1) 0 ≤ 0x100_0000) (hfree : (ctxOf s h.ctx).storage.length < 1024)
    (hsg : storSegs (ctxOf s h.ctx) va (n * nth x.spaces (ns - 1) 0) (if rd then .write else .read) = some sg) :
    Does (if rd then .storageRead h c ns lba n va 0 0 false else .storageWrite h c ns lba n va 0 0 false) s h
      { code := if rd then 0x0061 else 0x0062, kind := .own, ctx := true, svc := 1 } (fun u _ =>
        (ctxOf u h.ctx).storage.length = (ctxOf s h.ctx).storage.length + 1 ∧ OthersKept s u h.ctx ∧ u.mem = s.mem) := by
  cases rd with
  | true => exact storageIo_does hx hns hns' hn hlen hfree hsg (exec_storageRead ..)
  | false => exact storageIo_does hx hns hns' hn hlen hfree hsg (exec_storageWrite ..)

end Storage
end Sys2Proof.Machine

/-! ## The messages about checkpoints and twins (R391, R394, R395) -/

namespace Sys2Proof.Machine

section Restart
variable {s : State} {h : MsgHdr}

/-- Poison noted in the state ranges of contexts leaves memory. -/
theorem notePoisons_mem (l : List Nat) (s : State) : (l.foldl (fun s g => notePoison s (64 * g)) s).mem = s.mem :=
  foldl_mem (fun s g => notePoison_mem s (64 * g)) l s

/-- It leaves every checkpoint. -/
theorem notePoisons_ckpt (l : List Nat) (s : State) (k : Nat) :
    (ctxOf (l.foldl (fun s g => notePoison s (64 * g)) s) k).ckpt = (ctxOf s k).ckpt :=
  List.foldlRecOn (motive := fun t : State => (ctxOf t k).ckpt = (ctxOf s k).ckpt) _ _ rfl fun t ht g _ => by
    rw [poisonOnly_notePoison t (64 * g) k]
    exact ht

theorem checkpointSet_does {i lim w : Nat} {rs : List (Nat × Nat)} {s2 : State} {l : List Nat}
    (hlaunch : (ctxOf s h.ctx).launched = false) (hgrid : (ctxOf s h.ctx).grid ≠ none) (hok : ckptOk s (ctxOf s h.ctx) i lim w rs = true)
    (hs : (List.range (2 * ((stateBytes rs + Config.page2 - 1) / Config.page2))).foldlM (reserveSlotPage (ctxOf s h.ctx).part)
      (freePages (untake s h { code := 0x0068, kind := .priv, ctx := true, svc := 1 }) (ctxOf s h.ctx).ckpt.pages.flatten, []) =
        some (s2, l)) :
    Does (.checkpointSet h i lim w rs false) s h { code := 0x0068, kind := .priv, ctx := true, svc := 1 } (fun u r =>
      (ctxOf u h.ctx).ckpt.ranges = rs ∧ (ctxOf u h.ctx).ckpt.interval = i ∧ (ctxOf u h.ctx).ckpt.committed = none ∧
      r = p8 (2 * stateBytes rs) ∧ u.mem.cells = s.mem.cells) := by
  refine does_of (exec_checkpointSet ..) fun f hf => ?_
  rw [hf] at hs
  have hok' : ckptOk { s with fw := f } (ctxOf s h.ctx) i lim w rs = true := hok
  extract_lets x n s1
  have hx : x = ctxOf s h.ctx := rfl
  clear_value x
  subst hx
  rw [if_neg (by rw [hlaunch]; exact Bool.false_ne_true), if_neg (by simp [hok', hgrid])]
  split
  · next e => exact absurd (hs.symm.trans e) nofun
  next e =>
    cases hs.symm.trans e
    refine ⟨rfl, ?_, ?_, ?_, rfl, ?_⟩
    · exact congrArg Ckpt.ranges ((notePoisons_ckpt ..).trans (congrArg Ctx.ckpt (ctxOf_setCtx ..)))
    · exact congrArg Ckpt.interval ((notePoisons_ckpt ..).trans (congrArg Ctx.ckpt (ctxOf_setCtx ..)))
    · exact congrArg Ckpt.committed ((notePoisons_ckpt ..).trans (congrArg Ctx.ckpt (ctxOf_setCtx ..)))
    · exact (congrArg Mem.cells (notePoisons_mem ..)).trans ((reserveSlotPages_cells hs).trans (freePages_cells ..))

theorem twinSet_does {n lost : Nat} {fl : BitVec 8} (hok : twinOk s (ctxOf s h.ctx) n fl lost false = true) (hset : fl.getLsbD 0 = false)
    (hroom : mirrorReserved s + 2 * stateBytes (ctxOf s h.ctx).ckpt.ranges ≤ 96 * Config.page1g) :
    Does (.twinSet h n fl lost false) s h { code := 0x0069, kind := .priv, ctx := true, svc := 1 } (fun u _ =>
      ctxOf u h.ctx = { ctxOf s h.ctx with twin := some { node := n, replace := fl.getLsbD 1, lost := lost, lastBeat := s.clock.ns } } ∧
      OthersKept s u h.ctx ∧ u.mem = s.mem) := by
  refine does_of (exec_twinSet ..) fun f _ => ?_
  have hok' : twinOk { s with fw := f } (ctxOf s h.ctx) n fl lost false = true := hok
  have hroom' : ¬ 96 * Config.page1g < mirrorReserved { s with fw := f } + 2 * stateBytes (ctxOf s h.ctx).ckpt.ranges := Nat.not_lt.2 hroom
  dsimp only [ctxOf_fw]
  rw [hok', if_neg (by decide), hset, if_neg Bool.false_ne_true, if_neg hroom']
  exact ⟨rfl, ctxOf_setCtx .., othersKept_setCtx _ h.ctx _, rfl⟩

/-- A pairing ended leaves the context without a twin, and every other as it was. -/
theorem unpair_ends (s : State) (k : Nat) : (ctxOf (unpair s k) k).twin = none ∧ OthersKept s (unpair s k) k := by
  unfold unpair
  split
  next t _ =>
    have hset : (ctxOf (setCtx (freePages s t.pages.flatten) k { ctxOf s k with twin := none }) k).twin = none ∧
        OthersKept s (setCtx (freePages s t.pages.flatten) k { ctxOf s k with twin := none }) k :=
      ⟨congrArg Ctx.twin (ctxOf_setCtx ..), othersKept_setCtx _ k _⟩
    dsimp only
    split
    · exact hset
    · exact hset
  next hnone => exact ⟨hnone, fun _ _ => rfl⟩

theorem twinSet_unpairs {n lost : Nat} {fl : BitVec 8} (hok : twinOk s (ctxOf s h.ctx) n fl lost false = true)
    (hend : fl.getLsbD 0 = true) :
    Does (.twinSet h n fl lost false) s h { code := 0x0069, kind := .priv, ctx := true, svc := 1 } (fun u _ =>
      (ctxOf u h.ctx).twin = none ∧ OthersKept s u h.ctx ∧ u.mem.cells = s.mem.cells) := by
  refine does_of (exec_twinSet ..) fun f _ => ?_
  have hok' : twinOk { s with fw := f } (ctxOf s h.ctx) n fl lost false = true := hok
  dsimp only [ctxOf_fw]
  rw [hok', if_neg (by decide), hend, if_pos rfl]
  obtain ⟨htwin, hothers⟩ := unpair_ends { s with fw := f } h.ctx
  exact ⟨rfl, htwin, hothers, unpair_cells ..⟩

end Restart
end Sys2Proof.Machine

/-! ## The messages of live update (R373 to R376, R419) -/

namespace Sys2Proof.Machine

/-! ### The live updates, which records and events leave -/

theorem putRec_updates (f : Firmware) (r : Rec) : (putRec f r).updates = f.updates := by
  unfold putRec
  split <;> rfl

theorem eventRecs_updates (f : Firmware) (e : Event) : (eventRecs f e).updates = f.updates :=
  List.foldlRecOn (motive := fun g : Firmware => g.updates = f.updates) _ _ rfl fun g hg r _ => (putRec_updates g r).trans hg

theorem raise_updates (s : State) (code cls k u : Nat) (p : List Byte) : (raise s code cls k u p).fw.updates = s.fw.updates := by
  unfold raise raiseOn
  dsimp only
  split
  · exact eventRecs_updates ..
  · rfl

theorem asyncRec_updates (s : State) (type k status : Nat) (p : List Byte) : (asyncRec s type k status p).fw.updates = s.fw.updates := by
  unfold asyncRec
  dsimp only
  split
  · rfl
  · exact putRec_updates ..

theorem updAt_of_updates {s t : State} (h : t.fw.updates = s.fw.updates) (g : Nat) : updAt t g = updAt s g := by
  rw [updAt, h, updAt]

theorem updAt_setUpd (s : State) (g : Nat) (u : Update) : updAt (setUpd s g u) g = u := look_put_same ..

/-! ### Progress of a staging -/

theorem progressTo_updates (s : State) (op k old pos total : Nat) (start : Bool) :
    (progressTo s op k old pos total start).fw.updates = s.fw.updates := by
  unfold progressTo
  split
  · exact asyncRec_updates ..
  · rfl

theorem progressTo_sec (s : State) (op k old pos total : Nat) (start : Bool) : (progressTo s op k old pos total start).sec = s.sec := by
  unfold progressTo
  split
  · exact asyncRec_sec ..
  · rfl

theorem stageProgress_updates (s : State) (target old pos total : Nat) (first : Bool) :
    (stageProgress s target old pos total first).fw.updates = s.fw.updates := by
  unfold stageProgress
  dsimp only
  split
  · exact progressTo_updates ..
  · split
    · exact progressTo_updates ..
    · rw [fire2_fw]
      exact progressTo_updates ..

theorem stageProgress_sec (s : State) (target old pos total : Nat) (first : Bool) :
    (stageProgress s target old pos total first).sec = s.sec := by
  unfold stageProgress
  dsimp only
  split
  · exact progressTo_sec ..
  · split
    · exact progressTo_sec ..
    · rw [fire2_sec]
      exact progressTo_sec ..

section Staging
variable {s : State} {h : MsgHdr} {g : Nat}

theorem fwStage_does {fl : BitVec 8} {o tot : Nat} {d : List Byte} {ref : Option (Nat × Nat)} (hg : g ≤ 2) (hfl : fl.toNat < 8)
    (href : ref.isSome = fl.getLsbD 2) (htot : o + (stagedPiece d ref).length ≤ tot) (hlen : fl.getLsbD 2 = false → d.length ≤ 8128)
    (hphase : (updAt s g).phase < 3) (hnext : fl.getLsbD 0 = false → (updAt s g).phase = 1 ∧ tot = (updAt s g).total)
    (hlast : fl.getLsbD 1 = false) :
    Does (.fwStage h g fl o tot d ref false) s h { code := 0x0070, kind := .priv, recov := true, svc := 3 } (fun u r =>
      (updAt u g).phase = 1 ∧ (updAt u g).total = tot ∧
      (updAt u g).got = (if fl.getLsbD 0 then 0 else (updAt s g).got) + (stagedPiece d ref).length ∧
      r = p8 (updAt u g).got ∧ u.sec = s.sec ∧ u.mem = s.mem) := by
  refine does_of (exec_fwStage ..) fun f hf => ?_
  obtain ⟨b, rfl⟩ := fw_of_untake hf
  have hupd : updAt { s with fw := { s.fw with boxes := b } } g = updAt s g := rfl
  have hpiece : fl.getLsbD 2 = false → (stagedPiece d ref).length ≤ 8128 := by
    intro h2
    rw [h2] at href
    cases ref with
    | none => exact hlen h2
    | some r => cases href
  have hc : ¬(false = true ∨ ref.isSome ≠ fl.getLsbD 2 ∨ 2 < g ∨ 8 ≤ fl.toNat ∨ tot < o + (stagedPiece d ref).length ∨
      (fl.getLsbD 2 = false ∧ 8128 < (stagedPiece d ref).length)) := by
    rintro (h' | h' | h' | h' | h' | ⟨h2, h'⟩)
    · exact Bool.false_ne_true h'
    · exact h' href
    · omega
    · omega
    · omega
    · exact absurd (hpiece h2) (by omega)
  have hn : ¬(fl.getLsbD 0 = false ∧ ((updAt s g).phase ≠ 1 ∨ tot ≠ (updAt s g).total)) := by
    rintro ⟨h0, h'⟩
    obtain ⟨h1, h2⟩ := hnext h0
    exact h'.elim (· h1) (· h2)
  dsimp only
  rw [if_neg hc, hupd, if_neg (by omega), if_neg hn, if_neg (by rw [hlast]; exact Bool.false_ne_true)]
  dsimp only [Gives, done]
  refine ⟨rfl, ?_⟩
  rw [updAt_of_updates (stageProgress_updates ..), updAt_setUpd, stageProgress_sec, stageProgress_mem, setUpd_sec, setUpd_mem]
  exact ⟨rfl, rfl, rfl, rfl, rfl, rfl⟩

theorem fwActivate_does {w c : Nat} (hg : g ≤ 2) (hw : w ≤ 600) (hc : c = 0 ∨ (10 ≤ c ∧ c ≤ 3600)) (hphase : (updAt s g).phase = 2)
    (hboot : s.fw.recoveryBoot = false) :
    Does (.fwActivate h g w c false) s h { code := 0x0071, kind := .priv, recov := true, svc := 3 } (fun u _ =>
      updAt u g = { updAt s g with phase := 3, reqAt := s.clock.ns, window := if w = 0 then 30 else w, commit := if c = 0 then 60 else c } ∧
      u.sec = s.sec ∧ u.mem = s.mem) := by
  refine does_of (exec_fwActivate ..) fun f hf => ?_
  obtain ⟨b, rfl⟩ := fw_of_untake hf
  have hupd : updAt { s with fw := { s.fw with boxes := b } } g = updAt s g := rfl
  have hok : ¬(false = true ∨ 2 < g ∨ 600 < w ∨ (c ≠ 0 ∧ (c < 10 ∨ 3600 < c))) := by
    simp only [Bool.false_eq_true, false_or]
    omega
  dsimp only
  rw [if_neg hok, hupd, if_neg (by omega), if_neg (by omega), hboot, if_neg Bool.false_ne_true]
  exact ⟨rfl, updAt_setUpd .., rfl, rfl⟩

end Staging

/-! ### Anti-rollback counters (R419) -/

theorem CountersKept.refl (s : State) : CountersKept s s := fun _ => le_rfl

theorem CountersKept.trans {s t u : State} (h : CountersKept s t) (h' : CountersKept t u) : CountersKept s u :=
  fun i => (h i).trans (h' i)

theorem CountersKept.of_counters {s t : State} (h : t.sec.counters = s.sec.counters) : CountersKept s t :=
  fun i => by rw [rollCtr, rollCtr, h]

/-- Nothing of security but the anti-rollback counters differs. -/
def CountersOnly (s t : State) : Prop := t.sec = { s.sec with counters := t.sec.counters }

/-- A counter raised changes no other and falls in no case. -/
theorem raiseCounter_leaves (s : State) (i v : Nat) :
    CountersOnly s (raiseCounter s i v) ∧ CountersKept s (raiseCounter s i v) ∧ v ≤ rollCtr (raiseCounter s i v) i := by
  unfold raiseCounter
  dsimp only
  split
  next h => exact ⟨rfl, .refl s, h⟩
  next h =>
    have hput (j : Nat) : rollCtr (raise { s with sec := { s.sec with counters := put s.sec.counters i v } } 0x0905 clsC noCtx 0
        (p4 i ++ p4 (rollCtr s i) ++ p4 v)) j = look (put s.sec.counters i v) 0 j := by rw [rollCtr, raise_sec]
    refine ⟨by rw [CountersOnly, raise_sec], fun j => ?_, by rw [hput, look_put_same]⟩
    rw [hput]
    by_cases hj : j = i
    · subst hj
      rw [look_put_same]
      omega
    · rw [look_put_other _ _ _ _ _ hj]
      exact le_rfl

theorem CountersOnly.trans {s t u : State} (h : CountersOnly s t) (h' : CountersOnly t u) : CountersOnly s u := by
  rw [CountersOnly, h', h]

/-- The counters of an image brought up to it: none falls, and that of its target reaches its SVN. -/
theorem advanceCounters_leaves (s : State) (t : Nat) (v : Image) :
    CountersOnly s (advanceCounters s t v) ∧ CountersKept s (advanceCounters s t v) ∧
    v.svn ≤ rollCtr (advanceCounters s t v) (guardOf t) := by
  obtain ⟨honly, hkept, hreach⟩ := raiseCounter_leaves s (guardOf t) v.svn
  unfold advanceCounters
  dsimp only
  generalize raiseCounter s (guardOf t) v.svn = s1 at honly hkept hreach ⊢
  have hloader : CountersOnly s1 (if t = 0 then raiseCounter s1 1 v.loaderSvn else s1) ∧
      CountersKept s1 (if t = 0 then raiseCounter s1 1 v.loaderSvn else s1) := by
    split
    · obtain ⟨hl, hk, -⟩ := raiseCounter_leaves s1 1 v.loaderSvn
      exact ⟨hl, hk⟩
    · exact ⟨rfl, .refl s1⟩
  obtain ⟨honly2, hkept2⟩ := hloader
  obtain ⟨honly3, hkept3, -⟩ := raiseCounter_leaves (if t = 0 then raiseCounter s1 1 v.loaderSvn else s1) 0 v.revoke
  have hlast := hkept2.trans hkept3
  exact ⟨honly.trans (honly2.trans honly3), hkept.trans hlast, hreach.trans (hlast (guardOf t))⟩

/-- An image committed: its bank boots, no counter falls, and that of its target reaches its SVN. -/
theorem commitImage_leaves (s : State) (t : Nat) (v : Image) :
    bootBank (commitImage s t v) t = 1 - bootBank s t ∧ CountersKept s (commitImage s t v) ∧
    v.svn ≤ rollCtr (commitImage s t v) (guardOf t) := by
  obtain ⟨honly, hkept, hreach⟩ := advanceCounters_leaves
    (wroteArea { s with sec := { s.sec with bootPtr := put s.sec.bootPtr t (1 - bootBank s t) } } 6) t v
  have hboot := congrArg Security.bootPtr honly
  have hsec : ∀ u : State, (wroteArea u 3).sec.counters = u.sec.counters ∧ (wroteArea u 3).sec.bootPtr = u.sec.bootPtr := fun _ => ⟨rfl, rfl⟩
  unfold commitImage
  dsimp only
  generalize advanceCounters (wroteArea { s with sec := { s.sec with bootPtr := put s.sec.bootPtr t (1 - bootBank s t) } } 6) t v = u
    at hkept hreach hboot ⊢
  refine ⟨?_, hkept, hreach⟩
  rw [bootBank]
  dsimp only
  rw [(hsec u).2, hboot]
  exact look_put_same ..

/-! ### A trial ended -/

/-- The report of an update that has ended leaves security. -/
theorem updateEnded_sec (s : State) (g st v c code : Nat) (p : List Byte) :
    (raise (fwState (fire2 (setUpd s g {})) g st v c) code clsC noCtx 0 p).sec = s.sec := by
  rw [raise_sec, fwState, asyncRec_sec, fire2_sec, setUpd_sec]

/-- After it no update of its target is left. -/
theorem updateEnded_updAt (s : State) (g st v c code : Nat) (p : List Byte) :
    updAt (raise (fwState (fire2 (setUpd s g {})) g st v c) code clsC noCtx 0 p) g = {} := by
  rw [updAt_of_updates (raise_updates ..), fwState, updAt_of_updates (asyncRec_updates ..), updAt, fire2_fw, ← updAt, updAt_setUpd]

section Trial
variable {s : State} {h : MsgHdr} {g : Nat}

theorem fwCommit_does (hg : g ≤ 2) (hphase : (updAt s g).phase = 4)
    (htime : s.clock.ns ≤ (updAt s g).actAt + (updAt s g).commit * second) :
    Does (.fwCommit h g false) s h { code := 0x0072, kind := .priv, svc := 3 } (fun u _ => updAt u g = {} ∧ bootBank u g = 1 - bootBank s g ∧
      CountersKept s u ∧ (runningOf s g).svn ≤ rollCtr u (guardOf g) ∧ u.mem = s.mem) := by
  refine does_of (exec_fwCommit ..) fun f hf => ?_
  obtain ⟨b, rfl⟩ := fw_of_untake hf
  have hupd : updAt { s with fw := { s.fw with boxes := b } } g = updAt s g := rfl
  have hrun : runningOf { s with fw := { s.fw with boxes := b } } g = runningOf s g := rfl
  dsimp only
  rw [if_neg Bool.false_ne_true, if_neg (by omega), hupd, hrun, if_neg (by rw [hphase]; omega)]
  obtain ⟨hboot, hkept, hreach⟩ := commitImage_leaves { s with fw := { s.fw with boxes := b } } g (runningOf s g)
  refine ⟨rfl, ?_⟩
  dsimp only [done]
  refine ⟨updateEnded_updAt .., ?_, fun i => ?_, ?_, ?_⟩
  · rw [bootBank, updateEnded_sec]
    exact hboot
  · rw [rollCtr, rollCtr, updateEnded_sec]
    exact hkept i
  · rw [rollCtr, updateEnded_sec]
    exact hreach
  · rw [raise_mem, fwState_mem, fire2_mem, setUpd_mem, commitImage_mem]

theorem fwRollback_does {v : Image} (hg : g ≤ 2) (hphase : (updAt s g).phase = 4) (hold : (updAt s g).old = some v) :
    Does (.fwRollback h g false) s h { code := 0x0073, kind := .priv, svc := 3 } (fun u _ => updAt u g = {} ∧ runningOf u g = v ∧
      u.sec.counters = s.sec.counters ∧ u.mem = s.mem) := by
  refine does_of (exec_fwRollback ..) fun f hf => ?_
  obtain ⟨b, rfl⟩ := fw_of_untake hf
  have hupd : updAt { s with fw := { s.fw with boxes := b } } g = updAt s g := rfl
  dsimp only
  rw [if_neg Bool.false_ne_true, if_neg (by omega), hupd, if_neg (by rw [hphase]; decide)]
  have hsec : (rollBack { s with fw := { s.fw with boxes := b } } g 0).sec = { s.sec with running := put s.sec.running g v } := by
    rw [rollBack, hupd, hold, updateEnded_sec]
    rfl
  refine ⟨rfl, ?_, ?_, ?_, rollBack_mem ..⟩
  · dsimp only [done]
    exact updateEnded_updAt ..
  · dsimp only [done]
    rw [runningOf, hsec]
    exact look_put_same ..
  · dsimp only [done]
    rw [hsec]

end Trial

/-! ### The statement -/

/-- Settles O49, message by message. -/
theorem networkMessages : Obligations.NetworkMessages := by
  refine fun s h => ⟨?_, ?_, ?_, ?_, ?_, ?_, ?_, ?_, ?_, ?_, ?_, ?_, ?_, ?_, ?_, ?_⟩
  · exact fun o m mtu ho hm hmtu => portConfig_does ho hm hmtu
  · exact fun j l hj hj' hl hn hd => nodeTable_does hj hj' hl hn hd
  · exact fun l hl hn => managerSet_does hl hn
  · exact fun n hx hn => netIdentity_does hx hn
  · exact fun n ext nodes hg hb => gridSet_does hg hb
  · exact fun g alg f m bl ptr nodes ms r halg h0 h1 hptr hms hw hb ht hlim => groupCreate_does halg h0 h1 hptr hms hw hb ht hlim
  · exact fun g hb hc => groupDestroy_does hb hc
  · exact fun c fam svc q d ad nqn l hc hfam hsvc hq hq' hd hd' hnqn hfree => storageConnect_does hc hfam hsvc hq hq' hd hd' hnqn hfree
  · exact fun rd c ns lba n va x sg hx hns hns' hn hlen hfree hsg => storageMove_does hx hns hns' hn hlen hfree hsg
  · exact fun i lim w rs s2 l hlaunch hgrid hok hs => checkpointSet_does hlaunch hgrid hok hs
  · exact fun n fl lost hok hset hroom => twinSet_does hok hset hroom
  · exact fun n fl lost hok hend => twinSet_unpairs hok hend
  · exact fun g fl o tot d ref hg hfl href htot hlen hphase hnext hlast => fwStage_does hg hfl href htot hlen hphase hnext hlast
  · exact fun g w c hg hw hc hphase hboot => fwActivate_does hg hw hc hphase hboot
  · exact fun g hg hphase htime => fwCommit_does hg hphase htime
  · exact fun g v hg hphase hold => fwRollback_does hg hphase hold

end Sys2Proof.Machine

/-! ## Collectives: how they start, and the check of a chunk (R100, R284, R287, R289, R295, R298, R300 to R302) -/

namespace Sys2Proof.Machine

/-! ### Packets put in line -/

/-- Between two states nothing differs but what the network holds and the counters. -/
def OnlySends (s t : State) : Prop := ∃ (n : Net) (cs : Tbl Nat), t = { s with net := n, obs := { s.obs with counters := cs } }

namespace OnlySends
variable {s t u : State}

theorem refl (s : State) : OnlySends s s := ⟨s.net, s.obs.counters, rfl⟩

theorem trans (h : OnlySends s t) (h' : OnlySends t u) : OnlySends s u := by
  obtain ⟨_, _, rfl⟩ := h
  obtain ⟨_, _, rfl⟩ := h'
  exact ⟨_, _, rfl⟩

theorem foldl {α : Type} {f : State → α → State} (hf : ∀ s a, OnlySends s (f s a)) (l : List α) (s : State) :
    OnlySends s (l.foldl f s) := List.foldlRecOn l f (refl s) fun t ht a _ => ht.trans (hf t a)

theorem of_net (s : State) (n : Net) : OnlySends s { s with net := n } := ⟨n, s.obs.counters, rfl⟩

theorem bump (s : State) (kind index number n : Nat) : OnlySends s (bump s kind index number n) := ⟨s.net, _, rfl⟩

theorem sendHello (s : State) (peer : Nat) (reply : Bool) : OnlySends s (sendHello s peer reply) := by
  unfold Machine.sendHello
  cases hc : sendCtl s (ctlPacket s opHello peer 0 0 (helloBytes (ownHello s reply))) with
  | none =>
    obtain ⟨l, hl⟩ := askFor_arp s peer 0
    rw [Option.getD_none, hl]
    exact of_net s _
  | some t =>
    obtain ⟨f, rfl, -⟩ := sendCtl_emits hc
    exact of_net s _

theorem openSess (s : State) (peer : Nat) : OnlySends s (openSess s peer) := by
  unfold Machine.openSess
  dsimp only
  split_ifs
  · exact refl s
  · exact of_net s _
  · exact trans (t := setSess s peer _) (of_net s _) (sendHello ..)
  · exact of_net s _

theorem enqueue (s : State) (o : Sender) (bs : List Block) : OnlySends s (enqueue s o bs) :=
  (openSess s o.peer).trans (of_net _ _)

theorem collSend (s : State) (k : Nat) (x : Coll) (r : Nat) (bs : List Block) : OnlySends s (collSend s k x r bs) :=
  (enqueue ..).trans (bump ..)

theorem collTell (s : State) (k : Nat) (x : Coll) (rs : List Nat) (kind first : Nat) (pay : List Byte) :
    OnlySends s (collTell s k x rs kind first pay) := foldl (fun s r => collSend s k x r _) rs s

theorem sendResult (s : State) (k : Nat) (x : Coll) (ch : Chunk) (r : Nat) : OnlySends s (sendResult s k x ch r) := by
  fun_cases Machine.sendResult
  · exact collSend ..
  · exact refl s

theorem sendPartial (s : State) (k : Nat) (x : Coll) (ch : Chunk) (r : Nat) : Yields (sendPartial s k x ch r) (OnlySends s) := by
  fun_cases Machine.sendPartial
  · exact yields_then fun cs => yields_ok.2 (collSend ..)
  · exact yields_ok.2 (collSend ..)
  · exact yields_ok.2 (refl s)

/-- What a chunk has ready leaves as packets. -/
theorem sendChunk (s : State) (k : Nat) (x : Coll) (i : Nat) (ch : Chunk) :
    Yields (sendChunk s k x i ch) (fun r => OnlySends s r.1) := by
  refine yields_bind (yields_foldlM (P := OnlySends s) (fun t r ht => (sendPartial t k x ch r).mono fun _ hu => ht.trans hu) _ (refl s))
    fun t ht => yields_ok.2 (ht.trans (foldl (fun s r => sendResult s k x ch r) _ t))

theorem mem (h : OnlySends s t) : t.mem = s.mem := by
  obtain ⟨_, _, rfl⟩ := h
  rfl

theorem cores (h : OnlySends s t) : t.cores = s.cores := by
  obtain ⟨_, _, rfl⟩ := h
  rfl

theorem ctxs (h : OnlySends s t) : t.ctxs = s.ctxs := by
  obtain ⟨_, _, rfl⟩ := h
  rfl

theorem log (h : OnlySends s t) : t.obs.log = s.obs.log := by
  obtain ⟨_, _, rfl⟩ := h
  rfl

end OnlySends

/-! ### Changes of a core that its program does not see -/

theorem sameProgram_foldl {α : Type} {f : Core → α → Core} (hf : ∀ x a, SameProgram x (f x a)) (l : List α) (x : Core) :
    SameProgram x (l.foldl f x) := List.foldlRecOn l f (.refl x) fun y hy a _ => hy.trans (hf y a)

theorem sameProgram_statStore (x : Core) (off n : Nat) : SameProgram x (statStore x off n) := by
  unfold statStore
  split
  · exact ⟨rfl, rfl, rfl, rfl, rfl, rfl, rfl, rfl, rfl, rfl⟩
  · exact .refl _

theorem sameProgram_setFrame (x : Core) (g : Nat) : SameProgram x (setFrame x g) := by
  unfold setFrame
  split
  · exact .refl _
  · exact ⟨rfl, rfl, rfl, rfl, rfl, rfl, rfl, rfl, rfl, rfl⟩

theorem sameProgram_frameStart (x : Core) (ordered : Bool) (gs : List Nat) : SameProgram x (frameStart x ordered gs) :=
  List.foldlRecOn (motive := SameProgram x) gs _ (.refl x) fun _ hy _ _ => hy.trans ⟨rfl, rfl, rfl, rfl, rfl, rfl, rfl, rfl, rfl, rfl⟩

/-! ### The end of a collective (R297, R302) -/

/-- The status array of a collective written, where it can be. -/
def statusWritten (s : State) (k : Nat) (x : Coll) (byteOf : Nat → Nat) : State :=
  match writeVa s k 320 (look (ctxOf s k).groups {} x.gid).statusPtr ((List.range x.n).map (fun r => BitVec.ofNat 8 (byteOf r))) false with
  | .ok t => t
  | .error _ => s

/-- The instruction of a collective ready to complete with a status. -/
def flightEnded (s : State) (k : Nat) (x : Coll) (status : Nat) : State :=
  setCore s k x.core (setFlight (coreOf s k x.core) x.flight (fun f =>
    { f with ready := true, status := status, poisonSeen := dPoisoned s k x, grains := dGrains x }))

/-- A collective gone from its context. -/
def collGone (s : State) (k : Nat) (x : Coll) : State :=
  setCtx s k { ctxOf s k with colls := (ctxOf s k).colls.filter (fun z => !(z.gid == x.gid && z.seq == x.seq)) }

theorem endColl_eq (s : State) (k : Nat) (x : Coll) (status : Nat) (byteOf : Nat → Nat) : endColl s k x status byteOf =
    traceCat (collGone (flightEnded (statusWritten s k x byteOf) k x status) k x) 3 k x.core (unitCore x.core) 0x41 0 x.seq
      (p4 (groupWord x) ++ leBytes 1 status) := rfl

/-! ### What no step of a collective changes -/

/-- Between two states the program of every core stands as it did, and every context has the same groups. -/
structure GoesOn (s t : State) : Prop where
  program : ∀ q m, SameProgram (coreOf s q m) (coreOf t q m)
  groups : ∀ j, (ctxOf t j).groups = (ctxOf s j).groups

namespace GoesOn
variable {s t u : State} {k n : Nat}

theorem of_same (hc : t.cores = s.cores) (hx : t.ctxs = s.ctxs) : GoesOn s t := by
  refine ⟨fun q m => ?_, fun j => ?_⟩
  · rw [coreOf, coreOf, hc]
    exact .refl _
  · rw [ctxOf, ctxOf, hx]

theorem refl (s : State) : GoesOn s s := of_same rfl rfl

theorem trans (h : GoesOn s t) (h' : GoesOn t u) : GoesOn s u :=
  ⟨fun q m => (h.program q m).trans (h'.program q m), fun j => (h'.groups j).trans (h.groups j)⟩

theorem foldl {α : Type} {f : State → α → State} (hf : ∀ s a, GoesOn s (f s a)) (l : List α) (s : State) : GoesOn s (l.foldl f s) :=
  List.foldlRecOn l f (refl s) fun t ht a _ => ht.trans (hf t a)

/-- What may fail after a step that goes on. -/
theorem after {α : Type} {r : Except Trap α} {g : α → State} (h : GoesOn s t) (hr : Yields r fun a => GoesOn t (g a)) :
    Yields r fun a => GoesOn s (g a) := hr.mono fun _ ha => h.trans ha

theorem of_sends (h : OnlySends s t) : GoesOn s t := of_same h.cores h.ctxs

theorem setCore {y : Core} (hy : SameProgram (coreOf s k n) y) : GoesOn s (setCore s k n y) := by
  refine ⟨fun q m => ?_, fun _ => rfl⟩
  by_cases h : coreKey q m = coreKey k n
  · have hs : coreOf s q m = coreOf s k n := congrArg (look s.cores {}) h
    have ht : coreOf (Machine.setCore s k n y) q m = coreOf (Machine.setCore s k n y) k n := congrArg (look (put s.cores _ y) {}) h
    rwa [hs, ht, coreOf_setCore]
  · rw [coreOf_setCore_other _ _ _ _ _ _ h]
    exact .refl _

theorem setCtx {x : Ctx} (hx : x.groups = (ctxOf s k).groups) : GoesOn s (setCtx s k x) := by
  refine ⟨fun _ _ => .refl _, fun j => ?_⟩
  by_cases hj : j = k
  · rw [hj, ctxOf_setCtx, hx]
  · rw [ctxOf_setCtx_other _ _ _ _ hj]

/-! Events and errors of memory -/

theorem raiseOn (s : State) (code cls k unit lc : Nat) (pay : List Byte) : GoesOn s (raiseOn s code cls k unit lc pay) := by
  obtain ⟨x, hput, hx⟩ : ∃ x : Ctx, ((Machine.raiseOn s code cls k unit lc pay).ctxs = put s.ctxs k x ∨
      (Machine.raiseOn s code cls k unit lc pay).ctxs = s.ctxs) ∧ x.groups = (ctxOf s k).groups := by
    unfold Machine.raiseOn
    dsimp only
    split
    · exact ⟨_, .inl rfl, rfl⟩
    · split
      · exact ⟨_, .inl rfl, rfl⟩
      · exact ⟨_, .inr rfl, rfl⟩
  rcases hput with h | h
  · exact (setCtx hx).trans (of_same rfl h)
  · exact of_same rfl h

theorem raise (s : State) (code cls k u : Nat) (p : List Byte) : GoesOn s (raise s code cls k u p) := raiseOn ..

theorem raiseTrap (s : State) (k n opc : Nat) (t : Trap) : GoesOn s (raiseTrap s k n opc t) := by
  cases t with
  | unpred u => exact refl s
  | _ => exact raise ..

theorem notePoison (s : State) (d : Nat) : GoesOn s (notePoison s d) :=
  ⟨fun _ _ => .refl _, fun j => by rw [poisonOnly_notePoison s d j]⟩

theorem poisonGrain (s : State) (a : Nat) : GoesOn s (poisonGrain s a) :=
  trans (t := { s with mem := { s.mem with poison := addNat s.mem.poison (a / 64) } }) (of_same rfl rfl) (notePoison _ a)

theorem keepHandling (s : State) : GoesOn s (keepHandling s) := by
  fun_cases Machine.keepHandling <;> exact of_same rfl rfl

theorem uncorrected (s : State) (k a src : Nat) : GoesOn s (uncorrected s k a src) := by
  unfold Machine.uncorrected
  dsimp only
  have hnote : GoesOn s { s with mem := noteErr s.mem a s.clock.ns true } := of_same rfl rfl
  split_ifs
  · exact refl s
  · exact ((hnote.trans (poisonGrain ..)).trans (raise ..)).trans (keepHandling _)
  · exact (hnote.trans (poisonGrain ..)).trans (raise ..)

theorem correctedErr (s : State) (k a : Nat) : GoesOn s (correctedErr s k a) := by
  unfold Machine.correctedErr
  dsimp only
  split
  · exact of_same rfl rfl
  · refine .trans ?_ (raise ..)
    exact of_same rfl rfl

theorem meetOne (k src : Nat) (s : State) (u : Nat × Bool) : GoesOn s (meetOne k src s u) := by
  unfold Machine.meetOne
  dsimp only
  split
  · refine .trans ?_ (uncorrected ..)
    exact of_same rfl rfl
  · refine .trans ?_ (correctedErr ..)
    exact of_same rfl rfl

theorem meet (s : State) (k src a n : Nat) : GoesOn s (meet s k src a n) := foldl (meetOne k src) _ s

theorem of_onlyLines (h : OnlyLines s t) : GoesOn s t := by
  obtain ⟨ls, c, rfl⟩ := h
  exact of_same rfl rfl

theorem chargeHbm (s : State) (k g : Nat) : GoesOn s (chargeHbm s k g) := by
  unfold Machine.chargeHbm
  split
  · exact refl s
  · exact setCtx rfl

theorem payFor (s : State) (k : Nat) (ts : List Touch) : GoesOn s (payFor s k ts) :=
  (foldl (fun s (t : Touch) => meet s k 0 t.dpa t.len) _ s).trans ((of_onlyLines (onlyLines_hbmTraffic ..)).trans (chargeHbm ..))

theorem elPay (s : State) (k n : Nat) (d : Desc) (first m : Nat) (wr : Bool) : GoesOn s (elPay s k n d first m wr) := payFor ..

/-! Stores, counts and observations -/

theorem writeDpa (s : State) (a : Nat) (bs : List Byte) (p : Bool) : GoesOn s (writeDpa s a bs p) := by
  unfold Machine.writeDpa
  dsimp only
  have hmem : GoesOn s { s with mem := writeMem s.mem a bs p } := of_same rfl rfl
  split
  · exact hmem.trans (foldl (fun s g => notePoison s (g * 64)) _ _)
  · exact hmem

theorem storeAt (k n : Nat) (s : State) (p : Loc × List Byte × Bool) : GoesOn s (storeAt k n s p) := by
  fun_cases Machine.storeAt
  · exact writeDpa ..
  · exact setCore (sameProgram_statStore ..)

theorem writeVas (s : State) (k n : Nat) (ws : List Wr) : Yields (writeVas s k n ws) (GoesOn s) :=
  yields_then fun _ => yields_ok.2 (foldl (storeAt k n) _ s)

theorem countNumeric (s : State) (k src : Nat) (y : Tally) : GoesOn s (countNumeric s k src y) := by
  unfold Machine.countNumeric
  dsimp only
  split_ifs <;> exact of_same rfl rfl

theorem applyObs (k n : Nat) (s : State) (o : HeldObs) : GoesOn s (applyObs k n s o) := by
  cases o with
  | event code pay =>
    simp only [Machine.applyObs, numEvent]
    split
    · refine .trans ?_ (raiseOn ..)
      exact setCore ⟨rfl, rfl, rfl, rfl, rfl, rfl, rfl, rfl, rfl, rfl⟩
    · exact setCore ⟨rfl, rfl, rfl, rfl, rfl, rfl, rfl, rfl, rfl, rfl⟩
  | watch slot tensor nz =>
    simp only [Machine.applyObs, observe]
    split
    · exact setCtx rfl
    · exact refl s


theorem setFlightS (s : State) (k n : Nat) (e : Engine) (f : Flight) : GoesOn s (setFlightS s k n e f) :=
  setCore (sameProgram_putFlight ..)

/-! The steps of a collective -/

theorem setColl (s : State) (k : Nat) (x : Coll) : GoesOn s (setColl s k x) := setCtx rfl

theorem readyUp (s : State) (k : Nat) (x : Coll) : GoesOn s (readyUp s k x) := by
  fun_cases Machine.readyUp
  · exact setCore (sameProgram_foldl sameProgram_setFrame ..)
  · exact refl s
  · exact refl s

theorem putEls (s : State) (k n : Nat) (d : Desc) (first : Nat) (es : List OutEl) : Yields (putEls s k n d first es) (GoesOn s) :=
  yields_bind (writeVas s k n _) fun _ ht => yields_then fun _ => yields_ok.2 ((ht.trans (elPay ..)).trans (foldl (applyObs k n) _ _))

theorem landEls (s : State) (k : Nat) (x : Coll) (i : Nat) (ch : Chunk) (at' : Nat) (es : List OutEl) :
    Yields (landEls s k x i ch at' es) (fun r => GoesOn s r.1) := by
  refine yields_bind (Q := GoesOn s) ?_ fun t ht => yields_ok.2 (ht.trans (readyUp ..))
  split
  · exact yields_ite (putEls _ _ _ _ _ _) (yields_ok.2 (refl s))
  · exact yields_ok.2 (refl s)

theorem aCodes (s : State) (k : Nat) (x : Coll) (ch : Chunk) : Yields (aCodes s k x ch) (fun r => GoesOn s r.1) := by
  fun_cases Machine.aCodes
  · exact yields_then fun _ => yields_ok.2 (elPay ..)
  · exact yields_ok.2 (refl s)

theorem foldChunk (s : State) (k : Nat) (x : Coll) (i : Nat) (ch : Chunk) :
    Yields (foldChunk s k x i ch) (fun r => GoesOn s r.1) := by
  unfold Machine.foldChunk
  refine yields_ite (yields_ok.2 (refl s)) (yields_bind (aCodes s k x ch) fun r hr => ?_)
  have hdrawn : GoesOn s (drawn r.1) := hr.trans (of_same rfl rfl)
  dsimp only
  split
  · exact yields_ite (after (hdrawn.trans (countNumeric ..)) (landEls _ _ _ _ _ _ _)) (yields_ok.2 hdrawn)
  · exact yields_ok.2 hdrawn

theorem pumpFrom (fuel : Nat) (s : State) (k : Nat) (x : Coll) (i : Nat) :
    Yields (pumpFrom fuel s k x i) (fun r => GoesOn s r.1) := by
  induction fuel generalizing s x i with
  | zero => exact yields_ok.2 (refl s)
  | succ n ih =>
    unfold Machine.pumpFrom
    split
    · exact yields_ok.2 (refl s)
    · refine yields_bind (foldChunk s k x i _) fun r hr =>
        yields_bind (Q := fun r => GoesOn s r.1) ?_ fun r hr => after hr (ih _ _ _)
      split
      · exact after hr ((OnlySends.sendChunk _ _ _ _ _).mono fun _ hu => of_sends hu)
      · exact yields_ok.2 hr

theorem statusWritten (s : State) (k : Nat) (x : Coll) (byteOf : Nat → Nat) : GoesOn s (statusWritten s k x byteOf) := by
  fun_cases Machine.statusWritten
  · next e => exact writeVas _ _ _ _ _ e
  · exact refl s

theorem flightEnded (s : State) (k : Nat) (x : Coll) (status : Nat) : GoesOn s (flightEnded s k x status) :=
  setCore (sameProgram_setFlight ..)

theorem collGone (s : State) (k : Nat) (x : Coll) : GoesOn s (collGone s k x) := setCtx rfl

theorem endColl (s : State) (k : Nat) (x : Coll) (status : Nat) (byteOf : Nat → Nat) : GoesOn s (endColl s k x status byteOf) := by
  rw [endColl_eq]
  exact (((statusWritten s k x byteOf).trans (flightEnded ..)).trans (collGone ..)).trans (of_same rfl rfl)

theorem poisonChunk (s : State) (k : Nat) (x : Coll) (ch : Chunk) : GoesOn s (poisonChunk s k x ch) := by
  fun_cases Machine.poisonChunk
  · exact refl s
  · refine foldl (fun s g => ?_) _ s
    split
    · exact poisonGrain ..
    · exact refl s

theorem abortColl (s : State) (k : Nat) (x : Coll) : GoesOn s (abortColl s k x) :=
  ((foldl (fun s ch => poisonChunk s k x ch) _ s).trans (readyUp ..)).trans (endColl ..)

theorem toldAll (s : State) (k : Nat) (x : Coll) (tell : Bool) (rs : List Nat) (kind first : Nat) (pay : List Byte) :
    GoesOn s (if tell then collTell s k x rs kind first pay else s) := by
  split
  · exact of_sends (.collTell ..)
  · exact refl s

theorem mismatch (s : State) (k : Nat) (x : Coll) (fp node : Nat) (tell : Bool) : GoesOn s (mismatch s k x fp node tell) :=
  ((raise ..).trans (toldAll ..)).trans (abortColl ..)

theorem revoked (s : State) (k : Nat) (x : Coll) (first node : Nat) (tell : Bool) : GoesOn s (revoked s k x first node tell) :=
  ((raise ..).trans (toldAll ..)).trans (abortColl ..)

theorem finishColl (s : State) (k : Nat) (x : Coll) : GoesOn s (finishColl s k x) := by
  unfold Machine.finishColl
  dsimp only
  split_ifs
  · exact refl s
  · exact endColl ..
  all_goals exact (raise ..).trans (endColl ..)

theorem pump (s : State) (k : Nat) (x : Coll) : GoesOn s (pump s k x) := by
  fun_cases Machine.pump
  · next e => exact ((pumpFrom _ _ _ _ _ _ e).trans (setColl ..)).trans (finishColl ..)
  · exact (setColl ..).trans (raiseTrap ..)

theorem pumpE (k : Nat) (x : Coll) {r : Except Trap (State × Coll)} (hr : Yields r (fun p => GoesOn s p.1)) :
    GoesOn s (pumpE s k x r) := by
  fun_cases Machine.pumpE
  · exact (hr _ rfl).trans (pump ..)
  · exact raiseTrap ..

theorem loadOwn (fuel : Nat) (s : State) (k : Nat) (x : Coll) (i : Nat) :
    Yields (loadOwn fuel s k x i) (fun r => GoesOn s r.1) := by
  induction fuel generalizing s x i with
  | zero => exact yields_ok.2 (refl s)
  | succ n ih =>
    unfold Machine.loadOwn
    split
    · exact yields_ok.2 (refl s)
    · exact yields_ite (ih _ _ _) (yields_bind (aCodes s k x _) fun r hr =>
        yields_bind (after hr (landEls _ _ _ _ _ _ _)) fun u hu => after hu (ih _ _ _))

end GoesOn

/-! ### The start of a collective (R284, R287, R289, R295) -/

/-- The sequence number that the next collective of a group takes. -/
def nextSeq (s : State) (k gid : Nat) : Nat := (look (ctxOf s k).groups {} gid).seqNo

/-- Between two states every program stands as it did, and the group `gid` of context `k` has gone on to its next sequence
number. -/
structure TakesSeq (s t : State) (k gid : Nat) : Prop where
  program : ∀ q m, SameProgram (coreOf s q m) (coreOf t q m)
  seq : nextSeq t k gid = (nextSeq s k gid + 1) % 0x1_0000_0000

theorem TakesSeq.goesOn {s t u : State} {k gid : Nat} (h : TakesSeq s t k gid) (h' : GoesOn t u) : TakesSeq s u k gid where
  program q m := (h.program q m).trans (h'.program q m)
  seq := by
    rw [nextSeq, h'.groups]
    exact h.seq

/-- A context whose group `gid` has gone on. -/
theorem TakesSeq.setCtx {s : State} {k gid : Nat} {y : Ctx} {b : Group} (hy : y.groups = put (ctxOf s k).groups gid b)
    (hb : b.seqNo = (nextSeq s k gid + 1) % 0x1_0000_0000) : TakesSeq s (setCtx s k y) k gid where
  program _ _ := .refl _
  seq := by
    rw [nextSeq, ctxOf_setCtx, hy, look_put_same]
    exact hb

theorem yields_else {α : Type} {P : α → Prop} {c : Prop} [Decidable c] {a b : Except Trap α} (hc : ¬c) (hb : Yields b P) :
    Yields (if c then a else b) P := by rwa [if_neg hc]

section Start
variable {s : State} {c k id n : Nat} {x : Core} {f : Flight}

/-- A collective that starts takes its group's sequence number, and whatever it meets no program sees it (R289). -/
theorem collStart_takes (hg : groupOk s k f.q.ob.val = true) (hb : collBehind (coreOf s k c) f.id = false) (hn : collsInFlight s < 256)
    (hw : hbmWaits s k c (wholeOf f.a false) = false) :
    Yields (collStart n s k c f) fun t => TakesSeq s t k (f.q.ob.val % 0x1_0000) := by
  unfold collStart
  refine yields_else (ne_false_of_eq_true hg) (yields_else (ne_true_of_eq_false hb) (yields_else (Nat.not_le.2 hn)
    (yields_else (ne_true_of_eq_false hw) (yields_then fun _ => yields_ite (yields_error.2 trivial) (yields_then fun _ => ?_)))))
  split
  · exact yields_error.2 trivial
  · refine yields_then fun _ => yields_then fun _ => yields_ite (yields_error.2 trivial) ?_
    extract_lets phys x1 held y s1 s2 s3 s4 x2
    have h1 : TakesSeq s s1 k (f.q.ob.val % 0x1_0000) := .setCtx rfl rfl
    have h2 : GoesOn s1 s2 := .setFlightS ..
    have h3 : GoesOn s2 s3 := by
      simp only [s3]
      split
      · exact .setCore (sameProgram_frameStart ..)
      · exact .refl _
    have h4 : TakesSeq s s4 k (f.q.ob.val % 0x1_0000) := h1.goesOn ((h2.trans h3).trans (.of_same rfl rfl))
    split
    · exact yields_ok.2 (h4.goesOn (.mismatch ..))
    · refine yields_ite (yields_ok.2 (h4.goesOn (.mismatch ..))) ?_
      split
      · exact yields_ok.2 (h4.goesOn (.revoked ..))
      · exact yields_ok.2 (h4.goesOn ((GoesOn.of_sends (.collTell ..)).trans (.pumpE _ _ (.loadOwn _ _ _ _ _))))

/-- The work of a collective instruction. -/
theorem exec_coll_run {i : Instr} (hi : tensorCmd (.coll n) c (.run id) = some i) (s : State) :
    exec i s = runStream (.coll n) c id s (fun k _ f => collStart n s k c f) := by
  unfold tensorCmd at hi
  dsimp only at hi
  split at hi <;> cases hi <;> rfl

variable {i : Instr} (hi : tensorCmd (.coll n) c (.run id) = some i) (h : ToDo s c k x .stream (.coll n) id f)
include hi h

/-- A collective instruction answers what its start gives. -/
theorem exec_coll_starts {t : State} (ht : collStart n s k c f = .ok t) : exec i s = .next t :=
  (exec_coll_run hi s).trans (runStream_works (op := .coll n) h ht)

theorem coll_starts (hg : groupOk s k f.q.ob.val = true) (hb : collBehind x id = false) (hn : collsInFlight s < 256)
    (hw : hbmWaits s k c (wholeOf f.a false) = false) {t : State} (ht : collStart n s k c f = .ok t) :
    Completes i s (fun u => u = t ∧ SameProgram x (coreOf u k c) ∧
      nextSeq u k (f.q.ob.val % 0x1_0000) = (nextSeq s k (f.q.ob.val % 0x1_0000) + 1) % 0x1_0000_0000) := by
  have hx := coreAtWork_core h.1
  have htakes := collStart_takes hg (by rw [hx, flightAt_id h.2.1, hb]) hn hw t ht
  exact ⟨t, exec_coll_starts hi h ht, rfl, hx ▸ htakes.program k c, htakes.seq⟩

/-- With 256 collectives in flight it is marked as the head of its core's collectives that waits. -/
theorem coll_waits (hg : groupOk s k f.q.ob.val = true) (hb : collBehind x id = false) (hn : 256 ≤ collsInFlight s) :
    Completes i s (fun u => OnlyCore s u k c ∧ SameProgram x (coreOf u k c) ∧
      flightAt (coreOf u k c) .stream id = some { f with issued := 1 }) := by
  have hx := coreAtWork_core h.1
  have hmark : collStart n s k c f = .ok (setFlightS s k c .stream { f with issued := 1 }) := by
    rw [← hx, ← flightAt_id h.2.1] at hb
    simp [collStart, hg, hb, hn]
  exact ⟨_, exec_coll_starts hi h hmark, putPlan hx h.2.1 rfl⟩

/-- Behind one that waits nothing happens. -/
theorem coll_behind (hg : groupOk s k f.q.ob.val = true) (hb : collBehind x id = true) : Completes i s (fun u => u = s) := by
  have hstay : collStart n s k c f = .ok s := by
    rw [← coreAtWork_core h.1, ← flightAt_id h.2.1] at hb
    simp [collStart, hg, hb]
  exact ⟨s, exec_coll_starts hi h hstay, rfl⟩

/-- Without its group it never completes. -/
theorem coll_unbound (hg : groupOk s k f.q.ob.val = false) : Completes i s (fun u => u.mem = s.mem ∧ SameProgram x (coreOf u k c) ∧
      (u.obs.log.getLast?.map (fun e => (e.code, e.ctx, e.unit))) = some (0x0505, k, unitCore c) ∧
      flightAt (coreOf u k c) .stream id = some { f with trapped := true }) := by
  have hinvalid : collStart n s k c f = .ok (groupInvalid (setFlightS s k c .stream { f with trapped := true }) k c f.q.ob.val) := by
    simp [collStart, hg]
  obtain ⟨-, hprogram, hflight⟩ := putPlan (e := .stream) (g := { f with trapped := true }) (coreAtWork_core h.1) h.2.1 rfl
  refine ⟨_, exec_coll_starts hi h hinvalid, rfl, hprogram, ?_, hflight⟩
  rw [groupInvalid, raise_last]
  rfl

end Start

/-- Settles O16: an instruction that starts takes its sequence number (`collStart_takes`), and the three that do not are
`coll_waits`, `coll_behind` and `coll_unbound`. -/
theorem collectivesStart : Obligations.CollectivesStart := by
  unfold Obligations.CollectivesStart
  exact fun s t c k id n x f i hi h => ⟨fun hg hb hn hw ht => coll_starts hi h hg hb hn hw ht, coll_waits hi h, coll_behind hi h,
    coll_unbound hi h⟩

/-! ### The check of a chunk (R298, R300 to R302) -/

/-- A collective that a core's instruction started is one of its context's. -/
theorem collOf_mem {s : State} {c id k : Nat} {x : Coll} (h : collOf s c id = some (k, x)) : x ∈ (ctxOf s k).colls := by
  obtain ⟨j, -, hj⟩ := List.exists_of_findSome?_eq_some h
  obtain ⟨y, hy, he⟩ := Option.map_eq_some_iff.1 hj
  cases he
  exact List.mem_of_find?_eq_some hy

/-- A collective in flight with its chunks replaced stands in its context. -/
theorem setChunk_mem_setColl {s : State} {k i : Nat} {x : Coll} {ch : Chunk} (h : x ∈ (ctxOf s k).colls) :
    setChunk x i ch ∈ (ctxOf (setColl s k (setChunk x i ch)) k).colls := by
  rw [setColl, ctxOf_setCtx]
  exact List.mem_map.2 ⟨x, h, if_pos ⟨rfl, rfl⟩⟩

theorem pays_elPay {s : State} (hu : s.mem.upsets = []) (k n : Nat) (d : Desc) (first m : Nat) (wr : Bool) :
    Pays s (elPay s k n d first m wr) k := .payFor hu _

section Passed
variable {s : State} {k i : Nat} {x : Coll} {ch : Chunk}

/-- A chunk passed where more is to be done: counted, its peers told, and marked. -/
theorem chunkPass_marks (hmore : collComplete (setChunk x i { ch with passed := true }) = false) (skipped : Bool) :
    ∃ u, OnlySends s u ∧ chunkPass s k x i ch skipped = setColl u k (setChunk x i { ch with passed := true }) := by
  refine ⟨_, ?_, if_pos hmore⟩
  have hbump : ∀ (b : Prop) [Decidable b] (t : State) (m : Nat), OnlySends t (if b then bump t 1 k m 1 else t) := by
    intro b _ t m
    split
    · exact .bump ..
    · exact .refl _
  exact ((hbump ..).trans (hbump ..)).trans (.collTell ..)

end Passed

/-! What the end of a collective leaves of the log -/

theorem foldl_obs {α : Type} {f : State → α → State} (hf : ∀ s a, (f s a).obs = s.obs) (l : List α) (s : State) :
    (l.foldl f s).obs = s.obs := List.foldlRecOn (motive := fun u : State => u.obs = s.obs) _ _ rfl fun u hu a _ => (hf u a).trans hu

theorem writeDpa_obs (s : State) (a : Nat) (bs : List Byte) (p : Bool) : (writeDpa s a bs p).obs = s.obs := by
  unfold writeDpa
  cases p
  · rfl
  · exact foldl_obs (f := fun s g => notePoison s (g * 64)) (fun _ _ => rfl) _ _

theorem storeAt_obs (k n : Nat) (s : State) (p : Loc × List Byte × Bool) : (storeAt k n s p).obs = s.obs := by
  fun_cases storeAt
  · exact writeDpa_obs ..
  · rfl

theorem writeVas_obs (s : State) (k n : Nat) (ws : List Wr) : Yields (writeVas s k n ws) (fun t => t.obs = s.obs) :=
  yields_then fun _ => yields_ok.2 (foldl_obs (storeAt_obs k n) _ s)

theorem statusWritten_obs (s : State) (k : Nat) (x : Coll) (byteOf : Nat → Nat) : (statusWritten s k x byteOf).obs = s.obs := by
  fun_cases statusWritten
  · next e => exact writeVas_obs _ _ _ _ _ e
  · rfl

theorem traceCat_log (s : State) (cat k n src ev flags tag : Nat) (pay : List Byte) :
    (traceCat s cat k n src ev flags tag pay).obs.log = s.obs.log := by
  unfold traceCat
  dsimp only
  split
  · exact traceO_log ..
  · rfl

theorem endColl_log (s : State) (k : Nat) (x : Coll) (status : Nat) (byteOf : Nat → Nat) :
    (endColl s k x status byteOf).obs.log = s.obs.log := by
  rw [endColl_eq, traceCat_log]
  exact congrArg Observe.log (statusWritten_obs s k x byteOf)

theorem readyUp_obs (s : State) (k : Nat) (x : Coll) : (readyUp s k x).obs = s.obs := by
  fun_cases readyUp <;> rfl

theorem poisonChunk_obs (s : State) (k : Nat) (x : Coll) (ch : Chunk) : (poisonChunk s k x ch).obs = s.obs := by
  fun_cases poisonChunk
  · rfl
  · refine foldl_obs (fun s g => ?_) _ s
    split <;> rfl

theorem abortColl_log (s : State) (k : Nat) (x : Coll) : (abortColl s k x).obs.log = s.obs.log := by
  rw [abortColl, endColl_log, readyUp_obs, foldl_obs fun s ch => poisonChunk_obs s k x ch]

/-- A collective that has ended is none of its context's. -/
theorem endColl_gone (s : State) (k : Nat) (x : Coll) (status : Nat) (byteOf : Nat → Nat) :
    ∀ z ∈ (ctxOf (endColl s k x status byteOf) k).colls, ¬(z.gid = x.gid ∧ z.seq = x.seq) := by
  intro z hz
  rw [endColl_eq, ctxOf, traceCat_ctxs, ← ctxOf, collGone, ctxOf_setCtx] at hz
  simpa [← not_and_or] using (List.mem_filter.1 hz).2

theorem abortColl_gone (s : State) (k : Nat) (x : Coll) : ∀ z ∈ (ctxOf (abortColl s k x) k).colls, ¬(z.gid = x.gid ∧ z.seq = x.seq) :=
  endColl_gone _ _ _ _ _

/-- An event raised stands in the log. -/
theorem mkEvent_mem_raise (s : State) (code cls k u : Nat) (p : List Byte) :
    mkEvent s code cls k u p ∈ (raise s code cls k u p).obs.log := List.mem_of_getLast? (raise_last ..)

/-- COLLECTIVE_CHECK_FAILED of a chunk (R301). -/
def checkFailed (s : State) (k : Nat) (x : Coll) (ch : Chunk) (diff : Nat) : Event :=
  mkEvent s 0x0504 clsJ k (unitCore x.core) (p4 (groupWord x) ++ p4 x.seq ++ p8 ch.first ++ p8 diff)

/-- The third failure of a chunk ends its collective, and is logged. -/
theorem chunkFail_ends {s : State} {k i : Nat} {x : Coll} {ch : Chunk} (hf : 2 ≤ ch.failures) (diff : Nat) :
    (∀ z ∈ (ctxOf (chunkFail s k x i ch diff) k).colls, ¬(z.gid = x.gid ∧ z.seq = x.seq)) ∧
      checkFailed s k x ch diff ∈ (chunkFail s k x i ch diff).obs.log := by
  rw [chunkFail, if_pos hf]
  refine ⟨abortColl_gone _ _ _, ?_⟩
  rw [abortColl_log, (OnlySends.collTell ..).log]
  exact mkEvent_mem_raise ..

section Check
variable {s : State} {c id m k i : Nat} {x : Coll} {ch : Chunk} {d : Desc} {r : CheckRec} {cs : List (Option Nat)}
  (hc : collOf s c id = some (k, x)) (hp : dPlace x m = some (i, ch)) (hd : x.d = some d) (hr : ch.record = some r)
  (hw : ch.written = true) (hpass : ch.passed = false) (hlost : ch.lost = false)
  (hcs : codesOf s k x.core d (dFirst x ch) ch.count = .ok cs)
include hc hp hd hr hw hpass hlost hcs

/-- A chunk that is due is checked once its elements have been read, unless its check is skipped (R300). -/
theorem exec_chunkCheck_decides : exec (.chunkCheck c id m) s =
    .next (if r.skip || ch.sat then chunkPass (elPay s k x.core d (dFirst x ch) ch.count false) k x i ch true
      else if (checkPasses x d s.freeCtr (dFirst x ch) cs r).1 then
        chunkPass (elPay s k x.core d (dFirst x ch) ch.count false) k x i ch false
      else chunkFail (elPay s k x.core d (dFirst x ch) ch.count false) k x i ch (checkPasses x d s.freeCtr (dFirst x ch) cs r).2) := by
  rw [exec_chunkCheck]
  simp [execChunkCheck, hc, hp, hd, hr, hw, hpass, hlost, hcs, apply_ite Host.Outcome.next]

/-- One that passes, or whose check is skipped. -/
theorem exec_chunkCheck_passes (hok : r.skip = true ∨ ch.sat = true ∨ (checkPasses x d s.freeCtr (dFirst x ch) cs r).1 = true) :
    ∃ skipped, exec (.chunkCheck c id m) s =
      .next (chunkPass (elPay s k x.core d (dFirst x ch) ch.count false) k x i ch skipped) := by
  rw [exec_chunkCheck_decides hc hp hd hr hw hpass hlost hcs]
  by_cases hskip : (r.skip || ch.sat) = true
  · exact ⟨true, by rw [if_pos hskip]⟩
  · have hv : (checkPasses x d s.freeCtr (dFirst x ch) cs r).1 = true := by
      rw [Bool.or_eq_true, not_or] at hskip
      exact (hok.resolve_left hskip.1).resolve_left hskip.2
    exact ⟨false, by rw [if_neg hskip, if_pos hv]⟩

theorem chunkCheck_passes (hu : s.mem.upsets = [])
    (hok : r.skip = true ∨ ch.sat = true ∨ (checkPasses x d s.freeCtr (dFirst x ch) cs r).1 = true)
    (hmore : collComplete (setChunk x i { ch with passed := true }) = false) :
    Completes (.chunkCheck c id m) s (fun t => SameBytes s t ∧ t.cores = s.cores ∧
      setChunk x i { ch with passed := true } ∈ (ctxOf t k).colls) := by
  have hpays := pays_elPay hu k x.core d (dFirst x ch) ch.count false
  obtain ⟨skipped, he⟩ := exec_chunkCheck_passes hc hp hd hr hw hpass hlost hcs hok
  obtain ⟨u, hsends, hu'⟩ := chunkPass_marks (s := elPay s k x.core d (dFirst x ch) ch.count false) (k := k) hmore skipped
  have hcolls : (ctxOf u k).colls = (ctxOf s k).colls := by rw [ctxOf, hsends.ctxs, ← hpays.colls, ctxOf]
  refine ⟨_, he.trans (congrArg Host.Outcome.next hu'), hpays.sameBytes.trans (.of_mem hsends.mem), hsends.cores.trans hpays.cores, ?_⟩
  exact setChunk_mem_setColl (hcolls ▸ collOf_mem hc)

theorem chunkCheck_ends (hu : s.mem.upsets = []) (hskip : r.skip = false) (hsat : ch.sat = false)
    (hv : (checkPasses x d s.freeCtr (dFirst x ch) cs r).1 = false) (hf : 2 ≤ ch.failures) :
    Completes (.chunkCheck c id m) s (fun t => (∀ z ∈ (ctxOf t k).colls, ¬(z.gid = x.gid ∧ z.seq = x.seq)) ∧
      ∃ e ∈ t.obs.log, e.code = 0x0504 ∧ e.ctx = k ∧ e.seq = s.obs.seqNext ∧
        e.payload = p4 (groupWord x) ++ p4 x.seq ++ p8 ch.first ++ p8 (checkPasses x d s.freeCtr (dFirst x ch) cs r).2) := by
  have hpays := pays_elPay hu k x.core d (dFirst x ch) ch.count false
  have he := exec_chunkCheck_decides hc hp hd hr hw hpass hlost hcs
  rw [hskip, hsat, hv] at he
  obtain ⟨hgone, hlogged⟩ := chunkFail_ends (s := elPay s k x.core d (dFirst x ch) ch.count false) (k := k) (i := i) (x := x) hf
    (checkPasses x d s.freeCtr (dFirst x ch) cs r).2
  refine ⟨_, he, hgone, _, hlogged, rfl, rfl, ?_, rfl⟩
  change (elPay s k x.core d (dFirst x ch) ch.count false).obs.seqNext = s.obs.seqNext
  rw [hpays.rest]

end Check

/-- Settles O17: a chunk that passes is marked and its peers are told (`chunkPass_marks`), and a third failure aborts the
collective after its event (`chunkFail_ends`). -/
theorem chunksChecked : Obligations.ChunksChecked := by
  unfold Obligations.ChunksChecked
  exact fun s c id m k i x ch d r cs hc hp hd hr hw hpass hlost hu hcs =>
    ⟨chunkCheck_passes hc hp hd hr hw hpass hlost hcs hu, chunkCheck_ends hc hp hd hr hw hpass hlost hcs hu⟩

end Sys2Proof.Machine

/-! ## Frequency steps of a bay (R307, R308, R319) -/

namespace Sys2Proof.Machine

/-! ### What a change of bays leaves -/

/-- Between two states the power state differs in its bays at most; memory and cores are the same, and an alert that is low
stays low. -/
structure OnlyBays (s t : State) : Prop where
  power : ∃ l, t.power = { s.power with bays := l }
  mem : t.mem = s.mem
  cores : t.cores = s.cores
  alert : s.board.alertN = false → t.board.alertN = false

namespace OnlyBays

theorem refl (s : State) : OnlyBays s s := ⟨⟨_, rfl⟩, rfl, rfl, id⟩

theorem trans {s t u : State} (h : OnlyBays s t) (h' : OnlyBays t u) : OnlyBays s u := by
  obtain ⟨l, hl⟩ := h.power
  obtain ⟨l', hl'⟩ := h'.power
  exact ⟨⟨l', by rw [hl', hl]⟩, h'.mem.trans h.mem, h'.cores.trans h.cores, h'.alert ∘ h.alert⟩

theorem foldl {α : Type} {f : State → α → State} (hf : ∀ s a, OnlyBays s (f s a)) (l : List α) (s : State) :
    OnlyBays s (l.foldl f s) :=
  List.foldlRecOn l f (refl s) fun t ht a _ => ht.trans (hf t a)

theorem setBay (s : State) (b : Nat) (y : Bay) : OnlyBays s (setBay s b y) := ⟨⟨_, rfl⟩, rfl, rfl, id⟩

theorem bump (s : State) (kind index number n : Nat) : OnlyBays s (bump s kind index number n) := ⟨⟨_, rfl⟩, rfl, rfl, id⟩

/-- An event may end in the alert (R379), never in its end. -/
theorem raise (s : State) (code cls k u : Nat) (p : List Byte) : OnlyBays s (raise s code cls k u p) where
  power := ⟨_, rfl⟩
  mem := rfl
  cores := rfl
  alert h := by
    simp only [Machine.raise, raiseOn]
    split
    · rfl
    · exact h

theorem watchFixed (s : State) (b : Nat) : OnlyBays s (watchFixed s b) := by
  fun_cases Machine.watchFixed
  · exact setBay ..
  · exact (setBay ..).trans (raise ..)
  · exact setBay ..
  · exact refl s
  · exact refl s

theorem watchAllFixed (s : State) : OnlyBays s (watchAllFixed s) := foldl watchFixed _ s

end OnlyBays

theorem bayAt_setBay (s : State) (b c : Nat) (y : Bay) : bayAt (setBay s b y) c = if c = b then y else bayAt s c := by
  split
  next h => exact h ▸ look_put_same ..
  next h => exact look_put_other _ _ _ _ _ h

@[simp] theorem bayAt_setBay_same (s : State) (b : Nat) (y : Bay) : bayAt (setBay s b y) b = y := look_put_same ..
@[simp] theorem bayAt_setRail (s : State) (b c : Nat) : bayAt (setRail s b) c = bayAt s c := rfl

/-- Looking at a bay's episode changes of any bay its episode at most. -/
theorem bayAt_watchFixed (s : State) (b c : Nat) : ∃ e, bayAt (watchFixed s b) c = { bayAt s c with episode := e } := by
  have hset : ∀ e, ∃ e', bayAt (setBay s b { bayAt s b with episode := e }) c = { bayAt s c with episode := e' } := fun e => by
    rw [bayAt_setBay]
    split
    next h => exact ⟨e, by rw [h]⟩
    next h => exact ⟨_, rfl⟩
  fun_cases watchFixed
  · exact hset _
  · exact hset none
  · exact hset _
  · exact ⟨_, rfl⟩
  · exact ⟨_, rfl⟩

theorem bayAt_watchAllFixed (s : State) (c : Nat) : ∃ e, bayAt (watchAllFixed s) c = { bayAt s c with episode := e } :=
  List.foldlRecOn (motive := fun t => ∃ e, bayAt t c = { bayAt s c with episode := e }) _ _ ⟨_, rfl⟩ fun t ⟨_, he⟩ b _ => by
    obtain ⟨e', he'⟩ := bayAt_watchFixed t b c
    exact ⟨e', by rw [he', he]⟩

theorem setPoint_watchAllFixed (s : State) (b : Nat) : (bayAt (watchAllFixed s) b).setPoint = (bayAt s b).setPoint := by
  obtain ⟨e, he⟩ := bayAt_watchAllFixed s b
  rw [he]

/-! ### The step and the switch of the mux -/

/-- A lowering, made or held, concerns the bay's voltage alone. -/
theorem bayAt_lower (s : State) (b v : Nat) : ∃ u l, bayAt (lower s b v) b = { bayAt s b with volt := u, lowerTo := l } := by
  fun_cases lower
  · exact ⟨_, _, rfl⟩
  · exact ⟨_, _, bayAt_setBay_same ..⟩
  · exact ⟨_, _, bayAt_setBay_same ..⟩

@[simp] theorem lower_cores (s : State) (b v : Nat) : (lower s b v).cores = s.cores := by
  fun_cases lower <;> rfl

/-- A lock sets the frequency of one PLL or the other. -/
theorem lockPll_eq (y : Bay) (f : Nat) : ∃ p q, lockPll y f = { y with pll0 := p, pll1 := q } := by
  fun_cases lockPll <;> exact ⟨_, _, rfl⟩

section Step
variable {s : State} {b : Nat}

/-- A step that nothing holds back is a lock at the wanted set point, after the voltage of that point on the way up. -/
theorem exec_frequencyStep_begins (ha : alive s = true) (hf : s.power.fallback = false) (hb : b < 16)
    (hrun : (bayAt s b).stopped = false ∨ bayIdle s b = false) (hw : wanted s b ≠ (bayAt s b).setPoint)
    (hto : (bayAt s b).stepTo ≠ some (wanted s b))
    (hup : (bayAt s b).setPoint < wanted s b → afterDroop s (bayAt s b) 20000 = false ∧ avsFails s b = false) :
    exec (.frequencyStep b) s = .next (
      let y := lockPll { bayAt s b with stepTo := some (wanted s b) } (wanted s b)
      if (bayAt s b).setPoint < wanted s b ∧ (bayAt s b).volt < tableMv b (bayAt s b) (wanted s b) then
        setRail (setBay s b { y with volt := tableMv b (bayAt s b) (wanted s b), lowerTo := none }) b
      else setBay s b y) := by
  have hgo : ¬(16 ≤ b ∨ alive s = false ∨ s.power.fallback = true ∨ ((bayAt s b).stopped && bayIdle s b) = true ∨
      wanted s b = (bayAt s b).setPoint ∨ (bayAt s b).stepTo = some (wanted s b)) := by
    simp only [ha, hf, hw, hto, Nat.not_le.2 hb, Bool.and_eq_true]
    rcases hrun with h | h <;> simp [h]
  have hfree : ¬(decide ((bayAt s b).setPoint < wanted s b) && (afterDroop s (bayAt s b) us20 || avsFails s b)) = true := by
    simp only [Bool.and_eq_true, decide_eq_true_eq, not_and]
    intro h
    simp [hup h]
  rw [exec_frequencyStep, execFrequencyStep]
  dsimp only
  rw [if_neg hgo, if_neg hfree, apply_ite Host.Outcome.next]
  simp only [Bool.and_eq_true, decide_eq_true_eq]

theorem frequencyStep_locks (ha : alive s = true) (hf : s.power.fallback = false) (hb : b < 16)
    (hrun : (bayAt s b).stopped = false ∨ bayIdle s b = false) (hw : wanted s b ≠ (bayAt s b).setPoint)
    (hto : (bayAt s b).stepTo ≠ some (wanted s b))
    (hup : (bayAt s b).setPoint < wanted s b → afterDroop s (bayAt s b) 20000 = false ∧ avsFails s b = false) :
    Completes (.frequencyStep b) s (fun t => (bayAt t b).stepTo = some (wanted s b) ∧
      (bayAt t b).setPoint = (bayAt s b).setPoint ∧ t.mem = s.mem ∧
      ((bayAt s b).setPoint < wanted s b → tableMv b (bayAt s b) (wanted s b) ≤ (bayAt t b).volt)) := by
  refine ⟨_, exec_frequencyStep_begins ha hf hb hrun hw hto hup, ?_⟩
  obtain ⟨p, q, hlock⟩ := lockPll_eq { bayAt s b with stepTo := some (wanted s b) } (wanted s b)
  dsimp only
  rw [hlock]
  split
  next => simp
  next hv => simpa using fun h => Nat.not_lt.1 fun hlt => hv ⟨h, hlt⟩

theorem exec_muxSwitch_droop {f : Nat} (hto : (bayAt s b).stepTo = some f) (hd : (bayAt s b).droop = true) :
    exec (.muxSwitch b) s = .next s := by
  rw [exec_muxSwitch, execMuxSwitch]
  simp [hto, hd]

/-- A switch takes the bay to the locked set point; what follows it is the voltage's and the episodes'. -/
theorem exec_muxSwitch_switches {f : Nat} (ha : alive s = true) (hf : s.power.fallback = false)
    (hto : (bayAt s b).stepTo = some f) (hd : (bayAt s b).droop = false) :
    ∃ y, exec (.muxSwitch b) s = .next (watchAllFixed (lower (setBay s b y) b (tableMv b (bayAt s b) f))) ∧
      y.setPoint = f ∧ y.stepTo = none := by
  rw [exec_muxSwitch, execMuxSwitch]
  simp only [hto, hd, hf, ha, Bool.false_eq_true, Bool.true_eq_false, or_self, if_false]
  exact ⟨_, rfl, rfl, rfl⟩

theorem muxSwitch_switches {f : Nat} (ha : alive s = true) (hf : s.power.fallback = false)
    (hto : (bayAt s b).stepTo = some f) (hd : (bayAt s b).droop = false) :
    Completes (.muxSwitch b) s (fun t => (bayAt t b).setPoint = f ∧ (bayAt t b).stepTo = none ∧ t.mem = s.mem ∧ t.cores = s.cores) := by
  obtain ⟨y, hexec, hpoint, hstep⟩ := exec_muxSwitch_switches ha hf hto hd
  obtain ⟨u, l, hlower⟩ := bayAt_lower (setBay s b y) b (tableMv b (bayAt s b) f)
  obtain ⟨e, hwatch⟩ := bayAt_watchAllFixed (lower (setBay s b y) b (tableMv b (bayAt s b) f)) b
  rw [hlower, bayAt_setBay_same] at hwatch
  refine ⟨_, hexec, ?_, ?_, by simp, ?_⟩
  · rw [hwatch, hpoint]
  · rw [hwatch, hstep]
  · rw [(OnlyBays.watchAllFixed _).cores, lower_cores, setBay_cores]

end Step

/-- Settles O32: a step is a lock (`frequencyStep_locks`), and the mux switches to it where no droop holds it. -/
theorem frequencySteps : Obligations.FrequencySteps := by
  unfold Obligations.FrequencySteps
  exact fun s b ha hf => ⟨frequencyStep_locks ha hf, fun f => muxSwitch_switches ha hf,
    fun f hto hd => ⟨s, exec_muxSwitch_droop hto hd, rfl⟩⟩

end Sys2Proof.Machine

/-! ## The power loops, energy and the regulators (R320, R322 to R324, R326, R452) -/

namespace Sys2Proof.Machine

/-! ### The fast loop -/

@[simp] theorem capMore_cores (s : State) : (capMore s).cores = s.cores := by
  fun_cases capMore <;> rfl

theorem OnlyBays.countThrottle (s : State) : OnlyBays s (countThrottle s) := foldl (fun _ _ => bump ..) _ s

/-- The state in which the fast loop has added its estimates. -/
def fastSummed (s : State) (raw : List Nat) (uncore : Nat) : State :=
  let w := s.power
  let n := w.pkgCount + 1
  let p := packageMw s raw uncore
  { s with power := { w with
    estSum := (List.range 4).map (fun d => nth w.estSum d 0 + dieEst s raw d)
    estCount := w.estCount + 1
    pkgSum := if n = 1000 then 0 else w.pkgSum + p
    pkgCount := if n = 1000 then 0 else n
    package := if n = 1000 then (w.pkgSum + p) / 1000 else w.package } }

/-- The levers that the fast loop pulls at package power `p` under the limit `l`. -/
def fastLevers (s : State) (p l : Rat) : State :=
  if l < p then { capMore s with power := { (capMore s).power with lowSince := none } }
  else if p < l * mkRat 95 100 then capLess s
  else { s with power := { s.power with lowSince := none } }

section Levers
variable {s : State} {p l : Rat}

theorem fastLevers_mem : (fastLevers s p l).mem = s.mem := by
  fun_cases fastLevers
  · exact capMore_mem s
  · rfl
  · rfl

theorem fastLevers_cores : (fastLevers s p l).cores = s.cores := by
  fun_cases fastLevers
  · exact capMore_cores s
  · rfl
  · rfl

/-- Above the limit lever 1 rises a step, where it has one left (R322). -/
theorem fastLevers_above (h : l < p) (ht : s.power.throttle < 12) :
    (fastLevers s p l).power = { s.power with throttle := s.power.throttle + 1, lowSince := none } := by
  have hmore : capMore s = { s with power := { s.power with throttle := s.power.throttle + 1 } } := if_pos ht
  rw [fastLevers, if_pos h, hmore]

/-- Below 95 % of it the levers fall back. -/
theorem fastLevers_below (hl : 0 ≤ l) (h : p < l * (95 / 100)) : fastLevers s p l = capLess s := by
  have hpct : mkRat 95 100 = 95 / 100 := Rat.mkRat_eq_div 95 100
  have hnot : ¬l < p := by linarith
  rw [fastLevers, if_neg hnot, hpct, if_pos h]

theorem fastLevers_between (h : l * (95 / 100) ≤ p) (h' : p ≤ l) :
    fastLevers s p l = { s with power := { s.power with lowSince := none } } := by
  have hpct : mkRat 95 100 = 95 / 100 := Rat.mkRat_eq_div 95 100
  rw [fastLevers, if_neg (not_lt.2 h'), hpct, if_neg (not_lt.2 h)]

end Levers

/-- The state in which the fast loop has added its levers to their sums. -/
def fastCounted (s : State) : State :=
  { s with power := { s.power with
    tSum := s.power.tSum + s.power.throttle, tfSum := s.power.tfSum + s.power.throttleFixed } }

theorem exec_fastLoop_levers (raw : List Nat) (uncore : Nat) (s : State) : exec (.fastLoop raw uncore) s =
    .next (watchAllFixed (countThrottle (fastCounted
      (fastLevers (fastSummed s raw uncore) (packageMw s raw uncore) (limitMw s : Nat))))) := rfl

/-- Between two power states the levers stand alike. -/
structure SameLevers (w w' : Power) : Prop where
  throttle : w'.throttle = w.throttle
  fixed : w'.throttleFixed = w.throttleFixed
  hbm : w'.hbmHalf = w.hbmHalf
  low : w'.lowSince = w.lowSince

/-- The fast loop ends in the levers it pulls: what it counts and watches after them leaves them. -/
theorem fastLoop_ends (raw : List Nat) (uncore : Nat) (s : State) :
    Completes (.fastLoop raw uncore) s (fun t => t.mem = s.mem ∧ t.cores = s.cores ∧
      SameLevers (fastLevers (fastSummed s raw uncore) (packageMw s raw uncore) (limitMw s : Nat)).power t.power) := by
  have hafter : ∀ u, OnlyBays u (watchAllFixed (countThrottle u)) := fun u => (OnlyBays.countThrottle u).trans (.watchAllFixed _)
  obtain ⟨⟨l, hl⟩, hmem, hcores, -⟩ := hafter (fastCounted
    (fastLevers (fastSummed s raw uncore) (packageMw s raw uncore) (limitMw s : Nat)))
  refine ⟨_, exec_fastLoop_levers raw uncore s, hmem.trans fastLevers_mem, hcores.trans fastLevers_cores, ?_⟩
  rw [hl]
  exact ⟨rfl, rfl, rfl, rfl⟩

/-- The fast loop by where the package power stands (R320, R322). -/
theorem fastLoop_pulls (raw : List Nat) (uncore : Nat) (s : State) :
    Completes (.fastLoop raw uncore) s (fun t => t.mem = s.mem ∧ t.cores = s.cores ∧
      ((limitMw s : Rat) < packageMw s raw uncore → s.power.throttle < 12 → t.power.throttle = s.power.throttle + 1 ∧
        t.power.throttleFixed = s.power.throttleFixed) ∧
      (packageMw s raw uncore < (limitMw s : Rat) * (95 / 100) → t.power.hbmHalf = false ∧
        t.power.throttleFixed = s.power.throttleFixed - 1 ∧
        t.power.throttle = if 0 < s.power.throttleFixed then s.power.throttle else s.power.throttle - 1) ∧
      ((limitMw s : Rat) * (95 / 100) ≤ packageMw s raw uncore → packageMw s raw uncore ≤ (limitMw s : Rat) →
        t.power.throttle = s.power.throttle ∧ t.power.throttleFixed = s.power.throttleFixed ∧ t.power.lowSince = none)) := by
  obtain ⟨t, hexec, hmem, hcores, hlevers⟩ := fastLoop_ends raw uncore s
  refine ⟨t, hexec, hmem, hcores, fun habove ht => ?_, fun hbelow => ?_, fun hlow hhigh => ?_⟩
  · rw [fastLevers_above (s := fastSummed s raw uncore) habove ht] at hlevers
    exact ⟨hlevers.throttle, hlevers.fixed⟩
  · rw [fastLevers_below (Nat.cast_nonneg _) hbelow] at hlevers
    exact ⟨hlevers.hbm, hlevers.fixed, hlevers.throttle⟩
  · rw [fastLevers_between hlow hhigh] at hlevers
    exact ⟨hlevers.throttle, hlevers.fixed, hlevers.low⟩

/-! ### The slow loop -/

theorem nth_setNth_same {α : Type} {l : List α} {i : Nat} (h : i < l.length) (v d : α) : nth (setNth l i v) i d = v := by
  simp [nth, setNth, h]

theorem nth_setNth_other {α : Type} {i j : Nat} (h : i ≠ j) (l : List α) (v d : α) : nth (setNth l i v) j d = nth l j d := by
  simp [nth, setNth, List.getElem?_set_ne h]

@[simp] theorem setNth_length {α : Type} (l : List α) (i : Nat) (v : α) : (setNth l i v).length = l.length := List.length_set

/-- The estimate of a die over the period of the slow loop. -/
def meanEst (w : Power) (d : Nat) : Rat := nth w.estSum d 0 / (w.estCount : Nat)

/-- A die without an estimate is passed over. -/
theorem slowDie_idle {s : State} {d : Nat} (l : List (Option Nat)) (h : s.power.estCount = 0 ∨ meanEst s.power d ≤ 0) :
    slowDie s l d = s := if_pos h

@[simp] theorem noteOverlay_power (s : State) : (noteOverlay s).power = s.power := rfl

/-- Any other gets its basis and its suspect state: one that reads less than half its estimate 1.1 times the estimate, and
SUSPECT (R323, R452). -/
theorem slowDie_sets {s : State} {d : Nat} (l : List (Option Nat)) (h : ¬(s.power.estCount = 0 ∨ meanEst s.power d ≤ 0)) :
    ∃ x sus, (slowDie s l d).power.k = setNth s.power.k d x ∧ (slowDie s l d).power.suspect = setNth s.power.suspect d sus ∧
      (slowDie s l d).power.estSum = s.power.estSum ∧ (slowDie s l d).power.estCount = s.power.estCount ∧
      ∀ m, nth l d none = some m → (m : Rat) / meanEst s.power d < 1 / 2 → x = 11 / 10 ∧ sus = true := by
  have hne : meanEst s.power d ≠ 0 := (not_le.1 (not_or.1 h).2).ne'
  unfold meanEst at h hne ⊢
  simp only [slowDie, if_neg h, apply_ite State.power, raise_power, noteOverlay_power, ite_self]
  refine ⟨_, _, rfl, rfl, trivial, trivial, fun m hm hlow => ?_⟩
  have hhalf : mkRat 1 2 = 1 / 2 := Rat.mkRat_eq_div 1 2
  have htenth : mkRat 11 10 = 11 / 10 := Rat.mkRat_eq_div 11 10
  simp only [hm, hhalf, hlow, if_true, decide_true, Bool.true_or, and_true, htenth]
  exact mul_div_cancel_left₀ _ hne

/-- Between two states the sums of the slow loop stand alike, and what it holds of die `d`. -/
structure KeepsDie (s t : State) (d : Nat) : Prop where
  estSum : t.power.estSum = s.power.estSum
  estCount : t.power.estCount = s.power.estCount
  kLength : t.power.k.length = s.power.k.length
  suspectLength : t.power.suspect.length = s.power.suspect.length
  k : nth t.power.k d 1 = nth s.power.k d 1
  suspect : nth t.power.suspect d false = nth s.power.suspect d false

theorem KeepsDie.refl (s : State) (d : Nat) : KeepsDie s s d := ⟨rfl, rfl, rfl, rfl, rfl, rfl⟩

theorem KeepsDie.trans {s t u : State} {d : Nat} (h : KeepsDie s t d) (h' : KeepsDie t u d) : KeepsDie s u d :=
  ⟨h'.estSum.trans h.estSum, h'.estCount.trans h.estCount, h'.kLength.trans h.kLength,
    h'.suspectLength.trans h.suspectLength, h'.k.trans h.k, h'.suspect.trans h.suspect⟩

/-- A die passed over or treated is nothing to any other. -/
theorem slowDie_keeps (s : State) (l : List (Option Nat)) {q d : Nat} (hq : q ≠ d) : KeepsDie s (slowDie s l q) d := by
  by_cases h : s.power.estCount = 0 ∨ meanEst s.power q ≤ 0
  · rw [slowDie_idle l h]
    exact .refl s d
  · obtain ⟨x, sus, hk, hsus, hsum, hcount, -⟩ := slowDie_sets l h
    exact ⟨hsum, hcount, by rw [hk, setNth_length], by rw [hsus, setNth_length], by rw [hk, nth_setNth_other hq],
      by rw [hsus, nth_setNth_other hq]⟩

theorem foldl_slowDie_keeps (l : List (Option Nat)) {d : Nat} {ds : List Nat} (hd : ∀ q ∈ ds, q ≠ d) (s : State) :
    KeepsDie s (ds.foldl (fun s q => slowDie s l q) s) d :=
  List.foldlRecOn (motive := fun t => KeepsDie s t d) _ _ (.refl s d) fun t ht q hq => ht.trans (slowDie_keeps t l (hd q hq))

/-- A die that reads less than half its estimate is SUSPECT at the end of the loop over the dies (R323, R452). -/
theorem foldl_slowDie_low {s : State} {l : List (Option Nat)} {d m : Nat} (hd : d < 4) (hk : s.power.k.length = 4)
    (hsus : s.power.suspect.length = 4) (hm : nth l d none = some m) (hcount : 0 < s.power.estCount)
    (hsum : 0 < nth s.power.estSum d 0) (hlow : (m : Rat) < nth s.power.estSum d 0 / (s.power.estCount : Rat) / 2) :
    nth ((List.range 4).foldl (fun s q => slowDie s l q) s).power.suspect d false = true ∧
      nth ((List.range 4).foldl (fun s q => slowDie s l q) s).power.k d 1 = 11 / 10 := by
  obtain ⟨before, after, hsplit⟩ := List.append_of_mem (List.mem_range.2 hd)
  obtain ⟨-, hnodup, hdisj⟩ := List.nodup_append.1 (hsplit ▸ List.nodup_range)
  rw [hsplit, List.foldl_append, List.foldl_cons]
  have hbefore := foldl_slowDie_keeps l (fun q hq => hdisj q hq d List.mem_cons_self) s
  generalize before.foldl (fun s q => slowDie s l q) s = t at hbefore ⊢
  have hafter := foldl_slowDie_keeps l (ds := after) (d := d)
    (fun q hq e => (List.nodup_cons.1 hnodup).1 (e ▸ hq)) (slowDie t l d)
  have hmean : meanEst t.power d = nth s.power.estSum d 0 / (s.power.estCount : Rat) := by
    rw [meanEst, hbefore.estSum, hbefore.estCount]
  have hpos : 0 < meanEst t.power d := hmean ▸ div_pos hsum (Nat.cast_pos.2 hcount)
  have hgo : ¬(t.power.estCount = 0 ∨ meanEst t.power d ≤ 0) := by
    rw [hbefore.estCount]
    exact not_or.2 ⟨hcount.ne', not_le.2 hpos⟩
  obtain ⟨x, sus, htk, htsus, -, -, hread⟩ := slowDie_sets l hgo
  obtain ⟨rfl, rfl⟩ := hread m hm (by rw [div_lt_iff₀ hpos, hmean]; linarith)
  rw [hafter.suspect, hafter.k, htsus, htk]
  exact ⟨nth_setNth_same (by rw [hbefore.suspectLength, hsus]; exact hd) .., nth_setNth_same (by rw [hbefore.kLength, hk]; exact hd) ..⟩

theorem OnlyBays.lever2 (s : State) (b : Nat) (down up : Bool) : OnlyBays s (lever2 s b down up) := by
  fun_cases Machine.lever2
  · exact setBay ..
  · exact setBay ..
  · exact refl s

theorem OnlyBays.lever2All (s : State) : OnlyBays s (lever2All s) :=
  foldl (fun s b => by split <;> exact lever2 ..) _ s

/-- The state in which the slow loop has its sums to begin anew. -/
def sumsCleared (s : State) : State :=
  { s with power := { s.power with estSum := [0, 0, 0, 0], estCount := 0, tSum := 0, tfSum := 0 } }

theorem OnlyBays.sumsCleared {s t : State} (h : OnlyBays s t) : OnlyBays (sumsCleared s) (sumsCleared t) := by
  obtain ⟨⟨l, hl⟩, hmem, hcores, halert⟩ := h
  exact ⟨⟨l, by simp only [Machine.sumsCleared, hl]⟩, hmem, hcores, halert⟩

theorem exec_slowLoop_runs {s : State} (l : List (Option Nat)) (hf : s.power.fallback = false) (ha : alive s = true) :
    exec (.slowLoop l) s =
      .next (watchAllFixed (sumsCleared (lever2All ((List.range 4).foldl (fun s d => slowDie s l d) s)))) := by
  rw [exec_slowLoop, execSlowLoop, if_neg (by simp [hf, ha])]
  rfl

theorem slowLoop_runs {s : State} (l : List (Option Nat)) (hf : s.power.fallback = false) (ha : alive s = true) :
    Completes (.slowLoop l) s (fun t => t.mem = s.mem ∧
      t.power.estCount = 0 ∧ t.power.estSum = [0, 0, 0, 0] ∧ t.power.tSum = 0 ∧
      ∀ d m, d < 4 → s.power.k.length = 4 → s.power.suspect.length = 4 → nth l d none = some m → 0 < s.power.estCount →
        0 < nth s.power.estSum d 0 → (m : Rat) < nth s.power.estSum d 0 / (s.power.estCount : Rat) / 2 →
        nth t.power.suspect d false = true ∧ nth t.power.k d 1 = 11 / 10) := by
  have hrun := exec_slowLoop_runs l hf ha
  have hdies : ((List.range 4).foldl (fun s d => slowDie s l d) s).mem = s.mem := foldl_mem (fun s d => slowDie_mem s l d) _ s
  have hlow := @foldl_slowDie_low s l
  generalize (List.range 4).foldl (fun s d => slowDie s l d) s = u at hrun hdies hlow
  obtain ⟨⟨bays, hpower⟩, hmem, -, -⟩ := (OnlyBays.lever2All u).sumsCleared.trans (.watchAllFixed _)
  refine ⟨_, hrun, hmem.trans hdies, ?_⟩
  rw [hpower]
  exact ⟨rfl, rfl, rfl, fun d m => hlow⟩

/-! ### Energy -/

/-- Energy charged to a context that exists is added to its own (R326). -/
theorem charge_context {s : State} {k : Nat} (e : Nat) (hk : k < 64) (hs : (ctxOf s k).st ≠ .free) :
    charge s k e = setCtx s k { ctxOf s k with energy := (ctxOf s k).energy + e } := if_pos ⟨hk, hs⟩

/-- Energy of no context is overhead. -/
theorem charge_rest (s : State) (e : Nat) :
    charge s noCtx e = { s with power := { s.power with overhead := s.power.overhead + e } } :=
  if_neg fun h => absurd h.1 (by decide)

theorem energyAttribution_grains {s : State} {k : Nat} (e rest : Nat) (hk : k < 64) (hs : (ctxOf s k).st ≠ .free) :
    Completes (.energyAttribution [] [(k, e)] rest) s (fun t =>
      (ctxOf t k).energy = (ctxOf s k).energy + e ∧ t.power.overhead = s.power.overhead + rest ∧ t.mem = s.mem) := by
  refine ⟨charge (charge s k e) noCtx rest, rfl, ?_⟩
  rw [charge_rest, charge_context e hk hs]
  exact ⟨congrArg Ctx.energy (ctxOf_setCtx ..), rfl, rfl⟩

/-- The energy of a core goes to its resident, scaled by the calibration of its die. -/
theorem energyAttribution_core {s : State} {k p : Nat} (e rest : Nat) (hp : ctxOnCore s p = k) (hk : k < 64)
    (hs : (ctxOf s k).st ≠ .free) :
    Completes (.energyAttribution [(p, e)] [] rest) s (fun t =>
      (ctxOf t k).energy = (ctxOf s k).energy + (kOf s (p / 84) * nth s.power.gains (p / 84) 1 * (e : Rat)).floor.toNat ∧
      t.power.overhead = s.power.overhead + rest) := by
  refine ⟨charge (charge s (ctxOnCore s p) (kOf s (p / 84) * nth s.power.gains (p / 84) 1 * (e : Rat)).floor.toNat) noCtx rest,
    rfl, ?_⟩
  rw [hp, charge_rest, charge_context _ hk hs]
  exact ⟨congrArg Ctx.energy (ctxOf_setCtx ..), rfl⟩

/-- Settles O34: the fast loop by where the package power stands (`fastLoop_pulls`), the slow loop (`slowLoop_runs`), the
charges of energy, and the status of the regulators, which is free. -/
theorem powerLoops : Obligations.PowerLoops := by
  unfold Obligations.PowerLoops
  exact ⟨fun s raw uncore => fastLoop_pulls raw uncore s, fun s => ⟨fun l => slowLoop_runs l,
    fun k e rest => energyAttribution_grains e rest, fun k p e rest => energyAttribution_core e rest,
    _, exec_pmbusAlert s, rfl, rfl, rfl, rfl, rfl⟩⟩

end Sys2Proof.Machine

/-! ## Heat, the emergency state and the fallback (R328 to R332) -/

namespace Sys2Proof.Machine

/-! ### The emergency state settled -/

theorem settleEmergency_enters {s : State} (h : emergencyNow s = true) (ha : s.power.emActive = false) :
    settleEmergency s =
      fire2 { s with power := { s.power with emActive := true, emAt := s.clock.ns }, board := { s.board with alertN := false } } := by
  simp [settleEmergency, h, ha]

theorem settleEmergency_leaves {s : State} (h : emergencyNow s = false) (ha : s.power.emActive = true) :
    (settleEmergency s).power = { s.power with emActive := false } := by
  simp [settleEmergency, h, ha]

/-- Settled or not, the emergency state is a matter of its own two fields. -/
theorem settleEmergency_power (s : State) : ∃ a n, (settleEmergency s).power = { s.power with emActive := a, emAt := n } := by
  fun_cases settleEmergency <;> exact ⟨_, _, rfl⟩

/-- Between two states the emergency state is settled: what causes it, memory and the set points stand alike. -/
structure Settled (u t : State) : Prop where
  emergency : t.power.emergency = u.power.emergency
  fastLow : t.power.fastLow = u.power.fastLow
  fallback : t.power.fallback = u.power.fallback
  planned : t.power.planned = u.power.planned
  mem : t.mem = u.mem
  setPoint : ∀ b, (bayAt t b).setPoint = (bayAt u b).setPoint

theorem Settled.held550 {u t : State} (h : Settled u t) : held550 t = held550 u := by
  rw [Machine.held550, h.emergency, h.fastLow, Machine.held550]

theorem settled_settleEmergency (u : State) : Settled u (watchAllFixed (settleEmergency u)) := by
  obtain ⟨⟨l, hl⟩, hmem, -, -⟩ := OnlyBays.watchAllFixed (settleEmergency u)
  obtain ⟨a, n, hsettle⟩ := settleEmergency_power u
  have hpoint : ∀ b, (bayAt (settleEmergency u) b).setPoint = (bayAt u b).setPoint := fun b => by rw [bayAt, hsettle, bayAt]
  rw [hsettle] at hl
  exact ⟨by rw [hl], by rw [hl], by rw [hl], by rw [hl], hmem.trans (settleEmergency_mem u),
    fun b => (setPoint_watchAllFixed ..).trans (hpoint b)⟩

/-! ### Commands of the emergency state -/

section Settles
variable {i : Instr} {s u : State} {P : State → Prop} (h : exec i s = .next (watchAllFixed (settleEmergency u)))
include h

theorem completes_settled (hP : ∀ t, Settled u t → P t) : Completes i s P := ⟨_, h, hP _ (settled_settleEmergency u)⟩

/-- With a cause and not yet active the emergency state is entered, ALERT_N low (R331). -/
theorem completes_entered (hnow : emergencyNow u = true) (ha : u.power.emActive = false)
    (hP : ∀ t, Settled u t → t.power.emActive = true → t.board.alertN = false → P t) : Completes i s P := by
  obtain ⟨⟨l, hl⟩, -, -, halert⟩ := OnlyBays.watchAllFixed (settleEmergency u)
  refine ⟨_, h, hP _ (settled_settleEmergency u) ?_ (halert ?_)⟩
  · rw [hl, settleEmergency_enters hnow ha]
    rfl
  · rw [settleEmergency_enters hnow ha]
    rfl

/-- Without a cause any longer it is left. -/
theorem completes_left (hnow : emergencyNow u = false) (ha : u.power.emActive = true)
    (hP : ∀ t, Settled u t → t.power.emActive = false → P t) : Completes i s P := by
  obtain ⟨l, hl⟩ := (OnlyBays.watchAllFixed (settleEmergency u)).power
  refine ⟨_, h, hP _ (settled_settleEmergency u) ?_⟩
  rw [hl, settleEmergency_leaves hnow ha]

end Settles

section Emergency
variable {s : State}

theorem thermalEmergency_enters {n : Nat} {temp : Int} (hn : n < 61) (ht : (if n < 53 then 11000 else 10500) ≤ temp)
    (he : s.power.emergency = false) (ha : s.power.emActive = false) :
    Completes (.thermalEmergency n temp) s (fun t =>
      t.power.emergency = true ∧ t.power.emActive = true ∧ t.board.alertN = false ∧ held550 t = true ∧ t.mem = s.mem) := by
  have hgo : ¬(61 ≤ n ∨ temp < (if n < 53 then 11000 else 10500) ∨ s.power.emergency = true) := by
    simp [Nat.not_le.2 hn, Int.not_lt.2 ht, he]
  refine completes_entered ((exec_thermalEmergency ..).trans (if_neg hgo)) (by simp [emergencyNow]) ha
    fun t hs hactive halert => ?_
  exact ⟨hs.emergency, hactive, halert, hs.held550, hs.mem⟩

theorem thermalEmergencyRelease_leaves {t0 : Nat} (hc : s.power.emCoolSince = some t0) (he : s.power.emergency = true)
    (hdue : t0 + 100000000 ≤ s.clock.ns) (hfast : s.power.fastLow = false) (hf : s.power.fallback = false)
    (ha : s.power.emActive = true) :
    Completes .thermalEmergencyRelease s (fun t => t.power.emergency = false ∧ t.power.emActive = false ∧ t.mem = s.mem) := by
  have hexec : exec .thermalEmergencyRelease s =
      .next (watchAllFixed (settleEmergency { s with power := { s.power with emergency := false } })) := by
    simp only [exec_thermalEmergencyRelease, execThermalEmergencyRelease, hc]
    exact if_pos ⟨he, hdue⟩
  exact completes_left hexec (by simp [emergencyNow, hfast, hf]) ha fun t hs hactive => ⟨hs.emergency, hactive, hs.mem⟩

theorem fastThrottle_holds (h : s.power.fastLow = false) :
    Completes .fastThrottle s (fun t => t.power.fastLow = true ∧ held550 t = true ∧ t.mem = s.mem) :=
  completes_settled ((exec_fastThrottle s).trans (if_neg (by simp [h]))) fun t hs =>
    ⟨hs.fastLow, hs.held550.trans (Bool.or_true _), hs.mem⟩

theorem fastThrottleRelease_frees (h : s.power.fastLow = true) :
    Completes .fastThrottleRelease s (fun t => t.power.fastLow = false ∧ t.mem = s.mem ∧ held550 t = s.power.emergency) :=
  completes_settled ((exec_fastThrottleRelease s).trans (if_neg (by simp [h]))) fun t hs =>
    ⟨hs.fastLow, hs.mem, hs.held550.trans (Bool.or_false _)⟩

theorem pmuFallback_takes {n : Nat} (hn : 3 ≤ n) (h : s.power.fallback = false) :
    Completes (.pmuFallback n) s (fun t => t.power.fallback = true ∧ t.power.planned = false ∧ t.mem = s.mem ∧
      ∀ b, (bayAt t b).setPoint = (bayAt s b).setPoint) :=
  completes_settled ((exec_pmuFallback ..).trans (if_neg (by simp [h, Nat.not_lt.2 hn]))) fun t hs =>
    ⟨hs.fallback, hs.planned, hs.mem, hs.setPoint⟩

theorem pmuResume_returns (h : s.power.fallback = true) :
    Completes .pmuResume s (fun t => t.power.fallback = false ∧ t.mem = s.mem ∧
      ∀ b, (bayAt t b).setPoint = (bayAt s b).setPoint) :=
  completes_settled ((exec_pmuResume s).trans (if_neg (by simp [h]))) fun t hs => ⟨hs.fallback, hs.mem, hs.setPoint⟩

end Emergency

/-! ### Samples of the sensors -/

/-- The throttle of a stack released is a matter of the stacks' own fields. -/
theorem stackCool_power (s : State) (n : Nat) (t : Int) : ∃ hot cool,
    (stackCool s n t).power = { s.power with hbmHot := hot, hbmCool := cool } := by
  fun_cases stackCool <;> exact ⟨_, _, rfl⟩

theorem foldl_stackCool_power (hbm : List Int) (l : List Nat) (s : State) : ∃ hot cool,
    (l.foldl (fun s n => stackCool s n (nth hbm n 0)) s).power = { s.power with hbmHot := hot, hbmCool := cool } :=
  List.foldlRecOn (motive := fun t : State => ∃ hot cool, t.power = { s.power with hbmHot := hot, hbmCool := cool }) _ _ ⟨_, _, rfl⟩
    fun t ⟨_, _, ht⟩ n _ => by
      obtain ⟨hot, cool, h⟩ := stackCool_power t n (nth hbm n 0)
      exact ⟨hot, cool, by rw [h, ht]⟩

theorem OnlyBays.heatDown (s : State) (dies : List Int) : OnlyBays s (heatDown s dies) :=
  foldl (fun s b => by
    dsimp only
    split
    · exact setBay ..
    · exact refl s) _ s

theorem OnlyBays.heatUp (s : State) : OnlyBays s (heatUp s) := foldl (fun _ _ => setBay ..) _ s

/-- A sample sets the throttle level, held by a reading of 100 °C or more, and its times; then it moves thermal limits of bays
(R328). -/
theorem throttleLevel_moves (s : State) (dies : List Int) : ∃ u cool on last,
    u.power = { s.power with coolSince := cool, throttled := on, lastStep := last } ∧ (10000 ≤ hottest dies → on = true) ∧
      OnlyBays u (throttleLevel s dies) := by
  unfold throttleLevel
  extract_lets w now tj cool rel hot on due s1 i s2
  have hpower : s2.power = s1.power := by
    dsimp only [s2]
    split <;> rfl
  refine ⟨s2, cool, on, _, hpower, fun h => by simp [on, hot, tj, h], ?_⟩
  split_ifs
  · exact .heatDown ..
  · exact .heatUp ..
  · exact .refl _

/-- The state in which a sample's readings are kept, with the time since which they have been cool. -/
def readingsKept (s : State) (dies hbm : List Int) : State :=
  { s with power := { s.power with
    temps := dies, stackT := (List.range 8).map (fun i => nth hbm i 0), tj := hottest dies
    emCoolSince := if decide (hottest dies ≤ 10500) && hbm.all (fun t => decide (t ≤ 10000)) then
      (match s.power.emCoolSince with | none => some s.clock.ns | t => t) else none } }

section Heat
variable {s : State}

theorem exec_thermalSample_runs (dies hbm : List Int) (hf : s.power.fallback = false) (ha : alive s = true) :
    exec (.thermalSample dies hbm) s = .next (watchAllFixed (throttleLevel
      ((List.range 8).foldl (fun s n => stackCool s n (nth hbm n 0)) (readingsKept s dies hbm)) dies)) := by
  have hgo : ¬(s.power.fallback || !alive s) = true := by simp [hf, ha]
  rw [exec_thermalSample, execThermalSample, if_neg hgo]
  rfl

theorem thermalSample_keeps (dies hbm : List Int) (hf : s.power.fallback = false) (ha : alive s = true) :
    Completes (.thermalSample dies hbm) s (fun t =>
      t.power.temps = dies ∧ t.power.tj = hottest dies ∧ t.mem.cells = s.mem.cells ∧
      (10000 ≤ hottest dies → t.power.throttled = true)) := by
  have hrun := exec_thermalSample_runs dies hbm hf ha
  have hcells := foldl_cells (fun s n => stackCool_cells s n (nth hbm n 0)) (List.range 8) (readingsKept s dies hbm)
  obtain ⟨hot, cool, hstacks⟩ := foldl_stackCool_power hbm (List.range 8) (readingsKept s dies hbm)
  generalize (List.range 8).foldl (fun s n => stackCool s n (nth hbm n 0)) (readingsKept s dies hbm) = v at hrun hcells hstacks
  obtain ⟨u, since, on, last, hlevel, hon, hbays⟩ := throttleLevel_moves v dies
  obtain ⟨l, hpower⟩ := (hbays.trans (.watchAllFixed _)).power
  rw [hlevel, hstacks] at hpower
  refine ⟨_, hrun, ?_, ?_, ?_, ?_⟩
  · rw [hpower]; rfl
  · rw [hpower]; rfl
  · rw [watchAllFixed_mem, throttleLevel_mem, hcells]; rfl
  · rw [hpower]; exact hon

theorem hbmThrottle_halves {n : Nat} {temp : Int} (hn : n < 8) (ht : 9500 ≤ temp) (hh : s.power.hbmHot.elem n = false) :
    Completes (.hbmThrottle n temp) s (fun t => t.mem.halfRate = addNat s.mem.halfRate n ∧ t.mem.cells = s.mem.cells ∧
      (t.obs.log.getLast?.map (fun e => (e.code, e.unit))) = some (0x0608, unitChan (32 * n))) := by
  have hgo : ¬(8 ≤ n ∨ temp < 9500 ∨ s.power.hbmHot.elem n = true) := by
    rw [hh]
    simp [Nat.not_le.2 hn, Int.not_lt.2 ht]
  exact ⟨_, (exec_hbmThrottle ..).trans (if_neg hgo), rfl, rfl, raise_event ..⟩

/-- No rule of R387 moves an event of class X to another. -/
theorem mkEvent_clsX (s : State) (code k u : Nat) (p : List Byte) : (mkEvent s code clsX k u p).cls = clsX := by
  change (ruling s code clsX k u).cls = clsX
  unfold ruling
  split
  · rfl
  · have hJ : clsX ≠ clsJ := by decide
    have hD : clsX ≠ clsD := by decide
    have hV : clsX ≠ clsV := by decide
    simp only [hJ, hD, hV, lt_irrefl, false_and, and_false, or_self, if_false]
    split_ifs <;> rfl

/-- An event of class X asserts ALERT_N, stops every bay clock and is fatal (R379). -/
theorem raise_clsX (s : State) (code k u : Nat) (p : List Byte) :
    (raise s code clsX k u p).board = { s.board with alertN := false, bayStop := List.range 16 } ∧
      (raise s code clsX k u p).obs.fatal = true := by
  have hx := mkEvent_clsX s code k u p
  have hstay : staysInHandling (mkEvent s code clsX k u p) = false := by simp [staysInHandling, hx]
  simp [raise, raiseOn, hx, hstay]

theorem thermalTrip_stops {n : Nat} {temp : Int} (hn : n < 53) (ht : 12000 ≤ temp) (hl : s.board.tripLatch = false) :
    Completes (.thermalTrip n temp) s (fun t => t.board.tripLatch = true ∧ t.board.thermN = false ∧ t.board.alertN = false ∧
      t.board.bayStop = List.range 16 ∧ t.obs.fatal = true ∧ t.mem = s.mem) := by
  have hgo : ¬(53 ≤ n ∨ temp < 12000 ∨ s.board.tripLatch = true) := by
    simp [Nat.not_le.2 hn, Int.not_lt.2 ht, hl]
  refine ⟨_, (exec_thermalTrip ..).trans (if_neg hgo), ?_⟩
  obtain ⟨hboard, hfatal⟩ := raise_clsX
    { s with board := { s.board with tripLatch := true, thermN := false, tripSaved := some (n, temp) } } 0x0607 noCtx
    (unitSensor n) (p4 n ++ pTemp temp)
  rw [hboard]
  exact ⟨rfl, rfl, rfl, rfl, hfatal, rfl⟩

end Heat

/-- Settles O35: the samples and trips of the sensors, then each command that enters or leaves the emergency state, which is
settled after it (`settled_settleEmergency`). -/
theorem heatAndEmergency : Obligations.HeatAndEmergency := by
  unfold Obligations.HeatAndEmergency
  exact ⟨fun s => ⟨thermalSample_keeps, fun n temp => hbmThrottle_halves, fun n temp => thermalTrip_stops⟩,
    fun s => ⟨fun n temp => thermalEmergency_enters,
      fun t0 hc he hdue hfast hf ha _ => thermalEmergencyRelease_leaves hc he hdue hfast hf ha,
      fastThrottle_holds, fastThrottleRelease_frees, fun n => pmuFallback_takes, pmuResume_returns⟩⟩

end Sys2Proof.Machine

/-! ## The PLDM endpoint (R320, R321) -/

namespace Sys2Proof.Machine

/-! ### Responses -/

section Pldm
variable {s : State}

theorem pldm_up (h : sidebandUp s = true) (cmd code : Nat) (fields : List Nat) : pldm s cmd code fields =
    .next { s with host := { s.host with pldm := s.host.pldm ++ [cmd :: code :: fields] } } := if_pos h

theorem pldm_down (h : sidebandUp s = false) (cmd code : Nat) (fields : List Nat) : pldm s cmd code fields = .next s :=
  if_neg (by simp [h])

end Pldm

/-- A command does nothing but to answer with one response of a code. -/
def OnlyAnswers (s : State) (c : Nat) (o : Out) : Prop := ∃ code fields, o = pldm s c code fields

namespace OnlyAnswers

theorem of_pldm (s : State) (c code : Nat) (fields : List Nat) : OnlyAnswers s c (pldm s c code fields) := ⟨code, fields, rfl⟩

theorem ite {s : State} {c : Nat} {p : Prop} [Decidable p] {a b : Out} (ha : OnlyAnswers s c a) (hb : OnlyAnswers s c b) :
    OnlyAnswers s c (if p then a else b) := by
  split
  · exact ha
  · exact hb

end OnlyAnswers

/-- The endpoint's commands, each with the code of its responses (DSP0240 and DSP0248). -/
def PldmCommand (i : Instr) (c : Nat) : Prop :=
  (i = .getTid ∧ c = 0x02) ∨ (∃ y, i = .getPldmVersion y ∧ c = 0x03) ∨ (i = .getPldmTypes ∧ c = 0x04) ∨
    (∃ y, i = .getPldmCommands y ∧ c = 0x05) ∨ (i = .getPdrRepositoryInfo ∧ c = 0x50) ∨ (∃ y, i = .getPdr y ∧ c = 0x51) ∨
    (∃ y, i = .getSensorReading y ∧ c = 0x11) ∨ (∃ y, i = .getStateSensorReadings y ∧ c = 0x21) ∨
    (∃ y z, i = .setNumericEffecterValue y z ∧ c = 0x31) ∨ (∃ y, i = .getNumericEffecterValue y ∧ c = 0x32)

theorem execGetPdr_answers (record : Nat) (s : State) : OnlyAnswers s 0x51 (execGetPdr record s) := by
  unfold execGetPdr
  dsimp only
  split
  · exact .of_pldm ..
  · exact .of_pldm ..

/-- A value out of bounds, or for what is no effecter, is refused. -/
theorem execSetNumericEffecterValue_answers {y w : Nat} (h : y = 1 → w < 1200 ∨ 2700 < w) (s : State) :
    OnlyAnswers s 0x31 (execSetNumericEffecterValue y w s) := by
  unfold execSetNumericEffecterValue
  by_cases hy : y = 1
  · rw [if_neg (not_not.2 hy), if_pos (h hy)]
    exact .of_pldm ..
  · rw [if_pos hy]
    exact .of_pldm ..

/-- A command that sets no limit only answers. -/
theorem pldmCommand_answers {i : Instr} {c : Nat} (h : PldmCommand i c)
    (hset : ∀ w, i = .setNumericEffecterValue 1 w → w < 1200 ∨ 2700 < w) (s : State) : OnlyAnswers s c (exec i s) := by
  rcases h with ⟨rfl, rfl⟩ | ⟨y, rfl, rfl⟩ | ⟨rfl, rfl⟩ | ⟨y, rfl, rfl⟩ | ⟨rfl, rfl⟩ | ⟨y, rfl, rfl⟩ | ⟨y, rfl, rfl⟩ |
    ⟨y, rfl, rfl⟩ | ⟨y, w, rfl, rfl⟩ | ⟨y, rfl, rfl⟩
  · exact .of_pldm ..
  · exact .ite (.of_pldm ..) (.of_pldm ..)
  · exact .of_pldm ..
  · exact .ite (.of_pldm ..) (.of_pldm ..)
  · exact .of_pldm ..
  · exact execGetPdr_answers y s
  · exact .ite (.of_pldm ..) (.ite (.of_pldm ..) (.of_pldm ..))
  · exact .ite (.of_pldm ..) (.ite (.of_pldm ..) (.of_pldm ..))
  · exact execSetNumericEffecterValue_answers (fun hy => hset w (by rw [hy])) s
  · exact .ite (.of_pldm ..) (.of_pldm ..)

/-! ### The board power limit -/

@[simp] theorem fireIf_pldm (b : Bool) (h : HostIf) (link : Bool) (v : Nat) : (fireIf b h link v).pldm = h.pldm := by
  unfold fireIf fire
  dsimp only
  split_ifs <;> rfl

@[simp] theorem lostRecs_pldm (h : HostIf) (link : Bool) (n : Nat) : (lostRecs h link n).pldm = h.pldm := by
  unfold lostRecs
  split
  · rfl
  · exact fireIf_pldm ..

@[simp] theorem summarise_pldm (h : HostIf) (link : Bool) (e : Event) : (summarise h link e).pldm = h.pldm := fireIf_pldm ..

/-- An event sends no response. -/
@[simp] theorem raise_pldm (s : State) (code cls k u : Nat) (p : List Byte) : (raise s code cls k u p).host.pldm = s.host.pldm := by
  simp only [raise, raiseOn, fireIf_pldm, lostRecs_pldm]
  split
  · exact summarise_pldm ..
  · rfl

/-- An event touches neither a rail nor PERST_N, on which the endpoint rests. -/
@[simp] theorem sidebandUp_raise (s : State) (code cls k u : Nat) (p : List Byte) : sidebandUp (raise s code cls k u p) = sidebandUp s := by
  simp only [sidebandUp, raise, raiseOn]
  split <;> rfl

/-- The limit of the board set, logged or not: the power state with it, and what the endpoint holds and rests on as it was. -/
theorem setLimit_board (s : State) (w : Nat) : (setLimit s 1 w).power = { s.power with boardLimit := w } ∧
    (setLimit s 1 w).mem = s.mem ∧ (setLimit s 1 w).ctxs = s.ctxs ∧ (setLimit s 1 w).cores = s.cores ∧
    (setLimit s 1 w).host.pldm = s.host.pldm ∧ sidebandUp (setLimit s 1 w) = sidebandUp s := by
  by_cases hw : s.power.boardLimit = w
  · have he : setLimit s 1 w = s := by simp [setLimit, hw]
    rw [he, ← hw]
    exact ⟨rfl, rfl, rfl, rfl, rfl, rfl⟩
  · simp only [setLimit, one_ne_zero, if_false, if_neg hw]
    exact ⟨rfl, rfl, raise_ctxs_of_none (by decide) .., rfl, raise_pldm .., sidebandUp_raise ..⟩

section Limit
variable {s : State} {w : Nat}

theorem setNumericEffecterValue_down (hup : sidebandUp s = false) (hw : 1200 ≤ w) (hw' : w ≤ 2700) :
    exec (.setNumericEffecterValue 1 w) s = .next s := by
  rw [exec_setNumericEffecterValue, execSetNumericEffecterValue, if_neg (by decide), if_neg (by omega), if_neg (by simp [hup])]

theorem setNumericEffecterValue_sets (hup : sidebandUp s = true) (hw : 1200 ≤ w) (hw' : w ≤ 2700) :
    Completes (.setNumericEffecterValue 1 w) s (fun t => t.mem = s.mem ∧ t.ctxs = s.ctxs ∧ t.cores = s.cores ∧
      t.power = { s.power with boardLimit := w } ∧ t.host.pldm = s.host.pldm ++ [[0x31, 0]]) := by
  obtain ⟨hpower, hmem, hctxs, hcores, hpldm, hside⟩ := setLimit_board s w
  have hexec : exec (.setNumericEffecterValue 1 w) s = pldm (setLimit s 1 w) 0x31 plSuccess [] := by
    rw [exec_setNumericEffecterValue, execSetNumericEffecterValue, if_neg (by decide), if_neg (by omega), if_pos hup]
  exact ⟨_, hexec.trans (pldm_up (hside.trans hup) ..), hmem, hctxs, hcores, hpower, congrArg (· ++ [[0x31, 0]]) hpldm⟩

end Limit

/-! ### Readings of the sensors -/

theorem exec_getSensorReading_enabled {s : State} {id : Nat} (h : 1 ≤ id) (h' : id ≤ 11) :
    exec (.getSensorReading id) s = pldm s 0x11 plSuccess [0, sensorReading s id] := by
  rw [exec_getSensorReading, execGetSensorReading, if_neg (by omega), if_neg (by omega)]

/-- The rails have no reading before stage CLOCKS (R321). -/
theorem exec_getSensorReading_unavailable {s : State} {id : Nat} (h : 12 ≤ id) (h' : id ≤ 19) (hs : s.fw.stage < 5) :
    exec (.getSensorReading id) s = pldm s 0x11 plSuccess [2] := by
  rw [exec_getSensorReading, execGetSensorReading, if_neg (by omega), if_pos ⟨h, hs⟩]

/-- What a command sends that is known to answer. -/
theorem pldm_of_exec {s t : State} {i : Instr} {c code : Nat} {fields : List Nat} (hup : sidebandUp s = true) (ht : exec i s = .next t)
    (h : exec i s = pldm s c code fields) : t.host.pldm = s.host.pldm ++ [c :: code :: fields] := by
  rw [ht, pldm_up hup] at h
  injection h with h
  rw [h]

/-- Settles O51: a command sets the limit (`setNumericEffecterValue_sets`) or only answers (`pldmCommand_answers`). -/
theorem sidebandAnswers : Obligations.SidebandAnswers := by
  unfold Obligations.SidebandAnswers
  intro s i c hi
  by_cases hset : ∀ w, i = .setNumericEffecterValue 1 w → w < 1200 ∨ 2700 < w
  · obtain ⟨code, fields, hexec⟩ := pldmCommand_answers hi hset s
    refine ⟨fun hdown => ⟨s, by rw [hexec, pldm_down hdown], rfl⟩, fun hup => ?_⟩
    have hnext := hexec.trans (pldm_up hup c code fields)
    have hreads : ∀ id, 1 ≤ id → id ≤ 11 → i = .getSensorReading id →
        s.host.pldm ++ [c :: code :: fields] = s.host.pldm ++ [[0x11, 0, 0, sensorReading s id]] := by
      rintro id h h' rfl
      exact pldm_of_exec hup hnext (exec_getSensorReading_enabled h h')
    refine ⟨_, hnext, rfl, rfl, rfl, ⟨_, List.cons_ne_nil _ _, rfl⟩, fun _ => rfl, fun w hw h h' => ?_,
      hreads 1 (by decide) (by decide), hreads 10 (by decide) (by decide), hreads 11 (by decide) (by decide), ?_⟩
    · have := hset w hw
      omega
    · rintro n hn hn' hs rfl
      exact pldm_of_exec hup hnext (exec_getSensorReading_unavailable hn hn' hs)
  · simp only [not_forall, not_or, not_lt] at hset
    obtain ⟨w, rfl, hw, hw'⟩ := hset
    obtain rfl : c = 0x31 := by simpa using hi
    refine ⟨fun hdown => ⟨s, setNumericEffecterValue_down hdown hw hw', rfl⟩, fun hup => ?_⟩
    obtain ⟨t, hexec, hmem, hctxs, hcores, hpower, hpldm⟩ := setNumericEffecterValue_sets hup hw hw'
    refine ⟨t, hexec, hmem, hctxs, hcores, ⟨_, List.cons_ne_nil 0 [], hpldm⟩, fun h => ?_, fun v hv _ _ => ?_, nofun, nofun, nofun,
      nofun⟩
    · have := h w rfl
      omega
    · obtain rfl : w = v := by injection hv
      exact ⟨hpower, hpldm⟩

end Sys2Proof.Machine

/-! ## Clocks, droops and margins of a bay (R309, R312, R313, R318, R319, R335, R336) -/

namespace Sys2Proof.Machine

@[simp] theorem bayAt_raise (s : State) (code cls k u : Nat) (p : List Byte) (b : Nat) :
    bayAt (raise s code cls k u p) b = bayAt s b := rfl
@[simp] theorem bayAt_drawn (s : State) (b : Nat) : bayAt (drawn s) b = bayAt s b := rfl
@[simp] theorem bayAt_bump (s : State) (kind index number n b : Nat) : bayAt (bump s kind index number n) b = bayAt s b := rfl

section Clocks
variable {s : State} {b : Nat} (hb : b < 16)
include hb

theorem pllUnlock_notes {pll : Nat} (hp : pll < 2) (hs : (bayAt s b).sel = (pll == 1)) (ha : alive s = true) :
    Completes (.pllUnlock b pll) s (fun t => t.mem = s.mem ∧
      (if pll = 0 then (bayAt t b).lossAt0 else (bayAt t b).lossAt1) = some s.clock.ns ∧
      (t.obs.log.getLast?.map (fun e => (e.code, e.unit))) = some (0x060E, unitBay b)) := by
  have hgo : ¬(16 ≤ b ∨ 2 ≤ pll ∨ ((bayAt s b).sel != (pll == 1)) = true ∨ alive s = false) := by
    simp [Nat.not_le.2 hb, Nat.not_le.2 hp, hs, ha]
  refine ⟨_, (exec_pllUnlock ..).trans (if_neg hgo), rfl, ?_, raise_event ..⟩
  rw [bayAt_raise, bayAt_drawn, bayAt_setBay_same]
  split_ifs <;> rfl

theorem droopDetect_counts (hd : (bayAt s b).droop = false) :
    Completes (.droopDetect b) s (fun t => bayAt t b = { bayAt s b with droop := true } ∧
      counter t 3 b 0x80 = counter s 3 b 0x80 + 1 ∧ t.mem = s.mem) := by
  have hgo : ¬(16 ≤ b ∨ (bayAt s b).droop = true) := by simp [Nat.not_le.2 hb, hd]
  exact ⟨_, (exec_droopDetect ..).trans (if_neg hgo), bayAt_setBay_same .., look_put_same .., rfl⟩

omit hb in
theorem droopClear_ends (hd : (bayAt s b).droop = true) :
    Completes (.droopClear b) s (fun t => bayAt t b = { bayAt s b with droop := false, droopAt := some s.clock.ns } ∧ t.mem = s.mem) :=
  ⟨_, (exec_droopClear ..).trans (if_neg (by simp [hd])), bayAt_setBay_same .., rfl⟩

omit hb in
/-- A lowering that nothing holds takes place. -/
theorem lower_free {v : Nat} (hv : v < (bayAt s b).volt) (hd : (bayAt s b).droop = false)
    (ht : afterDroop s (bayAt s b) 100000 = false) (hf : s.power.fallback = false) (ha : avsFails s b = false) :
    lower s b v = setRail (setBay s b { bayAt s b with volt := v, lowerTo := none }) b := by
  simp [lower, Nat.not_le.2 hv, hd, ht, hf, ha]

omit hb in
theorem voltageLowerHoldExpiry_lowers {v : Nat} (hl : (bayAt s b).lowerTo = some v) (hv : v < (bayAt s b).volt)
    (hd : (bayAt s b).droop = false) (ht : afterDroop s (bayAt s b) 100000 = false) (hf : s.power.fallback = false)
    (ha : avsFails s b = false) :
    Completes (.voltageLowerHoldExpiry b) s (fun t => (bayAt t b).volt = v ∧ (bayAt t b).lowerTo = none ∧ t.mem = s.mem) := by
  have hexec : exec (.voltageLowerHoldExpiry b) s = .next (lower s b v) := by
    simp only [exec_voltageLowerHoldExpiry, execVoltageLowerHoldExpiry, hl]
  rw [lower_free hv hd ht hf ha] at hexec
  refine ⟨_, hexec, ?_, ?_, rfl⟩
  all_goals rw [bayAt_setRail, bayAt_setBay_same]

theorem bayClockStop_stops (hs : (bayAt s b).stopped = false) (hi : bayIdle s b = true)
    (ht : (bayAt s b).idleSince + 100000 ≤ s.clock.ns) :
    Completes (.bayClockStop b) s (fun t => (bayAt t b).stopped = true ∧ t.mem = s.mem) := by
  have hgo : ¬(16 ≤ b ∨ (bayAt s b).stopped = true ∨ bayIdle s b = false ∨ s.clock.ns < (bayAt s b).idleSince + us100) := by
    simp [Nat.not_le.2 hb, hs, hi, ht]
  refine ⟨_, (exec_bayClockStop ..).trans (if_neg hgo), ?_, lower_mem ..⟩
  obtain ⟨u, l, hlower⟩ := bayAt_lower (setBay s b { bayAt s b with stopped := true, stepTo := none }) b (tableMv b (bayAt s b) 550)
  rw [hlower, bayAt_setBay_same]

omit hb in
/-- A microsecond counted in a bay is nothing to any other. -/
theorem bayAt_countBay_other {c : Nat} (h : c ≠ b) (s : State) (n : Nat) : bayAt (countBay s c n) b = bayAt s b := by
  rw [countBay, bayAt_setBay, if_neg h.symm]

omit hb in
theorem bayAt_foldl_countBay (l cs : List Nat) (h : ∀ c ∈ cs, c ≠ b) (s : State) :
    bayAt (cs.foldl (fun s c => countBay s c (nth l c 0)) s) b = bayAt s b :=
  List.foldlRecOn (motive := fun t => bayAt t b = bayAt s b) _ _ rfl fun t ht c hc =>
    (bayAt_countBay_other (h c hc) t _).trans ht

theorem lostCycleUpdate_adds (l : List Nat) :
    Completes (.lostCycleUpdate l) s (fun t => (bayAt t b).cycles = (bayAt s b).cycles + nth l b 0 ∧
      (bayAt t b).setPoint = (bayAt s b).setPoint ∧ t.mem = s.mem) := by
  obtain ⟨before, after, hsplit⟩ := List.append_of_mem (List.mem_range.2 hb)
  obtain ⟨-, hnodup, hdisj⟩ := List.nodup_append.1 (hsplit ▸ List.nodup_range)
  have hbefore : ∀ c ∈ before, c ≠ b := fun c hc => hdisj c hc b List.mem_cons_self
  have hafter : ∀ c ∈ after, c ≠ b := fun c hc e => (List.nodup_cons.1 hnodup).1 (e ▸ hc)
  refine ⟨_, exec_lostCycleUpdate .., ?_, ?_, foldl_mem (fun s c => countBay_mem s c _) _ s⟩
  all_goals
    rw [hsplit, List.foldl_append, List.foldl_cons, bayAt_foldl_countBay l after hafter, countBay, bayAt_setBay_same,
      bayAt_foldl_countBay l before hbefore]

end Clocks

/-! ### Margins read -/

section Margin
variable {s : State} {b m : Nat} (hb : b < 16) (hf : s.power.fallback = false) (ha : alive s = true)
include hb hf ha

theorem exec_marginMonitorRead_sees : exec (.marginMonitorRead b m) s = .next (marginSeen s b m) :=
  (exec_marginMonitorRead ..).trans (if_neg (by simp [Nat.not_le.2 hb, hf, ha]))

theorem marginMonitorRead_keeps (hn : (bayAt s b).minMargin = none) (hm : Config.minMargin b ≤ m) :
    Completes (.marginMonitorRead b m) s (fun t => t = { s with power := t.power } ∧
      bayAt t b = { bayAt s b with minMargin := some (m, s.clock.ns) } ∧ ∀ c, c ≠ b → bayAt t c = bayAt s c) := by
  refine ⟨_, exec_marginMonitorRead_sees hb hf ha, ?_⟩
  rw [marginSeen_first hn hm]
  exact ⟨rfl, bayAt_setBay_same .., fun c hc => by rw [bayAt_setBay, if_neg hc]⟩

end Margin

/-! ### Points raised by a re-fit (R312, R313) -/

theorem offsets_raisePoint (b now : Nat) (r : Refit) (i mv j : Nat) :
    look r.bay.offsets 0 j ≤ look (raisePoint b now r i mv).bay.offsets 0 j := by
  unfold raisePoint
  dsimp only
  split_ifs
  · exact le_rfl
  · exact le_rfl
  · by_cases hj : j = i
    · rw [hj, look_put_same]
      exact Nat.le_add_right ..
    · rw [look_put_other _ _ _ _ _ hj]

theorem offsets_refitPoints (b now : Nat) (y : Bay) (j : Nat) :
    look y.offsets 0 j ≤ look (refitPoints b now y).bay.offsets 0 j := by
  unfold refitPoints
  refine List.foldlRecOn (motive := fun r : Refit => look y.offsets 0 j ≤ look r.bay.offsets 0 j) _ _ ?_ fun r hr i _ => ?_
  · exact (offsets_raisePoint b now ⟨y, [], none⟩ _ 5 j).trans (offsets_raisePoint ..)
  · split
    · exact hr.trans (offsets_raisePoint ..)
    · exact hr

theorem countAway_power (s : State) (ns : List Nat) : (countAway s ns).power = s.power :=
  List.foldlRecOn (motive := fun t : State => t.power = s.power) _ _ rfl fun t ht n _ => by
    dsimp only
    split
    · exact ht
    · exact ht

theorem moveStandIns_power (s : State) (p : Nat) : (moveStandIns s p).power = s.power := by
  fun_cases moveStandIns <;> rfl

theorem loadAway_power (s : State) (ns : List Nat) : (loadAway s ns).power = s.power :=
  List.foldlRecOn (motive := fun t : State => t.power = s.power) _ _ rfl fun t ht n _ => by
    split
    · exact (SameTest.foldl (fun _ _ => .copyDpa ..) _ t).power.trans ht
    · exact ht

/-- The failure of a core leaves the power state. -/
theorem failCore_power (s : State) (p cause : Nat) : (failCore s p cause).power = s.power := by
  unfold failCore
  split
  · rfl
  · dsimp only
    rw [(SameTest.capacityEvent ..).power, (SameTest.coreFailedEvent ..).power, loadAway_power, moveStandIns_power,
      (SameTest.placeAll' ..).power]
    change (if _ then _ else _ : State).power = _
    split
    · exact (SameTest.keepStandIn _).power.trans (countAway_power ..)
    · exact countAway_power ..

theorem offsets_refitLimit (s : State) (b i : Nat) : (bayAt (refitLimit s b i) b).offsets = (bayAt s b).offsets := by
  unfold refitLimit
  dsimp only
  split
  · rw [bayAt_raise, bayAt_setBay_same]
  · have hpower : ((bayCores b).foldl (fun s p => failCore s p 3) s).power = s.power :=
      List.foldlRecOn (motive := fun t : State => t.power = s.power) _ _ rfl fun t ht p _ => (failCore_power t p 3).trans ht
    rw [bayAt_raise, bayAt, hpower, bayAt]

/-- No point of a bay's table falls when a margin is read, whatever it is (R312, R313). -/
theorem offsets_marginSeen (s : State) (b m i : Nat) :
    look (bayAt s b).offsets 0 i ≤ look (bayAt (marginSeen s b m) b).offsets 0 i := by
  unfold marginSeen
  extract_lets y now v s1 r s2 sec s3
  have hrefit : look y.offsets 0 i ≤ look (bayAt s3 b).offsets 0 i := by
    have h3 : bayAt s3 b = r.bay := by
      dsimp only [s3]
      split
      · exact bayAt_setBay_same ..
      · exact bayAt_setBay_same ..
    have h1 : (bayAt s1 b).offsets = y.offsets := by rw [bayAt_setBay_same]
    rw [h3, ← h1]
    exact offsets_refitPoints b now (bayAt s1 b) i
  split
  · rw [bayAt_setBay_same]
  · split
    · rw [offsets_refitLimit]
      exact hrefit
    · exact hrefit

/-- A margin read raises points or leaves them. -/
theorem marginMonitorRead_raises {s : State} {b : Nat} (hb : b < 16) (hf : s.power.fallback = false) (ha : alive s = true) (m : Nat) :
    Completes (.marginMonitorRead b m) s (fun t => ∀ i, look (bayAt s b).offsets 0 i ≤ look (bayAt t b).offsets 0 i) :=
  ⟨_, exec_marginMonitorRead_sees hb hf ha, offsets_marginSeen s b m⟩

/-! ### The table at its limit

A re-fit that meets the bound of a bay at a point of 1,100 MHz or less declares the cores of the bay failed, and a core that shared
its place has its scratchpad loaded from its save image at the new one (R19). -/

theorem refitBound_le (b : Nat) : Config.refitBound b ≤ 60 := Nat.le_of_lt_succ (Nat.mod_lt _ (by decide))

/-- A point that stands past every bound is not raised, and the first of them is noted. -/
theorem raisePoint_full {r : Refit} {i : Nat} (b now mv : Nat) (hr : r.bay.raisedAt = []) (hi : 60 < look r.bay.offsets 0 i) :
    raisePoint b now r i mv = { r with limit := some (r.limit.getD i) } := by
  have hbound : Config.refitBound b < look r.bay.offsets 0 i + mv := by
    have := refitBound_le b
    omega
  have hnever : has r.bay.raisedAt i = false := by rw [hr]; rfl
  simp only [raisePoint, hnever, Bool.false_and, Bool.false_eq_true, if_false, if_pos (Or.inl hbound)]
  cases r.limit <;> rfl

theorem bracket_lt (b f : Nat) : bracket b f < 15 := by
  unfold bracket
  cases h : ((List.range 15).filter (fun i => decide (Config.pointMhz b i ≤ f))).getLast? with
  | none => decide
  | some i => exact List.mem_range.1 (List.mem_of_mem_filter (List.mem_of_getLast? h))

/-- The lowest point is 550 MHz, in the record or in the table that stands for it (R310). -/
theorem pointMhz_zero (b : Nat) : Config.pointMhz b 0 = 550 := by
  unfold Config.pointMhz
  split
  next h => simp only [Config.pointsOk, Bool.and_eq_true, beq_iff_eq] at h; exact h.1.1.1.1
  next => rfl

theorem pointMhz_bracket {b f : Nat} (hf : 550 ≤ f) : Config.pointMhz b (bracket b f) ≤ f := by
  unfold bracket
  cases h : ((List.range 15).filter (fun i => decide (Config.pointMhz b i ≤ f))).getLast? with
  | none => exact (pointMhz_zero b).trans_le hf
  | some i => exact of_decide_eq_true (List.mem_filter.1 (List.mem_of_getLast? h)).2

/-- A table with every point past every bound is left, and the lower bracketing point is the limit. -/
theorem refitPoints_full {y : Bay} (b now : Nat) (hr : y.raisedAt = []) (hi : ∀ i, i < 16 → 60 < look y.offsets 0 i) :
    refitPoints b now y = ⟨y, [], some (bracket b y.setPoint)⟩ := by
  have hlt := bracket_lt b y.setPoint
  unfold refitPoints
  dsimp only
  rw [raisePoint_full b now 5 (r := ⟨y, [], none⟩) hr (hi _ (by omega)), raisePoint_full b now 5 hr (hi _ (by omega))]
  refine List.foldlRecOn (motive := fun r : Refit => r = ⟨y, [], some (bracket b y.setPoint)⟩) _ _ rfl fun r h j hj => ?_
  subst h
  split
  · rw [raisePoint_full b now _ hr (hi j (List.mem_range.1 hj))]
    rfl
  · rfl

/-- Bay `b` at 550 MHz with every offset past every bound, with a margin kept or none. Of its physical cores the last alone is
healthy, on which logical core 20·b + 1 of the running context 0 waits for its turn behind 20·b; its save image is at 0. -/
def sharedSpare (b : Nat) (m : Option (Nat × Nat)) : State := { State.reset with
  power := { bays := [(b, { setPoint := 550, offsets := (List.range 16).map (fun i => (i, 100)), minMargin := m })] }
  place := {
    phys := (List.range 20).map (fun i => (21 * b + i, { failed := true }))
    map := [(20 * b, 21 * b + 20), (20 * b + 1, 21 * b + 20)]
    parts := [(0, { running := some 0 })] }
  mem := { cells := [(0, 1)] } }

theorem bayAt_sharedSpare (b : Nat) (m : Option (Nat × Nat)) : bayAt (sharedSpare b m) b =
    { setPoint := 550, offsets := (List.range 16).map (fun i => (i, 100)), minMargin := m } := by
  simp [bayAt, sharedSpare, look]

theorem bayAt_sharedSpare_margin (b : Nat) (m n : Option (Nat × Nat)) :
    { bayAt (sharedSpare b m) b with minMargin := n } = bayAt (sharedSpare b n) b := by
  rw [bayAt_sharedSpare, bayAt_sharedSpare]

theorem setBay_sharedSpare (b : Nat) (m n : Option (Nat × Nat)) :
    setBay (sharedSpare b m) b (bayAt (sharedSpare b n) b) = sharedSpare b n := by
  rw [bayAt_sharedSpare]
  simp [setBay, sharedSpare, put]

/-- A margin below the bound takes that bay to its limit. -/
theorem marginSeen_sharedSpare {b : Nat} (hm : 0 < Config.minMargin b) : marginSeen (sharedSpare b none) b 0 =
    refitLimit (sharedSpare b (some (0, 0))) b (bracket b 550) := by
  have hnone : (bayAt (sharedSpare b none) b).minMargin = none := by rw [bayAt_sharedSpare]
  have hfull : refitPoints b 0 (bayAt (sharedSpare b (some (0, 0))) b) =
      ⟨bayAt (sharedSpare b (some (0, 0))) b, [], some (bracket b 550)⟩ := by
    rw [bayAt_sharedSpare]
    exact refitPoints_full b 0 rfl (by decide)
  have hclock : (sharedSpare b none).clock.ns = 0 := rfl
  simp only [marginSeen, hnone, hclock, bayAt_sharedSpare_margin, setBay_sharedSpare, if_neg (Nat.not_le.2 hm), hfull, if_true]

/-- The state in which the last core of the bay has failed and its logical cores have moved. -/
def spareLost (b : Nat) : State :=
  moveStandIns (placeAll' (markFailed (countAway (sharedSpare b (some (0, 0))) [20 * b + 1]) (21 * b + 20) 3) [20 * b, 20 * b + 1])
    (21 * b + 20)

theorem loadAway_spareLost : ∀ b < 16, (loadAway (spareLost b) [20 * b + 1]).mem.cells ≠ [(0, 1)] := by decide +kernel

theorem sharedSpare_healthy : ∀ b < 16, healthy (sharedSpare b (some (0, 0))) (21 * b + 20) = true ∧
    ∀ i < 20, healthy (sharedSpare b (some (0, 0))) (21 * b + i) = false := by
  decide +kernel

theorem sharedSpare_placed : ∀ b < 16, mappedOn (sharedSpare b (some (0, 0))).place (21 * b + 20) = [20 * b, 20 * b + 1] ∧
    [20 * b, 20 * b + 1].filter (fun n => (residentPhys (sharedSpare b (some (0, 0))) n).isNone) = [20 * b + 1] := by
  decide +kernel

theorem countAway_place (s : State) (ns : List Nat) : (countAway s ns).place = s.place :=
  List.foldlRecOn (motive := fun t : State => t.place = s.place) _ _ rfl fun t ht n _ => by
    dsimp only
    split
    · exact ht
    · exact ht

/-- The core that was away is loaded from its image, which changes memory. -/
theorem failCore_sharedSpare {b : Nat} (hb : b < 16) :
    (failCore (sharedSpare b (some (0, 0))) (21 * b + 20) 3).mem.cells ≠ [(0, 1)] := by
  obtain ⟨hhealthy, -⟩ := sharedSpare_healthy b hb
  obtain ⟨hmapped, haway⟩ := sharedSpare_placed b hb
  have hpatrol : (sharedSpare b (some (0, 0))).place.patrol ≠ some (21 * b + 20) := nofun
  have hmapped' : mappedOn (countAway (sharedSpare b (some (0, 0))) [20 * b + 1]).place (21 * b + 20) = [20 * b, 20 * b + 1] := by
    rw [countAway_place, hmapped]
  unfold failCore
  rw [if_neg (by simp [hhealthy])]
  dsimp only
  rw [capacityEvent_mem, coreFailedEvent_mem, if_neg hpatrol, hmapped, haway, hmapped']
  exact loadAway_spareLost b hb

/-- The cores that have failed already stay as they are: the failures of the bay's cores are that of the last. -/
theorem foldl_failCore_sharedSpare {b : Nat} (hb : b < 16) :
    (bayCores b).foldl (fun s p => failCore s p 3) (sharedSpare b (some (0, 0))) =
      failCore (sharedSpare b (some (0, 0))) (21 * b + 20) 3 := by
  obtain ⟨-, hfailed⟩ := sharedSpare_healthy b hb
  have hbefore : (List.range 20).foldl (fun s i => failCore s (21 * b + i) 3) (sharedSpare b (some (0, 0))) =
      sharedSpare b (some (0, 0)) :=
    List.foldlRecOn (motive := fun t : State => t = sharedSpare b (some (0, 0))) _ _ rfl fun t ht i hi => by
      rw [ht]
      exact if_pos (hfailed i (List.mem_range.1 hi))
  rw [bayCores, List.foldl_map, List.range_succ, List.foldl_append, hbefore]
  rfl

/-- A margin below the bound of a bay may change memory. -/
theorem marginSeen_changes {b : Nat} (hb : b < 16) (hm : 0 < Config.minMargin b) :
    (marginSeen (sharedSpare b none) b 0).mem.cells ≠ (sharedSpare b none).mem.cells := by
  have hlow : ¬1100 < Config.pointMhz b (bracket b 550) := Nat.not_lt.2 ((pointMhz_bracket le_rfl).trans (by decide))
  rw [marginSeen_sharedSpare hm, refitLimit, if_neg hlow, raise_mem, foldl_failCore_sharedSpare hb]
  exact failCore_sharedSpare hb

/-- What O33 comes to, which is not settled: it holds where the configuration record gives no bay a bound for its margins, and
there alone. The clauses above are its true part; what it says of memory below the bound fails in `sharedSpare` (R19), and the bound
is an opaque constant of the record, of which neither case can be proved. -/
theorem bayClocksAndMargins_iff : Obligations.BayClocksAndMargins ↔ ∀ b < 16, Config.minMargin b = 0 := by
  unfold Obligations.BayClocksAndMargins
  constructor
  · rintro ⟨-, h⟩ b hb
    by_contra hne
    have hm := Nat.pos_of_ne_zero hne
    obtain ⟨t, hexec, hcells, -⟩ := (h (sharedSpare b none) b 0 hb rfl rfl (by rw [bayAt_sharedSpare])).2 hm
    rw [exec_marginMonitorRead_sees hb rfl rfl] at hexec
    injection hexec with ht
    exact marginSeen_changes hb hm (ht ▸ hcells)
  · intro hzero
    refine ⟨fun s b hb => ⟨fun pll => pllUnlock_notes hb, droopDetect_counts hb, droopClear_ends,
      fun v => voltageLowerHoldExpiry_lowers, bayClockStop_stops hb, lostCycleUpdate_adds hb⟩,
      fun s b m hb hf ha hn => ⟨marginMonitorRead_keeps hb hf ha hn, fun hm => ?_⟩⟩
    rw [hzero b hb] at hm
    exact absurd hm (Nat.not_lt_zero m)

end Sys2Proof.Machine

/-! ## A step, and the state at reset (R341, R419, R473, R475) -/

namespace Sys2Proof.Machine

/-- Settles O54: the front of a queue that is not empty is carried out on the rest. -/
theorem stepRunsFront : Obligations.StepRunsFront := fun _ _ => rfl

/-- Settles O59: reset lists nothing, so every table reads as its default. -/
theorem stateAtReset : Obligations.StateAtReset :=
  ⟨⟨rfl, rfl⟩, rfl, fun _ => rfl, rfl, fun _ => rfl, rfl, rfl, fun _ => rfl, rfl, rfl, rfl⟩

end Sys2Proof.Machine

/-! ## Samples of a histogram unit (R440 to R442) -/

namespace Sys2Proof.Machine

@[simp] theorem histAt_setHist_same (s : State) (u : Nat) (x : Hist) : histAt (setHist s u x) u = x := look_put_same ..

theorem histAt_setHist_other (s : State) {u w : Nat} (x : Hist) (h : w ≠ u) : histAt (setHist s u x) w = histAt s w :=
  look_put_other _ _ _ _ _ h

/-- A sample that reaches a threshold of a unit reaches the lower ones. -/
theorem threshold_le {base i j : Nat} {v : Int} (hij : i ≤ j) (h : (2 : Int) ^ (base + j) ≤ v) : (2 : Int) ^ (base + i) ≤ v :=
  (pow_le_pow_right₀ (by decide) (Nat.add_le_add_left hij base)).trans h

/-- A bin takes the samples that reach its own threshold, the last below it, and none from it on. -/
theorem inBin_iff {base i : Nat} {v : Int} (hi : i < 32) :
    inBin base i v ↔ ∀ j < 31, (2 : Int) ^ (base + j) ≤ v ↔ j < i := by
  constructor
  · rintro (⟨rfl, hv⟩ | ⟨h1, -, hlow, hhigh⟩ | ⟨rfl, hv⟩) j hj
    · exact iff_of_false (fun h => hv.not_ge (threshold_le (i := 0) (Nat.zero_le j) h)) (Nat.not_lt_zero j)
    · rw [Nat.add_sub_assoc h1] at hlow
      refine ⟨fun h => ?_, fun h => threshold_le (Nat.le_sub_one_of_lt h) hlow⟩
      by_contra hle
      exact hhigh.not_ge (threshold_le (Nat.le_of_not_lt hle) h)
    · exact iff_of_true (threshold_le (Nat.le_of_lt_succ hj) hv) hj
  · intro h
    rcases Nat.eq_zero_or_pos i with rfl | hpos
    · exact .inl ⟨rfl, not_le.1 fun hv => absurd ((h 0 (by decide)).1 hv) (Nat.lt_irrefl 0)⟩
    · have hlow : (2 : Int) ^ (base + (i - 1)) ≤ v := (h (i - 1) (by omega)).2 (by omega)
      rcases Nat.lt_or_ge i 31 with hlt | hge
      · exact .inr (.inl ⟨hpos, by omega, by rwa [Nat.add_sub_assoc hpos], not_le.1 fun hv => absurd ((h i hlt).1 hv) (Nat.lt_irrefl i)⟩)
      · obtain rfl : i = 31 := by omega
        exact .inr (.inr ⟨rfl, hlow⟩)

/-- The numbers below 31 that are below `i` are `i` many. -/
theorem length_filter_lt : ∀ i < 32, ((List.range 31).filter (fun j => decide (j < i))).length = i := by decide

/-- A sample goes into the bin that takes it. -/
theorem binOf_of_inBin {base i : Nat} {v : Int} (hi : i < 32) (h : inBin base i v) : binOf base v = i := by
  refine Eq.trans (congrArg List.length (List.filter_congr fun j hj => ?_)) (length_filter_lt i hi)
  exact decide_eq_decide.2 ((inBin_iff hi).1 h j (List.mem_range.1 hj))

/-- Every sample has its bin: the first threshold it does not reach. -/
theorem exists_inBin (base : Nat) (v : Int) : ∃ i < 32, inBin base i v := by
  classical
  have hex : ∃ i, i = 31 ∨ v < (2 : Int) ^ (base + i) := ⟨31, .inl rfl⟩
  have hle : Nat.find hex ≤ 31 := Nat.find_min' hex (.inl rfl)
  refine ⟨Nat.find hex, Nat.lt_succ_of_le hle, (inBin_iff (Nat.lt_succ_of_le hle)).2 fun j hj => ⟨fun hv => ?_, fun hlt => ?_⟩⟩
  · by_contra hge
    rcases Nat.find_spec hex with h31 | hv'
    · omega
    · exact hv'.not_ge (threshold_le (Nat.le_of_not_lt hge) hv)
  · exact not_lt.1 fun hv => Nat.find_min hex hlt (.inr hv)

theorem binOf_eq_iff {base i : Nat} {v : Int} (hi : i < 32) : binOf base v = i ↔ inBin base i v := by
  refine ⟨fun h => ?_, binOf_of_inBin hi⟩
  obtain ⟨j, hj, hin⟩ := exists_inBin base v
  rwa [← h, binOf_of_inBin hj hin]

/-- Settles O40: the unit is replaced by itself after the sample, whose bin is `binOf_eq_iff`. -/
theorem histogramSamples : Obligations.HistogramSamples := by
  intro s u v hu hon
  have hoff : ¬(32 ≤ u ∨ (histAt s u).source = 0) := by omega
  refine ⟨setHist s u (histAdd (histAt s u) v), (exec_histSample u v s).trans (if_neg hoff), rfl,
    fun w hw => histAt_setHist_other s _ hw, ?_⟩
  rw [histAt_setHist_same]
  refine ⟨rfl, rfl, rfl, rfl, fun i hi => ⟨fun hin => ?_, fun hout => ?_⟩⟩
  · rw [← binOf_of_inBin hi hin]
    exact look_put_same ..
  · exact look_put_other _ _ _ _ _ fun h => hout ((binOf_eq_iff hi).1 h.symm)

end Sys2Proof.Machine


/-! ## The SPDM responder -/

namespace Sys2Proof.Machine

section Responder
variable {s : State} {v : SpdmVia}

/-! ### Requests -/

theorem request_down (h : spdmUp s v = false) (n : Nat) (body : State) : request s v n body = .next s := if_pos h

theorem request_early (h : spdmUp s v = true) {n : Nat} (hn : phaseOf s v < n) (body : State) :
    request s v n body = .next (spdmError s v spUnexpected) := by
  simp [request, h, hn]

theorem request_served (h : spdmUp s v = true) {n : Nat} (hn : n ≤ phaseOf s v) (body : State) : request s v n body = .next body := by
  simp [request, h, hn]

/-- A command is a request that its connection serves from a phase on. -/
def RequestFrom (i : Instr) (s : State) (v : SpdmVia) (n : Nat) : Prop := ∃ body, exec i s = request s v n body

theorem saysOnly_send {i : Instr} {c : Nat} {p : List Byte} {P : List Byte → Prop} (h : exec i s = .next (spdmSend s v c p)) (hp : P p) :
    SaysOnly i s v c P := ⟨_, h, p, hp, rfl⟩

theorem RequestFrom.early {i : Instr} {n : Nat} (hi : RequestFrom i s v n) (h : spdmUp s v = true) (hn : phaseOf s v < n) :
    SaysOnly i s v 0x7F (fun p => p = [4, 0]) := by
  obtain ⟨body, hb⟩ := hi
  exact saysOnly_send (hb.trans (request_early h hn body)) rfl

theorem RequestFrom.down {i : Instr} {n : Nat} (hi : RequestFrom i s v n) (h : spdmUp s v = false) : Completes i s (fun t => t = s) := by
  obtain ⟨body, hb⟩ := hi
  exact ⟨s, hb.trans (request_down h n body), rfl⟩

theorem request_completes {i : Instr} {n : Nat} {body : State} {P : State → Prop} (hi : exec i s = request s v n body)
    (h : spdmUp s v = true) (hn : n ≤ phaseOf s v) (hP : P body) : Completes i s P :=
  ⟨body, hi.trans (request_served h hn body), hP⟩

theorem request_says {i : Instr} {n c : Nat} {body : State} {p : List Byte} {P : List Byte → Prop} (hi : exec i s = request s v n body)
    (h : spdmUp s v = true) (hn : n ≤ phaseOf s v) (hb : body = spdmSend s v c p) (hp : P p) : SaysOnly i s v c P :=
  request_completes hi h hn ⟨p, hp, by subst hb; rfl⟩

/-- Every command of the responder but the unsupported request is a request, from phase 1 on but for GET_VERSION. -/
theorem responder_requests {o l : Nat} {n x : List Byte} {w : Bool} {c : Nat} {i : Instr}
    (hi : i ∈ ([.getVersion v, .getCapabilities v, .negotiateAlgorithms v w, .getDigests v, .getCertificate v c o l,
        .challenge v c n, .getMeasurements v c w n, .keyExchange v x, .finish v w, .heartbeat v, .endSession v,
        .unsupportedRequest v c] : List Instr)) (hu : i ≠ .unsupportedRequest v c) :
    ∃ m, RequestFrom i s v m ∧ (i ≠ .getVersion v → 0 < m) := by
  simp only [List.mem_cons, List.not_mem_nil, or_false] at hi
  rcases hi with rfl | rfl | rfl | rfl | rfl | rfl | rfl | rfl | rfl | rfl | rfl | rfl
  case inl => exact ⟨0, ⟨_, rfl⟩, fun h => absurd rfl h⟩
  case inr.inl => exact ⟨1, ⟨_, rfl⟩, fun _ => Nat.one_pos⟩
  case inr.inr.inl => exact ⟨2, ⟨_, rfl⟩, fun _ => Nat.two_pos⟩
  case inr.inr.inr.inr.inr.inr.inr.inr.inr.inr.inr => exact absurd rfl hu
  all_goals exact ⟨3, ⟨_, rfl⟩, fun _ => by decide⟩

theorem unsupportedRequest_down (h : spdmUp s v = false) (c : Nat) : Completes (.unsupportedRequest v c) s (fun t => t = s) :=
  ⟨s, by simp [execUnsupportedRequest, h], rfl⟩

theorem unsupportedRequest_says (h : spdmUp s v = true) (c : Nat) :
    SaysOnly (.unsupportedRequest v c) s v 0x7F (fun p => p = [7, BitVec.ofNat 8 c]) :=
  saysOnly_send (by simp [execUnsupportedRequest, h]) rfl

/-! ### The phases of a connection -/

@[simp] theorem phaseOf_setPhase (s : State) (v : SpdmVia) (p : Nat) : phaseOf (setPhase s v p) v = p := by
  have hnone : (s.sec.spdm.filter (fun x => x.session || x.via != v)).find? (fun x => x.via == v && !x.session) = none := by
    rw [List.find?_eq_none]
    intro x hx
    have := (List.mem_filter.1 hx).2
    simp at this ⊢
    tauto
  simp [phaseOf, setPhase, List.find?_append, hnone]

/-- A request that moves its connection on: its response, and the phase. -/
theorem request_moves {i : Instr} {n p c : Nat} {pay : List Byte} (h : spdmUp s v = true) (hn : n ≤ phaseOf s v)
    (hi : exec i s = request s v n (setPhase (spdmSend s v c pay) v p)) :
    Completes i s (fun t => phaseOf t v = p ∧ t.sec.spdmOut = s.sec.spdmOut ++ [(v, c, pay)] ∧ t = { s with sec := t.sec }) :=
  request_completes hi h hn ⟨phaseOf_setPhase .., rfl, rfl⟩

/-! ### Certificates and measurements -/

theorem measBlocks_isSome {i : Nat} (hi : i ≤ 8 ∨ i = 0xFF) : ∃ l, measBlocks i = some l := by
  unfold measBlocks
  split_ifs with h0 hf h8
  · exact ⟨_, rfl⟩
  · exact ⟨_, rfl⟩
  · exact ⟨_, rfl⟩
  · exact absurd hi (not_or.2 ⟨h8, hf⟩)

section Certificates
variable (h : spdmUp s v = true) (h3 : 3 ≤ phaseOf s v)
include h h3

theorem getDigests_says : SaysOnly (.getDigests v) s v 0x01 (fun p => p = 1 :: sha3_512 (chainBytes s)) :=
  request_says rfl h h3 rfl rfl

theorem getMeasurements_says {i : Nat} {sg : Bool} (n : List Byte) (hs : sg = false ∨ s.sec.attestOk = true) (hi : i ≤ 8 ∨ i = 0xFF) :
    SaysOnly (.getMeasurements v i sg n) s v 0x60 (fun p => ∃ m, p = m ++ if sg then n ++ attestSign s (n ++ m) else []) := by
  obtain ⟨l, hl⟩ := measBlocks_isSome hi
  have hno : ¬(sg && !s.sec.attestOk) = true := by rcases hs with rfl | hs <;> simp [*]
  refine request_says (p := (leBytes 1 (if l = [] then 8 else l.length) ++ l.flatMap (measBlock s)) ++ _) rfl h h3 ?_ ⟨_, rfl⟩
  rw [if_neg hno, hl]

theorem getMeasurements_unsigned (hk : s.sec.attestOk = false) (i : Nat) (n : List Byte) :
    SaysOnly (.getMeasurements v i true n) s v 0x7F (fun p => p = [4, 0]) :=
  request_says rfl h h3 (if_pos (by simp [hk])) rfl

theorem getCertificate_says (hk : s.sec.attestOk = true) {o : Nat} (ho : o < (chainBytes s).length) (l : Nat) :
    SaysOnly (.getCertificate v 0 o l) s v 0x02 (fun p =>
      p.drop 4 = ((chainBytes s).drop o).take l ∧ p.take 2 = leBytes 2 (((chainBytes s).drop o).take l).length) :=
  request_says rfl h h3 ((if_neg (by simp [hk])).trans (if_neg (by simpa using ho))) ⟨rfl, rfl⟩

theorem getCertificate_past (hk : s.sec.attestOk = true) {o : Nat} (ho : (chainBytes s).length ≤ o) (l : Nat) :
    SaysOnly (.getCertificate v 0 o l) s v 0x7F (fun p => p = [1, 0]) :=
  request_says rfl h h3 ((if_neg (by simp [hk])).trans (if_pos (.inr ho))) rfl

theorem getCertificate_unattested (hk : s.sec.attestOk = false) (a o l : Nat) :
    SaysOnly (.getCertificate v a o l) s v 0x7F (fun p => p = [4, 0]) :=
  request_says rfl h h3 (if_pos hk) rfl

theorem challenge_says (hk : s.sec.attestOk = true) (n : List Byte) :
    SaysOnly (.challenge v 0 n) s v 0x03 (fun p => ∃ m, p = m ++ attestSign s m) :=
  request_says rfl h h3 ((if_neg (by simp [hk])).trans (if_neg (by simp))) ⟨_, rfl⟩

theorem challenge_unattested (hk : s.sec.attestOk = false) (a : Nat) (n : List Byte) :
    SaysOnly (.challenge v a n) s v 0x7F (fun p => p = [4, 0]) :=
  request_says rfl h h3 (if_pos hk) rfl

/-! ### Sessions -/

theorem keyExchange_begins (hk : s.sec.attestOk = true) (hl : (sessionsOf s v).length < 4) (x : List Byte) :
    Completes (.keyExchange v x) s (fun t =>
      (sessionsOf t v).length = (sessionsOf s v).length + 1 ∧ t = { s with sec := t.sec, freeCtr := s.freeCtr + 1 }) := by
  refine request_completes rfl h h3 ?_
  rw [if_neg (by simp [hk]), if_neg (by omega)]
  exact ⟨by simp [sessionsOf, spdmSend, drawn], rfl⟩

theorem keyExchange_full (hk : s.sec.attestOk = true) (hl : 4 ≤ (sessionsOf s v).length) (x : List Byte) :
    SaysOnly (.keyExchange v x) s v 0x7F (fun p => p = [0x0A, 0]) :=
  request_says rfl h h3 ((if_neg (by simp [hk])).trans (if_pos hl)) rfl

theorem keyExchange_unattested (hk : s.sec.attestOk = false) (x : List Byte) :
    SaysOnly (.keyExchange v x) s v 0x7F (fun p => p = [4, 0]) :=
  request_says rfl h h3 (if_pos hk) rfl

end Certificates

@[simp] theorem attest_sec (s : State) (v : SpdmVia) : (attest s v).sec = s.sec := by
  fun_cases attest <;> rfl

theorem attest_attested {n : Nat} (hm : s.net.managers.any (fun m => m.1 == n) = true) :
    (n, s.clock.ns) ∈ (attest s (.furlong n)).net.attested := by
  simp [attest, hm]

/-- The sessions of the responder once those that await FINISH are established. -/
def finished (s : State) (v : SpdmVia) : List Spdm := s.sec.spdm.map (fun x => if awaitsFinish v x then { x with phase := 1 } else x)

theorem finished_awaits : (finished s v).any (awaitsFinish v) = false := by
  refine List.any_eq_false.2 fun y hy => ?_
  obtain ⟨z, -, rfl⟩ := List.mem_map.1 hy
  split
  · simp [awaitsFinish]
  · assumption

theorem finished_established (hw : s.sec.spdm.any (awaitsFinish v) = true) : (finished s v).any (established v) = true := by
  obtain ⟨x, hx, hxw⟩ := List.any_eq_true.1 hw
  refine List.any_eq_true.2 ⟨_, List.mem_map_of_mem hx, ?_⟩
  rw [if_pos hxw]
  simpa [awaitsFinish, established] using (Bool.and_eq_true_iff.1 hxw).1

theorem finish_verified (h : spdmUp s v = true) (h3 : 3 ≤ phaseOf s v) (hw : s.sec.spdm.any (awaitsFinish v) = true) :
    Completes (.finish v true) s (fun t => t.sec.spdm.any (awaitsFinish v) = false ∧ t.sec.spdm.any (established v) = true ∧
      (∀ n, v = .furlong n → s.net.managers.any (fun m => m.1 == n) = true → (n, s.clock.ns) ∈ t.net.attested) ∧ t.mem = s.mem) := by
  refine request_completes rfl h h3 ?_
  rw [if_neg (by simp [hw]), if_pos rfl, attest_sec]
  refine ⟨finished_awaits, finished_established hw, ?_, attest_mem ..⟩
  rintro n rfl hm
  exact attest_attested hm

theorem finish_failed (h : spdmUp s v = true) (h3 : 3 ≤ phaseOf s v) (hw : s.sec.spdm.any (awaitsFinish v) = true) :
    Completes (.finish v false) s (fun t => t.sec.spdm.any (awaitsFinish v) = false ∧ t.net.attested = s.net.attested ∧ t.mem = s.mem) := by
  refine request_completes rfl h h3 ?_
  rw [if_neg (by simp [hw]), if_neg (by simp)]
  refine ⟨?_, rfl, rfl⟩
  simp [spdmError, spdmSend]

theorem heartbeat_says (h : spdmUp s v = true) (h3 : 3 ≤ phaseOf s v) (he : s.sec.spdm.any (established v) = true) :
    SaysOnly (.heartbeat v) s v 0x68 (fun p => p = []) :=
  request_says rfl h h3 (if_pos he) rfl

theorem length_dropFirst {α : Type} {p : α → Bool} {l : List α} (h : l.any p = true) : (dropFirst p l).length + 1 = l.length := by
  induction l with
  | nil => simp at h
  | cons a l ih =>
    rw [dropFirst]
    split_ifs with ha
    · rfl
    · simpa using ih (by simpa [ha] using h)

theorem endSession_ends (h : spdmUp s v = true) (h3 : 3 ≤ phaseOf s v) (he : s.sec.spdm.any (established v) = true) :
    Completes (.endSession v) s (fun t => t.sec.spdm.length + 1 = s.sec.spdm.length ∧ t.mem = s.mem ∧
      t.sec.spdmOut = s.sec.spdmOut ++ [(v, 0x6C, [])] ∧ ∀ n, v = .furlong n → ∀ a ∈ t.net.attested, a.1 ≠ n) := by
  refine request_completes rfl h h3 ?_
  rw [if_neg (by simp [he])]
  cases v with
  | doe => exact ⟨length_dropFirst he, rfl, rfl, fun n hn => nomatch hn⟩
  | mctp => exact ⟨length_dropFirst he, rfl, rfl, fun n hn => nomatch hn⟩
  | furlong m =>
    refine ⟨length_dropFirst he, rfl, rfl, ?_⟩
    rintro n ⟨⟩ a ha
    simpa using (List.mem_filter.1 ha).2

end Responder

/-- Settles O52: each command is a request of its connection, served from its phase on. -/
theorem responderAnswers : Obligations.ResponderAnswers := by
  unfold Obligations.ResponderAnswers
  intro s v
  refine ⟨fun i o l n x w c hi => ⟨fun hd => ?_, fun hu h0 hv hn => ?_⟩, fun h => ⟨?_, ?_, ?_, ?_, ?_, ?_⟩⟩
  · by_cases hn : i = .unsupportedRequest v c
    · exact hn ▸ unsupportedRequest_down hd c
    · obtain ⟨m, hm, -⟩ := responder_requests (s := s) hi hn
      exact hm.down hd
  · obtain ⟨m, hm, hpos⟩ := responder_requests (s := s) hi hn
    exact hm.early hu (h0 ▸ hpos hv)
  · exact request_moves h (Nat.zero_le _) rfl
  · exact fun h1 => request_moves h h1 rfl
  · exact fun h2 => request_moves h h2 rfl
  · exact fun h3 => ⟨RequestFrom.early ⟨_, rfl⟩ h h3, RequestFrom.early ⟨_, rfl⟩ h h3⟩
  · exact fun h3 => ⟨getDigests_says h h3, fun i sg n => getMeasurements_says h h3 n,
      fun hk => ⟨fun o l ho => getCertificate_says h h3 hk ho l, fun o l ho => getCertificate_past h h3 hk ho l,
        challenge_says h h3 hk, fun x hl => keyExchange_begins h h3 hk hl x, fun x hl => keyExchange_full h h3 hk hl x⟩,
      fun hk => ⟨getCertificate_unattested h h3 hk, challenge_unattested h h3 hk, getMeasurements_unsigned h h3 hk,
        keyExchange_unattested h h3 hk⟩,
      fun hw => ⟨finish_verified h h3 hw, finish_failed h h3 hw⟩,
      fun he => ⟨heartbeat_says h h3 he, endSession_ends h h3 he⟩⟩
  · exact unsupportedRequest_says h

end Sys2Proof.Machine


/-! ## Resets, rails, boot and recovery -/

namespace Sys2Proof.Machine

/-! ### What records and events leave of firmware -/

section FirmwareKept
variable {β : Type} {g : Firmware → β}

/-- A part of firmware's state that the outbox is no part of. -/
def BesideOutbox (g : Firmware → β) : Prop := ∀ (f : Firmware) (o : Outbox), g { f with outbox := o } = g f

theorem BesideOutbox.putRec (hg : BesideOutbox g) (f : Firmware) (r : Rec) : g (putRec f r) = g f := by
  unfold Machine.putRec
  split <;> exact hg ..

theorem BesideOutbox.eventRecs (hg : BesideOutbox g) (f : Firmware) (e : Event) : g (eventRecs f e) = g f :=
  List.foldlRecOn (motive := fun u : Firmware => g u = g f) _ _ rfl fun u hu r _ => (hg.putRec u r).trans hu

theorem BesideOutbox.raise (hg : BesideOutbox g) (s : State) (code cls k u : Nat) (p : List Byte) :
    g (raise s code cls k u p).fw = g s.fw := by
  unfold Machine.raise raiseOn
  dsimp only
  split
  · exact hg.eventRecs ..
  · rfl

theorem BesideOutbox.asyncRec (hg : BesideOutbox g) (s : State) (type k status : Nat) (p : List Byte) :
    g (asyncRec s type k status p).fw = g s.fw := by
  unfold Machine.asyncRec
  dsimp only
  split
  · rfl
  · exact hg.putRec ..

end FirmwareKept

@[simp] theorem raise_recovering (s : State) (code cls k u : Nat) (p : List Byte) : (raise s code cls k u p).fw.recovering = s.fw.recovering :=
  BesideOutbox.raise (g := Firmware.recovering) (fun _ _ => rfl) ..

theorem raise_pairs (s : State) (code cls k u : Nat) (p : List Byte) : (raise s code cls k u p).fw.pairs = s.fw.pairs :=
  BesideOutbox.raise (g := Firmware.pairs) (fun _ _ => rfl) ..

/-! ### Recovery started -/

theorem startRecovery_recovering (s : State) (cause : Nat) : (startRecovery s cause).fw.recovering = true := by
  unfold startRecovery
  split
  · next h => simpa using h
  · rfl

theorem startRecovery_fresh {s : State} (h : s.fw.recovering = false) (cause : Nat) :
    (startRecovery s cause).fw.recoverStage = 3 ∧ (startRecovery s cause).net.sessions = [] := by
  rw [startRecovery, if_neg (by simp [h])]
  exact ⟨rfl, rfl⟩

/-- Device time and the contexts are as they were. -/
def SameTimeAndCtxs (s t : State) : Prop := t.clock = s.clock ∧ t.ctxs = s.ctxs

theorem rollBack_timeAndCtxs (s : State) (t cause : Nat) : SameTimeAndCtxs s (rollBack s t cause) :=
  ⟨rfl, raise_ctxs_of_none (by decide) ..⟩

/-- A recovery of a device without contexts leaves device time. -/
theorem startRecovery_clock_of_none {s : State} (h : ∀ j, j < 64 → ctxExists s j = false) (cause : Nat) :
    (startRecovery s cause).clock = s.clock := by
  unfold startRecovery
  split
  · rfl
  · extract_lets s1 s2 s3 s4
    have h1 : SameTimeAndCtxs s s1 := ⟨rfl, raise_ctxs_of_none (by decide) ..⟩
    have h2 : SameTimeAndCtxs s s2 := by
      refine List.foldlRecOn (motive := fun u : State => SameTimeAndCtxs s u) _ _ h1 fun u hu t _ => ?_
      split
      · exact ⟨hu.1, (rollBack_timeAndCtxs u t 3).2.trans hu.2⟩
      · exact hu
    have h3 : SameTimeAndCtxs s s3 := by
      refine List.foldlRecOn (motive := fun u : State => SameTimeAndCtxs s u) _ _ h2 fun u hu k hk => ?_
      have hno : ctxExists u k = false := by
        rw [ctxExists, ctxOf, hu.2]
        exact h k (List.mem_range.1 hk)
      rw [if_neg (by rw [hno]; decide)]
      exact hu
    clear_value s3
    exact h3.1

/-! ### Resets and rails -/

theorem railUndervoltage_resets {s : State} {r : Nat} (h : s.board.low.elem r = false) (hr : r = 12 ∨ r = 13) :
    Completes (.railUndervoltage r) s (fun t => t.fw = {} ∧ t.ctxs = [] ∧ t.mem.cells = [] ∧
      t.board.low.elem r = true ∧ t.sec.counters = s.sec.counters) := by
  have h22 : ¬(22 ≤ r ∨ s.board.low.elem r = true) := by rw [h]; rcases hr with rfl | rfl <;> decide
  have hlow : (addNat s.board.low r).elem r = true := List.elem_eq_true_of_mem (mem_addNat.2 (.inl rfl))
  exact ⟨_, (exec_railUndervoltage r s).trans ((if_neg h22).trans (if_pos hr)), rfl, rfl, rfl, hlow, rfl⟩

theorem railUndervoltage_recovers {s : State} {r : Nat} (h22 : r < 22) (h : s.board.low.elem r = false) (h12 : r ≠ 12) (h13 : r ≠ 13)
    (hp : s.board.perstLow = false) (hs : 6 ≤ s.fw.stage) (hf : s.obs.fatal = false) :
    Completes (.railUndervoltage r) s (fun t => t.fw.recovering = true) := by
  have hlow : ¬(22 ≤ r ∨ s.board.low.elem r = true) := by rw [h]; simpa using h22
  have hrun : ¬(s.board.perstLow = true ∨ s.fw.stage < 4 ∨ (r < 4 ∧ s.fw.stage < 6) ∨ s.obs.fatal = true) := by
    rw [hp, hf]
    simp
    omega
  exact ⟨_, (exec_railUndervoltage r s).trans ((if_neg hlow).trans ((if_neg (not_or.2 ⟨h12, h13⟩)).trans (if_neg hrun))),
    startRecovery_recovering _ 0⟩

theorem railInRange_returns {s : State} {r : Nat} (h : s.board.low.elem r = true) :
    Completes (.railInRange r) s (fun t => t.board.low.elem r = false ∧ t.mem = s.mem ∧
      t.fw = s.fw ∧ (r = 12 → t.obs.fatal = false ∧ t.board.tripLatch = false)) := by
  have hgone : (delNat s.board.low r).elem r = false := by simp [delNat]
  rw [Completes, exec_railInRange, execRailInRange, if_neg (by rw [h]; decide)]
  dsimp only
  split
  · exact ⟨_, rfl, hgone, rfl, rfl, fun _ => ⟨rfl, rfl⟩⟩
  · next h12 => exact ⟨_, rfl, hgone, rfl, rfl, fun e => absurd e h12⟩

theorem ref25Loss_stops {s : State} (h : s.clock.ref25 = true) : Completes .ref25Loss s (fun t =>
    (s.board.perstLow = false → 4 ≤ s.fw.stage → s.obs.fatal = false → t.fw.recovering = true) ∧
    (s.fw.stage < 4 ∨ (∀ j, j < 64 → ctxExists s j = false) → t.clock.ref25 = false ∧ t.clock.ns = s.clock.ns)) := by
  rw [Completes, exec_ref25Loss, execRef25Loss, if_neg (by simp [h])]
  extract_lets src s1
  split
  · next hoff =>
    refine ⟨_, rfl, fun hp hs hf => ?_, fun _ => ⟨rfl, rfl⟩⟩
    rw [hp, hf] at hoff
    simp at hoff
    omega
  · next hon =>
    refine ⟨_, rfl, fun _ _ _ => startRecovery_recovering _ 0, fun hn => ?_⟩
    have hnone : ∀ j, j < 64 → ctxExists s j = false := hn.resolve_left fun hs => hon (.inr (.inl hs))
    have hc := startRecovery_clock_of_none (s := s1) hnone 0
    exact ⟨(congrArg Clock.ref25 hc).trans rfl, (congrArg Clock.ns hc).trans rfl⟩

/-- Settles O36: a case per reset and rail command. -/
theorem resetsAndRails : Obligations.ResetsAndRails := by
  unfold Obligations.ResetsAndRails
  intro s
  refine ⟨fun hp => ?_, fun m c hp => ?_, ?_, fun r h22 hr => ⟨railUndervoltage_resets hr, railUndervoltage_recovers h22 hr⟩,
    fun r hr => railInRange_returns hr, ref25Loss_stops, ⟨_, exec_ref25Return s, rfl⟩⟩
  · exact ⟨_, (exec_perstNAssert s).trans (if_neg (by simp [hp])), rfl, rfl, rfl, rfl, rfl, rfl, rfl, rfl, rfl, rfl, rfl⟩
  · refine ⟨_, (exec_perstNRelease m c s).trans (if_neg (by simp [hp])), rfl, ?_, ?_, rfl, rfl, rfl, rfl, rfl⟩
    · dsimp only
      split <;> rfl
    · dsimp only
      split <;> rfl
  · refine ⟨_, exec_powerUp s, rfl, rfl, rfl, rfl, rfl, rfl, rfl, rfl, fun r hr => ?_⟩
    simp [hr]

/-! ### Boot -/

theorem bootTarget_stage (f : BootFinding) (s : State) (t : Nat) : (bootTarget f s t).fw.stage = s.fw.stage := by
  unfold bootTarget
  dsimp only
  split <;> rfl

theorem bootRom_keeps (f : BootFinding) (s : State) : (bootRom f s).mem = s.mem ∧ (bootRom f s).fw.stage = s.fw.stage := by
  unfold bootRom
  dsimp only
  constructor
  · rw [bootTarget_mem]
    split <;> split <;> rfl
  · rw [bootTarget_stage]
    split <;> split <;> rfl

theorem nextStage_stage (s : State) (n : Nat) :
    (nextStage s n).fw.stage = n + 1 ∧ (nextStage s n).fw.progPos = bootPos n ∧ (n = 9 → (nextStage s n).fw.lastHost = s.clock.ns) := by
  unfold nextStage
  dsimp only [fire2_fw]
  split
  · exact ⟨rfl, rfl, fun _ => rfl⟩
  · next h => exact ⟨rfl, rfl, fun e => absurd e h⟩

theorem progressTo_board (s : State) (op k old pos total : Nat) (start : Bool) :
    (progressTo s op k old pos total start).board = s.board := by
  unfold progressTo
  split <;> rfl

theorem nextStage_board (s : State) (n : Nat) : (nextStage s n).board = s.board := by
  unfold nextStage
  dsimp only [fire2_board]
  split
  · rfl
  · exact progressTo_board ..

section BootStage
variable {s : State} {f : BootFinding} (hp : s.board.perstLow = false) (hw : s.board.waiting = false) (ht : s.board.tripLatch = false)
  (ha : alive s = true) (hr : s.fw.recovering = false) (h10 : s.fw.stage < 10) (he : s.fw.bootError = 0) (hb : s.fw.recoveryBoot = false)
include hp hw ht ha hr h10 he hb

/-- The end of a boot stage of a device that boots. -/
theorem bootStageComplete_runs : exec (.bootStageComplete f) s = (match stageError f s.fw.stage with
    | some e => .next (bootStop s e)
    | none =>
      if s.fw.stage = 1 ∧ s.fw.bootMode = 2 then .next (fire2 { bootRom f s with fw := { (bootRom f s).fw with recoveryBoot := true } })
      else .next (nextStage (stageWork f s s.fw.stage) s.fw.stage)) := by
  have hstop : ¬(10 ≤ s.fw.stage ∨ s.fw.bootError ≠ 0 ∨ s.fw.recoveryBoot = true) := by
    rw [he, hb]
    simpa using h10
  have hrun : ¬(s.board.perstLow = true ∨ s.board.waiting = true ∨ s.board.tripLatch = true ∨ alive s = false) := by
    rw [hp, hw, ht, ha]
    decide
  have hfresh : ¬s.fw.recovering = true := by rw [hr]; decide
  exact (exec_bootStageComplete f s).trans ((if_neg hrun).trans ((if_neg hfresh).trans (if_neg hstop)))

theorem bootStage_ends (hn : stageError f s.fw.stage = none) (hm : ¬(s.fw.stage = 1 ∧ s.fw.bootMode = 2)) :
    Completes (.bootStageComplete f) s (fun t => t.fw.stage = s.fw.stage + 1 ∧ t.fw.progPos = bootPos s.fw.stage ∧
      (s.fw.stage = 5 → t.board.bayStop = []) ∧ (s.fw.stage = 9 → t.fw.lastHost = s.clock.ns)) := by
  rw [Completes, bootStageComplete_runs hp hw ht ha hr h10 he hb, hn]
  dsimp only
  rw [if_neg hm]
  obtain ⟨hst, hpos, -⟩ := nextStage_stage (stageWork f s s.fw.stage) s.fw.stage
  refine ⟨_, rfl, hst, hpos, fun h5 => ?_, fun h9 => ?_⟩
  · rw [nextStage_board, h5]
    rfl
  · rw [h9]
    exact (nextStage_stage s 9).2.2 rfl

theorem bootStage_fails {e : Nat} (hn : stageError f s.fw.stage = some e) :
    Completes (.bootStageComplete f) s (fun t => t.fw.bootError = e ∧ t.fw.stage = s.fw.stage ∧ t.sec = s.sec ∧ t.mem = s.mem ∧
      (t.fw.recoveryBoot = true ↔ e ≠ 4 ∧ s.fw.bootMode = 0)) := by
  rw [Completes, bootStageComplete_runs hp hw ht ha hr h10 he hb, hn]
  refine ⟨_, rfl, rfl, rfl, rfl, rfl, ?_⟩
  simp [bootStop]

theorem bootStage_recovery (hn : stageError f s.fw.stage = none) (h1 : s.fw.stage = 1) (hm : s.fw.bootMode = 2) :
    Completes (.bootStageComplete f) s (fun t => t.fw.recoveryBoot = true ∧ t.fw.stage = 1 ∧ t.mem = s.mem) := by
  rw [Completes, bootStageComplete_runs hp hw ht ha hr h10 he hb, hn]
  dsimp only
  rw [if_pos ⟨h1, hm⟩]
  obtain ⟨hmem, hst⟩ := bootRom_keeps f s
  exact ⟨_, rfl, rfl, hst.trans h1, hmem⟩

end BootStage

/-- Settles O37: the three ways a stage ends. -/
theorem bootRuns : Obligations.BootRuns := by
  unfold Obligations.BootRuns
  intro s f hp hw ht ha hr _ h10 he hb
  exact ⟨bootStage_ends hp hw ht ha hr h10 he hb, fun e => bootStage_fails hp hw ht ha hr h10 he hb,
    bootStage_recovery hp hw ht ha hr h10 he hb⟩

/-! ### Device recovery -/

theorem deviceRecovery_starts {s : State} {c : Nat} (ha : alive s = true) (h4 : 4 ≤ s.fw.stage) (h1 : 1 ≤ c) (h5 : c ≤ 5) :
    Completes (.deviceRecovery c) s (fun t => t.fw.recovering = true ∧
      (s.fw.recovering = false → t.fw.recoverStage = 3 ∧ t.net.sessions = [])) := by
  have hrun : ¬(alive s = false ∨ s.fw.stage < 4) := by rw [ha]; simpa using h4
  exact ⟨_, (exec_deviceRecovery c s).trans ((if_neg hrun).trans ((if_neg (by omega)).trans (if_pos h5))),
    startRecovery_recovering s 0, fun h => startRecovery_fresh h 0⟩

theorem deviceRecovery_ends {s : State} (hr : s.fw.recovering = true) (h10 : 10 ≤ s.fw.recoverStage) (hb : s.fw.recoverBlocked = false)
    (ha : alive s = true) :
    Completes (.deviceRecoveryComplete true) s (fun t => t.fw.recovering = false ∧ t.net.incarnation = s.net.incarnation + 1 ∧
      t.net.attested = [] ∧ t.mem = s.mem ∧ t.ctxs = s.ctxs) := by
  have hrun : ¬(s.fw.recovering = false ∨ s.fw.recoverStage < 10 ∨ alive s = false) := by rw [hr, ha]; simpa using h10
  exact ⟨_, (exec_deviceRecoveryComplete true s).trans ((if_neg hrun).trans (if_neg (by rw [hb]; decide))), rfl, rfl, rfl, rfl, rfl⟩

/-! ### Firmware pairs -/

/-- The state once a mismatch of a pair is noted: its event raised, and the pair out of service or its services restarting. -/
def pairMissed (s : State) (p : Nat) (second : Bool) : State :=
  let s1 := raise s 0x070A clsC noCtx (unitPair p) (p4 p ++ p4 (servicesOf s p))
  { s1 with fw := { s1.fw with pairs := put s1.fw.pairs p { out := second, lastMiss := some s.clock.ns, restarting := !second } } }

/-- The pairs of firmware that are out of service. -/
def pairsOut (s : State) : Nat := ((List.range 4).filter (fun p => (pairAt s p).out)).length

theorem pairAt_raise (s : State) (code cls k u p : Nat) (b : List Byte) : pairAt (raise s code cls k u b) p = pairAt s p :=
  congrArg (fun l => look l ({} : Pair) p) (raise_pairs s code cls k u b)

theorem pairAt_missed (s : State) (p : Nat) (second : Bool) :
    pairAt (pairMissed s p second) p = { out := second, lastMiss := some s.clock.ns, restarting := !second } := by
  simp [pairAt, pairMissed]

/-- Whether a mismatch of a pair now is its second within 24 hours. -/
def secondMiss (s : State) (p : Nat) : Bool := match (pairAt s p).lastMiss with | some t => decide (s.clock.ns < t + day) | none => false

theorem lockstepMismatch_notes {s : State} {p : Nat} (h4 : p < 4) (ho : (pairAt s p).out = false) (ha : alive s = true)
    (h3 : 3 ≤ s.fw.stage) : exec (.lockstepMismatch p) s =
      (if pairsOut (pairMissed s p (secondMiss s p)) = 4 then
        .next (raise (pairMissed s p (secondMiss s p)) 0x070B clsX noCtx (unitPair p) (p4 (pairsOut (pairMissed s p (secondMiss s p)))))
      else .next (pairMissed s p (secondMiss s p))) := by
  have hrun : ¬(4 ≤ p ∨ (pairAt s p).out = true ∨ alive s = false ∨ s.fw.stage < 3) := by
    rw [ho, ha]
    simp
    omega
  exact (exec_lockstepMismatch p s).trans (if_neg hrun)

/-- With a pair in service, not all four are out. -/
theorem pairsOut_ne_four {s : State} {p : Nat} (h4 : p < 4) (ho : (pairAt s p).out = false) : pairsOut s ≠ 4 := by
  intro h
  have hall := List.length_filter_eq_length_iff.1 (h.trans (List.length_range (n := 4)).symm) p (List.mem_range.2 h4)
  exact absurd (ho.symm.trans hall) Bool.false_ne_true

theorem lockstepMismatch_first {s : State} {p : Nat} (h4 : p < 4) (ho : (pairAt s p).out = false) (ha : alive s = true)
    (h3 : 3 ≤ s.fw.stage) (hm : secondMiss s p = false) : Completes (.lockstepMismatch p) s (fun t =>
      (pairAt t p).restarting = true ∧ (pairAt t p).out = false ∧ t.mem = s.mem ∧
      (t.obs.log.getLast?.map (fun e => (e.code, e.unit))) = some (0x070A, unitPair p)) := by
  have hpair := pairAt_missed s p false
  rw [Completes, lockstepMismatch_notes h4 ho ha h3, hm, if_neg (pairsOut_ne_four h4 (by rw [hpair]))]
  refine ⟨_, rfl, by rw [hpair]; rfl, by rw [hpair], rfl, ?_⟩
  exact congrArg (Option.map _) (raise_last ..)

theorem lockstepMismatch_second {s : State} {p : Nat} (h4 : p < 4) (ho : (pairAt s p).out = false) (ha : alive s = true)
    (h3 : 3 ≤ s.fw.stage) (hm : secondMiss s p = true) : Completes (.lockstepMismatch p) s (fun t =>
      (pairAt t p).out = true ∧ t.mem = s.mem) := by
  have hpair := pairAt_missed s p true
  rw [Completes, lockstepMismatch_notes h4 ho ha h3, hm]
  split
  · exact ⟨_, rfl, by rw [pairAt_raise, hpair], rfl⟩
  · exact ⟨_, rfl, by rw [hpair], rfl⟩

/-! ### The sideband's mode, the link and manager sessions -/

theorem setI3c_on {s : State} (h : s.board.low.elem 14 = false) (a : Option Nat) :
    setI3c s a = { s with board := { s.board with i3c := a } } := if_neg (by rw [h]; decide)

theorem setI3c_off {s : State} (h : s.board.low.elem 14 = true) (a : Option Nat) : setI3c s a = s := if_pos h

/-- What the delivery of a vector leaves of a vector's entry. -/
theorem look_deliver (h : HostIf) (v w : Nat) : look (deliver h v).msix {} w =
    if w = v ∧ (look h.msix {} v).pend = true ∧ (look h.msix {} v).mask = false then { look h.msix {} v with pend := false }
    else look h.msix {} w := by
  have hc : ((look h.msix {} v).pend && !(look h.msix {} v).mask) = true ↔ (look h.msix {} v).pend = true ∧ (look h.msix {} v).mask = false := by
    rw [Bool.and_eq_true, Bool.not_eq_true']
  unfold deliver
  dsimp only
  by_cases hv : w = v
  · subst hv
    split
    · next hd => rw [if_pos ⟨rfl, hc.1 hd⟩, look_put_same]
    · next hd => exact (if_neg fun e => hd (hc.2 e.2)).symm
  · have hr : ¬(w = v ∧ (look h.msix {} v).pend = true ∧ (look h.msix {} v).mask = false) := fun e => hv e.1
    rw [if_neg hr]
    split
    · rw [look_put_other _ _ _ _ _ hv]
    · rfl

theorem deliver_mask (h : HostIf) (v w : Nat) : (look (deliver h v).msix {} w).mask = (look h.msix {} w).mask := by
  rw [look_deliver]
  split
  · next hd => rw [hd.1]
  · rfl

/-- A vector delivered that is not masked is no longer pending, and one that was not pending stays so. -/
theorem deliver_pend {h : HostIf} {v w : Nat} (hw : v = w ∧ (look h.msix {} w).mask = false ∨ (look h.msix {} w).pend = false) :
    (look (deliver h v).msix {} w).pend = false := by
  rw [look_deliver]
  split
  · rfl
  · next hn =>
    refine hw.elim (fun hm => ?_) id
    obtain ⟨rfl, hm⟩ := hm
    exact Bool.eq_false_of_not_eq_true fun hp => hn ⟨rfl, hp, hm⟩

theorem pcieLinkUp_delivers {s : State} {v : Nat} (hv : v < 3) (hm : (look s.host.msix {} v).mask = false) :
    (look ([0, 1, 2].foldl deliver s.host).msix {} v).pend = false := by
  simp only [List.foldl_cons, List.foldl_nil]
  obtain rfl | rfl | rfl : v = 0 ∨ v = 1 ∨ v = 2 := by omega
  · exact deliver_pend (.inr (deliver_pend (.inr (deliver_pend (.inl ⟨rfl, hm⟩)))))
  · exact deliver_pend (.inr (deliver_pend (.inl ⟨rfl, by rwa [deliver_mask]⟩)))
  · exact deliver_pend (.inl ⟨rfl, by rwa [deliver_mask, deliver_mask]⟩)

theorem managerSession_ends {s : State} {k node b t0 : Nat} (hk : s.net.managers[k]? = some (node, b)) (ha : (node, t0) ∈ s.net.attested)
    (ht : t0 + day ≤ s.clock.ns) :
    Completes (.managerSessionTimeout k) s (fun t => (∀ a ∈ t.net.attested, a.1 ≠ node) ∧ t.mem = s.mem ∧ t.fw = s.fw) := by
  have hany : s.net.attested.any (fun a => a.1 == node && decide (a.2 + day ≤ s.clock.ns)) = true :=
    List.any_eq_true.2 ⟨_, ha, by simpa using ht⟩
  rw [Completes, exec_managerSessionTimeout, execManagerSessionTimeout, hk]
  dsimp only
  rw [if_pos hany]
  refine ⟨_, rfl, fun a hm => ?_, rfl, rfl⟩
  simpa using (List.mem_filter.1 hm).2

/-- Settles O38: a case per command. -/
theorem recoveryAndPairs : Obligations.RecoveryAndPairs := by
  unfold Obligations.RecoveryAndPairs
  intro s
  refine ⟨fun c => deviceRecovery_starts, deviceRecovery_ends, fun p h4 ho ha h3 => ⟨fun hm => ?_, fun t0 h0 hm => ?_⟩, fun p hr => ?_,
    fun h14 => ⟨fun a hlt => ?_, ?_, ?_⟩, fun h14 => ⟨fun a => ?_, ?_, ?_⟩, ⟨_, exec_pcieLinkDown s, rfl⟩,
    ⟨_, exec_pcieLinkUp s, rfl, rfl, fun v => pcieLinkUp_delivers⟩, fun k node b t0 => managerSession_ends⟩
  · refine lockstepMismatch_first h4 ho ha h3 ?_
    unfold secondMiss
    split
    · next t0 ht => simpa using hm t0 ht
    · rfl
  · exact lockstepMismatch_second h4 ho ha h3 (by simpa [secondMiss, h0] using hm)
  · refine ⟨_, (exec_pairRestartComplete p s).trans (if_neg (by rw [hr]; decide)), ?_, rfl, rfl⟩
    simp [pairAt]
  · exact ⟨_, (exec_entdaa a s).trans (if_pos hlt), setI3c_on h14 _⟩
  · exact ⟨_, exec_setdasa s, setI3c_on h14 _⟩
  · exact ⟨_, exec_rstdaa s, setI3c_on h14 _⟩
  · rw [Completes, exec_entdaa, execEntdaa, setI3c_off h14]
    split <;> exact ⟨s, rfl, rfl⟩
  · exact ⟨_, exec_setdasa s, setI3c_off h14 _⟩
  · exact ⟨_, exec_rstdaa s, setI3c_off h14 _⟩

end Sys2Proof.Machine


/-! ## The outbox ring, the host's absence and the trace region -/

namespace Sys2Proof.Machine

/-! ### What events leave of the host's memory -/

theorem fireIf_hostWr (b : Bool) (h : HostIf) (link : Bool) (v : Nat) : (fireIf b h link v).hostWr = h.hostWr := by
  unfold fireIf fire
  dsimp only
  repeat' split
  all_goals rfl

theorem lostRecs_hostWr (h : HostIf) (link : Bool) (n : Nat) : (lostRecs h link n).hostWr = h.hostWr := by
  unfold lostRecs
  split
  · rfl
  · exact fireIf_hostWr ..

theorem summarise_hostWr (h : HostIf) (link : Bool) (e : Event) : (summarise h link e).hostWr = h.hostWr := fireIf_hostWr ..

theorem raise_hostWr (s : State) (code cls k u : Nat) (p : List Byte) : (raise s code cls k u p).host.hostWr = s.host.hostWr := by
  unfold raise raiseOn
  dsimp only
  rw [fireIf_hostWr, lostRecs_hostWr]
  split
  · exact summarise_hostWr ..
  · rfl

/-! ### The outbox ring -/

theorem outboxFullEvent_room {s : State} (h : unconsumed s.fw.outbox < 4096) : outboxFullEvent s = s :=
  if_neg fun hf => absurd hf.1 (Nat.not_le.2 h)

theorem outboxFullEvent_ring (s : State) : RingKept s (outboxFullEvent s) := by
  unfold outboxFullEvent
  split
  · refine .trans ?_ (.raise_noCtx ..)
    exact ⟨rfl, rfl, rfl, rfl, rfl, rfl⟩
  · exact .refl s

theorem outboxFullEvent_hostWr (s : State) : (outboxFullEvent s).host.hostWr = s.host.hostWr := by
  unfold outboxFullEvent
  split
  · exact raise_hostWr ..
  · rfl

theorem outboxRecordWrite_writes {s : State} {r : Rec} {rest : List Rec} (hw : s.fw.outbox.waiting = r :: rest)
    (hb : outboxBlocked s.fw = false) (hc : s.clock.ref25 = true) (hs : serves s 0 = true) :
    Completes .outboxRecordWrite s (fun t => t.fw.outbox.prod = (s.fw.outbox.prod + 1) % 8192 ∧ t.mem = s.mem ∧
      t.host.hostWr = s.host.hostWr ++ [(s.fw.outbox.addr + 64 * (s.fw.outbox.prod % 4096), outboxBytes r s.fw.outbox.prod)] ∧
      (unconsumed t.fw.outbox < 4096 → t.fw.outbox.waiting = rest)) := by
  have hgo : ¬(outboxBlocked s.fw = true ∨ s.clock.ref25 = false ∨ serves s 0 = false) := by
    rw [hb, hc, hs]
    decide
  rw [Completes, exec_outboxRecordWrite, execOutboxRecordWrite, hw]
  dsimp only
  rw [if_neg hgo]
  have hring := outboxFullEvent_ring (ringWrite s r rest)
  refine ⟨_, rfl, hring.prod, hring.mem, (outboxFullEvent_hostWr _).trans (fireIf_hostWr ..), fun hroom => ?_⟩
  rw [unconsumed, hring.prod, hring.cons] at hroom
  rw [outboxFullEvent_room hroom]
  rfl

theorem outboxSignalTimer_fires {s : State} {t0 : Nat} (h0 : s.fw.outbox.oldest = some t0) (ht : t0 + 10000 ≤ s.clock.ns) :
    Completes .outboxSignalTimer s (fun t =>
      t.fw.outbox.oldest = none ∧ t.host = fire s.host s.fw.linkUp 0 ∧ t.mem = s.mem) := by
  rw [Completes, exec_outboxSignalTimer, execOutboxSignalTimer, h0]
  exact ⟨_, if_neg (Nat.not_lt.2 ht), rfl, rfl, rfl⟩

/-! ### The host's absence -/

/-- Between two states nothing of firmware, memory, the cores or what contexts do on the loss of their host changes, and no
request to pause is withdrawn. -/
structure PausesOnly (s t : State) : Prop where
  fw : t.fw = s.fw
  mem : t.mem = s.mem
  cores : t.cores = s.cores
  launched : ∀ k, (ctxOf t k).launched = (ctxOf s k).launched
  hostLoss : ∀ k, (ctxOf t k).hostLoss = (ctxOf s k).hostLoss
  asked : ∀ k, (ctxOf s k).pauseReq = true → (ctxOf t k).pauseReq = true

namespace PausesOnly
variable {s t u : State}

theorem refl (s : State) : PausesOnly s s := ⟨rfl, rfl, rfl, fun _ => rfl, fun _ => rfl, fun _ => id⟩

theorem trans (h : PausesOnly s t) (h' : PausesOnly t u) : PausesOnly s u :=
  ⟨h'.fw.trans h.fw, h'.mem.trans h.mem, h'.cores.trans h.cores, fun k => (h'.launched k).trans (h.launched k),
    fun k => (h'.hostLoss k).trans (h.hostLoss k), fun k hk => h'.asked k (h.asked k hk)⟩

end PausesOnly

theorem watchTick_fw (s : State) (k : Nat) : (watchTick s k).fw = s.fw := by
  unfold watchTick
  dsimp only
  split <;> rfl

/-- A launched context with the policy PAUSE is asked to pause. -/
theorem absentCtx_pause {s : State} {k : Nat} (hl : (ctxOf s k).launched = true) (hp : (ctxOf s k).hostLoss = 1) :
    absentCtx s k = setCtx (watchTick s k) k { ctxOf (watchTick s k) k with pauseReq := true } := by
  rw [absentCtx, if_neg (by rw [hl]; decide), if_neg (by rw [hp]; decide), if_pos hp]

theorem absentCtx_none {s : State} {k : Nat} (h : (ctxOf s k).launched = false ∨ ((ctxOf s k).hostLoss ≠ 1 ∧ (ctxOf s k).hostLoss ≠ 2)) :
    absentCtx s k = s := by
  unfold absentCtx
  dsimp only
  split
  · rfl
  · next hl =>
    obtain ⟨h1, h2⟩ := h.resolve_left hl
    rw [if_neg h2, if_neg h1]

theorem absentCtx_only {s : State} {k : Nat} (h : (ctxOf s k).launched = true → (ctxOf s k).hostLoss ≠ 2) :
    PausesOnly s (absentCtx s k) ∧
      ((ctxOf s k).launched = true → (ctxOf s k).hostLoss = 1 → (ctxOf (absentCtx s k) k).pauseReq = true) := by
  by_cases hl : (ctxOf s k).launched = true
  · by_cases hp : (ctxOf s k).hostLoss = 1
    · obtain ⟨hcores, -, hothers⟩ := watchTick_frame s k
      have hk := ctxOf_watchTick hl
      rw [absentCtx_pause hl hp]
      refine ⟨⟨watchTick_fw s k, watchTick_mem s k, hcores, fun j => ?_, fun j => ?_, fun j hj => ?_⟩, fun _ _ => by simp⟩
      all_goals by_cases hjk : j = k
      · subst hjk; simp [hk]
      · rw [ctxOf_setCtx_other _ _ _ _ hjk, hothers j hjk]
      · subst hjk; simp [hk]
      · rw [ctxOf_setCtx_other _ _ _ _ hjk, hothers j hjk]
      · subst hjk; simp [hk]
      · rw [ctxOf_setCtx_other _ _ _ _ hjk, hothers j hjk]
        exact hj
    · rw [absentCtx_none (.inr ⟨hp, h hl⟩)]
      exact ⟨.refl s, fun _ he => absurd he hp⟩
  · rw [absentCtx_none (.inl (Bool.eq_false_of_not_eq_true hl))]
    exact ⟨.refl s, fun he => absurd he hl⟩

theorem absentCtx_fold (l : List Nat) {s : State} (h : ∀ k ∈ l, (ctxOf s k).launched = true → (ctxOf s k).hostLoss ≠ 2) :
    PausesOnly s (l.foldl absentCtx s) ∧ ∀ k ∈ l, (ctxOf s k).launched = true → (ctxOf s k).hostLoss = 1 →
      (ctxOf (l.foldl absentCtx s) k).pauseReq = true := by
  induction l generalizing s with
  | nil => exact ⟨.refl s, fun _ hk => nomatch hk⟩
  | cons a l ih =>
    obtain ⟨h1, ha⟩ := absentCtx_only (h a List.mem_cons_self)
    obtain ⟨h2, hl⟩ := ih (s := absentCtx s a) fun k hk hla => by
      rw [h1.hostLoss]
      exact h k (List.mem_cons_of_mem _ hk) (by rwa [h1.launched] at hla)
    refine ⟨h1.trans h2, fun k hk hla hp => ?_⟩
    rcases List.mem_cons.1 hk with rfl | hk
    · exact h2.asked _ (ha hla hp)
    · exact hl k hk (by rwa [h1.launched]) (by rwa [h1.hostLoss])

theorem hostAbsenceTest_absent {s : State} (ha : alive s = true) (hs : serves s 0 = true) (hn : s.fw.absent = false)
    (h10 : 10 ≤ s.fw.stage) (ht : s.fw.lastHost + s.fw.timeoutS * second ≤ s.clock.ns)
    (hp : ∀ k, k < 64 → (ctxOf s k).launched = true → (ctxOf s k).hostLoss ≠ 2) :
    Completes .hostAbsenceTest s (fun t => t.fw.absent = true ∧ t.fw.absentAt = s.clock.ns ∧ t.mem = s.mem ∧ t.cores = s.cores ∧
      ∀ k, k < 64 → (ctxOf s k).launched = true → (ctxOf s k).hostLoss = 1 → (ctxOf t k).pauseReq = true) := by
  have hgo : ¬(alive s = false ∨ serves s 0 = false ∨ s.fw.absent = true ∨ s.fw.stage < 10 ∨
      s.clock.ns < s.fw.lastHost + s.fw.timeoutS * second) := by
    rw [ha, hs, hn]
    simp only [Bool.true_eq_false, Bool.false_eq_true, false_or]
    omega
  rw [Completes, exec_hostAbsenceTest, execHostAbsenceTest, if_neg hgo]
  extract_lets f s1 s2
  have hctxs : s2.ctxs = s.ctxs := raise_ctxs_of_none (k := noCtx) (by decide) ..
  have hctx (k : Nat) : ctxOf s2 k = ctxOf s k := by rw [ctxOf, hctxs, ctxOf]
  obtain ⟨honly, hask⟩ := absentCtx_fold ctxNums (s := s2) fun k hk => by
    rw [hctx]
    exact hp k (List.mem_range.1 hk)
  have habs : s2.fw.absent = true := BesideOutbox.raise (g := Firmware.absent) (fun _ _ => rfl) ..
  have hat : s2.fw.absentAt = s.clock.ns := BesideOutbox.raise (g := Firmware.absentAt) (fun _ _ => rfl) ..
  refine ⟨_, rfl, (congrArg Firmware.absent honly.fw).trans habs, (congrArg Firmware.absentAt honly.fw).trans hat, honly.mem, honly.cores, fun k hk hl h1 => ?_⟩
  exact hask k (List.mem_range.2 hk) (by rwa [hctx]) (by rwa [hctx])

/-! ### The trace region -/

theorem look_bumpT_same (t : Tbl Nat) (kind index number n : Nat) :
    look (bumpT t kind index number n) 0 (counterKey kind index number) = look t 0 (counterKey kind index number) + n :=
  look_put_same ..

/-- The buffers of the trace with a source's oldest record withoutOldest out. -/
def withoutOldest (o : Observe) (src : Nat) (rest : List TraceRec) : Observe :=
  { o with buffers := if rest = [] then drop o.buffers src else put o.buffers src rest }

theorem look_withoutOldest (o : Observe) (src : Nat) (rest : List TraceRec) : look (withoutOldest o src rest).buffers [] src = rest := by
  unfold withoutOldest
  dsimp only
  split
  · next h => rw [look_drop_same, h]
  · exact look_put_same ..

theorem traceRecordWrite_puts {s : State} {src : Nat} {r : TraceRec} {rest : List TraceRec} (h : look s.obs.buffers [] src = r :: rest) :
    exec (.traceRecordWrite src) s = .next { s with obs := regionPut (withoutOldest s.obs src rest) r } := by
  rw [exec_traceRecordWrite, execTraceRecordWrite, h]
  rfl

theorem regionPut_room {o : Observe} (h : o.mode = 0 ∨ o.next < o.capacity) (t : TraceRec) :
    regionPut o t = { o with
      region := if o.capacity < (o.region ++ [t]).length then (o.region ++ [t]).drop 1 else o.region ++ [t]
      next := o.next + 1
      counters := bumpT o.counters 0 0 0xC0 1 } :=
  if_neg (by omega)

theorem regionPut_full {o : Observe} (hm : o.mode = 1) (hc : o.capacity ≤ o.next) (t : TraceRec) :
    regionPut o t = { o with counters := bumpT o.counters 0 0 0xC1 1, lostB := addNat o.lostB t.source } :=
  if_pos ⟨hm, hc⟩

/-- Settles O39: a case per command. -/
theorem outboxAndTrace : Obligations.OutboxAndTrace := by
  unfold Obligations.OutboxAndTrace
  intro s
  refine ⟨fun r rest => outboxRecordWrite_writes, fun t0 => outboxSignalTimer_fires, fun v hv => ?_, fun v hv => ?_,
    hostAbsenceTest_absent, fun src r rest hr => ⟨fun hroom => ?_, fun hm hc => ?_⟩⟩
  · exact ⟨_, (exec_cons v s).trans (if_neg (Nat.not_lt.2 hv)), rfl, rfl, rfl, rfl⟩
  · exact ⟨s, (exec_cons v s).trans (if_pos hv), rfl⟩
  · rw [Completes, traceRecordWrite_puts hr, regionPut_room (o := withoutOldest s.obs src rest) hroom]
    refine ⟨_, rfl, rfl, look_withoutOldest .., look_bumpT_same .., rfl, fun hlen => if_neg ?_⟩
    simpa [withoutOldest] using hlen
  · rw [Completes, traceRecordWrite_puts hr, regionPut_full (o := withoutOldest s.obs src rest) hm hc]
    exact ⟨_, rfl, rfl, rfl, look_bumpT_same .., rfl⟩

end Sys2Proof.Machine


/-! ## Live update and the flash -/

namespace Sys2Proof.Machine

/-! ### Activation -/

section Activation
variable {s : State} {g : Nat}

/-- An activation that nothing holds: the staged image runs, or firmware's own that cannot import comes back. -/
theorem fwActivationBegin_goes {v : Image} (hst : (updAt s g).staged = some v) (hph : (updAt s g).phase = 3)
    (hem : s.power.emActive = false) (hre : anyRestart s = false) (ha : alive s = true) (hsv : serves s 3 = true) (ok : Bool) :
    exec (.fwActivationBegin g ok) s =
      let s1 := setUpd s g { updAt s g with phase := 4, old := some (runningOf s g), actAt := s.clock.ns }
      if g = 0 ∧ ok = false then .next (rollBack s1 g 2)
      else
        let s2 := runImage s1 g v
        let s3 : State := if g = 1 then { s2 with power := { s2.power with fallback := true, planned := true } } else s2
        let s4 := fire2 (fwState s3 g 1 v.version 0)
        .next (drawn (raise s4 0x0705 clsC noCtx 0
          (p4 g ++ p4 (runningOf s g).version ++ p4 v.version ++ p4 (freeVal s 32 % (pauseLimit g + 1))))) := by
  have hgo : ¬((updAt s g).phase ≠ 3 ∨ s.power.emActive = true ∨ anyRestart s = true ∨ alive s = false ∨ serves s 3 = false) := by
    rw [hph, hem, hre, ha, hsv]
    decide
  rw [exec_fwActivationBegin]
  unfold execFwActivationBegin
  dsimp only
  split
  · next hn => cases hst.symm.trans hn
  · next w hw =>
    cases hst.symm.trans hw
    exact if_neg hgo

/-- The report of an activation, as raised and recorded, leaves the updates. -/
theorem activated_updAt (s : State) (st v c code : Nat) (p : List Byte) :
    updAt (drawn (raise (fire2 (fwState s g st v c)) code clsC noCtx 0 p)) g = updAt s g := by
  rw [updAt, drawn_fw, ← updAt, updAt_of_updates (raise_updates ..), updAt, fire2_fw, ← updAt, fwState,
    updAt_of_updates (asyncRec_updates ..)]

theorem activated_sec (s : State) (st v c code : Nat) (p : List Byte) :
    (drawn (raise (fire2 (fwState s g st v c)) code clsC noCtx 0 p)).sec = s.sec := by
  rw [drawn_sec, raise_sec, fire2_sec, fwState, asyncRec_sec]

theorem activated_power (s : State) (st v c code : Nat) (p : List Byte) :
    (drawn (raise (fire2 (fwState s g st v c)) code clsC noCtx 0 p)).power = s.power := by
  rw [drawn_power, raise_power, fire2_power, fwState, asyncRec_power]

theorem activated_mem (s : State) (st v c code : Nat) (p : List Byte) :
    (drawn (raise (fire2 (fwState s g st v c)) code clsC noCtx 0 p)).mem = s.mem := by
  rw [drawn_mem, raise_mem, fire2_mem, fwState, asyncRec_mem]

theorem updAt_runImage (s : State) (t : Nat) (v : Image) (g : Nat) : updAt (runImage s t v) g = updAt s g := by
  unfold runImage updAt
  dsimp only
  split <;> rfl

/-- The state in which a target's staged image runs; for the PMU, under the fallback. -/
def activated (s : State) (g : Nat) (u : Update) (v : Image) : State :=
  let s2 := runImage (setUpd s g u) g v
  if g = 1 then { s2 with power := { s2.power with fallback := true, planned := true } } else s2

theorem activated_leaves (s : State) (g : Nat) (u : Update) (v : Image) :
    updAt (activated s g u v) g = u ∧ (activated s g u v).sec = { s.sec with running := put s.sec.running g v } ∧
    (activated s g u v).mem = s.mem ∧ (g = 1 → (activated s g u v).power.fallback = true) := by
  have hupd : updAt (runImage (setUpd s g u) g v) g = u := (updAt_runImage ..).trans (updAt_setUpd ..)
  unfold activated
  dsimp only
  split
  · exact ⟨hupd, rfl, rfl, fun _ => rfl⟩
  · next h => exact ⟨hupd, rfl, rfl, fun e => absurd e h⟩

theorem runningOf_put {t : State} {v : Image} (h : t.sec = { s.sec with running := put s.sec.running g v }) : runningOf t g = v := by
  rw [runningOf, h]
  exact look_put_same ..

/-- A trial given up: no update is left, the image before it runs, and the event tells. -/
theorem rollBack_ends (s : State) (g cause : Nat) : updAt (rollBack s g cause) g = {} ∧
    (rollBack s g cause).sec = { s.sec with running := put s.sec.running g ((updAt s g).old.getD (runningOf s g)) } ∧
    (rollBack s g cause).mem = s.mem ∧ (rollBack s g cause).obs.log.getLast?.map (fun e => e.code) = some 0x0707 := by
  refine ⟨updateEnded_updAt .., ?_, rollBack_mem .., congrArg (Option.map _) (raise_last ..)⟩
  rw [rollBack, updateEnded_sec]
  rfl

section Begin
variable {v : Image} {ok : Bool} (hst : (updAt s g).staged = some v) (hph : (updAt s g).phase = 3) (hem : s.power.emActive = false)
  (hre : anyRestart s = false) (ha : alive s = true) (hsv : serves s 3 = true)
include hst hph hem hre ha hsv

theorem fwActivationBegin_runs (hok : g ≠ 0 ∨ ok = true) : Completes (.fwActivationBegin g ok) s (fun t => (updAt t g).phase = 4 ∧
    (updAt t g).old = some (runningOf s g) ∧ (updAt t g).actAt = s.clock.ns ∧ runningOf t g = v ∧ t.mem = s.mem ∧
    t.sec.counters = s.sec.counters ∧ t.sec.bootPtr = s.sec.bootPtr ∧ (g = 1 → t.power.fallback = true) ∧
    (t.obs.log.getLast?.map (fun e => e.code)) = some 0x0705) := by
  have hno : ¬(g = 0 ∧ ok = false) := by
    rintro ⟨h0, hf⟩
    exact hok.elim (· h0) fun h => absurd (hf.symm.trans h) Bool.false_ne_true
  rw [Completes, fwActivationBegin_goes hst hph hem hre ha hsv]
  dsimp only
  rw [if_neg hno]
  obtain ⟨hupd, hsec, hmem, hpow⟩ :=
    activated_leaves s g { updAt s g with phase := 4, old := some (runningOf s g), actAt := s.clock.ns } v
  refine ⟨_, rfl, ?_⟩
  rw [← activated, activated_updAt, activated_mem, activated_power, runningOf_put (activated_sec .. |>.trans hsec), activated_sec, hupd, hsec]
  exact ⟨rfl, rfl, rfl, rfl, hmem, rfl, rfl, hpow, congrArg (Option.map _) (raise_last ..)⟩

theorem fwActivationBegin_returns (h0 : g = 0) (hok : ok = false) : Completes (.fwActivationBegin g ok) s (fun t => updAt t g = {} ∧
    runningOf t g = runningOf s g ∧ t.mem = s.mem ∧ (t.obs.log.getLast?.map (fun e => e.code)) = some 0x0707) := by
  rw [Completes, fwActivationBegin_goes hst hph hem hre ha hsv]
  dsimp only
  rw [if_pos ⟨h0, hok⟩]
  obtain ⟨hupd, hsec, hmem, hlog⟩ :=
    rollBack_ends (setUpd s g { updAt s g with phase := 4, old := some (runningOf s g), actAt := s.clock.ns }) g 2
  refine ⟨_, rfl, hupd, (runningOf_put hsec).trans ?_, hmem, hlog⟩
  rw [updAt_setUpd]
  rfl

end Begin

theorem fwActivateWindowExpiry_defers (hph : (updAt s g).phase = 3)
    (ht : (updAt s g).reqAt + (updAt s g).window * second ≤ s.clock.ns) : Completes (.fwActivateWindowExpiry g) s (fun t =>
      (updAt t g).phase = 2 ∧ (updAt t g).staged = (updAt s g).staged ∧ t.sec = s.sec ∧ t.mem = s.mem ∧
      (t.obs.log.getLast?.map (fun e => e.code)) = some 0x0708) := by
  rw [Completes, exec_fwActivateWindowExpiry, execFwActivateWindowExpiry, if_neg (not_or.2 ⟨not_not.2 hph, Nat.not_lt.2 ht⟩)]
  refine ⟨_, rfl, ?_, ?_, ?_, ?_, congrArg (Option.map _) (raise_last ..)⟩
  · rw [updAt_of_updates (raise_updates ..), fwState, updAt_of_updates (asyncRec_updates ..), updAt_setUpd]
  · rw [updAt_of_updates (raise_updates ..), fwState, updAt_of_updates (asyncRec_updates ..), updAt_setUpd]
  · rw [raise_sec, fwState, asyncRec_sec, setUpd_sec]
  · rw [raise_mem, fwState, asyncRec_mem, setUpd_mem]

theorem fwCommitTimeout_rollsBack {v : Image} (hph : (updAt s g).phase = 4) (hold : (updAt s g).old = some v)
    (ht : (updAt s g).actAt + (updAt s g).commit * second ≤ s.clock.ns) : Completes (.fwCommitTimeout g) s (fun t => updAt t g = {} ∧
      runningOf t g = v ∧ t.sec.counters = s.sec.counters ∧ t.mem = s.mem ∧ (t.obs.log.getLast?.map (fun e => e.code)) = some 0x0707) := by
  rw [Completes, exec_fwCommitTimeout, execFwCommitTimeout, if_neg (not_or.2 ⟨not_not.2 hph, Nat.not_lt.2 ht⟩)]
  obtain ⟨hupd, hsec, hmem, hlog⟩ := rollBack_ends s g 1
  rw [hold] at hsec
  exact ⟨_, rfl, hupd, runningOf_put hsec, by rw [hsec], hmem, hlog⟩

end Activation

/-! ### Authenticated areas -/

/-- The counters an authenticated write gives: each the greater of what it was and what the write brings. -/
theorem foldl_max_le (f : Nat → Nat) (l : List Nat) (t : Tbl Nat) (i : Nat) :
    look t 0 i ≤ look (l.foldl (fun t i => put t i (max (look t 0 i) (f i))) t) 0 i := by
  refine List.foldlRecOn (motive := fun u : Tbl Nat => look t 0 i ≤ look u 0 i) _ _ le_rfl fun u hu j _ => hu.trans ?_
  by_cases hj : i = j
  · subst hj
    rw [look_put_same]
    exact le_max_left ..
  · rw [look_put_other _ _ _ _ _ hj]

theorem applyArea_counters_le (x : Security) (a : Nat) (d : List Byte) (i : Nat) :
    look x.counters 0 i ≤ look (applyArea x a d).counters 0 i := by
  unfold applyArea
  dsimp only
  split
  · exact foldl_max_le ..
  · split <;> exact le_rfl

theorem applyArea_areas (x : Security) (a : Nat) (d : List Byte) : look (applyArea x a d).areas [] a = d := by
  unfold applyArea
  dsimp only
  split
  · exact look_put_same ..
  · split <;> exact look_put_same ..

theorem flashRefused_keeps (s : State) (a c : Nat) : (flashRefused s a c).sec = s.sec ∧ (flashRefused s a c).mem = s.mem ∧
    (flashRefused s a c).obs.log.getLast?.map (fun e => e.code) = some 0x0906 :=
  ⟨raise_sec .., raise_mem .., congrArg (Option.map _) (raise_last ..)⟩

section Flash
variable {s : State} {a n : Nat} {d : List Byte} (ha : a ∈ [2, 3, 4, 6])
include ha

theorem flashArea_elem : ¬([2, 3, 4, 6].elem a = false) := by rw [List.elem_eq_true_of_mem ha]; decide

theorem flashWrite_writes (hn : n = look s.sec.writeCtr 0 a + 1) :
    Completes (.flashWrite a n (kmac256 Config.flashKey (Config.flashTagged a n d)) d) s (fun t => look t.sec.areas [] a = d ∧
      look t.sec.writeCtr 0 a = n ∧ CountersKept s t ∧ t.mem = s.mem) := by
  rw [Completes, exec_flashWrite, execFlashWrite, if_neg (flashArea_elem ha), if_neg (not_not.2 rfl), if_neg (not_not.2 hn)]
  exact ⟨_, rfl, applyArea_areas .., look_put_same .., applyArea_counters_le s.sec a d, rfl⟩

theorem flashWrite_refused {tag : List Byte}
    (h : tag ≠ kmac256 Config.flashKey (Config.flashTagged a n d) ∨ n ≠ look s.sec.writeCtr 0 a + 1) :
    Completes (.flashWrite a n tag d) s (fun t => t.sec = s.sec ∧ t.mem = s.mem ∧
      (t.obs.log.getLast?.map (fun e => e.code)) = some 0x0906) := by
  rw [Completes, exec_flashWrite, execFlashWrite, if_neg (flashArea_elem ha)]
  split
  · exact ⟨_, rfl, flashRefused_keeps s a 0⟩
  · next htag => exact ⟨_, if_pos (h.resolve_left htag), flashRefused_keeps s a 1⟩

end Flash

theorem debugUnlockToken_decides (s : State) (m : Manifest) : Completes (.debugUnlockToken m) s (fun t => t.sec.debug = s.sec.debug ∧
    t.mem = s.mem ∧
    (failedCheck s 4 m (p8 Config.serial ++ Config.identityDigest) false = 0 → t.sec = { s.sec with debugNext := true }) ∧
    (failedCheck s 4 m (p8 Config.serial ++ Config.identityDigest) false ≠ 0 → t.sec = s.sec ∧
      (t.obs.log.getLast?.map (fun e => e.code)) = some 0x0901)) := by
  rw [Completes, exec_debugUnlockToken, execDebugUnlockToken]
  extract_lets check
  split
  · next h => exact ⟨_, rfl, rfl, rfl, fun _ => rfl, fun hn => absurd h hn⟩
  · next h =>
    have hsec (u : State) (t c v k : Nat) : (imageRejected u t c v k).sec = u.sec := raise_sec ..
    exact ⟨_, rfl, by rw [hsec], raise_mem .., fun hz => absurd hz h, fun _ => ⟨hsec .., congrArg (Option.map _) (raise_last ..)⟩⟩

/-- Settles O42: a case per command. -/
theorem firmwareUpdates : Obligations.FirmwareUpdates := by
  unfold Obligations.FirmwareUpdates
  intro s g
  exact ⟨fun v ok hst hph hem hre ha hsv => ⟨fwActivationBegin_runs hst hph hem hre ha hsv, fwActivationBegin_returns hst hph hem hre ha hsv⟩,
    fwActivateWindowExpiry_defers, fun v => fwCommitTimeout_rollsBack, fun a n d => flashWrite_writes,
    fun a n tag d ha => flashWrite_refused ha, debugUnlockToken_decides s⟩

end Sys2Proof.Machine


/-! ## Markers, END, STEP and the markers of a span -/

namespace Sys2Proof.Machine

/-! ### Instructions that leave a core not stepped -/

section Issue
variable {s t : State} {n k : Nat} {x : Core} {w : CWord}

theorem atIssue_free (h : AtIssue s n 8 k x) : x.oneStep = false := by
  obtain ⟨-, -, -, h⟩ := h
  exact h

theorem pauseHere_unasked (h : (ctxOf s k).pauseReq = false) : pauseHere s k n = s := if_neg (by rw [h]; decide)

end Issue

/-! ### Trace markers -/

theorem look_bumpT_other (t : Tbl Nat) (kind index number n : Nat) {key : Nat} (h : key ≠ counterKey kind index number) :
    look (bumpT t kind index number n) 0 key = look t 0 key := look_put_other _ _ _ _ _ h

/-- The counter of the markers not applied is none that the trace counts with. -/
theorem markerKey_ne (c : Nat) : counterKey 2 c 0x18 ≠ counterKey 0 0 0xC1 := by
  unfold counterKey
  omega

theorem traceO_counter (o : Observe) (r : TraceRec) {key : Nat} (h : key ≠ counterKey 0 0 0xC1) :
    look (traceO o r).counters 0 key = look o.counters 0 key := by
  unfold traceO
  dsimp only
  split
  · rfl
  · exact look_bumpT_other _ _ _ _ _ h

theorem traceCat_markers (s : State) (cat k n src ev flags tag c : Nat) (p : List Byte) :
    counter (traceCat s cat k n src ev flags tag p) 2 c 0x18 = counter s 2 c 0x18 := by
  unfold counter traceCat
  dsimp only
  split
  · exact traceO_counter _ _ (markerKey_ne c)
  · rfl

/-- The record of a marker: memory, contexts and cores stay, and a marker not applied is counted. -/
theorem markRecord_leaves (s : State) (k n ev id depth : Nat) (ok : Bool) :
    (markRecord s k n ev id depth ok).mem = s.mem ∧ (markRecord s k n ev id depth ok).ctxs = s.ctxs ∧
    (markRecord s k n ev id depth ok).cores = s.cores ∧
    counter (markRecord s k n ev id depth ok) 2 n 0x18 = counter s 2 n 0x18 + (if ok then 0 else 1) := by
  unfold markRecord
  dsimp only
  split
  · exact ⟨rfl, rfl, rfl, traceCat_markers ..⟩
  · exact ⟨rfl, rfl, rfl, (look_bumpT_same ..).trans (congrArg (· + 1) (traceCat_markers ..))⟩

/-- A core with an id on top of its marker stack, where the stack has room. -/
def pushed (x : Core) (id : BitVec 32) : Core :=
  if decide (x.depth < 16) then { x with marks := put x.marks x.depth id, depth := x.depth + 1 } else x

theorem pushed_eq (x : Core) (id : BitVec 32) : pushed x id = { x with
    marks := if x.depth < 16 then put x.marks x.depth id else x.marks
    depth := if x.depth < 16 then x.depth + 1 else x.depth } := by
  unfold pushed
  by_cases h : x.depth < 16
  · simp only [h, decide_true, if_true]
  · simp only [h, decide_false, if_false, Bool.false_eq_true]

section Markers
variable {s : State} {c k : Nat} {x : Core} {w : CWord} (h : AtIssue s c 8 k x) (hp : predTrue x w.pred w.pneg = true)
include h hp

/-- A marker instruction whose core goes to `y`, applied or not. -/
theorem marker_runs {opc ev id depth : Nat} {ok : Bool} {y : Core} (hy : y.oneStep = false) {body : Nat → Core → Except Trap State}
    (hb : body k x = .ok (markRecord (setCore s k c (adv y 8)) k c ev id depth ok)) :
    ∃ t, issueC s c opc w body = .next t ∧ t.mem = s.mem ∧ t.ctxs = s.ctxs ∧ t.cores = (setCore s k c (adv y 8)).cores ∧
      counter t 2 c 0x18 = counter s 2 c 0x18 + (if ok then 0 else 1) := by
  obtain ⟨hmem, hctxs, hcores, hcount⟩ := markRecord_leaves (setCore s k c (adv y 8)) k c ev id depth ok
  refine ⟨_, issueC_runs h hp hb ?_, hmem, hctxs, hcores, hcount⟩
  rw [coreOf, hcores, ← coreOf, coreOf_setCore, adv_oneStep, hy]

theorem markPush_marks : Completes (.markPush c w) s (fun t => t.mem = s.mem ∧ t.ctxs = s.ctxs ∧
    t.cores = (setCore s k c { x with
      marks := if x.depth < 16 then put x.marks x.depth w.imm else x.marks
      depth := if x.depth < 16 then x.depth + 1 else x.depth
      pc := x.pc + 8, held := none, skipBp := false }).cores ∧
    counter t 2 c 0x18 = counter s 2 c 0x18 + (if x.depth < 16 then 0 else 1)) := by
  have hx := atIssue_free h
  have hfree : (pushed x w.imm).oneStep = false := by
    rw [pushed_eq]
    exact hx
  obtain ⟨t, ht, hmem, hctxs, hcores, hcount⟩ := marker_runs h hp (opc := 0x1B) hfree (body := fun k x =>
    .ok (markRecord (setCore s k c (adv (pushed x w.imm) 8)) k c 0x10 w.imm.toNat (pushed x w.imm).depth (decide (x.depth < 16)))) rfl
  rw [pushed_eq] at hcores
  simp only [decide_eq_true_eq] at hcount
  exact ⟨t, ht, hmem, hctxs, hcores, hcount⟩

theorem markPop_unmarks : Completes (.markPop c w) s (fun t => t.mem = s.mem ∧ t.ctxs = s.ctxs ∧
    t.cores = (setCore s k c { x with depth := x.depth - 1, pc := x.pc + 8, held := none, skipBp := false }).cores ∧
    counter t 2 c 0x18 = counter s 2 c 0x18 + (if 0 < x.depth then 0 else 1)) := by
  have hx := atIssue_free h
  obtain ⟨t, ht, hmem, hctxs, hcores, hcount⟩ := marker_runs h hp (opc := 0x1C) (y := { x with depth := x.depth - 1 }) hx
    (body := fun k x => .ok (markRecord (setCore s k c (adv { x with depth := x.depth - 1 } 8)) k c 0x11
      (if decide (0 < x.depth) then (look x.marks 0 (x.depth - 1)).toNat else 0) (x.depth - 1) (decide (0 < x.depth)))) rfl
  simp only [decide_eq_true_eq] at hcount
  exact ⟨t, ht, hmem, hctxs, hcores, hcount⟩

end Markers

/-! ### END and STEP -/

/-- END of a core while another core of its launch goes on. -/
theorem finishLaunch_goesOn {s : State} {k c : Nat} {y : Core} (ho : ∃ n ∈ launchCores (ctxOf s k), n ≠ c ∧ (coreOf s k n).ended = false) :
    finishLaunch (setCore s k c y) k = setCore s k c y := by
  obtain ⟨n, hn, hne, hend⟩ := ho
  have hother : coreOf (setCore s k c y) k n = coreOf s k n := coreOf_setCore_other _ _ _ _ _ _ (by unfold coreKey; omega)
  refine if_neg fun hall => ?_
  have := List.all_eq_true.1 hall n hn
  rw [hother, hend] at this
  exact Bool.false_ne_true this

section Ends
variable {s : State} {c k : Nat} {x : Core} {w : CWord} (h : AtIssue s c 8 k x) (hp : predTrue x w.pred w.pneg = true)
  (he : enginesEmpty x = true) (hq : (ctxOf s k).pauseReq = false)
include h hp he hq

theorem endProgram_ends (h0 : x.pass = 0) (ho : ∃ n ∈ launchCores (ctxOf s k), n ≠ c ∧ n < 320 ∧ (coreOf s k n).ended = false) :
    Completes (.endProgram c w) s (fun t => OnlyCore s t k c ∧ (coreOf t k c).ended = true ∧ (∀ u, token (coreOf t k c) u = 0) ∧
      (coreOf t k c).sregs = x.sregs ∧ (coreOf t k c).preds = x.preds ∧ (coreOf t k c).pc = x.pc + 8) := by
  have hx := atIssue_free h
  obtain ⟨n, hn, hne, -, hend⟩ := ho
  have hfin := finishLaunch_goesOn (y := { adv x 8 with ended := true, tokens := [] }) ⟨n, hn, hne, hend⟩
  refine ⟨setCore s k c { adv x 8 with ended := true, tokens := [] }, ?_, onlyCore_setCore .., ?_⟩
  · rw [exec_endProgram, execEndProgram]
    refine issueC_runs h hp ?_ (by rw [coreOf_setCore]; exact hx)
    rw [if_neg (not_not.2 h0), if_neg (by rw [he]; decide), if_neg (by rw [hq]; decide), hfin]
  · rw [coreOf_setCore]
    exact ⟨rfl, fun _ => rfl, rfl, rfl, rfl⟩

theorem stepProgram_counts (h0 : x.pass = 0) (hw : w.imm.toNat = 0 ∨ w.imm.toNat = 2) :
    Completes (.stepProgram c w) s (fun t => OnlyCore s t k c ∧
      SameButRegs { x with stepNo := x.stepNo + 1 } (coreOf t k c) ∧ (coreOf t k c).sregs = x.sregs ∧
      (coreOf t k c).preds = x.preds ∧ (coreOf t k c).pc = x.pc + 8) := by
  have hx := atIssue_free h
  have hbit : w.imm.getLsbD 0 = false := by
    rw [BitVec.getLsbD]
    rcases hw with hw | hw <;> rw [hw] <;> decide
  refine ⟨setCore s k c { adv x 8 with stepNo := x.stepNo + 1 }, ?_, onlyCore_setCore .., ?_⟩
  · rw [exec_stepProgram, execStepProgram]
    refine issueC_runs h hp ?_ (by rw [coreOf_setCore]; exact hx)
    rw [if_neg (by omega), if_neg (not_not.2 h0), if_neg (by rw [he]; decide), hbit]
    exact congrArg Except.ok (pauseHere_unasked hq)
  · rw [coreOf_setCore]
    exact ⟨rfl, rfl, rfl, rfl⟩

/-! ### The markers of a span -/

omit hq in
theorem spanBegin_opens {r : SpanRec} {s1 : State} (h0 : x.pass = 0) (hl : x.level = 3)
    (hr : readSpan s k c (sreg x w.srca.toNat).toNat = .ok r)
    (hw : writeVas s k c (slotWrs (sreg x w.srca.toNat).toNat 0 (fun e => e.primary) r.entries) = .ok s1) (hc : coreOf s1 k c = x) :
    Completes (.spanBegin c w) s (fun t => t.mem = s1.mem ∧ (coreOf t k c).pass = 1 ∧ (coreOf t k c).spanId = w.imm ∧
      (coreOf t k c).snap = ⟨x.sregs, x.preds, x.tokens, x.pc + 8, x.depth⟩ ∧ (coreOf t k c).latch = false ∧
      (coreOf t k c).pc = x.pc + 8) := by
  have hx := atIssue_free h
  rw [Completes, exec_spanBegin, execSpanBegin, level3_runs h hl]
  refine ⟨setCore s1 k c { adv x 8 with
        snap := ⟨x.sregs, x.preds, x.tokens, x.pc + 8, x.depth⟩, pass := 1, spanId := w.imm
        spanRec := (sreg x w.srca.toNat).toNat, spanRescale := r.rescale, spanCause := 0
        spanIn := [], spanOut := [], latch := false, causes := 0, unspanned := false, obs := [], slotHit := [], slotMiss := false },
    issueC_runs h hp ?_ (by rw [coreOf_setCore]; exact hx), rfl, ?_⟩
  · rw [if_neg (not_not.2 h0), if_neg (by rw [he]; decide)]
    simp only [hr, hw, hc, bind, Except.bind]
  · rw [coreOf_setCore]
    exact ⟨rfl, rfl, rfl, rfl, rfl⟩

theorem spanEnd_leaves (h1 : x.pass = 1) (hl : x.level = 3) (ht : x.latch = false) (ho : x.obs = []) :
    Completes (.spanEnd c w) s (fun t => OnlyCore s t k c ∧ SameButRegs { x with pass := 0 } (coreOf t k c) ∧
      (coreOf t k c).sregs = x.sregs ∧ (coreOf t k c).preds = x.preds ∧ (coreOf t k c).pc = x.pc + 8) := by
  have hx := atIssue_free h
  have hleave : leaveSpan s k c = setCore s k c { adv x 8 with pass := 0 } := by
    rw [leaveSpan, atIssue_core h, ho]
    have hobs : ({ adv x 8 with pass := 0, obs := [] } : Core) = { adv x 8 with pass := 0 } := by rw [← ho]; rfl
    exact congrArg (setCore s k c) hobs
  rw [Completes, exec_spanEnd, execSpanEnd, level3_runs h hl]
  refine ⟨setCore s k c { adv x 8 with pass := 0 }, issueC_runs h hp ?_ (by rw [coreOf_setCore]; exact hx),
    onlyCore_setCore .., ?_⟩
  · rw [if_neg (by rw [h1]; decide), if_neg (by rw [he]; decide), if_pos ht]
    dsimp only
    rw [if_neg (by rw [h1]; decide), hleave]
    exact congrArg Except.ok (pauseHere_unasked hq)
  · rw [coreOf_setCore]
    exact ⟨rfl, rfl, rfl, rfl⟩

end Ends

/-- Settles O7: a case per instruction. -/
theorem markersAndEnds : Obligations.MarkersAndEnds := by
  unfold Obligations.MarkersAndEnds
  refine ⟨fun s c k x w h hp => ⟨markPush_marks h hp, markPop_unmarks h hp⟩, fun s c k x w h hp he hq =>
    ⟨fun h0 ho _ => endProgram_ends h hp he hq h0 ho, stepProgram_counts h hp he hq,
      fun r s1 => spanBegin_opens h hp he, spanEnd_leaves h hp he hq⟩⟩

end Sys2Proof.Machine


/-! ## The anti-rollback counters through every step

A layer of frame lemmas, in the order of the model's definitions: each operation leaves the anti-rollback counters as they
are, but for the few that firmware's commit, a kernel boot and a write of area 3 raise them with. Their names end in `_ctrs`. -/

namespace Sys2Proof.Machine

/-! ### What it is to leave the counters -/

/-- What a command answers, where it goes on, keeps the anti-rollback counters. -/
def NextKeeps (s : State) (o : Out) : Prop := ∀ t, o = .next t → t.sec.counters = s.sec.counters

@[simp] theorem nextKeeps_next {s t : State} : NextKeeps s (.next t) ↔ t.sec.counters = s.sec.counters :=
  ⟨fun h => h t rfl, fun h _ e => Host.Outcome.next.inj e ▸ h⟩

/-- What a packet does where it lands keeps the anti-rollback counters. -/
def LandedKeeps (s : State) (l : Landed) : Prop := ∀ t n, l = .done t n → t.sec.counters = s.sec.counters

@[simp] theorem landedKeeps_done {s t : State} {n : Nat} : LandedKeeps s (.done t n) ↔ t.sec.counters = s.sec.counters :=
  ⟨fun h => h t n rfl, fun h _ _ e => by cases e; exact h⟩

@[simp] theorem sec_ite {c : Prop} [Decidable c] (a b : State) :
    (if c then a else b).sec = if c then a.sec else b.sec := apply_ite ..

@[simp] theorem counters_ite {c : Prop} [Decidable c] (a b : Security) :
    (if c then a else b).counters = if c then a.counters else b.counters := apply_ite ..

@[simp] theorem foldl_ctrs {α : Type} {f : State → α → State} (hf : ∀ s a, (f s a).sec.counters = s.sec.counters) (l : List α) (s : State) :
    (l.foldl f s).sec.counters = s.sec.counters :=
  List.foldlRecOn (motive := fun u : State => u.sec.counters = s.sec.counters) _ _ rfl fun u hu a _ => (hf u a).trans hu

@[simp] theorem landedKeeps_stale {s : State} : LandedKeeps s .stale := fun _ _ e => nomatch e
@[simp] theorem landedKeeps_crossing {s : State} : LandedKeeps s .crossing := fun _ _ e => nomatch e
@[simp] theorem landedKeeps_later {s : State} : LandedKeeps s .later := fun _ _ e => nomatch e

theorem nextKeeps_ite {s : State} {c : Prop} [Decidable c] {a b : Out} (ha : NextKeeps s a) (hb : NextKeeps s b) :
    NextKeeps s (if c then a else b) := by
  split
  · exact ha
  · exact hb

theorem NextKeeps.trans {s u : State} {o : Out} (ho : NextKeeps u o) (h : u.sec.counters = s.sec.counters) : NextKeeps s o :=
  fun t ht => (ho t ht).trans h

theorem LandedKeeps.trans {s u : State} {l : Landed} (hl : LandedKeeps u l) (h : u.sec.counters = s.sec.counters) : LandedKeeps s l :=
  fun t n ht => (hl t n ht).trans h

/-- What a message's handling answers keeps the anti-rollback counters. -/
def AnswerKeeps (s : State) (r : State × Nat × List Byte) : Prop := r.1.sec.counters = s.sec.counters

theorem answerKeeps_ite {s : State} {c : Prop} [Decidable c] {a b : State × Nat × List Byte} (ha : AnswerKeeps s a)
    (hb : AnswerKeeps s b) : AnswerKeeps s (if c then a else b) := by
  split
  · exact ha
  · exact hb

theorem answerKeeps_deny (s : State) (st : Nat) : AnswerKeeps s (deny s st) := rfl

theorem answerKeeps_done {s t : State} {r : List Byte} (h : t.sec.counters = s.sec.counters) : AnswerKeeps s (done t r) := h

/-! ### Shared operations -/

@[simp] theorem setCtx_ctrs (s : State) (k : Nat) (x : Ctx) : (setCtx s k x).sec.counters = s.sec.counters := by rfl
@[simp] theorem setCore_ctrs (s : State) (k n : Nat) (c : Core) : (setCore s k n c).sec.counters = s.sec.counters := by rfl

@[simp] theorem raiseOn_ctrs (s : State) (code cls k unit lc : Nat) (pay : List Byte) :
    (raiseOn s code cls k unit lc pay).sec.counters = s.sec.counters := by rfl

@[simp] theorem raise_ctrs (s : State) (code cls k unit : Nat) (pay : List Byte) :
    (raise s code cls k unit pay).sec.counters = s.sec.counters := by rfl

@[simp] theorem keepHandling_ctrs (s : State) : (keepHandling s).sec.counters = s.sec.counters := by
  fun_cases keepHandling <;> rfl

@[simp] theorem progress_ctrs (s : State) (k : Nat) : (progress s k).sec.counters = s.sec.counters := by rfl

/-! ### Memory -/

@[simp] theorem notePoison_ctrs (s : State) (d : Nat) : (notePoison s d).sec.counters = s.sec.counters := by rfl

@[simp] theorem writeDpa_ctrs (s : State) (a : Nat) (bs : List Byte) (p : Bool) : (writeDpa s a bs p).sec.counters = s.sec.counters := by
  simp [writeDpa]

@[simp] theorem poisonGrain_ctrs (s : State) (a : Nat) : (poisonGrain s a).sec.counters = s.sec.counters := by rfl

@[simp] theorem storeAt_ctrs (k n : Nat) (s : State) (p : Loc × List Byte × Bool) : (storeAt k n s p).sec.counters = s.sec.counters := by
  fun_cases storeAt <;> simp

theorem writeVas_ctrs (s : State) (k n : Nat) (ws : List Wr) : Yields (writeVas s k n ws) (fun t => t.sec.counters = s.sec.counters) :=
  yields_then fun _ => yields_ok.2 (foldl_ctrs (storeAt_ctrs k n) _ _)

theorem writeVa_ctrs (s : State) (k n va : Nat) (bs : List Byte) (p : Bool) :
    Yields (writeVa s k n va bs p) (fun t => t.sec.counters = s.sec.counters) := writeVas_ctrs s k n _

@[simp] theorem raiseTrap_ctrs (s : State) (k n opc : Nat) (t : Trap) : (raiseTrap s k n opc t).sec.counters = s.sec.counters := by
  fun_cases raiseTrap <;> rfl

@[simp] theorem wildCore_ctrs (s : State) (k n : Nat) (f : Core → Core) : (wildCore s k n f).sec.counters = s.sec.counters := by
  fun_cases wildCore <;> rfl

@[simp] theorem wildAct_ctrs (k : Nat) (s : State) (w : Config.WildAct) : (wildAct k s w).sec.counters = s.sec.counters := by
  fun_cases wildAct
  case case1 e => exact writeVa_ctrs _ _ _ _ _ _ _ e
  all_goals simp

@[simp] theorem wild_ctrs (s : State) (k : Nat) : (wild s k).sec.counters = s.sec.counters := by simp [wild]

@[simp] theorem trapOut_ctrs (s : State) (k n opc : Nat) (t : Trap) : NextKeeps s (trapOut s k n opc t) := by
  fun_cases trapOut <;> simp

/-! ### Ready bits -/

@[simp] theorem countNumeric_ctrs (s : State) (k src : Nat) (t : Tally) : (countNumeric s k src t).sec.counters = s.sec.counters := by
  simp [countNumeric]

@[simp] theorem numEvent_ctrs (s : State) (k n code : Nat) (pay : List Byte) : (numEvent s k n code pay).sec.counters = s.sec.counters := by
  fun_cases numEvent <;> rfl

@[simp] theorem observe_ctrs (s : State) (k slot tensor : Nat) (nonzero : Bool) :
    (observe s k slot tensor nonzero).sec.counters = s.sec.counters := by
  fun_cases observe <;> rfl

@[simp] theorem applyObs_ctrs (k n : Nat) (s : State) (o : HeldObs) : (applyObs k n s o).sec.counters = s.sec.counters := by
  fun_cases applyObs <;> simp

@[simp] theorem emit_ctrs (s : State) (k n : Nat) (os : List HeldObs) : (emit s k n os).sec.counters = s.sec.counters := by simp [emit]

@[simp] theorem setLatch_ctrs (s : State) (k n opc : Nat) (cause : BitVec 3) (slots : List Nat) :
    (setLatch s k n opc cause slots).sec.counters = s.sec.counters := by
  fun_cases setLatch <;> rfl

theorem applyEff_ctrs (s : State) (k n opc : Nat) (e : Eff) : Yields (applyEff s k n opc e) (fun t => t.sec.counters = s.sec.counters) :=
  yields_bind (writeVas_ctrs s k n _) fun t ht => yields_ok.2 (by simp [ht])

/-! ### Errors of memory -/

@[simp] theorem uncorrected_ctrs (s : State) (k a src : Nat) : (uncorrected s k a src).sec.counters = s.sec.counters := by
  simp [uncorrected]

@[simp] theorem correctedErr_ctrs (s : State) (k a : Nat) : (correctedErr s k a).sec.counters = s.sec.counters := by
  fun_cases correctedErr <;> rfl

@[simp] theorem develop_ctrs (s : State) (rd : ReadErr) : (develop s rd).sec.counters = s.sec.counters := by
  fun_cases develop <;> rfl

@[simp] theorem meetOne_ctrs (k src : Nat) (s : State) (u : Nat × Bool) : (meetOne k src s u).sec.counters = s.sec.counters := by
  simp [meetOne]

@[simp] theorem meet_ctrs (s : State) (k src a n : Nat) : (meet s k src a n).sec.counters = s.sec.counters := by simp [meet]
@[simp] theorem copyDpa_ctrs (s : State) (k src dst n : Nat) : (copyDpa s k src dst n).sec.counters = s.sec.counters := by simp [copyDpa]

@[simp] theorem hbmLine_ctrs (s : State) (part line g : Nat) (wr alloc : Bool) :
    (hbmLine s part line g wr alloc).1.sec.counters = s.sec.counters := by
  simp [hbmLine]

@[simp] theorem hbmRange_ctrs (part : Nat) (alloc : Bool) (st : State × Nat) (a n : Nat) (wr : Bool) :
    (hbmRange part alloc st a n wr).1.sec.counters = st.1.sec.counters := by
  unfold hbmRange
  split
  · rfl
  · exact List.foldlRecOn (motive := fun u : State × Nat => u.1.sec.counters = st.1.sec.counters) _ _ rfl fun _ hu i _ =>
      (hbmLine_ctrs _ _ _ (lineGrains a n (a / 256 + i)) _ _).trans hu

@[simp] theorem hbmTraffic_ctrs (s : State) (k : Nat) (ts : List Touch) : (hbmTraffic s k ts).1.sec.counters = s.sec.counters :=
  List.foldlRecOn (motive := fun u : State × Nat => u.1.sec.counters = s.sec.counters) _ _ rfl fun _ hu _ _ =>
    (hbmRange_ctrs ..).trans hu

@[simp] theorem chargeHbm_ctrs (s : State) (k g : Nat) : (chargeHbm s k g).sec.counters = s.sec.counters := by
  fun_cases chargeHbm <;> rfl

@[simp] theorem spanInputs_ctrs (s : State) (k n : Nat) (ts : List Touch) : (spanInputs s k n ts).sec.counters = s.sec.counters := by
  simp [spanInputs]

@[simp] theorem reach_ctrs (s : State) (k : Nat) (ts : List Touch) : (reach s k ts).1.sec.counters = s.sec.counters := by simp [reach]
@[simp] theorem payFor_ctrs (s : State) (k : Nat) (ts : List Touch) : (payFor s k ts).sec.counters = s.sec.counters := by simp [payFor]

@[simp] theorem account_ctrs (s : State) (k n : Nat) (as : List (Nat × Nat × Bool)) : (account s k n as).sec.counters = s.sec.counters := by
  simp [account]

@[simp] theorem trapNow_ctrs (s : State) (k n opc : Nat) (t : Trap) : NextKeeps s (trapNow s k n opc t) := by
  fun_cases trapNow
  · intro u hu
    exact (trapOut_ctrs _ _ _ _ _ u hu).trans (foldl_ctrs (fun s t => meet_ctrs ..) _ _)
  · exact trapOut_ctrs _ _ _ _ _

/-! ### Contexts that take turns -/

@[simp] theorem saveScratch_ctrs (s : State) (k n p : Nat) : (saveScratch s k n p).sec.counters = s.sec.counters := by simp [saveScratch]
@[simp] theorem loadScratch_ctrs (s : State) (k n p : Nat) : (loadScratch s k n p).sec.counters = s.sec.counters := by simp [loadScratch]

@[simp] theorem watchTick_ctrs (s : State) (k : Nat) : (watchTick s k).sec.counters = s.sec.counters := by
  fun_cases watchTick <;> rfl

@[simp] theorem countAway_ctrs (s : State) (ns : List Nat) : (countAway s ns).sec.counters = s.sec.counters := by simp [countAway]

@[simp] theorem deschedule_ctrs (s : State) (part : Nat) : (deschedule s part).sec.counters = s.sec.counters := by
  unfold deschedule
  dsimp only
  split <;> simp

@[simp] theorem makeResident_ctrs (s : State) (part k : Nat) : (makeResident s part k).sec.counters = s.sec.counters := by
  simp [makeResident]

@[simp] theorem schedule_ctrs (s : State) (part : Nat) : (schedule s part).sec.counters = s.sec.counters := by
  fun_cases schedule <;> simp

@[simp] theorem mapCores_ctrs (s : State) (k : Nat) (f : Nat → Core → Core) : (mapCores s k f).sec.counters = s.sec.counters := by
  simp [mapCores]

@[simp] theorem releaseSpill_ctrs (s : State) (k : Nat) : (releaseSpill s k).sec.counters = s.sec.counters := by rfl
@[simp] theorem endLaunch_ctrs (s : State) (k status : Nat) : (endLaunch s k status).sec.counters = s.sec.counters := by simp [endLaunch]

/-! ### Frames -/

@[simp] theorem askMac_ctrs (s : State) (i : NetIdentity) (port a : Nat) : (askMac s i port a).sec.counters = s.sec.counters := by rfl
@[simp] theorem emitFrame_ctrs (s : State) (f : Frame) : (emitFrame s f).sec.counters = s.sec.counters := by rfl

/-! ### The wire -/

theorem sendCtl_ctrs {s : State} {k : Packet} {u : State} (ht : sendCtl s k = some u) : u.sec.counters = s.sec.counters := by
  unfold sendCtl at ht
  split at ht <;> cases ht
  rfl

@[simp] theorem askFor_ctrs (s : State) (peer path : Nat) : (askFor s peer path).sec.counters = s.sec.counters := by
  fun_cases askFor <;> rfl

@[simp] theorem sendHello_ctrs (s : State) (peer : Nat) (reply : Bool) : (sendHello s peer reply).sec.counters = s.sec.counters := by
  unfold sendHello
  cases hc : sendCtl s (ctlPacket s opHello peer 0 0 (helloBytes (ownHello s reply))) with
  | none => exact askFor_ctrs ..
  | some t => exact sendCtl_ctrs hc

@[simp] theorem openSess_ctrs (s : State) (peer : Nat) : (openSess s peer).sec.counters = s.sec.counters := by simp [openSess]

@[simp] theorem enqueue_ctrs (s : State) (o : Sender) (bs : List Block) : (enqueue s o bs).sec.counters = s.sec.counters := by
  simp [enqueue]

@[simp] theorem flightDone_ctrs (s : State) (k n id status : Nat) : (flightDone s k n id status).sec.counters = s.sec.counters := by rfl
@[simp] theorem mirrorLost_ctrs (s : State) (k : Nat) : (mirrorLost s k).sec.counters = s.sec.counters := by rfl

@[simp] theorem opDone_ctrs (s : State) (o : NetOp) (faulted : Bool) : (opDone s o faulted).sec.counters = s.sec.counters := by
  fun_cases opDone <;> rfl

@[simp] theorem countPkt_ctrs (s : State) (h : FHdr) (number n : Nat) : (countPkt s h number n).sec.counters = s.sec.counters := by
  fun_cases countPkt <;> rfl

@[simp] theorem sendSack_ctrs (s : State) (peer : Nat) : (sendSack s peer).sec.counters = s.sec.counters := by
  fun_cases sendSack
  · next e => exact (setSess_sec ..).symm ▸ sendCtl_ctrs e
  · exact askFor_ctrs ..

@[simp] theorem ackPkt_ctrs (s : State) (k : Packet) (ok : Bool) (status : Nat) : (ackPkt s k ok status).sec.counters = s.sec.counters := by
  simp [ackPkt]

@[simp] theorem countPort_ctrs (s : State) (n : Nat) : (countPort s n).sec.counters = s.sec.counters := by
  fun_cases countPort <;> rfl

theorem afterLand_ctrs {s : State} {l : Landed} (k : Packet) (hl : LandedKeeps s l) :
    (afterLand s k l).sec.counters = s.sec.counters := by
  fun_cases afterLand
  · simpa using hl
  all_goals simp

theorem receive_ctrs {s : State} {land : Option Nat → Landed} (k : Packet) (opc : Nat) (hl : ∀ c, LandedKeeps s (land c)) :
    (receive s k opc land).sec.counters = s.sec.counters := by
  fun_cases receive <;> simp [hl, afterLand_ctrs]

theorem ofCtx_ctrs {s : State} {land : Nat → Landed} (hl : ∀ k, LandedKeeps s (land k)) (c : Option Nat) :
    LandedKeeps s (ofCtx s land c) := by
  cases c
  · exact landedKeeps_done.2 rfl
  · exact hl _

/-! ### Trusses -/

@[simp] theorem setTruss_ctrs (s : State) (k v : Nat) (t : Truss) : (setTruss s k v t).sec.counters = s.sec.counters := by rfl

@[simp] theorem trussEvent_ctrs (s : State) (k v : Nat) (t : Truss) (who : Member) (phase : Nat) (e : TrErr) :
    (trussEvent s k v t who phase e).sec.counters = s.sec.counters := by rfl

@[simp] theorem trussInvalid_ctrs (s : State) (k unit sender v bgen opc : Nat) :
    (trussInvalid s k unit sender v bgen opc).sec.counters = s.sec.counters := by rfl

@[simp] theorem freeWaiter_ctrs (k : Nat) (s : State) (w : Waiter) : (freeWaiter k s w).sec.counters = s.sec.counters := by rfl
@[simp] theorem settle_ctrs (s : State) (k v : Nat) (o : TrOut) : (settle s k v o).1.sec.counters = s.sec.counters := by simp [settle]
@[simp] theorem nodeInvalid_ctrs (s : State) (k n node : Nat) : (nodeInvalid s k n node).sec.counters = s.sec.counters := by rfl
@[simp] theorem forwardInvalid_ctrs (s : State) (k v node : Nat) : (forwardInvalid s k v node).sec.counters = s.sec.counters := by rfl

@[simp] theorem sendArrival_ctrs (s : State) (k core flight node : Nat) (name phase : Word) (src : Option Nat) :
    (sendArrival s k core flight node name phase src).sec.counters = s.sec.counters := by
  simp [sendArrival]

@[simp] theorem forward_ctrs (s : State) (k : Nat) (f : Fwd) : (forward s k f).1.sec.counters = s.sec.counters := by
  fun_cases forward <;> simp

@[simp] theorem forwards_ctrs (fuel : Nat) (s : State) (k : Nat) (fs : List Fwd) :
    (forwards fuel s k fs).1.sec.counters = s.sec.counters := by
  fun_induction forwards with
  | case3 s n f r p ih => exact ih.trans (forward_ctrs s k f)
  | _ => rfl

@[simp] theorem forwardOn_ctrs (s : State) (k : Nat) (fs : List Fwd) : (forwardOn s k fs).sec.counters = s.sec.counters := by
  simp [forwardOn]

@[simp] theorem trussDo_ctrs (s : State) (k v : Nat) (who : Member) (phase : Nat) (r : Except TrErr TrOut) :
    (trussDo s k v who phase r).1.sec.counters = s.sec.counters := by
  unfold trussDo
  split <;> simp

@[simp] theorem arriveAt_ctrs (s : State) (k v : Nat) (who : Member) (nophase : Bool) (phase : Nat) :
    (arriveAt s k v who nophase phase).1.sec.counters = s.sec.counters := by
  simp [arriveAt]

/-! ### Issue -/

@[simp] theorem haltCores_ctrs (s : State) (k n cause : Nat) : (haltCores s k n cause).sec.counters = s.sec.counters := by simp [haltCores]

@[simp] theorem touchData_ctrs (s : State) (k n : Nat) (as : List (Nat × Nat × Bool)) :
    (touchData s k n as).sec.counters = s.sec.counters := by
  simp [touchData]

@[simp] theorem hold_ctrs (s : State) (k n : Nat) (h : Held) : (hold s k n h).sec.counters = s.sec.counters := by
  fun_cases hold <;> rfl

@[simp] theorem stepped_ctrs (s : State) (k n : Nat) : (stepped s k n).sec.counters = s.sec.counters := by simp [stepped]

@[simp] theorem seqTrap_ctrs (s : State) (k n opc : Nat) (t : Trap) : NextKeeps s (seqTrap s k n opc t) := by
  have ht := trapNow_ctrs s k n opc t
  unfold seqTrap
  split
  · exact ht
  · next e => simpa using ht _ e
  · exact ht

theorem issue_ctrs {s : State} {body : Nat → Core → Except Trap State} (n len opc : Nat) (p : BitVec 4) (neg : Bool)
    (hb : ∀ k c, Yields (body k c) (fun t => t.sec.counters = s.sec.counters)) : NextKeeps s (issue s n len opc p neg body) := by
  fun_cases issue
  case case5 e => simpa using hb _ _ _ e
  all_goals simp

theorem issueC_ctrs {s : State} {body : Nat → Core → Except Trap State} (n opc : Nat) (w : CWord)
    (hb : ∀ k c, Yields (body k c) (fun t => t.sec.counters = s.sec.counters)) : NextKeeps s (issueC s n opc w body) :=
  issue_ctrs _ _ _ _ _ hb

@[simp] theorem issueCore_ctrs (s : State) (n opc : Nat) (w : CWord) (f : Nat → Core → Option Core) :
    NextKeeps s (issueCore s n opc w f) := by
  refine issueC_ctrs _ _ _ fun k c => ?_
  split <;> simp

@[simp] theorem decodeFault_ctrs (s : State) (k n code : Nat) (opc : BitVec 8) :
    (decodeFault s k n code opc).sec.counters = s.sec.counters := by rfl

@[simp] theorem issueFault_ctrs (s : State) (n code : Nat) (opc : BitVec 8) : NextKeeps s (issueFault s n code opc) := by
  fun_cases issueFault <;> simp

theorem level3_ctrs {s : State} {o : Out} (n opc : Nat) (ho : NextKeeps s o) : NextKeeps s (level3 s n opc o) := by
  fun_cases level3
  · exact issueFault_ctrs _ _ _ _
  · exact ho
  · exact ho

/-! ### The engines -/

@[simp] theorem setFlightS_ctrs (s : State) (k n : Nat) (e : Engine) (f : Flight) :
    (setFlightS s k n e f).sec.counters = s.sec.counters := by rfl

@[simp] theorem groupInvalid_ctrs (s : State) (k n g : Nat) : (groupInvalid s k n g).sec.counters = s.sec.counters := by rfl

@[simp] theorem issueT_ctrs (op : TOp) (n : Nat) (w : TWord) (s : State) : NextKeeps s (issueT op n w s) := by
  refine issue_ctrs _ _ _ _ _ fun k c => ?_
  dsimp only
  repeat' split
  all_goals simp

@[simp] theorem issueTL_ctrs (op : TOp) (n : Nat) (w : TWord) (s : State) : NextKeeps s (issueTL op n w s) := by
  fun_cases issueTL
  · exact issueT_ctrs op n w s
  · exact level3_ctrs _ _ (issueT_ctrs op n w s)

@[simp] theorem runWork_ctrs (op : TOp) (n id : Nat) (s : State) (go : Core → Flight → Bool) (eff : Nat → Core → Flight → Except Trap Eff) :
    NextKeeps s (runWork op n id s go eff) := by
  unfold runWork
  split
  · exact nextKeeps_next.2 rfl
  · split
    · exact nextKeeps_next.2 rfl
    · dsimp only
      split
      · exact nextKeeps_next.2 rfl
      · split
        · exact (trapNow_ctrs _ _ _ _ _).trans (setFlightS_ctrs ..)
        · split
          · exact (trapNow_ctrs _ _ _ _ _).trans (setFlightS_ctrs ..)
          · split
            · exact nextKeeps_next.2 rfl
            · split
              · exact (trapNow_ctrs _ _ _ _ _).trans (setFlightS_ctrs ..)
              · next e => simp [applyEff_ctrs _ _ _ _ _ _ e]

theorem growSpill_ctrs {s : State} {k n : Nat} {u : State} (ht : growSpill s k n = some u) : u.sec.counters = s.sec.counters := by
  unfold growSpill at ht
  dsimp only at ht
  split at ht
  · cases ht; rfl
  · split at ht
    · cases ht
    · obtain ⟨a, -, rfl⟩ := Option.map_eq_some_iff.1 ht
      rfl

@[simp] theorem trimSpill_ctrs (s : State) (k n : Nat) : (trimSpill s k n).sec.counters = s.sec.counters := by
  fun_cases trimSpill <;> rfl

@[simp] theorem partialEvent_ctrs (s : State) (k n : Nat) (f : Flight) (bitmap : Nat) :
    (partialEvent s k n f bitmap).sec.counters = s.sec.counters := by
  fun_cases partialEvent <;> rfl

@[simp] theorem execEngineInstructionComplete_ctrs (c : Nat) (e : Engine) (id : Nat) (s : State) :
    NextKeeps s (execEngineInstructionComplete c e id s) := by
  unfold execEngineInstructionComplete
  split
  · exact nextKeeps_next.2 rfl
  · split
    · exact nextKeeps_next.2 rfl
    · refine nextKeeps_ite (nextKeeps_next.2 rfl) (nextKeeps_next.2 ?_)
      rw [sec_ite, counters_ite, wild_ctrs, ite_self, sec_ite, drawn_sec, ite_self,
        sec_ite, counters_ite, partialEvent_ctrs, ite_self, trimSpill_ctrs, progress_ctrs, setCore_ctrs]

/-! ### The stream engine -/

@[simp] theorem runStream_ctrs {s : State} {eff : Nat → Core → Flight → Except Trap State} (op : TOp) (n id : Nat)
    (he : ∀ k x f, Yields (eff k x f) (fun t => t.sec.counters = s.sec.counters)) : NextKeeps s (runStream op n id s eff) := by
  fun_cases runStream
  case case4 e => exact nextKeeps_next.2 (he _ _ _ _ e)
  case case5 => exact (trapNow_ctrs _ _ _ _ _).trans (setFlightS_ctrs ..)
  all_goals exact nextKeeps_next.2 rfl

@[simp] theorem execXfer_ctrs (c : Nat) (g : Stage) (s : State) : NextKeeps s (execXfer c g s) := by
  cases g
  · exact issueTL_ctrs _ _ _ _
  · refine runStream_ctrs _ _ _ fun k x f => ?_
    exact yields_then fun _ => yields_then fun _ => yields_then fun _ => yields_ok.2 rfl

@[simp] theorem spillExhausted_ctrs (s : State) (k n cnt : Nat) : (spillExhausted s k n cnt).sec.counters = s.sec.counters := by rfl

theorem appendFetch_ctrs (s : State) (k c : Nat) (f : Flight) :
    Yields (appendFetch s k c f) (fun t => t.sec.counters = s.sec.counters) := by
  refine yields_then fun a => yields_then fun d => yields_then fun _ => yields_then fun p => ?_
  split
  · simp
  · next e => simpa using growSpill_ctrs e

@[simp] theorem execFetch_ctrs (c : Nat) (g : Stage) (s : State) : NextKeeps s (execFetch c g s) := by
  cases g
  · exact issueTL_ctrs _ _ _ _
  · refine runStream_ctrs _ _ _ fun k x f => ?_
    exact yields_ite (yields_ok.2 rfl) (appendFetch_ctrs _ _ _ _)

@[simp] theorem execFetchChunkIssue_ctrs (c : Nat) (id : Nat) (s : State) : NextKeeps s (execFetchChunkIssue c id s) := by
  unfold execFetchChunkIssue
  split
  · exact nextKeeps_next.2 rfl
  · split
    · exact nextKeeps_next.2 rfl
    · split
      · exact nextKeeps_next.2 rfl
      · dsimp only
        split
        · rw [nextKeeps_next, setFlightS_ctrs]
          split <;> simp
        · rw [nextKeeps_next, setFlightS_ctrs]
          split <;> simp
        · exact (trapNow_ctrs _ _ _ _ _).trans (setFlightS_ctrs ..)

@[simp] theorem execRidge_ctrs (c : Nat) (g : Stage) (s : State) : NextKeeps s (execRidge c g s) := by
  cases g
  · exact issueTL_ctrs _ _ _ _
  · refine runStream_ctrs _ _ _ fun k x f => ?_
    exact yields_then fun _ => yields_then fun _ => yields_then fun _ => yields_then fun _ => yields_then fun _ =>
      yields_then fun _ => yields_ok.2 rfl

@[simp] theorem ridgeArrive_ctrs (s : State) (k n : Nat) (f : Flight) : (ridgeArrive s k n f).sec.counters = s.sec.counters := by
  unfold ridgeArrive
  repeat' split
  all_goals simp

@[simp] theorem execSpar_ctrs (c : Nat) (g : Stage) (s : State) : NextKeeps s (execSpar c g s) := by
  cases g
  · exact issueTL_ctrs _ _ _ _
  · refine runStream_ctrs _ _ _ fun k x f => ?_
    refine yields_then fun _ => yields_ite (yields_error.2 trivial) (yields_ite (yields_ite (yields_error.2 trivial) (yields_ite
      (yields_ok.2 (by simp)) (yields_ok.2 (by simp)))) (yields_then fun _ => yields_ite (yields_ok.2 rfl) ?_))
    exact yields_bind (writeVa_ctrs _ _ _ _ _ _) fun _ ht => yields_ok.2 (by simp [ht])

@[simp] theorem execCancel_ctrs (c : Nat) (g : Stage) (s : State) : NextKeeps s (execCancel c g s) := by
  cases g
  · exact issueTL_ctrs _ _ _ _
  · exact runStream_ctrs .cancel c _ fun k x f => yields_ok.2 ((setFlightS_ctrs ..).trans (setCore_ctrs ..))

@[simp] theorem execFence_ctrs (c : Nat) (g : Stage) (s : State) : NextKeeps s (execFence c g s) := by
  cases g
  · exact issueTL_ctrs _ _ _ _
  · refine runStream_ctrs _ _ _ fun k x f => ?_
    exact yields_ite (yields_ok.2 rfl) (yields_ok.2 rfl)

theorem yealmRun_ctrs (s : State) (k n : Nat) (f : Flight) : Yields (yealmRun s k n f) (fun t => t.sec.counters = s.sec.counters) := by
  refine yields_then fun y => ?_
  dsimp only
  split_ifs
  · simp
  · exact yields_ok.2 rfl
  · exact yields_bind (writeVas_ctrs s k n _) fun t ht => yields_ok.2 (by simp [ht])

@[simp] theorem execYealm_ctrs (c : Nat) (g : Stage) (s : State) : NextKeeps s (execYealm c g s) := by
  cases g
  · exact issueTL_ctrs _ _ _ _
  · refine runStream_ctrs _ _ _ fun k x f => ?_
    exact yealmRun_ctrs _ _ _ _

@[simp] theorem burstPiece_ctrs (k n opc : Nat) (f : Flight) (a d : Desc) (u : Burst) (p : Nat × Nat) :
    (burstPiece k n opc f a d u p).s.sec.counters = u.s.sec.counters := by
  unfold burstPiece
  split
  · next e =>
    have hw : Yields (do
        let x ← readPiece u.s k n f a d p
        let s1 ← writeVas u.s k n x.ws
        .ok (x, s1) : Except Trap (Piece × State)) (fun r => r.2.sec.counters = u.s.sec.counters) :=
      yields_then fun x => yields_bind (writeVas_ctrs _ _ _ _) fun s1 h1 => yields_ok.2 h1
    exact hw _ e
  · simp

@[simp] theorem landed_ctrs (s : State) (k n : Nat) (f : Flight) : (landed s k n f).sec.counters = s.sec.counters := by simp [landed]

@[simp] theorem launchBurst_ctrs (s : State) (k n : Nat) (f : Flight) (u : Nat × Nat) (lo hi : Nat) (ws : List Wr) :
    (launchBurst s k n f u lo hi ws).sec.counters = s.sec.counters := by
  fun_cases launchBurst <;> rfl

@[simp] theorem burstMove_ctrs (s : State) (k c : Nat) (f : Flight) (a d : Desc) :
    (burstMove s k c f a d).sec.counters = s.sec.counters := by
  have hp (l : List (Nat × Nat)) : (l.foldl (burstPiece k c (opcOf f.q.op) f a d) { s := s }).s.sec.counters = s.sec.counters :=
    List.foldlRecOn (motive := fun u : Burst => u.s.sec.counters = s.sec.counters) _ _ rfl fun u hu p _ =>
      (burstPiece_ctrs ..).trans hu
  simp [burstMove, hp]

@[simp] theorem servedTurn_ctrs (s : State) (k cls : Nat) : (servedTurn s k cls).sec.counters = s.sec.counters := by rfl

@[simp] theorem execBurstStart_ctrs (c : Nat) (id : Nat) (rd : ReadErr) (s : State) : NextKeeps s (execBurstStart c id rd s) := by
  unfold execBurstStart
  dsimp only
  repeat' split
  all_goals simp

@[simp] theorem landFlight_ctrs (fuel : Nat) (s : State) (k c id : Nat) : (landFlight fuel s k c id).sec.counters = s.sec.counters := by
  fun_induction landFlight with
  | case4 s n f _ a d _ _ _ ih => exact ih.trans (burstMove_ctrs ..)
  | _ => rfl

@[simp] theorem landCore_ctrs (s : State) (k c : Nat) (p : Flight → Bool) : (landCore s k c p).sec.counters = s.sec.counters := by
  simp [landCore]

theorem begun_ctrs (s : State) (k c : Nat) (e : Engine) (f : Flight) :
    Yields (begun s k c e f) (fun t => t.sec.counters = s.sec.counters) := by
  unfold begun
  split
  · exact (appendFetch_ctrs _ _ _ _).mono fun t ht => ht.trans (by simp)
  · exact yields_ok.2 (by simp)

@[simp] theorem execEngineInstructionStart_ctrs (c : Nat) (e : Engine) (s : State) : NextKeeps s (execEngineInstructionStart c e s) := by
  unfold execEngineInstructionStart
  split
  · exact nextKeeps_next.2 rfl
  · next k x _ =>
    split
    · exact nextKeeps_next.2 rfl
    · refine nextKeeps_ite (nextKeeps_next.2 rfl) ?_
      extract_lets f0 x1 x2 s1
      have hb : Yields (do let f ← capture s1 k c x2 f0; begun s1 k c e f : Except Trap State)
          (fun t => t.sec.counters = s1.sec.counters) := yields_then fun f => begun_ctrs s1 k c e f
      split
      · next ht => exact nextKeeps_next.2 (hb _ ht)
      · exact (trapNow_ctrs _ _ _ _ _).trans (setFlightS_ctrs ..)

/-! ### The sync engine -/

@[simp] theorem syncResult_ctrs (k n : Nat) (f : Flight) (waits : Bool) (r : State × Bool) :
    (syncResult k n f waits r).sec.counters = r.1.sec.counters := by
  fun_cases syncResult <;> rfl

theorem localTruss_ctrs (s : State) (k n opc : Nat) (f : Flight) (nm : Word) (waits : Bool) {act : State → State × Bool}
    (ha : ∀ t, (act t).1.sec.counters = t.sec.counters) : (localTruss s k n opc f nm waits act).sec.counters = s.sec.counters := by
  unfold localTruss
  split
  · exact (syncResult_ctrs ..).trans (ha _)
  · rfl

@[simp] theorem execTrussArrive_ctrs (c : Nat) (g : Stage) (s : State) : NextKeeps s (execTrussArrive c g s) := by
  cases g
  · exact issueTL_ctrs _ _ _ _
  · refine runStream_ctrs _ _ _ fun k x f => ?_
    exact yields_then fun _ => yields_ite (yields_ite (yields_ok.2 (by simp)) (yields_ok.2 (by simp)))
      (yields_ok.2 (localTruss_ctrs _ _ _ _ _ _ _ fun t => arriveAt_ctrs ..))

@[simp] theorem execTrussWait_ctrs (c : Nat) (g : Stage) (s : State) : NextKeeps s (execTrussWait c g s) := by
  cases g
  · exact issueTL_ctrs _ _ _ _
  · refine runStream_ctrs _ _ _ fun k x f => ?_
    exact yields_then fun _ => yields_ite (yields_error.2 trivial)
      (yields_ok.2 (localTruss_ctrs _ _ _ _ _ _ _ fun t => trussDo_ctrs ..))

@[simp] theorem execTrussArwt_ctrs (c : Nat) (g : Stage) (s : State) : NextKeeps s (execTrussArwt c g s) := by
  cases g
  · exact issueTL_ctrs _ _ _ _
  · refine runStream_ctrs _ _ _ fun k x f => ?_
    exact yields_then fun _ => yields_ite (yields_error.2 trivial)
      (yields_ok.2 (localTruss_ctrs _ _ _ _ _ _ _ fun t => trussDo_ctrs ..))

/-! ### Collectives -/

@[simp] theorem setColl_ctrs (s : State) (k : Nat) (x : Coll) : (setColl s k x).sec.counters = s.sec.counters := by rfl

@[simp] theorem collSend_ctrs (s : State) (k : Nat) (x : Coll) (r : Nat) (bs : List Block) :
    (collSend s k x r bs).sec.counters = s.sec.counters := by
  simp [collSend]

@[simp] theorem collTell_ctrs (s : State) (k : Nat) (x : Coll) (rs : List Nat) (kind first : Nat) (pay : List Byte) :
    (collTell s k x rs kind first pay).sec.counters = s.sec.counters := by
  simp [collTell]

@[simp] theorem readyUp_ctrs (s : State) (k : Nat) (x : Coll) : (readyUp s k x).sec.counters = s.sec.counters := by
  fun_cases readyUp <;> rfl

@[simp] theorem readyDown_ctrs (s : State) (k : Nat) (x : Coll) (i : Nat) : (readyDown s k x i).sec.counters = s.sec.counters := by
  fun_cases readyDown <;> rfl

@[simp] theorem elPay_ctrs (s : State) (k n : Nat) (d : Desc) (first m : Nat) (wr : Bool) :
    (elPay s k n d first m wr).sec.counters = s.sec.counters := by
  simp [elPay]

theorem putEls_ctrs (s : State) (k n : Nat) (d : Desc) (first : Nat) (es : List OutEl) :
    Yields (putEls s k n d first es) (fun t => t.sec.counters = s.sec.counters) :=
  yields_bind (writeVas_ctrs s k n _) fun t ht => yields_then fun obs => yields_ok.2 (by simp [ht])

theorem landEls_ctrs (s : State) (k : Nat) (x : Coll) (i : Nat) (ch : Chunk) (at' : Nat) (es : List OutEl) :
    Yields (landEls s k x i ch at' es) (fun r => r.1.sec.counters = s.sec.counters) := by
  refine yields_bind (Q := fun t => t.sec.counters = s.sec.counters) ?_ fun t ht => by simpa using ht
  split
  · split
    · exact putEls_ctrs _ _ _ _ _ _
    · exact yields_ok.2 rfl
  · exact yields_ok.2 rfl

theorem aCodes_ctrs (s : State) (k : Nat) (x : Coll) (ch : Chunk) :
    Yields (aCodes s k x ch) (fun r => r.1.sec.counters = s.sec.counters) := by
  fun_cases aCodes
  · exact yields_then fun cs => by simp
  · simp

theorem foldChunk_ctrs (s : State) (k : Nat) (x : Coll) (i : Nat) (ch : Chunk) :
    Yields (foldChunk s k x i ch) (fun r => r.1.sec.counters = s.sec.counters) := by
  unfold foldChunk
  split
  · exact yields_ok.2 rfl
  · refine yields_bind (aCodes_ctrs s k x ch) fun r hr => ?_
    dsimp only
    split
    · split
      · exact (landEls_ctrs _ _ _ _ _ _ _).mono fun u hu => hu.trans (by simpa using hr)
      · simpa using hr
    · simpa using hr

@[simp] theorem sendResult_ctrs (s : State) (k : Nat) (x : Coll) (ch : Chunk) (r : Nat) :
    (sendResult s k x ch r).sec.counters = s.sec.counters := by
  fun_cases sendResult <;> simp

theorem sendPartial_ctrs (s : State) (k : Nat) (x : Coll) (ch : Chunk) (r : Nat) :
    Yields (sendPartial s k x ch r) (fun t => t.sec.counters = s.sec.counters) := by
  fun_cases sendPartial
  · exact yields_then fun cs => by simp
  · simp
  · simp

theorem sendChunk_ctrs (s : State) (k : Nat) (x : Coll) (i : Nat) (ch : Chunk) :
    Yields (sendChunk s k x i ch) (fun r => r.1.sec.counters = s.sec.counters) := by
  refine yields_bind (yields_foldlM (P := fun t => t.sec.counters = s.sec.counters) (fun t r ht u hu =>
    (sendPartial_ctrs t k x ch r u hu).trans ht) _ rfl) fun t ht => ?_
  exact yields_ok.2 (by simp [ht])

theorem pumpFrom_ctrs (fuel : Nat) (s : State) (k : Nat) (x : Coll) (i : Nat) :
    Yields (pumpFrom fuel s k x i) (fun r => r.1.sec.counters = s.sec.counters) := by
  induction fuel generalizing s x i with
  | zero => exact yields_ok.2 rfl
  | succ n ih =>
    unfold pumpFrom
    split
    · exact yields_ok.2 rfl
    · refine yields_bind (foldChunk_ctrs s k x i _) fun r hr =>
        yields_bind (Q := fun r => r.1.sec.counters = s.sec.counters) ?_ fun r hr => (ih _ _ _).mono fun u hu => hu.trans hr
      split
      · exact (sendChunk_ctrs _ _ _ _ _).mono fun u hu => hu.trans hr
      · exact yields_ok.2 hr

@[simp] theorem endColl_ctrs (s : State) (k : Nat) (x : Coll) (status : Nat) (byteOf : Nat → Nat) :
    (endColl s k x status byteOf).sec.counters = s.sec.counters := by
  unfold endColl
  dsimp only
  split
  · next e => simpa using writeVa_ctrs _ _ _ _ _ _ _ e
  · simp

@[simp] theorem poisonChunk_ctrs (s : State) (k : Nat) (x : Coll) (ch : Chunk) : (poisonChunk s k x ch).sec.counters = s.sec.counters := by
  fun_cases poisonChunk
  · rfl
  · refine foldl_ctrs (fun s g => ?_) _ _
    split <;> simp

@[simp] theorem abortColl_ctrs (s : State) (k : Nat) (x : Coll) : (abortColl s k x).sec.counters = s.sec.counters := by simp [abortColl]

@[simp] theorem mismatch_ctrs (s : State) (k : Nat) (x : Coll) (fp node : Nat) (tell : Bool) :
    (mismatch s k x fp node tell).sec.counters = s.sec.counters := by
  simp [mismatch]

@[simp] theorem revoked_ctrs (s : State) (k : Nat) (x : Coll) (first node : Nat) (tell : Bool) :
    (revoked s k x first node tell).sec.counters = s.sec.counters := by
  simp [revoked]

@[simp] theorem finishColl_ctrs (s : State) (k : Nat) (x : Coll) : (finishColl s k x).sec.counters = s.sec.counters := by simp [finishColl]

@[simp] theorem pump_ctrs (s : State) (k : Nat) (x : Coll) : (pump s k x).sec.counters = s.sec.counters := by
  fun_cases pump
  · next e => simpa using pumpFrom_ctrs _ _ _ _ _ _ e
  · simp

theorem pumpE_ctrs {s : State} {r : Except Trap (State × Coll)} (k : Nat) (x : Coll)
    (hr : Yields r (fun p => p.1.sec.counters = s.sec.counters)) : (pumpE s k x r).sec.counters = s.sec.counters := by
  fun_cases pumpE
  · exact (pump_ctrs ..).trans (hr _ rfl)
  · simp

/-! ### Collective packets -/

theorem loadOwn_ctrs (fuel : Nat) (s : State) (k : Nat) (x : Coll) (i : Nat) :
    Yields (loadOwn fuel s k x i) (fun r => r.1.sec.counters = s.sec.counters) := by
  induction fuel generalizing s x i with
  | zero => exact yields_ok.2 rfl
  | succ n ih =>
    unfold loadOwn
    split
    · exact yields_ok.2 rfl
    · split
      · exact ih _ _ _
      · exact yields_bind (aCodes_ctrs s k x _) fun r hr =>
          yields_bind (landEls_ctrs r.1 _ _ _ _ _ _) fun u hu => (ih _ _ _).mono fun w hw => (hw.trans hu).trans hr

theorem collStart_ctrs (op : Nat) (s : State) (k n : Nat) (f : Flight) :
    Yields (collStart op s k n f) (fun t => t.sec.counters = s.sec.counters) := by
  unfold collStart
  refine yields_ite (yields_ok.2 rfl) (yields_ite (yields_ok.2 rfl) (yields_ite (yields_ok.2 rfl) (yields_ite (yields_ok.2 rfl)
    (yields_then fun _ => yields_ite (yields_error.2 trivial) (yields_then fun _ => ?_)))))
  split
  · exact yields_error.2 trivial
  · refine yields_then fun _ => yields_then fun _ => yields_ite (yields_error.2 trivial) ?_
    extract_lets phys x1 held y s1 s2 s3 s4 x2
    have h4 : s4.sec.counters = s.sec.counters := by
      simp only [s4, traceCat_sec, s3]
      split <;> rfl
    split
    · exact yields_ok.2 ((mismatch_ctrs ..).trans h4)
    · refine yields_ite (yields_ok.2 ((mismatch_ctrs ..).trans h4)) ?_
      split
      · exact yields_ok.2 ((revoked_ctrs ..).trans h4)
      · exact yields_ok.2 ((pumpE_ctrs _ _ (loadOwn_ctrs _ _ _ _ _)).trans ((collTell_ctrs ..).trans h4))

@[simp] theorem execCollAllreduce_ctrs (c : Nat) (g : Stage) (s : State) : NextKeeps s (execCollAllreduce c g s) := by
  cases g
  · exact issueTL_ctrs _ _ _ _
  · exact runStream_ctrs _ _ _ fun _ _ _ => collStart_ctrs _ _ _ _ _

@[simp] theorem execCollRedscat_ctrs (c : Nat) (g : Stage) (s : State) : NextKeeps s (execCollRedscat c g s) := by
  cases g
  · exact issueTL_ctrs _ _ _ _
  · exact runStream_ctrs _ _ _ fun _ _ _ => collStart_ctrs _ _ _ _ _

@[simp] theorem execCollAllgather_ctrs (c : Nat) (g : Stage) (s : State) : NextKeeps s (execCollAllgather c g s) := by
  cases g
  · exact issueTL_ctrs _ _ _ _
  · exact runStream_ctrs _ _ _ fun _ _ _ => collStart_ctrs _ _ _ _ _

@[simp] theorem execCollAlltoall_ctrs (c : Nat) (g : Stage) (s : State) : NextKeeps s (execCollAlltoall c g s) := by
  cases g
  · exact issueTL_ctrs _ _ _ _
  · exact runStream_ctrs _ _ _ fun _ _ _ => collStart_ctrs _ _ _ _ _

@[simp] theorem execCollBcast_ctrs (c : Nat) (g : Stage) (s : State) : NextKeeps s (execCollBcast c g s) := by
  cases g
  · exact issueTL_ctrs _ _ _ _
  · exact runStream_ctrs _ _ _ fun _ _ _ => collStart_ctrs _ _ _ _ _

@[simp] theorem execCollReduce_ctrs (c : Nat) (g : Stage) (s : State) : NextKeeps s (execCollReduce c g s) := by
  cases g
  · exact issueTL_ctrs _ _ _ _
  · exact runStream_ctrs _ _ _ fun _ _ _ => collStart_ctrs _ _ _ _ _

theorem collLand_ctrs {s : State} {act : Coll → Nat → State} {ahead : Group → Landed} (p : Packet) (k : Nat) (checkFp : Bool)
    (ha : ∀ x r, (act x r).sec.counters = s.sec.counters) (hg : ∀ b, LandedKeeps s (ahead b)) :
    LandedKeeps s (collLand s p k checkFp act ahead) := by
  fun_cases collLand <;> simp [ha, hg]

theorem collRecv_ctrs {s : State} {land : Nat → Landed} (p : Packet) (kind : Nat) (hl : ∀ k, LandedKeeps s (land k)) :
    (collRecv s p kind land).sec.counters = s.sec.counters := by
  unfold collRecv
  split
  · exact receive_ctrs _ _ (ofCtx_ctrs hl)
  · rfl

theorem notYet_ctrs (s : State) (b : Group) : LandedKeeps s (notYet s b) := landedKeeps_done.2 rfl
@[simp] theorem collBytes_ctrs (s : State) (k : Nat) (p : Packet) : (collBytes s k p).sec.counters = s.sec.counters := by rfl
@[simp] theorem setGroup_ctrs (s : State) (k gid : Nat) (b : Group) : (setGroup s k gid b).sec.counters = s.sec.counters := by rfl

@[simp] theorem takePartials_ctrs (s : State) (k : Nat) (x : Coll) (r off : Nat) (vs : List Nat) :
    (takePartials s k x r off vs).sec.counters = s.sec.counters := by
  fun_cases takePartials <;> simp

@[simp] theorem takeResult_ctrs (s : State) (k : Nat) (x : Coll) (r off : Nat) (es : List OutEl) :
    (takeResult s k x r off es).sec.counters = s.sec.counters := by
  fun_cases takeResult
  · rfl
  · exact pumpE_ctrs _ _ (landEls_ctrs _ _ _ _ _ _ _)
  · rfl

@[simp] theorem execCollData_ctrs (k : Packet) (s : State) : NextKeeps s (execCollData k s) := by
  refine nextKeeps_next.2 (collRecv_ctrs _ _ fun c => (collLand_ctrs _ _ _ (fun x r => ?_) (notYet_ctrs _)).trans (collBytes_ctrs ..))
  split
  · split <;> simp
  · simp

@[simp] theorem execCollPartial_ctrs (k : Packet) (s : State) : NextKeeps s (execCollPartial k s) :=
  nextKeeps_next.2 (collRecv_ctrs _ _ fun c => (collLand_ctrs _ _ _ (fun x r => by simp) (notYet_ctrs _)).trans (collBytes_ctrs ..))

@[simp] theorem execCollResult_ctrs (k : Packet) (s : State) : NextKeeps s (execCollResult k s) :=
  nextKeeps_next.2 (collRecv_ctrs _ _ fun c => (collLand_ctrs _ _ _ (fun x r => by simp) (notYet_ctrs _)).trans (collBytes_ctrs ..))

@[simp] theorem takeRecord_ctrs (s : State) (k : Nat) (x : Coll) (r off : Nat) (c : CheckRec) :
    (takeRecord s k x r off c).sec.counters = s.sec.counters := by
  fun_cases takeRecord <;> simp

@[simp] theorem execCollCheck_ctrs (k : Packet) (s : State) : NextKeeps s (execCollCheck k s) :=
  nextKeeps_next.2 (collRecv_ctrs _ _ fun c => (collLand_ctrs _ _ _ (fun x r => by simp) (notYet_ctrs _)).trans (collBytes_ctrs ..))

@[simp] theorem rerun_ctrs (s : State) (k : Nat) (x : Coll) (i : Nat) (ch : Chunk) : (rerun s k x i ch).sec.counters = s.sec.counters := by
  simp [rerun]

@[simp] theorem resendCopy_ctrs (s : State) (k : Nat) (x : Coll) (ch : Chunk) (r : Nat) :
    (resendCopy s k x ch r).sec.counters = s.sec.counters := by
  fun_cases resendCopy
  · next e => simpa using aCodes_ctrs _ _ _ _ _ e
  · simp

@[simp] theorem repairFor_ctrs (s : State) (k : Nat) (x : Coll) (r first : Nat) :
    (repairFor s k x r first).sec.counters = s.sec.counters := by
  fun_cases repairFor <;> simp

@[simp] theorem execCollRepair_ctrs (k : Packet) (s : State) : NextKeeps s (execCollRepair k s) := by
  refine nextKeeps_next.2 (collRecv_ctrs _ _ fun c => (collLand_ctrs _ _ _ (fun x r => ?_) (notYet_ctrs _)).trans (collBytes_ctrs ..))
  split <;> simp

@[simp] theorem askedNow_ctrs (s : State) (k gid seq r : Nat) (l : List (Nat × Nat)) :
    (askedNow s k gid seq r l).sec.counters = s.sec.counters := by
  refine foldl_ctrs (fun s q => ?_) _ _
  split <;> simp

@[simp] theorem execCollReady_ctrs (k : Packet) (s : State) : NextKeeps s (execCollReady k s) := by
  refine nextKeeps_next.2 (collRecv_ctrs _ _ fun c => collLand_ctrs _ _ _ (fun x r => by simp) fun b => ?_)
  split <;> simp

@[simp] theorem execCollAbort_ctrs (k : Packet) (s : State) : NextKeeps s (execCollAbort k s) :=
  nextKeeps_next.2 (collRecv_ctrs _ _ fun c => collLand_ctrs _ _ _ (fun x r => by simp) fun b => by simp)

@[simp] theorem execCollRevoke_ctrs (k : Packet) (s : State) : NextKeeps s (execCollRevoke k s) :=
  nextKeeps_next.2 (collRecv_ctrs _ _ fun c => collLand_ctrs _ _ _ (fun x r => by simp) fun b => by simp)

@[simp] theorem execCollDone_ctrs (k : Packet) (s : State) : NextKeeps s (execCollDone k s) :=
  nextKeeps_next.2 (collRecv_ctrs _ _ fun c => (collLand_ctrs _ _ _ (fun x r => by simp) (notYet_ctrs _)).trans (collBytes_ctrs ..))

@[simp] theorem chunkPass_ctrs (s : State) (k : Nat) (x : Coll) (i : Nat) (ch : Chunk) (skipped : Bool) :
    (chunkPass s k x i ch skipped).sec.counters = s.sec.counters := by
  simp [chunkPass]

@[simp] theorem chunkFail_ctrs (s : State) (k : Nat) (x : Coll) (i : Nat) (ch : Chunk) (diff : Nat) :
    (chunkFail s k x i ch diff).sec.counters = s.sec.counters := by
  have h1 : (readyDown s k x i).sec.counters = s.sec.counters := readyDown_ctrs ..
  unfold chunkFail
  split
  · simp
  · split
    · simp
    · dsimp only
      split
      · split
        · simp
        · exact (pumpE_ctrs _ _ (yields_bind (aCodes_ctrs _ _ _ _) fun r hr =>
            (landEls_ctrs _ _ _ _ _ _ _).mono fun u hu => hu.trans hr)).trans h1
      · split <;> simp

@[simp] theorem execChunkCheck_ctrs (c id chunk : Nat) (s : State) : NextKeeps s (execChunkCheck c id chunk s) := by
  unfold execChunkCheck
  dsimp only
  repeat' split
  all_goals simp

@[simp] theorem loseRank_ctrs (s : State) (k : Nat) (x : Coll) (l : Nat) : (loseRank s k x l).sec.counters = s.sec.counters := by
  simp [loseRank]

@[simp] theorem collsLose_ctrs (s : State) (node : Nat) : (collsLose s node).sec.counters = s.sec.counters := by
  unfold collsLose
  refine foldl_ctrs (fun s k => foldl_ctrs (fun s x => ?_) _ s) _ s
  dsimp only
  split
  · exact loseRank_ctrs ..
  · rfl

/-! ### The job's tree -/

@[simp] theorem fwSend_ctrs (s : State) (node kind : Nat) (fields : List Nat) :
    (fwSend s node kind fields).sec.counters = s.sec.counters := by rfl

@[simp] theorem fwSendAll_ctrs (s : State) (nodes : List Nat) (kind : Nat) (fields : List Nat) :
    (fwSendAll s nodes kind fields).sec.counters = s.sec.counters := by
  simp [fwSendAll]

@[simp] theorem unrecoverable_ctrs (s : State) (k cause : Nat) : (unrecoverable s k cause).sec.counters = s.sec.counters := by
  simp [unrecoverable]

@[simp] theorem readMirror_ctrs (s : State) (k node slot off len base : Nat) :
    (readMirror s k node slot off len base).sec.counters = s.sec.counters := by
  simp [readMirror]

@[simp] theorem fetchTarget_ctrs (s : State) (k target : Nat) : (fetchTarget s k target).sec.counters = s.sec.counters := by
  fun_cases fetchTarget
  case case3 => exact foldl_ctrs (fun _ _ => readMirror_ctrs ..) _ _
  case case5 => exact foldl_ctrs (fun _ _ => readMirror_ctrs ..) _ _
  all_goals rfl

@[simp] theorem beginRestore_ctrs (s : State) (k target : Nat) : (beginRestore s k target).sec.counters = s.sec.counters := by
  simp [beginRestore]

@[simp] theorem tryAck_ctrs (s : State) (k : Nat) : (tryAck s k).sec.counters = s.sec.counters := by
  unfold tryAck
  repeat' split
  all_goals simp

@[simp] theorem nameAbsent_ctrs (s : State) (k n : Nat) : (nameAbsent s k n).sec.counters = s.sec.counters := by simp [nameAbsent]
@[simp] theorem peerAbsent_ctrs (s : State) (peer : Nat) : (peerAbsent s peer).sec.counters = s.sec.counters := by simp [peerAbsent]

/-! ### Furlong sessions -/

@[simp] theorem failRead_ctrs (s : State) (op : Nat) : (failRead s op).sec.counters = s.sec.counters := by simp [failRead]
@[simp] theorem failOp_ctrs (s : State) (o : NetOp) : (failOp s o).sec.counters = s.sec.counters := by simp [failOp]

@[simp] theorem losePeer_ctrs (s : State) (peer cause : Nat) : (losePeer s peer cause).sec.counters = s.sec.counters := by
  unfold losePeer
  dsimp only
  refine (peerAbsent_ctrs ..).trans ((collsLose_ctrs ..).trans ?_)
  have hf (l : List NetOp) (s : State) : (l.foldl failOp s).sec.counters = s.sec.counters := foldl_ctrs failOp_ctrs l s
  split
  · simp [hf]
  · exact (foldl_ctrs (fun s k => by rw [raise_sec]) _ _).trans (hf _ _)

@[simp] theorem execPeerLoss_ctrs (peer : Nat) (s : State) : NextKeeps s (execPeerLoss peer s) := by
  fun_cases execPeerLoss <;> simp

@[simp] theorem execFurlongHelloRetry_ctrs (peer : Nat) (s : State) : NextKeeps s (execFurlongHelloRetry peer s) := by
  fun_cases execFurlongHelloRetry <;> simp

@[simp] theorem execSessionOpenTimeout_ctrs (peer : Nat) (s : State) : NextKeeps s (execSessionOpenTimeout peer s) := by
  fun_cases execSessionOpenTimeout <;> simp

@[simp] theorem openWith_ctrs (s : State) (h : Hello) : (openWith s h).sec.counters = s.sec.counters := by rfl
@[simp] theorem endManager_ctrs (s : State) (node : Nat) : (endManager s node).sec.counters = s.sec.counters := by rfl
@[simp] theorem helloIn_ctrs (s : State) (h : Hello) : (helloIn s h).sec.counters = s.sec.counters := by simp [helloIn]

@[simp] theorem execFurlongHelloReceive_ctrs (k : Packet) (s : State) : NextKeeps s (execFurlongHelloReceive k s) := by
  fun_cases execFurlongHelloReceive <;> simp

theorem accessFault_ctrs (s : State) (k : Nat) (h : FHdr) : LandedKeeps s (accessFault s k h) := landedKeeps_done.2 rfl

theorem regionLand_ctrs {s : State} {act : Region → Except Trap State} (k : Nat) (h : FHdr) (len : Nat) (perm : Region → Bool)
    (ha : ∀ r, Yields (act r) (fun t => t.sec.counters = s.sec.counters)) : LandedKeeps s (regionLand s k h len perm act) := by
  fun_cases regionLand
  case case3 e => exact landedKeeps_done.2 (ha _ _ e)
  all_goals simp [accessFault_ctrs]

@[simp] theorem netTouch_ctrs (s : State) (k va len : Nat) (wr : Bool) : (netTouch s k va len wr).sec.counters = s.sec.counters := by
  simp [netTouch]

theorem mirrorRead_ctrs (s : State) (h : FHdr) (len : Nat) : LandedKeeps s (mirrorRead s h len) := by
  unfold mirrorRead
  dsimp only
  repeat' split
  all_goals simp

@[simp] theorem execReadReqReceive_ctrs (k : Packet) (s : State) : NextKeeps s (execReadReqReceive k s) := by
  refine nextKeeps_next.2 (receive_ctrs _ _ fun c => ?_)
  split
  · exact mirrorRead_ctrs _ _ _
  · exact regionLand_ctrs _ _ _ _ fun r => yields_then fun bs => yields_ok.2 (by simp)

@[simp] theorem execReadRespReceive_ctrs (k : Packet) (s : State) : NextKeeps s (execReadRespReceive k s) := by
  refine nextKeeps_next.2 (receive_ctrs _ _ fun c => ?_)
  split
  · exact landedKeeps_done.2 rfl
  · split
    · exact landedKeeps_crossing
    · split
      · exact landedKeeps_done.2 rfl
      · simp

@[simp] theorem execSendReceive_ctrs (k : Packet) (s : State) : NextKeeps s (execSendReceive k s) := by
  refine nextKeeps_next.2 (receive_ctrs _ _ (ofCtx_ctrs fun c => ?_))
  split
  · exact landedKeeps_done.2 rfl
  · split
    · exact accessFault_ctrs _ _ _
    · split
      · next e => exact landedKeeps_done.2 (writeVas_ctrs _ _ _ _ _ e)
      · exact accessFault_ctrs _ _ _

@[simp] theorem execRemoteTrussArrival_ctrs (k : Packet) (s : State) : NextKeeps s (execRemoteTrussArrival k s) := by
  refine nextKeeps_next.2 (receive_ctrs _ _ (ofCtx_ctrs fun c => ?_))
  dsimp only
  split <;> simp

@[simp] theorem opRefused_ctrs (s : State) (o : NetOp) : (opRefused s o).sec.counters = s.sec.counters := by simp [opRefused]
@[simp] theorem sackIn_ctrs (s : State) (peer : Nat) (a : Sack) : (sackIn s peer a).sec.counters = s.sec.counters := by simp [sackIn]

@[simp] theorem execSackReceive_ctrs (h : FHdr) (b : PacketBody) (s : State) : NextKeeps s (execSackReceive h b s) := by
  fun_cases execSackReceive <;> simp

@[simp] theorem execSackTimer_ctrs (peer : Nat) (s : State) : NextKeeps s (execSackTimer peer s) := by
  fun_cases execSackTimer <;> simp

@[simp] theorem execRtoExpiry_ctrs (peer psn : Nat) (s : State) : NextKeeps s (execRtoExpiry peer psn s) := by simp [execRtoExpiry]

@[simp] theorem execPathSuspendExpiry_ctrs (peer path : Nat) (s : State) : NextKeeps s (execPathSuspendExpiry peer path s) := by
  fun_cases execPathSuspendExpiry <;> simp

@[simp] theorem execCongestionInterval_ctrs (peer : Nat) (s : State) : NextKeeps s (execCongestionInterval peer s) := by
  fun_cases execCongestionInterval <;> simp

@[simp] theorem setPort_ctrs (s : State) (p : Nat) (x : Port) : (setPort s p x).sec.counters = s.sec.counters := by rfl
@[simp] theorem portDown_ctrs (s : State) (p cause : Nat) (failed : Bool) : (portDown s p cause failed).sec.counters = s.sec.counters := by rfl

@[simp] theorem negotiated_ctrs (s : State) (p : Nat) (rates : List Nat) (trained : Bool) :
    (negotiated s p rates trained).sec.counters = s.sec.counters := by
  fun_cases negotiated <;> rfl

@[simp] theorem execPortTrained_ctrs (port : Nat) (offer : List Nat × Bool) (s : State) : NextKeeps s (execPortTrained port offer s) := by
  fun_cases execPortTrained <;> simp

@[simp] theorem execPortLinkLoss_ctrs (port cause : Nat) (s : State) : NextKeeps s (execPortLinkLoss port cause s) := by
  fun_cases execPortLinkLoss <;> simp

@[simp] theorem execPortAnRetry_ctrs (port : Nat) (rates : List Nat) (trained : Bool) (s : State) :
    NextKeeps s (execPortAnRetry port rates trained s) := by
  fun_cases execPortAnRetry <;> simp

@[simp] theorem execArp_ctrs (port : Nat) (a : ArpMsg) (s : State) : NextKeeps s (execArp port a s) := by
  fun_cases execArp <;> simp

@[simp] theorem setQp_ctrs (s : State) (q : Nat) (x : Qp) : (setQp s q x).sec.counters = s.sec.counters := by rfl

@[simp] theorem roceOut_ctrs (q : Nat) (s : State) (k : RocePkt) : (roceOut q s k).sec.counters = s.sec.counters := by
  fun_cases roceOut <;> simp

@[simp] theorem roceSend_ctrs (s : State) (q : Nat) (l : List RocePkt) : (roceSend s q l).sec.counters = s.sec.counters := by
  simp [roceSend]

@[simp] theorem roceRequest_ctrs (s : State) (q : Nat) (k : RocePkt) (dpa : Nat) :
    (roceRequest s q k dpa).sec.counters = s.sec.counters := by
  simp [roceRequest]

@[simp] theorem roceTouch_ctrs (s : State) (rkey d len : Nat) (wr : Bool) : (roceTouch s rkey d len wr).sec.counters = s.sec.counters := by
  fun_cases roceTouch <;> simp

theorem roceAct_ctrs {s : State} {k : RocePkt} {u} (ht : roceAct s k = some u) : u.1.sec.counters = s.sec.counters := by
  unfold roceAct at ht
  dsimp only at ht
  split at ht
  · split at ht
    · split at ht
      · cases ht
      · cases ht; simp
    · cases ht
  · obtain ⟨a, -, rfl⟩ := Option.map_eq_some_iff.1 ht
    simp
  · cases ht; rfl

@[simp] theorem roceResp_ctrs (s : State) (k : RocePkt) : (roceResp s k).sec.counters = s.sec.counters := by
  fun_cases roceResp <;> rfl

@[simp] theorem execRocev2Receive_ctrs (k : RocePkt) (s : State) : NextKeeps s (execRocev2Receive k s) := by
  unfold execRocev2Receive
  refine nextKeeps_ite (nextKeeps_next.2 rfl) ?_
  extract_lets s1 x
  have h1 : s1.sec.counters = s.sec.counters := by simp [s1]
  split
  · exact nextKeeps_next.2 h1
  · exact nextKeeps_next.2 (by simp [h1])
  · exact nextKeeps_next.2 h1
  · exact nextKeeps_next.2 ((roceResp_ctrs ..).trans h1)
  · refine nextKeeps_ite ?_ (nextKeeps_ite (nextKeeps_next.2 (by simp [h1])) (nextKeeps_next.2 (by simp [h1])))
    split
    · next e =>
      rw [nextKeeps_next, roceSend_ctrs]
      exact (roceAct_ctrs e).trans h1
    · exact nextKeeps_next.2 (by simp [h1])

/-! ### Placement -/

@[simp] theorem progressRec_ctrs (s : State) (op k pos total : Nat) : (progressRec s op k pos total).sec.counters = s.sec.counters := by rfl

@[simp] theorem progressTo_ctrs (s : State) (op k old pos total : Nat) (start : Bool) :
    (progressTo s op k old pos total start).sec.counters = s.sec.counters := by
  fun_cases progressTo <;> rfl

@[simp] theorem setPhys_ctrs (s : State) (p : Nat) (x : Phys) : (setPhys s p x).sec.counters = s.sec.counters := by rfl
@[simp] theorem noteOverlay_ctrs (s : State) : (noteOverlay s).sec.counters = s.sec.counters := by rfl

@[simp] theorem mapCore_ctrs (s : State) (n p : Nat) : (mapCore s n p).sec.counters = s.sec.counters := by
  fun_cases mapCore <;> rfl

@[simp] theorem placeCore_ctrs (s : State) (n : Nat) : (placeCore s n).1.sec.counters = s.sec.counters := by
  unfold placeCore
  repeat' split
  all_goals simp

@[simp] theorem markUnavailable_ctrs (s : State) (part : Nat) : (markUnavailable s part).sec.counters = s.sec.counters := by
  fun_cases markUnavailable <;> rfl

@[simp] theorem capacityEvent_ctrs (s : State) (old : Capacity × Tbl Nat × List Nat) :
    (capacityEvent s old).sec.counters = s.sec.counters := by
  fun_cases capacityEvent <;> rfl

@[simp] theorem placeAll'_ctrs (s : State) (ns : List Nat) : (placeAll' s ns).sec.counters = s.sec.counters := by simp [placeAll']
@[simp] theorem markFailed_ctrs (s : State) (p cause : Nat) : (markFailed s p cause).sec.counters = s.sec.counters := by rfl

@[simp] theorem coreFailedEvent_ctrs (s : State) (p moved cause : Nat) (ks : List Nat) :
    (coreFailedEvent s p moved cause ks).sec.counters = s.sec.counters := by
  unfold coreFailedEvent
  dsimp only
  split
  · rfl
  · exact foldl_ctrs (fun _ _ => by rw [raise_sec]) _ _

@[simp] theorem keepStandIn_ctrs (s : State) : (keepStandIn s).sec.counters = s.sec.counters := by simp [keepStandIn]

@[simp] theorem moveStandIns_ctrs (s : State) (p : Nat) : (moveStandIns s p).sec.counters = s.sec.counters := by
  fun_cases moveStandIns <;> rfl

@[simp] theorem loadAway_ctrs (s : State) (ns : List Nat) : (loadAway s ns).sec.counters = s.sec.counters := by
  refine foldl_ctrs (fun s n => ?_) _ _
  split
  · exact loadScratch_ctrs ..
  · rfl

@[simp] theorem failCore_ctrs (s : State) (p cause : Nat) : (failCore s p cause).sec.counters = s.sec.counters := by simp [failCore]
@[simp] theorem execCoreLogicFault_ctrs (p : Nat) (s : State) : NextKeeps s (execCoreLogicFault p s) := by simp [execCoreLogicFault]
@[simp] theorem replaceUnplaced_ctrs (s : State) : (replaceUnplaced s).sec.counters = s.sec.counters := by simp [replaceUnplaced]
@[simp] theorem testData_ctrs (s : State) (p n : Nat) : (testData s p n).sec.counters = s.sec.counters := by rfl

@[simp] theorem execCoreReverify_ctrs (p : Nat) (pass : Bool) (s : State) : NextKeeps s (execCoreReverify p pass s) := by
  unfold execCoreReverify
  dsimp only
  repeat' split
  all_goals simp

@[simp] theorem switchPair_ctrs (s : State) (p a b : Nat) : (switchPair s p a b).sec.counters = s.sec.counters := by simp [switchPair]

@[simp] theorem execShadowQuantumExpiry_ctrs (p : Nat) (s : State) : NextKeeps s (execShadowQuantumExpiry p s) := by
  fun_cases execShadowQuantumExpiry <;> simp

@[simp] theorem execShadowEarlySwitch_ctrs (p : Nat) (s : State) : NextKeeps s (execShadowEarlySwitch p s) := by
  fun_cases execShadowEarlySwitch <;> simp

@[simp] theorem patrolPast_ctrs (s : State) (p : Nat) : (patrolPast s p).sec.counters = s.sec.counters := by rfl
@[simp] theorem standIn_ctrs (s : State) (p q : Nat) : (standIn s p q).sec.counters = s.sec.counters := by simp [standIn]

@[simp] theorem execPatrolTestStart_ctrs (s : State) : NextKeeps s (execPatrolTestStart s) := by
  unfold execPatrolTestStart
  dsimp only
  repeat' split
  all_goals simp

@[simp] theorem standBack_ctrs (s : State) (p : Nat) : (standBack s p).sec.counters = s.sec.counters := by
  unfold standBack
  split <;> simp

@[simp] theorem patrolEnd_ctrs (s : State) (p : Nat) (pass : Bool) (sig : Word) :
    (patrolEnd s p pass sig).sec.counters = s.sec.counters := by
  simp [patrolEnd]

@[simp] theorem deadlock_ctrs (s : State) (k : Nat) : (deadlock s k).sec.counters = s.sec.counters := by rfl
@[simp] theorem watchCtx_ctrs (s : State) (k : Nat) : (watchCtx s k).sec.counters = s.sec.counters := by simp [watchCtx]
@[simp] theorem execWatchdogTest_ctrs (s : State) : NextKeeps s (execWatchdogTest s) := by simp [execWatchdogTest]

/-! ### Services of memory -/

@[simp] theorem execRegulatorRefill_ctrs (s : State) : NextKeeps s (execRegulatorRefill s) := by
  fun_cases execRegulatorRefill <;> simp

@[simp] theorem execPatrolScrub_ctrs (rd : ReadErr) (s : State) : NextKeeps s (execPatrolScrub rd s) := by simp [execPatrolScrub]

@[simp] theorem execHbmRowSpare_ctrs (chan row : Nat) (s : State) : NextKeeps s (execHbmRowSpare chan row s) := by
  unfold execHbmRowSpare
  dsimp only
  repeat' split
  all_goals simp

@[simp] theorem remapFw_ctrs (s : State) (old d : Nat) : (remapFw s old d).sec.counters = s.sec.counters := by rfl
@[simp] theorem remap_ctrs (s : State) (old : Nat) (new : Option Nat) : (remap s old new).sec.counters = s.sec.counters := by rfl
@[simp] theorem repairProgress_ctrs (s : State) (k n : Nat) : (repairProgress s k n).sec.counters = s.sec.counters := by rfl

@[simp] theorem fwElsewhere_ctrs (s : State) (k old : Nat) : (fwElsewhere s k old).sec.counters = s.sec.counters := by
  fun_cases fwElsewhere <;> simp

@[simp] theorem execHbmPageRetire_ctrs (page : Nat) (s : State) : NextKeeps s (execHbmPageRetire page s) := by
  unfold execHbmPageRetire
  dsimp only
  repeat' split
  all_goals simp

@[simp] theorem repairChan_ctrs (s : State) (chan : Nat) : (repairChan s chan).sec.counters = s.sec.counters := by
  fun_cases repairChan <;> rfl

@[simp] theorem execHbmPostPackageRepair_ctrs (chans : List Nat) (s : State) : NextKeeps s (execHbmPostPackageRepair chans s) := by
  simp [execHbmPostPackageRepair]

@[simp] theorem setSlice_ctrs (s : State) (i : Nat) (md : SliceMode) : (setSlice s i md).sec.counters = s.sec.counters := by rfl
@[simp] theorem imageHome_ctrs (s : State) (e : Nat × Nat) : (imageHome s e).sec.counters = s.sec.counters := by simp [imageHome]
@[simp] theorem giveBack_ctrs (s : State) (i : Nat) : (giveBack s i).sec.counters = s.sec.counters := by simp [giveBack]

@[simp] theorem cacheOff_ctrs (s : State) (i : Nat) : (cacheOff s i).sec.counters = s.sec.counters := by
  fun_cases cacheOff <;> rfl

@[simp] theorem execThatchSliceRetire_ctrs (slice : Nat) (s : State) : NextKeeps s (execThatchSliceRetire slice s) := by
  have hr (f : Nat → Nat) (g : Nat → Option Nat) (s : State) :
      ((List.range 8).foldl (fun t i => remap t (f i) (g i)) s).sec.counters = s.sec.counters :=
    foldl_ctrs (fun t i => remap_ctrs t (f i) (g i)) _ s
  unfold execThatchSliceRetire
  split
  · exact nextKeeps_next.2 rfl
  · have h0 : (if sliceMode s.mem slice = .cache then cacheOff s slice else giveBack s slice).sec.counters = s.sec.counters := by
      simp
    extract_lets old s0 ps ks fin ev
    have hfin (t : State) : (fin t).sec.counters = t.sec.counters := by simp [fin]
    have hev (t : State) (cls k n : Nat) : (ev t cls k n).sec.counters = t.sec.counters := by simp [ev]
    clear_value fin ev
    split
    · exact nextKeeps_next.2 ((capacityEvent_ctrs ..).trans ((hev ..).trans ((hfin _).trans h0)))
    · split
      · refine nextKeeps_next.2 ((capacityEvent_ctrs ..).trans ?_)
        rw [hev, repairProgress_ctrs, hfin, hr, copyDpa_ctrs, giveBack_ctrs]
        exact h0
      · refine nextKeeps_next.2 ((capacityEvent_ctrs ..).trans ((foldl_ctrs (fun t k => hev t clsJ k 0) _ _).trans ?_))
        rw [hfin, hr]
        exact h0

/-! ### Power and clocks -/

@[simp] theorem setRail_ctrs (s : State) (b : Nat) : (setRail s b).sec.counters = s.sec.counters := by rfl

@[simp] theorem lower_ctrs (s : State) (b v : Nat) : (lower s b v).sec.counters = s.sec.counters := by
  fun_cases lower <;> rfl

@[simp] theorem watchFixed_ctrs (s : State) (b : Nat) : (watchFixed s b).sec.counters = s.sec.counters := by
  fun_cases watchFixed <;> rfl

@[simp] theorem watchAllFixed_ctrs (s : State) : (watchAllFixed s).sec.counters = s.sec.counters := by simp [watchAllFixed]

@[simp] theorem execFrequencyStep_ctrs (b : Nat) (s : State) : NextKeeps s (execFrequencyStep b s) := by
  fun_cases execFrequencyStep <;> simp

@[simp] theorem execMuxSwitch_ctrs (b : Nat) (s : State) : NextKeeps s (execMuxSwitch b s) := by
  fun_cases execMuxSwitch <;> simp

@[simp] theorem execPllUnlock_ctrs (b pll : Nat) (s : State) : NextKeeps s (execPllUnlock b pll s) := by
  unfold execPllUnlock
  dsimp only
  repeat' split
  all_goals simp

@[simp] theorem execDroopDetect_ctrs (b : Nat) (s : State) : NextKeeps s (execDroopDetect b s) := by
  fun_cases execDroopDetect <;> simp

@[simp] theorem execDroopClear_ctrs (b : Nat) (s : State) : NextKeeps s (execDroopClear b s) := by
  fun_cases execDroopClear <;> simp

@[simp] theorem execVoltageLowerHoldExpiry_ctrs (b : Nat) (s : State) : NextKeeps s (execVoltageLowerHoldExpiry b s) := by
  fun_cases execVoltageLowerHoldExpiry <;> simp

@[simp] theorem refitLimit_ctrs (s : State) (b i : Nat) : (refitLimit s b i).sec.counters = s.sec.counters := by simp [refitLimit]

@[simp] theorem marginSeen_ctrs (s : State) (b margin : Nat) : (marginSeen s b margin).sec.counters = s.sec.counters := by
  unfold marginSeen
  dsimp only
  repeat' split
  all_goals simp

@[simp] theorem execMarginMonitorRead_ctrs (b margin : Nat) (s : State) : NextKeeps s (execMarginMonitorRead b margin s) := by
  fun_cases execMarginMonitorRead <;> simp

@[simp] theorem execPatrolTestDone_ctrs (pass : Bool) (sig : Word) (margin : Nat) (s : State) :
    NextKeeps s (execPatrolTestDone pass sig margin s) := by
  fun_cases execPatrolTestDone <;> simp

@[simp] theorem setLimit_ctrs (s : State) (source w : Nat) : (setLimit s source w).sec.counters = s.sec.counters := by
  fun_cases setLimit <;> rfl

@[simp] theorem capMore_ctrs (s : State) : (capMore s).sec.counters = s.sec.counters := by
  fun_cases capMore <;> rfl

@[simp] theorem capLess_ctrs (s : State) : (capLess s).sec.counters = s.sec.counters := by rfl
@[simp] theorem countThrottle_ctrs (s : State) : (countThrottle s).sec.counters = s.sec.counters := by rfl

@[simp] theorem execFastLoop_ctrs (raw : List Nat) (uncore : Nat) (s : State) : NextKeeps s (execFastLoop raw uncore s) := by
  simp [execFastLoop]

@[simp] theorem slowDie_ctrs (s : State) (measured : List (Option Nat)) (d : Nat) :
    (slowDie s measured d).sec.counters = s.sec.counters := by
  simp [slowDie]

@[simp] theorem lever2_ctrs (s : State) (b : Nat) (down up : Bool) : (lever2 s b down up).sec.counters = s.sec.counters := by
  fun_cases lever2 <;> rfl

@[simp] theorem lever2All_ctrs (s : State) : (lever2All s).sec.counters = s.sec.counters := by simp [lever2All]

@[simp] theorem execSlowLoop_ctrs (measured : List (Option Nat)) (s : State) : NextKeeps s (execSlowLoop measured s) := by
  unfold execSlowLoop
  dsimp only
  repeat' split
  all_goals simp

@[simp] theorem charge_ctrs (s : State) (k e : Nat) : (charge s k e).sec.counters = s.sec.counters := by
  fun_cases charge <;> rfl

@[simp] theorem execEnergyAttribution_ctrs (cores : List (Nat × Nat)) (grains : List (Nat × Nat)) (rest : Nat) (s : State) :
    NextKeeps s (execEnergyAttribution cores grains rest s) := by
  simp [execEnergyAttribution]

@[simp] theorem countBay_ctrs (s : State) (b n : Nat) : (countBay s b n).sec.counters = s.sec.counters := by rfl

@[simp] theorem execLostCycleUpdate_ctrs (delivered : List Nat) (s : State) : NextKeeps s (execLostCycleUpdate delivered s) := by
  simp [execLostCycleUpdate]

@[simp] theorem execBayClockStop_ctrs (b : Nat) (s : State) : NextKeeps s (execBayClockStop b s) := by
  fun_cases execBayClockStop <;> simp

@[simp] theorem settleEmergency_ctrs (s : State) : (settleEmergency s).sec.counters = s.sec.counters := by
  fun_cases settleEmergency <;> rfl

@[simp] theorem heatDown_ctrs (s : State) (dies : List Int) : (heatDown s dies).sec.counters = s.sec.counters := by simp [heatDown]
@[simp] theorem heatUp_ctrs (s : State) : (heatUp s).sec.counters = s.sec.counters := by rfl

@[simp] theorem throttleLevel_ctrs (s : State) (dies : List Int) : (throttleLevel s dies).sec.counters = s.sec.counters := by
  simp [throttleLevel]

@[simp] theorem stackCool_ctrs (s : State) (n : Nat) (t : Int) : (stackCool s n t).sec.counters = s.sec.counters := by
  fun_cases stackCool <;> rfl

@[simp] theorem execThermalSample_ctrs (dies : List Int) (hbm : List Int) (s : State) : NextKeeps s (execThermalSample dies hbm s) := by
  simp [execThermalSample]

@[simp] theorem execThermalEmergency_ctrs (sensor : Nat) (temp : Int) (s : State) : NextKeeps s (execThermalEmergency sensor temp s) := by
  unfold execThermalEmergency
  dsimp only
  repeat' split
  all_goals simp

@[simp] theorem execThermalEmergencyRelease_ctrs (s : State) : NextKeeps s (execThermalEmergencyRelease s) := by
  fun_cases execThermalEmergencyRelease <;> simp

@[simp] theorem execThermalTrip_ctrs (sensor : Nat) (temp : Int) (s : State) : NextKeeps s (execThermalTrip sensor temp s) := by
  unfold execThermalTrip
  dsimp only
  repeat' split
  all_goals simp

@[simp] theorem execHbmThrottle_ctrs (stack : Nat) (temp : Int) (s : State) : NextKeeps s (execHbmThrottle stack temp s) := by
  unfold execHbmThrottle
  dsimp only
  repeat' split
  all_goals simp

@[simp] theorem execFastThrottle_ctrs (s : State) : NextKeeps s (execFastThrottle s) := by
  unfold execFastThrottle
  dsimp only
  repeat' split
  all_goals simp

@[simp] theorem execFastThrottleRelease_ctrs (s : State) : NextKeeps s (execFastThrottleRelease s) := by
  fun_cases execFastThrottleRelease <;> simp

@[simp] theorem execPmuFallback_ctrs (missed : Nat) (s : State) : NextKeeps s (execPmuFallback missed s) := by
  unfold execPmuFallback
  dsimp only
  repeat' split
  all_goals simp

@[simp] theorem execPmuResume_ctrs (s : State) : NextKeeps s (execPmuResume s) := by
  fun_cases execPmuResume <;> simp

@[simp] theorem execPmbusAlert_ctrs (s : State) : NextKeeps s (execPmbusAlert s) := by simp [execPmbusAlert]

/-! ### Device time -/

@[simp] theorem tick_ctrs (s : State) : (tick s).sec.counters = s.sec.counters := by
  fun_cases tick <;> rfl

@[simp] theorem unsync_ctrs (s : State) (offset : Int) : (unsync s offset).sec.counters = s.sec.counters := by
  fun_cases unsync <;> rfl

@[simp] theorem resync_ctrs (s : State) (offset : Int) : (resync s offset).sec.counters = s.sec.counters := by
  fun_cases resync <;> rfl

@[simp] theorem disciplined_ctrs (s : State) (offset rate : Int) : (disciplined s offset rate).sec.counters = s.sec.counters := by
  simp [disciplined]

@[simp] theorem ptpSend_ctrs (s : State) (port net : Nat) (m : PtpMsg) : (ptpSend s port net m).sec.counters = s.sec.counters := by
  fun_cases ptpSend <;> rfl

@[simp] theorem askDelay_ctrs (s : State) (port net t1 t2 : Nat) : (askDelay s port net t1 t2).sec.counters = s.sec.counters := by
  simp [askDelay]

@[simp] theorem synced_ctrs (s : State) (port net t1 t2 : Nat) (rate : Int) :
    (synced s port net t1 t2 rate).sec.counters = s.sec.counters := by
  simp [synced]

@[simp] theorem setDelay_ctrs (s : State) (d : Int) : (setDelay s d).sec.counters = s.sec.counters := by rfl

@[simp] theorem ptpIn_ctrs (s : State) (port net : Nat) (m : PtpMsg) (rate : Int) :
    (ptpIn s port net m rate).sec.counters = s.sec.counters := by
  fun_cases ptpIn <;> simp

@[simp] theorem execPtpSyncReceive_ctrs (a : PtpArrival) (rate : Int) (s : State) : NextKeeps s (execPtpSyncReceive a rate s) := by
  fun_cases execPtpSyncReceive <;> simp

@[simp] theorem execPtpSyncTimeout_ctrs (s : State) : NextKeeps s (execPtpSyncTimeout s) := by
  fun_cases execPtpSyncTimeout <;> simp

@[simp] theorem execPpsIn_ctrs (s : State) : NextKeeps s (execPpsIn s) := by
  fun_cases execPpsIn <;> simp

@[simp] theorem sendSync_ctrs (s : State) : (sendSync s).sec.counters = s.sec.counters := by simp [sendSync]

@[simp] theorem execPpsOut_ctrs (s : State) : NextKeeps s (execPpsOut s) := by
  fun_cases execPpsOut <;> simp

/-! ### The Chain -/

@[simp] theorem replayDir_ctrs (s : State) (j g : Nat) (up : Bool) : (replayDir s j g up).sec.counters = s.sec.counters := by
  fun_cases replayDir <;> rfl

@[simp] theorem acked_ctrs (s : State) (j g : Nat) (up : Bool) (a : Nat) (nak : Bool) :
    (acked s j g up a nak).sec.counters = s.sec.counters := by
  simp [acked]

@[simp] theorem chargeLane_ctrs (s : State) (j l : Nat) : (chargeLane s j l).sec.counters = s.sec.counters := by rfl

@[simp] theorem execMarginReport_ctrs (j : Nat) (up : Bool) (lanes : List (Nat × Nat × Bool)) (s : State) :
    NextKeeps s (execMarginReport j up lanes s) := by
  fun_cases execMarginReport <;> simp

@[simp] theorem execLaneDue_ctrs (j : Nat) (up : Bool) (lane : Nat) (s : State) : NextKeeps s (execLaneDue j up lane s) := by
  fun_cases execLaneDue <;> simp

@[simp] theorem swapHeard_ctrs (s : State) (j : Nat) (up : Bool) (lane spare : Nat) :
    (swapHeard s j up lane spare).sec.counters = s.sec.counters := by
  fun_cases swapHeard <;> rfl

@[simp] theorem execSwap_ctrs (j : Nat) (up : Bool) (lane spare : Nat) (s : State) : NextKeeps s (execSwap j up lane spare s) := by
  fun_cases execSwap <;> simp

@[simp] theorem switchLane_ctrs (s : State) (j : Nat) (up : Bool) (w : Swapping) : (switchLane s j up w).sec.counters = s.sec.counters := by rfl

@[simp] theorem execLaneSwitch_ctrs (j : Nat) (up : Bool) (s : State) : NextKeeps s (execLaneSwitch j up s) := by
  fun_cases execLaneSwitch <;> simp

@[simp] theorem takeData_ctrs (s : State) (j g : Nat) (up : Bool) (f : Flit) (w : Arriving) :
    (takeData s j g up f w).sec.counters = s.sec.counters := by
  simp [takeData]

@[simp] theorem accept_ctrs (s : State) (j g : Nat) (up : Bool) (f : Flit) : (accept s j g up f).sec.counters = s.sec.counters := by
  unfold accept
  dsimp only
  repeat' split
  all_goals simp

@[simp] theorem discard_ctrs (s : State) (j g : Nat) (up : Bool) (f : Flit) : (discard s j g up f).sec.counters = s.sec.counters := by
  fun_cases discard <;> rfl

@[simp] theorem execFlitReceive_ctrs (j g : Nat) (up : Bool) (d : FlitData) (l : FlitLink) (s : State) :
    NextKeeps s (execFlitReceive j g up d l s) := by
  fun_cases execFlitReceive <;> simp

@[simp] theorem execNakReceive_ctrs (j g : Nat) (up : Bool) (ack : Nat) (s : State) : NextKeeps s (execNakReceive j g up ack s) := by
  fun_cases execNakReceive <;> simp

@[simp] theorem execReplayTimeout_ctrs (j g : Nat) (up : Bool) (s : State) : NextKeeps s (execReplayTimeout j g up s) := by
  fun_cases execReplayTimeout <;> simp

@[simp] theorem failBurst_ctrs (s : State) (b : ChainBurst) : (failBurst s b).sec.counters = s.sec.counters := by
  unfold failBurst
  dsimp only
  split
  · rfl
  · split
    · rfl
    · split
      all_goals
        simp only [setFlightS_ctrs, landed_ctrs]
        exact foldl_ctrs (fun s g => by split <;> simp) _ _

@[simp] theorem joinDown_ctrs (s : State) (j : Nat) : (joinDown s j).sec.counters = s.sec.counters := by simp [joinDown]

@[simp] theorem execChainGroupRemoved_ctrs (j g : Nat) (s : State) : NextKeeps s (execChainGroupRemoved j g s) := by
  unfold execChainGroupRemoved
  dsimp only
  repeat' split
  all_goals simp

/-! ### Messages -/

@[simp] theorem untake_ctrs (s : State) (h : MsgHdr) (t : MsgType) : (untake s h t).sec.counters = s.sec.counters := by
  fun_cases untake <;> rfl

@[simp] theorem respond_ctrs (s : State) (h : MsgHdr) (type status : Nat) (result : List Byte) :
    (respond s h type status result).sec.counters = s.sec.counters := by
  fun_cases respond <;> rfl

@[simp] theorem answerLate_ctrs (s : State) (m : Nat) : (answerLate s m).sec.counters = s.sec.counters := by
  fun_cases answerLate <;> simp

@[simp] theorem answer_ctrs (s : State) (h : MsgHdr) (type status : Nat) (result : List Byte) :
    (answer s h type status result).sec.counters = s.sec.counters := by
  simp [answer]

@[simp] theorem present_ctrs (s : State) (box : Nat) : (present s box).sec.counters = s.sec.counters := by
  fun_cases present <;> rfl

theorem message_ctrs {body : State → State × Nat × List Byte} (i : Instr) (t : MsgType) (h : MsgHdr) (s : State)
    (hb : ∀ u, (body u).1.sec.counters = u.sec.counters) : NextKeeps s (message i t h s body) := by
  rcases message_cases i t h s body with ⟨-, e⟩ | ⟨box, st, -, -, e⟩ | ⟨box, -, e⟩
  · rw [e]; exact nextKeeps_next.2 rfl
  · rw [e]; simp
  · rw [e]; simp [hb]

@[simp] theorem submitTo_ctrs (s : State) (m : Nat) (x : MsgHdr × Nat × Nat) (payload : List Byte) :
    (submitTo s m x payload).sec.counters = s.sec.counters := by
  unfold submitTo
  split <;> simp

@[simp] theorem deny_ctrs (s : State) (status : Nat) : (deny s status).1.sec.counters = s.sec.counters := by rfl
@[simp] theorem done_ctrs (s : State) (result : List Byte) : (done s result).1.sec.counters = s.sec.counters := by rfl
@[simp] theorem newRing_ctrs (s : State) (addr : Nat) (resp : List Rec) : (newRing s addr resp).sec.counters = s.sec.counters := by rfl

@[simp] theorem execHello_ctrs (h : MsgHdr) (outboxAddr threshold : Nat) (rsv : Bool) (s : State) :
    NextKeeps s (execHello h outboxAddr threshold rsv s) := by
  unfold execHello
  dsimp only
  repeat' split
  all_goals simp

@[simp] theorem execHostAlive_ctrs (h : MsgHdr) (timeoutS : Nat) (rsv : Bool) (s : State) :
    NextKeeps s (execHostAlive h timeoutS rsv s) := by
  refine message_ctrs _ _ _ _ fun u => ?_
  repeat' split
  all_goals simp

@[simp] theorem execStatus_ctrs (h : MsgHdr) (s : State) : NextKeeps s (execStatus h s) := message_ctrs _ _ _ _ fun _ => by simp
@[simp] theorem execContextList_ctrs (h : MsgHdr) (s : State) : NextKeeps s (execContextList h s) := message_ctrs _ _ _ _ fun _ => by simp

@[simp] theorem execCapacity_ctrs (h : MsgHdr) (hostAddr : Nat) (rsv : Bool) (s : State) : NextKeeps s (execCapacity h hostAddr rsv s) := by
  refine message_ctrs _ _ _ _ fun u => ?_
  repeat' split
  all_goals simp

/-! ### Transmission -/

@[simp] theorem managerBlock_ctrs (s : State) (m : Nat) (h : FHdr) (pay : List Byte) :
    (managerBlock s m h pay).sec.counters = s.sec.counters := by
  simp [managerBlock]

theorem managerLand_ctrs (s : State) (h : FHdr) (pay : List Byte) : LandedKeeps s (managerLand s h pay) := by
  unfold managerLand
  repeat' split
  all_goals simp

theorem mirrorLand_ctrs (s : State) (h : FHdr) (pay : List Byte) (poi : BitVec 64) : LandedKeeps s (mirrorLand s h pay poi) := by
  unfold mirrorLand
  split
  · exact landedKeeps_done.2 rfl
  · split
    · exact landedKeeps_done.2 rfl
    · split
      · simp
      · exact landedKeeps_done.2 rfl

theorem firmwareLand_ctrs (s : State) (h : FHdr) (pay : List Byte) (poi : BitVec 64) : LandedKeeps s (firmwareLand s h pay poi) := by
  unfold firmwareLand
  repeat' split
  all_goals simp [managerLand_ctrs, mirrorLand_ctrs]

@[simp] theorem execFurlongWriteReceive_ctrs (k : Packet) (s : State) : NextKeeps s (execFurlongWriteReceive k s) := by
  refine nextKeeps_next.2 (receive_ctrs _ _ fun c => ?_)
  split
  · exact firmwareLand_ctrs _ _ _ _
  · exact regionLand_ctrs _ _ _ _ fun r => yields_map (writeVas_ctrs _ _ _ _) fun t ht => by simp [ht]

theorem outState_ctrs {s : State} {o : Out} (ho : NextKeeps s o) : (outState s o).sec.counters = s.sec.counters := by
  unfold outState
  split
  · exact ho _ rfl
  · rfl

@[simp] theorem handOver_ctrs (s : State) (k : Packet) : (handOver s k).sec.counters = s.sec.counters := by
  refine outState_ctrs ?_
  split
  · exact execFurlongWriteReceive_ctrs k s
  · exact execReadReqReceive_ctrs k s
  · exact execReadRespReceive_ctrs k s
  · exact execRemoteTrussArrival_ctrs k s
  · exact execSendReceive_ctrs k s
  · split
    · exact execCollReady_ctrs k s
    · exact execCollData_ctrs k s
    · exact execCollPartial_ctrs k s
    · exact execCollResult_ctrs k s
    · exact execCollCheck_ctrs k s
    · exact execCollRepair_ctrs k s
    · exact execCollAbort_ctrs k s
    · exact execCollRevoke_ctrs k s
    · exact execCollDone_ctrs k s
  · exact nextKeeps_next.2 rfl

@[simp] theorem handOwn_ctrs (s : State) (own : Nat) (k : Packet) : (handOwn s own k).sec.counters = s.sec.counters := by simp [handOwn]

theorem netCharge_ctrs {s : State} {p : Packet} {u : State} (ht : netCharge s p = some u) : u.sec.counters = s.sec.counters := by
  unfold netCharge at ht
  dsimp only at ht
  repeat' split at ht
  all_goals cases ht
  all_goals rfl

@[simp] theorem countSent_ctrs (s : State) (p : Packet) (peer : Nat) (port : Option Nat) (again : Bool) :
    (countSent s p peer port again).sec.counters = s.sec.counters := by
  unfold countSent
  repeat' split
  all_goals simp

@[simp] theorem transmit_ctrs (s : State) (p : Packet) (peer : Nat) (w : Way) (again : Bool) :
    (transmit s p peer w again).sec.counters = s.sec.counters := by
  fun_cases transmit <;> simp

@[simp] theorem noWay_ctrs (s : State) (peer path : Nat) : (noWay s peer path).sec.counters = s.sec.counters := by
  fun_cases noWay <;> simp

@[simp] theorem resend_ctrs (s : State) (peer : Nat) (x : Session) (e : Sent) : (resend s peer x e).sec.counters = s.sec.counters := by
  simp [resend]

@[simp] theorem sendNew_ctrs (s : State) (peer : Nat) (x : Session) (p : Packet) (r : List Packet) :
    (sendNew s peer x p r).sec.counters = s.sec.counters := by
  unfold sendNew
  dsimp only
  split
  · rfl
  · split
    · split
      · rfl
      · next e => simpa using netCharge_ctrs e
    · exact noWay_ctrs ..

@[simp] theorem sendRecord_ctrs (peer : Nat) (s : State) (r : Rec) : (sendRecord peer s r).sec.counters = s.sec.counters := by
  simp [sendRecord]

@[simp] theorem flushRecords_ctrs (s : State) (peer : Nat) : (flushRecords s peer).sec.counters = s.sec.counters := by simp [flushRecords]

@[simp] theorem execPacketSend_ctrs (peer : Nat) (s : State) : NextKeeps s (execPacketSend peer s) := by
  unfold execPacketSend
  dsimp only
  repeat' split
  all_goals simp

/-! ### Contexts -/

theorem reserveHome_ctrs {s : State} {k part n : Nat} {u : State} (ht : reserveHome s k part n = some u) :
    u.sec.counters = s.sec.counters := by
  unfold reserveHome at ht
  split at ht
  · cases ht
  · cases ht; rfl

theorem reserveHomes_ctrs {s : State} {k part : Nat} {u : State} (ht : reserveHomes s k part = some u) :
    u.sec.counters = s.sec.counters :=
  foldlM_some (P := fun u : State => u.sec.counters = s.sec.counters) (fun _ _ _ hu he => (reserveHome_ctrs he).trans hu) _ rfl ht

@[simp] theorem imagesToThatch_ctrs (s : State) (k part : Nat) : (imagesToThatch s k part).sec.counters = s.sec.counters := by
  simp [imagesToThatch]

@[simp] theorem releaseImages_ctrs (s : State) (k : Nat) : (releaseImages s k).sec.counters = s.sec.counters := by simp [releaseImages]

@[simp] theorem execContextCreate_ctrs (h : MsgHdr) (part mbx hostLoss route job manager watchdog : Nat) (rsv : Bool) (s : State) :
    NextKeeps s (execContextCreate h part mbx hostLoss route job manager watchdog rsv s) := by
  refine message_ctrs _ _ _ _ fun u => ?_
  split
  · rfl
  · dsimp only
    split
    · rfl
    · split
      · rfl
      · split
        · rfl
        · split
          · rfl
          · next e => exact (imagesToThatch_ctrs ..).trans ((reserveHomes_ctrs e).trans rfl)

@[simp] theorem landAll_ctrs (s : State) (k : Nat) : (landAll s k).sec.counters = s.sec.counters := by simp [landAll]
@[simp] theorem stopLaunch_ctrs (s : State) (k status : Nat) : (stopLaunch s k status).sec.counters = s.sec.counters := by simp [stopLaunch]
@[simp] theorem freePages_ctrs (s : State) (l : List Nat) : (freePages s l).sec.counters = s.sec.counters := by rfl

@[simp] theorem noteUnbound_ctrs (s : State) (k : Nat) (l : List (Nat × Nat × Nat)) :
    (noteUnbound s k l).sec.counters = s.sec.counters := by rfl

@[simp] theorem dropKeys_ctrs (s : State) (x : Ctx) : (dropKeys s x).sec.counters = s.sec.counters := by rfl
@[simp] theorem freeContext_ctrs (s : State) (k : Nat) : (freeContext s k).sec.counters = s.sec.counters := by simp [freeContext]

@[simp] theorem unpair_ctrs (s : State) (k : Nat) : (unpair s k).sec.counters = s.sec.counters := by
  fun_cases unpair <;> rfl

@[simp] theorem execContextDestroy_ctrs (h : MsgHdr) (s : State) : NextKeeps s (execContextDestroy h s) :=
  message_ctrs _ _ _ _ fun _ => by simp

@[simp] theorem execContextPolicy_ctrs (h : MsgHdr) (hostLoss route manager : Nat) (rsv : Bool) (s : State) :
    NextKeeps s (execContextPolicy h hostLoss route manager rsv s) := by
  refine message_ctrs _ _ _ _ fun u => ?_
  repeat' split
  all_goals simp

@[simp] theorem execContextStop_ctrs (h : MsgHdr) (s : State) : NextKeeps s (execContextStop h s) := message_ctrs _ _ _ _ fun _ => by simp

@[simp] theorem execContextResume_ctrs (h : MsgHdr) (s : State) : NextKeeps s (execContextResume h s) := by
  refine message_ctrs _ _ _ _ fun u => ?_
  dsimp only
  repeat' split
  all_goals simp

@[simp] theorem execContextEnergy_ctrs (h : MsgHdr) (s : State) : NextKeeps s (execContextEnergy h s) :=
  message_ctrs _ _ _ _ fun _ => by simp

@[simp] theorem startLaunch_ctrs (s : State) (k : Nat) (entries : List LaunchEntry) :
    (startLaunch s k entries).sec.counters = s.sec.counters := by
  have hf := foldl_ctrs (f := fun t (e : LaunchEntry × Nat) => setCore t k e.1.lcore (entryCore s k e.1 e.2 entries.length)) (fun _ _ => rfl)
    entries.zipIdx s
  simpa [startLaunch] using hf

@[simp] theorem announce_ctrs (s : State) : (announce s).sec.counters = s.sec.counters := by
  fun_cases announce <;> rfl

theorem wildOut_ctrs {s : State} {o : Out} (k : Nat) (b : Bool) (ho : NextKeeps s o) : NextKeeps s (wildOut k b o) := by
  unfold wildOut
  split
  · split
    · simpa using ho _ rfl
    · exact ho
  · exact ho

@[simp] theorem execLaunch_ctrs (h : MsgHdr) (entries : List LaunchEntry) (rsv : Bool) (s : State) :
    NextKeeps s (execLaunch h entries rsv s) := by
  refine wildOut_ctrs _ _ (message_ctrs _ _ _ _ fun u => ?_)
  dsimp only
  repeat' split
  all_goals simp

@[simp] theorem execNumericPolicy_ctrs (h : MsgHdr) (p : NumericPolicy) (s : State) : NextKeeps s (execNumericPolicy h p s) := by
  refine message_ctrs _ _ _ _ fun u => ?_
  repeat' split
  all_goals simp

@[simp] theorem execNumericWatch_ctrs (h : MsgHdr) (slot threshold arm : Nat) (rsv : Bool) (s : State) :
    NextKeeps s (execNumericWatch h slot threshold arm rsv s) := by
  refine message_ctrs _ _ _ _ fun u => ?_
  repeat' split
  all_goals simp

@[simp] theorem execWatchdogSet_ctrs (h : MsgHdr) (periodMs : Nat) (rsv : Bool) (s : State) :
    NextKeeps s (execWatchdogSet h periodMs rsv s) := by
  refine message_ctrs _ _ _ _ fun u => ?_
  repeat' split
  all_goals simp

@[simp] theorem absentCtx_ctrs (s : State) (k : Nat) : (absentCtx s k).sec.counters = s.sec.counters := by simp [absentCtx]

@[simp] theorem execHostAbsenceTest_ctrs (s : State) : NextKeeps s (execHostAbsenceTest s) := by
  unfold execHostAbsenceTest
  dsimp only
  repeat' split
  all_goals simp

/-! ### Memory messages -/

@[simp] theorem mapPage_ctrs (s : State) (k va dpa size : Nat) (perm : BitVec 8) :
    (mapPage s k va dpa size perm).sec.counters = s.sec.counters := by rfl

theorem allocHbm_ctrs {part k size : Nat} {perm : BitVec 8} {s : State} {va : Nat} {u : State}
    (ht : allocHbm part k size perm s va = some u) :
    u.sec.counters = s.sec.counters := by
  unfold allocHbm at ht
  dsimp only at ht
  split at ht
  · cases ht
  · cases ht; simp

theorem allocThatch_ctrs {part k : Nat} {perm : BitVec 8} {s : State} {va : Nat} {u : State} (ht : allocThatch part k perm s va = some u) :
    u.sec.counters = s.sec.counters := by
  unfold allocThatch at ht
  split at ht
  · cases ht; simp
  · split at ht
    · cases ht
    · cases ht; simp

@[simp] theorem execMemAlloc_ctrs (h : MsgHdr) (va size kind page : Nat) (perm : BitVec 8) (rsv : Bool) (s : State) :
    NextKeeps s (execMemAlloc h va size kind page perm rsv s) := by
  refine message_ctrs _ _ _ _ fun u => ?_
  extract_lets vas
  split_ifs
  · rfl
  · rfl
  · rfl
  · rfl
  · split
    · next e =>
      exact foldlM_some (P := fun s : State => s.sec.counters = u.sec.counters) (fun _ _ _ hs ht => (allocHbm_ctrs ht).trans hs) _ rfl e
    · rfl
  · split
    · next e =>
      exact foldlM_some (P := fun s : State => s.sec.counters = u.sec.counters) (fun _ _ _ hs ht => (allocThatch_ctrs ht).trans hs) _ rfl e
    · rfl

@[simp] theorem landOrphans_ctrs (s : State) (k : Nat) : (landOrphans s k).sec.counters = s.sec.counters := by simp [landOrphans]

@[simp] theorem execMemFree_ctrs (h : MsgHdr) (va size : Nat) (s : State) : NextKeeps s (execMemFree h va size s) := by
  refine message_ctrs _ _ _ _ fun u => ?_
  dsimp only
  repeat' split
  all_goals simp

@[simp] theorem writePage_ctrs (k va : Nat) (data : List Byte) (s : State) (v : Nat) :
    (writePage k va data s v).sec.counters = s.sec.counters := by rfl

@[simp] theorem touchPages_ctrs (s : State) (k va size : Nat) (wr : Bool) : (touchPages s k va size wr).sec.counters = s.sec.counters := by
  simp [touchPages]

@[simp] theorem execMemWrite_ctrs (h : MsgHdr) (va size _hostAddr : Nat) (data : List Byte) (s : State) :
    NextKeeps s (execMemWrite h va size _hostAddr data s) := by
  refine message_ctrs _ _ _ _ fun u => ?_
  dsimp only
  repeat' split
  all_goals simp

@[simp] theorem execMemRead_ctrs (h : MsgHdr) (va size hostAddr : Nat) (s : State) : NextKeeps s (execMemRead h va size hostAddr s) := by
  refine message_ctrs _ _ _ _ fun u => ?_
  dsimp only
  repeat' split
  all_goals simp

@[simp] theorem execTrussCreate_ctrs (h : MsgHdr) (vtid mode home limit participants : Nat) (fwd : List FwdEntry)
    (members : List Member) (rsv : Bool) (s : State) :
    NextKeeps s (execTrussCreate h vtid mode home limit participants fwd members rsv s) := by
  unfold execTrussCreate
  refine nextKeeps_ite (nextKeeps_next.2 rfl) (message_ctrs _ _ _ _ fun u => ?_)
  dsimp only
  repeat' split
  all_goals rfl

@[simp] theorem execTrussDestroy_ctrs (h : MsgHdr) (vtid : Nat) (rsv : Bool) (s : State) : NextKeeps s (execTrussDestroy h vtid rsv s) := by
  refine message_ctrs _ _ _ _ fun u => ?_
  dsimp only
  repeat' split
  all_goals simp

@[simp] theorem execRegionCreate_ctrs (h : MsgHdr) (key : Nat) (perm : BitVec 8) (base length : Nat) (rsv : Bool) (s : State) :
    NextKeeps s (execRegionCreate h key perm base length rsv s) := by
  unfold execRegionCreate
  refine nextKeeps_ite (nextKeeps_next.2 rfl) (message_ctrs _ _ _ _ fun u => ?_)
  dsimp only
  repeat' split
  all_goals rfl

@[simp] theorem execRegionDestroy_ctrs (h : MsgHdr) (key : Nat) (rsv : Bool) (s : State) : NextKeeps s (execRegionDestroy h key rsv s) := by
  refine message_ctrs _ _ _ _ fun u => ?_
  dsimp only
  repeat' split
  all_goals simp

@[simp] theorem splitPair_ctrs (s : State) (p : Nat) : (splitPair s p).sec.counters = s.sec.counters := by
  unfold splitPair
  split <;> simp

@[simp] theorem softenBay_ctrs (s : State) (b : Nat) : (softenBay s b).sec.counters = s.sec.counters := by
  unfold softenBay
  refine foldl_ctrs (fun s i => ?_) _ _
  split <;> simp

@[simp] theorem relayout_ctrs (s : State) (part quota : List Nat) : (relayout s part quota).sec.counters = s.sec.counters := by
  simp [relayout]

@[simp] theorem execPartitionSet_ctrs (h : MsgHdr) (part : List Nat) (quota : List Nat) (s : State) :
    NextKeeps s (execPartitionSet h part quota s) := by
  refine message_ctrs _ _ _ _ fun u => ?_
  dsimp only
  repeat' split
  all_goals simp

@[simp] theorem execSliceMode_ctrs (h : MsgHdr) (bd slice mode : Nat) (rsv : Bool) (s : State) :
    NextKeeps s (execSliceMode h bd slice mode rsv s) := by
  refine message_ctrs _ _ _ _ fun u => ?_
  dsimp only
  repeat' split
  all_goals simp

@[simp] theorem onPart_ctrs (s : State) (part : Nat) (ok : Bool) (f : PartSt → PartSt) :
    (onPart s part ok f).1.sec.counters = s.sec.counters := by
  fun_cases onPart <;> rfl

@[simp] theorem execSchedSet_ctrs (h : MsgHdr) (part sliceMs quantumUs : Nat) (rsv : Bool) (s : State) :
    NextKeeps s (execSchedSet h part sliceMs quantumUs rsv s) := by
  refine message_ctrs _ _ _ _ fun u => ?_
  repeat' split
  all_goals simp

@[simp] theorem execFixedFreq_ctrs (h : MsgHdr) (part on : Nat) (rsv : Bool) (s : State) : NextKeeps s (execFixedFreq h part on rsv s) := by
  refine message_ctrs _ _ _ _ fun u => ?_
  repeat' split
  all_goals simp

@[simp] theorem execOppointSet_ctrs (h : MsgHdr) (part : Nat) (freq : List Nat) (rsv : Bool) (s : State) :
    NextKeeps s (execOppointSet h part freq rsv s) := by
  refine message_ctrs _ _ _ _ fun u => ?_
  repeat' split
  all_goals simp

@[simp] theorem execPowerLimit_ctrs (h : MsgHdr) (watts : Nat) (rsv : Bool) (s : State) : NextKeeps s (execPowerLimit h watts rsv s) := by
  refine message_ctrs _ _ _ _ fun u => ?_
  repeat' split
  all_goals simp

@[simp] theorem execBudgetSet_ctrs (h : MsgHdr) (ctx hbm network : Nat) (rsv : Bool) (s : State) :
    NextKeeps s (execBudgetSet h ctx hbm network rsv s) := by
  refine message_ctrs _ _ _ _ fun u => ?_
  repeat' split
  all_goals simp

@[simp] theorem execTimeSource_ctrs (h : MsgHdr) (source profile port : Nat) (rsv : Bool) (s : State) :
    NextKeeps s (execTimeSource h source profile port rsv s) := by
  refine message_ctrs _ _ _ _ fun u => ?_
  repeat' split
  all_goals simp

/-! ### Network messages -/

@[simp] theorem retrain_ctrs (s : State) (p : Nat) : (retrain s p).sec.counters = s.sec.counters := by rfl

@[simp] theorem execPortConfig_ctrs (h : MsgHdr) (octet mode : Nat) (mtu : List Nat) (rsv : Bool) (s : State) :
    NextKeeps s (execPortConfig h octet mode mtu rsv s) := by
  refine message_ctrs _ _ _ _ fun u => ?_
  dsimp only
  repeat' split
  all_goals simp

@[simp] theorem execNodeTable_ctrs (h : MsgHdr) (job : Nat) (nodes : List (Nat × Nat)) (s : State) :
    NextKeeps s (execNodeTable h job nodes s) := by
  refine message_ctrs _ _ _ _ fun u => ?_
  repeat' split
  all_goals simp

@[simp] theorem execManagerSet_ctrs (h : MsgHdr) (entries : List (Nat × Nat)) (rsv : Bool) (s : State) :
    NextKeeps s (execManagerSet h entries rsv s) := by
  refine message_ctrs _ _ _ _ fun u => ?_
  repeat' split
  all_goals simp

@[simp] theorem execNetIdentity_ctrs (h : MsgHdr) (n : NetIdentity) (s : State) : NextKeeps s (execNetIdentity h n s) := by
  refine message_ctrs _ _ _ _ fun u => ?_
  repeat' split
  all_goals simp

@[simp] theorem execGridSet_ctrs (h : MsgHdr) (naxes : Nat) (extent : List Nat) (nodes : List Nat) (rsv : Bool) (s : State) :
    NextKeeps s (execGridSet h naxes extent nodes rsv s) := by
  refine message_ctrs _ _ _ _ fun u => ?_
  dsimp only
  repeat' split
  all_goals simp

@[simp] theorem execGroupCreate_ctrs (h : MsgHdr) (gid alg fanin members : Nat) (block : List Nat) (statusPtr : Nat) (nodes : List Nat)
    (rsv : Bool) (s : State) :
    NextKeeps s (execGroupCreate h gid alg fanin members block statusPtr nodes rsv s) := by
  unfold execGroupCreate
  refine nextKeeps_ite (nextKeeps_next.2 rfl) (message_ctrs _ _ _ _ fun u => ?_)
  dsimp only
  repeat' split
  all_goals rfl

@[simp] theorem execGroupDestroy_ctrs (h : MsgHdr) (gid : Nat) (rsv : Bool) (s : State) : NextKeeps s (execGroupDestroy h gid rsv s) := by
  refine message_ctrs _ _ _ _ fun u => ?_
  dsimp only
  repeat' split
  all_goals simp

@[simp] theorem sendCapsule_ctrs (s : State) (q : Nat) (c : List Byte) : (sendCapsule s q c).sec.counters = s.sec.counters := by
  simp [sendCapsule]

@[simp] theorem execStorageConnect_ctrs (h : MsgHdr) (ctrl family svcid queues depth addr : Nat) (subnqn : List Byte) (rsv : Bool)
    (namespaces : Option (List Nat)) (s : State) :
    NextKeeps s (execStorageConnect h ctrl family svcid queues depth addr subnqn rsv namespaces s) := by
  refine message_ctrs _ _ _ _ fun u => ?_
  dsimp only
  repeat' split
  all_goals simp

@[simp] theorem regKeys_ctrs (s : State) (sg : List (Nat × Nat × Nat)) : (regKeys s sg).1.sec.counters = s.sec.counters := by rfl

@[simp] theorem storageIo_ctrs (i : Instr) (code : Nat) (read : Bool) (h : MsgHdr) (ctrl nsid slba nlb va : Nat) (truss phase : Word)
    (rsv : Bool) (s : State) :
    NextKeeps s (storageIo i code read h ctrl nsid slba nlb va truss phase rsv s) := by
  refine message_ctrs _ _ _ _ fun u => ?_
  dsimp only
  repeat' split
  all_goals simp

@[simp] theorem execStorageRead_ctrs (h : MsgHdr) (ctrl nsid slba nlb va : Nat) (truss phase : Word) (rsv : Bool) (s : State) :
    NextKeeps s (execStorageRead h ctrl nsid slba nlb va truss phase rsv s) := by
  simp [execStorageRead]

@[simp] theorem execStorageWrite_ctrs (h : MsgHdr) (ctrl nsid slba nlb va : Nat) (truss phase : Word) (rsv : Bool) (s : State) :
    NextKeeps s (execStorageWrite h ctrl nsid slba nlb va truss phase rsv s) := by
  simp [execStorageWrite]

@[simp] theorem poisonDest_ctrs (s : State) (k : Nat) (r : StorReq) : (poisonDest s k r).sec.counters = s.sec.counters := by
  fun_cases poisonDest <;> simp

@[simp] theorem storArrive_ctrs (s : State) (k : Nat) (r : StorReq) : (storArrive s k r).sec.counters = s.sec.counters := by
  simp [storArrive]

@[simp] theorem execStorageDone_ctrs (ctx seq nvmeStatus blocks : Nat) (s : State) :
    NextKeeps s (execStorageDone ctx seq nvmeStatus blocks s) := by
  unfold execStorageDone
  dsimp only
  repeat' split
  all_goals simp

/-! ### Job restart -/

@[simp] theorem haltCtx_ctrs (s : State) (k : Nat) : (haltCtx s k).sec.counters = s.sec.counters := by simp [haltCtx]

@[simp] theorem beginHalt_ctrs (s : State) (k epoch origin cause : Nat) (sender : Option Nat) :
    (beginHalt s k epoch origin cause sender).sec.counters = s.sec.counters := by
  simp [beginHalt]

@[simp] theorem execJobHalt_ctrs (ctx : Nat) (s : State) : NextKeeps s (execJobHalt ctx s) := by
  fun_cases execJobHalt <;> simp

@[simp] theorem execJobHaltReceive_ctrs (job epoch origin cause sender : Nat) (s : State) :
    NextKeeps s (execJobHaltReceive job epoch origin cause sender s) := by
  fun_cases execJobHaltReceive <;> simp

@[simp] theorem execHaltComplete_ctrs (ctx : Nat) (s : State) : NextKeeps s (execHaltComplete ctx s) := by
  fun_cases execHaltComplete <;> simp

@[simp] theorem execHaltAckReceive_ctrs (job sender committed : Nat) (ready : Option Nat) (absent : List Nat) (s : State) :
    NextKeeps s (execHaltAckReceive job sender committed ready absent s) := by
  fun_cases execHaltAckReceive <;> simp

@[simp] theorem execHaltAckTimeout_ctrs (ctx child : Nat) (s : State) : NextKeeps s (execHaltAckTimeout ctx child s) := by
  fun_cases execHaltAckTimeout <;> simp

@[simp] theorem execGatherTimeout_ctrs (ctx : Nat) (s : State) : NextKeeps s (execGatherTimeout ctx s) := by
  fun_cases execGatherTimeout <;> simp

@[simp] theorem copyToSlot_ctrs (s : State) (k slot : Nat) : (copyToSlot s k slot).sec.counters = s.sec.counters := by simp [copyToSlot]

@[simp] theorem copyFromSlot_ctrs (s : State) (k slot : Nat) : (copyFromSlot s k slot).sec.counters = s.sec.counters := by
  simp [copyFromSlot]

@[simp] theorem execRestore_ctrs (job target : Nat) (s : State) : NextKeeps s (execRestore job target s) := by
  fun_cases execRestore <;> simp

theorem restoreData_ctrs {s : State} {k : Nat} {u : State} (ht : restoreData s k = some u) : u.sec.counters = s.sec.counters := by
  unfold restoreData at ht
  dsimp only at ht
  split at ht
  · split at ht
    · cases ht; exact copyFromSlot_ctrs ..
    · cases ht
  · cases ht

@[simp] theorem resumeHere_ctrs (s : State) (k : Nat) : (resumeHere s k).sec.counters = s.sec.counters := by simp [resumeHere]

@[simp] theorem tryDone_ctrs (s : State) (k : Nat) : (tryDone s k).sec.counters = s.sec.counters := by
  fun_cases tryDone <;> simp

@[simp] theorem execRestoreCopyDone_ctrs (ctx : Nat) (s : State) : NextKeeps s (execRestoreCopyDone ctx s) := by
  unfold execRestoreCopyDone
  split
  · exact nextKeeps_next.2 rfl
  · split
    · simp
    · next e => exact nextKeeps_next.2 ((tryDone_ctrs ..).trans ((setCtx_ctrs ..).trans (restoreData_ctrs e)))

@[simp] theorem execRestoreDone_ctrs (job sender : Nat) (s : State) : NextKeeps s (execRestoreDone job sender s) := by
  fun_cases execRestoreDone <;> simp

@[simp] theorem execResume_ctrs (job : Nat) (s : State) : NextKeeps s (execResume job s) := by
  fun_cases execResume <;> simp

@[simp] theorem execReplaceWaitExpiry_ctrs (ctx : Nat) (s : State) : NextKeeps s (execReplaceWaitExpiry ctx s) := by
  fun_cases execReplaceWaitExpiry <;> simp

theorem reserveSlotPage_ctrs {part i : Nat} {e d : State × List Nat} (ht : reserveSlotPage part e i = some d) :
    d.1.sec.counters = e.1.sec.counters := by
  unfold reserveSlotPage at ht
  dsimp only at ht
  split at ht
  · cases ht
  · cases ht; rfl

theorem reserveSlotPages_ctrs {part : Nat} {l : List Nat} {e d : State × List Nat}
    (h : l.foldlM (reserveSlotPage part) e = some d) : d.1.sec.counters = e.1.sec.counters :=
  foldlM_some (P := fun w : State × List Nat => w.1.sec.counters = e.1.sec.counters)
    (fun _ _ _ hw hc => (reserveSlotPage_ctrs hc).trans hw) _ rfl h

@[simp] theorem execCheckpointSet_ctrs (h : MsgHdr) (interval restartLimit replaceWait : Nat) (ranges : List (Nat × Nat)) (rsv : Bool)
    (s : State) :
    NextKeeps s (execCheckpointSet h interval restartLimit replaceWait ranges rsv s) := by
  refine message_ctrs _ _ _ _ fun u => (?_ : AnswerKeeps u _)
  refine answerKeeps_ite (answerKeeps_deny ..) (answerKeeps_ite (answerKeeps_deny ..) ?_)
  extract_lets n s1
  split
  · exact answerKeeps_deny ..
  · next e =>
    refine answerKeeps_done ?_
    rw [foldl_ctrs (fun s g => notePoison_ctrs s (64 * g)), setCtx_ctrs, reserveSlotPages_ctrs e]
    exact freePages_ctrs ..

@[simp] theorem commitEpoch_ctrs (s : State) (k e : Nat) : (commitEpoch s k e).sec.counters = s.sec.counters := by simp [commitEpoch]

@[simp] theorem checkReady_ctrs (s : State) (k : Nat) : (checkReady s k).sec.counters = s.sec.counters := by
  fun_cases checkReady <;> simp

@[simp] theorem startMirror_ctrs (s : State) (k : Nat) (t : Twin) (v : Snapshot) : (startMirror s k t v).sec.counters = s.sec.counters := by
  simp [startMirror]

@[simp] theorem nextMirror_ctrs (s : State) (k : Nat) : (nextMirror s k).sec.counters = s.sec.counters := by
  fun_cases nextMirror <;> simp

@[simp] theorem execSnapshotCopyDone_ctrs (ctx : Nat) (s : State) : NextKeeps s (execSnapshotCopyDone ctx s) := by
  unfold execSnapshotCopyDone
  dsimp only
  repeat' split
  all_goals simp

@[simp] theorem execCkptReady_ctrs (job sender epoch : Nat) (s : State) : NextKeeps s (execCkptReady job sender epoch s) := by
  fun_cases execCkptReady <;> simp

@[simp] theorem execCkptCommit_ctrs (job epoch : Nat) (s : State) : NextKeeps s (execCkptCommit job epoch s) := by
  fun_cases execCkptCommit <;> simp

@[simp] theorem execTwinSet_ctrs (h : MsgHdr) (node : Nat) (flags : BitVec 8) (lost : Nat) (rsv : Bool) (s : State) :
    NextKeeps s (execTwinSet h node flags lost rsv s) := by
  refine message_ctrs _ _ _ _ fun u => ?_
  dsimp only
  repeat' split
  all_goals simp

@[simp] theorem execTwinHeartbeatSend_ctrs (s : State) : NextKeeps s (execTwinHeartbeatSend s) := by
  fun_cases execTwinHeartbeatSend <;> simp

theorem reserveMirror_ctrs {s : State} {k : Nat} {t : Twin} {u} (ht : reserveMirror s k t = some u) :
    u.1.sec.counters = s.sec.counters := by
  unfold reserveMirror at ht
  split at ht
  · cases ht; rfl
  · obtain ⟨e, he, rfl⟩ := Option.map_eq_some_iff.1 ht
    exact foldlM_some (P := fun u : State × List Nat => u.1.sec.counters = s.sec.counters)
      (fun _ _ _ hu hc => (reserveSlotPage_ctrs hc).trans hu) _ rfl he

@[simp] theorem pairUp_ctrs (s : State) (k incarnation : Nat) (t : Twin) : (pairUp s k incarnation t).sec.counters = s.sec.counters := by
  unfold pairUp
  split
  · rfl
  · next e =>
    have h0 := reserveMirror_ctrs e
    dsimp only
    split <;> simpa using h0

@[simp] theorem pairing_ctrs (s : State) (k incarnation : Nat) (attested : Option Nat) (t : Twin) :
    (pairing s k incarnation attested t).sec.counters = s.sec.counters := by
  fun_cases pairing <;> simp

@[simp] theorem confirm_ctrs (s : State) (k : Nat) (b : BeatCtx) : (confirm s k b).sec.counters = s.sec.counters := by
  fun_cases confirm <;> simp

@[simp] theorem beatOf_ctrs (node incarnation : Nat) (attested : Option Nat) (beats : List BeatCtx) (s : State) (k : Nat) :
    (beatOf node incarnation attested beats s k).sec.counters = s.sec.counters := by
  fun_cases beatOf <;> simp

@[simp] theorem execTwinHeartbeatReceive_ctrs (node incarnation : Nat) (attested : Option Nat) (beats : List BeatCtx) (s : State) :
    NextKeeps s (execTwinHeartbeatReceive node incarnation attested beats s) := by
  fun_cases execTwinHeartbeatReceive <;> simp

@[simp] theorem execTwinLost_ctrs (ctx : Nat) (s : State) : NextKeeps s (execTwinLost ctx s) := by
  unfold execTwinLost
  dsimp only
  repeat' split
  all_goals simp

@[simp] theorem execMirrorWriteDone_ctrs (ctx epoch : Nat) (s : State) : NextKeeps s (execMirrorWriteDone ctx epoch s) := by
  unfold execMirrorWriteDone
  dsimp only
  repeat' split
  all_goals simp

/-! ### Live update -/

@[simp] theorem imageRejected_ctrs (s : State) (target check svn ctr : Nat) :
    (imageRejected s target check svn ctr).sec.counters = s.sec.counters := by rfl

@[simp] theorem fwState_ctrs (s : State) (target state version cause : Nat) :
    (fwState s target state version cause).sec.counters = s.sec.counters := by rfl

@[simp] theorem stageProgress_ctrs (s : State) (target old pos total : Nat) (first : Bool) :
    (stageProgress s target old pos total first).sec.counters = s.sec.counters := by
  simp [stageProgress]

@[simp] theorem verifyStaged_ctrs (s : State) (t : Nat) : (verifyStaged s t).1.sec.counters = s.sec.counters := by
  fun_cases verifyStaged <;> rfl

@[simp] theorem execFwStage_ctrs (h : MsgHdr) (target : Nat) (flags : BitVec 8) (offset total : Nat) (data : List Byte)
    (ref : Option (Nat × Nat)) (rsv : Bool) (s : State) :
    NextKeeps s (execFwStage h target flags offset total data ref rsv s) := by
  refine message_ctrs _ _ _ _ fun u => ?_
  dsimp only
  repeat' split
  all_goals simp

@[simp] theorem runImage_ctrs (s : State) (t : Nat) (v : Image) : (runImage s t v).sec.counters = s.sec.counters := by rfl
@[simp] theorem rebootFrom_ctrs (s : State) (t : Nat) : (rebootFrom s t).sec.counters = s.sec.counters := by rfl

@[simp] theorem execFwActivate_ctrs (h : MsgHdr) (target windowS commitS : Nat) (rsv : Bool) (s : State) :
    NextKeeps s (execFwActivate h target windowS commitS rsv s) := by
  refine message_ctrs _ _ _ _ fun u => ?_
  dsimp only
  repeat' split
  all_goals simp

@[simp] theorem rollBack_ctrs (s : State) (t cause : Nat) : (rollBack s t cause).sec.counters = s.sec.counters := by rfl

@[simp] theorem execFwActivationBegin_ctrs (target : Nat) (importOk : Bool) (s : State) :
    NextKeeps s (execFwActivationBegin target importOk s) := by
  unfold execFwActivationBegin
  dsimp only
  repeat' split
  all_goals simp

@[simp] theorem execFwActivateWindowExpiry_ctrs (target : Nat) (s : State) : NextKeeps s (execFwActivateWindowExpiry target s) := by
  unfold execFwActivateWindowExpiry
  dsimp only
  repeat' split
  all_goals simp

@[simp] theorem wroteArea_ctrs (s : State) (a : Nat) : (wroteArea s a).sec.counters = s.sec.counters := by rfl

@[simp] theorem execFwRollback_ctrs (h : MsgHdr) (target : Nat) (rsv : Bool) (s : State) : NextKeeps s (execFwRollback h target rsv s) := by
  refine message_ctrs _ _ _ _ fun u => ?_
  repeat' split
  all_goals simp

@[simp] theorem execFwCommitTimeout_ctrs (target : Nat) (s : State) : NextKeeps s (execFwCommitTimeout target s) := by
  fun_cases execFwCommitTimeout <;> simp

@[simp] theorem flashRefused_ctrs (s : State) (area cause : Nat) : (flashRefused s area cause).sec.counters = s.sec.counters := by rfl

@[simp] theorem execDebugUnlockToken_ctrs (m : Manifest) (s : State) : NextKeeps s (execDebugUnlockToken m s) := by
  fun_cases execDebugUnlockToken <;> simp

/-! ### Boot and recovery -/

@[simp] theorem resetEngines_ctrs (s : State) : (resetEngines s).sec.counters = s.sec.counters := by rfl

@[simp] theorem startRecovery_ctrs (s : State) (cause : Nat) : (startRecovery s cause).sec.counters = s.sec.counters := by
  simp [startRecovery]

@[simp] theorem execDeviceRecovery_ctrs (cause : Nat) (s : State) : NextKeeps s (execDeviceRecovery cause s) := by
  fun_cases execDeviceRecovery <;> simp

@[simp] theorem execDeviceRecoveryComplete_ctrs (imported : Bool) (s : State) : NextKeeps s (execDeviceRecoveryComplete imported s) := by
  unfold execDeviceRecoveryComplete
  dsimp only
  repeat' split
  all_goals simp

@[simp] theorem perstReset_ctrs (s : State) : (perstReset s).sec.counters = s.sec.counters := by rfl

@[simp] theorem execPerstNAssert_ctrs (s : State) : NextKeeps s (execPerstNAssert s) := by
  unfold execPerstNAssert
  dsimp only
  repeat' split
  all_goals simp

@[simp] theorem execPerstNRelease_ctrs (bootMode : BitVec 2) (clkMode : Bool) (s : State) :
    NextKeeps s (execPerstNRelease bootMode clkMode s) := by
  fun_cases execPerstNRelease <;> simp

@[simp] theorem execPowerUp_ctrs (s : State) : NextKeeps s (execPowerUp s) := by simp [execPowerUp]

@[simp] theorem execRailUndervoltage_ctrs (r : Nat) (s : State) : NextKeeps s (execRailUndervoltage r s) := by
  unfold execRailUndervoltage
  dsimp only
  repeat' split
  all_goals simp

@[simp] theorem execRailInRange_ctrs (r : Nat) (s : State) : NextKeeps s (execRailInRange r s) := by
  fun_cases execRailInRange <;> simp

@[simp] theorem execRef25Loss_ctrs (s : State) : NextKeeps s (execRef25Loss s) := by
  unfold execRef25Loss
  dsimp only
  repeat' split
  all_goals simp

@[simp] theorem execRef25Return_ctrs (s : State) : NextKeeps s (execRef25Return s) := by simp [execRef25Return]
@[simp] theorem bootStop_ctrs (s : State) (err : Nat) : (bootStop s err).sec.counters = s.sec.counters := by rfl

@[simp] theorem bootTarget_ctrs (f : BootFinding) (s : State) (t : Nat) : (bootTarget f s t).sec.counters = s.sec.counters := by
  fun_cases bootTarget <;> rfl

@[simp] theorem bootRom_ctrs (f : BootFinding) (s : State) : (bootRom f s).sec.counters = s.sec.counters := by
  unfold bootRom
  split <;> simp

@[simp] theorem logTrip_ctrs (s : State) : (logTrip s).sec.counters = s.sec.counters := by
  fun_cases logTrip <;> rfl

@[simp] theorem trainJoin_ctrs (lanes : List (Nat × Nat × Nat × Bool)) (s : State) (j : Nat) :
    (trainJoin lanes s j).sec.counters = s.sec.counters := by
  refine (foldl_ctrs (fun s l => ?_) _ _).trans rfl
  split
  · exact switchLane_ctrs ..
  · rfl

@[simp] theorem bootChain_ctrs (f : BootFinding) (s : State) : (bootChain f s).sec.counters = s.sec.counters := by simp [bootChain]

@[simp] theorem bootBay_ctrs (bad : List Nat) (s : State) (b : Nat) : (bootBay bad s b).sec.counters = s.sec.counters := by
  fun_cases bootBay <;> rfl

@[simp] theorem bootClocks_ctrs (f : BootFinding) (s : State) : (bootClocks f s).sec.counters = s.sec.counters := by simp [bootClocks]
@[simp] theorem remakeSram_ctrs (s : State) : (remakeSram s).sec.counters = s.sec.counters := by rfl
@[simp] theorem selfTest_ctrs (f : BootFinding) (s : State) : (selfTest f s).sec.counters = s.sec.counters := by simp [selfTest]
@[simp] theorem nextStage_ctrs (s : State) (stage : Nat) : (nextStage s stage).sec.counters = s.sec.counters := by simp [nextStage]

@[simp] theorem execLockstepMismatch_ctrs (pair : Nat) (s : State) : NextKeeps s (execLockstepMismatch pair s) := by
  unfold execLockstepMismatch
  dsimp only
  repeat' split
  all_goals simp

@[simp] theorem execPairRestartComplete_ctrs (pair : Nat) (s : State) : NextKeeps s (execPairRestartComplete pair s) := by
  fun_cases execPairRestartComplete <;> simp

@[simp] theorem setI3c_ctrs (s : State) (a : Option Nat) : (setI3c s a).sec.counters = s.sec.counters := by
  fun_cases setI3c <;> rfl

@[simp] theorem execEntdaa_ctrs (addr : Nat) (s : State) : NextKeeps s (execEntdaa addr s) := by
  fun_cases execEntdaa <;> simp

@[simp] theorem execSetdasa_ctrs (s : State) : NextKeeps s (execSetdasa s) := by simp [execSetdasa]
@[simp] theorem execRstdaa_ctrs (s : State) : NextKeeps s (execRstdaa s) := by simp [execRstdaa]
@[simp] theorem execPcieLinkDown_ctrs (s : State) : NextKeeps s (execPcieLinkDown s) := by simp [execPcieLinkDown]
@[simp] theorem execPcieLinkUp_ctrs (s : State) : NextKeeps s (execPcieLinkUp s) := by simp [execPcieLinkUp]

@[simp] theorem execManagerSessionTimeout_ctrs (k : Nat) (s : State) : NextKeeps s (execManagerSessionTimeout k s) := by
  fun_cases execManagerSessionTimeout <;> simp

/-! ### Compute instructions -/

@[simp] theorem execMma_ctrs (c : Nat) (g : Stage) (s : State) : NextKeeps s (execMma c g s) := by
  fun_cases execMma <;> simp

@[simp] theorem execMmaLd_ctrs (c : Nat) (g : Stage) (s : State) : NextKeeps s (execMmaLd c g s) := by
  fun_cases execMmaLd <;> simp

@[simp] theorem execMda_ctrs (c : Nat) (g : Stage) (s : State) : NextKeeps s (execMda c g s) := by
  fun_cases execMda <;> simp

@[simp] theorem execMvm_ctrs (c : Nat) (g : Stage) (s : State) : NextKeeps s (execMvm c g s) := by
  fun_cases execMvm <;> simp

@[simp] theorem execVop_ctrs (c : Nat) (g : Stage) (s : State) : NextKeeps s (execVop c g s) := by
  fun_cases execVop <;> simp

@[simp] theorem execTopk_ctrs (c : Nat) (g : Stage) (s : State) : NextKeeps s (execTopk c g s) := by
  fun_cases execTopk <;> simp

@[simp] theorem execNorm_ctrs (c : Nat) (g : Stage) (s : State) : NextKeeps s (execNorm c g s) := by
  fun_cases execNorm <;> simp

@[simp] theorem execSoftmax_ctrs (c : Nat) (g : Stage) (s : State) : NextKeeps s (execSoftmax c g s) := by
  fun_cases execSoftmax <;> simp

@[simp] theorem execCvt_ctrs (c : Nat) (g : Stage) (s : State) : NextKeeps s (execCvt c g s) := by
  fun_cases execCvt <;> simp

@[simp] theorem execStat_ctrs (c : Nat) (g : Stage) (s : State) : NextKeeps s (execStat c g s) := by
  fun_cases execStat <;> simp

@[simp] theorem execUpd_ctrs (c : Nat) (g : Stage) (s : State) : NextKeeps s (execUpd c g s) := by
  fun_cases execUpd <;> simp

/-! ### Control instructions -/

@[simp] theorem execNop_ctrs (c : Nat) (w : CWord) (s : State) : NextKeeps s (execNop c w s) := by simp [execNop]
@[simp] theorem execAlu_ctrs (c : Nat) (w : CWord) (s : State) : NextKeeps s (execAlu c w s) := by simp [execAlu]
@[simp] theorem execAlui_ctrs (c : Nat) (w : CWord) (s : State) : NextKeeps s (execAlui c w s) := by simp [execAlui]
@[simp] theorem execMovhi_ctrs (c : Nat) (w : CWord) (s : State) : NextKeeps s (execMovhi c w s) := by simp [execMovhi]
@[simp] theorem execCmp_ctrs (c : Nat) (w : CWord) (s : State) : NextKeeps s (execCmp c w s) := by simp [execCmp]
@[simp] theorem execCmpi_ctrs (c : Nat) (w : CWord) (s : State) : NextKeeps s (execCmpi c w s) := by simp [execCmpi]
@[simp] theorem execPred_ctrs (c : Nat) (w : CWord) (s : State) : NextKeeps s (execPred c w s) := by simp [execPred]
@[simp] theorem execBr_ctrs (c : Nat) (w : CWord) (s : State) : NextKeeps s (execBr c w s) := issueC_ctrs _ _ _ fun _ _ => yields_ok.2 rfl
@[simp] theorem execJal_ctrs (c : Nat) (w : CWord) (s : State) : NextKeeps s (execJal c w s) := issueC_ctrs _ _ _ fun _ _ => yields_ok.2 rfl

@[simp] theorem execJr_ctrs (c : Nat) (w : CWord) (s : State) : NextKeeps s (execJr c w s) :=
  issueC_ctrs _ _ _ fun _ _ => yields_ite (yields_ok.2 rfl) (yields_error.2 trivial)

@[simp] theorem execLd_ctrs (c : Nat) (w : CWord) (s : State) : NextKeeps s (execLd c w s) :=
  issueC_ctrs _ _ _ fun _ _ => yields_then fun _ => yields_then fun _ => yields_ok.2 (by simp)

@[simp] theorem execSt_ctrs (c : Nat) (w : CWord) (s : State) : NextKeeps s (execSt c w s) :=
  issueC_ctrs _ _ _ fun _ _ => yields_then fun _ => yields_bind (writeVa_ctrs _ _ _ _ _ _) fun _ ht => yields_ok.2 (by simp [ht])

@[simp] theorem execSysrd_ctrs (c : Nat) (w : CWord) (s : State) : NextKeeps s (execSysrd c w s) := by simp [execSysrd]

@[simp] theorem execWtok_ctrs (c : Nat) (w : CWord) (s : State) : NextKeeps s (execWtok c w s) :=
  issueC_ctrs _ _ _ fun _ _ => yields_ite (yields_error.2 trivial) (yields_ite (yields_ok.2 (by simp)) (yields_ok.2 rfl))

@[simp] theorem execIllegalOpcode_ctrs (c : Nat) (opc : BitVec 8) (s : State) : NextKeeps s (execIllegalOpcode c opc s) := by
  fun_cases execIllegalOpcode <;> simp

@[simp] theorem execPrivilegedInstruction_ctrs (c : Nat) (opc : BitVec 8) (s : State) :
    NextKeeps s (execPrivilegedInstruction c opc s) := by
  fun_cases execPrivilegedInstruction <;> simp

@[simp] theorem markRecord_ctrs (s : State) (k n ev id depth : Nat) (applied : Bool) :
    (markRecord s k n ev id depth applied).sec.counters = s.sec.counters := by
  fun_cases markRecord <;> rfl

@[simp] theorem execMarkPush_ctrs (c : Nat) (w : CWord) (s : State) : NextKeeps s (execMarkPush c w s) :=
  issueC_ctrs _ _ _ fun _ _ => yields_ok.2 (by simp)

@[simp] theorem execMarkPop_ctrs (c : Nat) (w : CWord) (s : State) : NextKeeps s (execMarkPop c w s) :=
  issueC_ctrs _ _ _ fun _ _ => yields_ok.2 (by simp)

@[simp] theorem execOphint_ctrs (c : Nat) (w : CWord) (s : State) : NextKeeps s (execOphint c w s) :=
  level3_ctrs _ _ (issueCore_ctrs _ _ _ _ _)

/-! ### Records -/

@[simp] theorem outboxFullEvent_ctrs (s : State) : (outboxFullEvent s).sec.counters = s.sec.counters := by
  fun_cases outboxFullEvent <;> rfl

@[simp] theorem ringWrite_ctrs (s : State) (r : Rec) (rest : List Rec) : (ringWrite s r rest).sec.counters = s.sec.counters := by rfl

@[simp] theorem execOutboxRecordWrite_ctrs (s : State) : NextKeeps s (execOutboxRecordWrite s) := by
  fun_cases execOutboxRecordWrite <;> simp

@[simp] theorem execOutboxSignalTimer_ctrs (s : State) : NextKeeps s (execOutboxSignalTimer s) := by
  fun_cases execOutboxSignalTimer <;> simp

@[simp] theorem execCons_ctrs (value : Word32) (s : State) : NextKeeps s (execCons value s) := by
  fun_cases execCons <;> simp

@[simp] theorem execTraceRecordWrite_ctrs (source : Nat) (s : State) : NextKeeps s (execTraceRecordWrite source s) := by
  fun_cases execTraceRecordWrite <;> simp

/-! ### Preemption and debug -/

@[simp] theorem execSchedSliceExpiry_ctrs (part : Nat) (s : State) : NextKeeps s (execSchedSliceExpiry part s) := by
  fun_cases execSchedSliceExpiry <;> simp

@[simp] theorem execPreemptDrainTimeout_ctrs (part : Nat) (s : State) : NextKeeps s (execPreemptDrainTimeout part s) := by
  fun_cases execPreemptDrainTimeout <;> simp

@[simp] theorem execPreemptionComplete_ctrs (part : Nat) (s : State) : NextKeeps s (execPreemptionComplete part s) := by
  unfold execPreemptionComplete
  dsimp only
  repeat' split
  all_goals simp

@[simp] theorem execBpSet_ctrs (h : MsgHdr) (lcore slot enable lenLog2 access addr : Nat) (rsv : Bool) (s : State) :
    NextKeeps s (execBpSet h lcore slot enable lenLog2 access addr rsv s) := by
  refine message_ctrs _ _ _ _ fun u => ?_
  repeat' split
  all_goals simp

@[simp] theorem execDebugHalt_ctrs (h : MsgHdr) (s : State) : NextKeeps s (execDebugHalt h s) := by
  refine message_ctrs _ _ _ _ fun u => ?_
  repeat' split
  all_goals simp

@[simp] theorem execDebugHaltComplete_ctrs (ctx : Nat) (s : State) : NextKeeps s (execDebugHaltComplete ctx s) := by
  unfold execDebugHaltComplete
  dsimp only
  repeat' split
  all_goals simp

@[simp] theorem unhalt_ctrs (s : State) (k : Nat) : (unhalt s k).sec.counters = s.sec.counters := by simp [unhalt]

@[simp] theorem execDebugResume_ctrs (h : MsgHdr) (s : State) : NextKeeps s (execDebugResume h s) := by
  refine message_ctrs _ _ _ _ fun u => ?_
  repeat' split
  all_goals simp

@[simp] theorem execDebugStep_ctrs (h : MsgHdr) (lcore : Nat) (rsv : Bool) (s : State) : NextKeeps s (execDebugStep h lcore rsv s) := by
  refine message_ctrs _ _ _ _ fun u => ?_
  dsimp only
  repeat' split
  all_goals simp

@[simp] theorem execRegWrite_ctrs (h : MsgHdr) (lcore reg : Nat) (value : Word) (rsv : Bool) (s : State) :
    NextKeeps s (execRegWrite h lcore reg value rsv s) := by
  refine message_ctrs _ _ _ _ fun u => ?_
  repeat' split
  all_goals simp

@[simp] theorem execStateRead_ctrs (h : MsgHdr) (lcore : Nat) (parts : BitVec 8) (hostAddr : Nat) (rsv : Bool) (s : State) :
    NextKeeps s (execStateRead h lcore parts hostAddr rsv s) := by
  refine message_ctrs _ _ _ _ fun _ => ?_
  dsimp only
  split
  · simp
  · split
    · simp
    · split <;> simp

/-! ### Counters, trace and histograms -/

@[simp] theorem execCounterRead_ctrs (h : MsgHdr) (hostAddr : Nat) (entries : List CounterAddr) (rsv : Bool) (s : State) :
    NextKeeps s (execCounterRead h hostAddr entries rsv s) := by
  refine message_ctrs _ _ _ _ fun u => ?_
  repeat' split
  all_goals simp

theorem tracePages_ctrs {s : State} {n : Nat} {u : State} (ht : tracePages s n = some u) : u.sec.counters = s.sec.counters := by
  unfold tracePages at ht
  refine foldlM_some (P := fun u : State => u.sec.counters = s.sec.counters) (fun a b c ha hc => ?_) _ rfl ht
  split at hc <;> cases hc
  exact ha

@[simp] theorem execTraceSet_ctrs (h : MsgHdr) (sizeMib mode : Nat) (categories : BitVec 8) (mask : Word) (rsv : Bool) (s : State) :
    NextKeeps s (execTraceSet h sizeMib mode categories mask rsv s) := by
  refine message_ctrs _ _ _ _ fun u => ?_
  dsimp only
  split
  · rfl
  · split
    · rfl
    · next e => exact (tracePages_ctrs e).trans (freePages_ctrs ..)

@[simp] theorem execTraceStatus_ctrs (h : MsgHdr) (s : State) : NextKeeps s (execTraceStatus h s) := message_ctrs _ _ _ _ fun _ => by simp

@[simp] theorem execTraceRead_ctrs (h : MsgHdr) (first count hostAddr : Nat) (rsv : Bool) (s : State) :
    NextKeeps s (execTraceRead h first count hostAddr rsv s) := by
  refine message_ctrs _ _ _ _ fun u => ?_
  repeat' split
  all_goals simp

@[simp] theorem execHistSet_ctrs (h : MsgHdr) (unit source base filter : Nat) (rsv : Bool) (s : State) :
    NextKeeps s (execHistSet h unit source base filter rsv s) := by
  refine message_ctrs _ _ _ _ fun u => ?_
  repeat' split
  all_goals simp

@[simp] theorem execHistSample_ctrs (unit : Nat) (v : Int) (s : State) : NextKeeps s (execHistSample unit v s) := by
  fun_cases execHistSample <;> simp

@[simp] theorem execHistRead_ctrs (h : MsgHdr) (unit clear hostAddr : Nat) (rsv : Bool) (s : State) :
    NextKeeps s (execHistRead h unit clear hostAddr rsv s) := by
  refine message_ctrs _ _ _ _ fun u => ?_
  repeat' split
  all_goals simp

/-! ### The sideband -/

@[simp] theorem pldm_ctrs (s : State) (cmd code : Nat) (fields : List Nat) : NextKeeps s (pldm s cmd code fields) := by
  fun_cases pldm <;> simp

@[simp] theorem execGetTid_ctrs (s : State) : NextKeeps s (execGetTid s) := by simp [execGetTid]

@[simp] theorem execGetPldmVersion_ctrs (type : Nat) (s : State) : NextKeeps s (execGetPldmVersion type s) := by
  fun_cases execGetPldmVersion <;> simp

@[simp] theorem execGetPldmTypes_ctrs (s : State) : NextKeeps s (execGetPldmTypes s) := by simp [execGetPldmTypes]

@[simp] theorem execGetPldmCommands_ctrs (type : Nat) (s : State) : NextKeeps s (execGetPldmCommands type s) := by
  fun_cases execGetPldmCommands <;> simp

@[simp] theorem execGetPdrRepositoryInfo_ctrs (s : State) : NextKeeps s (execGetPdrRepositoryInfo s) := by simp [execGetPdrRepositoryInfo]

@[simp] theorem execGetPdr_ctrs (record : Nat) (s : State) : NextKeeps s (execGetPdr record s) := by
  fun_cases execGetPdr <;> simp

@[simp] theorem execGetSensorReading_ctrs (id : Nat) (s : State) : NextKeeps s (execGetSensorReading id s) := by
  fun_cases execGetSensorReading <;> simp

@[simp] theorem execGetStateSensorReadings_ctrs (id : Nat) (s : State) : NextKeeps s (execGetStateSensorReadings id s) := by
  fun_cases execGetStateSensorReadings <;> simp

@[simp] theorem execSetNumericEffecterValue_ctrs (id value : Nat) (s : State) : NextKeeps s (execSetNumericEffecterValue id value s) := by
  unfold execSetNumericEffecterValue
  exact nextKeeps_ite (pldm_ctrs _ _ _ _) (nextKeeps_ite (pldm_ctrs _ _ _ _)
    (nextKeeps_ite ((pldm_ctrs _ _ _ _).trans (setLimit_ctrs ..)) (nextKeeps_next.2 rfl)))

@[simp] theorem execGetNumericEffecterValue_ctrs (id : Nat) (s : State) : NextKeeps s (execGetNumericEffecterValue id s) := by
  fun_cases execGetNumericEffecterValue <;> simp

/-! ### The responder -/

@[simp] theorem spdmSend_ctrs (s : State) (v : SpdmVia) (code : Nat) (pay : List Byte) :
    (spdmSend s v code pay).sec.counters = s.sec.counters := by rfl

@[simp] theorem spdmError_ctrs (s : State) (v : SpdmVia) (e : Nat) : (spdmError s v e).sec.counters = s.sec.counters := by rfl
@[simp] theorem setPhase_ctrs (s : State) (v : SpdmVia) (p : Nat) : (setPhase s v p).sec.counters = s.sec.counters := by rfl

theorem request_ctrs {s body : State} (v : SpdmVia) (phase : Nat) (hb : body.sec.counters = s.sec.counters) :
    NextKeeps s (request s v phase body) := by
  fun_cases request <;> simp [hb]

@[simp] theorem execGetVersion_ctrs (v : SpdmVia) (s : State) : NextKeeps s (execGetVersion v s) := request_ctrs _ _ (by simp)
@[simp] theorem execGetCapabilities_ctrs (v : SpdmVia) (s : State) : NextKeeps s (execGetCapabilities v s) := request_ctrs _ _ (by simp)

@[simp] theorem execNegotiateAlgorithms_ctrs (v : SpdmVia) (agreed : Bool) (s : State) :
    NextKeeps s (execNegotiateAlgorithms v agreed s) := request_ctrs _ _ (by simp)

@[simp] theorem execGetDigests_ctrs (v : SpdmVia) (s : State) : NextKeeps s (execGetDigests v s) := request_ctrs _ _ (by simp)

@[simp] theorem execGetCertificate_ctrs (v : SpdmVia) (slot offset length : Nat) (s : State) :
    NextKeeps s (execGetCertificate v slot offset length s) := request_ctrs _ _ (by simp)

@[simp] theorem execGetMeasurements_ctrs (v : SpdmVia) (index : Nat) (signed : Bool) (nonce : List Byte) (s : State) :
    NextKeeps s (execGetMeasurements v index signed nonce s) := request_ctrs _ _ (by repeat' split <;> simp)

@[simp] theorem execChallenge_ctrs (v : SpdmVia) (slot : Nat) (nonce : List Byte) (s : State) :
    NextKeeps s (execChallenge v slot nonce s) := request_ctrs _ _ (by simp)

@[simp] theorem execKeyExchange_ctrs (v : SpdmVia) (exchange : List Byte) (s : State) : NextKeeps s (execKeyExchange v exchange s) :=
  request_ctrs _ _ (by simp)

@[simp] theorem attest_ctrs (s : State) (v : SpdmVia) : (attest s v).sec.counters = s.sec.counters := by
  fun_cases attest <;> rfl

@[simp] theorem execFinish_ctrs (v : SpdmVia) (verified : Bool) (s : State) : NextKeeps s (execFinish v verified s) :=
  request_ctrs _ _ (by simp)

@[simp] theorem execHeartbeat_ctrs (v : SpdmVia) (s : State) : NextKeeps s (execHeartbeat v s) := request_ctrs _ _ (by simp)

@[simp] theorem execEndSession_ctrs (v : SpdmVia) (s : State) : NextKeeps s (execEndSession v s) :=
  request_ctrs _ _ (by repeat' split <;> simp)

@[simp] theorem execUnsupportedRequest_ctrs (v : SpdmVia) (code : Nat) (s : State) : NextKeeps s (execUnsupportedRequest v code s) := by
  fun_cases execUnsupportedRequest <;> simp

/-! ### The host's registers -/

@[simp] theorem readProgPos_ctrs (s : State) : (readProgPos s).sec.counters = s.sec.counters := by rfl
@[simp] theorem readLastSeq_ctrs (s : State) : (readLastSeq s).sec.counters = s.sec.counters := by rfl

@[simp] theorem execLastSeq_ctrs (s : State) : NextKeeps s (execLastSeq s) := by
  fun_cases execLastSeq <;> simp

@[simp] theorem execDevProgPosLo_ctrs (s : State) : NextKeeps s (execDevProgPosLo s) := by
  fun_cases execDevProgPosLo <;> simp

@[simp] theorem readReg_ctrs (s : State) (off : Nat) : (readReg s off).sec.counters = s.sec.counters := by
  fun_cases readReg <;> rfl

@[simp] theorem execLowWordRead_ctrs (off : Nat) (s : State) : NextKeeps s (execLowWordRead off s) := by
  fun_cases execLowWordRead <;> simp

@[simp] theorem execErrSummaryClear_ctrs (value : Word32) (s : State) : NextKeeps s (execErrSummaryClear value s) := by
  fun_cases execErrSummaryClear <;> simp

@[simp] theorem execSnap_ctrs (value : Word32) (s : State) : NextKeeps s (execSnap value s) := by
  fun_cases execSnap <;> simp

@[simp] theorem execMask_ctrs (vec : Nat) (value : Word32) (s : State) : NextKeeps s (execMask vec value s) := by
  fun_cases execMask <;> simp

@[simp] theorem execBaseLo_ctrs (win : Nat) (value : Word32) (s : State) : NextKeeps s (execBaseLo win value s) := by
  fun_cases execBaseLo <;> simp

@[simp] theorem block_ctrs (s : State) (w : Nat) : (block s w).sec.counters = s.sec.counters := by rfl
@[simp] theorem givesBytes_ctrs (s : State) (bs : List Byte) (poison : Bool) : (givesBytes s bs poison).sec.counters = s.sec.counters := by rfl
@[simp] theorem allOnes_ctrs (s : State) (len : Nat) : (allOnes s len).sec.counters = s.sec.counters := by rfl

@[simp] theorem readWindow_ctrs (s : State) (a len : Nat) (unc : Bool) : (readWindow s a len unc).sec.counters = s.sec.counters := by
  simp [readWindow]

@[simp] theorem execBar2Read_ctrs (off len : Nat) (uncorrectable : Bool) (s : State) :
    NextKeeps s (execBar2Read off len uncorrectable s) := by
  fun_cases execBar2Read <;> simp

@[simp] theorem execBar2Write_ctrs (off : Nat) (data : List Byte) (s : State) : NextKeeps s (execBar2Write off data s) := by
  fun_cases execBar2Write <;> simp

@[simp] theorem execSubmit_ctrs (m : Nat) (value : Word32) (s : State) : NextKeeps s (execSubmit m value s) := by
  fun_cases execSubmit <;> simp

@[simp] theorem writeWindow_ctrs (s : State) (w i : Nat) (v : Nat) : (writeWindow s w i v).sec.counters = s.sec.counters := by
  fun_cases writeWindow <;> rfl

@[simp] theorem writeMsix_ctrs (s : State) (vec i : Nat) (v : Nat) : (writeMsix s vec i v).sec.counters = s.sec.counters := by
  fun_cases writeMsix <;> rfl

@[simp] theorem writeBox_ctrs (s : State) (m i : Nat) (v : Word32) : (writeBox s m i v).sec.counters = s.sec.counters := by
  fun_cases writeBox <;> rfl

@[simp] theorem execRegisterWrite_ctrs (off : Nat) (value : Word32) (s : State) : NextKeeps s (execRegisterWrite off value s) := by
  fun_cases execRegisterWrite <;> simp

/-! ### END, spans and STEP -/

@[simp] theorem pauseCtx_ctrs (s : State) (k : Nat) : (pauseCtx s k).sec.counters = s.sec.counters := by simp [pauseCtx]
@[simp] theorem pauseHere_ctrs (s : State) (k n : Nat) : (pauseHere s k n).sec.counters = s.sec.counters := by simp [pauseHere]
@[simp] theorem finishLaunch_ctrs (s : State) (k : Nat) : (finishLaunch s k).sec.counters = s.sec.counters := by simp [finishLaunch]

@[simp] theorem execEndProgram_ctrs (c : Nat) (w : CWord) (s : State) : NextKeeps s (execEndProgram c w s) := by
  refine issueC_ctrs _ _ _ fun k x => ?_
  repeat' refine yields_ite ?_ ?_
  all_goals simp

@[simp] theorem execSpanBegin_ctrs (c : Nat) (w : CWord) (s : State) : NextKeeps s (execSpanBegin c w s) :=
  level3_ctrs _ _ (issueC_ctrs _ _ _ fun _ _ => yields_ite (yields_error.2 trivial) (yields_ite (yields_ok.2 (by simp))
    (yields_then fun _ => yields_bind (writeVas_ctrs _ _ _ _) fun _ ht => yields_ok.2 ht)))

theorem rewind_ctrs (s : State) (k n : Nat) (x : Core) : Yields (rewind s k n x) (fun t => t.sec.counters = s.sec.counters) :=
  yields_then fun _ => yields_then fun _ => yields_bind (writeVas_ctrs _ _ _ _) fun _ ht => yields_ok.2 ht

@[simp] theorem spanReplay_ctrs (s : State) (k n : Nat) (x : Core) (unresolved : Bool) :
    (spanReplay s k n x unresolved).sec.counters = s.sec.counters := by rfl

@[simp] theorem leaveSpan_ctrs (s : State) (k n : Nat) : (leaveSpan s k n).sec.counters = s.sec.counters := by simp [leaveSpan]

theorem unresolvedEnd_ctrs (s : State) (k n : Nat) (x : Core) :
    Yields (unresolvedEnd s k n x) (fun t => t.sec.counters = s.sec.counters) := by
  refine yields_then fun r => yields_bind (Q := fun t => t.sec.counters = s.sec.counters) ?_ fun t ht => yields_ok.2 ?_
  · split
    · exact writeVas_ctrs _ _ _ _
    · exact yields_ok.2 rfl
  · split <;> simpa using ht

@[simp] theorem execSpanEnd_ctrs (c : Nat) (w : CWord) (s : State) : NextKeeps s (execSpanEnd c w s) := by
  refine level3_ctrs _ _ (issueC_ctrs _ _ _ fun k x => yields_ite (yields_error.2 trivial)
    (yields_ite (yields_ok.2 (by simp)) (yields_ite (yields_ok.2 (by simp)) (yields_ite (rewind_ctrs _ _ _ _) ?_))))
  exact yields_bind (unresolvedEnd_ctrs _ _ _ _) fun _ ht => yields_ok.2 (by simp [ht])

@[simp] theorem watchesCommit_ctrs (s : State) (k : Nat) : (watchesCommit s k).sec.counters = s.sec.counters := by simp [watchesCommit]
@[simp] theorem commitStep_ctrs (s : State) (k q : Nat) : (commitStep s k q).sec.counters = s.sec.counters := by simp [commitStep]
@[simp] theorem endEventStep_ctrs (s : State) (k n : Nat) : (endEventStep s k n).sec.counters = s.sec.counters := by simp [endEventStep]

@[simp] theorem stepCommit_ctrs (s : State) (k n q : Nat) (ckpt : Bool) : (stepCommit s k n q ckpt).sec.counters = s.sec.counters := by
  simp [stepCommit]

@[simp] theorem execStepProgram_ctrs (c : Nat) (w : CWord) (s : State) : NextKeeps s (execStepProgram c w s) :=
  issueC_ctrs _ _ _ fun _ _ => yields_ite (yields_error.2 trivial) (yields_ite (yields_error.2 trivial)
    (yields_ite (yields_ok.2 (by simp)) (yields_ok.2 (by simp))))

/-! ### Commands that write the anti-rollback counters -/

theorem CountersKept.foldl {α : Type} {f : State → α → State} (hf : ∀ s a, CountersKept s (f s a)) (l : List α) (s : State) :
    CountersKept s (l.foldl f s) :=
  List.foldlRecOn (motive := fun u : State => CountersKept s u) _ _ (.refl s) fun u hu a _ => hu.trans (hf u a)

theorem advanceCounters_kept (s : State) (t : Nat) (v : Image) : CountersKept s (advanceCounters s t v) := (advanceCounters_leaves s t v).2.1

theorem bootKernel_kept (s : State) : CountersKept s (bootKernel s) := by
  unfold bootKernel
  refine CountersKept.trans (.of_counters ?_) (.foldl (fun u t => ?_) _ _)
  · rw [foldl_ctrs (fun s n => raise_ctrs ..), logTrip_ctrs]
  · dsimp only
    split
    · exact (advanceCounters_kept u t _).trans (.of_counters rfl)
    · exact .refl u

/-- What a stage leaves done keeps the anti-rollback counters or raises them. -/
theorem stageWork_kept (f : BootFinding) (s : State) (stage : Nat) : CountersKept s (stageWork f s stage) := by
  unfold stageWork
  split
  · exact .of_counters (bootRom_ctrs ..)
  · exact .of_counters ((bootTarget_ctrs ..).trans (bootTarget_ctrs ..))
  · exact bootKernel_kept s
  · exact .of_counters (bootChain_ctrs ..)
  · exact .of_counters (bootClocks_ctrs ..)
  · split
    · exact .of_counters (remakeSram_ctrs ..)
    · exact .refl s
  · exact .of_counters (selfTest_ctrs ..)
  · exact .refl s

theorem recoverStep_kept (f : BootFinding) (s : State) : CountersKept s (recoverStep f s) := by
  unfold recoverStep
  dsimp only
  split
  · exact .of_counters (startRecovery_ctrs ..)
  · exact (stageWork_kept f s s.fw.recoverStage).trans (.of_counters rfl)

/-- A command's next state lowers no anti-rollback counter. -/
def NextRaises (s : State) (o : Out) : Prop := ∀ t, o = .next t → CountersKept s t

theorem nextRaises_next {s t : State} (h : CountersKept s t) : NextRaises s (.next t) := fun _ e => Host.Outcome.next.inj e ▸ h

theorem NextKeeps.raises {s : State} {o : Out} (h : NextKeeps s o) : NextRaises s o := fun t ht => .of_counters (h t ht)

theorem execBootStageComplete_raises (f : BootFinding) (s : State) : NextRaises s (execBootStageComplete f s) := by
  unfold execBootStageComplete
  split
  · exact nextRaises_next (.refl s)
  · split
    · split
      · exact nextRaises_next (recoverStep_kept f s)
      · exact nextRaises_next (.refl s)
    · split
      · exact nextRaises_next (.refl s)
      · split
        · exact nextRaises_next (.of_counters (bootStop_ctrs ..))
        · split
          · exact nextRaises_next (.of_counters (bootRom_ctrs ..))
          · exact nextRaises_next ((stageWork_kept f s s.fw.stage).trans (.of_counters (nextStage_ctrs ..)))

theorem message_raises {body : State → State × Nat × List Byte} (i : Instr) (t : MsgType) (h : MsgHdr) (s : State)
    (hb : ∀ u, CountersKept u (body u).1) : NextRaises s (message i t h s body) := by
  rcases message_cases i t h s body with ⟨-, e⟩ | ⟨box, st, -, -, e⟩ | ⟨box, -, e⟩
  · rw [e]
    exact nextRaises_next (.refl s)
  · rw [e]
    exact nextRaises_next (.of_counters (by simp))
  · rw [e]
    exact nextRaises_next ((CountersKept.of_counters (untake_ctrs ..)).trans ((hb (untake s h t)).trans (.of_counters (by simp))))

theorem execFwCommit_raises (h : MsgHdr) (target : Nat) (rsv : Bool) (s : State) : NextRaises s (execFwCommit h target rsv s) := by
  refine message_raises _ _ _ _ fun u => ?_
  dsimp only
  split
  · exact .refl u
  · split
    · exact .refl u
    · split
      · exact .refl u
      · refine ((commitImage_leaves u target (runningOf u target)).2.1).trans (.of_counters ?_)
        simp [done]

theorem execFlashWrite_raises (area counter : Nat) (tag data : List Byte) (s : State) :
    NextRaises s (execFlashWrite area counter tag data s) := by
  unfold execFlashWrite
  split
  · exact nextRaises_next (.refl s)
  · split
    · exact nextRaises_next (.of_counters (flashRefused_ctrs ..))
    · split
      · exact nextRaises_next (.of_counters (flashRefused_ctrs ..))
      · exact nextRaises_next (applyArea_counters_le s.sec area data)

/-! ### Every command -/

theorem exec_raises (c : Instr) (s : State) : NextRaises s (exec c s) := by
  cases c
  case bootStageComplete f => exact execBootStageComplete_raises f s
  case fwCommit h target rsv => exact execFwCommit_raises h target rsv s
  case flashWrite area counter tag data => exact execFlashWrite_raises area counter tag data s
  all_goals exact NextKeeps.raises (by simp)

/-- Settles O57: a state with no command in line ticks, and every command keeps the counters or raises them. -/
theorem countersNeverFall : Obligations.CountersNeverFall := by
  intro s t hs
  unfold step at hs
  split at hs
  · cases hs
    exact .of_counters (tick_ctrs s)
  case h_2 c rest _ => exact exec_raises c { s with pending := rest } t hs

end Sys2Proof.Machine


/-! ## Slices, preemptions and debug halts -/

namespace Sys2Proof.Machine

/-! ### Landing and descheduling -/

theorem landCore_idle {s : State} {k n : Nat} (h : flightsOf (coreOf s k n) .stream = []) (p : Flight → Bool) : landCore s k n p = s := by
  rw [landCore, h]
  rfl

theorem landAll_idle {s : State} {k : Nat} (h : ∀ n ∈ launchCores (ctxOf s k), flightsOf (coreOf s k n) .stream = []) : landAll s k = s :=
  List.foldlRecOn (motive := fun t : State => t = s) _ _ rfl fun t ht n hn => by
    subst ht
    exact landCore_idle (h n hn) _

namespace Stays

theorem countAway (s : State) (ns : List Nat) : Stays s (countAway s ns) := by
  obtain ⟨o, ho⟩ := countAway_obs s ns
  rw [ho]
  exact of_same rfl rfl

theorem saveScratch (s : State) (k n p : Nat) : Stays s (saveScratch s k n p) := foldl (fun s _ => copyDpa s k _ _ _) _ s

theorem deschedule (s : State) (part : Nat) : Stays s (deschedule s part) := by
  unfold Machine.deschedule
  dsimp only
  split
  · exact refl s
  · next k _ =>
    generalize hs1 : (residents s part).foldl (fun s np => Machine.saveScratch s k np.1 np.2) _ = s1
    have h1 : Stays s s1 := by
      rw [← hs1]
      exact .trans (.trans (watchTick s k) (countAway ..)) (foldl (fun s (np : Nat × Nat) => saveScratch s k np.1 np.2) _ _)
    exact h1.trans (of_same rfl rfl)

end Stays

theorem partSt_deschedule {s : State} {part k : Nat} (h : (partSt s.place part).running = some k) :
    partSt (deschedule s part).place part = { partSt s.place part with running := none, lastRun := k, preempting := false } := by
  unfold deschedule
  dsimp only
  split
  · next hn => cases h.symm.trans hn
  · next q hq =>
    cases h.symm.trans hq
    exact partSt_setPart ..

/-! ### Whose turn it is -/

theorem findSome?_congr {α β : Type} {f g : α → Option β} {l : List α} (h : ∀ a ∈ l, g a = f a) : l.findSome? g = l.findSome? f := by
  induction l with
  | nil => rfl
  | cons a l ih =>
    rw [List.findSome?_cons, List.findSome?_cons, h a List.mem_cons_self, ih fun b hb => h b (List.mem_cons_of_mem _ hb)]

/-- The turn of a context in the round that begins after `last`. -/
def inTurn (s : State) (part last i : Nat) : Option Nat :=
  if (ctxOf s ((last + 1 + i) % 64)).st = .runnable ∧ (ctxOf s ((last + 1 + i) % 64)).part = part then some ((last + 1 + i) % 64) else none

theorem nextRunnable_round (s : State) (part last : Nat) :
    nextRunnable s part last = ((List.range 63).findSome? (inTurn s part last)).or (inTurn s part last 63) := by
  have hr : nextRunnable s part last = (List.range (63 + 1)).findSome? (inTurn s part last) := rfl
  rw [hr, List.range_succ, List.findSome?_append]
  simp

/-- The next in turn after a context that runs stays next once that one is runnable: its own turn is the last of the round. -/
theorem nextRunnable_after {s t : State} {part k j : Nat}
    (h : ∀ q, q ≠ k → (ctxOf t q).st = (ctxOf s q).st ∧ (ctxOf t q).part = (ctxOf s q).part)
    (hn : nextRunnable s part k = some j) (hj : j ≠ k) : nextRunnable t part k = some j := by
  have hsame {i : Nat} (hi : (k + 1 + i) % 64 ≠ k) : inTurn t part k i = inTurn s part k i := by
    obtain ⟨hst, hpart⟩ := h _ hi
    rw [inTurn, inTurn, hst, hpart]
  have hround : (List.range 63).findSome? (inTurn t part k) = (List.range 63).findSome? (inTurn s part k) := by
    refine findSome?_congr fun i hi => hsame ?_
    have := List.mem_range.1 hi
    omega
  rw [nextRunnable_round] at hn ⊢
  rw [hround]
  cases hf : (List.range 63).findSome? (inTurn s part k) with
  | some b => rwa [hf] at hn
  | none =>
    rw [hf] at hn
    have hlast : (k + 1 + 63) % 64 = j := by
      rw [Option.none_or, inTurn] at hn
      split at hn
      · exact Option.some.inj hn
      · cases hn
    rw [hsame (hlast ▸ hj)]
    exact hn

/-! ### Who runs next -/

/-- A context made resident runs on its partition. -/
theorem makeResident_runs (s : State) (part k : Nat) : (partSt (makeResident s part k).place part).running = some k ∧
    (partSt (makeResident s part k).place part).preempting = false ∧ (ctxOf (makeResident s part k) k).st = .running := by
  unfold makeResident
  extract_lets x s1 s2
  have hplace : s2.place = s1.place :=
    List.foldlRecOn (motive := fun t : State => t.place = s1.place) _ _ rfl fun t ht np _ => (loadScratch_place_clock t k np.1 np.2).1.trans ht
  have hpart : partSt s2.place part = { x with running := some k, sliceAt := s.clock.ns, residentAt := s.clock.ns, preempting := false } := by
    rw [hplace]
    exact partSt_setPart ..
  refine ⟨congrArg PartSt.running hpart, congrArg PartSt.preempting hpart, ?_⟩
  exact congrArg Ctx.st (ctxOf_changeCtx s2 k .running 0)

/-- A context made resident leaves every other context's state. -/
theorem makeResident_others {s : State} {part j k : Nat} (h : k ≠ j) : (ctxOf (makeResident s part j) k).st = (ctxOf s k).st := by
  unfold makeResident
  extract_lets x s1 s2
  have h1 : Stays s s1 := .trans (.watchTick s j) (.of_same rfl rfl)
  have h2 : Stays s1 s2 := .foldl (fun s (np : Nat × Nat) => .loadScratch s j np.1 np.2) _ _
  clear_value s1 s2
  exact (congrArg Ctx.st (ctxOf_changeCtx_other s2 j .running 0 h)).trans ((h1.trans h2).st k)

theorem schedule_next {s : State} {part j : Nat} (hr : (partSt s.place part).running = none) (hu : (partSt s.place part).unavailable = false)
    (hn : nextRunnable s part (partSt s.place part).lastRun = some j) : schedule s part = makeResident s part j := by
  rw [schedule, if_pos ⟨hr, hu⟩, hn]

section Slices
variable {s : State} {p k : Nat} (ha : alive s = true) (hr : (partSt s.place p).running = some k)
include ha hr

theorem schedSliceExpiry_stops (hs : serves s 0 = true) (hp : (partSt s.place p).preempting = false) (hh : (ctxOf s k).haltReq = 0)
    (ht : (partSt s.place p).sliceAt + (partSt s.place p).sliceMs * 1000000 ≤ s.clock.ns)
    (hn : nextRunnable s p (partSt s.place p).lastRun ≠ none) : Completes (.schedSliceExpiry p) s (fun t =>
      partSt t.place p = { partSt s.place p with preempting := true, preemptAt := s.clock.ns } ∧ t.mem = s.mem ∧
      t.cores = s.cores ∧ t.ctxs = s.ctxs) := by
  have hgo : ¬(alive s = false ∨ serves s 0 = false ∨ (partSt s.place p).preempting = true ∨ (ctxOf s k).haltReq ≠ 0 ∨
      s.clock.ns < (partSt s.place p).sliceAt + (partSt s.place p).sliceMs * 1000000 ∨
      nextRunnable s p (partSt s.place p).lastRun = none) := by
    rw [ha, hs, hp]
    simp only [Bool.true_eq_false, Bool.false_eq_true, false_or, hn, or_false, hh, ne_eq, not_true_eq_false]
    omega
  have hexec : execSchedSliceExpiry p s = .next (setPart s p { partSt s.place p with preempting := true, preemptAt := s.clock.ns }) := by
    unfold execSchedSliceExpiry
    dsimp only
    split
    · next hn => cases hr.symm.trans hn
    · next q hq =>
      cases hr.symm.trans hq
      exact if_neg hgo
  exact ⟨_, (exec_schedSliceExpiry ..).trans hexec, partSt_setPart .., rfl, rfl, rfl⟩

omit ha in
theorem preemptDrainTimeout_goesOn (hp : (partSt s.place p).preempting = true) (hl : isLarge s.place p = false)
    (ht : (partSt s.place p).preemptAt + 100000 ≤ s.clock.ns) (hd : undrained s k ≠ []) : Completes (.preemptDrainTimeout p) s (fun t =>
      partSt t.place p = { partSt s.place p with preempting := false, sliceAt := s.clock.ns } ∧ t.mem = s.mem ∧
      t.cores = s.cores ∧ (t.obs.log.getLast?.map (fun e => (e.code, e.ctx))) = some (0x0709, k)) := by
  have hgo : ¬((partSt s.place p).preempting = false ∨ isLarge s.place p = true ∨
      s.clock.ns < (partSt s.place p).preemptAt + 100000 ∨ undrained s k = []) := by
    rw [hp, hl]
    simp only [Bool.true_eq_false, Bool.false_eq_true, false_or, hd, or_false]
    omega
  have hexec : execPreemptDrainTimeout p s = .next (raise (setPart s p { partSt s.place p with preempting := false, sliceAt := s.clock.ns })
      0x0709 clsC k 0 (p4 k ++ p4 (undrained s k).length)) := by
    unfold execPreemptDrainTimeout
    dsimp only
    split
    · next hn => cases hr.symm.trans hn
    · next q hq =>
      cases hr.symm.trans hq
      exact if_neg hgo
  refine ⟨_, (exec_preemptDrainTimeout ..).trans hexec, ?_, rfl, rfl, congrArg (Option.map _) (raise_last ..)⟩
  rw [raise_place]
  exact partSt_setPart ..

theorem preemptionComplete_switches {j : Nat} (hp : (partSt s.place p).preempting = true)
    (hd : isLarge s.place p = true ∨ undrained s k = [])
    (hf : ∀ n ∈ launchCores (ctxOf s k), flightsOf (coreOf s k n) .stream = [] ∧ flightsOf (coreOf s k n) .sync = [])
    (hu : (partSt s.place p).unavailable = false) (hn : nextRunnable s p k = some j) (hj : j ≠ k) :
    Completes (.preemptionComplete p) s (fun t =>
      (partSt t.place p).running = some j ∧ (partSt t.place p).preempting = false ∧ (ctxOf t j).st = .running ∧
      (ctxOf t k).st = .runnable ∧ t.cores = s.cores) := by
  have hreach : ¬(launchCores (ctxOf s k)).any (fun n => unreached (coreOf s k n)) = true := by
    rw [List.any_eq_true]
    rintro ⟨n, hn, hun⟩
    obtain ⟨hst, hsy⟩ := hf n hn
    simp [unreached, hst, hsy] at hun
  have hgo : ¬((partSt s.place p).preempting = false ∨ (isLarge s.place p = false ∧ undrained s k ≠ []) ∨ alive s = false ∨
      (launchCores (ctxOf s k)).any (fun n => unreached (coreOf s k n)) = true) := by
    rw [hp, ha]
    rcases hd with hd | hd <;> simp [hd, hreach]
  have hland : landAll s k = s := landAll_idle fun n hn => (hf n hn).1
  have hoff := Stays.deschedule s p
  have hpart := partSt_deschedule hr
  refine ⟨schedule (traceCat (changeCtx (deschedule s p) k .runnable 0) 2 k 0xFFFF 0 0x31 0 p [0]) p, ?_, ?_⟩
  · rw [exec_preemptionComplete]
    unfold execPreemptionComplete
    dsimp only
    split
    · next hn => cases hr.symm.trans hn
    · next q hq =>
      cases hr.symm.trans hq
      rw [if_neg hgo, hland]
  · generalize hs2 : traceCat (changeCtx (deschedule s p) k .runnable 0) 2 k 0xFFFF 0 0x31 0 p [0] = s2
    have hplace : partSt s2.place p = { partSt s.place p with running := none, lastRun := k, preempting := false } := by
      rw [← hs2, traceCat_place, changeCtx_place, hpart]
    have hctx (q : Nat) : ctxOf s2 q = ctxOf (changeCtx (deschedule s p) k .runnable 0) q := by rw [← hs2]; rfl
    have hnext : nextRunnable s2 p k = some j := by
      refine nextRunnable_after (s := s) (fun q hq => ?_) hn hj
      rw [hctx, ctxOf_changeCtx_other _ _ _ _ hq]
      exact ⟨hoff.st q, (hoff.ctxs q).part⟩
    have hcores : s2.cores = s.cores := by rw [← hs2, traceCat_cores, changeCtx_cores, hoff.cores]
    have hk : (ctxOf s2 k).st = .runnable := by rw [hctx, ctxOf_changeCtx]
    have hjr : (ctxOf s2 j).st = .runnable := nextRunnable_runnable hnext
    rw [schedule_next (by rw [hplace]) (by rw [hplace]; exact hu) (by rw [hplace]; exact hnext)]
    obtain ⟨hrun, hpre, hst⟩ := makeResident_runs s2 p j
    exact ⟨hrun, hpre, hst, (makeResident_others hj.symm).trans hk, (makeResident_turn hjr).cores.trans hcores⟩

end Slices

/-! ### A context that halts -/

theorem debugHaltComplete_halts {s : State} {k : Nat} (ha : alive s = true) (he : ctxExists s k = true) (hh : (ctxOf s k).haltReq ≠ 0)
    (hst : (ctxOf s k).st = .running ∨ (ctxOf s k).st = .runnable) (hd : undrained s k = [])
    (hf : ∀ n ∈ launchCores (ctxOf s k), flightsOf (coreOf s k n) .stream = []) : Completes (.debugHaltComplete k) s (fun t =>
      (ctxOf t k).st = .halted ∧ t.cores = s.cores) := by
  have hgo : ¬(ctxExists s k = false ∨ (ctxOf s k).haltReq = 0 ∨ ((ctxOf s k).st ≠ .running ∧ (ctxOf s k).st ≠ .runnable) ∨
      undrained s k ≠ [] ∨ alive s = false) := by
    rw [he, hd, ha]
    rcases hst with hst | hst <;> simp [hst, hh]
  rw [Completes, exec_debugHaltComplete, execDebugHaltComplete, if_neg hgo, landAll_idle hf]
  extract_lets _ s2
  have hoff : Stays s s2 := by
    unfold s2
    split_ifs
    · exact .trans (.deschedule s _) (.of_same rfl rfl)
    · exact .refl s
  clear_value s2
  obtain ⟨hcores, -, hturn⟩ := schedule_turn (changeCtx s2 k .halted (ctxOf s k).haltReq) (ctxOf s k).part
  refine ⟨_, rfl, ?_, hcores.trans hoff.cores⟩
  have hk := hturn k
  rw [ctxOf_changeCtx] at hk
  exact hk.elim id fun hr => nomatch hr.1

/-- Settles O41: a slice ends in a request to stop, a small configuration that did not drain goes on for one more, and whoever stops
leaves the partition to the next in turn, whose round is the same one seen from the state after it. -/
theorem slicesAndHalts : Obligations.SlicesAndHalts := by
  unfold Obligations.SlicesAndHalts
  intro s p k ha
  refine ⟨fun hr => ⟨?_, ?_, ?_⟩, ?_⟩
  · exact schedSliceExpiry_stops ha hr
  · exact preemptDrainTimeout_goesOn hr
  · exact fun j => preemptionComplete_switches ha hr
  · exact debugHaltComplete_halts ha

end Sys2Proof.Machine


/-! ## One response to a message -/

namespace Sys2Proof.Machine

/-- A response is never dropped: the line takes it even while the outbox is blocked (R351). -/
theorem putRec_response (f : Firmware) (h : MsgHdr) (type st : Nat) (r : List Byte) : putRec f (response h type st r) =
    { f with outbox := { f.outbox with waiting := f.outbox.waiting ++ [response h type st r] } } := by
  have hheld : (outboxBlocked f && !heldType (response h type st r).type (response h type st r).async) = false := by
    simp [response, heldType]
  exact if_neg (by rw [hheld]; decide)

section Answers
variable (s : State) (h : MsgHdr) (type st : Nat) (r : List Byte)

theorem respond_quiet (hq : h.quiet = true) (hst : st = stOk) : respond s h type st r = s := if_pos ⟨hq, hst⟩

section Spoken
variable {h type st}
variable (hq : h.quiet = false ∨ st ≠ stOk)
include hq

theorem respond_mailbox (hm : h.src < 16) : respond s h type st r =
    { s with fw := { s.fw with outbox := { s.fw.outbox with waiting := s.fw.outbox.waiting ++ [response h type st r] } } } := by
  have hsay : ¬(h.quiet = true ∧ st = stOk) := by rcases hq with hq | hq <;> simp [hq]
  rw [respond, if_neg hsay, if_pos hm, putRec_response]

theorem respond_manager (hm : 16 ≤ h.src) {node b : Nat} (hn : s.net.managers[h.src - 16]? = some (node, b)) :
    (respond s h type st r).net.records = s.net.records ++ [(node, response h type st r)] ∧ (respond s h type st r).fw = s.fw := by
  have hsay : ¬(h.quiet = true ∧ st = stOk) := by rcases hq with hq | hq <;> simp [hq]
  have hresp : respond s h type st r = { s with net := toManager s.net node (response h type st r) } := by
    rw [respond, if_neg hsay, if_neg (Nat.not_lt.2 hm), hn]
    rfl
  rw [hresp]
  exact ⟨rfl, rfl⟩

end Spoken

/-- The record a response puts in line for the outbox, if it is one of a mailbox's message and not silent. -/
def responseInLine (h : MsgHdr) (type st : Nat) (r : List Byte) : List Rec :=
  if h.src < 16 && !(h.quiet && st == stOk) then [response h type st r] else []

theorem respond_waiting : (respond s h type st r).fw.outbox.waiting = s.fw.outbox.waiting ++ responseInLine h type st r := by
  unfold respond responseInLine
  dsimp only
  rw [putRec_response]
  by_cases hq : h.quiet = true ∧ st = stOk
  · rw [if_pos hq, if_neg (by simp [hq]), List.append_nil]
  · rw [if_neg hq]
    by_cases hm : h.src < 16
    · rw [if_pos hm, if_pos (by cases hb : h.quiet <;> simp_all)]
    · rw [if_neg hm, if_neg (by simp [hm]), List.append_nil]

theorem respond_boxes : (respond s h type st r).fw.boxes = s.fw.boxes := by
  unfold respond
  dsimp only
  rw [putRec_response]
  split_ifs <;> rfl

theorem lateDue_respond (m : Nat) : lateDue (respond s h type st r) m = lateDue s m := by rw [lateDue, respond_boxes, lateDue]

/-- The responses that waited for an earlier one follow it in line, in their order. -/
theorem foldl_respond_waiting (es : List (Nat × MsgHdr × Nat × Nat)) (s : State) :
    (es.foldl (fun s e => respond s e.2.1 e.2.2.1 e.2.2.2 []) s).fw.outbox.waiting = s.fw.outbox.waiting ++
      (es.filter (fun e => e.2.1.src < 16 && !(e.2.1.quiet && e.2.2.2 == stOk))).map (fun e => response e.2.1 e.2.2.1 e.2.2.2 []) := by
  induction es generalizing s with
  | nil => simp
  | cons e es ih =>
    rw [List.foldl_cons, ih, respond_waiting, List.append_assoc, responseInLine, List.filter_cons]
    split_ifs <;> rfl

theorem answerLate_waiting (m : Nat) : (answerLate s m).fw.outbox.waiting = s.fw.outbox.waiting ++
    ((lateDue s m).filter (fun e => e.2.1.src < 16 && !(e.2.1.quiet && e.2.2.2 == stOk))).map
      (fun e => response e.2.1 e.2.2.1 e.2.2.2 []) := by
  unfold answerLate
  split
  · next hn => simp [hn]
  · exact foldl_respond_waiting ..

theorem answerLate_none {m : Nat} (hn : lateDue s m = []) : answerLate s m = s := by
  rw [answerLate, hn]

end Answers

section Refusals
variable {s : State} {h : MsgHdr} {t : MsgType} {box st : Nat} {i : Instr} {body : State → State × Nat × List Byte}

theorem message_refused (hb : takes s i h t = some box) (hr : refuses s box h t = some st) :
    message i t h s body = .next (answer (untake s h t) h t.code st []) := by
  simp [message, hb, hr]

theorem message_untaken (hb : takes s i h t = none) : message i t h s body = .next s := by
  simp [message, hb]

theorem refuses_foreign (hk : kindOk t.kind box = true) (h0 : box ≠ 0) (h15 : box ≠ 15) (hc : t.ctx = true)
    (hx : (ctxOf s h.ctx).st = .free ∨ (ctxOf s h.ctx).mailbox ≠ box) : refuses s box h t = some stNoContext := by
  have hbad : ctxOk s box h.ctx = false := by
    rcases hx with hx | hx <;> simp [ctxOk, ctxExists, hx, h0, h15]
  simp [refuses, hk, namesCtx, hc, hbad]

end Refusals

/-- Settles O46: a response is one record in line or at the manager, and what an answer adds to the line is that record and the
responses that waited for it. -/
theorem oneResponse : Obligations.OneResponse := by
  unfold Obligations.OneResponse
  intro s h t st r
  refine ⟨respond_quiet s h t.code st r, fun hq => ⟨rfl, rfl, rfl, rfl, rfl, respond_mailbox s r hq, fun hm node b => respond_manager s r hq hm⟩,
    fun hn => ?_, ?_, fun i box body hb hr => ?_, fun i body => message_untaken, fun box => refuses_foreign, ?_, ?_, ?_, ?_⟩
  · exact answerLate_none _ ((lateDue_respond ..).trans hn)
  · rw [answer, answerLate_waiting, lateDue_respond]
  · obtain ⟨f, hf⟩ := untake_fw s h t
    refine ⟨message_refused hb hr, ?_⟩
    rw [hf]
    exact ⟨rfl, rfl, rfl, rfl⟩
  · exact fun va size kind page perm => denies_of (by decide) (exec_memAlloc ..) fun f => rfl
  · exact fun a => denies_of (by decide) (exec_capacity ..) fun f => rfl
  · exact fun w => denies_of (by decide) (exec_powerLimit ..) fun f => rfl
  · exact fun p a b => denies_of (by decide) (exec_schedSet ..) fun f => rfl

end Sys2Proof.Machine


/-! ## What events, errors of memory and turns leave of a context -/

namespace Sys2Proof.Machine

/-! ### The books of a context -/

/-- Two states of a context between which nothing differs but whose turn it is, its watchdog's clock, and what events and
errors of memory note in it. -/
def OnlyNoted (x y : Ctx) : Prop := y = { x with
  st := y.st, firstFault := y.firstFault, faultSeq := y.faultSeq, watchBase := y.watchBase, watchAt := y.watchAt,
  statePoison := y.statePoison, poisonAt := y.poisonAt, restart := { x.restart with merged := y.restart.merged } }

namespace OnlyNoted

theorem refl (x : Ctx) : OnlyNoted x x := rfl

theorem trans {x y z : Ctx} (h : OnlyNoted x y) (h' : OnlyNoted y z) : OnlyNoted x z := by
  have h2 : z = { y with
    st := z.st, firstFault := z.firstFault, faultSeq := z.faultSeq, watchBase := z.watchBase, watchAt := z.watchAt,
    statePoison := z.statePoison, poisonAt := z.poisonAt, restart := { y.restart with merged := z.restart.merged } } := h'
  exact h2.trans (congrArg (fun c : Ctx => { c with
    st := z.st, firstFault := z.firstFault, faultSeq := z.faultSeq, watchBase := z.watchBase, watchAt := z.watchAt,
    statePoison := z.statePoison, poisonAt := z.poisonAt, restart := { c.restart with merged := z.restart.merged } }) h)

end OnlyNoted

theorem PoisonOnly.onlyNoted {x y : Ctx} (h : PoisonOnly x y) : OnlyNoted x y := by
  rw [h]
  rfl

/-- Between two states every context keeps its books. -/
structure Noted (s t : State) : Prop where
  ctx : ∀ j, OnlyNoted (ctxOf s j) (ctxOf t j)

namespace Noted
variable {s t u : State}

theorem of_ctxs (h : t.ctxs = s.ctxs) : Noted s t := ⟨fun j => by
  rw [ctxOf, ctxOf, h]
  exact .refl _⟩

theorem refl (s : State) : Noted s s := of_ctxs rfl

theorem trans (h : Noted s t) (h' : Noted t u) : Noted s u := ⟨fun j => (h.ctx j).trans (h'.ctx j)⟩

theorem foldl {α : Type} {f : State → α → State} (hf : ∀ s a, Noted s (f s a)) (l : List α) (s : State) : Noted s (l.foldl f s) :=
  List.foldlRecOn l f (refl s) fun t ht a _ => ht.trans (hf t a)

theorem setCtx {k : Nat} {x : Ctx} (hx : OnlyNoted (ctxOf s k) x) : Noted s (setCtx s k x) := ⟨fun j => by
  by_cases hj : j = k
  · rw [hj, ctxOf_setCtx]
    exact hx
  · rw [ctxOf_setCtx_other _ _ _ _ hj]
    exact .refl _⟩

theorem raise (s : State) (code cls k u : Nat) (p : List Byte) : Noted s (raise s code cls k u p) := by
  obtain ⟨x, hput, hx⟩ : ∃ x, ((Machine.raise s code cls k u p).ctxs = put s.ctxs k x ∨
      (Machine.raise s code cls k u p).ctxs = s.ctxs) ∧ OnlyNoted (ctxOf s k) x := by
    unfold Machine.raise raiseOn
    dsimp only
    split
    · exact ⟨_, .inl rfl, rfl⟩
    · split
      · exact ⟨_, .inl rfl, rfl⟩
      · exact ⟨_, .inr rfl, .refl _⟩
  rcases hput with h | h
  · exact (setCtx hx).trans (of_ctxs h)
  · exact of_ctxs h

theorem notePoison (s : State) (d : Nat) : Noted s (notePoison s d) :=
  ⟨fun j => (poisonOnly_notePoison s d j).onlyNoted⟩

theorem keepHandling (s : State) : Noted s (keepHandling s) := by
  fun_cases Machine.keepHandling <;> exact of_ctxs rfl

theorem uncorrected (s : State) (k a src : Nat) : Noted s (uncorrected s k a src) := by
  have hpoison : Noted s (poisonGrain { s with mem := noteErr s.mem a s.clock.ns true } a) := by
    refine .trans ?_ (notePoison _ a)
    exact of_ctxs rfl
  unfold Machine.uncorrected
  dsimp only
  split_ifs
  · exact refl s
  · exact (hpoison.trans (raise ..)).trans (keepHandling _)
  · exact hpoison.trans (raise ..)

theorem correctedErr (s : State) (k a : Nat) : Noted s (correctedErr s k a) := by
  unfold Machine.correctedErr
  dsimp only
  split
  · exact of_ctxs rfl
  · refine .trans ?_ (raise ..)
    exact of_ctxs rfl

theorem meetOne (k src : Nat) (s : State) (u : Nat × Bool) : Noted s (meetOne k src s u) := by
  unfold Machine.meetOne
  dsimp only
  split
  · refine .trans ?_ (uncorrected ..)
    exact of_ctxs rfl
  · refine .trans ?_ (correctedErr ..)
    exact of_ctxs rfl

theorem meet (s : State) (k src a n : Nat) : Noted s (meet s k src a n) := foldl (meetOne k src) _ s

theorem copyDpa (s : State) (k src dst n : Nat) : Noted s (copyDpa s k src dst n) := (meet s k 0 src n).trans (of_ctxs rfl)

theorem loadScratch (s : State) (k n p : Nat) : Noted s (loadScratch s k n p) := foldl (fun s _ => copyDpa s k _ _ _) _ s

theorem watchTick (s : State) (k : Nat) : Noted s (watchTick s k) := by
  unfold Machine.watchTick
  dsimp only
  split
  · exact refl s
  · exact setCtx rfl

theorem changeCtx (s : State) (k : Nat) (st : CtxSt) (cause : Nat) : Noted s (changeCtx s k st cause) :=
  .trans (setCtx (k := k) (x := { ctxOf s k with st := st }) rfl) (of_ctxs rfl)

theorem makeResident (s : State) (part k : Nat) : Noted s (makeResident s part k) := by
  unfold Machine.makeResident
  extract_lets x s1 s2
  have h1 : Noted s s1 := .trans (watchTick s k) (of_ctxs rfl)
  have h2 : Noted s1 s2 := foldl (fun s (np : Nat × Nat) => loadScratch s k np.1 np.2) _ _
  clear_value s1 s2
  exact ((h1.trans h2).trans (changeCtx s2 k .running 0)).trans (of_ctxs rfl)

theorem schedule (s : State) (part : Nat) : Noted s (schedule s part) := by
  unfold Machine.schedule
  dsimp only
  split
  · split
    · exact makeResident ..
    · exact refl s
  · exact refl s

end Noted

/-! ### Steps that raise nothing -/

/-- A step to a memory with no error to meet, by which no event was raised and no poison was noted. -/
structure Silent (s t : State) : Prop where
  upsets : t.mem.upsets = []
  log : t.obs.log = s.obs.log
  poison : ∀ j, (ctxOf t j).statePoison = (ctxOf s j).statePoison

theorem countAway_log (s : State) (ns : List Nat) : (countAway s ns).obs.log = s.obs.log :=
  List.foldlRecOn (motive := fun t : State => t.obs.log = s.obs.log) _ _ rfl fun _ ht _ _ => by
    dsimp only
    split_ifs <;> exact ht

namespace Silent
variable {s t u : State}

theorem trans (h : Silent s t) (h' : Silent t u) : Silent s u :=
  ⟨h'.upsets, h'.log.trans h.log, fun j => (h'.poison j).trans (h.poison j)⟩

theorem of_same (hm : t.mem.upsets = []) (hl : t.obs.log = s.obs.log) (hx : t.ctxs = s.ctxs) : Silent s t :=
  ⟨hm, hl, fun j => by rw [ctxOf, hx, ctxOf]⟩

section
variable (hu : s.mem.upsets = [])
include hu

theorem refl : Silent s s := of_same hu rfl rfl

theorem setCtx {k : Nat} {x : Ctx} (hx : x.statePoison = (ctxOf s k).statePoison) : Silent s (setCtx s k x) := by
  refine ⟨hu, rfl, fun j => ?_⟩
  by_cases hj : j = k
  · rw [hj, ctxOf_setCtx, hx]
  · rw [ctxOf_setCtx_other _ _ _ _ hj]

theorem foldl {α : Type} {f : State → α → State} (hf : ∀ s a, s.mem.upsets = [] → Silent s (f s a)) (l : List α) :
    Silent s (l.foldl f s) := List.foldlRecOn l f (refl hu) fun t ht a _ => ht.trans (hf t a ht.upsets)

theorem watchTick (k : Nat) : Silent s (watchTick s k) := by
  unfold Machine.watchTick
  dsimp only
  split
  · exact refl hu
  · exact setCtx hu rfl

theorem changeCtx (k : Nat) (st : CtxSt) (cause : Nat) : Silent s (changeCtx s k st cause) :=
  .trans (setCtx hu (k := k) (x := { ctxOf s k with st := st }) rfl) (of_same hu rfl rfl)

theorem saveScratch (k n p : Nat) : Silent s (saveScratch s k n p) := by
  obtain ⟨m, hm, hclean⟩ := saveScratch_clean hu k n p
  rw [hm]
  exact of_same hclean rfl rfl

theorem loadScratch (k n p : Nat) : Silent s (loadScratch s k n p) := by
  obtain ⟨m, hm, hclean⟩ := loadScratch_clean hu k n p
  rw [hm]
  exact of_same hclean rfl rfl

theorem countAway (ns : List Nat) : Silent s (countAway s ns) := by
  have hlog := countAway_log s ns
  obtain ⟨o, ho⟩ := countAway_obs s ns
  rw [ho] at hlog ⊢
  exact of_same hu hlog rfl

theorem deschedule (part : Nat) : Silent s (deschedule s part) := by
  unfold Machine.deschedule
  dsimp only
  split
  · exact refl hu
  · next k _ =>
    have htick := watchTick hu k
    have haway := htick.trans (countAway htick.upsets (awayCores s part))
    generalize hs1 : (residents s part).foldl (fun s np => Machine.saveScratch s k np.1 np.2) _ = s1
    have h1 : Silent s s1 := by
      rw [← hs1]
      exact haway.trans (foldl haway.upsets (fun s (np : Nat × Nat) hu => saveScratch hu k np.1 np.2) _)
    exact h1.trans (of_same h1.upsets rfl rfl)

theorem makeResident (part k : Nat) : Silent s (makeResident s part k) := by
  unfold Machine.makeResident
  extract_lets x s1 s2
  have h1 : Silent s s1 := .trans (watchTick hu k) (of_same (watchTick hu k).upsets rfl rfl)
  have h2 : Silent s1 s2 := foldl h1.upsets (fun s (np : Nat × Nat) hu => loadScratch hu k np.1 np.2) _
  clear_value s1 s2
  have h3 := (h1.trans h2).trans (changeCtx h2.upsets k .running 0)
  exact h3.trans (of_same h3.upsets (traceCat_log ..) rfl)

theorem schedule (part : Nat) : Silent s (schedule s part) := by
  unfold Machine.schedule
  dsimp only
  split
  · split
    · exact makeResident hu ..
    · exact refl hu
  · exact refl hu

theorem mapCores (k : Nat) (f : Nat → Core → Core) : Silent s (mapCores s k f) := by
  refine foldl hu (fun t n ht => ?_) _
  split
  · exact of_same ht rfl rfl
  · exact refl ht

end
end Silent

end Sys2Proof.Machine


/-! ## The debug messages -/

namespace Sys2Proof.Machine

/-! ### The cores of a context -/

theorem has_put {α : Type} (t : Tbl α) (k q : Nat) (v : α) (h : has t q = true) : has (put t k v) q = true := by
  induction t with
  | nil => cases h
  | cons e r ih =>
    obtain ⟨k', v'⟩ := e
    simp only [put]
    split
    · next hk => simpa [has, hk] using h
    · split
      · rw [has]
        split
        · rfl
        · exact h
      · rw [has] at h ⊢
        split
        · rfl
        · next hq =>
          rw [if_neg hq] at h
          exact ih h

/-- One core of a context as a function of it makes it, where the context has that core. -/
def eachCore (k : Nat) (f : Nat → Core → Core) (s : State) (n : Nat) : State :=
  if has s.cores (coreKey k n) then setCore s k n (f n (coreOf s k n)) else s

theorem coreKey_ne {k n m : Nat} (h : n ≠ m) : coreKey k n ≠ coreKey k m := by
  unfold coreKey
  omega

theorem coreOf_eachCore_other {k n m : Nat} (f : Nat → Core → Core) (s : State) (h : n ≠ m) : coreOf (eachCore k f s m) k n = coreOf s k n := by
  unfold eachCore
  split
  · exact coreOf_setCore_other _ _ _ _ _ _ (coreKey_ne h)
  · rfl

theorem has_eachCore {k q : Nat} (f : Nat → Core → Core) {s : State} (n : Nat) (h : has s.cores q = true) : has (eachCore k f s n).cores q = true := by
  unfold eachCore
  split
  · exact has_put _ _ _ _ h
  · exact h

theorem coreOf_foldl_eachCore_other {k n : Nat} (f : Nat → Core → Core) {l : List Nat} (h : n ∉ l) (s : State) :
    coreOf (l.foldl (eachCore k f) s) k n = coreOf s k n := by
  induction l generalizing s with
  | nil => rfl
  | cons m l ih =>
    obtain ⟨hm, hl⟩ := not_or.1 (mt List.mem_cons.2 h)
    exact (ih hl _).trans (coreOf_eachCore_other f s hm)

theorem coreOf_foldl_eachCore {k n : Nat} (f : Nat → Core → Core) {l : List Nat} (hl : l.Nodup) (hn : n ∈ l) {s : State}
    (h : has s.cores (coreKey k n) = true) : coreOf (l.foldl (eachCore k f) s) k n = f n (coreOf s k n) := by
  induction l generalizing s with
  | nil => cases hn
  | cons m l ih =>
    obtain ⟨hm, hl⟩ := List.nodup_cons.1 hl
    rw [List.foldl_cons]
    rcases List.mem_cons.1 hn with rfl | hn
    · rw [coreOf_foldl_eachCore_other f hm, eachCore, if_pos h, coreOf_setCore]
    · have hne : n ≠ m := fun e => hm (e ▸ hn)
      rw [ih hl hn (has_eachCore f m h), coreOf_eachCore_other f s hne]

/-- Every core that a context has on its partition is what the function makes it. -/
theorem coreOf_mapCores {s : State} {k n : Nat} (f : Nat → Core → Core) (hn : n ∈ coresOf s.place (ctxOf s k).part)
    (h : has s.cores (coreKey k n) = true) : coreOf (mapCores s k f) k n = f n (coreOf s k n) :=
  coreOf_foldl_eachCore f (List.nodup_range.filter _) hn h

theorem mapCores_ctxs (s : State) (k : Nat) (f : Nat → Core → Core) : (mapCores s k f).ctxs = s.ctxs :=
  List.foldlRecOn (motive := fun t : State => t.ctxs = s.ctxs) _ _ rfl fun t ht n _ => by
    split <;> exact ht

theorem ctxOf_mapCores (s : State) (k : Nat) (f : Nat → Core → Core) (j : Nat) : ctxOf (mapCores s k f) j = ctxOf s j := by
  rw [ctxOf, mapCores_ctxs, ctxOf]

/-- A context made runnable after a halt: it waits its turn or runs, no core changes, and no halt is asked for. -/
theorem unhalt_runs (s : State) (k : Nat) : (ctxOf (unhalt s k) k).haltReq = 0 ∧
    ((ctxOf (unhalt s k) k).st = .runnable ∨ (ctxOf (unhalt s k) k).st = .running) ∧ (unhalt s k).cores = s.cores := by
  unfold unhalt
  extract_lets _ s1
  have hs1 : (ctxOf s1 k).haltReq = 0 ∧ s1.cores = s.cores := ⟨congrArg Ctx.haltReq (ctxOf_setCtx ..), rfl⟩
  clear_value s1
  obtain ⟨hreq, hcores⟩ := hs1
  have hnoted := (Noted.changeCtx s1 k .runnable 0).trans (.schedule _ (ctxOf s k).part)
  exact ⟨(congrArg Ctx.haltReq (hnoted.ctx k)).trans hreq, schedule_runnable .., (schedule_turn ..).cores.trans hcores⟩

theorem coreOf_unhalt (s : State) (k q n : Nat) : coreOf (unhalt s k) q n = coreOf s q n := by
  rw [coreOf, (unhalt_runs s k).2.2, coreOf]

/-- The watchdog's measure brought up to date changes nothing else of its context. -/
theorem ctxOf_watchTick_measure (s : State) (k : Nat) : ctxOf (watchTick s k) k = { ctxOf s k with
    watchBase := (ctxOf (watchTick s k) k).watchBase, watchAt := (ctxOf (watchTick s k) k).watchAt } := by
  cases hl : (ctxOf s k).launched with
  | false => rw [watchTick_idle hl]
  | true => rw [ctxOf_watchTick hl]

theorem watchTick_place (s : State) (k : Nat) : (watchTick s k).place = s.place := by
  unfold watchTick
  dsimp only
  split <;> rfl

/-- A halt asked of a context by DEBUG_HALT: every core of it is held. -/
def askHalt (s : State) (k : Nat) : State :=
  let s1 := mapCores (watchTick s k) k (fun _ c => { c with halted := true, oneStep := false })
  setCtx s1 k { ctxOf s1 k with haltReq := 3 }

theorem coreOf_askHalt {s : State} {k n : Nat} (hn : n ∈ coresOf s.place (ctxOf s k).part) (h : has s.cores (coreKey k n) = true) :
    (coreOf (askHalt s k) k n).halted = true := by
  obtain ⟨hcores, -, -⟩ := watchTick_frame s k
  have hpart : coresOf (watchTick s k).place (ctxOf (watchTick s k) k).part = coresOf s.place (ctxOf s k).part := by
    rw [watchTick_place, ctxOf_watchTick_measure]
  exact congrArg Core.halted (coreOf_mapCores _ (hpart ▸ hn) (hcores ▸ h))

theorem askHalt_asks (s : State) (k : Nat) : ctxOf (askHalt s k) k = { ctxOf s k with
      haltReq := 3, watchBase := (ctxOf (askHalt s k) k).watchBase, watchAt := (ctxOf (askHalt s k) k).watchAt } ∧
    OthersKept s (askHalt s k) k ∧ (askHalt s k).mem = s.mem := by
  have hctx : ctxOf (askHalt s k) k = { ctxOf (watchTick s k) k with haltReq := 3 } := by
    rw [askHalt, ctxOf_setCtx, ctxOf_mapCores]
  refine ⟨?_, fun j hj => ?_, (mapCores_mem ..).trans (watchTick_mem ..)⟩
  · rw [hctx, ctxOf_watchTick_measure]
  · obtain ⟨-, -, hothers⟩ := watchTick_frame s k
    exact (ctxOf_setCtx_other _ _ _ _ hj).trans ((ctxOf_mapCores ..).trans (hothers j hj))

section Debug
variable {s : State} {h : MsgHdr}

/-! ### Counters, the trace and histograms -/

theorem counterRead_does {a : Nat} {es : List CounterAddr} (he : es ≠ []) (hl : es.length ≤ 512) :
    Does (.counterRead h a es false) s h { code := 0x0080, kind := .debug } (fun u r =>
      u.host.hostWr = s.host.hostWr ++ [(a, es.zipIdx.flatMap (fun e => p8 (counterValue s e.2 e.1.kind e.1.index e.1.number)))] ∧
      r = p8 s.clock.ns ∧ u.obs = s.obs ∧ u.mem = s.mem ∧ u.ctxs = s.ctxs) := by
  refine does_of (exec_counterRead ..) fun f _ => ?_
  have hgo : ¬(es = [] ∨ 512 < es.length ∨ false = true) := by simp [he, hl]
  rw [if_neg hgo]
  exact ⟨rfl, rfl, rfl, rfl, rfl, rfl⟩

theorem traceSet_does {n m : Nat} {c : BitVec 8} {k : Word} {s2 : State} (h1 : 256 ≤ n) (h2 : n ≤ 16384) (hn : n % 256 = 0) (hm : m ≤ 1)
    (hc : c.toNat < 32) (hs : tracePages (freePages { untake s h { code := 0x0081, kind := .priv } with obs := { s.obs with pages := [] } }
      s.obs.pages) (16 * (n / 256 - 1)) = some s2) :
    Does (.traceSet h n m c k false) s h { code := 0x0081, kind := .priv } (fun u r => u.obs.region = [] ∧ u.obs.next = 0 ∧
      u.obs.capacity = 32768 * n ∧ u.obs.mode = m ∧ u.obs.cats = c ∧ u.obs.mask = k ∧ r = p8 (32768 * n) ∧ u.mem.cells = s.mem.cells) := by
  refine does_of (exec_traceSet ..) fun f hf => ?_
  rw [hf] at hs
  have hgo : ¬(n < 256 ∨ 16384 < n ∨ n % 256 ≠ 0 ∨ 1 < m ∨ 32 ≤ c.toNat ∨ false = true) := by
    simp only [Bool.false_eq_true, or_false]
    omega
  rw [if_neg hgo]
  dsimp only
  split
  · next e => exact absurd (hs.symm.trans e) nofun
  · next e =>
    cases hs.symm.trans e
    exact ⟨rfl, rfl, rfl, rfl, rfl, rfl, rfl, rfl, (tracePages_cells hs :)⟩

theorem traceStatus_does : Does (.traceStatus h) s h { code := 0x0082, kind := .debug } (fun u r =>
    r = p8 s.obs.next ++ p8 (traceOldest s.obs) ++ p8 (counter s 0 0 0xC1) ++ leBytes 1 s.obs.mode ∧ u.obs = s.obs ∧ u.mem = s.mem) :=
  does_of (exec_traceStatus ..) fun _ _ => ⟨rfl, rfl, rfl, rfl⟩

theorem traceRead_does {first n a : Nat} (h1 : 1 ≤ n) (h2 : n ≤ 0x100_0000) :
    Does (.traceRead h first n a false) s h { code := 0x0083, kind := .debug } (fun u r =>
      u.host.hostWr = s.host.hostWr ++ [(a, (traceFrom s.obs first n).flatMap traceBytes)] ∧ u.obs = s.obs ∧
      r = p4 (traceFrom s.obs first n).length ++ p4 0 ++ p8 (traceOldest s.obs)) := by
  refine does_of (exec_traceRead ..) fun f _ => ?_
  have hgo : ¬(n = 0 ∨ 0x100_0000 < n ∨ false = true) := by
    simp only [Bool.false_eq_true, or_false]
    omega
  rw [if_neg hgo]
  exact ⟨rfl, rfl, rfl, rfl⟩

theorem histSet_does {un src base fil : Nat} (hu : un < 32) (hs : src ≤ 7) (hb : base ≤ 33) (hf : filterOk src fil = true) :
    Does (.histSet h un src base fil false) s h { code := 0x0084, kind := .debug } (fun u _ =>
      histAt u un = { source := src, base := base, filter := fil } ∧ (∀ w, w ≠ un → histAt u w = histAt s w) ∧ u.mem = s.mem) := by
  refine does_of (exec_histSet ..) fun f _ => ?_
  have hgo : ¬(32 ≤ un ∨ 7 < src ∨ 33 < base ∨ false = true ∨ filterOk src fil = false) := by
    simp only [hf, Bool.false_eq_true, Bool.true_eq_false, or_false]
    omega
  rw [if_neg hgo]
  exact ⟨rfl, histAt_setHist_same .., fun w hw => histAt_setHist_other _ _ hw, rfl⟩

theorem histRead_does {un c a : Nat} (hu : un < 32) (hc : c ≤ 1) :
    Does (.histRead h un c a false) s h { code := 0x0085, kind := .debug } (fun u r =>
      u.host.hostWr = s.host.hostWr ++ [(a, histBlock (histAt s un))] ∧ r = p8 s.clock.ns ∧
      (∀ w, w ≠ un → histAt u w = histAt s w) ∧ histAt u un = (if c = 1 then
        { source := (histAt s un).source, base := (histAt s un).base, filter := (histAt s un).filter } else histAt s un)) := by
  refine does_of (exec_histRead ..) fun f _ => ?_
  have hgo : ¬(32 ≤ un ∨ 1 < c ∨ false = true) := by
    simp only [Bool.false_eq_true, or_false]
    omega
  rw [if_neg hgo]
  dsimp only
  split
  · exact ⟨rfl, rfl, rfl, fun w hw => histAt_setHist_other _ _ hw, histAt_setHist_same ..⟩
  · exact ⟨rfl, rfl, rfl, fun _ _ => rfl, rfl⟩

/-! ### Breakpoints, halts and single steps -/

theorem bpSet_does {n sl e len acc a : Nat} (hd : debugCore s h.ctx n = true) (hb : bpOk sl e len acc false = true) :
    Does (.bpSet h n sl e len acc a false) s h { code := 0x0088, kind := .debug, ctx := true } (fun u _ =>
      OnlyCore s { u with fw := s.fw } h.ctx n ∧
      (coreOf u h.ctx n).bps = put (coreOf s h.ctx n).bps sl ⟨e == 1, len, acc, a⟩) := by
  refine does_of (exec_bpSet ..) fun f _ => ?_
  have hd' : debugCore { s with fw := f } h.ctx n = true := hd
  rw [hd', if_neg (by decide), hb, if_neg (by decide)]
  exact ⟨rfl, onlyCore_setCore s _ _ _, congrArg Core.bps (coreOf_setCore ..)⟩

theorem debugHalt_does (hst : (ctxOf s h.ctx).st = .running ∨ (ctxOf s h.ctx).st = .runnable) (hh : (ctxOf s h.ctx).haltReq = 0) :
    Does (.debugHalt h) s h { code := 0x0089, kind := .debug, ctx := true } (fun u _ =>
      ctxOf u h.ctx = { ctxOf s h.ctx with
        haltReq := 3, watchBase := (ctxOf u h.ctx).watchBase, watchAt := (ctxOf u h.ctx).watchAt } ∧ OthersKept s u h.ctx ∧ u.mem = s.mem ∧
      ∀ n ∈ coresOf s.place (ctxOf s h.ctx).part, has s.cores (coreKey h.ctx n) = true → (coreOf u h.ctx n).halted = true) := by
  refine does_of (exec_debugHalt ..) fun f _ => ?_
  obtain ⟨hctx, hothers, hmem⟩ := askHalt_asks { s with fw := f } h.ctx
  have hask : Gives (done (askHalt { s with fw := f } h.ctx) []) (fun u _ => ctxOf u h.ctx = { ctxOf s h.ctx with
      haltReq := 3, watchBase := (ctxOf u h.ctx).watchBase, watchAt := (ctxOf u h.ctx).watchAt } ∧ OthersKept s u h.ctx ∧ u.mem = s.mem ∧
      ∀ n ∈ coresOf s.place (ctxOf s h.ctx).part, has s.cores (coreKey h.ctx n) = true → (coreOf u h.ctx n).halted = true) :=
    ⟨rfl, hctx, hothers, hmem, fun _ hn hhas => coreOf_askHalt (s := { s with fw := f }) hn hhas⟩
  have hst' : (ctxOf { s with fw := f } h.ctx).st = .running ∨ (ctxOf { s with fw := f } h.ctx).st = .runnable := hst
  have hh' : ¬(ctxOf { s with fw := f } h.ctx).haltReq ≠ 0 := not_not.2 hh
  split
  · rw [if_neg hh']
    exact hask
  · rw [if_neg hh']
    exact hask
  · next e => exact absurd (hst'.imp e.symm.trans e.symm.trans) (by decide)
  · next hrun hable _ => exact (hst'.elim hrun hable).elim

theorem debugResume_does (hst : (ctxOf s h.ctx).st = .halted) (hu : (partSt s.place (ctxOf s h.ctx).part).unavailable = false) :
    Does (.debugResume h) s h { code := 0x008A, kind := .debug, ctx := true } (fun u _ =>
      (ctxOf u h.ctx).haltReq = 0 ∧ ((ctxOf u h.ctx).st = .runnable ∨ (ctxOf u h.ctx).st = .running) ∧
      ∀ n ∈ coresOf s.place (ctxOf s h.ctx).part, has s.cores (coreKey h.ctx n) = true → (coreOf u h.ctx n).halted = false) := by
  refine does_of (exec_debugResume ..) fun f _ => ?_
  rw [ctxOf_fw, hst, if_neg (by decide), hu, if_neg (by decide)]
  obtain ⟨hreq, hturn, -⟩ := unhalt_runs (mapCores (watchTick { s with fw := f } h.ctx) h.ctx (fun _ c => resumeCore c)) h.ctx
  refine ⟨rfl, hreq, hturn, fun n hn hhas => ?_⟩
  have hticks := Stays.watchTick { s with fw := f } h.ctx
  rw [done, coreOf_unhalt, coreOf_mapCores]
  · rfl
  · rw [watchTick_place, (hticks.ctxs h.ctx).part]
    exact hn
  · rw [hticks.cores]
    exact hhas

theorem debugStep_does {n : Nat} (hst : (ctxOf s h.ctx).st = .halted) (hu : (partSt s.place (ctxOf s h.ctx).part).unavailable = false)
    (hd : debugCore s h.ctx n = true) (hact : (coreOf s h.ctx n).active = true) (hend : (coreOf s h.ctx n).ended = false) :
    Does (.debugStep h n false) s h { code := 0x008B, kind := .debug, ctx := true } (fun u _ =>
      (coreOf u h.ctx n).oneStep = true ∧ (coreOf u h.ctx n).halted = false ∧
      ((ctxOf u h.ctx).st = .runnable ∨ (ctxOf u h.ctx).st = .running) ∧
      ∀ q m, coreKey q m ≠ coreKey h.ctx n → coreOf u q m = coreOf s q m) := by
  refine does_of (exec_debugStep ..) fun f _ => ?_
  have hgo : ¬(debugCore { s with fw := f } h.ctx n = false ∨ (coreOf { s with fw := f } h.ctx n).active = false ∨
      (coreOf { s with fw := f } h.ctx n).ended = true) := by
    simpa using ⟨hd, hact, hend⟩
  have hst' : ¬(ctxOf { s with fw := f } h.ctx).st ≠ .halted := by simpa using hst
  rw [if_neg (by decide)]
  dsimp only
  rw [if_neg hst', if_neg hgo, ctxOf_fw, hu, if_neg (by decide)]
  obtain ⟨-, hturn, -⟩ := unhalt_runs (setCore (watchTick { s with fw := f } h.ctx) h.ctx n
    { resumeCore (coreOf { s with fw := f } h.ctx n) with oneStep := true, skipBp := true }) h.ctx
  refine ⟨rfl, ?_, ?_, hturn, fun q m hne => ?_⟩
  · rw [done, coreOf_unhalt, coreOf_setCore]
  · rw [done, coreOf_unhalt, coreOf_setCore]
    rfl
  · rw [done, coreOf_unhalt, coreOf_setCore_other _ _ _ _ _ _ hne, coreOf, (Stays.watchTick ..).cores]
    rfl

theorem regWrite_does {n r : Nat} {v : Word} (hst : (ctxOf s h.ctx).st = .halted) (hd : debugCore s h.ctx n = true) (h1 : 1 ≤ r) (h2 : r ≤ 31) :
    Does (.regWrite h n r v false) s h { code := 0x008D, kind := .debug, ctx := true } (fun u _ =>
      OnlyCore s { u with fw := s.fw } h.ctx n ∧
      ∀ q, sreg (coreOf u h.ctx n) q = if q = r then v else sreg (coreOf s h.ctx n) q) := by
  refine does_of (exec_regWrite ..) fun f _ => ?_
  have hd' : debugCore { s with fw := f } h.ctx n = true := hd
  have hr : ¬(r = 0 ∨ 31 < r ∨ false = true) := by
    simp only [Bool.false_eq_true, or_false]
    omega
  rw [ctxOf_fw, hst, if_neg (by decide), hd', if_neg (by decide), if_neg hr]
  refine ⟨rfl, onlyCore_setCore s _ _ _, fun q => ?_⟩
  rw [done, coreOf_setCore]
  unfold sreg
  by_cases hq : q = r
  · subst hq
    rw [if_pos rfl, if_neg (by omega), look_put_same]
  · rw [if_neg hq, look_put_other _ _ _ _ _ hq]
    rfl

theorem stateRead_does {n a : Nat} {p : BitVec 8} (hst : (ctxOf s h.ctx).st = .halted) (hd : debugCore s h.ctx n = true) (hp : p.toNat < 8) :
    Does (.stateRead h n p a false) s h { code := 0x008C, kind := .debug, ctx := true } (fun u _ => u.mem = s.mem ∧ u.ctxs = s.ctxs ∧
      u.cores = s.cores ∧ (p = 4 → u.host.hostWr = s.host.hostWr ++ [(a, imageBlock s h.ctx n)])) := by
  refine does_of (exec_stateRead ..) fun f _ => ?_
  have hd' : debugCore { s with fw := f } h.ctx n = true := hd
  have hp' : ¬(8 ≤ p.toNat ∨ false = true) := by simpa using hp
  have hst' : ¬(ctxOf { s with fw := f } h.ctx).st ≠ .halted := not_not.2 hst
  dsimp only
  rw [if_neg hst', hd', if_neg (by decide), if_neg hp']
  refine ⟨rfl, rfl, rfl, rfl, fun h4 => ?_⟩
  subst h4
  have h0 : (4 : BitVec 8).getLsbD 0 = false := rfl
  have h1 : (4 : BitVec 8).getLsbD 1 = false := rfl
  have h2 : (4 : BitVec 8).getLsbD 2 = true := rfl
  rw [h0, h1, h2, if_neg Bool.false_ne_true, if_neg Bool.false_ne_true, if_pos rfl, List.append_nil, List.nil_append]
  simp only [done, drawn, hostWrite, imageBlock, ctxOf_fw]

end Debug

/-- Settles O50: the reads write their block and keep what they read, and a halt, a step or a write goes to the cores it names. -/
theorem debugMessages : Obligations.DebugMessages := by
  unfold Obligations.DebugMessages
  intro s h
  refine ⟨fun _ _ => counterRead_does, ?_, traceStatus_does, ?_, ?_, ?_, ?_, debugHalt_does, fun hst hu => ⟨debugResume_does hst hu, ?_, ?_, ?_⟩⟩
  · exact fun _ _ _ _ _ => traceSet_does
  · exact fun _ _ _ => traceRead_does
  · exact fun _ _ _ _ => histSet_does
  · exact fun _ _ _ => histRead_does
  · exact fun _ _ _ _ _ _ => bpSet_does
  · exact fun _ => debugStep_does hst hu
  · exact fun _ _ _ => regWrite_does hst
  · exact fun _ _ _ => stateRead_does hst

end Sys2Proof.Machine


/-! ## The halt of a job and its gather -/

namespace Sys2Proof.Machine

/-! ### Messages of firmware to other nodes -/

namespace OnlySends

theorem fwSend (s : State) (node kind : Nat) (fields : List Nat) : OnlySends s (fwSend s node kind fields) := of_net ..

theorem fwSendAll (s : State) (nodes : List Nat) (kind : Nat) (fields : List Nat) : OnlySends s (fwSendAll s nodes kind fields) :=
  foldl (fun s n => fwSend s n kind fields) nodes s

theorem readMirror (s : State) (k node slot off len base : Nat) : OnlySends s (readMirror s k node slot off len base) :=
  (enqueue ..).trans (of_net _ _)

end OnlySends

/-! ### The beginning of a restore -/

/-- Between two states no byte and no core differs, nor any context but one, and of that one not the restart. -/
structure KeepsRestart (s t : State) (k : Nat) : Prop where
  mem : t.mem = s.mem
  cores : t.cores = s.cores
  others : OthersKept s t k
  restart : (ctxOf t k).restart = (ctxOf s k).restart

namespace KeepsRestart
variable {s t u : State} {k : Nat}

theorem of_sends (h : OnlySends s t) (k : Nat) : KeepsRestart s t k := by
  obtain ⟨_, _, rfl⟩ := h
  exact ⟨rfl, rfl, fun _ _ => rfl, rfl⟩

theorem trans (h : KeepsRestart s t k) (h' : KeepsRestart t u k) : KeepsRestart s u k :=
  ⟨h'.mem.trans h.mem, h'.cores.trans h.cores, fun j hj => (h'.others j hj).trans (h.others j hj), h'.restart.trans h.restart⟩

theorem setCtx {x : Ctx} (hx : x.restart = (ctxOf s k).restart) : KeepsRestart s (setCtx s k x) k :=
  ⟨rfl, rfl, othersKept_setCtx s k x, (congrArg Ctx.restart (ctxOf_setCtx ..)).trans hx⟩

theorem fetchTarget (s : State) (k target : Nat) : KeepsRestart s (fetchTarget s k target) k := by
  have hrefl : KeepsRestart s s k := of_sends (.refl s) k
  unfold Machine.fetchTarget
  dsimp only
  split
  · exact hrefl
  split
  · exact hrefl
  split
  · exact of_sends (.foldl (fun s g => .readMirror ..) _ s) k
  split
  · exact hrefl
  · refine .trans (setCtx (x := { ctxOf s k with ckpt := { (ctxOf s k).ckpt with slots := [⟨target, 0, [], true⟩] } }) rfl) ?_
    exact of_sends (.foldl (fun s i => .readMirror ..) _ _) k

end KeepsRestart

/-- RESTORE of an epoch other than 0 begins the restore of it, and the rest of the device stays. -/
theorem beginRestore_begins (s : State) (k : Nat) {target : Nat} (h : target ≠ 0) :
    (ctxOf (beginRestore s k target) k).restart =
      { (ctxOf s k).restart with phase := 3, target := target, restoreAt := some s.clock.ns } ∧
    OthersKept s (beginRestore s k target) k ∧ (beginRestore s k target).mem = s.mem ∧ (beginRestore s k target).cores = s.cores := by
  unfold beginRestore
  extract_lets x s1
  have hsent : OnlySends s s1 := .fwSendAll ..
  clear_value s1
  rw [if_neg h]
  obtain ⟨hmem, hcores, hothers, hrestart⟩ := (KeepsRestart.of_sends hsent k)
  obtain ⟨hmem', hcores', hothers', hrestart'⟩ := KeepsRestart.fetchTarget
    (setCtx s1 k { x with restart := { x.restart with phase := 3, target := target, restoreAt := some s.clock.ns } }) k target
  refine ⟨hrestart'.trans (congrArg Ctx.restart (ctxOf_setCtx ..)), fun j hj => ?_, hmem'.trans hmem, hcores'.trans hcores⟩
  exact (hothers' j hj).trans ((ctxOf_setCtx_other _ _ _ _ hj).trans (hothers j hj))

/-! ### The end of a job -/

theorem silent_endLaunch {s : State} (hu : s.mem.upsets = []) (k status : Nat) : Silent s (endLaunch s k status) := by
  unfold endLaunch
  extract_lets x ended s1 s2 _ s3 s4
  have h1 : Silent s s1 := by
    unfold s1
    split_ifs
    · exact .deschedule hu _
    · exact .refl hu
  have h2 : Silent s1 s2 := .trans (t := releaseSpill s1 k) (.of_same h1.upsets rfl rfl) (.mapCores (s := releaseSpill s1 k) h1.upsets k _)
  have h3 : Silent s2 s3 := .setCtx h2.upsets rfl
  have h4 : Silent s3 s4 := .of_same h3.upsets rfl rfl
  clear_value s1 s2 s3 s4
  have h5 := Silent.changeCtx h4.upsets k .idle 0
  exact (((h1.trans h2).trans h3).trans h4).trans (h5.trans (.schedule h5.upsets _))

theorem endLaunch_phase (s : State) (k status : Nat) : (ctxOf (endLaunch s k status) k).restart.phase = 0 := by
  unfold endLaunch
  extract_lets x ended s1 s2 _ s3 s4
  have h4 : (ctxOf s4 k).restart.phase = 0 := congrArg (fun c : Ctx => c.restart.phase) (ctxOf_setCtx s2 k _)
  clear_value s4
  have hnoted := (Noted.changeCtx s4 k .idle 0).trans (.schedule _ x.part)
  exact (congrArg (fun c : Ctx => c.restart.phase) (hnoted.ctx k)).trans h4

/-- A job that cannot go on: its restart has ended, and the last event says so. -/
theorem unrecoverable_ends {s : State} (hu : s.mem.upsets = []) (k cause : Nat) :
    (ctxOf (unrecoverable s k cause) k).restart.phase = 0 ∧
    ((unrecoverable s k cause).obs.log.getLast?.map (fun e => (e.code, e.ctx))) = some (0x0818, k) := by
  unfold unrecoverable
  extract_lets x s1 _ s2 s3
  have hlog : s2.obs.log.getLast?.map (fun e => (e.code, e.ctx)) = some (0x0818, k) := congrArg (Option.map _) (raise_last ..)
  have hphase : (ctxOf s2 k).restart.phase = 0 := congrArg (fun c : Ctx => c.restart.phase) (ctxOf_setCtx s1 k _)
  have hu2 : s2.mem.upsets = [] := hu
  have h3 : Silent s2 s3 ∧ (ctxOf s3 k).restart.phase = 0 := by
    unfold s3
    split_ifs
    · exact ⟨silent_endLaunch hu2 .., endLaunch_phase ..⟩
    · exact ⟨.changeCtx hu2 .., (congrArg (fun c : Ctx => c.restart.phase) ((Noted.changeCtx s2 k .idle 0).ctx k)).trans hphase⟩
  clear_value s2 s3
  obtain ⟨hsilent, hended⟩ := h3
  rw [← hsilent.log] at hlog
  exact ⟨hended, hlog⟩

/-! ### The halt -/

theorem haltCtx_restarting (s : State) (k : Nat) : (ctxOf (haltCtx s k) k).st = .restarting := by
  unfold haltCtx
  extract_lets s1 x s2 s3 s4 _ s5
  have h := (schedule_turn (changeCtx s5 k .restarting 0) x.part).st k
  rw [ctxOf_changeCtx] at h
  exact h.elim id fun hr => nomatch hr.1

theorem beginHalt_halts (s : State) (k epoch origin cause : Nat) (sender : Option Nat) :
    (ctxOf (beginHalt s k epoch origin cause sender) k).epoch = epoch ∧
    (ctxOf (beginHalt s k epoch origin cause sender) k).restart.phase = 1 ∧
    (ctxOf (beginHalt s k epoch origin cause sender) k).restart.began = s.clock.ns ∧
    (ctxOf (beginHalt s k epoch origin cause sender) k).st = .restarting := by
  unfold beginHalt
  extract_lets x s1 s2 _ s3 near
  have hst : (ctxOf s2 k).st = .restarting := haltCtx_restarting s1 k
  clear_value s2
  have h3 : ctxOf s3 k = { ctxOf s2 k with
      epoch := epoch
      restart := { phase := 1, began := s.clock.ns, history := restartTimes x s.clock.ns, merged := (ctxOf s2 k).restart.merged } } :=
    ctxOf_setCtx ..
  clear_value s3
  obtain ⟨_, _, hsent⟩ := OnlySends.fwSendAll s3 (near.filter (fun n => sender != some n)) fwJobHalt [x.jobId, epoch, origin, cause]
  have hk : ctxOf (fwSendAll s3 (near.filter (fun n => sender != some n)) fwJobHalt [x.jobId, epoch, origin, cause]) k = ctxOf s3 k := by
    rw [hsent]
    rfl
  rw [hk, h3]
  exact ⟨rfl, rfl, rfl, hst⟩

section Halt
variable {s : State} {k : Nat}

theorem jobHalt_halts {h : Handling} (hh : s.obs.handling.find? (fun h => h.cls == clsJ && h.ctx == k && h.code != 0x0811) = some h)
    (he : ctxExists s k = true) (hp : (ctxOf s k).restart.phase = 0) : Completes (.jobHalt k) s (fun t =>
      (ctxOf t k).epoch = ((ctxOf s k).epoch + 1) % 0x1_0000 ∧ (ctxOf t k).restart.phase = 1 ∧
      (ctxOf t k).restart.began = s.clock.ns ∧ (ctxOf t k).st = .restarting) := by
  have hgo : ¬(ctxExists s k = false ∨ (ctxOf s k).restart.phase ≠ 0) := by simp [he, hp]
  refine ⟨_, (exec_jobHalt ..).trans ?_, beginHalt_halts s k _ (ownNode0 s) h.seq none⟩
  unfold execJobHalt
  dsimp only
  split
  · next hn => cases hh.symm.trans hn
  · next q hq =>
    cases hh.symm.trans hq
    exact if_neg hgo

theorem jobHaltReceive_halts {job e o c n : Nat} (hj : jobCtx s job = some k) (he : 0 < gen16 e (ctxOf s k).epoch) :
    Completes (.jobHaltReceive job e o c n) s (fun t =>
      (ctxOf t k).epoch = e % 0x1_0000 ∧ (ctxOf t k).restart.phase = 1 ∧ (ctxOf t k).st = .restarting) := by
  obtain ⟨hepoch, hphase, -, hst⟩ := beginHalt_halts s k (e % 0x1_0000) o c (some n)
  refine ⟨_, (exec_jobHaltReceive ..).trans ?_, hepoch, hphase, hst⟩
  unfold execJobHaltReceive
  rw [hj]
  exact if_neg (not_le.2 he)

theorem haltComplete_ends (hp : (ctxOf s k).restart.phase = 1) (hl : (ctxOf s k).ckpt.limit < (ctxOf s k).restart.history.length)
    (hu : s.mem.upsets = []) : Completes (.haltComplete k) s (fun t =>
      (ctxOf t k).restart.phase = 0 ∧ (t.obs.log.getLast?.map (fun e => (e.code, e.ctx))) = some (0x0818, k)) :=
  ⟨_, (exec_haltComplete ..).trans ((if_neg (not_not.2 hp)).trans (if_pos hl)), unrecoverable_ends hu ..⟩

/-- A device that is its whole job is the coordinator of it, and waits for no one. -/
theorem whole_job {t : State} (hg : (ctxOf t k).grid = none) (ha : (ctxOf t k).restart.absent = []) :
    isRoot t k = true ∧ (uncovered t k).isEmpty = true := by
  simp [isRoot, rootNode, uncovered, jobNodes, hg, ha]

/-- The gather of a device that is its whole job ends at once with its own newest epoch. -/
theorem tryAck_whole {t : State} (hp : (ctxOf t k).restart.phase = 2) (hs : (ctxOf t k).restart.ackSent = false)
    (hg : (ctxOf t k).grid = none) (ha : (ctxOf t k).restart.absent = []) (hk : (ctxOf t k).restart.acks = []) :
    tryAck t k = beginRestore t k (ownEpoch (ctxOf t k)) := by
  obtain ⟨hroot, hcov⟩ := whole_job hg ha
  have hepoch : gatherEpoch (ctxOf t k) = ownEpoch (ctxOf t k) := by
    rw [gatherEpoch, hk]
    rfl
  have hgo : ¬((ctxOf t k).restart.phase ≠ 2 ∨ (ctxOf t k).restart.ackSent = true) := by simp [hp, hs]
  rw [tryAck, if_neg hgo, if_pos hroot, if_pos hcov, hepoch]

theorem haltComplete_restores {e : Nat} (hp : (ctxOf s k).restart.phase = 1)
    (hl : (ctxOf s k).restart.history.length ≤ (ctxOf s k).ckpt.limit) (hg : (ctxOf s k).grid = none)
    (ha : (ctxOf s k).restart.absent = []) (hk : (ctxOf s k).restart.acks = []) (hs : (ctxOf s k).restart.ackSent = false)
    (hc : (ctxOf s k).ckpt.committed = some e) (he : e ≠ 0) : Completes (.haltComplete k) s (fun t => (ctxOf t k).restart.phase = 3 ∧
      (ctxOf t k).restart.target = e ∧ (ctxOf t k).restart.restoreAt = some s.clock.ns ∧ t.mem = s.mem ∧ t.cores = s.cores) := by
  have hexec := (exec_haltComplete k s).trans ((if_neg (not_not.2 hp)).trans (if_neg (Nat.not_lt.2 hl)))
  refine ⟨_, hexec, ?_⟩
  generalize hs1 : setCtx s k { ctxOf s k with restart := { (ctxOf s k).restart with phase := 2 } } = s1
  have hx : ctxOf s1 k = { ctxOf s k with restart := { (ctxOf s k).restart with phase := 2 } } := by rw [← hs1, ctxOf_setCtx]
  have hown : ownEpoch (ctxOf s1 k) = e := by
    rw [hx, ownEpoch, hc]
    rfl
  have hback : s1.mem = s.mem ∧ s1.cores = s.cores ∧ s1.clock = s.clock := by
    rw [← hs1]
    exact ⟨rfl, rfl, rfl⟩
  obtain ⟨hmem, hcores, hclock⟩ := hback
  rw [tryAck_whole (by rw [hx]) (by rw [hx]; exact hs) (by rw [hx]; exact hg) (by rw [hx]; exact ha) (by rw [hx]; exact hk), hown]
  obtain ⟨hrestart, -, hmem', hcores'⟩ := beginRestore_begins s1 k he
  rw [hrestart, hclock]
  exact ⟨rfl, rfl, rfl, hmem'.trans hmem, hcores'.trans hcores⟩

/-! ### The gather -/

/-- An answer taken before the halt is complete is only kept. -/
theorem tryAck_early {t : State} (h : (ctxOf t k).restart.phase = 1) : tryAck t k = t := if_pos (.inl (by rw [h]; decide))

theorem mem_foldl_addNat {l : List Nat} {m : List Nat} {a : Nat} (h : a ∈ l ∨ a ∈ m) : a ∈ l.foldl addNat m := by
  induction l generalizing m with
  | nil => exact h.resolve_left List.not_mem_nil
  | cons b l ih =>
    refine ih ?_
    rcases h with h | h
    · rcases List.mem_cons.1 h with rfl | h
      · exact .inr (mem_addNat.2 (.inl rfl))
      · exact .inl h
    · exact .inr (mem_addNat.2 (.inr h))

theorem haltAckReceive_keeps {job n e : Nat} {rd : Option Nat} {ab : List Nat} (hj : jobCtx s job = some k)
    (hp : (ctxOf s k).restart.phase = 1) : Completes (.haltAckReceive job n e rd ab) s (fun t =>
      (ctxOf t k).restart.acks = (ctxOf s k).restart.acks.filter (fun a => a.node != n) ++ [⟨n, e, rd⟩] ∧
      (∀ a ∈ ab, a ∈ (ctxOf t k).restart.absent) ∧ OthersKept s t k ∧ t.mem = s.mem) := by
  have hphase : 1 ≤ (ctxOf s k).restart.phase ∧ (ctxOf s k).restart.phase ≤ 2 := by omega
  generalize hs1 : setCtx s k { ctxOf s k with restart := { (ctxOf s k).restart with
    acks := (ctxOf s k).restart.acks.filter (fun a => a.node != n) ++ [⟨n, e, rd⟩]
    absent := ab.foldl addNat (ctxOf s k).restart.absent } } = s1
  have hexec : exec (.haltAckReceive job n e rd ab) s = .next (tryAck s1 k) := by
    rw [exec_haltAckReceive, execHaltAckReceive, hj, ← hs1]
    exact if_pos hphase
  have hx : ctxOf s1 k = { ctxOf s k with restart := { (ctxOf s k).restart with
      acks := (ctxOf s k).restart.acks.filter (fun a => a.node != n) ++ [⟨n, e, rd⟩]
      absent := ab.foldl addNat (ctxOf s k).restart.absent } } := by rw [← hs1, ctxOf_setCtx]
  refine ⟨s1, hexec.trans (congrArg _ (tryAck_early (by rw [hx]; exact hp))), by rw [hx], fun a ha => ?_, ?_, ?_⟩
  · rw [hx]
    exact mem_foldl_addNat (.inl ha)
  · rw [← hs1]
    exact othersKept_setCtx s k _
  · rw [← hs1]
    rfl

theorem haltAckTimeout_names {n : Nat} (hp : (ctxOf s k).restart.phase = 1) (hn : (myKids s k).elem n = true)
    (ha : answered (ctxOf s k) n = false) (ht : (ctxOf s k).restart.began + 50000000 ≤ s.clock.ns) :
    Completes (.haltAckTimeout k n) s (fun t => n ∈ (ctxOf t k).restart.absent ∧ OthersKept s t k ∧ t.mem = s.mem) := by
  have hgo : 1 ≤ (ctxOf s k).restart.phase ∧ (ctxOf s k).restart.phase ≤ 2 ∧ (myKids s k).elem n = true ∧ answered (ctxOf s k) n = false ∧
      (ctxOf s k).restart.began + 50000000 ≤ s.clock.ns := ⟨by omega, by omega, hn, ha, ht⟩
  refine ⟨_, (exec_haltAckTimeout ..).trans (if_pos hgo), ?_⟩
  unfold nameAbsent
  extract_lets x _ s1
  have hx : ctxOf s1 k = { ctxOf s k with restart := { (ctxOf s k).restart with absent := addNat (ctxOf s k).restart.absent n } } :=
    ctxOf_setCtx ..
  have hothers : OthersKept s s1 k := othersKept_setCtx s k _
  have hmem : s1.mem = s.mem := rfl
  clear_value s1
  generalize hs2 : fwSendAll s1 (kidsOf s k n) fwJobHalt [x.jobId, x.epoch, ownNode0 s, 0] = s2
  obtain ⟨hmem', -, hothers', hrestart⟩ := KeepsRestart.of_sends (hs2 ▸ OnlySends.fwSendAll ..) k (s := s1) (t := s2)
  rw [hx] at hrestart
  rw [tryAck_early (by rw [hrestart]; exact hp)]
  dsimp only
  rw [hrestart]
  exact ⟨mem_addNat.2 (.inl rfl), fun j hj => (hothers' j hj).trans (hothers j hj), hmem'.trans hmem⟩

theorem gatherTimeout_restores (hp : (ctxOf s k).restart.phase = 2) (hr : isRoot s k = true)
    (ht : (ctxOf s k).restart.began + 200000000 ≤ s.clock.ns) (he : gatherEpoch (ctxOf s k) ≠ 0) :
    Completes (.gatherTimeout k) s (fun t => (ctxOf t k).restart.phase = 3 ∧
      (ctxOf t k).restart.target = gatherEpoch (ctxOf s k) ∧ OthersKept s t k ∧ t.mem = s.mem) := by
  have hgo : ¬((ctxOf s k).restart.phase ≠ 2 ∨ isRoot s k = false ∨ s.clock.ns < (ctxOf s k).restart.began + 200000000) := by
    rw [hp, hr]
    simp only [ne_eq, not_true_eq_false, Bool.true_eq_false, false_or]
    omega
  refine ⟨_, (exec_gatherTimeout ..).trans (if_neg hgo), ?_⟩
  obtain ⟨hrestart, hothers, hmem, -⟩ := beginRestore_begins
    (setCtx s k { ctxOf s k with restart := { (ctxOf s k).restart with absent := (uncovered s k).foldl addNat (ctxOf s k).restart.absent } }) k he
  refine ⟨congrArg Restart.phase hrestart, congrArg Restart.target hrestart, fun j hj => ?_, hmem⟩
  exact (hothers j hj).trans (ctxOf_setCtx_other _ _ _ _ hj)

end Halt

/-- Settles O43: whatever a halt discards, it leaves the context RESTARTING in its new epoch, and a gather that ends begins the
restore of the epoch gathered. -/
theorem jobHaltsAndGathers : Obligations.JobHaltsAndGathers := by
  unfold Obligations.JobHaltsAndGathers
  intro s k
  exact ⟨fun _ => jobHalt_halts, fun _ _ _ _ _ => jobHaltReceive_halts, haltComplete_ends, fun _ => haltComplete_restores,
    fun _ _ _ _ _ => haltAckReceive_keeps, fun _ => haltAckTimeout_names, gatherTimeout_restores⟩

end Sys2Proof.Machine


/-! ## The restore of a job and its end -/

namespace Sys2Proof.Machine

/-! ### What a restart keeps of its context -/

/-- Two states of a context with the same checkpoint, step, trusses, phase of a restart and poison. -/
structure SameJob (x y : Ctx) : Prop where
  ckpt : y.ckpt = x.ckpt
  stepNo : y.stepNo = x.stepNo
  trusses : y.trusses = x.trusses
  phase : y.restart.phase = x.restart.phase
  poison : y.statePoison = x.statePoison

theorem SameJob.trans {x y z : Ctx} (h : SameJob x y) (h' : SameJob y z) : SameJob x z :=
  ⟨h'.ckpt.trans h.ckpt, h'.stepNo.trans h.stepNo, h'.trusses.trans h.trusses, h'.phase.trans h.phase, h'.poison.trans h.poison⟩

theorem OnlyNoted.sameJob {x y : Ctx} (h : OnlyNoted x y) (hp : y.statePoison = x.statePoison) : SameJob x y :=
  ⟨(congrArg Ctx.ckpt h :), (congrArg Ctx.stepNo h :), (congrArg Ctx.trusses h :), (congrArg (fun c : Ctx => c.restart.phase) h :), hp⟩

theorem raise_statePoison (s : State) (code cls k u : Nat) (p : List Byte) (j : Nat) :
    (ctxOf (raise s code cls k u p) j).statePoison = (ctxOf s j).statePoison := by
  obtain ⟨x, hput, hx⟩ : ∃ x, ((raise s code cls k u p).ctxs = put s.ctxs k x ∨
      (raise s code cls k u p).ctxs = s.ctxs) ∧ x.statePoison = (ctxOf s k).statePoison := by
    unfold raise raiseOn
    dsimp only
    split
    · exact ⟨_, .inl rfl, rfl⟩
    · split
      · exact ⟨_, .inl rfl, rfl⟩
      · exact ⟨_, .inr rfl, rfl⟩
  rcases hput with h | h
  · rw [ctxOf, h]
    by_cases hj : j = k
    · rw [hj, look_put_same, hx]
    · rw [look_put_other _ _ _ _ _ hj, ctxOf]
  · rw [ctxOf, h, ctxOf]

theorem raise_sameJob (s : State) (code cls k u : Nat) (p : List Byte) (j : Nat) :
    SameJob (ctxOf s j) (ctxOf (raise s code cls k u p) j) :=
  ((Noted.raise s code cls k u p).ctx j).sameJob (raise_statePoison ..)

/-- A launch started again raises nothing and keeps the job of its context. -/
theorem startLaunch_keeps {s : State} (hu : s.mem.upsets = []) (k : Nat) (l : List LaunchEntry) :
    SameJob (ctxOf s k) (ctxOf (startLaunch s k l) k) ∧ (startLaunch s k l).obs.log = s.obs.log := by
  unfold startLaunch
  extract_lets now s1 _ s2
  have h1 : Silent s s1 := .foldl hu (f := fun t (e : LaunchEntry × Nat) => setCore t k e.1.lcore (entryCore s k e.1 e.2 l.length))
    (fun t e ht => .of_same ht rfl rfl) _
  have hx1 : s1.ctxs = s.ctxs := List.foldlRecOn (motive := fun t : State => t.ctxs = s.ctxs) _ _ rfl fun _ ht _ _ => ht
  have h2 : Silent s1 s2 := .setCtx h1.upsets rfl
  have hx2 : SameJob (ctxOf s k) (ctxOf s2 k) := by
    have hx : ctxOf s1 k = ctxOf s k := by rw [ctxOf, hx1, ctxOf]
    rw [ctxOf_setCtx, ← hx]
    exact ⟨rfl, rfl, rfl, rfl, rfl⟩
  clear_value s1 s2
  have h3 := Silent.changeCtx h2.upsets k .runnable 0
  have hrun := h3.trans (.schedule h3.upsets (ctxOf s2 k).part)
  have hnoted := (Noted.changeCtx s2 k .runnable 0).trans (.schedule _ (ctxOf s2 k).part)
  exact ⟨hx2.trans ((hnoted.ctx k).sameJob (hrun.poison k)), hrun.log.trans (h2.log.trans h1.log)⟩

/-! ### RESUME -/

theorem clearMems_upsets {m : Mem} (hu : m.upsets = []) (a : Nat → Nat) (n : Nat) (l : List Nat) :
    (l.foldl (fun m o => clearMem m (a o) n) m).upsets = [] :=
  List.foldlRecOn (motive := fun m : Mem => m.upsets = []) _ _ hu fun m hm o _ => by
    simp [clearMem, upsetsAfter, hm]

/-- RESUME: the restart is over, the step is the epoch restored, the trusses are at generation 0, and JOB_RESUMED says so. -/
theorem resumeHere_resumes {s : State} (hu : s.mem.upsets = []) (k : Nat) :
    SameJob { ctxOf s k with
      stepNo := (ctxOf s k).restart.target, trusses := mapTbl (ctxOf s k).trusses (fun _ t => resetTruss t),
      restart := { history := (ctxOf s k).restart.history } } (ctxOf (resumeHere s k) k) ∧
    (resumeHere s k).obs.log.getLast?.map (fun e => (e.code, e.ctx)) = some (0x0812, k) := by
  unfold resumeHere
  extract_lets x r s1 s2 m s3 s4
  have hx1 : SameJob { ctxOf s k with
      stepNo := (ctxOf s k).restart.target, trusses := mapTbl (ctxOf s k).trusses (fun _ t => resetTruss t),
      restart := { history := (ctxOf s k).restart.history } } (ctxOf s1 k) := by
    rw [ctxOf_setCtx]
    exact ⟨rfl, rfl, rfl, rfl, rfl⟩
  have hx3 : ctxOf s3 k = ctxOf s1 k := ctxOf_mapCores ..
  have hm : m.upsets = [] := by
    refine List.foldlRecOn (motive := fun m : Mem => m.upsets = []) _ _ ?_ fun m hm n _ => clearMems_upsets hm _ _ _
    rw [mapCores_mem]
    exact hu
  have hu4 : s4.mem.upsets = [] := hm
  have hx4 : SameJob (ctxOf s3 k) (ctxOf s4 k) := raise_sameJob ..
  have hlog4 : s4.obs.log.getLast?.map (fun e => (e.code, e.ctx)) = some (0x0812, k) := congrArg (Option.map _) (raise_last ..)
  rw [hx3] at hx4
  have hx := hx1.trans hx4
  clear_value s1 s2 m s3 s4
  split_ifs
  · refine ⟨hx.trans (((Noted.changeCtx s4 k .idle 0).ctx k).sameJob ?_), hlog4⟩
    rw [ctxOf_changeCtx]
  · obtain ⟨hjob, hlog⟩ := startLaunch_keeps hu4 k x.launch
    rw [← hlog] at hlog4
    exact ⟨hx.trans hjob, hlog4⟩

/-- RESTORE_DONE, or RESUME of a coordinator: the epoch restored stays the committed one, and the copy is over. -/
theorem tryDone_keeps {s : State} (hu : s.mem.upsets = []) {k : Nat} (hp : (ctxOf s k).restart.phase = 4) :
    (ctxOf (tryDone s k) k).ckpt = (ctxOf s k).ckpt ∧ (ctxOf (tryDone s k) k).statePoison = (ctxOf s k).statePoison ∧
    (ctxOf (tryDone s k) k).restart.phase ≠ 3 := by
  have hstay : (ctxOf s k).ckpt = (ctxOf s k).ckpt ∧ (ctxOf s k).statePoison = (ctxOf s k).statePoison ∧ (ctxOf s k).restart.phase ≠ 3 :=
    ⟨rfl, rfl, by rw [hp]; decide⟩
  unfold tryDone
  extract_lets x kids
  split_ifs
  · exact hstay
  · generalize hs1 : fwSendAll s kids fwResume [x.jobId] = s1
    obtain ⟨_, _, hsent⟩ := hs1 ▸ OnlySends.fwSendAll s kids fwResume [x.jobId]
    have hx : ctxOf s1 k = ctxOf s k := by rw [hsent]; rfl
    have hu1 : s1.mem.upsets = [] := by rw [hsent]; exact hu
    obtain ⟨⟨hckpt, -, -, hphase, hpoison⟩, -⟩ := resumeHere_resumes hu1 k
    rw [hckpt, hpoison, hphase, hx]
    exact ⟨rfl, rfl, Nat.zero_ne_add_one 2⟩
  · split
    · exact hstay
    · exact hstay

/-! ### The copy of the target -/

/-- A piece of a slot copied back into the state ranges, its poison cleared. -/
def copyPieceBack (k : Nat) (x : Ctx) (slot : Nat) (s : State) (e : Nat × Nat) : State :=
  let d := dpaOf x e.1
  let t := copyDpa s k (slotAt x slot e.2) d 4096
  { t with mem := { t.mem with poison := t.mem.poison.filter (fun g => !(decide (d / 64 ≤ g) && decide (g < d / 64 + 64))) } }

theorem Noted.copyFromSlot (s : State) (k slot : Nat) : Noted s (copyFromSlot s k slot) :=
  foldl (f := copyPieceBack k (ctxOf s k) slot) (fun t e => .trans (copyDpa t k (slotAt (ctxOf s k) slot e.2) (dpaOf (ctxOf s k) e.1) 4096) (of_ctxs rfl)) _ s

theorem Noted.restoreData {s t : State} {k : Nat} (h : restoreData s k = some t) : Noted s t := by
  unfold Machine.restoreData at h
  dsimp only at h
  split at h
  · split_ifs at h
    cases h
    exact copyFromSlot ..
  · cases h

section Restore
variable {s : State} {k : Nat}

theorem restore_begins {job e : Nat} (hj : jobCtx s job = some k) (hp : (ctxOf s k).restart.phase = 2) (he : e ≠ 0) :
    Completes (.restore job e) s (fun t => (ctxOf t k).restart.phase = 3 ∧ (ctxOf t k).restart.target = e ∧
      (ctxOf t k).restart.restoreAt = some s.clock.ns ∧ OthersKept s t k ∧ t.mem = s.mem) := by
  have hexec : exec (.restore job e) s = .next (beginRestore s k e) := by
    rw [exec_restore, execRestore, hj]
    exact if_pos hp
  obtain ⟨hrestart, hothers, hmem, -⟩ := beginRestore_begins s k he
  exact ⟨_, hexec, congrArg Restart.phase hrestart, congrArg Restart.target hrestart, congrArg Restart.restoreAt hrestart, hothers, hmem⟩

theorem restoreCopyDone_commits {s1 : State} (hp : (ctxOf s k).restart.phase = 3) (hr : s.net.reads.any (fun r => r.ctx == k) = false)
    (hd : restoreData s k = some s1) (hu : s1.mem.upsets = []) : Completes (.restoreCopyDone k) s (fun t =>
      (ctxOf t k).ckpt.committed = some (ctxOf s k).restart.target ∧ (ctxOf t k).statePoison = false ∧ (ctxOf t k).restart.phase ≠ 3) := by
  have hgo : ¬((ctxOf s k).restart.phase ≠ 3 ∨ s.net.reads.any (fun r => r.ctx == k) = true) := by
    rw [hr]
    simp [hp]
  have htarget : (ctxOf s1 k).restart.target = (ctxOf s k).restart.target :=
    (congrArg (fun c : Ctx => c.restart.target) ((Noted.restoreData hd).ctx k) :)
  rw [Completes, exec_restoreCopyDone, execRestoreCopyDone, if_neg hgo, hd]
  refine ⟨_, rfl, ?_⟩
  extract_lets y
  generalize hs2 : setCtx s1 k _ = s2
  have hx := congrArg (fun t => ctxOf t k) hs2
  rw [ctxOf_setCtx] at hx
  have hu2 : s2.mem.upsets = [] := by
    rw [← hs2]
    exact hu
  clear hs2
  obtain ⟨hckpt, hpoison, hphase⟩ := tryDone_keeps hu2 (k := k) (by rw [← hx])
  rw [hckpt, hpoison, ← hx]
  exact ⟨congrArg some htarget, rfl, hphase⟩

theorem restoreCopyDone_waits (hr : s.net.reads.any (fun r => r.ctx == k) = true) :
    Completes (.restoreCopyDone k) s (fun t => t = s) := ⟨s, (exec_restoreCopyDone ..).trans (if_pos (.inr hr)), rfl⟩

theorem restoreCopyDone_ends (hp : (ctxOf s k).restart.phase = 3) (hr : s.net.reads.any (fun r => r.ctx == k) = false)
    (hd : restoreData s k = none) (hu : s.mem.upsets = []) : Completes (.restoreCopyDone k) s (fun t =>
      (ctxOf t k).restart.phase = 0 ∧ (t.obs.log.getLast?.map (fun e => (e.code, e.ctx))) = some (0x0818, k)) := by
  have hgo : ¬((ctxOf s k).restart.phase ≠ 3 ∨ s.net.reads.any (fun r => r.ctx == k) = true) := by
    rw [hr]
    simp [hp]
  rw [Completes, exec_restoreCopyDone, execRestoreCopyDone, if_neg hgo, hd]
  exact ⟨_, rfl, unrecoverable_ends hu ..⟩

theorem restoreDone_keeps {job n : Nat} (hj : jobCtx s job = some k) (hp : (ctxOf s k).restart.phase = 3)
    (hn : (ctxOf s k).restart.restored.elem n = false) : Completes (.restoreDone job n) s (fun t =>
      n ∈ (ctxOf t k).restart.restored ∧ OthersKept s t k ∧ t.mem = s.mem) := by
  have hgo : ¬((ctxOf s k).restart.phase < 3 ∨ (ctxOf s k).restart.restored.elem n = true) := by
    rw [hn, hp]
    decide
  rw [Completes, exec_restoreDone, execRestoreDone, hj]
  dsimp only
  rw [if_neg hgo]
  generalize hs1 : setCtx s k { ctxOf s k with restart := { (ctxOf s k).restart with restored := addNat (ctxOf s k).restart.restored n } } = s1
  have hx : ctxOf s1 k = { ctxOf s k with restart := { (ctxOf s k).restart with restored := addNat (ctxOf s k).restart.restored n } } := by
    rw [← hs1, ctxOf_setCtx]
  have hearly : tryDone s1 k = s1 := if_pos (.inl (by rw [hx, hp]; decide))
  refine ⟨s1, congrArg _ hearly, ?_, ?_, ?_⟩
  · rw [hx]
    exact mem_addNat.2 (.inl rfl)
  · rw [← hs1]
    exact othersKept_setCtx s k _
  · rw [← hs1]
    rfl

theorem resume_resumes {job : Nat} (hj : jobCtx s job = some k) (hp : (ctxOf s k).restart.phase = 4) (hu : s.mem.upsets = []) :
    Completes (.resume job) s (fun t => (ctxOf t k).restart.phase = 0 ∧ (ctxOf t k).stepNo = (ctxOf s k).restart.target ∧
      (∀ v, (trussOf t k v).gen = 0) ∧ (t.obs.log.getLast?.map (fun e => (e.code, e.ctx))) = some (0x0812, k)) := by
  rw [Completes, exec_resume, execResume, hj]
  dsimp only
  rw [if_neg (not_not.2 hp)]
  generalize hs1 : fwSendAll s (kidsOf s k (ownNode0 s)) fwResume [job] = s1
  obtain ⟨_, _, hsent⟩ := hs1 ▸ OnlySends.fwSendAll s (kidsOf s k (ownNode0 s)) fwResume [job]
  have hx : ctxOf s1 k = ctxOf s k := by rw [hsent]; rfl
  have hu1 : s1.mem.upsets = [] := by rw [hsent]; exact hu
  obtain ⟨⟨-, hstep, htruss, hphase, -⟩, hlog⟩ := resumeHere_resumes hu1 k
  refine ⟨_, rfl, hphase, hstep.trans (by rw [hx]), fun v => ?_, hlog⟩
  rw [trussOf, htruss, look_mapTbl _ _ _ _ rfl]
  rfl

theorem replaceWaitExpiry_ends {t0 : Nat} (hr : (ctxOf s k).restart.restoreAt = some t0) (hp : 3 ≤ (ctxOf s k).restart.phase)
    (ht : t0 + (ctxOf s k).ckpt.replaceWait * second ≤ s.clock.ns) (hu : s.mem.upsets = []) :
    Completes (.replaceWaitExpiry k) s (fun t =>
      (ctxOf t k).restart.phase = 0 ∧ (t.obs.log.getLast?.map (fun e => (e.code, e.ctx))) = some (0x0818, k)) := by
  rw [Completes, exec_replaceWaitExpiry, execReplaceWaitExpiry, hr]
  exact ⟨_, if_pos ⟨hp, ht⟩, unrecoverable_ends hu ..⟩

end Restore

/-- Settles O44: a restart's steps keep the checkpoint and the trusses that RESUME sets, and what ends a job is one event. -/
theorem jobRestores : Obligations.JobRestores := by
  unfold Obligations.JobRestores
  intro s k
  exact ⟨fun _ _ => restore_begins, fun _ => restoreCopyDone_commits, fun _ => restoreCopyDone_waits, restoreCopyDone_ends,
    fun _ _ => restoreDone_keeps, fun _ => resume_resumes, fun _ => replaceWaitExpiry_ends⟩

end Sys2Proof.Machine


/-! ## Checkpoints, twins and storage requests -/

namespace Sys2Proof.Machine

/-! ### Snapshots -/

theorem Noted.copyToSlot (s : State) (k slot : Nat) : Noted s (copyToSlot s k slot) :=
  foldl (f := fun t (e : Nat × Nat) => Machine.copyDpa t k (dpaOf (ctxOf s k) e.1) (slotAt (ctxOf s k) slot e.2) 4096) (fun t _ => copyDpa t k ..) _ s

theorem OnlySends.ctxOf {s t : State} (h : OnlySends s t) (k : Nat) : ctxOf t k = Machine.ctxOf s k := by
  obtain ⟨_, _, rfl⟩ := h
  rfl

/-- A snapshot on its way to the twin leaves the checkpoint. -/
theorem startMirror_ckpt (s : State) (k : Nat) (t : Twin) (v : Snapshot) : (ctxOf (startMirror s k t v) k).ckpt = (ctxOf s k).ckpt := by
  unfold startMirror
  extract_lets x slot s1 bs
  clear_value s1 bs
  rw [(OnlySends.enqueue ..).ctxOf, ctxOf_setCtx]

theorem nextMirror_ckpt (s : State) (k : Nat) : (ctxOf (nextMirror s k) k).ckpt = (ctxOf s k).ckpt := by
  unfold nextMirror
  dsimp only
  split
  · split
    · rfl
    · split
      · exact startMirror_ckpt ..
      · rfl
  · rfl

/-- Without a snapshot there is none to mirror. -/
theorem nextMirror_idle {s : State} {k : Nat} (h : (ctxOf s k).ckpt.slots = []) : nextMirror s k = s := by
  unfold nextMirror
  dsimp only
  rw [h]
  split
  · split <;> rfl
  · rfl

/-- Without a snapshot there is none READY. -/
theorem checkReady_idle {s : State} {k : Nat} (h : (ctxOf s k).ckpt.slots = []) : checkReady s k = s := by
  unfold checkReady
  dsimp only
  rw [h]
  rfl

/-! ### Commits -/

/-- An epoch committed: the older snapshots are free, and CHECKPOINT_COMMITTED says so. -/
theorem commitEpoch_commits (s : State) (k e : Nat) :
    (ctxOf (commitEpoch s k e) k).ckpt = { (ctxOf s k).ckpt with
      committed := some e, slots := (ctxOf s k).ckpt.slots.filter (fun v => decide (e ≤ v.epoch))
      readyKids := (ctxOf s k).ckpt.readyKids.filter (fun q => decide (e < q.2)) } ∧
    (commitEpoch s k e).mem = s.mem ∧
    ((commitEpoch s k e).obs.log.getLast?.map (fun v => (v.code, v.ctx))) = some (0x0814, k) := by
  unfold commitEpoch
  extract_lets x _ s1 s2
  have hx : (ctxOf s2 k).ckpt = (ctxOf s1 k).ckpt := (congrArg Ctx.ckpt ((Noted.raise s1 0x0814 clsC k 0 _).ctx k) :)
  have hx1 := congrArg Ctx.ckpt (ctxOf_setCtx s k { x with ckpt := { x.ckpt with
    committed := some e, slots := x.ckpt.slots.filter (fun v => decide (e ≤ v.epoch))
    readyKids := x.ckpt.readyKids.filter (fun q => decide (e < q.2)) } })
  have hlog : s2.obs.log.getLast?.map (fun v => (v.code, v.ctx)) = some (0x0814, k) := congrArg (Option.map _) (raise_last ..)
  have hmem : s2.mem = s.mem := rfl
  clear_value s2
  have hsent := OnlySends.fwSendAll s2 (myKids s2 k) fwCkptCommit [x.jobId, e]
  refine ⟨(congrArg Ctx.ckpt (hsent.ctxOf k)).trans (hx.trans hx1), ?_, ?_⟩
  · obtain ⟨_, _, h⟩ := hsent
    rw [h]
    exact hmem
  · obtain ⟨_, _, h⟩ := hsent
    rw [h]
    exact hlog

/-- Of the snapshots of a context the one of epoch `q` is held, none is being copied, and the others are committed. -/
structure Holds (x : Ckpt) (q : Nat) : Prop where
  copied : x.copying = none
  held : ∃ v ∈ x.slots, v.epoch = q
  others : ∀ v ∈ x.slots, v.epoch = q ∨ x.committed = some v.epoch

/-- A snapshot just taken is held still when it commits at once. -/
theorem checkReady_holds {s : State} {k q : Nat} (h : Holds (ctxOf s k).ckpt q) :
    (ctxOf (checkReady s k) k).ckpt.copying = none ∧ ∃ v ∈ (ctxOf (checkReady s k) k).ckpt.slots, v.epoch = q := by
  obtain ⟨hcopied, ⟨w, hw, hq⟩, hothers⟩ := h
  unfold checkReady
  dsimp only
  split
  · exact ⟨hcopied, w, hw, hq⟩
  next v hv =>
  have hnew : v.epoch = q := by
    have hready := List.find?_some hv
    rw [Bool.and_eq_true, bne_iff_ne] at hready
    exact (hothers v (List.mem_of_find?_eq_some hv)).resolve_right hready.2
  split
  · exact ⟨hcopied, w, hw, hq⟩
  split
  · obtain ⟨hckpt, -, -⟩ := commitEpoch_commits s k v.epoch
    rw [hckpt, hnew]
    exact ⟨hcopied, w, List.mem_filter.2 ⟨hw, by simp [hq]⟩, hq⟩
  split
  · rw [(OnlySends.fwSend ..).ctxOf, ctxOf_setCtx]
    exact ⟨hcopied, w, hw, hq⟩
  · exact ⟨hcopied, w, hw, hq⟩

section Checkpoint
variable {s : State} {k : Nat}

theorem snapshotCopyDone_holds {q : Nat} (hc : (ctxOf s k).ckpt.copying = some q) (hp : (ctxOf s k).restart.phase = 0)
    (ho : (ctxOf s k).ckpt.slots.any (fun v => (ctxOf s k).ckpt.committed != some v.epoch) = false) :
    Completes (.snapshotCopyDone k) s (fun t => (ctxOf t k).ckpt.copying = none ∧ ∃ v ∈ (ctxOf t k).ckpt.slots, v.epoch = q) := by
  have hgo : ¬((ctxOf s k).restart.phase ≠ 0 ∨ (ctxOf s k).ckpt.slots.any (fun v => (ctxOf s k).ckpt.committed != some v.epoch) = true) := by
    rw [ho]
    simp [hp]
  rw [Completes, exec_snapshotCopyDone]
  unfold execSnapshotCopyDone
  dsimp only
  split
  · next hn => cases hc.symm.trans hn
  next q' hq =>
  cases hc.symm.trans hq
  rw [if_neg hgo]
  refine ⟨_, rfl, checkReady_holds ?_⟩
  generalize hs1 : copyToSlot s k _ = s1
  have hckpt : (ctxOf s1 k).ckpt = (ctxOf s k).ckpt := by
    rw [← hs1]
    exact (congrArg Ctx.ckpt ((Noted.copyToSlot s k _).ctx k) :)
  rw [ctxOf_mapCores, nextMirror_ckpt, ctxOf_setCtx]
  refine ⟨rfl, ⟨_, List.mem_append_right _ (List.mem_singleton_self _), rfl⟩, fun v hv => ?_⟩
  rcases List.mem_append.1 hv with hv | hv
  · have hold := List.any_eq_false.1 ho v (hckpt ▸ hv)
    refine .inr ?_
    dsimp only
    rw [hckpt]
    simpa using hold
  · rw [List.mem_singleton.1 hv]
    exact .inl rfl

theorem ckptReady_keeps {job n e : Nat} (hj : jobCtx s job = some k) (hr : (ctxOf s k).ckpt.readyKids.elem (n, e) = false)
    (hn : (kidsOf s k (ownNode0 s)).elem n = true) (hs : (ctxOf s k).ckpt.slots = []) :
    Completes (.ckptReady job n e) s (fun t => OthersKept s t k ∧ t.mem = s.mem ∧ t.net = s.net ∧
      ctxOf t k = { ctxOf s k with ckpt := { (ctxOf s k).ckpt with readyKids := (ctxOf s k).ckpt.readyKids ++ [(n, e)] } }) := by
  have hgo : ¬((ctxOf s k).ckpt.readyKids.elem (n, e) = true ∨ (kidsOf s k (ownNode0 s)).elem n = false) := by
    rw [hr, hn]
    decide
  rw [Completes, exec_ckptReady, execCkptReady, hj]
  dsimp only
  rw [if_neg hgo, checkReady_idle (by rw [ctxOf_setCtx]; exact hs)]
  exact ⟨_, rfl, othersKept_setCtx s k _, rfl, rfl, ctxOf_setCtx ..⟩

theorem ckptCommit_commits {job e : Nat} (hj : jobCtx s job = some k) (hc : (ctxOf s k).ckpt.committed ≠ some e)
    (hr : (ctxOf s k).ckpt.slots.any (fun v => v.epoch == e && v.ready) = true) : Completes (.ckptCommit job e) s (fun t =>
      (ctxOf t k).ckpt.committed = some e ∧ (∀ v ∈ (ctxOf t k).ckpt.slots, e ≤ v.epoch) ∧ t.mem = s.mem ∧
      (t.obs.log.getLast?.map (fun v => (v.code, v.ctx))) = some (0x0814, k)) := by
  have hgo : ¬((ctxOf s k).ckpt.committed = some e ∨ (ctxOf s k).ckpt.slots.any (fun v => v.epoch == e && v.ready) = false) := by
    rw [hr]
    simp [hc]
  rw [Completes, exec_ckptCommit, execCkptCommit, hj]
  dsimp only
  rw [if_neg hgo]
  obtain ⟨hckpt, hmem, hlog⟩ := commitEpoch_commits s k e
  refine ⟨_, rfl, congrArg Ckpt.committed hckpt, fun v hv => ?_, hmem, hlog⟩
  rw [hckpt] at hv
  exact of_decide_eq_true (List.mem_filter.1 hv).2

end Checkpoint

/-! ### Mirrors -/

theorem progressRec_frame (s : State) (op k pos total : Nat) : (progressRec s op k pos total).ctxs = s.ctxs ∧
    (progressRec s op k pos total).mem = s.mem ∧ (progressRec s op k pos total).net.fwTx = s.net.fwTx := by
  refine ⟨rfl, rfl, ?_⟩
  unfold progressRec asyncRec
  dsimp only
  split <;> rfl

section Mirror
variable {s : State} {k : Nat} {x : Twin} {e : Nat}

theorem mirrorWriteDone_announces (hx : (ctxOf s k).twin = some x) (hp : x.paired = true) (hf : x.filling = some (e, false))
    (hs : mirrorSent s k x.node = true) : Completes (.mirrorWriteDone k e) s (fun t =>
      (ctxOf t k).twin = some { x with filling := some (e, true) } ∧ OthersKept s t k ∧ t.mem = s.mem ∧
      t.net.fwTx = s.net.fwTx ++ [(x.node, fwMirror, [(ctxOf s k).jobId, e, stateBytes (ctxOf s k).ckpt.ranges / 64])]) := by
  rw [Completes, exec_mirrorWriteDone]
  unfold execMirrorWriteDone
  dsimp only
  split
  · next hn => cases hx.symm.trans hn
  next x' hx' =>
  cases hx.symm.trans hx'
  rw [if_neg (by rw [hp]; decide), if_pos ⟨hf, hs⟩]
  generalize hs1 : setCtx s k { ctxOf s k with twin := some { x with filling := some (e, true) } } = s1
  generalize hn : stateBytes (ctxOf s k).ckpt.ranges / 64 = n
  obtain ⟨hctxs, hmem, htx⟩ := progressRec_frame (fwSend s1 x.node fwMirror [(ctxOf s k).jobId, e, n]) 4 k 0 n
  obtain ⟨hctxs', hmem', htx'⟩ := progressRec_frame (progressRec (fwSend s1 x.node fwMirror [(ctxOf s k).jobId, e, n]) 4 k 0 n) 4 k n n
  have hctx (j : Nat) : ctxOf (progressRec (progressRec (fwSend s1 x.node fwMirror [(ctxOf s k).jobId, e, n]) 4 k 0 n) 4 k n n) j = ctxOf s1 j := by
    rw [ctxOf, hctxs', hctxs]
    rfl
  refine ⟨_, rfl, ?_, fun j hj => ?_, ?_, ?_⟩
  · rw [hctx, ← hs1, ctxOf_setCtx]
  · rw [hctx, ← hs1, ctxOf_setCtx_other _ _ _ _ hj]
  · rw [hmem', hmem, ← hs1]
    rfl
  · rw [htx', htx, ← hs1]
    rfl

theorem mirrorWriteDone_waits (hx : (ctxOf s k).twin = some x) (hp : x.paired = true) (hs : mirrorSent s k x.node = false)
    (hl : x.landing = none) : Completes (.mirrorWriteDone k e) s (fun t => t = s) := by
  have hgo : ¬(x.filling = some (e, false) ∧ mirrorSent s k x.node = true) := by simp [hs]
  refine ⟨s, (exec_mirrorWriteDone ..).trans ?_, rfl⟩
  rw [execMirrorWriteDone, hx]
  dsimp only
  rw [if_neg (by rw [hp]; decide), if_neg hgo, hl]

theorem mirrorWriteDone_records {i : Nat} (hx : (ctxOf s k).twin = some x) (hp : x.paired = true) (hf : x.filling ≠ some (e, false))
    (hl : x.landing = some i) : Completes (.mirrorWriteDone k e) s (fun t =>
      (ctxOf t k).twin = some { x with mirrors := x.mirrors.set i e, landing := none } ∧ OthersKept s t k ∧ t.mem = s.mem) := by
  have hgo : ¬(x.filling = some (e, false) ∧ mirrorSent s k x.node = true) := fun h => hf h.1
  rw [Completes, exec_mirrorWriteDone]
  unfold execMirrorWriteDone
  dsimp only
  split
  · next hn => cases hx.symm.trans hn
  next x' hx' =>
  cases hx.symm.trans hx'
  rw [if_neg (by rw [hp]; decide), if_neg hgo]
  split
  · next i' hi =>
    cases hl.symm.trans hi
    exact ⟨_, rfl, congrArg Ctx.twin (ctxOf_setCtx ..), othersKept_setCtx s k _, rfl⟩
  · next hn => cases hl.symm.trans hn

/-! ### Heartbeats -/

theorem reserveSlotPage_ctxs {part n : Nat} {e e' : State × List Nat} (h : reserveSlotPage part e n = some e') :
    e'.1.ctxs = e.1.ctxs := by
  unfold reserveSlotPage at h
  dsimp only at h
  split at h <;> cases h
  rfl

theorem reserveMirror_ctxs {s : State} {k : Nat} {t : Twin} {e : State × List (List Nat)} (h : reserveMirror s k t = some e) :
    e.1.ctxs = s.ctxs := by
  unfold reserveMirror at h
  dsimp only at h
  split_ifs at h
  · cases h
    rfl
  · obtain ⟨d, hd, rfl⟩ := Option.map_eq_some_iff.1 h
    exact foldlM_some (P := fun e : State × List Nat => e.1.ctxs = s.ctxs) (fun a b c ha hc => (reserveSlotPage_ctxs hc).trans ha) _ rfl hd

/-- Messages sent to a list of nodes: each of them gets one. -/
theorem foldl_fwSend_mem {kind : Nat} (fields : State → Nat → List Nat) {l : List Nat} {n : Nat} (h : n ∈ l) (s : State) :
    ∃ f, (n, kind, f) ∈ (l.foldl (fun s n => fwSend s n kind (fields s n)) s).net.fwTx := by
  induction l generalizing s with
  | nil => cases h
  | cons m l ih =>
    rcases List.mem_cons.1 h with rfl | h
    · refine ⟨fields s n, List.foldlRecOn (motive := fun t : State => (n, kind, fields s n) ∈ t.net.fwTx) l _ ?_
        fun t ht _ _ => List.mem_append_left _ ht⟩
      exact List.mem_append_right _ (List.mem_singleton_self _)
    · exact ih h _

theorem twinHeartbeatSend_sends (ha : alive s = true) (hs : serves s 1 = true) : Completes .twinHeartbeatSend s (fun t =>
    t.mem = s.mem ∧ t.ctxs = s.ctxs ∧ ∀ j x, j < 64 → (ctxOf s j).twin = some x → ∃ f, (x.node, fwHeartbeat, f) ∈ t.net.fwTx) := by
  have hgo : ¬(alive s = false ∨ serves s 1 = false) := by simp [ha, hs]
  rw [Completes, exec_twinHeartbeatSend, execTwinHeartbeatSend, if_neg hgo]
  extract_lets twins nodes
  have htwins {j : Nat} {x : Twin} (hj : j < 64) (hx : (ctxOf s j).twin = some x) : (j, x) ∈ twins :=
    List.mem_filterMap.2 ⟨j, List.mem_range.2 hj, by rw [hx]; rfl⟩
  have hnodes {e : Nat × Twin} (he : e ∈ twins) : e.2.node ∈ nodes := mem_foldl_addNat (.inl (List.mem_map_of_mem he))
  clear_value twins nodes
  refine ⟨_, rfl, ?_, ?_, fun j x hj hx => foldl_fwSend_mem (fun s n => _) (hnodes (htwins hj hx)) s⟩
  · exact List.foldlRecOn (motive := fun t : State => t.mem = s.mem) _ _ rfl fun _ ht _ _ => ht
  · exact List.foldlRecOn (motive := fun t : State => t.ctxs = s.ctxs) _ _ rfl fun _ ht _ _ => ht

/-- Of steps in turn over numbers, of which only one does anything in the states it meets, that one is all. -/
theorem foldl_only {f : State → Nat → State} {k : Nat} {Q : State → Prop} (hidle : ∀ s j, Q s → j ≠ k → f s j = s) {l : List Nat}
    (hl : l.Nodup) (hk : k ∈ l) {s : State} (hs : Q s) (hQ : Q (f s k)) : l.foldl f s = f s k := by
  have hrest : ∀ (l : List Nat) (t : State), Q t → k ∉ l → l.foldl f t = t := by
    intro l t ht hk
    refine List.foldlRecOn (motive := fun u : State => u = t) l f rfl fun u hu j hj => ?_
    rw [hu]
    exact hidle t j ht fun e => hk (e ▸ hj)
  induction l with
  | nil => cases hk
  | cons j l ih =>
    obtain ⟨hj, hl⟩ := List.nodup_cons.1 hl
    rw [List.foldl_cons]
    rcases List.mem_cons.1 hk with rfl | hk
    · exact hrest l _ hQ hj
    · rw [hidle s j hs fun e => hj (e ▸ hk)]
      exact ih hl hk

theorem beatOf_idle {t : State} {node inc j : Nat} {att : Option Nat} {bs : List BeatCtx} (h : (ctxOf t j).twin = none) :
    beatOf node inc att bs t j = t := by
  unfold beatOf
  dsimp only
  rw [h]

/-- The mirror epochs of a paired twin, where no snapshot waits for them. -/
theorem confirm_pairs {t : State} {b : BeatCtx} (hx : (ctxOf t k).twin = some x) (hp : x.paired = true) (hs : (ctxOf t k).ckpt.slots = []) :
    (ctxOf (confirm t k b) k).twin = some { x with
      lastBeat := t.clock.ns, confirmed := b.mirrors, filling := x.filling.filter (fun f => !b.mirrors.elem f.1) } ∧
    OthersKept t (confirm t k b) k ∧ (confirm t k b).mem = t.mem ∧ (confirm t k b).obs = t.obs := by
  have hfill : (match x.filling with
      | some (e, w) => if b.mirrors.elem e then none else some (e, w)
      | none => none) = x.filling.filter (fun f => !b.mirrors.elem f.1) := by
    cases x.filling with
    | none => rfl
    | some f =>
      obtain ⟨e, w⟩ := f
      rw [Option.filter_some]
      dsimp only
      cases b.mirrors.elem e <;> rfl
  unfold confirm
  dsimp only
  split
  · next hn => cases hx.symm.trans hn
  next x' hx' =>
  cases hx.symm.trans hx'
  rw [if_pos hp]
  generalize hu : setCtx t k _ = u
  have hslots : (ctxOf u k).ckpt.slots = [] := by
    rw [← hu, ctxOf_setCtx]
    dsimp only
    rw [hs]
    rfl
  rw [nextMirror_idle hslots, checkReady_idle hslots, ← hu, ctxOf_setCtx]
  exact ⟨congrArg some (congrArg (fun f => { x with lastBeat := t.clock.ns, confirmed := b.mirrors, filling := f }) hfill),
    othersKept_setCtx t k _, rfl, rfl⟩

end Mirror

/-- The twin of a context paired once room for its mirror is reserved, and TWIN_PAIRED. -/
def pairedIn (s : State) (k inc now : Nat) (x : Twin) (pages : List (List Nat)) : State :=
  raise (setCtx s k { ctxOf s k with twin := some { x with
    paired := true, incarnation := inc, lastBeat := now, reserved := 2 * stateBytes (ctxOf s k).ckpt.ranges
    pages := pages, filling := none } }) 0x0815 clsC k 0 (p4 x.node ++ p4 (nth x.mirrors 0 0) ++ p4 (nth x.mirrors 1 0))

theorem pairUp_paired {s s0 : State} {k : Nat} {x : Twin} {pages : List (List Nat)} (inc : Nat) (he : reserveMirror s k x = some (s0, pages)) :
    OnlySends (pairedIn s0 k inc s.clock.ns x pages) (pairUp s k inc x) := by
  rw [pairUp, he]
  dsimp only
  split
  · exact .fwSend ..
  · exact .refl _

theorem pairedIn_pairs (s : State) (k inc now : Nat) (x : Twin) (pages : List (List Nat)) :
    (∃ y, (ctxOf (pairedIn s k inc now x pages) k).twin = some y ∧ y.paired = true ∧ y.incarnation = inc) ∧
    (ctxOf (pairedIn s k inc now x pages) k).ckpt = (ctxOf s k).ckpt ∧ OthersKept s (pairedIn s k inc now x pages) k ∧
    ((pairedIn s k inc now x pages).obs.log.getLast?.map (fun e => (e.code, e.ctx))) = some (0x0815, k) := by
  have hothers : OthersKept s (pairedIn s k inc now x pages) k := fun j hj =>
    (ctxOf_raise_other _ _ _ _ _ _ _ hj).trans (ctxOf_setCtx_other _ _ _ _ hj)
  have hlog := congrArg (Option.map fun e => (e.code, e.ctx)) (raise_last (setCtx s k { ctxOf s k with twin := some { x with
    paired := true, incarnation := inc, lastBeat := now, reserved := 2 * stateBytes (ctxOf s k).ckpt.ranges
    pages := pages, filling := none } }) 0x0815 clsC k 0 (p4 x.node ++ p4 (nth x.mirrors 0 0) ++ p4 (nth x.mirrors 1 0)))
  have hnoted : OnlyNoted _ (ctxOf (pairedIn s k inc now x pages) k) := (Noted.raise ..).ctx k
  rw [ctxOf_setCtx] at hnoted
  exact ⟨⟨_, (congrArg Ctx.twin hnoted :), rfl, rfl⟩, (congrArg Ctx.ckpt hnoted :), hothers, hlog⟩

/-- A pairing that finds room for the mirror: the twin is paired in the incarnation it gave, and TWIN_PAIRED says so. -/
theorem pairUp_pairs {s : State} {k : Nat} {x : Twin} (inc : Nat) (hr : (reserveMirror s k x).isSome = true) :
    (∃ y, (ctxOf (pairUp s k inc x) k).twin = some y ∧ y.paired = true ∧ y.incarnation = inc) ∧
    (ctxOf (pairUp s k inc x) k).ckpt = (ctxOf s k).ckpt ∧ OthersKept s (pairUp s k inc x) k ∧
    ((pairUp s k inc x).obs.log.getLast?.map (fun e => (e.code, e.ctx))) = some (0x0815, k) := by
  obtain ⟨⟨s0, pages⟩, he⟩ := Option.isSome_iff_exists.1 hr
  have hctx (j : Nat) : ctxOf s0 j = ctxOf s j := by rw [ctxOf, reserveMirror_ctxs he, ctxOf]
  obtain ⟨htwin, hckpt, hothers, hlog⟩ := pairedIn_pairs s0 k inc s.clock.ns x pages
  obtain ⟨_, _, hsent⟩ := pairUp_paired inc he
  rw [hsent]
  exact ⟨htwin, hckpt.trans (congrArg Ctx.ckpt (hctx k)), fun j hj => (hothers j hj).trans (hctx j), hlog⟩

section Heartbeat
variable {s : State} {k : Nat} {x : Twin} {inc : Nat} {att : Option Nat} {bs : List BeatCtx} {b : BeatCtx}
variable (hk : k < 64) (hothers : ∀ j, j ≠ k → (ctxOf s j).twin = none) (hx : (ctxOf s k).twin = some x) (ha : alive s = true)
  (hserve : serves s 1 = true) (hb : bs.find? (fun y => y.jobId == (ctxOf s k).jobId) = some b) (hs : (ctxOf s k).ckpt.slots = [])
include hk hothers hx ha hserve hb hs

omit hk hothers ha hserve hs in
/-- What a heartbeat of its twin does to a context that it names. -/
theorem beatOf_named : beatOf x.node inc att bs s k =
    confirm (if x.paired = false ∨ x.incarnation ≠ inc then pairing s k inc att x else s) k b := by
  unfold beatOf
  dsimp only
  split
  · next hn => cases hx.symm.trans hn
  next x' hx' =>
  cases hx.symm.trans hx'
  rw [if_neg (not_not.2 rfl), hb]

omit hx hb hs in
/-- A heartbeat of a node that is the twin of one context alone. -/
theorem heartbeat_alone {node : Nat} (hkeep : OthersKept s (beatOf node inc att bs s k) k) :
    exec (.twinHeartbeatReceive node inc att bs) s = .next (beatOf node inc att bs s k) := by
  have hgo : ¬(alive s = false ∨ serves s 1 = false) := by simp [ha, hserve]
  rw [exec_twinHeartbeatReceive, execTwinHeartbeatReceive, if_neg hgo]
  refine congrArg _ (foldl_only (Q := fun t : State => ∀ j, j ≠ k → (ctxOf t j).twin = none) (fun t j ht hj => beatOf_idle (ht j hj))
    List.nodup_range (List.mem_range.2 hk) hothers fun j hj => ?_)
  rw [hkeep j hj]
  exact hothers j hj

theorem heartbeat_confirms (hp : x.paired = true) (hi : x.incarnation = inc) :
    Completes (.twinHeartbeatReceive x.node inc att bs) s (fun t => (ctxOf t k).twin = some { x with
      lastBeat := s.clock.ns, confirmed := b.mirrors, filling := x.filling.filter (fun f => !b.mirrors.elem f.1) } ∧ t.mem = s.mem) := by
  have hbeat : beatOf x.node inc att bs s k = confirm s k b := by
    rw [beatOf_named hx hb, if_neg (by simp [hp, hi])]
  obtain ⟨htwin, hkeep, hmem, -⟩ := confirm_pairs (b := b) hx hp hs
  rw [← hbeat] at htwin hkeep hmem
  exact ⟨_, heartbeat_alone hk hothers ha hserve hkeep, htwin, hmem⟩

theorem heartbeat_pairs (hp : x.paired = false) (hatt : att = none) (hok : s.sec.attestOk = true) (hr : (reserveMirror s k x).isSome = true) :
    Completes (.twinHeartbeatReceive x.node inc att bs) s (fun t =>
      (∃ y, (ctxOf t k).twin = some y ∧ y.paired = true ∧ y.incarnation = inc ∧ y.confirmed = b.mirrors) ∧
      t.mem.cells = s.mem.cells ∧ (t.obs.log.getLast?.map (fun e => (e.code, e.ctx))) = some (0x0815, k)) := by
  have hbeat : beatOf x.node inc att bs s k = confirm (pairUp s k inc x) k b := by
    have hpair : pairing s k inc att x = pairUp s k inc x := by
      subst hatt
      exact if_neg (by rw [hok]; decide)
    rw [beatOf_named hx hb, if_pos (.inl hp), hpair]
  obtain ⟨⟨y, hy, hyp, hyi⟩, hckpt, hothers', hlog⟩ := pairUp_pairs inc hr
  obtain ⟨htwin, hkeep, hmem, hobs⟩ := confirm_pairs (b := b) hy hyp (by rw [hckpt]; exact hs)
  rw [← hbeat] at htwin hkeep hmem hobs
  refine ⟨_, heartbeat_alone hk hothers ha hserve fun j hj => (hkeep j hj).trans (hothers' j hj), ⟨_, htwin, hyp, hyi, rfl⟩, ?_, ?_⟩
  · rw [hmem, pairUp_cells]
  · rw [hobs]
    exact hlog

end Heartbeat

section Twins
variable {s : State} {k : Nat}

theorem twinLost_unpairs {x : Twin} (hx : (ctxOf s k).twin = some x) (hp : x.paired = true) (ht : x.lastBeat + 10000000 ≤ s.clock.ns) :
    Completes (.twinLost k) s (fun t => (ctxOf t k).twin = some { x with paired := false } ∧ t.mem = s.mem ∧
      (t.obs.log.getLast?.map (fun e => (e.code, e.ctx))) = some (0x0816, k)) := by
  have hgo : ¬(x.paired = false ∨ s.clock.ns < x.lastBeat + 10000000) := by
    rw [hp]
    simp only [Bool.true_eq_false, false_or]
    omega
  rw [Completes, exec_twinLost]
  unfold execTwinLost
  split
  · next hn => cases hx.symm.trans hn
  next x' hx' =>
  cases hx.symm.trans hx'
  rw [if_neg hgo]
  extract_lets _ s1
  have hx1 : (ctxOf s1 k).twin = some { x with paired := false } := congrArg Ctx.twin (ctxOf_setCtx ..)
  have hmem : s1.mem = s.mem := rfl
  clear_value s1
  exact ⟨_, rfl, ((congrArg Ctx.twin ((Noted.raise s1 ..).ctx k) :)).trans hx1, hmem, congrArg (Option.map _) (raise_last ..)⟩

theorem storageDone_leaves {r : StorReq} {seq st n : Nat} (hr : (ctxOf s k).storage.find? (fun r => r.seq == seq) = some r)
    (ht : r.truss = 0) (hst : r.read = false ∨ st = 0) : Completes (.storageDone k seq st n) s (fun t =>
      (ctxOf t k).storage = (ctxOf s k).storage.erase r ∧ t.mem = s.mem ∧ t.cores = s.cores) := by
  have hgood : ¬(r.read = true ∧ st ≠ 0) := by rcases hst with h | h <;> simp [h]
  rw [Completes, exec_storageDone]
  unfold execStorageDone
  split
  · next hn => cases hr.symm.trans hn
  next r' hr' =>
  cases hr.symm.trans hr'
  dsimp only
  rw [if_neg hgood, storArrive, if_pos ht]
  exact ⟨_, rfl, congrArg Ctx.storage (ctxOf_setCtx ..), rfl, rfl⟩

end Twins

/-- Settles O45: a snapshot and a commit write the checkpoint, a heartbeat the one context it names, and mirrors go out as messages. -/
theorem checkpointsAndTwins : Obligations.CheckpointsAndTwins := by
  unfold Obligations.CheckpointsAndTwins
  intro s k
  refine ⟨fun _ => snapshotCopyDone_holds, fun _ _ _ => ckptReady_keeps, fun _ _ => ckptCommit_commits,
    fun x e hx hp hf => ⟨mirrorWriteDone_announces hx hp hf, mirrorWriteDone_waits hx hp⟩, fun _ _ _ => mirrorWriteDone_records,
    twinHeartbeatSend_sends, fun x inc att bs b hk ho hx ha hv hb hs => ⟨heartbeat_confirms hk ho hx ha hv hb hs, heartbeat_pairs hk ho hx ha hv hb hs⟩,
    fun _ => twinLost_unpairs, fun _ _ _ _ => storageDone_leaves⟩

end Sys2Proof.Machine
